-- ==== Sys2Proof/Word.lean ====
section
/-! DEFINITION. The word types of the Catinil and their plainest arithmetic (R5: little-endian, bit 0 least significant). -/

namespace Sys2Proof

/-- One byte. -/
abbrev Byte := BitVec 8
/-- A register, a descriptor word, a scalar register (R5). -/
abbrev Word := BitVec 64
/-- A vector register lane (R141). -/
abbrev Lane := BitVec 32

/-- Bits `[hi:lo]` of a natural number (R5). -/
def bits (v hi lo : Nat) : Nat := (v / 2 ^ lo) % 2 ^ (hi + 1 - lo)

/-- Bit `i` of a natural number. -/
def bit (v i : Nat) : Bool := (v / 2 ^ i) % 2 == 1

/-- 1 for true, 0 for false. -/
def b2n (b : Bool) : Nat := if b then 1 else 0

end Sys2Proof
end

