-- ==== Sys2Proof/Syntax.lean ====
section
/-! DEFINITION. The commands of the block: one constructor of `Instr` per row of spec/opcode_table.json, in the table's
order. The table gives no operands; each constructor's docstring says what its operands name. Partitions are named by
the number of their LOWEST DIE (0 to 7), which a change of layout does not renumber (R17). Ring pairs are named by one
number: host pair k of port q is 1024·q + k, device pair k of the partition at die a is 4096 + 256·a + k. Physical CE k
of die n is 26·n + k. -/

namespace Sys2Proof

/-- Who makes a register access (R471). -/
inductive Party where
  /-- firmware on a running Arbiter pair -/
  | firmware (pair : Nat)
  /-- a resident core, by its logical number (R224) -/
  | core (hart : Nat)
  /-- the core monitor of a logical core (M-mode) -/
  | monitor (hart : Nat)
  /-- a host, through BAR0 of port Hn -/
  | host (port : Nat)
  deriving DecidableEq, Repr

/-- Which stream of a launch member issues an engine instruction (R138, R139, R141). -/
inductive Issuer where
  /-- the control stream of member `m` of launch `l` -/
  | control (l m : Nat)
  /-- cohort `c` of member `m` of launch `l` -/
  | cohort (l m c : Nat)
  deriving DecidableEq, Repr

/-- The transport header of an Igsuren packet, the fields a receiver reads (R360). -/
structure Packet where
  port : Nat
  hint : Nat
  ef : Nat
  retx : Bool
  psn : Nat
  srcNode : Nat
  dstNode : Nat
  srcEpoch : Nat
  dstEpoch : Nat
  addr : Nat
  cmdId : Nat
  segOff : Nat
  cmdLen : Nat
  payload : List Byte
  deriving DecidableEq, Repr

/-- The verdict of the security engine on one signed object (R388): what verification found. The cryptography itself
is outside the model, so its result is an operand. -/
inductive SigResult where
  | valid
  | rsaFailed
  | slhFailed
  | unknownKey
  | badHeader
  deriving DecidableEq, Repr

/-- Firmware image header fields that the rules read (R396). -/
structure ImageHdr where
  size : Nat
  svn : Nat
  stateVer : Nat
  stateMin : Nat
  fwiMaj : Nat
  fwiMinLo : Nat
  fwiMinHi : Nat
  entry : Nat
  digest : BitVec 384
  deriving DecidableEq, Repr

/-- Hand-off table fields (R232) with the verdict on its signatures. -/
structure Handoff where
  sig : SigResult
  fwiMin : Nat
  fwiMaj : Nat
  imageSize : Nat
  loadOff : Nat
  entryOff : Nat
  imageDigest : BitVec 384
  partition : Nat
  startAll : Bool
  deriving DecidableEq, Repr

/-- Part Record fields (R390). `reserved` is true when a reserved field is nonzero. -/
structure PartRecord where
  sig : SigResult
  deviceId : BitVec 384
  serial : Nat
  part : Nat
  stepping : Nat
  blitzMax : Nat
  pciVid : Nat
  pciDid : Nat
  powerW : Nat
  tjTripC : Nat
  ceSpares : List (Nat × Nat)
  coreSpares : List Nat
  ceMapout : List Nat
  coreMapout : List Nat
  hbmRetired : List Nat
  vmin : List Nat
  repairs : List (Nat × Nat × Nat)
  reserved : Bool
  deriving DecidableEq, Repr

/-- Owner Record fields (R392). -/
structure OwnerRecord where
  sig : SigResult
  serial : Nat
  operatorKey : BitVec 384
  mgmtPorts : Nat
  deriving DecidableEq, Repr

/-- A request to write the boot flash (R387). -/
inductive FlashWrite where
  | ownerRecord (r : OwnerRecord)
  | image (sig : SigResult) (h : ImageHdr)
  | handoff (slot : Nat) (h : Handoff)
  | partRecord (r : PartRecord)
  | factoryRegion (offset : Nat)
  deriving DecidableEq, Repr

/-- What an uncorrectable or correctable error of a slice word hits (R281). -/
inductive SliceErr where
  | corrected
  | cleanData
  | dirtyData
  | directory
  | wayFailing
  /-- what a demand transfer of the line from or to HBM met (R292): bursts corrected, link retries, and whether its granule is
  uncorrectable -/
  | transfer (corrected retries : Nat) (bad : Bool)
  deriving DecidableEq, Repr

/-- The kind of a cached-data error of a resident core (R226). -/
inductive CoreErr where
  | corrected
  | clean
  | dirty
  deriving DecidableEq, Repr

/-- How a page of a resident core treats main memory (Svpbmt, R252): cacheable, or NC and IO, which are uncached. -/
inductive MemAttr where
  | pma | nc | io
  deriving DecidableEq, Repr

/-- What a resident core's instruction does with the memory it asks for. Registers are integer registers x0 to x31, or vector registers
for the paired accesses of R259 (`vle64.v` and `vse64.v` with vl = 2); sizes are in bytes; `fn` of an AMO is numbered as SAMO's (R150). -/
inductive CoreOp where
  | load (size : Nat) (signed : Bool) (rd : Nat)
  | fetch
  | pairLoad (vd : Nat)
  | lr (size rd : Nat)
  | store (size rs : Nat)
  | pairStore (vs : Nat)
  | sc (size rd rs : Nat)
  | amo (fn size rd rs : Nat)
  | casq (rd rs : Nat)
  deriving DecidableEq, Repr

/-- A memory access of a resident core: its operation, its physical address, the attribute of its page, and the length of its
instruction, by which the pc moves on. -/
structure CoreAcc where
  op : CoreOp
  addr : Nat
  attr : MemAttr
  len : Nat
  deriving DecidableEq, Repr

/-- A request of an agent for a line (R265): the line, and the access of the core that needs it, where there is one. -/
structure LineReq where
  line : Nat
  acc : Option CoreAcc
  deriving DecidableEq, Repr

/-- The answer to a sequencer cache's miss (R104): the CE, and the lines of its cache that parity errors have hit since the last one:
context, AVA, and true for an instruction line (R107). -/
structure FillReturn where
  ce : Nat
  bad : List (Nat × Nat × Bool)
  deriving DecidableEq, Repr

/-- A call of the core monitor by number (R234): the calling hart and a7. -/
structure VersionCall where
  hart : Nat
  fn : Nat
  deriving DecidableEq, Repr

/-- The compact shadow areas that firmware has pinned in the partition at a die: DPA[47:0] and bytes of each (R216). -/
structure AreaReport where
  part : Nat
  areas : List (Nat × Nat)
  deriving DecidableEq, Repr

/-- The verdict of one screening pass (R434): what the digests of the suite showed. -/
inductive PassResult where
  | matches
  | differs
  deriving DecidableEq, Repr

/-- The commands (spec/opcode_table.json, in its order). Each docstring gives the row's mnemonic, its rule and what the
operands name. -/
inductive Instr where
  /-- PTP_SAMPLE (R63): a sample from fabric port Fport that says Board Time is `offset` ns behind the master -/
  | ptpSample (port : Nat) (offset : Int)
  /-- PPS_EDGE (R61): a PPS_IN pulse of the given width whose edge says Board Time is `offset` ns behind it -/
  | ppsEdge (offset : Int) (widthNs : Nat)
  /-- SOURCE_LOST (R59): source 1 (PTP) or 2 (PPS) reaches its loss time -/
  | sourceLost (src : Nat)
  /-- STEP_REQ (R65): a write of `BTM.CTRL` with STEP_REQ set -/
  | stepReq (p : Party) (v : Word)
  /-- TOD_WRITE (R61): the tray controller's I3C write of `BTM.TOD` -/
  | todWrite (v : Word)
  /-- COARSE_BUCKET_CURRENT (R67): on wheel 0-7 (Sequence Engine) or 8 (Arbiter) the coarse bucket of the present Board Time -/
  | coarseBucketCurrent (wheel : Nat)
  /-- EW_SLOT_WRITE (R71): a write of `EW_SLOTn` of the wheel -/
  | ewSlotWrite (p : Party) (wheel n : Nat) (v : Word)
  /-- EW_NEXT_WRITE (R71): a write of `EW_NEXTn` of the wheel -/
  | ewNextWrite (p : Party) (wheel n : Nat) (v : Word)
  /-- FIRMWARE_TIMER (R71): slot n of the wheel, owned as a firmware timer -/
  | firmwareTimer (wheel n : Nat)
  /-- FLAG_CHECK (R73): the flag check of a sequence slot -/
  | flagCheck (slot : Nat)
  /-- LEVEL3_CHECK (R76): the level-3 check of a sequence slot -/
  | level3Check (slot : Nat)
  /-- ADMIT (R31): the CONTEXT descriptor next to be dispatched on the pair, OP 1 -/
  | admitContext (pair : Nat)
  /-- CONTEXT_CLOSE (R37): the CONTEXT descriptor next to be dispatched on the pair, OP 2 -/
  | contextClose (pair : Nat)
  /-- SET_QUOTA (R36): the CONTEXT descriptor next to be dispatched on the pair, OP 3 -/
  | setQuota (pair : Nat)
  /-- GRANT (R331): the CONTEXT descriptor next to be dispatched on the pair, OP 4 -/
  | grant (pair : Nat)
  /-- REVOKE (R344): the CONTEXT descriptor next to be dispatched on the pair, OP 5 -/
  | revoke (pair : Nat)
  /-- SQ_DOORBELL (R339): a write of `size` bytes at `offset` of the pair's submission doorbell page -/
  | sqDoorbell (pair offset size : Nat) (w : Word)
  /-- CQ_DOORBELL (R339): a write of `size` bytes at `offset` of the pair's completion doorbell page -/
  | cqDoorbell (pair offset size : Nat) (w : Word)
  /-- DESC_FETCH (R337): the pair's next descriptor; `host` is what the slots hold in host memory (a device ring is read from device memory) -/
  | descFetch (pair : Nat) (host : List Byte)
  /-- HEADER_REREAD (R338): the next re-read of a header that was not current -/
  | headerReread (pair : Nat) (host : List Byte)
  /-- LAUNCH (R341): the LAUNCH descriptor next to be dispatched on the pair -/
  | launch (pair : Nat)
  /-- LAUNCH_PLACE (R44): launch number l -/
  | launchPlace (l : Nat)
  /-- LAUNCH_COMPLETE (R46): launch number l -/
  | launchComplete (l : Nat)
  /-- HOST_IN (R342): the HOST_IN descriptor next to be dispatched on the pair -/
  | hostIn (pair : Nat)
  /-- HOST_OUT (R342): the HOST_OUT descriptor next to be dispatched on the pair -/
  | hostOut (pair : Nat)
  /-- HOST_TRANSFER_COMPLETE (R245): host transfer x; `host` is what its host buffer holds -/
  | hostTransferComplete (x : Nat) (host : List Byte)
  /-- COMPLETION_RING_ROOM (R346): the oldest post that waits for room in the pair's completion ring -/
  | completionRingRoom (pair : Nat)
  /-- ATTACH_GO (R332): a write of the pair's ATTACH register with GO set -/
  | attachGo (p : Party) (pair : Nat) (v : Word)
  /-- DETACH (R351): a write of the pair's ATTACH register with DETACH set -/
  | detach (p : Party) (pair : Nat) (v : Word)
  /-- REARM (R338): a write of the pair's ATTACH register with REARM set -/
  | rearm (p : Party) (pair : Nat) (v : Word)
  /-- LINK_DOWN (R349): host port Hport -/
  | linkDown (port : Nat)
  /-- HOT_RESET (R349): host port Hport -/
  | hotReset (port : Nat)
  /-- FUNCTION_LEVEL_RESET (R349): host port Hport -/
  | functionLevelReset (port : Nat)
  /-- BUS_MASTER_ENABLE_CLEARED (R349): host port Hport -/
  | busMasterEnableCleared (port : Nat)
  /-- COMPLETION_TIMEOUT (R349): the host transfer whose read of host memory timed out -/
  | completionTimeout (x : Nat)
  /-- LINK_RETRAIN (R348): host port Hport settles at the width, rate code and L0p width -/
  | linkRetrain (port width rate l0p : Nat)
  /-- SOP (R148): the instruction word the fetch delivered -/
  | sop (i : Issuer) (w : Word)
  /-- SOPI (R148): the instruction word the fetch delivered -/
  | sopi (i : Issuer) (w : Word)
  /-- SLD (R150): the instruction word; `parity` is true when the cache line read shows a parity error (R107) -/
  | sld (i : Issuer) (w : Word) (parity : Bool)
  /-- SST (R102): the instruction word; `parity` as for `sld` -/
  | sst (i : Issuer) (w : Word) (parity : Bool)
  /-- SLDL (R150): the instruction word the fetch delivered -/
  | sldl (i : Issuer) (w : Word)
  /-- SSTL (R150): the instruction word the fetch delivered -/
  | sstl (i : Issuer) (w : Word)
  /-- SAMO (R150): the instruction word the fetch delivered -/
  | samo (i : Issuer) (w : Word)
  /-- SBR (R148): the instruction word the fetch delivered -/
  | sbr (i : Issuer) (w : Word)
  /-- SJAL (R148): the instruction word the fetch delivered -/
  | sjal (i : Issuer) (w : Word)
  /-- SJR (R148): the instruction word the fetch delivered -/
  | sjr (i : Issuer) (w : Word)
  /-- SQC_FILL_RETURN (R104): the outstanding miss of the CE's sequencer cache, and the lines that parity errors have hit -/
  | sqcFillReturn (fill : FillReturn)
  /-- VRUN (R139): the instruction word the fetch delivered -/
  | vrun (i : Issuer) (w : Word)
  /-- VWAIT (R139): the instruction word the fetch delivered -/
  | vwait (i : Issuer) (w : Word)
  /-- GBAR (R161): the instruction word the fetch delivered -/
  | gbar (i : Issuer) (w : Word)
  /-- GBAR_COMPLETE (R161): the group barrier of launch l -/
  | gbarComplete (l : Nat)
  /-- END (R148): the instruction word the fetch delivered -/
  | endMember (i : Issuer) (w : Word)
  /-- WAITQ (R156): the instruction word the fetch delivered -/
  | waitq (i : Issuer) (w : Word)
  /-- TWAIT (R148): the instruction word the fetch delivered -/
  | twait (i : Issuer) (w : Word)
  /-- FENCE (R157): the instruction word the fetch delivered -/
  | fence (i : Issuer) (w : Word)
  /-- CINV (R148): the instruction word the fetch delivered -/
  | cinv (i : Issuer) (w : Word)
  /-- FSTAT (R126): the instruction word the fetch delivered -/
  | fstat (i : Issuer) (w : Word)
  /-- BTRD (R148): the instruction word the fetch delivered -/
  | btrd (i : Issuer) (w : Word)
  /-- BTWAIT (R164): the instruction word the fetch delivered -/
  | btwait (i : Issuer) (w : Word)
  /-- SIGNAL (R165): the instruction word the fetch delivered -/
  | signal (i : Issuer) (w : Word)
  /-- MAILBOX_ROOM (R236): the doorbell post of member m of launch l that waits for room -/
  | mailboxRoom (l m : Nat)
  /-- VIOP (R148): the instruction word the fetch delivered -/
  | viop (i : Issuer) (w : Word)
  /-- VIOPI (R148): the instruction word the fetch delivered -/
  | viopi (i : Issuer) (w : Word)
  /-- VICMP (R148): the instruction word the fetch delivered -/
  | vicmp (i : Issuer) (w : Word)
  /-- VSEL (R148): the instruction word the fetch delivered -/
  | vsel (i : Issuer) (w : Word)
  /-- VFOP (R131): the instruction word the fetch delivered -/
  | vfop (i : Issuer) (w : Word)
  /-- VFMA (R131): the instruction word the fetch delivered -/
  | vfma (i : Issuer) (w : Word)
  /-- VFCMP (R148): the instruction word the fetch delivered -/
  | vfcmp (i : Issuer) (w : Word)
  /-- VSF (R133): the instruction word the fetch delivered -/
  | vsf (i : Issuer) (w : Word)
  /-- VCVT (R132): the instruction word the fetch delivered -/
  | vcvt (i : Issuer) (w : Word)
  /-- VLD (R151): the instruction word the fetch delivered -/
  | vld (i : Issuer) (w : Word)
  /-- VST (R151): the instruction word the fetch delivered -/
  | vst (i : Issuer) (w : Word)
  /-- VLDC (R148): the instruction word the fetch delivered -/
  | vldc (i : Issuer) (w : Word)
  /-- VSTC (R148): the instruction word the fetch delivered -/
  | vstc (i : Issuer) (w : Word)
  /-- VLATOM (R151): the instruction word the fetch delivered -/
  | vlatom (i : Issuer) (w : Word)
  /-- BAR (R153): the instruction word the fetch delivered -/
  | bar (i : Issuer) (w : Word)
  /-- VOTE (R148): the instruction word the fetch delivered -/
  | vote (i : Issuer) (w : Word)
  /-- VSHFL (R148): the instruction word the fetch delivered -/
  | vshfl (i : Issuer) (w : Word)
  /-- VBR (R152): the instruction word the fetch delivered -/
  | vbr (i : Issuer) (w : Word)
  /-- VEND (R139): the instruction word the fetch delivered -/
  | vend (i : Issuer) (w : Word)
  /-- TBIND (R146): the instruction word the fetch delivered -/
  | tbind (i : Issuer) (w : Word)
  /-- TENSOR_UNIT_GRANT (R97): the CE whose tensor unit is free and has a waiting launch -/
  | tensorUnitGrant (ce : Nat)
  /-- MMA (R154): the instruction word the fetch delivered -/
  | mma (i : Issuer) (w : Word)
  /-- TRD (R155): the instruction word the fetch delivered -/
  | trd (i : Issuer) (w : Word)
  /-- CBLD (R117): the instruction word the fetch delivered -/
  | cbld (i : Issuer) (w : Word)
  /-- GET (R160): the instruction word the fetch delivered -/
  | get (i : Issuer) (w : Word)
  /-- PUT (R160): the instruction word the fetch delivered -/
  | put (i : Issuer) (w : Word)
  /-- GATHER (R160): the instruction word the fetch delivered -/
  | gather (i : Issuer) (w : Word)
  /-- SCATTER (R160): the instruction word the fetch delivered -/
  | scatter (i : Issuer) (w : Word)
  /-- RED (R272): the instruction word the fetch delivered -/
  | red (i : Issuer) (w : Word)
  /-- FILL (R160): the instruction word the fetch delivered -/
  | fill (i : Issuer) (w : Word)
  /-- KVG (R188): the instruction word the fetch delivered -/
  | kvg (i : Issuer) (w : Word)
  /-- KVA (R190): the instruction word the fetch delivered -/
  | kva (i : Issuer) (w : Word)
  /-- LCHK (R192): the instruction word the fetch delivered -/
  | lchk (i : Issuer) (w : Word)
  /-- XDISP (R193): the instruction word the fetch delivered -/
  | xdisp (i : Issuer) (w : Word)
  /-- HELD_ANSWER_DECIDED (R192): answer `idx` of command c, held so far -/
  | heldAnswerDecided (c idx : Nat)
  /-- COMMAND_COMPLETE (R241): DMA or Sequence Engine command c -/
  | commandComplete (c : Nat)
  /-- OPEN (R176): the SEQUENCE descriptor next to be dispatched on the pair, OP 0x01 -/
  | seqOpen (pair : Nat)
  /-- STEP (R179): the SEQUENCE descriptor next to be dispatched on the pair, OP 0x02 -/
  | seqStep (pair : Nat)
  /-- STEP_END (R180): the SEQUENCE descriptor next to be dispatched on the pair, OP 0x03 -/
  | stepEnd (pair : Nat)
  /-- ADJOURN (R184): the SEQUENCE descriptor next to be dispatched on the pair, OP 0x04 -/
  | adjourn (pair : Nat)
  /-- RESUME (R184): the SEQUENCE descriptor next to be dispatched on the pair, OP 0x05 -/
  | resume (pair : Nat)
  /-- CLOSE (R183): the SEQUENCE descriptor next to be dispatched on the pair, OP 0x06 -/
  | seqClose (pair : Nat)
  /-- SHARE (R182): the SEQUENCE descriptor next to be dispatched on the pair, OP 0x07 -/
  | share (pair : Nat)
  /-- EXTEND (R176): the SEQUENCE descriptor next to be dispatched on the pair, OP 0x08 -/
  | extend (pair : Nat)
  /-- QUERY (R177): the SEQUENCE descriptor next to be dispatched on the pair, OP 0x09 -/
  | query (pair : Nat)
  /-- POOL_GROW (R175): the SEQUENCE descriptor next to be dispatched on the pair, OP 0x10 -/
  | poolGrow (pair : Nat)
  /-- POOL_SHRINK (R177): the SEQUENCE descriptor next to be dispatched on the pair, OP 0x11 -/
  | poolShrink (pair : Nat)
  /-- HELD_REQUEST_RELEASE (R178): the oldest held request of the sequence slot -/
  | heldRequestRelease (slot : Nat)
  /-- KV_MOVE_COMMIT (R174): KV block move or copy mv -/
  | kvMoveCommit (mv : Nat)
  /-- PROMOTE (R220): the TIER descriptor next to be dispatched on the pair, OP 0x01 -/
  | promote (pair : Nat)
  /-- DEMOTE (R220): the TIER descriptor next to be dispatched on the pair, OP 0x02 -/
  | demote (pair : Nat)
  /-- WINDOW_SET (R209): the TIER descriptor next to be dispatched on the pair, OP 0x03 -/
  | windowSet (pair : Nat)
  /-- WINDOW_ARM (R210): the TIER descriptor next to be dispatched on the pair, OP 0x04 -/
  | windowArm (pair : Nat)
  /-- WINDOW_CLEAR (R220): the TIER descriptor next to be dispatched on the pair, OP 0x05 -/
  | windowClear (pair : Nat)
  /-- ENTRY_RESET (R218): the TIER descriptor next to be dispatched on the pair, OP 0x06 -/
  | entryReset (pair : Nat)
  /-- TIER_QUERY (R220): the TIER descriptor next to be dispatched on the pair, OP 0x07 -/
  | tierQuery (pair : Nat)
  /-- MOVE_HOLD (R221): the TIER descriptor next to be dispatched on the pair, OP 0x08 -/
  | moveHold (pair : Nat)
  /-- MOVE_RELEASE (R221): the TIER descriptor next to be dispatched on the pair, OP 0x09 -/
  | moveRelease (pair : Nat)
  /-- PAGE_POOL_GROW (R220): the TIER descriptor next to be dispatched on the pair, OP 0x10 -/
  | pagePoolGrow (pair : Nat)
  /-- PAGE_POOL_SHRINK (R220): the TIER descriptor next to be dispatched on the pair, OP 0x11 -/
  | pagePoolShrink (pair : Nat)
  /-- WINDOW_PASS_START (R210): the window of MODEL in the partition at die a -/
  | windowPassStart (a model : Nat)
  /-- WINDOW_ENTRY_START (R212): entry e of that window -/
  | windowEntryStart (a model e : Nat)
  /-- WINDOW_ENTRY_LEAVE (R211): entry e of that window -/
  | windowEntryLeave (a model e : Nat)
  /-- PROMOTION_DEADLINE (R213): entry e of that window -/
  | promotionDeadline (a model e : Nat)
  /-- MOVER_BURST (R205): the mover of die ADdie at a burst boundary -/
  | moverBurst (die : Nat)
  /-- STARVATION_HORIZON (R206): background move mv -/
  | starvationHorizon (mv : Nat)
  /-- MOVE_COMMIT (R198): page move mv -/
  | moveCommit (mv : Nat)
  /-- WIPE_DONE (R37): wipe x -/
  | wipeDone (x : Nat)
  /-- HART_LOST (R228): physical core -/
  | hartLost (core : Nat)
  /-- VERSION (R234): the calling hart and a7: 1, or a number that no function has -/
  | fwiVersion (call : VersionCall)
  /-- HART_START (R234): the calling hart, a0, a1 and a2 -/
  | hartStart (hart target : Nat) (entry opaqueArg : Word)
  /-- HART_STOP (R234): the calling hart -/
  | hartStop (hart : Nat)
  /-- HART_LOST_ENTRY (R234): the calling hart and a0 -/
  | hartLostEntry (hart : Nat) (entry : Word)
  /-- LOG_NOTIFY (R234): the calling hart, a0 and a1 -/
  | logNotify (hart target eiid : Nat)
  /-- CLUSTER_IDLE (R20): the calling hart and a0 -/
  | clusterIdle (hart cluster : Nat)
  /-- CORE_FENCE (R254): the hart; `err` is a cache error met while the buffer drains: the line's DPA and its kind (R226) -/
  | coreFence (hart : Nat) (err : Option (Nat × CoreErr))
  /-- REGISTER_ACCESS_TIMEOUT (R256): the hart, the register address, and whether the access is a load -/
  | registerAccessTimeout (hart addr : Nat) (load : Bool)
  /-- RDS (R265): the requesting agent (R264), the line (DPA / 64), and the access of the core that needs it, where there is one -/
  | rds (agent : Nat) (req : LineReq)
  /-- RDX (R265): the requesting agent, the line and the access -/
  | rdx (agent : Nat) (req : LineReq)
  /-- UPGRADE (R265): the requesting agent, the line and the access -/
  | upgrade (agent : Nat) (req : LineReq)
  /-- FWDS (R265): the oldest forward queued at the owner for the line, a read -/
  | fwds (owner line : Nat)
  /-- FWDX (R265): the oldest forward queued at the owner for the line, an exclusive request, recall or invalidation -/
  | fwdx (owner line : Nat)
  /-- EVICTION (R262): from the agent, or from the home slice when none -/
  | eviction (agent : Option Nat) (line : Nat)
  /-- CREDIT_RETRY (R268): request number req, refused for lack of a credit -/
  | creditRetry (req : Nat)
  /-- KIORN_REQUEST_TIMEOUT (R270): coherence request number req; 2^32 + c is a request of command c -/
  | kiornRequestTimeout (req : Nat)
  /-- SLICE_ECC_ERROR (R281): the slice, the line, and what the error hit or a demand transfer of the line from or to HBM met (R292) -/
  | sliceEccError (slice line : Nat) (e : SliceErr)
  /-- FLIT_CRC_FAIL (R283): Kiorn link and lane group -/
  | flitCrcFail (link group : Nat)
  /-- LANE_GROUP_RETRAIN (R284): Kiorn link, lane group, and whether a lane fails the retraining -/
  | laneGroupRetrain (link group : Nat) (laneFails : Bool)
  /-- PART_CFG_WRITE (R280): a write of `SHC.PART_CFG` of the partition at die a -/
  | partCfgWrite (p : Party) (a : Nat) (v : Word)
  /-- SCRUB_WALK (R293): what the checked rows show, per channel: corrected bursts, on-die corrections, DPAs of uncorrectable granules -/
  | scrubWalk (found : List (Nat × Nat × Nat × List Nat))
  /-- HBM_LANE_REPAIR (R294): the channel, and whether a redundant lane is left -/
  | hbmLaneRepair (ch : Nat) (spareLeft : Bool)
  /-- HBM_ROW_REPAIR (R294): the channel, and whether the bank has a spare row left -/
  | hbmRowRepair (ch : Nat) (spareLeft : Bool)
  /-- HBM_CHANNEL_FAIL (R296): the channel -/
  | hbmChannelFail (ch : Nat)
  /-- TOUR_FILL_ZERO (R300): a write of `HBMC.TOURp_CMD` with GO and OP 1 -/
  | tourFillZero (p : Party) (a : Nat) (v : Word)
  /-- TOUR_FILL_PATTERN (R300): a write of `HBMC.TOURp_CMD` with GO and OP 2 -/
  | tourFillPattern (p : Party) (a : Nat) (v : Word)
  /-- TOUR_DIGEST (R300): a write of `HBMC.TOURp_CMD` with GO and OP 3 -/
  | tourDigest (p : Party) (a : Nat) (v : Word)
  /-- TOUR_DONE (R299): the Tour job of the partition at die a -/
  | tourDone (a : Nat)
  /-- TEST_START (R302): a write of `HBMC.CHn_TEST_CFG` with START -/
  | testStart (p : Party) (ch : Nat) (v : Word)
  /-- TEST_STOP (R302): a write of `HBMC.CHn_TEST_CFG` with STOP -/
  | testStop (p : Party) (ch : Nat) (v : Word)
  /-- TEST_DONE (R302): the channel, the mismatched lines and L[30:6] of the first -/
  | testDone (ch errors firstFail : Nat)
  /-- CH_SLOT_WRITE (R297): a write of `HBMC.CHn_SLOT` -/
  | chSlotWrite (p : Party) (ch : Nat) (v : Word)
  /-- IL_CFG_WRITE (R291): a write of `HBMC.IL_CFG` of the partition at die a -/
  | ilCfgWrite (p : Party) (a : Nat) (v : Word)
  /-- WALK (R312): an access of a transfer queue (kind 0) or host transfer engine (kind 1) that misses the second-level TLB -/
  | walk (kind source ctx ava : Nat) (write : Bool)
  /-- FQ_HEAD_WRITE (R322): a write of `XLAT.FQ_HEAD` -/
  | fqHeadWrite (p : Party) (a : Nat) (v : Word)
  /-- RETRY (R323): a write of `XLAT.FQ_RESOLVE` with ACTION 1 -/
  | retryFault (p : Party) (a : Nat) (v : Word)
  /-- FAIL (R323): a write of `XLAT.FQ_RESOLVE` with ACTION 2 -/
  | failFault (p : Party) (a : Nat) (v : Word)
  /-- FAULT_TIMEOUT (R324): the fault held by a source of the partition at die a -/
  | faultTimeout (a kind source : Nat)
  /-- INV_RANGE (R314): a write of `XLAT.INV_REQ` with SCOPE 0 -/
  | invRange (p : Party) (a : Nat) (v : Word)
  /-- INV_CONTEXT (R314): a write of `XLAT.INV_REQ` with SCOPE 1 -/
  | invContext (p : Party) (a : Nat) (v : Word)
  /-- INV_PARTITION (R314): a write of `XLAT.INV_REQ` with SCOPE 2 -/
  | invPartition (p : Party) (a : Nat) (v : Word)
  /-- INV_COMPLETE (R315): the oldest outstanding invalidation of the partition at die a -/
  | invComplete (a : Nat)
  /-- IGSUREN_LANE_FAIL (R355): the fabric port, the lane, and the frames dropped on it for FCS or FEC failure -/
  | igsurenLaneFail (port lane lost : Nat)
  /-- FABRIC_LINK_RETRY (R355): fabric port, and the 9-bit map of lanes that train -/
  | fabricLinkRetry (port : Nat) (working : Nat)
  /-- PUT_PACKET (R363): the packet received -/
  | putPacket (k : Packet)
  /-- RED_PACKET (R363): the packet received -/
  | redPacket (k : Packet)
  /-- GET_REQ (R363): the packet received -/
  | getReq (k : Packet)
  /-- GET_RESP (R363): the packet received -/
  | getResp (k : Packet)
  /-- ACK (R361): the packet received -/
  | ackPacket (k : Packet)
  /-- NACK (R363): the packet received -/
  | nackPacket (k : Packet)
  /-- EPOCH_PACKET (R367): the packet received -/
  | epochPacket (k : Packet)
  /-- PWR_PACKET (R369): the packet received -/
  | pwrPacket (k : Packet)
  /-- LANEMAP (R360): the frame received -/
  | laneMap (k : Packet)
  /-- ACK_TIMER (R361): the receiving side of the node pair -/
  | ackTimer (a node : Nat)
  /-- RETRANSMIT_TIMEOUT (R361): an unacknowledged packet -/
  | retransmitTimeout (a node psn : Nat)
  /-- GIVEUP (R362): the destination node -/
  | giveUp (a node : Nat)
  /-- DT_WRITE (R359): a write of `IGF.DT_DATA0` of the partition at die a -/
  | dtWrite (p : Party) (a : Nat) (v : Word)
  /-- LOCKSTEP_MISMATCH (R371): Arbiter pair k -/
  | lockstepMismatch (k : Nat)
  /-- PAIR_WATCHDOG (R372): Arbiter pair k -/
  | pairWatchdog (k : Nat)
  /-- KICK (R372): a write of `ARB.PAIRk_CTRL` with KICK -/
  | kick (p : Party) (k : Nat) (v : Word)
  /-- RESTART (R371): a write of `ARB.PAIRk_CTRL` with RESTART -/
  | restart (p : Party) (k : Nat) (v : Word)
  /-- SOURCE_EDGE (R376): event source n -/
  | sourceEdge (n : Nat)
  /-- EVC_SET (R377): a write of `EVC.SET` -/
  | evcSet (p : Party) (v : Word)
  /-- EVENT_DELIVERY (R381): Arbiter pair k -/
  | eventDelivery (k : Nat)
  /-- EVC_COMPLETE (R380): a write of `evccomplete` by pair k -/
  | evcComplete (k src : Nat)
  /-- TROUBLE_LOG_WRITE (R383): the oldest queued entry -/
  | troubleLogWrite
  /-- RESET_HOLD_EXPIRY (R375): the held reset of the partition at die a -/
  | resetHoldExpiry (a : Nat)
  /-- COLD_START (R494): whether the PUF gives the identity keys, and SHA-384 of the identity public keys -/
  | coldStart (pufOk : Bool) (identity : BitVec 384)
  /-- BOOT (R397): a write of `SEC.BOOT_CMD` with GO and TARGET 0 -/
  | boot (port : Nat) (v : Word)
  /-- STAGE (R401): a write of `SEC.BOOT_CMD` with GO and TARGET 1 -/
  | stage (port : Nat) (v : Word)
  /-- OS_LOAD (R404): a write of `SEC.BOOT_CMD` with GO and TARGET 2, and the bundle's hand-off table (if it begins with one) and image bytes -/
  | osLoad (port : Nat) (v : Word) (table : Option Handoff) (image : List Byte)
  /-- IMAGE_VERIFIED (R398): the verdict on the loaded or staged image and its header -/
  | imageVerified (sig : SigResult) (h : ImageHdr)
  /-- FLASH_WAIT_EXPIRY (R398): the 2 s wait -/
  | flashWaitExpiry
  /-- PAIR_SWITCH (R402): Arbiter pair k -/
  | pairSwitch (k : Nat)
  /-- GET_VERSION (R405): the SPDM connection -/
  | getVersion (conn : Nat)
  /-- GET_CAPABILITIES (R405): the SPDM connection -/
  | getCapabilities (conn : Nat)
  /-- NEGOTIATE_ALGORITHMS (R405): the connection and the algorithms offered -/
  | negotiateAlgorithms (conn : Nat) (offered : Nat)
  /-- GET_DIGESTS (R405): the SPDM connection -/
  | getDigests (conn : Nat)
  /-- GET_CERTIFICATE (R405): the connection, certificate slot and portion asked for -/
  | getCertificate (conn slot offset length : Nat)
  /-- CHALLENGE (R406): the connection and certificate slot -/
  | challenge (conn slot : Nat)
  /-- GET_MEASUREMENTS (R405): the connection, the measurement asked for (0xFF: all) and whether a signature is asked for -/
  | getMeasurements (conn index : Nat) (signed : Bool)
  /-- KEY_EXCHANGE (R405): the connection and certificate slot -/
  | keyExchange (conn slot : Nat)
  /-- FINISH (R405): the connection and whether its verify data match -/
  | finish (conn : Nat) (ok : Bool)
  /-- CHUNK_SEND (R405): one chunk of a long request -/
  | chunkSend (conn seq : Nat) (last : Bool) (data : List Byte)
  /-- CHUNK_GET (R405): the connection and the chunk asked for -/
  | chunkGet (conn seq : Nat)
  /-- COSIGN (R406): the SPDM connection -/
  | cosign (conn : Nat)
  /-- GET_SLH_CHAIN (R406): the SPDM connection -/
  | getSlhChain (conn : Nat)
  /-- LAUNCH_WATCHDOG (R408): launch l -/
  | launchWatchdog (l : Nat)
  /-- NO_PROGRESS (R410): member m of launch l -/
  | noProgress (l m : Nat)
  /-- TQ_TIMEOUT (R411): local command c -/
  | tqTimeout (c : Nat)
  /-- CORE_RETIRE_WATCHDOG (R412): the physical core, and whether it can still enter M-mode -/
  | coreRetireWatchdog (core : Nat) (entersM : Bool)
  /-- CONTEXT_RESET (R415): the episode of the partition at die a -/
  | contextReset (a : Nat)
  /-- REPLAY_START (R417): the episode, and the launches whose journal records read as poison -/
  | replayStart (a : Nat) (poisonedRec : List Nat)
  /-- CTX_DEADLINE (R416): the episode of the partition at die a -/
  | ctxDeadline (a : Nat)
  /-- ENGINE_RESET (R422): the physical CE -/
  | engineReset (ce : Nat)
  /-- ENG_DEADLINE (R421): the engine reset of the partition at die a -/
  | engDeadline (a : Nat)
  /-- PARTITION_RESET (R423): the partition at die a -/
  | partitionReset (a : Nat)
  /-- PARTITION_RESET_DONE (R423): the partition at die a -/
  | partitionResetDone (a : Nat)
  /-- PART_DEADLINE (R421): the partition at die a -/
  | partDeadline (a : Nat)
  /-- CHIP_WARM_RESET (R424): SHA-384 of the retained firmware image -/
  | chipWarmReset (imageDigest : BitVec 384)
  /-- WARM_DEADLINE (R421): the chip warm reset -/
  | warmDeadline
  /-- POWER_CYCLE (R425): the request made or the rung reached -/
  | powerCycle
  /-- SCREENING_WINDOW (R432): the physical CE whose turn it is -/
  | screeningWindow (ce : Nat)
  /-- SCREENING_PHASE_END (R433): the CE under screening, what the pass showed and the junction temperature -/
  | screeningPhaseEnd (ce : Nat) (r : PassResult) (tempC : Nat)
  /-- SCREEN_WATCHDOG (R434): the CE under screening -/
  | screenWatchdog (ce : Nat)
  /-- SHADOW_COMPARE (R438): the sampled launch -/
  | shadowCompare (l : Nat)
  /-- DIGEST_PASS (R440): entry e of the digest table of the partition at die a -/
  | digestPass (a e : Nat)
  /-- FLOOR_ENTER (R464): PWR_ALERT_N asserted -/
  | floorEnter
  /-- FLOOR_HOLD_END (R464): the hold time -/
  | floorHoldEnd
  /-- THERMAL_STEP (R465): the die and its hottest sensor -/
  | thermalStep (die : Nat) (tempC : Int)
  /-- THERM_TRIP (R466): the hottest sensor -/
  | thermTrip (tempC : Int)
  /-- POWER_EPOCH (R459): measured powers in W of the base, links and memory classes, the core clusters and the Accelerator
  dies, and the slack to report -/
  | powerEpoch (base links mem cores adies : Nat) (slackUs : Nat)
  /-- LIMITER_SAMPLE (R460): the averaged package power -/
  | limiterSample (pkgW : Nat)
  /-- DROOP (R461): the die and how long the droop lasts -/
  | droop (die us : Nat)
  /-- BLITZ_STEP (R456): the die, and whether power and temperature leave room -/
  | blitzStep (die : Nat) (room : Bool)
  /-- ACLK_STEP (R455): the die -/
  | aclkStep (die : Nat)
  /-- PARK (R452): a write of `PWR.PARK` -/
  | park (p : Party) (v : Word)
  /-- UNPARK (R453): a write of `PWR.PARK` -/
  | unpark (p : Party) (v : Word)
  /-- DOMAIN_POWER_UP (R451): the power domain -/
  | domainPowerUp (d : Nat)
  /-- WITHHOLD (R86): a write of `CE.CTRL` -/
  | withhold (p : Party) (ce : Nat) (v : Word)
  /-- LAYOUT_CHANGE (R474): a write of `PRT.MODE` -/
  | layoutChange (p : Party) (v : Word)
  /-- LAYOUT_CLEAR_DONE (R24): the clearing of R24 -/
  | layoutClearDone
  /-- FIRMWARE_REPORT_UPDATE (R475): the partition at die a, and the compact shadow areas that firmware has pinned in it, DPA[47:0] and
  bytes (R216) -/
  | firmwareReportUpdate (report : AreaReport)
  /-- COUNTER_CLEAR (R480): a write of a register with CNT_CLR, at an offset of the Device Register Space -/
  | counterClear (p : Party) (off : Nat) (v : Word)
  /-- LOCK (R477): a write of a register with LOCK, at an offset of the Device Register Space -/
  | lock (p : Party) (off : Nat) (v : Word)
  /-- REGISTER_WRITE (R7): a write at an offset of the Device Register Space -/
  | registerWrite (p : Party) (off : Nat) (v : Word)
  /-- I3C_TIMEOUT (R498): the I3C transaction -/
  | i3cTimeout
  /-- XSPI_TIMEOUT (R498): the xSPI operation -/
  | xspiTimeout
  /-- PWR_ALERT_RELEASE (R464): PWR_ALERT_N released -/
  | pwrAlertRelease
  /-- SYS_RESET_ASSERTED (R496): SYS_RESET_N asserted -/
  | sysResetAsserted
  /-- POWER_REMOVED (R495): the supplies -/
  | powerRemoved
  /-- PORT_LINK_TRAINED (R397): host port Hport, lanes and rate code -/
  | portLinkTrained (port width rate : Nat)
  /-- WALKER_FAIL (R312): walker group (0-7 dies, 8 Hub) and walker -/
  | walkerFail (group walker : Nat)
  /-- DDR_BYTE_LANE_FAIL (R447): the DDR channel, the errors it corrected, and the granules (as DPAs) that were uncorrectable -/
  | ddrByteLaneFail (ch corrected : Nat) (bad : List Nat)
  /-- ARCHITECTURAL_REGISTER_ERROR (R412): the physical core, and whether it can still enter M-mode -/
  | architecturalRegisterError (core : Nat) (entersM : Bool)
  /-- SRAM_UNCORRECTABLE (R373): the pair that reads the error, and the Trouble Log index hit, if one -/
  | sramUncorrectable (k : Nat) (logEntry : Option Nat)
  /-- TRACE_TRIGGER_CLAIM (R499): a claim, or a release, through the factory test port -/
  | traceTriggerClaim (claim : Bool)
  /-- WARM_RESET_DONE (R399): the chip warm reset -/
  | warmResetDone
  /-- MEMORY_INIT_DONE (R404): what training found of each DDR channel: capacity in GiB (0: absent), DIMMs, kind and data rate -/
  | memoryInitDone (ddr : List (Nat × Nat × Nat × Nat))
  /-- OS_IMAGE_CHECKED (R404): the partition at die a -/
  | osImageChecked (a : Nat)
  /-- MANAGEMENT_FLASH_WRITE (R387): the port and what it asks to write -/
  | managementFlashWrite (port : Nat) (w : FlashWrite)
  /-- IDE_KM (R327): the port, stream 0 (link) or 1-4 (selective), and whether keys are activated -/
  | ideKm (port stream : Nat) (activate : Bool)
  deriving DecidableEq, Repr

end Sys2Proof
end

