-- ==== Sys2Proof/Decode.lean ====
section
/-! DEFINITION. The command a table word spells. The spec's opcode table gives no row any bits: a command arrives as an
event or a write, not as an encoded word. -/

namespace Sys2Proof

/-- The command that a word of `nbits` bits spells: none, for the table gives no bits (log entry 2). -/
def decodeTableWord (_nbits _w : Nat) : Option Instr := none

end Sys2Proof
end

