-- ==== Sys2Proof/Config.lean ====
section
/-! DEFINITION. What the spec leaves open, as constants without a body: no proof can see their values. A free value is
taken by applying the constant to the model's counter `Dev.free`, which the taker advances, so that every use is fresh;
notes/assumptions names each. -/

namespace Sys2Proof.Config

/-- A byte the spec leaves undefined (log entry 4). -/
opaque freeByte : Nat → Byte
/-- A 32-bit value the spec leaves undefined (log entry 4). -/
opaque freeLane : Nat → Lane
/-- A 64-bit value the spec leaves undefined (log entry 4). -/
opaque freeWord : Nat → Word
/-- A choice the spec leaves open (log entry 4). -/
opaque freeBool : Nat → Bool
/-- A number the spec leaves open (log entry 4). -/
opaque freeNat : Nat → Nat
/-- A signed number the spec leaves open, for the filtered estimate and the correction of Board Time's loop (R63). -/
opaque freeInt : Nat → Int

/-- The event source of a Sequence Engine's wheel, in die n's range 320 + 128n to 447 + 128n, whose place there the spec
does not give (R375). -/
opaque seqeWheelSource : Nat → Fin 128

/-- CODE and SEV of Trouble Log entries for which no chapter lists them, by the model's own number of the event (log
entry 7). -/
opaque logCode : Nat → BitVec 8
opaque logSev : Nat → Fin 6

/-- The hart-lost identity of R228, less 1: no chapter gives it. -/
opaque hartLostIdentity : Fin 511
/-- What HART_START answers for a hart that is not stopped: R234 does not say. -/
opaque hartStartRunning : Word

/-- What the core monitor puts into the machine-level CSRs of a hart before it starts, by CSR number: no chapter gives it (log entry 119). -/
opaque monitorCsr : Nat → Word

/-- KIND, above those of R442, and VALUE of the unit-history record of a power cycle's cause, which R425 asks for and R442 does not
lay out (log entry 33). -/
opaque powerCycleKind : Nat
opaque powerCycleValue : Nat → Nat

/-- The node of a budget group's leader, which firmware knows (R462; log entry 40). -/
opaque budgetLeader : Nat → Nat

/-- What the security engine holds and gives (R393, R395, R405, R406): SHA-384 of the boot ROM, the two certificate chains (false: RSA,
true: SLH-DSA), a signature of either key over a message, a nonce, and the bytes of a chunk less 1. -/
opaque romDigest : BitVec 384
opaque certChain : Bool → List Byte
opaque rsaSign : List Nat → BitVec 3072
opaque slhSign : List Nat → BitVec 129792
opaque spdmChunk : Nat

/-- BLOCK and UNIT of `EVC.SRCn_CFG`, which identify what is behind each source; no chapter lists them (log entry 45). -/
opaque srcBlock : Nat → Nat
opaque srcUnit : Nat → Nat

end Sys2Proof.Config
end

