-- ==== Sys2Proof/Machine/Map.lean ====
section
/-! DEFINITION. Tables keyed by a number, held as plain data: a list of key and value pairs whose keys rise strictly. A
table that has a default holds no pair with that default, so that equal contents are equal lists. Memory is such a table
of bytes. -/

namespace Sys2Proof.Machine

/-- A table: keys strictly rising. -/
abbrev Map (α : Type) := List (Nat × α)

/-- The value listed for a key. -/
def mapFind? {α : Type} : Map α → Nat → Option α
  | [], _ => none
  | (k, v) :: m, x => if x = k then some v else mapFind? m x

/-- List a value for a key, in place of the one listed before. -/
def mapPut {α : Type} : Map α → Nat → α → Map α
  | [], x, v => [(x, v)]
  | (k, w) :: m, x, v =>
    if x < k then (x, v) :: (k, w) :: m
    else if x = k then (x, v) :: m
    else (k, w) :: mapPut m x v

/-- Remove a key. -/
def mapErase {α : Type} (m : Map α) (x : Nat) : Map α := m.filter (fun p => p.1 != x)

/-- Read with a default for what is not listed. -/
def mapGet {α : Type} (d : α) (m : Map α) (x : Nat) : α := (mapFind? m x).getD d

/-- Write, keeping the table free of entries equal to the default. -/
def mapSet {α : Type} [DecidableEq α] (d : α) (m : Map α) (x : Nat) (v : α) : Map α :=
  if v = d then mapErase m x else mapPut m x v

/-- Is the key listed? -/
def mapHas {α : Type} (m : Map α) (x : Nat) : Bool := (mapFind? m x).isSome

/-- Change the value listed for a key, if one is. -/
def mapModify {α : Type} (m : Map α) (x : Nat) (f : α → α) : Map α :=
  m.map (fun p => if p.1 = x then (p.1, f p.2) else p)

/-- Change every value. -/
def mapAll {α : Type} (m : Map α) (f : Nat → α → α) : Map α := m.map (fun p => (p.1, f p.1 p.2))

/-- Keep the entries that a test accepts. -/
def mapKeep {α : Type} (m : Map α) (f : Nat → α → Bool) : Map α := m.filter (fun p => f p.1 p.2)

/-- The least number not listed as a key, counting up from `n`. -/
def mapFresh {α : Type} (m : Map α) (n : Nat) : Nat := m.foldl (fun k p => if p.1 = k then k + 1 else k) n

/-- Put an item before the first one that it may precede. -/
def insertBy {α : Type} (le : α → α → Bool) (x : α) : List α → List α
  | [] => [x]
  | y :: l => if le x y then x :: y :: l else y :: insertBy le x l

/-- Sort a list; items of equal rank keep their order. -/
def sortBy {α : Type} (le : α → α → Bool) (l : List α) : List α := l.foldr (insertBy le) []

/-- Keys rise strictly. -/
def mapSorted {α : Type} : Map α → Bool
  | [] => true
  | [_] => true
  | p :: q :: m => decide (p.1 < q.1) && mapSorted (q :: m)

/-! ### Memory

HBM and DDR behind one flat key, the DPA (R238). A byte that nothing has written reads as 0 (R399: memory is zero-filled
before anything runs; DESIGN CHOICE for what power-on leaves, log entry 3). -/

/-- Memory: bytes by DPA, keys strictly rising, no entry equal to the byte an unlisted address reads as. -/
abbrev Memory := List Host.Cell

/-- What an unlisted address reads as. -/
def memDefault : Byte := 0#8

/-- The canonical form of memory. -/
def Memory.wf (m : Memory) : Bool := mapSorted m && m.all (fun p => p.2 != memDefault)

/-- Read one byte. -/
def memRead (m : Memory) (a : Nat) : Byte := mapGet memDefault m a

/-- Write one byte. -/
def memWrite (m : Memory) (a : Nat) (b : Byte) : Memory := mapSet memDefault m a b

/-- Read `n` bytes from `a` upward. -/
def memReadBytes (m : Memory) (a n : Nat) : List Byte := (List.range n).map (fun i => memRead m (a + i))

/-- Write bytes from `a` upward. -/
def memWriteBytes (m : Memory) (a : Nat) : List Byte → Memory
  | [] => m
  | b :: bs => memWriteBytes (memWrite m a b) (a + 1) bs

/-- Set `n` bytes from `a` upward to 0. -/
def memZero (m : Memory) (a n : Nat) : Memory := m.filter (fun p => p.1 < a || a + n ≤ p.1)

/-- Copy `n` bytes from `src` to `dst`, all read before any is written. -/
def memCopy (m : Memory) (src dst n : Nat) : Memory :=
  (m.filter (fun p => decide (src ≤ p.1) && decide (p.1 < src + n))).foldl
    (fun t p => memWrite t (p.1 - src + dst) p.2) (memZero m dst n)

/-- The little-endian number that bytes spell (R5). -/
def leNat : List Byte → Nat
  | [] => 0
  | b :: bs => b.toNat + 256 * leNat bs

/-- `n` little-endian bytes of a number (R5). -/
def leBytes : Nat → Nat → List Byte
  | 0, _ => []
  | n + 1, v => BitVec.ofNat 8 v :: leBytes n (v / 256)

/-- Read an `n`-byte little-endian number. -/
def memNat (m : Memory) (a n : Nat) : Nat := leNat (memReadBytes m a n)

/-- Write an `n`-byte little-endian number. -/
def memPutNat (m : Memory) (a n v : Nat) : Memory := memWriteBytes m a (leBytes n v)

/-- The `n` bytes from offset `o` of a byte list, little-endian; bytes beyond its end count as 0. -/
def listNat (bs : List Byte) (o n : Nat) : Nat := leNat ((bs.drop o).take n)

/-! ### Lists -/

/-- Replace the element at an index. -/
def listPut {α : Type} (l : List α) (i : Nat) (v : α) : List α := l.set i v

/-- `n` copies. -/
def listRep {α : Type} (n : Nat) (v : α) : List α := List.replicate n v

/-- Add at the end unless already there. -/
def listAdd {α : Type} [DecidableEq α] (l : List α) (v : α) : List α := if v ∈ l then l else l ++ [v]

/-- Take out every copy. -/
def listDel {α : Type} [DecidableEq α] (l : List α) (v : α) : List α := l.filter (fun x => x != v)

end Sys2Proof.Machine
end

