-- ==== Sys2Proof/Machine/Num.lean ====
section
/-! DEFINITION. Number formats (chapter 05): element encodings, rounding, vector floating point, special functions, the
wide accumulator, read-out and stochastic rounding. Every arithmetic step is exact on dyadic numbers and rounds once. -/

namespace Sys2Proof.Machine

/-! ### Values -/

/-- A floating-point value: a NaN (payloads are not kept, R113), an infinity by its sign, or `(-1)^neg * m * 2^e`. -/
inductive FVal where
  | nan
  | inf (neg : Bool)
  | fin (neg : Bool) (m : Nat) (e : Int)
  deriving DecidableEq, Repr

/-- `2^k` as a natural number, 1 for negative `k`. -/
def pow2 (k : Int) : Nat := 2 ^ k.toNat

/-- The signed mantissa. -/
def signed (neg : Bool) (m : Nat) : Int := if neg then -(m : Int) else (m : Int)

/-- The sum of two dyadics `a * 2^ea + b * 2^eb`, over the smaller exponent. -/
def dyAdd (a : Int) (ea : Int) (b : Int) (eb : Int) : Int × Int :=
  let e := min ea eb
  (a * pow2 (ea - e) + b * pow2 (eb - e), e)

/-- Is a FVal NaN? -/
def FVal.isNan : FVal → Bool
  | .nan => true
  | _ => false

/-- Is it an infinity? -/
def FVal.isInf : FVal → Bool
  | .inf _ => true
  | _ => false

/-- Is it a zero? -/
def FVal.isZero : FVal → Bool
  | .fin _ 0 _ => true
  | _ => false

/-- The sign. -/
def FVal.neg : FVal → Bool
  | .nan => false
  | .inf s => s
  | .fin s _ _ => s

/-- The value times `2^k`. -/
def FVal.scale (v : FVal) (k : Int) : FVal :=
  match v with
  | .fin s m e => .fin s m (e + k)
  | v => v

/-- The value with its sign turned. -/
def FVal.negate : FVal → FVal
  | .nan => .nan
  | .inf s => .inf (!s)
  | .fin s m e => .fin (!s) m e

/-- Compare two values that are not NaN: is `a < b`? Zeros are equal. -/
def FVal.lt (a b : FVal) : Bool :=
  match a, b with
  | .inf true, .inf true => false
  | .inf true, .fin _ _ _ => true
  | .inf true, .inf false => true
  | .fin _ _ _, .inf false => true
  | .fin s m e, .fin t n f => decide ((dyAdd (signed s m) e (-(signed t n)) f).1 < 0)
  | _, _ => false

/-- Are two values that are not NaN equal? -/
def FVal.eqv (a b : FVal) : Bool := !a.isNan && !b.isNan && !a.lt b && !b.lt a

/-! ### Formats (R112) -/

/-- A floating-point element format: exponent bits, mantissa bits, bias, whether it has infinities, and the NaN it
writes, if it has one. -/
structure Fmt where
  eb : Nat
  mb : Nat
  bias : Nat
  inf : Bool
  nan : Option Nat
  deriving DecidableEq, Repr

def fmtFp32 : Fmt := ⟨8, 23, 127, true, some 0x7FC00000⟩
def fmtBf16 : Fmt := ⟨8, 7, 127, true, some 0x7FC0⟩
def fmtFp16 : Fmt := ⟨5, 10, 15, true, some 0x7E00⟩
def fmtE4m3 : Fmt := ⟨4, 3, 7, false, some 0x7F⟩
def fmtE5m2 : Fmt := ⟨5, 2, 15, true, some 0x7E⟩
def fmtE3m2 : Fmt := ⟨3, 2, 3, false, none⟩
def fmtE2m3 : Fmt := ⟨2, 3, 1, false, none⟩
def fmtE2m1 : Fmt := ⟨2, 1, 1, false, none⟩

/-- The value a code stands for (R112, the table of special codes). -/
def Fmt.decode (f : Fmt) (c : Nat) : FVal :=
  let s := bit c (f.eb + f.mb)
  let e := bits c (f.eb + f.mb - 1) f.mb
  let m := c % 2 ^ f.mb
  if f.inf ∧ e = 2 ^ f.eb - 1 then (if m = 0 then .inf s else .nan)
  else if ¬ f.inf ∧ f.nan.isSome ∧ e = 2 ^ f.eb - 1 ∧ m = 2 ^ f.mb - 1 then .nan
  else if e = 0 then .fin s m (1 - (f.bias : Int) - (f.mb : Int))
  else .fin s (m + 2 ^ f.mb) ((e : Int) - (f.bias : Int) - (f.mb : Int))

/-- The code of the largest finite magnitude. -/
def Fmt.maxCode (f : Fmt) : Nat :=
  if f.inf then (2 ^ f.eb - 1) * 2 ^ f.mb - 1
  else if f.nan.isSome then 2 ^ (f.eb + f.mb) - 2
  else 2 ^ (f.eb + f.mb) - 1

/-- The sign bit of a code. -/
def Fmt.signBit (f : Fmt) (neg : Bool) : Nat := if neg then 2 ^ (f.eb + f.mb) else 0

/-- Rounding modes: to nearest even, toward zero, or stochastic with the 24-bit random value (R129). -/
inductive Rm where
  | rne
  | rtz
  | sr (r : Nat)
  deriving DecidableEq, Repr

/-- Round `n + rem / 2^sh` to an integer, for `rem < 2^sh` (R123, R129). -/
def roundUp (rm : Rm) (n rem sh : Nat) : Nat :=
  match rm with
  | .rtz => n
  | .rne => if 2 * rem > 2 ^ sh ∨ (2 * rem = 2 ^ sh ∧ rem ≠ 0 ∧ n % 2 = 1) then n + 1 else n
  | .sr r => if r < rem * 2 ^ 24 / 2 ^ sh then n + 1 else n

/-- Round the magnitude `m * 2^e` to a multiple of `2^q`; the multiple. -/
def roundAt (rm : Rm) (m : Nat) (e q : Int) : Nat :=
  if q ≤ e then m * pow2 (e - q)
  else
    let sh := (q - e).toNat
    roundUp rm (m / 2 ^ sh) (m % 2 ^ sh) sh

/-- The exponent of the unit in the last place that rounding to nearest even uses for the magnitude `m * 2^e`. -/
def Fmt.ulp (f : Fmt) (m : Nat) (e : Int) : Int :=
  max ((Nat.log2 m : Int) + e) (1 - (f.bias : Int)) - (f.mb : Int)

/-- The magnitude code of `n * 2^q`, where `q` is at or above the subnormal unit and `n < 2^(mb + 1)` after the carry is
taken out; `none` when it passes every exponent. -/
def Fmt.encodeMag (f : Fmt) (n : Nat) (q : Int) : Nat :=
  let n' := if n ≥ 2 ^ (f.mb + 1) then n / 2 else n
  let q' := if n ≥ 2 ^ (f.mb + 1) then q + 1 else q
  if n' < 2 ^ f.mb then n'
  else (q' + (f.bias : Int) + (f.mb : Int)).toNat * 2 ^ f.mb + (n' - 2 ^ f.mb)

/-- A code with the OVERFLOW and INVALID it sets. -/
structure Rounded where
  code : Nat
  ovf : Bool
  inv : Bool
  deriving DecidableEq, Repr

/-- Round a value to a format. An overflow saturates, or gives the infinity when asked and there is one (R123, R132). A
NaN becomes the canonical NaN, or 0 where the format has none. -/
def Fmt.round (f : Fmt) (rm : Rm) (ovfInf : Bool) (v : FVal) : Rounded :=
  let infOr (s : Bool) := f.signBit s + (if f.inf && ovfInf then (2 ^ f.eb - 1) * 2 ^ f.mb else f.maxCode)
  match v with
  | .nan => match f.nan with
    | some c => ⟨c, false, false⟩
    | none => ⟨0, false, true⟩
  | .inf s => ⟨infOr s, true, false⟩
  | .fin s 0 _ => ⟨f.signBit s, false, false⟩
  | .fin s m e =>
    let q := f.ulp m e
    let c := f.encodeMag (roundAt rm m e q) q
    if c > f.maxCode then ⟨infOr s, true, false⟩ else ⟨f.signBit s + c, false, false⟩

/-- Round a value to an integer of `n` bits, two's complement (R123, R132): the integer, OVERFLOW and INVALID. -/
def roundInt (rm : Rm) (n : Nat) (v : FVal) : Int × Bool × Bool :=
  let hi : Int := (2 : Int) ^ (n - 1) - 1
  let lo : Int := -((2 : Int) ^ (n - 1))
  match v with
  | .nan => (0, false, true)
  | .inf s => (if s then lo else hi, true, false)
  | .fin s m e =>
    let i := signed s (roundAt rm m e 0)
    if i > hi then (hi, true, false) else if i < lo then (lo, true, false) else (i, false, false)

/-- An integer as `n` bits of two's complement. -/
def toBits (n : Nat) (i : Int) : Nat := (i % ((2 : Int) ^ n)).toNat

/-- `n` bits of two's complement as an integer. -/
def ofBits (n : Nat) (c : Nat) : Int := if c % 2 ^ n ≥ 2 ^ (n - 1) then (c % 2 ^ n : Nat) - (2 : Int) ^ n else (c % 2 ^ n : Nat)

/-! ### IEEE arithmetic on values (R131) -/

/-- The exact sum, with IEEE's sign of a zero sum. -/
def FVal.add (a b : FVal) : FVal :=
  match a, b with
  | .nan, _ => .nan
  | _, .nan => .nan
  | .inf s, .inf t => if s = t then .inf s else .nan
  | .inf s, .fin _ _ _ => .inf s
  | .fin _ _ _, .inf t => .inf t
  | .fin s m e, .fin t n f =>
    let r := dyAdd (signed s m) e (signed t n) f
    if r.1 = 0 then .fin (if m = 0 ∧ n = 0 then s && t else false) 0 r.2
    else .fin (decide (r.1 < 0)) r.1.natAbs r.2

/-- The exact product. -/
def FVal.mul (a b : FVal) : FVal :=
  match a, b with
  | .nan, _ => .nan
  | _, .nan => .nan
  | .inf s, .inf t => .inf (s != t)
  | .inf s, .fin t n _ => if n = 0 then .nan else .inf (s != t)
  | .fin s m _, .inf t => if m = 0 then .nan else .inf (s != t)
  | .fin s m e, .fin t n f => .fin (s != t) (m * n) (e + f)

/-- The exact `a * b + c`. -/
def FVal.fma (a b c : FVal) : FVal := (a.mul b).add c

/-- minimumNumber and maximumNumber, with -0 below +0. -/
def FVal.minNum (a b : FVal) : FVal :=
  match a, b with
  | .nan, b => b
  | a, .nan => a
  | a, b => if a.lt b then a else if b.lt a then b else if a.neg then a else b
def FVal.maxNum (a b : FVal) : FVal :=
  match a, b with
  | .nan, b => b
  | a, .nan => a
  | a, b => if a.lt b then b else if b.lt a then a else if a.neg then b else a

/-- The code of a value rounded to a format to nearest even, infinities kept. -/
def Fmt.rne (f : Fmt) (v : FVal) : Nat := (f.round .rne true v).code

/-- OVERFLOW and INVALID of a vector operation: finite inputs give an infinity; inputs that are not NaN give a NaN
(R131). -/
def Fmt.flags (f : Fmt) (ins : List FVal) (out : Nat) : Bool × Bool :=
  let v := f.decode out
  (v.isInf && ins.all (fun x => !x.isNan && !x.isInf), v.isNan && ins.all (fun x => !x.isNan))

/-! ### Special functions (R133) -/

/-- `T_i = 2^(i/64)` (R133). -/
def sfT : List Nat :=
  [0x3F800000, 0x3F8164D2, 0x3F82CD87, 0x3F843A29, 0x3F85AAC3, 0x3F871F62, 0x3F88980F, 0x3F8A14D5,
   0x3F8B95C2, 0x3F8D1ADF, 0x3F8EA43A, 0x3F9031DC, 0x3F91C3D3, 0x3F935A2B, 0x3F94F4F0, 0x3F96942D,
   0x3F9837F0, 0x3F99E046, 0x3F9B8D3A, 0x3F9D3EDA, 0x3F9EF532, 0x3FA0B051, 0x3FA27043, 0x3FA43516,
   0x3FA5FED7, 0x3FA7CD94, 0x3FA9A15B, 0x3FAB7A3A, 0x3FAD583F, 0x3FAF3B79, 0x3FB123F6, 0x3FB311C4,
   0x3FB504F3, 0x3FB6FD92, 0x3FB8FBAF, 0x3FBAFF5B, 0x3FBD08A4, 0x3FBF179A, 0x3FC12C4D, 0x3FC346CD,
   0x3FC5672A, 0x3FC78D75, 0x3FC9B9BE, 0x3FCBEC15, 0x3FCE248C, 0x3FD06334, 0x3FD2A81E, 0x3FD4F35B,
   0x3FD744FD, 0x3FD99D16, 0x3FDBFBB8, 0x3FDE60F5, 0x3FE0CCDF, 0x3FE33F89, 0x3FE5B907, 0x3FE8396A,
   0x3FEAC0C7, 0x3FED4F30, 0x3FEFE4BA, 0x3FF28177, 0x3FF5257D, 0x3FF7D0DF, 0x3FFA83B3, 0x3FFD3E0C]

/-- `R_i = 1/(1 + i/64)` (R133). -/
def sfR : List Nat :=
  [0x3F800000, 0x3F7C0FC1, 0x3F783E10, 0x3F74898D, 0x3F70F0F1, 0x3F6D7304, 0x3F6A0EA1, 0x3F66C2B4,
   0x3F638E39, 0x3F607038, 0x3F5D67C9, 0x3F5A740E, 0x3F579436, 0x3F54C77B, 0x3F520D21, 0x3F4F6475,
   0x3F4CCCCD, 0x3F4A4588, 0x3F47CE0C, 0x3F4565C8, 0x3F430C31, 0x3F40C0C1, 0x3F3E82FA, 0x3F3C5264,
   0x3F3A2E8C, 0x3F381703, 0x3F360B61, 0x3F340B41, 0x3F321643, 0x3F302C0B, 0x3F2E4C41, 0x3F2C7692,
   0x3F2AAAAB, 0x3F28E83F, 0x3F272F05, 0x3F257EB5, 0x3F23D70A, 0x3F2237C3, 0x3F20A0A1, 0x3F1F1166,
   0x3F1D89D9, 0x3F1C09C1, 0x3F1A90E8, 0x3F191F1A, 0x3F17B426, 0x3F164FDA, 0x3F14F209, 0x3F139A86,
   0x3F124925, 0x3F10FDBC, 0x3F0FB824, 0x3F0E7835, 0x3F0D3DCB, 0x3F0C08C1, 0x3F0AD8F3, 0x3F09AE41,
   0x3F088889, 0x3F0767AB, 0x3F064B8A, 0x3F053408, 0x3F042108, 0x3F03126F, 0x3F020821, 0x3F010204]

/-- `L_i = -log2(R_i)`, of the binary32 constant `R_i` (R133; DEDUCED, log entry 6). -/
def sfL : List Nat :=
  [0x00000000, 0x3CB73CB3, 0x3D35D690, 0x3D8759C9, 0x3DB31FB7, 0x3DDE420E, 0x3E0462C4, 0x3E195751,
   0x3E2E00D1, 0x3E42615F, 0x3E567AEF, 0x3E6A4F70, 0x3E7DE0B5, 0x3E88983F, 0x3E92203D, 0x3E9B8925,
   0x3EA4D3C2, 0x3EAE00D1, 0x3EB71110, 0x3EC0052D, 0x3EC8DDD3, 0x3ED19BAF, 0x3EDA3F60, 0x3EE2C97E,
   0x3EEB3A9E, 0x3EF39355, 0x3EFBD42A, 0x3F01FED4, 0x3F060828, 0x3F0A0650, 0x3F0DF98A, 0x3F11E20E,
   0x3F15C01A, 0x3F1993E4, 0x3F1D5DA0, 0x3F211D84, 0x3F24D3C3, 0x3F28808D, 0x3F2C2410, 0x3F2FBE7F,
   0x3F335004, 0x3F36D8CA, 0x3F3A58FE, 0x3F3DD0C9, 0x3F41404E, 0x3F44A7BB, 0x3F480731, 0x3F4B5ED6,
   0x3F4EAECF, 0x3F51F740, 0x3F553847, 0x3F58720A, 0x3F5BA4A5, 0x3F5ED038, 0x3F61F4E5, 0x3F6512C6,
   0x3F6829FA, 0x3F6B3AA0, 0x3F6E44CF, 0x3F7148A2, 0x3F744636, 0x3F773DA2, 0x3F7A2F03, 0x3F7D1A71]

/-- `c1` to `c3` of exp2: `(ln 2)^k / k!` (R133). -/
def sfExp : List Nat :=
  [0x3F317218, 0x3E75FDF0, 0x3D635847]

/-- `c1` to `c4` of log2: `(-1)^(k+1) / (k ln 2)` (R133). -/
def sfLog : List Nat :=
  [0x3FB8AA3B, 0xBF38AA3B, 0x3EF6384F, 0xBEB8AA3B]

/-- `c3`, `c5`, `c7`, `c9` of tanh (R133). -/
def sfTanh : List Nat :=
  [0xBEAAAAAB, 0x3E088889, 0xBD5D0DD1, 0x3CB327A4]

/-- `a1` to `a5` of sin (R133). -/
def sfSin : List Nat :=
  [0xBE2AAAAB, 0x3C088889, 0xB9500D01, 0x3638EF1D, 0xB2D7322B]

/-- `b1` to `b6` of cos (R133). -/
def sfCos : List Nat :=
  [0xBF000000, 0x3D2AAAAB, 0xBAB60B61, 0x37D00D01, 0xB493F27E, 0x310F76C7]

/-- `P1`, `P2`, `P3` (R133). -/
def sfPi : List Nat :=
  [0x3FC91000, 0xB6957000, 0xB06F4B9F]

/-- `2/ln 2` and `2/π` (R133). -/
def sfMisc : List Nat :=
  [0x4038AA3B, 0x3F22F983]
/-- A table's entry as a binary32 value. -/
def cst (t : List Nat) (i : Nat) : FVal := fmtFp32.decode (t.getD i 0)

/-- One binary32 step: round to nearest even. -/
def f32r (v : FVal) : FVal := fmtFp32.decode (fmtFp32.rne v)

/-- fma, rounded once. -/
def f32fma (a b c : FVal) : FVal := f32r (a.fma b c)
/-- Product, rounded. -/
def f32mul (a b : FVal) : FVal := f32r (a.mul b)
/-- Sum, rounded. -/
def f32add (a b : FVal) : FVal := f32r (a.add b)

/-- The binary32 value 1. -/
def fOne : FVal := .fin false 1 0

/-- The least `k` bits of a square root: the largest `s` with `s^2 ≤ v`, found bit by bit from bit `k - 1`. -/
def isqrt (v : Nat) : Nat → Nat → Nat
  | 0, s => s
  | k + 1, s => isqrt v k (if (s + 2 ^ k) * (s + 2 ^ k) ≤ v then s + 2 ^ k else s)

/-- 1/x with one sticky bit, 2^-(64) fine: rounding it to nearest even rounds the exact quotient. -/
def recipExact (m : Nat) (e : Int) : Nat × Int :=
  let q := 2 ^ 64 / m
  (2 * q + (if 2 ^ 64 % m = 0 then 0 else 1), -e - 65)

/-- rcp: correctly rounded 1/x. -/
def sfRcp : FVal → FVal
  | .nan => .nan
  | .inf s => .fin s 0 0
  | .fin s 0 _ => .inf s
  | .fin s m e => let r := recipExact m e; f32r (.fin s r.1 r.2)

/-- rsqrt: correctly rounded 1/√x. -/
def sfRsqrt : FVal → FVal
  | .nan => .nan
  | .inf false => .fin false 0 0
  | .inf true => .nan
  | .fin s 0 _ => .inf s
  | .fin true _ _ => .nan
  | .fin false m e =>
    let m' := if e % 2 = 0 then m else 2 * m
    let e' := if e % 2 = 0 then e else e - 1
    let v := 2 ^ 128 / m'
    let r := isqrt v 66 0
    f32r (.fin false (2 * r + (if r * r * m' = 2 ^ 128 then 0 else 1)) (-(e' / 2) - 65))

/-- exp2 of a value in [-150, 128): the steps of R133. -/
def exp2Core (s : Bool) (m : Nat) (e : Int) : FVal :=
  -- x * 2^w is an integer
  let w := (-e).toNat
  let xi : Int := signed s (m * pow2 e)
  let n : Int := xi / (2 : Int) ^ w
  let fr : Nat := (xi % (2 : Int) ^ w).toNat
  let i := fr * 64 / 2 ^ w
  let d := f32r (.fin false (fr * 64 - i * 2 ^ w) (-(w : Int) - 6))
  let q := f32mul d (f32fma (f32fma (cst sfExp 2) d (cst sfExp 1)) d (cst sfExp 0))
  let y := f32fma (cst sfT i) q (cst sfT i)
  f32r (y.scale n)

/-- exp2. -/
def sfExp2 (x : FVal) : FVal :=
  match x with
  | .nan => .nan
  | .inf false => .inf false
  | .inf true => .fin false 0 0
  | .fin s m e =>
    if !(x.lt (.fin false 128 0)) then .inf false
    else if x.lt (.fin true 150 0) then .fin false 0 0
    else exp2Core s m e

/-- log2. -/
def sfLog2 (x : FVal) : FVal :=
  match x with
  | .nan => .nan
  | .inf false => .inf false
  | .inf true => .nan
  | .fin _ 0 _ => .inf true
  | .fin true _ _ => .nan
  | .fin false m e =>
    let k := Nat.log2 m
    let mm : FVal := .fin false m (-(k : Int))
    let i := (m * 2 ^ 6 / 2 ^ k) % 64
    let t := f32fma mm (cst sfR i) (.fin true 1 0)
    let p := f32fma (f32fma (f32fma (cst sfLog 3) t (cst sfLog 2)) t (cst sfLog 1)) t (cst sfLog 0)
    let ex : Int := e + k
    f32fma t p (f32add (cst sfL i) (.fin (decide (ex < 0)) ex.natAbs 0))

/-- tanh. -/
def sfTanh1 (x : FVal) : FVal :=
  match x with
  | .nan => .nan
  | .inf s => .fin s 1 0
  | .fin s m e =>
    let ax : FVal := .fin false m e
    if !(ax.lt (.fin false 73 (-3))) then .fin s 1 0
    else if ax.lt (.fin false 1 (-2)) then
      let a := f32mul x x
      f32fma (f32mul x a)
        (f32fma (f32fma (f32fma (cst sfTanh 3) a (cst sfTanh 2)) a (cst sfTanh 1)) a (cst sfTanh 0)) x
    else
      let u := sfExp2 (f32mul ax (cst sfMisc 0)).negate
      let r := f32mul (f32add fOne u.negate) (sfRcp (f32add fOne u))
      if s then r.negate else r

/-- The nearest integer to a value, ties to even. -/
def nearestInt : FVal → Int
  | .fin s m e => signed s (roundAt .rne m e 0)
  | _ => 0

/-- sin (`c = false`) and cos. -/
def sfSinCos (c : Bool) (x : FVal) : FVal :=
  match x with
  | .nan => .nan
  | .inf _ => .nan
  | .fin _ m e =>
    if !((FVal.fin false m e).lt (.fin false 1 20)) then .nan
    else
      let k := nearestInt (f32mul x (cst sfMisc 1))
      let nk : FVal := .fin (decide (0 < k)) k.natAbs 0
      let r := f32fma nk (cst sfPi 0) x
      let r := f32fma nk (cst sfPi 1) r
      let r := f32fma nk (cst sfPi 2) r
      let s := f32mul r r
      let sp := f32fma (f32fma (f32fma (f32fma (cst sfSin 4) s (cst sfSin 3)) s (cst sfSin 2)) s (cst sfSin 1)) s
        (cst sfSin 0)
      let sv := f32fma (f32mul r s) sp r
      let cp := f32fma (f32fma (f32fma (f32fma (f32fma (cst sfCos 5) s (cst sfCos 4)) s (cst sfCos 3)) s (cst sfCos 2))
        s (cst sfCos 1)) s (cst sfCos 0)
      let cv := f32fma s cp fOne
      match (k % 4).toNat, c with
      | 0, false => sv
      | 1, false => cv
      | 2, false => sv.negate
      | _, false => cv.negate
      | 0, true => cv
      | 1, true => sv.negate
      | 2, true => cv.negate
      | _, true => sv

/-- Special function `fn` of VSF on a value, in binary32. -/
def specialFn (fn : Nat) (x : FVal) : FVal :=
  match fn with
  | 0 => sfRcp x
  | 1 => sfRsqrt x
  | 2 => sfExp2 x
  | 3 => sfLog2 x
  | 4 => sfTanh1 x
  | 5 => sfSinCos false x
  | _ => sfSinCos true x

/-- OVERFLOW and INVALID of a special function, from its special cases and R131. -/
def specialFlags (fn : Nat) (x : FVal) (f : Fmt) (out : Nat) : Bool × Bool :=
  let (o, i) := f.flags [x] out
  (o || (fn == 2 && !x.isNan && !(x.lt (.fin false 128 0))), i)

/-! ### Stochastic rounding (R130) -/

/-- The mixing function of R130, on 64-bit words. -/
def srMix (z : Word) : Word :=
  let z := (z ^^^ (z >>> 30)) * 0xBF58476D1CE4E5B9#64
  let z := (z ^^^ (z >>> 27)) * 0x94D049BB133111EB#64
  z ^^^ (z >>> 31)

/-- The 24-bit random value (R130). -/
def srRandom (seed seedIdx member source count element : Nat) : Nat :=
  let w (n : Nat) : Word := BitVec.ofNat 64 n
  let k0 := srMix (w seed ^^^ w seedIdx)
  let k1 := srMix (k0 ^^^ w (member * 2 ^ 32) ^^^ w source)
  let z := srMix (k1 ^^^ w (count * 2 ^ 16) ^^^ w element)
  z.toNat % 2 ^ 24

/-! ### The wide accumulator (R118 to R120) -/

/-- One accumulator cell: V in units of 2^-96, W, the five flags, the binary32 sum of FP32 mode, and whether an MMA has
added into it since it was clear (R122). -/
structure Cell where
  v : Int := 0
  w : Int := 0
  nan : Bool := false
  pinf : Bool := false
  ninf : Bool := false
  ovf : Bool := false
  low : Bool := false
  f32 : Nat := 0
  used : Bool := false
  deriving DecidableEq, Repr

/-- Half the window: 2^95 in units of 2^-96. -/
def accHalf : Int := 2 ^ 191

/-- R120: add `t` (in units of 2^-96, `|t| < 2^95` in value) to V, carrying into W. -/
def accAdd (c : Cell) (t : Int) : Cell :=
  let v' := c.v + t
  if v' ≥ accHalf then { c with v := v' - 2 * accHalf, w := c.w + 1 }
  else if v' < -accHalf then { c with v := v' + 2 * accHalf, w := c.w - 1 }
  else { c with v := v' }

/-- The exact sum S = V + W * 2^96, in units of 2^-96 (R118). -/
def Cell.sum (c : Cell) : Int := c.v + c.w * (2 * accHalf)

/-- R119: a term enters a cell. -/
def accTerm (c : Cell) (t : FVal) : Cell :=
  match t with
  | .nan => { c with nan := true }
  | .inf false => { c with pinf := true }
  | .inf true => { c with ninf := true }
  | .fin s m e =>
    let q := e + 96
    -- |term| in units of 2^-96, truncated
    let n := if 0 ≤ q then m * pow2 q else m / pow2 (-q)
    let dropped := decide (q < 0) && decide (m % pow2 (-q) ≠ 0)
    if (n : Int) ≥ accHalf then
      if s then { c with ninf := true, ovf := true } else { c with pinf := true, ovf := true }
    else accAdd { c with low := c.low || dropped } (signed s n)

/-- The exact sum of a block's products, for the MX and VQ formats: NaN when a product is NaN or infinities of both signs
meet (R119, step 1). -/
def blockSum (ps : List FVal) : FVal := ps.foldl FVal.add (.fin false 0 0)

/-! ### Element formats of tensors and conversions (R110) -/

/-- The floating-point element format of a format code, for the codes that have one. -/
def fmtOf (code : Nat) : Option Fmt :=
  match code with
  | 0x0 => some fmtFp32
  | 0x1 => some fmtBf16
  | 0x2 => some fmtFp16
  | 0x3 => some fmtE4m3
  | 0x4 => some fmtE5m2
  | 0x7 => some fmtE4m3
  | 0x8 => some fmtE5m2
  | 0x9 => some fmtE3m2
  | 0xA => some fmtE2m3
  | 0xB => some fmtE2m1
  | _ => none

/-- Element bits; VQ-8/12 counts its 12-bit codes. -/
def fmtBits (code : Nat) : Nat :=
  match code with
  | 0x0 => 32
  | 0x1 => 16
  | 0x2 => 16
  | 0x6 => 4
  | 0x9 => 6
  | 0xA => 6
  | 0xB => 4
  | 0xD => 12
  | 0xE => 32
  | 0xF => 256
  | _ => 8

/-- Formats with block scales: MX and VQ-8/12. -/
def fmtScaled (code : Nat) : Bool := decide (0x7 ≤ code) && decide (code ≤ 0xD)
/-- MX formats. -/
def fmtMx (code : Nat) : Bool := decide (0x7 ≤ code) && decide (code ≤ 0xC)

/-- The value of an element code, without its block scale (R112, R113). -/
def elemVal (code c : Nat) : FVal :=
  match fmtOf code with
  | some f => f.decode c
  | none =>
    let n := fmtBits code
    let i := ofBits n c
    .fin (decide (i < 0)) i.natAbs (if code = 0xC then -6 else 0)

/-- An E8M0 scale: its exponent, or `none` for NaN (R112). -/
def scaleExp (x : Nat) : Option Int := if x % 256 = 255 then none else some ((x % 256 : Nat) - 127 : Int)

/-- The rows of the rate table (R94): formats that may be paired. -/
def rateRow (code : Nat) : Nat :=
  match code with
  | 0x0 => 5
  | 0x1 => 4
  | 0x2 => 4
  | 0x3 => 1
  | 0x4 => 1
  | 0x5 => 1
  | 0x7 => 1
  | 0x8 => 1
  | 0xC => 1
  | 0x6 => 3
  | 0x9 => 3
  | 0xA => 3
  | 0xB => 3
  | _ => 0

/-- May A and B be paired (R94, R115, R502)? -/
def pairOk (fa fb : Nat) : Bool :=
  if fb = 0xD then fa = 0x3 || fa = 0x4 || fa = 0x7 || fa = 0x8
  else rateRow fa != 0 && rateRow fa == rateRow fb

/-- May the format be a read-out target (R110)? -/
def readoutOk (code : Nat) : Bool := code != 0x6 && code != 0xD && decide (code ≤ 0xF)

/-! ### Read-out (R123 to R125) -/

/-- The value of a cell at read-out, or the case that replaces it: NaN, infinity, or S * 2^SHIFT exactly. The flag is
case 3, an infinity by the sign of W. -/
def cellValue (fp32Mode : Bool) (c : Cell) (shift : Int) : FVal :=
  if fp32Mode then (fmtFp32.decode c.f32).scale shift
  else if c.nan ∨ (c.pinf ∧ c.ninf) then .nan
  else if c.pinf then .inf false
  else if c.ninf then .inf true
  else if c.w ≠ 0 then .inf (decide (c.w < 0))
  else .fin (decide (c.v < 0)) c.v.natAbs (-96 + shift)

/-- A read-out element: its code with OVERFLOW and INVALID. -/
def readoutElem (code : Nat) (rm : Rm) (ovfInf : Bool) (fp32Mode : Bool) (v : FVal) : Rounded :=
  match fmtOf code with
  | some f =>
    let r := f.round rm ovfInf v
    let r := if v.isNan then { r with inv := true } else r
    -- a zero result is +0; a zero sum of FP32 mode keeps its sign (R123)
    if r.code = f.signBit true ∧ ¬(fp32Mode ∧ v.isZero) then { r with code := 0 } else r
  | none =>
    let n := fmtBits code
    let (i, o, iv) := roundInt rm n v
    ⟨toBits n i, o, iv⟩

/-- floor(log2 |v|) of a nonzero dyadic. -/
def floorLog2 : FVal → Int
  | .fin _ m e => (Nat.log2 m : Int) + e
  | _ => 0

/-- emax of an MX element format (R125). -/
def mxEmax (code : Nat) : Int :=
  match code with
  | 0x7 => 8
  | 0x8 => 15
  | 0x9 => 4
  | 0xA => 2
  | 0xB => 2
  | _ => 0

/-- An MX element code of a value already divided by its block scale: rounded and clamped, no OVERFLOW (R125, R132). -/
def mxElem (code : Nat) (rm : Rm) (v : FVal) : Nat :=
  match fmtOf code with
  | some f => (f.round rm false v).code
  | none => toBits 8 (roundInt rm 8 (v.scale 6)).1

/-- An MX block at read-out: the scale code, the element codes, OVERFLOW and INVALID. `rms` gives each element's rounding. -/
def mxBlock (code : Nat) (rms : List Rm) (vs : List FVal) : Nat × List Nat × Bool × Bool :=
  if vs.any (fun v => v.isNan || v.isInf) then
    (0xFF, vs.map (fun _ => 0), vs.any FVal.isInf, vs.any FVal.isNan)
  else if vs.all FVal.isZero then (0, vs.map (fun _ => 0), false, false)
  else
    let top := (vs.filter (fun v => !v.isZero)).foldl (fun k v => max k (floorLog2 v)) (-1000)
    let x := max (-127) (min 127 (top - mxEmax code))
    ((x + 127).toNat, (vs.zip rms).map (fun p => mxElem code p.2 (p.1.scale (-x))), false, false)

/-! ### WA32 records (R135) -/

/-- The 32 bytes of a cell's record. -/
def recordBytes (c : Cell) : List Byte :=
  leBytes 24 (toBits 192 c.v) ++ leBytes 4 (toBits 32 c.w) ++
    leBytes 4 (b2n c.nan + 2 * b2n c.pinf + 4 * b2n c.ninf + 8 * b2n c.ovf + 16 * b2n c.low)

/-- The cell a record holds; reserved bits are ignored. -/
def recordCell (bs : List Byte) : Cell :=
  let fl := listNat bs 0x1C 4
  { v := ofBits 192 (listNat bs 0 24), w := ofBits 32 (listNat bs 0x18 4), nan := bit fl 0, pinf := bit fl 1,
    ninf := bit fl 2, ovf := bit fl 3, low := bit fl 4, used := true }

/-- R134: add the source record to the target record. -/
def recordAdd (t s : Cell) : Cell :=
  let c := accAdd t s.v
  { c with w := ofBits 32 (toBits 32 (c.w + s.w)), nan := t.nan || s.nan, pinf := t.pinf || s.pinf,
           ninf := t.ninf || s.ninf, ovf := t.ovf || s.ovf, low := t.low || s.low }

/-- A cell of FP32 mode as a record: steps 1 to 4 of R119 on its sum (R124). -/
def fp32Record (c : Cell) : Cell := accTerm {} (fmtFp32.decode c.f32)

/-! ### CRC-64 (R162) -/

/-- One bit of the CRC-64 with the ECMA-182 polynomial. -/
def crcBit (c : Word) : Word := if c.getMsbD 0 then (c <<< 1) ^^^ 0x42F0E1EBA9EA3693#64 else c <<< 1

/-- One byte. -/
def crcByte (c : Word) (b : Byte) : Word :=
  let c := c ^^^ ((b.zeroExtend 64) <<< 56)
  crcBit (crcBit (crcBit (crcBit (crcBit (crcBit (crcBit (crcBit c)))))))

/-- CRC-64 of bytes in ascending order, initial value 0, no final inversion. -/
def crc64 (bs : List Byte) : Word := bs.foldl crcByte 0#64

/-! ### Atomics -/

/-- What SAMO, or an AMO of a core, leaves in the word, for values of `n` bytes (R148); a compare that fails leaves the old value. -/
def amoOp (fn n old b c : Nat) : Option Nat :=
  let s := fun v => ofBits (8 * n) v
  match fn with
  | 0 => some b
  | 1 => some ((old + b) % 2 ^ (8 * n))
  | 2 => some (old &&& b)
  | 3 => some (old ||| b)
  | 4 => some (old ^^^ b)
  | 5 => some (if s b < s old then b else old)
  | 6 => some (if s old < s b then b else old)
  | 7 => some (if b < old then b else old)
  | 8 => some (if old < b then b else old)
  | 9 => some (if old = c then b else old)
  | _ => none

end Sys2Proof.Machine
end

