-- ==== Sys2Proof/Machine/RegTable.lean ====
section
/-! DEFINITION. The registers of the register index (R483) as data: their names, their fields with access code, reset
value and range, and their reset domains (R480). Generated from the field tables of the spec's chapters; instance numbers
are: the die for die instances, the physical CE 26n + k, the lowest die for partition instances and windows, the host
port, the ring pair's number (Syntax.lean), the group index n otherwise (EW slots of SEQE: 64·die + n; POOLn: 8·die + n;
PGPOOLn: 4·a + n; RTn and WINn: 64·a + n). -/

namespace Sys2Proof.Machine

/-- Access codes (R6). `roFw` is "RO; RW to firmware" (R475). -/
inductive Acc where
  | rw | ro | wo | w1c | w1s | rwl | rwo | roFw
  deriving DecidableEq, Repr

/-- Reset domains (R480): `warmPart` is PARTITION and WARM; `warmPair` and `warmDev` are the ring-pair registers (WARM;
device pairs PARTITION too). -/
inductive Domain where
  | power | warm | warmPart | warmPair | warmDev
  deriving DecidableEq, Repr

/-- The registers. -/
inductive RegName where
  /-- `BTM.NOW` -/
  | btmNow
  /-- `BTM.CTRL` -/
  | btmCtrl
  /-- `BTM.STATUS` -/
  | btmStatus
  /-- `BTM.FREQ_ADJ` -/
  | btmFreqAdj
  /-- `BTM.PTP_CFG` -/
  | btmPtpCfg
  /-- `BTM.SRC_FILT` -/
  | btmSrcFilt
  /-- `BTM.SRC_STAT` -/
  | btmSrcStat
  /-- `BTM.TOD` -/
  | btmTod
  /-- `BTM.PPS_CFG` -/
  | btmPpsCfg
  /-- `BTM.CFG_ERR` -/
  | btmCfgErr
  /-- `SEQE.EW_STAT` -/
  | seqeEwStat
  /-- `ARB.EW_STAT` -/
  | arbEwStat
  /-- `SEQE.EW_SLOTn` -/
  | seqeEwSlot
  /-- `ARB.EW_SLOTn` -/
  | arbEwSlot
  /-- `SEQE.EW_NEXTn` -/
  | seqeEwNext
  /-- `ARB.EW_NEXTn` -/
  | arbEwNext
  /-- `CE.ID` -/
  | ceId
  /-- `CE.STATE` -/
  | ceState
  /-- `CE.CTRL` -/
  | ceCtrl
  /-- `CE.OCC` -/
  | ceOcc
  /-- `CE.SQC_STAT` -/
  | ceSqcStat
  /-- `CE.PERF_TENSOR` -/
  | cePerfTensor
  /-- `CE.PERF_VEC` -/
  | cePerfVec
  /-- `CE.DIE_MAP0` -/
  | ceDieMap0
  /-- `CE.DIE_MAP1` -/
  | ceDieMap1
  /-- `SEQE.CTRL` -/
  | seqeCtrl
  /-- `SEQE.KVBT_BASE` -/
  | seqeKvbtBase
  /-- `SEQE.POOLn_CFG` -/
  | seqePoolCfg
  /-- `SEQE.POOLn_CAP` -/
  | seqePoolCap
  /-- `SEQE.POOLn_STAT` -/
  | seqePoolStat
  /-- `SEQE.STAT0` -/
  | seqeStat0
  /-- `SEQE.STAT1` -/
  | seqeStat1
  /-- `SEQE.STAT2` -/
  | seqeStat2
  /-- `SEQE.KVC_STAT` -/
  | seqeKvcStat
  /-- `PRT.PROM_CTRL` -/
  | prtPromCtrl
  /-- `PRT.PROM_AGE` -/
  | prtPromAge
  /-- `PRT.PGPOOLn_CFG` -/
  | prtPgpoolCfg
  /-- `PRT.PGPOOLn_CAP` -/
  | prtPgpoolCap
  /-- `PRT.PGPOOLn_STAT` -/
  | prtPgpoolStat
  /-- `PRT.PROM_QDEPTH` -/
  | prtPromQdepth
  /-- `PRT.PROM_STAT0` -/
  | prtPromStat0
  /-- `PRT.PROM_STAT1` -/
  | prtPromStat1
  /-- `PRT.PROM_STAT2` -/
  | prtPromStat2
  /-- `HUB.COREn_STATE` -/
  | hubCoreState
  /-- `HUB.COREn_STAT` -/
  | hubCoreStat
  /-- `HUB.CORE_ISO` -/
  | hubCoreIso
  /-- `SHC.CTRL` -/
  | shcCtrl
  /-- `SHC.RETRY_CFG` -/
  | shcRetryCfg
  /-- `SHC.PART_CFG` -/
  | shcPartCfg
  /-- `SHC.PART_STAT` -/
  | shcPartStat
  /-- `SHC.SLICEn_STAT0` -/
  | shcSliceStat0
  /-- `SHC.SLICEn_STAT1` -/
  | shcSliceStat1
  /-- `SHC.SLICEn_STAT2` -/
  | shcSliceStat2
  /-- `KIO.LINKn_STATUS` -/
  | kioLinkStatus
  /-- `KIO.LINKn_CFG` -/
  | kioLinkCfg
  /-- `KIO.LINKn_ERR` -/
  | kioLinkErr
  /-- `KIO.TIMEOUT` -/
  | kioTimeout
  /-- `HBMC.CHn_STATUS` -/
  | hbmcChStatus
  /-- `HBMC.CHn_ECC` -/
  | hbmcChEcc
  /-- `HBMC.CHn_SLOT` -/
  | hbmcChSlot
  /-- `HBMC.CHn_SCRUB` -/
  | hbmcChScrub
  /-- `HBMC.SCRUB_CFG` -/
  | hbmcScrubCfg
  /-- `HBMC.CHn_TEST_CFG` -/
  | hbmcChTestCfg
  /-- `HBMC.CHn_TEST_PAT` -/
  | hbmcChTestPat
  /-- `HBMC.CHn_TEST_STAT` -/
  | hbmcChTestStat
  /-- `HBMC.IL_CFG` -/
  | hbmcIlCfg
  /-- `HBMC.TOURp_BASE` -/
  | hbmcTourBase
  /-- `HBMC.TOURp_LEN` -/
  | hbmcTourLen
  /-- `HBMC.TOURp_CMD` -/
  | hbmcTourCmd
  /-- `HBMC.TOURp_PAT` -/
  | hbmcTourPat
  /-- `HBMC.TOURp_RESULT` -/
  | hbmcTourResult
  /-- `HBMC.TOURp_STATUS` -/
  | hbmcTourStatus
  /-- `XLAT.FQ_BASE` -/
  | xlatFqBase
  /-- `XLAT.FQ_CFG` -/
  | xlatFqCfg
  /-- `XLAT.FQ_HEAD` -/
  | xlatFqHead
  /-- `XLAT.FQ_TAIL` -/
  | xlatFqTail
  /-- `XLAT.FQ_RESOLVE` -/
  | xlatFqResolve
  /-- `XLAT.FQ_STAT` -/
  | xlatFqStat
  /-- `XLAT.FQ_TIMEOUT` -/
  | xlatFqTimeout
  /-- `XLAT.FQ_MSI` -/
  | xlatFqMsi
  /-- `XLAT.INV_REQ` -/
  | xlatInvReq
  /-- `XLAT.INV_ISSUED` -/
  | xlatInvIssued
  /-- `XLAT.INV_DONE` -/
  | xlatInvDone
  /-- `XLAT.WALK_STAT` -/
  | xlatWalkStat
  /-- `XLAT.TLB_STAT` -/
  | xlatTlbStat
  /-- `HPT.PORT_STATUS` -/
  | hptPortStatus
  /-- `HPT.PORT_CFG` -/
  | hptPortCfg
  /-- `HPT.PORT_BIND` -/
  | hptPortBind
  /-- `HPT.RPk_SQ_BASE` -/
  | hptSqBase
  /-- `HPT.RPk_CQ_BASE` -/
  | hptCqBase
  /-- `HPT.RPk_HEAD_WB` -/
  | hptHeadWb
  /-- `HPT.RPk_CFG` -/
  | hptCfg
  /-- `HPT.RPk_ATTACH` -/
  | hptAttach
  /-- `HPT.RPk_STATUS` -/
  | hptStatus
  /-- `HPT.RPk_STAT` -/
  | hptStat
  /-- `IGF.RTn` -/
  | igfRt
  /-- `IGF.CTRL` -/
  | igfCtrl
  /-- `IGF.NODE` -/
  | igfNode
  /-- `IGF.PORTp_STATUS` -/
  | igfPortStatus
  /-- `IGF.PORTp_CFG` -/
  | igfPortCfg
  /-- `IGF.PORTp_STAT` -/
  | igfPortStat
  /-- `IGF.RETX` -/
  | igfRetx
  /-- `IGF.DT_SEL` -/
  | igfDtSel
  /-- `IGF.DT_DATA0` -/
  | igfDtData0
  /-- `IGF.DT_DATA1` -/
  | igfDtData1
  /-- `IGF.WINn_BASE` -/
  | igfWinBase
  /-- `IGF.WINn_CFG` -/
  | igfWinCfg
  /-- `IGF.PEER_STAT` -/
  | igfPeerStat
  /-- `ARB.PAIRk_STATUS` -/
  | arbPairStatus
  /-- `ARB.PAIRk_CTRL` -/
  | arbPairCtrl
  /-- `ARB.WDOG` -/
  | arbWdog
  /-- `ARB.ESC_LIMIT` -/
  | arbEscLimit
  /-- `ARB.FAST_VEC` -/
  | arbFastVec
  /-- `ARB.TL_TAIL` -/
  | arbTlTail
  /-- `ARB.TL_STAT` -/
  | arbTlStat
  /-- `EVC.CTRL` -/
  | evcCtrl
  /-- `EVC.AGE` -/
  | evcAge
  /-- `EVC.SRCn_CFG` -/
  | evcSrcCfg
  /-- `EVC.SRCn_STATE` -/
  | evcSrcState
  /-- `EVC.SET` -/
  | evcSet
  /-- `EVC.STAT` -/
  | evcStat
  /-- `SEC.BOOT_STATUS` -/
  | secBootStatus
  /-- `SEC.BOOT_SRC` -/
  | secBootSrc
  /-- `SEC.BOOT_LEN` -/
  | secBootLen
  /-- `SEC.BOOT_CMD` -/
  | secBootCmd
  /-- `SEC.FW_STATE` -/
  | secFwState
  /-- `SEC.FW_REMAP` -/
  | secFwRemap
  /-- `SEC.ID` -/
  | secId
  /-- `SEC.SERIAL` -/
  | secSerial
  /-- `RES.CTRL` -/
  | resCtrl
  /-- `RES.WDOG_CFG` -/
  | resWdogCfg
  /-- `RES.TQ_CFG` -/
  | resTqCfg
  /-- `RES.ESC_CFG` -/
  | resEscCfg
  /-- `RES.RESET_REQ` -/
  | resResetReq
  /-- `RES.PART_STATUS` -/
  | resPartStatus
  /-- `RES.HANG_STAT` -/
  | resHangStat
  /-- `RES.REPLAY_STAT` -/
  | resReplayStat
  /-- `RES.SCR_CFG` -/
  | resScrCfg
  /-- `RES.SHADOW_CFG` -/
  | resShadowCfg
  /-- `RES.SHADOW_STAT` -/
  | resShadowStat
  /-- `RES.HIST_CFG` -/
  | resHistCfg
  /-- `RES.DIG_BASE` -/
  | resDigBase
  /-- `RES.DIG_CFG` -/
  | resDigCfg
  /-- `PWR.CTRL` -/
  | pwrCtrl
  /-- `PWR.CAP` -/
  | pwrCap
  /-- `PWR.EPOCH` -/
  | pwrEpoch
  /-- `PWR.GRANT` -/
  | pwrGrant
  /-- `PWR.DIEn_CLK` -/
  | pwrDieClk
  /-- `PWR.FLOOR` -/
  | pwrFloor
  /-- `PWR.THERM` -/
  | pwrTherm
  /-- `PWR.TELEM` -/
  | pwrTelem
  /-- `PWR.PARK` -/
  | pwrPark
  /-- `PWR.DOM0` -/
  | pwrDom0
  /-- `PWR.DOM1` -/
  | pwrDom1
  /-- `PRT.MODE` -/
  | prtMode
  /-- `PRT.LAYOUT` -/
  | prtLayout
  /-- `PRT.PARTn_REPORT` -/
  | prtPartReport
  /-- `PRT.CAP_MEM` -/
  | prtCapMem
  /-- `PRT.CAP_SEQ` -/
  | prtCapSeq
  /-- `PRT.CAP_JRN` -/
  | prtCapJrn
  /-- `DDRC.CHn_STATUS` -/
  | ddrcChStatus
  /-- `DDRC.CHn_ECC` -/
  | ddrcChEcc
  /-- `ARB.CFG_ERR` -/
  | arbCfgErr
  /-- `EVC.CFG_ERR` -/
  | evcCfgErr
  /-- `SEC.CFG_ERR` -/
  | secCfgErr
  /-- `PWR.CFG_ERR` -/
  | pwrCfgErr
  /-- `RES.CFG_ERR` -/
  | resCfgErr
  /-- `PRT.CFG_ERR` -/
  | prtCfgErr
  /-- `HUB.CFG_ERR` -/
  | hubCfgErr
  /-- `KIO.CFG_ERR` -/
  | kioCfgErr
  /-- `SHC.CFG_ERR` -/
  | shcCfgErr
  /-- `DDRC.CFG_ERR` -/
  | ddrcCfgErr
  /-- `IGF.CFG_ERR` -/
  | igfCfgErr
  /-- `HPT.CFG_ERR` -/
  | hptCfgErr
  /-- `CE.CFG_ERR` -/
  | ceCfgErr
  /-- `SEQE.CFG_ERR` -/
  | seqeCfgErr
  /-- `HBMC.CFG_ERR` -/
  | hbmcCfgErr
  /-- `XLAT.CFG_ERR` -/
  | xlatCfgErr
  /-- `RES.PART_CFG_ERR` -/
  | resPartCfgErr
  /-- `PRT.PART_CFG_ERR` -/
  | prtPartCfgErr
  /-- `HPT.WIN_CFG_ERR` -/
  | hptWinCfgErr
  /-- `HPT.DRk_MSI` -/
  | hptMsi
  /-- `HPT.DRk_DB` -/
  | hptDb
  /-- `HPT.DRk_CQ_DB` -/
  | hptCqDb
  deriving DecidableEq, Repr

/-- The number of a register, used in the key of its stored value. -/
def RegName.code : RegName → Nat
  | .btmNow => 1
  | .btmCtrl => 2
  | .btmStatus => 3
  | .btmFreqAdj => 4
  | .btmPtpCfg => 5
  | .btmSrcFilt => 6
  | .btmSrcStat => 7
  | .btmTod => 8
  | .btmPpsCfg => 9
  | .btmCfgErr => 10
  | .seqeEwStat => 11
  | .arbEwStat => 12
  | .seqeEwSlot => 13
  | .arbEwSlot => 14
  | .seqeEwNext => 15
  | .arbEwNext => 16
  | .ceId => 17
  | .ceState => 18
  | .ceCtrl => 19
  | .ceOcc => 20
  | .ceSqcStat => 21
  | .cePerfTensor => 22
  | .cePerfVec => 23
  | .ceDieMap0 => 24
  | .ceDieMap1 => 25
  | .seqeCtrl => 26
  | .seqeKvbtBase => 27
  | .seqePoolCfg => 28
  | .seqePoolCap => 29
  | .seqePoolStat => 30
  | .seqeStat0 => 31
  | .seqeStat1 => 32
  | .seqeStat2 => 33
  | .seqeKvcStat => 34
  | .prtPromCtrl => 35
  | .prtPromAge => 36
  | .prtPgpoolCfg => 37
  | .prtPgpoolCap => 38
  | .prtPgpoolStat => 39
  | .prtPromQdepth => 40
  | .prtPromStat0 => 41
  | .prtPromStat1 => 42
  | .prtPromStat2 => 43
  | .hubCoreState => 44
  | .hubCoreStat => 45
  | .hubCoreIso => 46
  | .shcCtrl => 47
  | .shcRetryCfg => 48
  | .shcPartCfg => 49
  | .shcPartStat => 50
  | .shcSliceStat0 => 51
  | .shcSliceStat1 => 52
  | .shcSliceStat2 => 53
  | .kioLinkStatus => 54
  | .kioLinkCfg => 55
  | .kioLinkErr => 56
  | .kioTimeout => 57
  | .hbmcChStatus => 58
  | .hbmcChEcc => 59
  | .hbmcChSlot => 60
  | .hbmcChScrub => 61
  | .hbmcScrubCfg => 62
  | .hbmcChTestCfg => 63
  | .hbmcChTestPat => 64
  | .hbmcChTestStat => 65
  | .hbmcIlCfg => 66
  | .hbmcTourBase => 67
  | .hbmcTourLen => 68
  | .hbmcTourCmd => 69
  | .hbmcTourPat => 70
  | .hbmcTourResult => 71
  | .hbmcTourStatus => 72
  | .xlatFqBase => 73
  | .xlatFqCfg => 74
  | .xlatFqHead => 75
  | .xlatFqTail => 76
  | .xlatFqResolve => 77
  | .xlatFqStat => 78
  | .xlatFqTimeout => 79
  | .xlatFqMsi => 80
  | .xlatInvReq => 81
  | .xlatInvIssued => 82
  | .xlatInvDone => 83
  | .xlatWalkStat => 84
  | .xlatTlbStat => 85
  | .hptPortStatus => 86
  | .hptPortCfg => 87
  | .hptPortBind => 88
  | .hptSqBase => 89
  | .hptCqBase => 90
  | .hptHeadWb => 91
  | .hptCfg => 92
  | .hptAttach => 93
  | .hptStatus => 94
  | .hptStat => 95
  | .igfRt => 96
  | .igfCtrl => 97
  | .igfNode => 98
  | .igfPortStatus => 99
  | .igfPortCfg => 100
  | .igfPortStat => 101
  | .igfRetx => 102
  | .igfDtSel => 103
  | .igfDtData0 => 104
  | .igfDtData1 => 105
  | .igfWinBase => 106
  | .igfWinCfg => 107
  | .igfPeerStat => 108
  | .arbPairStatus => 109
  | .arbPairCtrl => 110
  | .arbWdog => 111
  | .arbEscLimit => 112
  | .arbFastVec => 113
  | .arbTlTail => 114
  | .arbTlStat => 115
  | .evcCtrl => 116
  | .evcAge => 117
  | .evcSrcCfg => 118
  | .evcSrcState => 119
  | .evcSet => 120
  | .evcStat => 121
  | .secBootStatus => 122
  | .secBootSrc => 123
  | .secBootLen => 124
  | .secBootCmd => 125
  | .secFwState => 126
  | .secFwRemap => 127
  | .secId => 128
  | .secSerial => 129
  | .resCtrl => 130
  | .resWdogCfg => 131
  | .resTqCfg => 132
  | .resEscCfg => 133
  | .resResetReq => 134
  | .resPartStatus => 135
  | .resHangStat => 136
  | .resReplayStat => 137
  | .resScrCfg => 138
  | .resShadowCfg => 139
  | .resShadowStat => 140
  | .resHistCfg => 141
  | .resDigBase => 142
  | .resDigCfg => 143
  | .pwrCtrl => 144
  | .pwrCap => 145
  | .pwrEpoch => 146
  | .pwrGrant => 147
  | .pwrDieClk => 148
  | .pwrFloor => 149
  | .pwrTherm => 150
  | .pwrTelem => 151
  | .pwrPark => 152
  | .pwrDom0 => 153
  | .pwrDom1 => 154
  | .prtMode => 155
  | .prtLayout => 156
  | .prtPartReport => 157
  | .prtCapMem => 158
  | .prtCapSeq => 159
  | .prtCapJrn => 160
  | .ddrcChStatus => 161
  | .ddrcChEcc => 162
  | .arbCfgErr => 163
  | .evcCfgErr => 164
  | .secCfgErr => 165
  | .pwrCfgErr => 166
  | .resCfgErr => 167
  | .prtCfgErr => 168
  | .hubCfgErr => 169
  | .kioCfgErr => 170
  | .shcCfgErr => 171
  | .ddrcCfgErr => 172
  | .igfCfgErr => 173
  | .hptCfgErr => 174
  | .ceCfgErr => 175
  | .seqeCfgErr => 176
  | .hbmcCfgErr => 177
  | .xlatCfgErr => 178
  | .resPartCfgErr => 179
  | .prtPartCfgErr => 180
  | .hptWinCfgErr => 181
  | .hptMsi => 182
  | .hptDb => 183
  | .hptCqDb => 184

/-- A field of a register: bits `[hi:lo]` (R5). -/
structure Fld where
  reg : RegName
  hi : Nat
  lo : Nat
  deriving DecidableEq, Repr

/-- A field with its access code, reset value, least and greatest accepted value, and whether it is recomputed from the
state of a unit at a reset (`keep`) or is a statistics counter (`cnt`) (R480). -/
structure FldDef where
  fld : Fld
  acc : Acc
  reset : Nat
  lo : Nat
  hi : Nat
  keep : Bool
  cnt : Bool
  deriving DecidableEq, Repr

/-- `BTM.NOW.NS` -/
def F.btmNowNs : Fld := ⟨.btmNow, 63, 0⟩
/-- `BTM.CTRL.PTP_EN` -/
def F.btmCtrlPtpEn : Fld := ⟨.btmCtrl, 0, 0⟩
/-- `BTM.CTRL.PPS_EN` -/
def F.btmCtrlPpsEn : Fld := ⟨.btmCtrl, 1, 1⟩
/-- `BTM.CTRL.HOLD_EN` -/
def F.btmCtrlHoldEn : Fld := ⟨.btmCtrl, 2, 2⟩
/-- `BTM.CTRL.PTP_PORTS` -/
def F.btmCtrlPtpPorts : Fld := ⟨.btmCtrl, 10, 3⟩
/-- `BTM.CTRL.STEP_REQ` -/
def F.btmCtrlStepReq : Fld := ⟨.btmCtrl, 11, 11⟩
/-- `BTM.CTRL.CNT_CLR` -/
def F.btmCtrlCntClr : Fld := ⟨.btmCtrl, 12, 12⟩
/-- `BTM.CTRL.LOCK` -/
def F.btmCtrlLock : Fld := ⟨.btmCtrl, 63, 63⟩
/-- `BTM.STATUS.STATE` -/
def F.btmStatusState : Fld := ⟨.btmStatus, 2, 0⟩
/-- `BTM.STATUS.SOURCE` -/
def F.btmStatusSource : Fld := ⟨.btmStatus, 4, 3⟩
/-- `BTM.STATUS.PTP_PORT` -/
def F.btmStatusPtpPort : Fld := ⟨.btmStatus, 7, 5⟩
/-- `BTM.STATUS.ERR_BOUND_NS` -/
def F.btmStatusErrBoundNs : Fld := ⟨.btmStatus, 39, 8⟩
/-- `BTM.STATUS.PTP_FAULT` -/
def F.btmStatusPtpFault : Fld := ⟨.btmStatus, 61, 61⟩
/-- `BTM.STATUS.PPS_FAULT` -/
def F.btmStatusPpsFault : Fld := ⟨.btmStatus, 62, 62⟩
/-- `BTM.STATUS.SRC_FAULT` -/
def F.btmStatusSrcFault : Fld := ⟨.btmStatus, 63, 63⟩
/-- `BTM.FREQ_ADJ.ADJ` -/
def F.btmFreqAdjAdj : Fld := ⟨.btmFreqAdj, 31, 0⟩
/-- `BTM.PTP_CFG.DOMAIN` -/
def F.btmPtpCfgDomain : Fld := ⟨.btmPtpCfg, 6, 0⟩
/-- `BTM.PTP_CFG.DELAY` -/
def F.btmPtpCfgDelay : Fld := ⟨.btmPtpCfg, 8, 7⟩
/-- `BTM.SRC_FILT.OUTLIER_NS` -/
def F.btmSrcFiltOutlierNs : Fld := ⟨.btmSrcFilt, 31, 0⟩
/-- `BTM.SRC_FILT.REJECT_LIMIT` -/
def F.btmSrcFiltRejectLimit : Fld := ⟨.btmSrcFilt, 39, 32⟩
/-- `BTM.SRC_FILT.BW` -/
def F.btmSrcFiltBw : Fld := ⟨.btmSrcFilt, 46, 40⟩
/-- `BTM.SRC_STAT.ACCEPTED` -/
def F.btmSrcStatAccepted : Fld := ⟨.btmSrcStat, 31, 0⟩
/-- `BTM.SRC_STAT.REJECTED` -/
def F.btmSrcStatRejected : Fld := ⟨.btmSrcStat, 63, 32⟩
/-- `BTM.TOD.SEC` -/
def F.btmTodSec : Fld := ⟨.btmTod, 39, 0⟩
/-- `BTM.TOD.VALID` -/
def F.btmTodValid : Fld := ⟨.btmTod, 40, 40⟩
/-- `BTM.PPS_CFG.EDGE` -/
def F.btmPpsCfgEdge : Fld := ⟨.btmPpsCfg, 0, 0⟩
/-- `BTM.PPS_CFG.GLITCH` -/
def F.btmPpsCfgGlitch : Fld := ⟨.btmPpsCfg, 7, 1⟩
/-- `BTM.PPS_CFG.WINDOW_NS` -/
def F.btmPpsCfgWindowNs : Fld := ⟨.btmPpsCfg, 39, 8⟩
/-- `BTM.CFG_ERR.CFG_ERR` -/
def F.btmCfgErrCfgErr : Fld := ⟨.btmCfgErr, 0, 0⟩
/-- `BTM.CFG_ERR.CONFLICT` -/
def F.btmCfgErrConflict : Fld := ⟨.btmCfgErr, 1, 1⟩
/-- `SEQE.EW_STAT.ARMED` -/
def F.seqeEwStatArmed : Fld := ⟨.seqeEwStat, 15, 0⟩
/-- `SEQE.EW_STAT.OVERFLOW` -/
def F.seqeEwStatOverflow : Fld := ⟨.seqeEwStat, 31, 16⟩
/-- `SEQE.EW_STAT.LATE` -/
def F.seqeEwStatLate : Fld := ⟨.seqeEwStat, 47, 32⟩
/-- `SEQE.EW_STAT.FULL` -/
def F.seqeEwStatFull : Fld := ⟨.seqeEwStat, 63, 48⟩
/-- `ARB.EW_STAT.ARMED` -/
def F.arbEwStatArmed : Fld := ⟨.arbEwStat, 15, 0⟩
/-- `ARB.EW_STAT.OVERFLOW` -/
def F.arbEwStatOverflow : Fld := ⟨.arbEwStat, 31, 16⟩
/-- `ARB.EW_STAT.LATE` -/
def F.arbEwStatLate : Fld := ⟨.arbEwStat, 47, 32⟩
/-- `ARB.EW_STAT.FULL` -/
def F.arbEwStatFull : Fld := ⟨.arbEwStat, 63, 48⟩
/-- `SEQE.EW_SLOTn.OWNER` -/
def F.seqeEwSlotOwner : Fld := ⟨.seqeEwSlot, 3, 0⟩
/-- `SEQE.EW_SLOTn.PERIOD_US` -/
def F.seqeEwSlotPeriodUs : Fld := ⟨.seqeEwSlot, 39, 8⟩
/-- `ARB.EW_SLOTn.OWNER` -/
def F.arbEwSlotOwner : Fld := ⟨.arbEwSlot, 3, 0⟩
/-- `ARB.EW_SLOTn.PERIOD_US` -/
def F.arbEwSlotPeriodUs : Fld := ⟨.arbEwSlot, 39, 8⟩
/-- `SEQE.EW_NEXTn.BT` -/
def F.seqeEwNextBt : Fld := ⟨.seqeEwNext, 63, 0⟩
/-- `ARB.EW_NEXTn.BT` -/
def F.arbEwNextBt : Fld := ⟨.arbEwNext, 63, 0⟩
/-- `CE.ID.PHYS` -/
def F.ceIdPhys : Fld := ⟨.ceId, 4, 0⟩
/-- `CE.ID.DIE` -/
def F.ceIdDie : Fld := ⟨.ceId, 7, 5⟩
/-- `CE.ID.GROUP` -/
def F.ceIdGroup : Fld := ⟨.ceId, 10, 8⟩
/-- `CE.ID.LOGICAL` -/
def F.ceIdLogical : Fld := ⟨.ceId, 18, 11⟩
/-- `CE.STATE.STATE` -/
def F.ceStateState : Fld := ⟨.ceState, 2, 0⟩
/-- `CE.STATE.RANK` -/
def F.ceStateRank : Fld := ⟨.ceState, 4, 3⟩
/-- `CE.STATE.SLOTS_USED` -/
def F.ceStateSlotsUsed : Fld := ⟨.ceState, 7, 5⟩
/-- `CE.STATE.TENSOR_BUSY` -/
def F.ceStateTensorBusy : Fld := ⟨.ceState, 8, 8⟩
/-- `CE.STATE.TENSOR_SLOT` -/
def F.ceStateTensorSlot : Fld := ⟨.ceState, 10, 9⟩
/-- `CE.CTRL.WITHHOLD` -/
def F.ceCtrlWithhold : Fld := ⟨.ceCtrl, 0, 0⟩
/-- `CE.CTRL.PF_EN` -/
def F.ceCtrlPfEn : Fld := ⟨.ceCtrl, 1, 1⟩
/-- `CE.CTRL.SLOTS_MAX` -/
def F.ceCtrlSlotsMax : Fld := ⟨.ceCtrl, 4, 2⟩
/-- `CE.CTRL.CNT_CLR` -/
def F.ceCtrlCntClr : Fld := ⟨.ceCtrl, 5, 5⟩
/-- `CE.CTRL.LOCK` -/
def F.ceCtrlLock : Fld := ⟨.ceCtrl, 63, 63⟩
/-- `CE.OCC.COHORTS` -/
def F.ceOccCohorts : Fld := ⟨.ceOcc, 9, 0⟩
/-- `CE.OCC.REG_KIB` -/
def F.ceOccRegKib : Fld := ⟨.ceOcc, 20, 10⟩
/-- `CE.OCC.LS_4KIB` -/
def F.ceOccLs4kib : Fld := ⟨.ceOcc, 30, 21⟩
/-- `CE.SQC_STAT.CLEAN_REFETCH` -/
def F.ceSqcStatCleanRefetch : Fld := ⟨.ceSqcStat, 15, 0⟩
/-- `CE.SQC_STAT.DIRTY_POISON` -/
def F.ceSqcStatDirtyPoison : Fld := ⟨.ceSqcStat, 31, 16⟩
/-- `CE.SQC_STAT.MISSES` -/
def F.ceSqcStatMisses : Fld := ⟨.ceSqcStat, 63, 32⟩
/-- `CE.PERF_TENSOR.BUSY_CYCLES` -/
def F.cePerfTensorBusyCycles : Fld := ⟨.cePerfTensor, 63, 0⟩
/-- `CE.PERF_VEC.ISSUED` -/
def F.cePerfVecIssued : Fld := ⟨.cePerfVec, 63, 0⟩
/-- `CE.DIE_MAP0.PHYS` -/
def F.ceDieMap0Phys : Fld := ⟨.ceDieMap0, 59, 0⟩
/-- `CE.DIE_MAP1.PHYS` -/
def F.ceDieMap1Phys : Fld := ⟨.ceDieMap1, 59, 0⟩
/-- `SEQE.CTRL.ENABLE` -/
def F.seqeCtrlEnable : Fld := ⟨.seqeCtrl, 0, 0⟩
/-- `SEQE.CTRL.CNT_CLR` -/
def F.seqeCtrlCntClr : Fld := ⟨.seqeCtrl, 1, 1⟩
/-- `SEQE.KVBT_BASE.ADDR` -/
def F.seqeKvbtBaseAddr : Fld := ⟨.seqeKvbtBase, 47, 24⟩
/-- `SEQE.POOLn_CFG.VALID` -/
def F.seqePoolCfgValid : Fld := ⟨.seqePoolCfg, 0, 0⟩
/-- `SEQE.POOLn_CFG.TIER` -/
def F.seqePoolCfgTier : Fld := ⟨.seqePoolCfg, 1, 1⟩
/-- `SEQE.POOLn_CFG.CLASS` -/
def F.seqePoolCfgClass : Fld := ⟨.seqePoolCfg, 4, 2⟩
/-- `SEQE.POOLn_CFG.STACK` -/
def F.seqePoolCfgStack : Fld := ⟨.seqePoolCfg, 47, 12⟩
/-- `SEQE.POOLn_CAP.CAP` -/
def F.seqePoolCapCap : Fld := ⟨.seqePoolCap, 31, 0⟩
/-- `SEQE.POOLn_STAT.FREE` -/
def F.seqePoolStatFree : Fld := ⟨.seqePoolStat, 31, 0⟩
/-- `SEQE.POOLn_STAT.TAKEN` -/
def F.seqePoolStatTaken : Fld := ⟨.seqePoolStat, 63, 32⟩
/-- `SEQE.STAT0.COW_COPIES` -/
def F.seqeStat0CowCopies : Fld := ⟨.seqeStat0, 31, 0⟩
/-- `SEQE.STAT0.POOL_EMPTY` -/
def F.seqeStat0PoolEmpty : Fld := ⟨.seqeStat0, 63, 32⟩
/-- `SEQE.STAT1.SUBST` -/
def F.seqeStat1Subst : Fld := ⟨.seqeStat1, 31, 0⟩
/-- `SEQE.STAT1.SHADOW` -/
def F.seqeStat1Shadow : Fld := ⟨.seqeStat1, 63, 32⟩
/-- `SEQE.STAT2.HELD` -/
def F.seqeStat2Held : Fld := ⟨.seqeStat2, 31, 0⟩
/-- `SEQE.STAT2.POISON` -/
def F.seqeStat2Poison : Fld := ⟨.seqeStat2, 63, 32⟩
/-- `SEQE.KVC_STAT.HITS` -/
def F.seqeKvcStatHits : Fld := ⟨.seqeKvcStat, 31, 0⟩
/-- `SEQE.KVC_STAT.MISSES` -/
def F.seqeKvcStatMisses : Fld := ⟨.seqeKvcStat, 63, 32⟩
/-- `PRT.PROM_CTRL.ENABLE` -/
def F.prtPromCtrlEnable : Fld := ⟨.prtPromCtrl, 0, 0⟩
/-- `PRT.PROM_CTRL.CNT_CLR` -/
def F.prtPromCtrlCntClr : Fld := ⟨.prtPromCtrl, 1, 1⟩
/-- `PRT.PROM_CTRL.LOCK` -/
def F.prtPromCtrlLock : Fld := ⟨.prtPromCtrl, 63, 63⟩
/-- `PRT.PROM_AGE.HORIZON_US` -/
def F.prtPromAgeHorizonUs : Fld := ⟨.prtPromAge, 31, 0⟩
/-- `PRT.PGPOOLn_CFG.VALID` -/
def F.prtPgpoolCfgValid : Fld := ⟨.prtPgpoolCfg, 0, 0⟩
/-- `PRT.PGPOOLn_CFG.STACK` -/
def F.prtPgpoolCfgStack : Fld := ⟨.prtPgpoolCfg, 47, 12⟩
/-- `PRT.PGPOOLn_CAP.CAP` -/
def F.prtPgpoolCapCap : Fld := ⟨.prtPgpoolCap, 31, 0⟩
/-- `PRT.PGPOOLn_STAT.FREE` -/
def F.prtPgpoolStatFree : Fld := ⟨.prtPgpoolStat, 31, 0⟩
/-- `PRT.PGPOOLn_STAT.TAKEN` -/
def F.prtPgpoolStatTaken : Fld := ⟨.prtPgpoolStat, 63, 32⟩
/-- `PRT.PROM_QDEPTH.DEMAND` -/
def F.prtPromQdepthDemand : Fld := ⟨.prtPromQdepth, 15, 0⟩
/-- `PRT.PROM_QDEPTH.SCHED` -/
def F.prtPromQdepthSched : Fld := ⟨.prtPromQdepth, 31, 16⟩
/-- `PRT.PROM_QDEPTH.BACKGROUND` -/
def F.prtPromQdepthBackground : Fld := ⟨.prtPromQdepth, 47, 32⟩
/-- `PRT.PROM_QDEPTH.OLDEST_BG_MS` -/
def F.prtPromQdepthOldestBgMs : Fld := ⟨.prtPromQdepth, 63, 48⟩
/-- `PRT.PROM_STAT0.UP_BURSTS` -/
def F.prtPromStat0UpBursts : Fld := ⟨.prtPromStat0, 31, 0⟩
/-- `PRT.PROM_STAT0.DOWN_BURSTS` -/
def F.prtPromStat0DownBursts : Fld := ⟨.prtPromStat0, 63, 32⟩
/-- `PRT.PROM_STAT1.AGED` -/
def F.prtPromStat1Aged : Fld := ⟨.prtPromStat1, 31, 0⟩
/-- `PRT.PROM_STAT1.LATE_ENTRIES` -/
def F.prtPromStat1LateEntries : Fld := ⟨.prtPromStat1, 63, 32⟩
/-- `PRT.PROM_STAT2.QUOTA_FAULTS` -/
def F.prtPromStat2QuotaFaults : Fld := ⟨.prtPromStat2, 31, 0⟩
/-- `PRT.PROM_STAT2.POISON` -/
def F.prtPromStat2Poison : Fld := ⟨.prtPromStat2, 63, 32⟩
/-- `HUB.COREn_STATE.STATE` -/
def F.hubCoreStateState : Fld := ⟨.hubCoreState, 2, 0⟩
/-- `HUB.COREn_STATE.LOGICAL` -/
def F.hubCoreStateLogical : Fld := ⟨.hubCoreState, 9, 3⟩
/-- `HUB.COREn_STATE.CLUSTER` -/
def F.hubCoreStateCluster : Fld := ⟨.hubCoreState, 13, 10⟩
/-- `HUB.COREn_STAT.CORRECTED` -/
def F.hubCoreStatCorrected : Fld := ⟨.hubCoreStat, 31, 0⟩
/-- `HUB.COREn_STAT.POISONED` -/
def F.hubCoreStatPoisoned : Fld := ⟨.hubCoreStat, 63, 32⟩
/-- `HUB.CORE_ISO.DROPPED` -/
def F.hubCoreIsoDropped : Fld := ⟨.hubCoreIso, 31, 0⟩
/-- `HUB.CORE_ISO.CNT_CLR` -/
def F.hubCoreIsoCntClr : Fld := ⟨.hubCoreIso, 63, 63⟩
/-- `SHC.CTRL.CNT_CLR` -/
def F.shcCtrlCntClr : Fld := ⟨.shcCtrl, 0, 0⟩
/-- `SHC.CTRL.LOCK` -/
def F.shcCtrlLock : Fld := ⟨.shcCtrl, 63, 63⟩
/-- `SHC.RETRY_CFG.BACKOFF` -/
def F.shcRetryCfgBackoff : Fld := ⟨.shcRetryCfg, 7, 0⟩
/-- `SHC.RETRY_CFG.URGENT_AFTER` -/
def F.shcRetryCfgUrgentAfter : Fld := ⟨.shcRetryCfg, 15, 8⟩
/-- `SHC.PART_CFG.RB_WAYS` -/
def F.shcPartCfgRbWays : Fld := ⟨.shcPartCfg, 3, 0⟩
/-- `SHC.PART_CFG.KEEP_WAYS` -/
def F.shcPartCfgKeepWays : Fld := ⟨.shcPartCfg, 7, 4⟩
/-- `SHC.PART_STAT.RB_MIB` -/
def F.shcPartStatRbMib : Fld := ⟨.shcPartStat, 31, 0⟩
/-- `SHC.PART_STAT.KEEP_LIMIT` -/
def F.shcPartStatKeepLimit : Fld := ⟨.shcPartStat, 63, 32⟩
/-- `SHC.SLICEn_STAT0.HITS` -/
def F.shcSliceStat0Hits : Fld := ⟨.shcSliceStat0, 31, 0⟩
/-- `SHC.SLICEn_STAT0.MISSES` -/
def F.shcSliceStat0Misses : Fld := ⟨.shcSliceStat0, 63, 32⟩
/-- `SHC.SLICEn_STAT1.NACKS` -/
def F.shcSliceStat1Nacks : Fld := ⟨.shcSliceStat1, 31, 0⟩
/-- `SHC.SLICEn_STAT1.KEEP_DENIED` -/
def F.shcSliceStat1KeepDenied : Fld := ⟨.shcSliceStat1, 63, 32⟩
/-- `SHC.SLICEn_STAT2.CORRECTED` -/
def F.shcSliceStat2Corrected : Fld := ⟨.shcSliceStat2, 31, 0⟩
/-- `SHC.SLICEn_STAT2.POISONED` -/
def F.shcSliceStat2Poisoned : Fld := ⟨.shcSliceStat2, 47, 32⟩
/-- `SHC.SLICEn_STAT2.SPARE_WAYS` -/
def F.shcSliceStat2SpareWays : Fld := ⟨.shcSliceStat2, 52, 48⟩
/-- `KIO.LINKn_STATUS.STATE` -/
def F.kioLinkStatusState : Fld := ⟨.kioLinkStatus, 1, 0⟩
/-- `KIO.LINKn_STATUS.GROUP_DOWN` -/
def F.kioLinkStatusGroupDown : Fld := ⟨.kioLinkStatus, 17, 2⟩
/-- `KIO.LINKn_STATUS.SPARE_USED` -/
def F.kioLinkStatusSpareUsed : Fld := ⟨.kioLinkStatus, 33, 18⟩
/-- `KIO.LINKn_CFG.RETRAIN_ERR` -/
def F.kioLinkCfgRetrainErr : Fld := ⟨.kioLinkCfg, 15, 0⟩
/-- `KIO.LINKn_CFG.SWAP_AFTER` -/
def F.kioLinkCfgSwapAfter : Fld := ⟨.kioLinkCfg, 19, 16⟩
/-- `KIO.LINKn_ERR.REPLAYS` -/
def F.kioLinkErrReplays : Fld := ⟨.kioLinkErr, 31, 0⟩
/-- `KIO.LINKn_ERR.RETRAINS` -/
def F.kioLinkErrRetrains : Fld := ⟨.kioLinkErr, 47, 32⟩
/-- `KIO.LINKn_ERR.SWAPS` -/
def F.kioLinkErrSwaps : Fld := ⟨.kioLinkErr, 63, 48⟩
/-- `KIO.TIMEOUT.REQ_US` -/
def F.kioTimeoutReqUs : Fld := ⟨.kioTimeout, 13, 0⟩
/-- `KIO.TIMEOUT.LOCK` -/
def F.kioTimeoutLock : Fld := ⟨.kioTimeout, 63, 63⟩
/-- `HBMC.CHn_STATUS.STATE` -/
def F.hbmcChStatusState : Fld := ⟨.hbmcChStatus, 1, 0⟩
/-- `HBMC.CHn_STATUS.LANES_USED` -/
def F.hbmcChStatusLanesUsed : Fld := ⟨.hbmcChStatus, 5, 2⟩
/-- `HBMC.CHn_STATUS.ROWS_REPAIRED` -/
def F.hbmcChStatusRowsRepaired : Fld := ⟨.hbmcChStatus, 21, 6⟩
/-- `HBMC.CHn_ECC.CORRECTED` -/
def F.hbmcChEccCorrected : Fld := ⟨.hbmcChEcc, 15, 0⟩
/-- `HBMC.CHn_ECC.CRC_RETRY` -/
def F.hbmcChEccCrcRetry : Fld := ⟨.hbmcChEcc, 31, 16⟩
/-- `HBMC.CHn_ECC.UNCORR` -/
def F.hbmcChEccUncorr : Fld := ⟨.hbmcChEcc, 47, 32⟩
/-- `HBMC.CHn_ECC.ON_DIE` -/
def F.hbmcChEccOnDie : Fld := ⟨.hbmcChEcc, 63, 48⟩
/-- `HBMC.CHn_SLOT.OWNER` -/
def F.hbmcChSlotOwner : Fld := ⟨.hbmcChSlot, 1, 0⟩
/-- `HBMC.CHn_SLOT.SHARE` -/
def F.hbmcChSlotShare : Fld := ⟨.hbmcChSlot, 14, 8⟩
/-- `HBMC.CHn_SCRUB.PTR` -/
def F.hbmcChScrubPtr : Fld := ⟨.hbmcChScrub, 20, 0⟩
/-- `HBMC.CHn_SCRUB.PASSES` -/
def F.hbmcChScrubPasses : Fld := ⟨.hbmcChScrub, 47, 32⟩
/-- `HBMC.SCRUB_CFG.ROWS` -/
def F.hbmcScrubCfgRows : Fld := ⟨.hbmcScrubCfg, 7, 0⟩
/-- `HBMC.SCRUB_CFG.LOCK` -/
def F.hbmcScrubCfgLock : Fld := ⟨.hbmcScrubCfg, 63, 63⟩
/-- `HBMC.CHn_TEST_CFG.PATTERN` -/
def F.hbmcChTestCfgPattern : Fld := ⟨.hbmcChTestCfg, 2, 0⟩
/-- `HBMC.CHn_TEST_CFG.WALK` -/
def F.hbmcChTestCfgWalk : Fld := ⟨.hbmcChTestCfg, 4, 3⟩
/-- `HBMC.CHn_TEST_CFG.START` -/
def F.hbmcChTestCfgStart : Fld := ⟨.hbmcChTestCfg, 5, 5⟩
/-- `HBMC.CHn_TEST_CFG.STOP` -/
def F.hbmcChTestCfgStop : Fld := ⟨.hbmcChTestCfg, 6, 6⟩
/-- `HBMC.CHn_TEST_CFG.SEED` -/
def F.hbmcChTestCfgSeed : Fld := ⟨.hbmcChTestCfg, 63, 32⟩
/-- `HBMC.CHn_TEST_PAT.PAT` -/
def F.hbmcChTestPatPat : Fld := ⟨.hbmcChTestPat, 63, 0⟩
/-- `HBMC.CHn_TEST_STAT.ERRORS` -/
def F.hbmcChTestStatErrors : Fld := ⟨.hbmcChTestStat, 31, 0⟩
/-- `HBMC.CHn_TEST_STAT.DONE` -/
def F.hbmcChTestStatDone : Fld := ⟨.hbmcChTestStat, 32, 32⟩
/-- `HBMC.CHn_TEST_STAT.RUNNING` -/
def F.hbmcChTestStatRunning : Fld := ⟨.hbmcChTestStat, 33, 33⟩
/-- `HBMC.CHn_TEST_STAT.FIRST_FAIL` -/
def F.hbmcChTestStatFirstFail : Fld := ⟨.hbmcChTestStat, 58, 34⟩
/-- `HBMC.IL_CFG.WIDE_MIB` -/
def F.hbmcIlCfgWideMib : Fld := ⟨.hbmcIlCfg, 10, 0⟩
/-- `HBMC.TOURp_BASE.ADDR` -/
def F.hbmcTourBaseAddr : Fld := ⟨.hbmcTourBase, 47, 9⟩
/-- `HBMC.TOURp_LEN.UNITS` -/
def F.hbmcTourLenUnits : Fld := ⟨.hbmcTourLen, 41, 9⟩
/-- `HBMC.TOURp_CMD.OP` -/
def F.hbmcTourCmdOp : Fld := ⟨.hbmcTourCmd, 1, 0⟩
/-- `HBMC.TOURp_CMD.GO` -/
def F.hbmcTourCmdGo : Fld := ⟨.hbmcTourCmd, 2, 2⟩
/-- `HBMC.TOURp_PAT.PAT` -/
def F.hbmcTourPatPat : Fld := ⟨.hbmcTourPat, 63, 0⟩
/-- `HBMC.TOURp_RESULT.DIGEST` -/
def F.hbmcTourResultDigest : Fld := ⟨.hbmcTourResult, 63, 0⟩
/-- `HBMC.TOURp_STATUS.STATE` -/
def F.hbmcTourStatusState : Fld := ⟨.hbmcTourStatus, 1, 0⟩
/-- `HBMC.TOURp_STATUS.DONE_UNITS` -/
def F.hbmcTourStatusDoneUnits : Fld := ⟨.hbmcTourStatus, 34, 2⟩
/-- `XLAT.FQ_BASE.ADDR` -/
def F.xlatFqBaseAddr : Fld := ⟨.xlatFqBase, 47, 12⟩
/-- `XLAT.FQ_CFG.LOG2_SIZE` -/
def F.xlatFqCfgLog2Size : Fld := ⟨.xlatFqCfg, 4, 0⟩
/-- `XLAT.FQ_CFG.ENABLE` -/
def F.xlatFqCfgEnable : Fld := ⟨.xlatFqCfg, 5, 5⟩
/-- `XLAT.FQ_HEAD.COUNT` -/
def F.xlatFqHeadCount : Fld := ⟨.xlatFqHead, 31, 0⟩
/-- `XLAT.FQ_TAIL.COUNT` -/
def F.xlatFqTailCount : Fld := ⟨.xlatFqTail, 31, 0⟩
/-- `XLAT.FQ_RESOLVE.FAULT_ID` -/
def F.xlatFqResolveFaultId : Fld := ⟨.xlatFqResolve, 31, 0⟩
/-- `XLAT.FQ_RESOLVE.SOURCE` -/
def F.xlatFqResolveSource : Fld := ⟨.xlatFqResolve, 41, 32⟩
/-- `XLAT.FQ_RESOLVE.KIND` -/
def F.xlatFqResolveKind : Fld := ⟨.xlatFqResolve, 42, 42⟩
/-- `XLAT.FQ_RESOLVE.ACTION` -/
def F.xlatFqResolveAction : Fld := ⟨.xlatFqResolve, 44, 43⟩
/-- `XLAT.FQ_STAT.OVERFLOW` -/
def F.xlatFqStatOverflow : Fld := ⟨.xlatFqStat, 31, 0⟩
/-- `XLAT.FQ_STAT.HELD` -/
def F.xlatFqStatHeld : Fld := ⟨.xlatFqStat, 47, 32⟩
/-- `XLAT.FQ_STAT.STALE` -/
def F.xlatFqStatStale : Fld := ⟨.xlatFqStat, 63, 48⟩
/-- `XLAT.FQ_TIMEOUT.TIMEOUT_MS` -/
def F.xlatFqTimeoutTimeoutMs : Fld := ⟨.xlatFqTimeout, 31, 0⟩
/-- `XLAT.FQ_MSI.HART` -/
def F.xlatFqMsiHart : Fld := ⟨.xlatFqMsi, 6, 0⟩
/-- `XLAT.FQ_MSI.FILE` -/
def F.xlatFqMsiFile : Fld := ⟨.xlatFqMsi, 9, 7⟩
/-- `XLAT.FQ_MSI.EIID` -/
def F.xlatFqMsiEiid : Fld := ⟨.xlatFqMsi, 18, 10⟩
/-- `XLAT.FQ_MSI.EN` -/
def F.xlatFqMsiEn : Fld := ⟨.xlatFqMsi, 19, 19⟩
/-- `XLAT.INV_REQ.CTX` -/
def F.xlatInvReqCtx : Fld := ⟨.xlatInvReq, 11, 0⟩
/-- `XLAT.INV_REQ.SCOPE` -/
def F.xlatInvReqScope : Fld := ⟨.xlatInvReq, 13, 12⟩
/-- `XLAT.INV_REQ.LOG2_PAGES` -/
def F.xlatInvReqLog2Pages : Fld := ⟨.xlatInvReq, 19, 14⟩
/-- `XLAT.INV_REQ.AVA` -/
def F.xlatInvReqAva : Fld := ⟨.xlatInvReq, 59, 20⟩
/-- `XLAT.INV_ISSUED.TOKEN` -/
def F.xlatInvIssuedToken : Fld := ⟨.xlatInvIssued, 63, 0⟩
/-- `XLAT.INV_DONE.TOKEN` -/
def F.xlatInvDoneToken : Fld := ⟨.xlatInvDone, 63, 0⟩
/-- `XLAT.WALK_STAT.WALKS` -/
def F.xlatWalkStatWalks : Fld := ⟨.xlatWalkStat, 31, 0⟩
/-- `XLAT.WALK_STAT.MALFORMED` -/
def F.xlatWalkStatMalformed : Fld := ⟨.xlatWalkStat, 47, 32⟩
/-- `XLAT.TLB_STAT.L2_HITS` -/
def F.xlatTlbStatL2Hits : Fld := ⟨.xlatTlbStat, 31, 0⟩
/-- `XLAT.TLB_STAT.L2_MISSES` -/
def F.xlatTlbStatL2Misses : Fld := ⟨.xlatTlbStat, 63, 32⟩
/-- `HPT.PORT_STATUS.LINK` -/
def F.hptPortStatusLink : Fld := ⟨.hptPortStatus, 1, 0⟩
/-- `HPT.PORT_STATUS.WIDTH` -/
def F.hptPortStatusWidth : Fld := ⟨.hptPortStatus, 5, 2⟩
/-- `HPT.PORT_STATUS.RATE` -/
def F.hptPortStatusRate : Fld := ⟨.hptPortStatus, 9, 6⟩
/-- `HPT.PORT_STATUS.L0P_WIDTH` -/
def F.hptPortStatusL0pWidth : Fld := ⟨.hptPortStatus, 13, 10⟩
/-- `HPT.PORT_STATUS.LINK_IDE` -/
def F.hptPortStatusLinkIde : Fld := ⟨.hptPortStatus, 14, 14⟩
/-- `HPT.PORT_STATUS.SEL_IDE` -/
def F.hptPortStatusSelIde : Fld := ⟨.hptPortStatus, 18, 15⟩
/-- `HPT.PORT_CFG.EVT_VECTOR` -/
def F.hptPortCfgEvtVector : Fld := ⟨.hptPortCfg, 10, 0⟩
/-- `HPT.PORT_CFG.RO_DATA` -/
def F.hptPortCfgRoData : Fld := ⟨.hptPortCfg, 11, 11⟩
/-- `HPT.PORT_BIND.PARTITIONS` -/
def F.hptPortBindPartitions : Fld := ⟨.hptPortBind, 7, 0⟩
/-- `HPT.PORT_BIND.LOCK` -/
def F.hptPortBindLock : Fld := ⟨.hptPortBind, 63, 63⟩
/-- `HPT.RPk_SQ_BASE.ADDR` -/
def F.hptSqBaseAddr : Fld := ⟨.hptSqBase, 63, 12⟩
/-- `HPT.RPk_CQ_BASE.ADDR` -/
def F.hptCqBaseAddr : Fld := ⟨.hptCqBase, 63, 12⟩
/-- `HPT.RPk_HEAD_WB.ADDR` -/
def F.hptHeadWbAddr : Fld := ⟨.hptHeadWb, 63, 3⟩
/-- `HPT.RPk_CFG.LOG2_SQ` -/
def F.hptCfgLog2Sq : Fld := ⟨.hptCfg, 4, 0⟩
/-- `HPT.RPk_CFG.LOG2_CQ` -/
def F.hptCfgLog2Cq : Fld := ⟨.hptCfg, 9, 5⟩
/-- `HPT.RPk_CFG.VECTOR` -/
def F.hptCfgVector : Fld := ⟨.hptCfg, 20, 10⟩
/-- `HPT.RPk_CFG.INT_EN` -/
def F.hptCfgIntEn : Fld := ⟨.hptCfg, 21, 21⟩
/-- `HPT.RPk_ATTACH.CTX` -/
def F.hptAttachCtx : Fld := ⟨.hptAttach, 11, 0⟩
/-- `HPT.RPk_ATTACH.QUEUE` -/
def F.hptAttachQueue : Fld := ⟨.hptAttach, 15, 12⟩
/-- `HPT.RPk_ATTACH.VER_MAJ` -/
def F.hptAttachVerMaj : Fld := ⟨.hptAttach, 23, 16⟩
/-- `HPT.RPk_ATTACH.VER_MIN_MAX` -/
def F.hptAttachVerMinMax : Fld := ⟨.hptAttach, 31, 24⟩
/-- `HPT.RPk_ATTACH.GO` -/
def F.hptAttachGo : Fld := ⟨.hptAttach, 32, 32⟩
/-- `HPT.RPk_ATTACH.DETACH` -/
def F.hptAttachDetach : Fld := ⟨.hptAttach, 33, 33⟩
/-- `HPT.RPk_ATTACH.REARM` -/
def F.hptAttachRearm : Fld := ⟨.hptAttach, 34, 34⟩
/-- `HPT.RPk_ATTACH.ADMIN` -/
def F.hptAttachAdmin : Fld := ⟨.hptAttach, 35, 35⟩
/-- `HPT.RPk_STATUS.STATE` -/
def F.hptStatusState : Fld := ⟨.hptStatus, 2, 0⟩
/-- `HPT.RPk_STATUS.GEN` -/
def F.hptStatusGen : Fld := ⟨.hptStatus, 18, 3⟩
/-- `HPT.RPk_STATUS.VER_MAJ` -/
def F.hptStatusVerMaj : Fld := ⟨.hptStatus, 26, 19⟩
/-- `HPT.RPk_STATUS.VER_MIN` -/
def F.hptStatusVerMin : Fld := ⟨.hptStatus, 34, 27⟩
/-- `HPT.RPk_STATUS.ATTACH_ERR` -/
def F.hptStatusAttachErr : Fld := ⟨.hptStatus, 42, 35⟩
/-- `HPT.RPk_STATUS.SHADOW` -/
def F.hptStatusShadow : Fld := ⟨.hptStatus, 59, 43⟩
/-- `HPT.RPk_STAT.DB_IGNORED` -/
def F.hptStatDbIgnored : Fld := ⟨.hptStat, 31, 0⟩
/-- `HPT.RPk_STAT.REREADS` -/
def F.hptStatRereads : Fld := ⟨.hptStat, 47, 32⟩
/-- `HPT.RPk_STAT.SIG_DROPPED` -/
def F.hptStatSigDropped : Fld := ⟨.hptStat, 63, 48⟩
/-- `IGF.RTn.PORT_MASK` -/
def F.igfRtPortMask : Fld := ⟨.igfRt, 7, 0⟩
/-- `IGF.RTn.W` -/
def F.igfRtW : Fld := ⟨.igfRt, 39, 8⟩
/-- `IGF.CTRL.ETHERTYPE` -/
def F.igfCtrlEthertype : Fld := ⟨.igfCtrl, 15, 0⟩
/-- `IGF.CTRL.LOCK` -/
def F.igfCtrlLock : Fld := ⟨.igfCtrl, 63, 63⟩
/-- `IGF.NODE.ID` -/
def F.igfNodeId : Fld := ⟨.igfNode, 11, 0⟩
/-- `IGF.NODE.EPOCH` -/
def F.igfNodeEpoch : Fld := ⟨.igfNode, 63, 32⟩
/-- `IGF.PORTp_STATUS.LINK` -/
def F.igfPortStatusLink : Fld := ⟨.igfPortStatus, 1, 0⟩
/-- `IGF.PORTp_STATUS.HALF` -/
def F.igfPortStatusHalf : Fld := ⟨.igfPortStatus, 2, 2⟩
/-- `IGF.PORTp_STATUS.LANES` -/
def F.igfPortStatusLanes : Fld := ⟨.igfPortStatus, 11, 3⟩
/-- `IGF.PORTp_STATUS.SPARE_USED` -/
def F.igfPortStatusSpareUsed : Fld := ⟨.igfPortStatus, 12, 12⟩
/-- `IGF.PORTp_CFG.SPARE_EN` -/
def F.igfPortCfgSpareEn : Fld := ⟨.igfPortCfg, 0, 0⟩
/-- `IGF.PORTp_CFG.VLAN_EN` -/
def F.igfPortCfgVlanEn : Fld := ⟨.igfPortCfg, 1, 1⟩
/-- `IGF.PORTp_CFG.VID` -/
def F.igfPortCfgVid : Fld := ⟨.igfPortCfg, 13, 2⟩
/-- `IGF.PORTp_CFG.PCP` -/
def F.igfPortCfgPcp : Fld := ⟨.igfPortCfg, 16, 14⟩
/-- `IGF.PORTp_CFG.LANE_ERR` -/
def F.igfPortCfgLaneErr : Fld := ⟨.igfPortCfg, 32, 17⟩
/-- `IGF.PORTp_CFG.ASYM_NS` -/
def F.igfPortCfgAsymNs : Fld := ⟨.igfPortCfg, 48, 33⟩
/-- `IGF.PORTp_STAT.RETX` -/
def F.igfPortStatRetx : Fld := ⟨.igfPortStat, 31, 0⟩
/-- `IGF.PORTp_STAT.FCS_ERR` -/
def F.igfPortStatFcsErr : Fld := ⟨.igfPortStat, 47, 32⟩
/-- `IGF.PORTp_STAT.SWAPS` -/
def F.igfPortStatSwaps : Fld := ⟨.igfPortStat, 63, 48⟩
/-- `IGF.RETX.RTO_US` -/
def F.igfRetxRtoUs : Fld := ⟨.igfRetx, 15, 0⟩
/-- `IGF.RETX.LIMIT` -/
def F.igfRetxLimit : Fld := ⟨.igfRetx, 23, 16⟩
/-- `IGF.RETX.GIVEUP_MS` -/
def F.igfRetxGiveupMs : Fld := ⟨.igfRetx, 47, 24⟩
/-- `IGF.RETX.WINDOW_KIB` -/
def F.igfRetxWindowKib : Fld := ⟨.igfRetx, 63, 48⟩
/-- `IGF.DT_SEL.NODE` -/
def F.igfDtSelNode : Fld := ⟨.igfDtSel, 11, 0⟩
/-- `IGF.DT_DATA0.WORD` -/
def F.igfDtData0Word : Fld := ⟨.igfDtData0, 63, 0⟩
/-- `IGF.DT_DATA1.WORD` -/
def F.igfDtData1Word : Fld := ⟨.igfDtData1, 63, 0⟩
/-- `IGF.WINn_BASE.BASE` -/
def F.igfWinBaseBase : Fld := ⟨.igfWinBase, 47, 16⟩
/-- `IGF.WINn_CFG.LIMIT` -/
def F.igfWinCfgLimit : Fld := ⟨.igfWinCfg, 31, 0⟩
/-- `IGF.WINn_CFG.SRC` -/
def F.igfWinCfgSrc : Fld := ⟨.igfWinCfg, 43, 32⟩
/-- `IGF.WINn_CFG.SRC_MASK` -/
def F.igfWinCfgSrcMask : Fld := ⟨.igfWinCfg, 55, 44⟩
/-- `IGF.WINn_CFG.READ` -/
def F.igfWinCfgRead : Fld := ⟨.igfWinCfg, 56, 56⟩
/-- `IGF.WINn_CFG.WRITE` -/
def F.igfWinCfgWrite : Fld := ⟨.igfWinCfg, 57, 57⟩
/-- `IGF.WINn_CFG.RED` -/
def F.igfWinCfgRed : Fld := ⟨.igfWinCfg, 58, 58⟩
/-- `IGF.WINn_CFG.EN` -/
def F.igfWinCfgEn : Fld := ⟨.igfWinCfg, 59, 59⟩
/-- `IGF.PEER_STAT.REFUSED` -/
def F.igfPeerStatRefused : Fld := ⟨.igfPeerStat, 15, 0⟩
/-- `IGF.PEER_STAT.EPOCHS_SEEN` -/
def F.igfPeerStatEpochsSeen : Fld := ⟨.igfPeerStat, 31, 16⟩
/-- `IGF.PEER_STAT.GIVEUPS` -/
def F.igfPeerStatGiveups : Fld := ⟨.igfPeerStat, 47, 32⟩
/-- `IGF.PEER_STAT.INFLIGHT` -/
def F.igfPeerStatInflight : Fld := ⟨.igfPeerStat, 63, 48⟩
/-- `ARB.PAIRk_STATUS.STATE` -/
def F.arbPairStatusState : Fld := ⟨.arbPairStatus, 1, 0⟩
/-- `ARB.PAIRk_STATUS.MISMATCHES` -/
def F.arbPairStatusMismatches : Fld := ⟨.arbPairStatus, 17, 2⟩
/-- `ARB.PAIRk_STATUS.WDOG_MISSES` -/
def F.arbPairStatusWdogMisses : Fld := ⟨.arbPairStatus, 33, 18⟩
/-- `ARB.PAIRk_CTRL.KICK` -/
def F.arbPairCtrlKick : Fld := ⟨.arbPairCtrl, 0, 0⟩
/-- `ARB.PAIRk_CTRL.RESTART` -/
def F.arbPairCtrlRestart : Fld := ⟨.arbPairCtrl, 1, 1⟩
/-- `ARB.WDOG.PERIOD_MS` -/
def F.arbWdogPeriodMs : Fld := ⟨.arbWdog, 9, 0⟩
/-- `ARB.ESC_LIMIT.PART_MAX` -/
def F.arbEscLimitPartMax : Fld := ⟨.arbEscLimit, 2, 0⟩
/-- `ARB.ESC_LIMIT.WARM_MAX` -/
def F.arbEscLimitWarmMax : Fld := ⟨.arbEscLimit, 5, 3⟩
/-- `ARB.FAST_VEC.ADDR` -/
def F.arbFastVecAddr : Fld := ⟨.arbFastVec, 23, 2⟩
/-- `ARB.FAST_VEC.LOCK` -/
def F.arbFastVecLock : Fld := ⟨.arbFastVec, 63, 63⟩
/-- `ARB.TL_TAIL.SEQ` -/
def F.arbTlTailSeq : Fld := ⟨.arbTlTail, 63, 0⟩
/-- `ARB.TL_STAT.OVERWRITTEN` -/
def F.arbTlStatOverwritten : Fld := ⟨.arbTlStat, 31, 0⟩
/-- `ARB.TL_STAT.DROPPED` -/
def F.arbTlStatDropped : Fld := ⟨.arbTlStat, 63, 32⟩
/-- `EVC.CTRL.CNT_CLR` -/
def F.evcCtrlCntClr : Fld := ⟨.evcCtrl, 0, 0⟩
/-- `EVC.CTRL.LOCK` -/
def F.evcCtrlLock : Fld := ⟨.evcCtrl, 63, 63⟩
/-- `EVC.AGE.AGE_US` -/
def F.evcAgeAgeUs : Fld := ⟨.evcAge, 19, 0⟩
/-- `EVC.AGE.FRESH_US` -/
def F.evcAgeFreshUs : Fld := ⟨.evcAge, 29, 20⟩
/-- `EVC.SRCn_CFG.EN` -/
def F.evcSrcCfgEn : Fld := ⟨.evcSrcCfg, 0, 0⟩
/-- `EVC.SRCn_CFG.CLASS` -/
def F.evcSrcCfgClass : Fld := ⟨.evcSrcCfg, 1, 1⟩
/-- `EVC.SRCn_CFG.PAIR` -/
def F.evcSrcCfgPair : Fld := ⟨.evcSrcCfg, 3, 2⟩
/-- `EVC.SRCn_CFG.BLOCK` -/
def F.evcSrcCfgBlock : Fld := ⟨.evcSrcCfg, 23, 16⟩
/-- `EVC.SRCn_CFG.UNIT` -/
def F.evcSrcCfgUnit : Fld := ⟨.evcSrcCfg, 39, 24⟩
/-- `EVC.SRCn_STATE.PENDING` -/
def F.evcSrcStatePending : Fld := ⟨.evcSrcState, 0, 0⟩
/-- `EVC.SRCn_STATE.COUNT` -/
def F.evcSrcStateCount : Fld := ⟨.evcSrcState, 8, 1⟩
/-- `EVC.SRCn_STATE.ACTIVE` -/
def F.evcSrcStateActive : Fld := ⟨.evcSrcState, 9, 9⟩
/-- `EVC.SET.SRC` -/
def F.evcSetSrc : Fld := ⟨.evcSet, 10, 0⟩
/-- `EVC.STAT.DELIVERED` -/
def F.evcStatDelivered : Fld := ⟨.evcStat, 31, 0⟩
/-- `EVC.STAT.ORDER_ERR` -/
def F.evcStatOrderErr : Fld := ⟨.evcStat, 47, 32⟩
/-- `EVC.STAT.AGED` -/
def F.evcStatAged : Fld := ⟨.evcStat, 63, 48⟩
/-- `SEC.BOOT_STATUS.STATE` -/
def F.secBootStatusState : Fld := ⟨.secBootStatus, 2, 0⟩
/-- `SEC.BOOT_STATUS.SAFE` -/
def F.secBootStatusSafe : Fld := ⟨.secBootStatus, 3, 3⟩
/-- `SEC.BOOT_STATUS.FROM_FLASH` -/
def F.secBootStatusFromFlash : Fld := ⟨.secBootStatus, 4, 4⟩
/-- `SEC.BOOT_STATUS.CLAIMED` -/
def F.secBootStatusClaimed : Fld := ⟨.secBootStatus, 5, 5⟩
/-- `SEC.BOOT_STATUS.ERR` -/
def F.secBootStatusErr : Fld := ⟨.secBootStatus, 13, 6⟩
/-- `SEC.BOOT_STATUS.OS_WAIT` -/
def F.secBootStatusOsWait : Fld := ⟨.secBootStatus, 21, 14⟩
/-- `SEC.BOOT_SRC.IOVA` -/
def F.secBootSrcIova : Fld := ⟨.secBootSrc, 63, 0⟩
/-- `SEC.BOOT_LEN.BYTES` -/
def F.secBootLenBytes : Fld := ⟨.secBootLen, 40, 0⟩
/-- `SEC.BOOT_CMD.GO` -/
def F.secBootCmdGo : Fld := ⟨.secBootCmd, 0, 0⟩
/-- `SEC.BOOT_CMD.TARGET` -/
def F.secBootCmdTarget : Fld := ⟨.secBootCmd, 2, 1⟩
/-- `SEC.BOOT_CMD.PART` -/
def F.secBootCmdPart : Fld := ⟨.secBootCmd, 10, 8⟩
/-- `SEC.FW_STATE.SVN` -/
def F.secFwStateSvn : Fld := ⟨.secFwState, 31, 0⟩
/-- `SEC.FW_STATE.ACTIVE` -/
def F.secFwStateActive : Fld := ⟨.secFwState, 32, 32⟩
/-- `SEC.FW_STATE.UPDATING` -/
def F.secFwStateUpdating : Fld := ⟨.secFwState, 33, 33⟩
/-- `SEC.FW_REMAP.PAIR` -/
def F.secFwRemapPair : Fld := ⟨.secFwRemap, 3, 0⟩
/-- `SEC.ID.PART` -/
def F.secIdPart : Fld := ⟨.secId, 15, 0⟩
/-- `SEC.ID.STEPPING` -/
def F.secIdStepping : Fld := ⟨.secId, 23, 16⟩
/-- `SEC.SERIAL.SERIAL` -/
def F.secSerialSerial : Fld := ⟨.secSerial, 63, 0⟩
/-- `RES.CTRL.CNT_CLR` -/
def F.resCtrlCntClr : Fld := ⟨.resCtrl, 0, 0⟩
/-- `RES.CTRL.LOCK` -/
def F.resCtrlLock : Fld := ⟨.resCtrl, 63, 63⟩
/-- `RES.WDOG_CFG.DEFAULT_US` -/
def F.resWdogCfgDefaultUs : Fld := ⟨.resWdogCfg, 31, 0⟩
/-- `RES.WDOG_CFG.NOPROG_MS` -/
def F.resWdogCfgNoprogMs : Fld := ⟨.resWdogCfg, 41, 32⟩
/-- `RES.TQ_CFG.LOCAL_MS` -/
def F.resTqCfgLocalMs : Fld := ⟨.resTqCfg, 15, 0⟩
/-- `RES.TQ_CFG.CORE_MS` -/
def F.resTqCfgCoreMs : Fld := ⟨.resTqCfg, 31, 16⟩
/-- `RES.ESC_CFG.CTX_MS` -/
def F.resEscCfgCtxMs : Fld := ⟨.resEscCfg, 7, 0⟩
/-- `RES.ESC_CFG.ENG_MS` -/
def F.resEscCfgEngMs : Fld := ⟨.resEscCfg, 17, 8⟩
/-- `RES.ESC_CFG.PART_MS` -/
def F.resEscCfgPartMs : Fld := ⟨.resEscCfg, 28, 18⟩
/-- `RES.ESC_CFG.WARM_MS` -/
def F.resEscCfgWarmMs : Fld := ⟨.resEscCfg, 43, 29⟩
/-- `RES.RESET_REQ.KIND` -/
def F.resResetReqKind : Fld := ⟨.resResetReq, 2, 0⟩
/-- `RES.RESET_REQ.TARGET` -/
def F.resResetReqTarget : Fld := ⟨.resResetReq, 14, 3⟩
/-- `RES.PART_STATUS.STEP` -/
def F.resPartStatusStep : Fld := ⟨.resPartStatus, 2, 0⟩
/-- `RES.PART_STATUS.REPLAY_CTX` -/
def F.resPartStatusReplayCtx : Fld := ⟨.resPartStatus, 14, 3⟩
/-- `RES.PART_STATUS.SUSPECTS` -/
def F.resPartStatusSuspects : Fld := ⟨.resPartStatus, 27, 15⟩
/-- `RES.HANG_STAT.BOUND` -/
def F.resHangStatBound : Fld := ⟨.resHangStat, 15, 0⟩
/-- `RES.HANG_STAT.NOPROG` -/
def F.resHangStatNoprog : Fld := ⟨.resHangStat, 31, 16⟩
/-- `RES.HANG_STAT.TQ_TIMEOUT` -/
def F.resHangStatTqTimeout : Fld := ⟨.resHangStat, 47, 32⟩
/-- `RES.HANG_STAT.KIO_ABANDON` -/
def F.resHangStatKioAbandon : Fld := ⟨.resHangStat, 63, 48⟩
/-- `RES.REPLAY_STAT.REPLAYED` -/
def F.resReplayStatReplayed : Fld := ⟨.resReplayStat, 15, 0⟩
/-- `RES.REPLAY_STAT.GUILTY` -/
def F.resReplayStatGuilty : Fld := ⟨.resReplayStat, 31, 16⟩
/-- `RES.REPLAY_STAT.IMPOSSIBLE` -/
def F.resReplayStatImpossible : Fld := ⟨.resReplayStat, 47, 32⟩
/-- `RES.REPLAY_STAT.ENGINE_RESETS` -/
def F.resReplayStatEngineResets : Fld := ⟨.resReplayStat, 63, 48⟩
/-- `RES.SCR_CFG.EN` -/
def F.resScrCfgEn : Fld := ⟨.resScrCfg, 0, 0⟩
/-- `RES.SCR_CFG.PERIOD_H` -/
def F.resScrCfgPeriodH : Fld := ⟨.resScrCfg, 10, 1⟩
/-- `RES.SCR_CFG.PER_DIE` -/
def F.resScrCfgPerDie : Fld := ⟨.resScrCfg, 12, 11⟩
/-- `RES.SCR_CFG.TEMP_C` -/
def F.resScrCfgTempC : Fld := ⟨.resScrCfg, 20, 13⟩
/-- `RES.SHADOW_CFG.RATE` -/
def F.resShadowCfgRate : Fld := ⟨.resShadowCfg, 23, 0⟩
/-- `RES.SHADOW_STAT.SAMPLED` -/
def F.resShadowStatSampled : Fld := ⟨.resShadowStat, 31, 0⟩
/-- `RES.SHADOW_STAT.SKIPPED` -/
def F.resShadowStatSkipped : Fld := ⟨.resShadowStat, 47, 32⟩
/-- `RES.SHADOW_STAT.SETTLED` -/
def F.resShadowStatSettled : Fld := ⟨.resShadowStat, 55, 48⟩
/-- `RES.SHADOW_STAT.MISCOMPARES` -/
def F.resShadowStatMiscompares : Fld := ⟨.resShadowStat, 63, 56⟩
/-- `RES.HIST_CFG.WINDOW_D` -/
def F.resHistCfgWindowD : Fld := ⟨.resHistCfg, 8, 0⟩
/-- `RES.HIST_CFG.PERM_COUNT` -/
def F.resHistCfgPermCount : Fld := ⟨.resHistCfg, 12, 9⟩
/-- `RES.HIST_CFG.MARGINAL_COUNT` -/
def F.resHistCfgMarginalCount : Fld := ⟨.resHistCfg, 16, 13⟩
/-- `RES.HIST_CFG.MARGINAL_H` -/
def F.resHistCfgMarginalH : Fld := ⟨.resHistCfg, 24, 17⟩
/-- `RES.HIST_CFG.BURST` -/
def F.resHistCfgBurst : Fld := ⟨.resHistCfg, 40, 25⟩
/-- `RES.DIG_BASE.ADDR` -/
def F.resDigBaseAddr : Fld := ⟨.resDigBase, 47, 5⟩
/-- `RES.DIG_CFG.COUNT` -/
def F.resDigCfgCount : Fld := ⟨.resDigCfg, 16, 0⟩
/-- `RES.DIG_CFG.PERIOD_H` -/
def F.resDigCfgPeriodH : Fld := ⟨.resDigCfg, 26, 17⟩
/-- `PWR.CTRL.BLITZ` -/
def F.pwrCtrlBlitz : Fld := ⟨.pwrCtrl, 0, 0⟩
/-- `PWR.CTRL.ORDER` -/
def F.pwrCtrlOrder : Fld := ⟨.pwrCtrl, 3, 1⟩
/-- `PWR.CTRL.CNT_CLR` -/
def F.pwrCtrlCntClr : Fld := ⟨.pwrCtrl, 4, 4⟩
/-- `PWR.CTRL.LOCK` -/
def F.pwrCtrlLock : Fld := ⟨.pwrCtrl, 63, 63⟩
/-- `PWR.CAP.CAP_W` -/
def F.pwrCapCapW : Fld := ⟨.pwrCap, 15, 0⟩
/-- `PWR.CAP.LOCAL_W` -/
def F.pwrCapLocalW : Fld := ⟨.pwrCap, 31, 16⟩
/-- `PWR.EPOCH.PERIOD_MS` -/
def F.pwrEpochPeriodMs : Fld := ⟨.pwrEpoch, 15, 0⟩
/-- `PWR.EPOCH.GROUP` -/
def F.pwrEpochGroup : Fld := ⟨.pwrEpoch, 31, 16⟩
/-- `PWR.EPOCH.LEADER` -/
def F.pwrEpochLeader : Fld := ⟨.pwrEpoch, 32, 32⟩
/-- `PWR.EPOCH.EN` -/
def F.pwrEpochEn : Fld := ⟨.pwrEpoch, 33, 33⟩
/-- `PWR.GRANT.CAP_W` -/
def F.pwrGrantCapW : Fld := ⟨.pwrGrant, 15, 0⟩
/-- `PWR.GRANT.MISSED` -/
def F.pwrGrantMissed : Fld := ⟨.pwrGrant, 23, 16⟩
/-- `PWR.GRANT.EPOCH_NO` -/
def F.pwrGrantEpochNo : Fld := ⟨.pwrGrant, 63, 32⟩
/-- `PWR.DIEn_CLK.STATE` -/
def F.pwrDieClkState : Fld := ⟨.pwrDieClk, 3, 0⟩
/-- `PWR.DIEn_CLK.BLITZ_STEP` -/
def F.pwrDieClkBlitzStep : Fld := ⟨.pwrDieClk, 5, 4⟩
/-- `PWR.DIEn_CLK.FLOOR` -/
def F.pwrDieClkFloor : Fld := ⟨.pwrDieClk, 6, 6⟩
/-- `PWR.DIEn_CLK.THROTTLE` -/
def F.pwrDieClkThrottle : Fld := ⟨.pwrDieClk, 7, 7⟩
/-- `PWR.DIEn_CLK.CEIL` -/
def F.pwrDieClkCeil : Fld := ⟨.pwrDieClk, 11, 8⟩
/-- `PWR.DIEn_CLK.STRETCH` -/
def F.pwrDieClkStretch : Fld := ⟨.pwrDieClk, 63, 32⟩
/-- `PWR.FLOOR.HOLD_US` -/
def F.pwrFloorHoldUs : Fld := ⟨.pwrFloor, 15, 0⟩
/-- `PWR.FLOOR.ENTRIES` -/
def F.pwrFloorEntries : Fld := ⟨.pwrFloor, 31, 16⟩
/-- `PWR.FLOOR.ACTIVE` -/
def F.pwrFloorActive : Fld := ⟨.pwrFloor, 32, 32⟩
/-- `PWR.THERM.THROTTLE_C` -/
def F.pwrThermThrottleC : Fld := ⟨.pwrTherm, 7, 0⟩
/-- `PWR.THERM.TRIP_C` -/
def F.pwrThermTripC : Fld := ⟨.pwrTherm, 15, 8⟩
/-- `PWR.THERM.MAX_C` -/
def F.pwrThermMaxC : Fld := ⟨.pwrTherm, 23, 16⟩
/-- `PWR.THERM.PEAK_C` -/
def F.pwrThermPeakC : Fld := ⟨.pwrTherm, 31, 24⟩
/-- `PWR.TELEM.PKG_W` -/
def F.pwrTelemPkgW : Fld := ⟨.pwrTelem, 15, 0⟩
/-- `PWR.TELEM.LINKS_W` -/
def F.pwrTelemLinksW : Fld := ⟨.pwrTelem, 31, 16⟩
/-- `PWR.TELEM.MEM_W` -/
def F.pwrTelemMemW : Fld := ⟨.pwrTelem, 47, 32⟩
/-- `PWR.TELEM.COMPUTE_W` -/
def F.pwrTelemComputeW : Fld := ⟨.pwrTelem, 63, 48⟩
/-- `PWR.PARK.REQ` -/
def F.pwrParkReq : Fld := ⟨.pwrPark, 7, 0⟩
/-- `PWR.PARK.STATE` -/
def F.pwrParkState : Fld := ⟨.pwrPark, 15, 8⟩
/-- `PWR.DOM0.ON` -/
def F.pwrDom0On : Fld := ⟨.pwrDom0, 63, 0⟩
/-- `PWR.DOM1.ON` -/
def F.pwrDom1On : Fld := ⟨.pwrDom1, 47, 0⟩
/-- `PRT.MODE.MODE` -/
def F.prtModeMode : Fld := ⟨.prtMode, 2, 0⟩
/-- `PRT.MODE.BUSY` -/
def F.prtModeBusy : Fld := ⟨.prtMode, 3, 3⟩
/-- `PRT.LAYOUT.NEXT` -/
def F.prtLayoutNext : Fld := ⟨.prtLayout, 7, 0⟩
/-- `PRT.LAYOUT.CURRENT` -/
def F.prtLayoutCurrent : Fld := ⟨.prtLayout, 15, 8⟩
/-- `PRT.PARTn_REPORT.CES` -/
def F.prtPartReportCes : Fld := ⟨.prtPartReport, 7, 0⟩
/-- `PRT.PARTn_REPORT.CORES` -/
def F.prtPartReportCores : Fld := ⟨.prtPartReport, 14, 8⟩
/-- `PRT.PARTn_REPORT.DDR_CH` -/
def F.prtPartReportDdrCh : Fld := ⟨.prtPartReport, 19, 15⟩
/-- `PRT.PARTn_REPORT.HBM_CH` -/
def F.prtPartReportHbmCh : Fld := ⟨.prtPartReport, 30, 20⟩
/-- `PRT.PARTn_REPORT.VALID` -/
def F.prtPartReportValid : Fld := ⟨.prtPartReport, 31, 31⟩
/-- `PRT.PARTn_REPORT.PARKED` -/
def F.prtPartReportParked : Fld := ⟨.prtPartReport, 32, 32⟩
/-- `PRT.PARTn_REPORT.GEN` -/
def F.prtPartReportGen : Fld := ⟨.prtPartReport, 63, 48⟩
/-- `PRT.CAP_MEM.HBM` -/
def F.prtCapMemHbm : Fld := ⟨.prtCapMem, 31, 0⟩
/-- `PRT.CAP_MEM.DDR` -/
def F.prtCapMemDdr : Fld := ⟨.prtCapMem, 63, 32⟩
/-- `PRT.CAP_SEQ.KV` -/
def F.prtCapSeqKv : Fld := ⟨.prtCapSeq, 31, 0⟩
/-- `PRT.CAP_SEQ.SLOTS` -/
def F.prtCapSeqSlots : Fld := ⟨.prtCapSeq, 47, 32⟩
/-- `PRT.CAP_JRN.JOURNAL` -/
def F.prtCapJrnJournal : Fld := ⟨.prtCapJrn, 31, 0⟩
/-- `DDRC.CHn_STATUS.STATE` -/
def F.ddrcChStatusState : Fld := ⟨.ddrcChStatus, 1, 0⟩
/-- `DDRC.CHn_STATUS.DIMMS` -/
def F.ddrcChStatusDimms : Fld := ⟨.ddrcChStatus, 3, 2⟩
/-- `DDRC.CHn_STATUS.KIND` -/
def F.ddrcChStatusKind : Fld := ⟨.ddrcChStatus, 5, 4⟩
/-- `DDRC.CHn_STATUS.GIB` -/
def F.ddrcChStatusGib : Fld := ⟨.ddrcChStatus, 17, 6⟩
/-- `DDRC.CHn_STATUS.MTS` -/
def F.ddrcChStatusMts : Fld := ⟨.ddrcChStatus, 32, 18⟩
/-- `DDRC.CHn_STATUS.SPARE_LANES` -/
def F.ddrcChStatusSpareLanes : Fld := ⟨.ddrcChStatus, 34, 33⟩
/-- `DDRC.CHn_ECC.CORRECTED` -/
def F.ddrcChEccCorrected : Fld := ⟨.ddrcChEcc, 31, 0⟩
/-- `DDRC.CHn_ECC.UNCORR` -/
def F.ddrcChEccUncorr : Fld := ⟨.ddrcChEcc, 47, 32⟩
/-- `ARB.CFG_ERR.CFG_ERR` -/
def F.arbCfgErrCfgErr : Fld := ⟨.arbCfgErr, 0, 0⟩
/-- `ARB.CFG_ERR.CONFLICT` -/
def F.arbCfgErrConflict : Fld := ⟨.arbCfgErr, 1, 1⟩
/-- `EVC.CFG_ERR.CFG_ERR` -/
def F.evcCfgErrCfgErr : Fld := ⟨.evcCfgErr, 0, 0⟩
/-- `EVC.CFG_ERR.CONFLICT` -/
def F.evcCfgErrConflict : Fld := ⟨.evcCfgErr, 1, 1⟩
/-- `SEC.CFG_ERR.CFG_ERR` -/
def F.secCfgErrCfgErr : Fld := ⟨.secCfgErr, 0, 0⟩
/-- `SEC.CFG_ERR.CONFLICT` -/
def F.secCfgErrConflict : Fld := ⟨.secCfgErr, 1, 1⟩
/-- `PWR.CFG_ERR.CFG_ERR` -/
def F.pwrCfgErrCfgErr : Fld := ⟨.pwrCfgErr, 0, 0⟩
/-- `PWR.CFG_ERR.CONFLICT` -/
def F.pwrCfgErrConflict : Fld := ⟨.pwrCfgErr, 1, 1⟩
/-- `RES.CFG_ERR.CFG_ERR` -/
def F.resCfgErrCfgErr : Fld := ⟨.resCfgErr, 0, 0⟩
/-- `RES.CFG_ERR.CONFLICT` -/
def F.resCfgErrConflict : Fld := ⟨.resCfgErr, 1, 1⟩
/-- `PRT.CFG_ERR.CFG_ERR` -/
def F.prtCfgErrCfgErr : Fld := ⟨.prtCfgErr, 0, 0⟩
/-- `PRT.CFG_ERR.CONFLICT` -/
def F.prtCfgErrConflict : Fld := ⟨.prtCfgErr, 1, 1⟩
/-- `HUB.CFG_ERR.CFG_ERR` -/
def F.hubCfgErrCfgErr : Fld := ⟨.hubCfgErr, 0, 0⟩
/-- `HUB.CFG_ERR.CONFLICT` -/
def F.hubCfgErrConflict : Fld := ⟨.hubCfgErr, 1, 1⟩
/-- `KIO.CFG_ERR.CFG_ERR` -/
def F.kioCfgErrCfgErr : Fld := ⟨.kioCfgErr, 0, 0⟩
/-- `KIO.CFG_ERR.CONFLICT` -/
def F.kioCfgErrConflict : Fld := ⟨.kioCfgErr, 1, 1⟩
/-- `SHC.CFG_ERR.CFG_ERR` -/
def F.shcCfgErrCfgErr : Fld := ⟨.shcCfgErr, 0, 0⟩
/-- `SHC.CFG_ERR.CONFLICT` -/
def F.shcCfgErrConflict : Fld := ⟨.shcCfgErr, 1, 1⟩
/-- `DDRC.CFG_ERR.CFG_ERR` -/
def F.ddrcCfgErrCfgErr : Fld := ⟨.ddrcCfgErr, 0, 0⟩
/-- `DDRC.CFG_ERR.CONFLICT` -/
def F.ddrcCfgErrConflict : Fld := ⟨.ddrcCfgErr, 1, 1⟩
/-- `IGF.CFG_ERR.CFG_ERR` -/
def F.igfCfgErrCfgErr : Fld := ⟨.igfCfgErr, 0, 0⟩
/-- `IGF.CFG_ERR.CONFLICT` -/
def F.igfCfgErrConflict : Fld := ⟨.igfCfgErr, 1, 1⟩
/-- `HPT.CFG_ERR.CFG_ERR` -/
def F.hptCfgErrCfgErr : Fld := ⟨.hptCfgErr, 0, 0⟩
/-- `HPT.CFG_ERR.CONFLICT` -/
def F.hptCfgErrConflict : Fld := ⟨.hptCfgErr, 1, 1⟩
/-- `CE.CFG_ERR.CFG_ERR` -/
def F.ceCfgErrCfgErr : Fld := ⟨.ceCfgErr, 0, 0⟩
/-- `CE.CFG_ERR.CONFLICT` -/
def F.ceCfgErrConflict : Fld := ⟨.ceCfgErr, 1, 1⟩
/-- `SEQE.CFG_ERR.CFG_ERR` -/
def F.seqeCfgErrCfgErr : Fld := ⟨.seqeCfgErr, 0, 0⟩
/-- `SEQE.CFG_ERR.CONFLICT` -/
def F.seqeCfgErrConflict : Fld := ⟨.seqeCfgErr, 1, 1⟩
/-- `HBMC.CFG_ERR.CFG_ERR` -/
def F.hbmcCfgErrCfgErr : Fld := ⟨.hbmcCfgErr, 0, 0⟩
/-- `HBMC.CFG_ERR.CONFLICT` -/
def F.hbmcCfgErrConflict : Fld := ⟨.hbmcCfgErr, 1, 1⟩
/-- `XLAT.CFG_ERR.CFG_ERR` -/
def F.xlatCfgErrCfgErr : Fld := ⟨.xlatCfgErr, 0, 0⟩
/-- `XLAT.CFG_ERR.CONFLICT` -/
def F.xlatCfgErrConflict : Fld := ⟨.xlatCfgErr, 1, 1⟩
/-- `RES.PART_CFG_ERR.CFG_ERR` -/
def F.resPartCfgErrCfgErr : Fld := ⟨.resPartCfgErr, 0, 0⟩
/-- `RES.PART_CFG_ERR.CONFLICT` -/
def F.resPartCfgErrConflict : Fld := ⟨.resPartCfgErr, 1, 1⟩
/-- `PRT.PART_CFG_ERR.CFG_ERR` -/
def F.prtPartCfgErrCfgErr : Fld := ⟨.prtPartCfgErr, 0, 0⟩
/-- `PRT.PART_CFG_ERR.CONFLICT` -/
def F.prtPartCfgErrConflict : Fld := ⟨.prtPartCfgErr, 1, 1⟩
/-- `HPT.WIN_CFG_ERR.CFG_ERR` -/
def F.hptWinCfgErrCfgErr : Fld := ⟨.hptWinCfgErr, 0, 0⟩
/-- `HPT.WIN_CFG_ERR.CONFLICT` -/
def F.hptWinCfgErrConflict : Fld := ⟨.hptWinCfgErr, 1, 1⟩
/-- `HPT.DRk_MSI.HART` -/
def F.hptMsiHart : Fld := ⟨.hptMsi, 6, 0⟩
/-- `HPT.DRk_MSI.FILE` -/
def F.hptMsiFile : Fld := ⟨.hptMsi, 9, 7⟩
/-- `HPT.DRk_MSI.EIID` -/
def F.hptMsiEiid : Fld := ⟨.hptMsi, 18, 10⟩
/-- `HPT.DRk_MSI.EN` -/
def F.hptMsiEn : Fld := ⟨.hptMsi, 19, 19⟩
/-- `HPT.DRk_DB.WORD` -/
def F.hptDbWord : Fld := ⟨.hptDb, 31, 0⟩
/-- `HPT.DRk_CQ_DB.WORD` -/
def F.hptCqDbWord : Fld := ⟨.hptCqDb, 31, 0⟩

/-- The fields of a register, from the field tables of its chapter. Reserved bits belong to no field. -/
def regFields : RegName → List FldDef
  | .btmNow => [⟨F.btmNowNs, .ro, 0, 0, 18446744073709551615, false, false⟩]
  | .btmCtrl => [⟨F.btmCtrlPtpEn, .rwl, 0, 0, 1, false, false⟩,
      ⟨F.btmCtrlPpsEn, .rwl, 0, 0, 1, false, false⟩,
      ⟨F.btmCtrlHoldEn, .rwl, 1, 0, 1, false, false⟩,
      ⟨F.btmCtrlPtpPorts, .rwl, 0, 0, 255, false, false⟩,
      ⟨F.btmCtrlStepReq, .wo, 0, 0, 1, false, false⟩,
      ⟨F.btmCtrlCntClr, .wo, 0, 0, 1, false, false⟩,
      ⟨F.btmCtrlLock, .w1s, 0, 0, 1, false, false⟩]
  | .btmStatus => [⟨F.btmStatusState, .ro, 0, 0, 7, false, false⟩,
      ⟨F.btmStatusSource, .ro, 0, 0, 3, false, false⟩,
      ⟨F.btmStatusPtpPort, .ro, 0, 0, 7, false, false⟩,
      ⟨F.btmStatusErrBoundNs, .ro, 4294967295, 0, 4294967295, false, false⟩,
      ⟨F.btmStatusPtpFault, .w1c, 0, 0, 1, false, false⟩,
      ⟨F.btmStatusPpsFault, .w1c, 0, 0, 1, false, false⟩,
      ⟨F.btmStatusSrcFault, .ro, 0, 0, 1, false, false⟩]
  | .btmFreqAdj => [⟨F.btmFreqAdjAdj, .rw, 0, 0, 4294967295, false, false⟩]
  | .btmPtpCfg => [⟨F.btmPtpCfgDomain, .rwl, 0, 0, 127, false, false⟩,
      ⟨F.btmPtpCfgDelay, .rwl, 0, 0, 1, false, false⟩]
  | .btmSrcFilt => [⟨F.btmSrcFiltOutlierNs, .rw, 1000, 100, 1000000, false, false⟩,
      ⟨F.btmSrcFiltRejectLimit, .rw, 16, 4, 255, false, false⟩,
      ⟨F.btmSrcFiltBw, .rw, 10, 1, 100, false, false⟩]
  | .btmSrcStat => [⟨F.btmSrcStatAccepted, .ro, 0, 0, 4294967295, false, true⟩,
      ⟨F.btmSrcStatRejected, .ro, 0, 0, 4294967295, false, true⟩]
  | .btmTod => [⟨F.btmTodSec, .rw, 0, 0, 1099511627775, false, false⟩,
      ⟨F.btmTodValid, .rw, 0, 0, 1, false, false⟩]
  | .btmPpsCfg => [⟨F.btmPpsCfgEdge, .rwl, 0, 0, 1, false, false⟩,
      ⟨F.btmPpsCfgGlitch, .rwl, 5, 1, 100, false, false⟩,
      ⟨F.btmPpsCfgWindowNs, .rwl, 10000, 0, 4294967295, false, false⟩]
  | .btmCfgErr => [⟨F.btmCfgErrCfgErr, .w1c, 0, 0, 1, false, false⟩,
      ⟨F.btmCfgErrConflict, .w1c, 0, 0, 1, false, false⟩]
  | .seqeEwStat => [⟨F.seqeEwStatArmed, .ro, 0, 0, 65535, false, false⟩,
      ⟨F.seqeEwStatOverflow, .ro, 0, 0, 65535, false, false⟩,
      ⟨F.seqeEwStatLate, .ro, 0, 0, 65535, false, true⟩,
      ⟨F.seqeEwStatFull, .ro, 0, 0, 65535, false, true⟩]
  | .arbEwStat => [⟨F.arbEwStatArmed, .ro, 0, 0, 65535, false, false⟩,
      ⟨F.arbEwStatOverflow, .ro, 0, 0, 65535, false, false⟩,
      ⟨F.arbEwStatLate, .ro, 0, 0, 65535, false, true⟩,
      ⟨F.arbEwStatFull, .ro, 0, 0, 65535, false, true⟩]
  | .seqeEwSlot => [⟨F.seqeEwSlotOwner, .rw, 0, 0, 6, false, false⟩,
      ⟨F.seqeEwSlotPeriodUs, .rw, 0, 0, 4294967295, false, false⟩]
  | .arbEwSlot => [⟨F.arbEwSlotOwner, .rw, 0, 0, 6, false, false⟩,
      ⟨F.arbEwSlotPeriodUs, .rw, 0, 0, 4294967295, false, false⟩]
  | .seqeEwNext => [⟨F.seqeEwNextBt, .rw, 0, 0, 18446744073709551615, false, false⟩]
  | .arbEwNext => [⟨F.arbEwNextBt, .rw, 0, 0, 18446744073709551615, false, false⟩]
  | .ceId => [⟨F.ceIdPhys, .ro, 0, 0, 31, false, false⟩,
      ⟨F.ceIdDie, .ro, 0, 0, 7, false, false⟩,
      ⟨F.ceIdGroup, .ro, 0, 0, 7, false, false⟩,
      ⟨F.ceIdLogical, .ro, 0, 0, 255, true, false⟩]
  | .ceState => [⟨F.ceStateState, .ro, 0, 0, 7, true, false⟩,
      ⟨F.ceStateRank, .ro, 0, 0, 3, false, false⟩,
      ⟨F.ceStateSlotsUsed, .ro, 0, 0, 7, false, false⟩,
      ⟨F.ceStateTensorBusy, .ro, 0, 0, 1, false, false⟩,
      ⟨F.ceStateTensorSlot, .ro, 0, 0, 3, false, false⟩]
  | .ceCtrl => [⟨F.ceCtrlWithhold, .rw, 0, 0, 1, false, false⟩,
      ⟨F.ceCtrlPfEn, .rwl, 1, 0, 1, false, false⟩,
      ⟨F.ceCtrlSlotsMax, .rwl, 4, 1, 4, false, false⟩,
      ⟨F.ceCtrlCntClr, .wo, 0, 0, 1, false, false⟩,
      ⟨F.ceCtrlLock, .w1s, 0, 0, 1, false, false⟩]
  | .ceOcc => [⟨F.ceOccCohorts, .ro, 0, 0, 1023, false, false⟩,
      ⟨F.ceOccRegKib, .ro, 0, 0, 2047, false, false⟩,
      ⟨F.ceOccLs4kib, .ro, 0, 0, 1023, false, false⟩]
  | .ceSqcStat => [⟨F.ceSqcStatCleanRefetch, .ro, 0, 0, 65535, false, true⟩,
      ⟨F.ceSqcStatDirtyPoison, .ro, 0, 0, 65535, false, true⟩,
      ⟨F.ceSqcStatMisses, .ro, 0, 0, 4294967295, false, true⟩]
  | .cePerfTensor => [⟨F.cePerfTensorBusyCycles, .ro, 0, 0, 18446744073709551615, false, false⟩]
  | .cePerfVec => [⟨F.cePerfVecIssued, .ro, 0, 0, 18446744073709551615, false, false⟩]
  | .ceDieMap0 => [⟨F.ceDieMap0Phys, .ro, 0, 0, 1152921504606846975, true, false⟩]
  | .ceDieMap1 => [⟨F.ceDieMap1Phys, .ro, 0, 0, 1152921504606846975, true, false⟩]
  | .seqeCtrl => [⟨F.seqeCtrlEnable, .rw, 0, 0, 1, false, false⟩,
      ⟨F.seqeCtrlCntClr, .wo, 0, 0, 1, false, false⟩]
  | .seqeKvbtBase => [⟨F.seqeKvbtBaseAddr, .rw, 0, 0, 16777215, false, false⟩]
  | .seqePoolCfg => [⟨F.seqePoolCfgValid, .rw, 0, 0, 1, false, false⟩,
      ⟨F.seqePoolCfgTier, .rw, 0, 0, 1, false, false⟩,
      ⟨F.seqePoolCfgClass, .rw, 0, 0, 5, false, false⟩,
      ⟨F.seqePoolCfgStack, .rw, 0, 0, 68719476735, false, false⟩]
  | .seqePoolCap => [⟨F.seqePoolCapCap, .rw, 0, 0, 4294967295, false, false⟩]
  | .seqePoolStat => [⟨F.seqePoolStatFree, .ro, 0, 0, 4294967295, false, false⟩,
      ⟨F.seqePoolStatTaken, .ro, 0, 0, 4294967295, false, false⟩]
  | .seqeStat0 => [⟨F.seqeStat0CowCopies, .ro, 0, 0, 4294967295, false, true⟩,
      ⟨F.seqeStat0PoolEmpty, .ro, 0, 0, 4294967295, false, true⟩]
  | .seqeStat1 => [⟨F.seqeStat1Subst, .ro, 0, 0, 4294967295, false, true⟩,
      ⟨F.seqeStat1Shadow, .ro, 0, 0, 4294967295, false, true⟩]
  | .seqeStat2 => [⟨F.seqeStat2Held, .ro, 0, 0, 4294967295, false, true⟩,
      ⟨F.seqeStat2Poison, .ro, 0, 0, 4294967295, false, true⟩]
  | .seqeKvcStat => [⟨F.seqeKvcStatHits, .ro, 0, 0, 4294967295, false, true⟩,
      ⟨F.seqeKvcStatMisses, .ro, 0, 0, 4294967295, false, true⟩]
  | .prtPromCtrl => [⟨F.prtPromCtrlEnable, .rw, 0, 0, 1, false, false⟩,
      ⟨F.prtPromCtrlCntClr, .wo, 0, 0, 1, false, false⟩,
      ⟨F.prtPromCtrlLock, .w1s, 0, 0, 1, false, false⟩]
  | .prtPromAge => [⟨F.prtPromAgeHorizonUs, .rwl, 50000, 1000, 1000000, false, false⟩]
  | .prtPgpoolCfg => [⟨F.prtPgpoolCfgValid, .rw, 0, 0, 1, false, false⟩,
      ⟨F.prtPgpoolCfgStack, .rw, 0, 0, 68719476735, false, false⟩]
  | .prtPgpoolCap => [⟨F.prtPgpoolCapCap, .rw, 0, 0, 4294967295, false, false⟩]
  | .prtPgpoolStat => [⟨F.prtPgpoolStatFree, .ro, 0, 0, 4294967295, false, false⟩,
      ⟨F.prtPgpoolStatTaken, .ro, 0, 0, 4294967295, false, false⟩]
  | .prtPromQdepth => [⟨F.prtPromQdepthDemand, .ro, 0, 0, 65535, false, false⟩,
      ⟨F.prtPromQdepthSched, .ro, 0, 0, 65535, false, false⟩,
      ⟨F.prtPromQdepthBackground, .ro, 0, 0, 65535, false, false⟩,
      ⟨F.prtPromQdepthOldestBgMs, .ro, 0, 0, 65535, false, false⟩]
  | .prtPromStat0 => [⟨F.prtPromStat0UpBursts, .ro, 0, 0, 4294967295, false, true⟩,
      ⟨F.prtPromStat0DownBursts, .ro, 0, 0, 4294967295, false, true⟩]
  | .prtPromStat1 => [⟨F.prtPromStat1Aged, .ro, 0, 0, 4294967295, false, true⟩,
      ⟨F.prtPromStat1LateEntries, .ro, 0, 0, 4294967295, false, true⟩]
  | .prtPromStat2 => [⟨F.prtPromStat2QuotaFaults, .ro, 0, 0, 4294967295, false, true⟩,
      ⟨F.prtPromStat2Poison, .ro, 0, 0, 4294967295, false, true⟩]
  | .hubCoreState => [⟨F.hubCoreStateState, .ro, 0, 0, 7, true, false⟩,
      ⟨F.hubCoreStateLogical, .ro, 0, 0, 127, true, false⟩,
      ⟨F.hubCoreStateCluster, .ro, 0, 0, 15, false, false⟩]
  | .hubCoreStat => [⟨F.hubCoreStatCorrected, .ro, 0, 0, 4294967295, false, true⟩,
      ⟨F.hubCoreStatPoisoned, .ro, 0, 0, 4294967295, false, true⟩]
  | .hubCoreIso => [⟨F.hubCoreIsoDropped, .ro, 0, 0, 4294967295, false, true⟩,
      ⟨F.hubCoreIsoCntClr, .wo, 0, 0, 1, false, false⟩]
  | .shcCtrl => [⟨F.shcCtrlCntClr, .wo, 0, 0, 1, false, false⟩,
      ⟨F.shcCtrlLock, .w1s, 0, 0, 1, false, false⟩]
  | .shcRetryCfg => [⟨F.shcRetryCfgBackoff, .rwl, 64, 8, 255, false, false⟩,
      ⟨F.shcRetryCfgUrgentAfter, .rwl, 16, 2, 64, false, false⟩]
  | .shcPartCfg => [⟨F.shcPartCfgRbWays, .rw, 0, 0, 8, false, false⟩,
      ⟨F.shcPartCfgKeepWays, .rw, 4, 0, 12, false, false⟩]
  | .shcPartStat => [⟨F.shcPartStatRbMib, .ro, 0, 0, 4294967295, false, false⟩,
      ⟨F.shcPartStatKeepLimit, .ro, 0, 0, 4294967295, false, false⟩]
  | .shcSliceStat0 => [⟨F.shcSliceStat0Hits, .ro, 0, 0, 4294967295, false, true⟩,
      ⟨F.shcSliceStat0Misses, .ro, 0, 0, 4294967295, false, true⟩]
  | .shcSliceStat1 => [⟨F.shcSliceStat1Nacks, .ro, 0, 0, 4294967295, false, true⟩,
      ⟨F.shcSliceStat1KeepDenied, .ro, 0, 0, 4294967295, false, true⟩]
  | .shcSliceStat2 => [⟨F.shcSliceStat2Corrected, .ro, 0, 0, 4294967295, false, true⟩,
      ⟨F.shcSliceStat2Poisoned, .ro, 0, 0, 65535, false, true⟩,
      ⟨F.shcSliceStat2SpareWays, .ro, 0, 0, 31, true, false⟩]
  | .kioLinkStatus => [⟨F.kioLinkStatusState, .ro, 0, 0, 3, false, false⟩,
      ⟨F.kioLinkStatusGroupDown, .ro, 0, 0, 65535, false, false⟩,
      ⟨F.kioLinkStatusSpareUsed, .ro, 0, 0, 65535, true, false⟩]
  | .kioLinkCfg => [⟨F.kioLinkCfgRetrainErr, .rwl, 16, 1, 65535, false, false⟩,
      ⟨F.kioLinkCfgSwapAfter, .rwl, 4, 1, 15, false, false⟩]
  | .kioLinkErr => [⟨F.kioLinkErrReplays, .ro, 0, 0, 4294967295, false, true⟩,
      ⟨F.kioLinkErrRetrains, .ro, 0, 0, 65535, false, true⟩,
      ⟨F.kioLinkErrSwaps, .ro, 0, 0, 65535, false, true⟩]
  | .kioTimeout => [⟨F.kioTimeoutReqUs, .rwl, 500, 50, 10000, false, false⟩,
      ⟨F.kioTimeoutLock, .w1s, 0, 0, 1, false, false⟩]
  | .hbmcChStatus => [⟨F.hbmcChStatusState, .ro, 0, 0, 3, true, false⟩,
      ⟨F.hbmcChStatusLanesUsed, .ro, 0, 0, 15, true, false⟩,
      ⟨F.hbmcChStatusRowsRepaired, .ro, 0, 0, 65535, true, false⟩]
  | .hbmcChEcc => [⟨F.hbmcChEccCorrected, .ro, 0, 0, 65535, false, true⟩,
      ⟨F.hbmcChEccCrcRetry, .ro, 0, 0, 65535, false, true⟩,
      ⟨F.hbmcChEccUncorr, .ro, 0, 0, 65535, false, true⟩,
      ⟨F.hbmcChEccOnDie, .ro, 0, 0, 65535, false, true⟩]
  | .hbmcChSlot => [⟨F.hbmcChSlotOwner, .rw, 0, 0, 3, false, false⟩,
      ⟨F.hbmcChSlotShare, .rw, 25, 1, 100, false, false⟩]
  | .hbmcChScrub => [⟨F.hbmcChScrubPtr, .ro, 0, 0, 2097151, false, false⟩,
      ⟨F.hbmcChScrubPasses, .ro, 0, 0, 65535, false, true⟩]
  | .hbmcScrubCfg => [⟨F.hbmcScrubCfgRows, .rwl, 1, 1, 255, false, false⟩,
      ⟨F.hbmcScrubCfgLock, .w1s, 0, 0, 1, false, false⟩]
  | .hbmcChTestCfg => [⟨F.hbmcChTestCfgPattern, .rw, 0, 0, 4, false, false⟩,
      ⟨F.hbmcChTestCfgWalk, .rw, 0, 0, 2, false, false⟩,
      ⟨F.hbmcChTestCfgStart, .wo, 0, 0, 1, false, false⟩,
      ⟨F.hbmcChTestCfgStop, .wo, 0, 0, 1, false, false⟩,
      ⟨F.hbmcChTestCfgSeed, .rw, 1, 1, 4294967295, false, false⟩]
  | .hbmcChTestPat => [⟨F.hbmcChTestPatPat, .rw, 0, 0, 18446744073709551615, false, false⟩]
  | .hbmcChTestStat => [⟨F.hbmcChTestStatErrors, .ro, 0, 0, 4294967295, false, true⟩,
      ⟨F.hbmcChTestStatDone, .ro, 0, 0, 1, false, false⟩,
      ⟨F.hbmcChTestStatRunning, .ro, 0, 0, 1, false, false⟩,
      ⟨F.hbmcChTestStatFirstFail, .ro, 0, 0, 33554431, false, false⟩]
  | .hbmcIlCfg => [⟨F.hbmcIlCfgWideMib, .rw, 0, 0, 2047, false, false⟩]
  | .hbmcTourBase => [⟨F.hbmcTourBaseAddr, .rw, 0, 0, 549755813887, false, false⟩]
  | .hbmcTourLen => [⟨F.hbmcTourLenUnits, .rw, 0, 1, 8589934591, false, false⟩]
  | .hbmcTourCmd => [⟨F.hbmcTourCmdOp, .rw, 0, 0, 3, false, false⟩,
      ⟨F.hbmcTourCmdGo, .wo, 0, 0, 1, false, false⟩]
  | .hbmcTourPat => [⟨F.hbmcTourPatPat, .rw, 0, 0, 18446744073709551615, false, false⟩]
  | .hbmcTourResult => [⟨F.hbmcTourResultDigest, .ro, 0, 0, 18446744073709551615, false, false⟩]
  | .hbmcTourStatus => [⟨F.hbmcTourStatusState, .ro, 0, 0, 3, false, false⟩,
      ⟨F.hbmcTourStatusDoneUnits, .ro, 0, 0, 8589934591, false, false⟩]
  | .xlatFqBase => [⟨F.xlatFqBaseAddr, .rw, 0, 0, 68719476735, false, false⟩]
  | .xlatFqCfg => [⟨F.xlatFqCfgLog2Size, .rw, 10, 7, 16, false, false⟩,
      ⟨F.xlatFqCfgEnable, .rw, 0, 0, 1, false, false⟩]
  | .xlatFqHead => [⟨F.xlatFqHeadCount, .rw, 0, 0, 4294967295, false, false⟩]
  | .xlatFqTail => [⟨F.xlatFqTailCount, .ro, 0, 0, 4294967295, false, false⟩]
  | .xlatFqResolve => [⟨F.xlatFqResolveFaultId, .wo, 0, 0, 4294967295, false, false⟩,
      ⟨F.xlatFqResolveSource, .wo, 0, 0, 1023, false, false⟩,
      ⟨F.xlatFqResolveKind, .wo, 0, 0, 1, false, false⟩,
      ⟨F.xlatFqResolveAction, .wo, 0, 1, 2, false, false⟩]
  | .xlatFqStat => [⟨F.xlatFqStatOverflow, .ro, 0, 0, 4294967295, false, true⟩,
      ⟨F.xlatFqStatHeld, .ro, 0, 0, 65535, false, false⟩,
      ⟨F.xlatFqStatStale, .ro, 0, 0, 65535, false, true⟩]
  | .xlatFqTimeout => [⟨F.xlatFqTimeoutTimeoutMs, .rw, 1000, 1, 60000, false, false⟩]
  | .xlatFqMsi => [⟨F.xlatFqMsiHart, .rw, 0, 0, 127, false, false⟩,
      ⟨F.xlatFqMsiFile, .rw, 0, 0, 7, false, false⟩,
      ⟨F.xlatFqMsiEiid, .rw, 0, 0, 511, false, false⟩,
      ⟨F.xlatFqMsiEn, .rw, 0, 0, 1, false, false⟩]
  | .xlatInvReq => [⟨F.xlatInvReqCtx, .wo, 0, 0, 4095, false, false⟩,
      ⟨F.xlatInvReqScope, .wo, 0, 0, 2, false, false⟩,
      ⟨F.xlatInvReqLog2Pages, .wo, 0, 0, 40, false, false⟩,
      ⟨F.xlatInvReqAva, .wo, 0, 0, 1099511627775, false, false⟩]
  | .xlatInvIssued => [⟨F.xlatInvIssuedToken, .ro, 0, 0, 18446744073709551615, false, false⟩]
  | .xlatInvDone => [⟨F.xlatInvDoneToken, .ro, 0, 0, 18446744073709551615, false, false⟩]
  | .xlatWalkStat => [⟨F.xlatWalkStatWalks, .ro, 0, 0, 4294967295, false, true⟩,
      ⟨F.xlatWalkStatMalformed, .ro, 0, 0, 65535, false, true⟩]
  | .xlatTlbStat => [⟨F.xlatTlbStatL2Hits, .ro, 0, 0, 4294967295, false, true⟩,
      ⟨F.xlatTlbStatL2Misses, .ro, 0, 0, 4294967295, false, true⟩]
  | .hptPortStatus => [⟨F.hptPortStatusLink, .ro, 0, 0, 3, false, false⟩,
      ⟨F.hptPortStatusWidth, .ro, 0, 0, 15, false, false⟩,
      ⟨F.hptPortStatusRate, .ro, 0, 0, 15, false, false⟩,
      ⟨F.hptPortStatusL0pWidth, .ro, 0, 0, 15, false, false⟩,
      ⟨F.hptPortStatusLinkIde, .ro, 0, 0, 1, false, false⟩,
      ⟨F.hptPortStatusSelIde, .ro, 0, 0, 15, false, false⟩]
  | .hptPortCfg => [⟨F.hptPortCfgEvtVector, .rw, 0, 0, 2047, false, false⟩,
      ⟨F.hptPortCfgRoData, .rw, 0, 0, 1, false, false⟩]
  | .hptPortBind => [⟨F.hptPortBindPartitions, .rwl, 0, 0, 255, false, false⟩,
      ⟨F.hptPortBindLock, .w1s, 0, 0, 1, false, false⟩]
  | .hptSqBase => [⟨F.hptSqBaseAddr, .rw, 0, 0, 4503599627370495, false, false⟩]
  | .hptCqBase => [⟨F.hptCqBaseAddr, .rw, 0, 0, 4503599627370495, false, false⟩]
  | .hptHeadWb => [⟨F.hptHeadWbAddr, .rw, 0, 0, 2305843009213693951, false, false⟩]
  | .hptCfg => [⟨F.hptCfgLog2Sq, .rw, 4, 4, 16, false, false⟩,
      ⟨F.hptCfgLog2Cq, .rw, 4, 4, 16, false, false⟩,
      ⟨F.hptCfgVector, .rw, 0, 0, 2047, false, false⟩,
      ⟨F.hptCfgIntEn, .rw, 0, 0, 1, false, false⟩]
  | .hptAttach => [⟨F.hptAttachCtx, .rw, 0, 0, 4095, false, false⟩,
      ⟨F.hptAttachQueue, .rw, 0, 0, 15, false, false⟩,
      ⟨F.hptAttachVerMaj, .rw, 3, 0, 255, false, false⟩,
      ⟨F.hptAttachVerMinMax, .rw, 0, 0, 255, false, false⟩,
      ⟨F.hptAttachGo, .wo, 0, 0, 1, false, false⟩,
      ⟨F.hptAttachDetach, .wo, 0, 0, 1, false, false⟩,
      ⟨F.hptAttachRearm, .wo, 0, 0, 1, false, false⟩,
      ⟨F.hptAttachAdmin, .rw, 0, 0, 1, false, false⟩]
  | .hptStatus => [⟨F.hptStatusState, .ro, 0, 0, 7, false, false⟩,
      ⟨F.hptStatusGen, .ro, 0, 0, 65535, false, false⟩,
      ⟨F.hptStatusVerMaj, .ro, 0, 0, 255, false, false⟩,
      ⟨F.hptStatusVerMin, .ro, 0, 0, 255, false, false⟩,
      ⟨F.hptStatusAttachErr, .ro, 0, 0, 255, false, false⟩,
      ⟨F.hptStatusShadow, .ro, 0, 0, 131071, false, false⟩]
  | .hptStat => [⟨F.hptStatDbIgnored, .ro, 0, 0, 4294967295, false, true⟩,
      ⟨F.hptStatRereads, .ro, 0, 0, 65535, false, true⟩,
      ⟨F.hptStatSigDropped, .ro, 0, 0, 65535, false, true⟩]
  | .igfRt => [⟨F.igfRtPortMask, .rw, 0, 0, 255, false, false⟩,
      ⟨F.igfRtW, .rw, 286331153, 0, 4294967295, false, false⟩]
  | .igfCtrl => [⟨F.igfCtrlEthertype, .rwl, 34997, 1536, 65535, false, false⟩,
      ⟨F.igfCtrlLock, .w1s, 0, 0, 1, false, false⟩]
  | .igfNode => [⟨F.igfNodeId, .rwl, 0, 0, 4095, false, false⟩,
      ⟨F.igfNodeEpoch, .ro, 0, 0, 4294967295, false, false⟩]
  | .igfPortStatus => [⟨F.igfPortStatusLink, .ro, 0, 0, 3, false, false⟩,
      ⟨F.igfPortStatusHalf, .ro, 0, 0, 1, false, false⟩,
      ⟨F.igfPortStatusLanes, .ro, 255, 0, 511, false, false⟩,
      ⟨F.igfPortStatusSpareUsed, .ro, 0, 0, 1, false, false⟩]
  | .igfPortCfg => [⟨F.igfPortCfgSpareEn, .rwl, 0, 0, 1, false, false⟩,
      ⟨F.igfPortCfgVlanEn, .rwl, 0, 0, 1, false, false⟩,
      ⟨F.igfPortCfgVid, .rwl, 0, 0, 4095, false, false⟩,
      ⟨F.igfPortCfgPcp, .rwl, 0, 0, 7, false, false⟩,
      ⟨F.igfPortCfgLaneErr, .rwl, 4096, 1, 65535, false, false⟩,
      ⟨F.igfPortCfgAsymNs, .rwl, 0, 0, 65535, false, false⟩]
  | .igfPortStat => [⟨F.igfPortStatRetx, .ro, 0, 0, 4294967295, false, true⟩,
      ⟨F.igfPortStatFcsErr, .ro, 0, 0, 65535, false, true⟩,
      ⟨F.igfPortStatSwaps, .ro, 0, 0, 65535, false, false⟩]
  | .igfRetx => [⟨F.igfRetxRtoUs, .rwl, 40, 5, 10000, false, false⟩,
      ⟨F.igfRetxLimit, .rwl, 16, 1, 255, false, false⟩,
      ⟨F.igfRetxGiveupMs, .rwl, 100, 1, 60000, false, false⟩,
      ⟨F.igfRetxWindowKib, .rwl, 4096, 64, 32768, false, false⟩]
  | .igfDtSel => [⟨F.igfDtSelNode, .rw, 0, 0, 4095, false, false⟩]
  | .igfDtData0 => [⟨F.igfDtData0Word, .rw, 0, 0, 18446744073709551615, false, false⟩]
  | .igfDtData1 => [⟨F.igfDtData1Word, .ro, 0, 0, 18446744073709551615, false, false⟩]
  | .igfWinBase => [⟨F.igfWinBaseBase, .rw, 0, 0, 4294967295, false, false⟩]
  | .igfWinCfg => [⟨F.igfWinCfgLimit, .rw, 0, 0, 4294967295, false, false⟩,
      ⟨F.igfWinCfgSrc, .rw, 0, 0, 4095, false, false⟩,
      ⟨F.igfWinCfgSrcMask, .rw, 0, 0, 4095, false, false⟩,
      ⟨F.igfWinCfgRead, .rw, 0, 0, 1, false, false⟩,
      ⟨F.igfWinCfgWrite, .rw, 0, 0, 1, false, false⟩,
      ⟨F.igfWinCfgRed, .rw, 0, 0, 1, false, false⟩,
      ⟨F.igfWinCfgEn, .rw, 0, 0, 1, false, false⟩]
  | .igfPeerStat => [⟨F.igfPeerStatRefused, .ro, 0, 0, 65535, false, true⟩,
      ⟨F.igfPeerStatEpochsSeen, .ro, 0, 0, 65535, false, true⟩,
      ⟨F.igfPeerStatGiveups, .ro, 0, 0, 65535, false, true⟩,
      ⟨F.igfPeerStatInflight, .ro, 0, 0, 65535, false, false⟩]
  | .arbPairStatus => [⟨F.arbPairStatusState, .ro, 0, 0, 3, false, false⟩,
      ⟨F.arbPairStatusMismatches, .ro, 0, 0, 65535, false, true⟩,
      ⟨F.arbPairStatusWdogMisses, .ro, 0, 0, 65535, false, true⟩]
  | .arbPairCtrl => [⟨F.arbPairCtrlKick, .wo, 0, 0, 1, false, false⟩,
      ⟨F.arbPairCtrlRestart, .wo, 0, 0, 1, false, false⟩]
  | .arbWdog => [⟨F.arbWdogPeriodMs, .rw, 100, 1, 100, false, false⟩]
  | .arbEscLimit => [⟨F.arbEscLimitPartMax, .rw, 4, 1, 4, false, false⟩,
      ⟨F.arbEscLimitWarmMax, .rw, 2, 1, 2, false, false⟩]
  | .arbFastVec => [⟨F.arbFastVecAddr, .rwl, 0, 0, 4194303, false, false⟩,
      ⟨F.arbFastVecLock, .w1s, 0, 0, 1, false, false⟩]
  | .arbTlTail => [⟨F.arbTlTailSeq, .ro, 1, 0, 18446744073709551615, false, false⟩]
  | .arbTlStat => [⟨F.arbTlStatOverwritten, .ro, 0, 0, 4294967295, false, true⟩,
      ⟨F.arbTlStatDropped, .ro, 0, 0, 4294967295, false, true⟩]
  | .evcCtrl => [⟨F.evcCtrlCntClr, .wo, 0, 0, 1, false, false⟩,
      ⟨F.evcCtrlLock, .w1s, 0, 0, 1, false, false⟩]
  | .evcAge => [⟨F.evcAgeAgeUs, .rwl, 1000, 100, 100000, false, false⟩,
      ⟨F.evcAgeFreshUs, .rwl, 10, 1, 1000, false, false⟩]
  | .evcSrcCfg => [⟨F.evcSrcCfgEn, .rw, 0, 0, 1, false, false⟩,
      ⟨F.evcSrcCfgClass, .rw, 0, 0, 1, false, false⟩,
      ⟨F.evcSrcCfgPair, .rw, 0, 0, 3, false, false⟩,
      ⟨F.evcSrcCfgBlock, .ro, 0, 0, 255, false, false⟩,
      ⟨F.evcSrcCfgUnit, .ro, 0, 0, 65535, false, false⟩]
  | .evcSrcState => [⟨F.evcSrcStatePending, .ro, 0, 0, 1, false, false⟩,
      ⟨F.evcSrcStateCount, .ro, 0, 0, 255, false, false⟩,
      ⟨F.evcSrcStateActive, .ro, 0, 0, 1, false, false⟩]
  | .evcSet => [⟨F.evcSetSrc, .wo, 0, 0, 2047, false, false⟩]
  | .evcStat => [⟨F.evcStatDelivered, .ro, 0, 0, 4294967295, false, true⟩,
      ⟨F.evcStatOrderErr, .ro, 0, 0, 65535, false, true⟩,
      ⟨F.evcStatAged, .ro, 0, 0, 65535, false, true⟩]
  | .secBootStatus => [⟨F.secBootStatusState, .ro, 0, 0, 7, false, false⟩,
      ⟨F.secBootStatusSafe, .ro, 0, 0, 1, false, false⟩,
      ⟨F.secBootStatusFromFlash, .ro, 0, 0, 1, false, false⟩,
      ⟨F.secBootStatusClaimed, .ro, 0, 0, 1, false, false⟩,
      ⟨F.secBootStatusErr, .ro, 0, 0, 255, false, false⟩,
      ⟨F.secBootStatusOsWait, .ro, 0, 0, 255, false, false⟩]
  | .secBootSrc => [⟨F.secBootSrcIova, .rw, 0, 0, 18446744073709551615, false, false⟩]
  | .secBootLen => [⟨F.secBootLenBytes, .rw, 0, 0, 1099511627775, false, false⟩]
  | .secBootCmd => [⟨F.secBootCmdGo, .wo, 0, 0, 1, false, false⟩,
      ⟨F.secBootCmdTarget, .wo, 0, 0, 2, false, false⟩,
      ⟨F.secBootCmdPart, .wo, 0, 0, 7, false, false⟩]
  | .secFwState => [⟨F.secFwStateSvn, .ro, 0, 0, 4294967295, false, false⟩,
      ⟨F.secFwStateActive, .ro, 0, 0, 1, false, false⟩,
      ⟨F.secFwStateUpdating, .ro, 0, 0, 1, false, false⟩]
  | .secFwRemap => [⟨F.secFwRemapPair, .ro, 0, 0, 15, false, false⟩]
  | .secId => [⟨F.secIdPart, .ro, 0, 0, 65535, true, false⟩,
      ⟨F.secIdStepping, .ro, 0, 0, 255, true, false⟩]
  | .secSerial => [⟨F.secSerialSerial, .ro, 0, 0, 18446744073709551615, true, false⟩]
  | .resCtrl => [⟨F.resCtrlCntClr, .wo, 0, 0, 1, false, false⟩,
      ⟨F.resCtrlLock, .w1s, 0, 0, 1, false, false⟩]
  | .resWdogCfg => [⟨F.resWdogCfgDefaultUs, .rw, 1000000, 100, 4294967295, false, false⟩,
      ⟨F.resWdogCfgNoprogMs, .rw, 20, 1, 1000, false, false⟩]
  | .resTqCfg => [⟨F.resTqCfgLocalMs, .rw, 100, 1, 10000, false, false⟩,
      ⟨F.resTqCfgCoreMs, .rw, 100, 10, 10000, false, false⟩]
  | .resEscCfg => [⟨F.resEscCfgCtxMs, .rwl, 200, 20, 200, false, false⟩,
      ⟨F.resEscCfgEngMs, .rwl, 500, 50, 500, false, false⟩,
      ⟨F.resEscCfgPartMs, .rwl, 1500, 150, 1500, false, false⟩,
      ⟨F.resEscCfgWarmMs, .rwl, 20000, 10000, 20000, false, false⟩]
  | .resResetReq => [⟨F.resResetReqKind, .wo, 0, 1, 5, false, false⟩,
      ⟨F.resResetReqTarget, .wo, 0, 0, 4095, false, false⟩]
  | .resPartStatus => [⟨F.resPartStatusStep, .ro, 0, 0, 7, false, false⟩,
      ⟨F.resPartStatusReplayCtx, .ro, 0, 0, 4095, false, false⟩,
      ⟨F.resPartStatusSuspects, .ro, 0, 0, 8191, false, false⟩]
  | .resHangStat => [⟨F.resHangStatBound, .ro, 0, 0, 65535, false, true⟩,
      ⟨F.resHangStatNoprog, .ro, 0, 0, 65535, false, true⟩,
      ⟨F.resHangStatTqTimeout, .ro, 0, 0, 65535, false, true⟩,
      ⟨F.resHangStatKioAbandon, .ro, 0, 0, 65535, false, true⟩]
  | .resReplayStat => [⟨F.resReplayStatReplayed, .ro, 0, 0, 65535, false, true⟩,
      ⟨F.resReplayStatGuilty, .ro, 0, 0, 65535, false, true⟩,
      ⟨F.resReplayStatImpossible, .ro, 0, 0, 65535, false, true⟩,
      ⟨F.resReplayStatEngineResets, .ro, 0, 0, 65535, false, true⟩]
  | .resScrCfg => [⟨F.resScrCfgEn, .rw, 1, 0, 1, false, false⟩,
      ⟨F.resScrCfgPeriodH, .rw, 24, 1, 720, false, false⟩,
      ⟨F.resScrCfgPerDie, .rw, 1, 1, 2, false, false⟩,
      ⟨F.resScrCfgTempC, .rw, 92, 0, 255, false, false⟩]
  | .resShadowCfg => [⟨F.resShadowCfgRate, .rw, 10000, 0, 16777215, false, false⟩]
  | .resShadowStat => [⟨F.resShadowStatSampled, .ro, 0, 0, 4294967295, false, true⟩,
      ⟨F.resShadowStatSkipped, .ro, 0, 0, 65535, false, true⟩,
      ⟨F.resShadowStatSettled, .ro, 0, 0, 255, false, true⟩,
      ⟨F.resShadowStatMiscompares, .ro, 0, 0, 255, false, true⟩]
  | .resHistCfg => [⟨F.resHistCfgWindowD, .rw, 30, 1, 365, false, false⟩,
      ⟨F.resHistCfgPermCount, .rw, 3, 1, 15, false, false⟩,
      ⟨F.resHistCfgMarginalCount, .rw, 4, 1, 15, false, false⟩,
      ⟨F.resHistCfgMarginalH, .rw, 1, 1, 24, false, false⟩,
      ⟨F.resHistCfgBurst, .rw, 1000, 10, 65535, false, false⟩]
  | .resDigBase => [⟨F.resDigBaseAddr, .rw, 0, 0, 8796093022207, false, false⟩]
  | .resDigCfg => [⟨F.resDigCfgCount, .rw, 0, 0, 65536, false, false⟩,
      ⟨F.resDigCfgPeriodH, .rw, 24, 1, 720, false, false⟩]
  | .pwrCtrl => [⟨F.pwrCtrlBlitz, .rwl, 0, 0, 1, false, false⟩,
      ⟨F.pwrCtrlOrder, .rwl, 0, 0, 5, false, false⟩,
      ⟨F.pwrCtrlCntClr, .wo, 0, 0, 1, false, false⟩,
      ⟨F.pwrCtrlLock, .w1s, 0, 0, 1, false, false⟩]
  | .pwrCap => [⟨F.pwrCapCapW, .rw, 4400, 0, 65535, false, false⟩,
      ⟨F.pwrCapLocalW, .rw, 4400, 0, 65535, false, false⟩]
  | .pwrEpoch => [⟨F.pwrEpochPeriodMs, .rw, 10, 1, 1000, false, false⟩,
      ⟨F.pwrEpochGroup, .rw, 0, 0, 65535, false, false⟩,
      ⟨F.pwrEpochLeader, .rw, 0, 0, 1, false, false⟩,
      ⟨F.pwrEpochEn, .rw, 0, 0, 1, false, false⟩]
  | .pwrGrant => [⟨F.pwrGrantCapW, .ro, 0, 0, 65535, false, false⟩,
      ⟨F.pwrGrantMissed, .ro, 0, 0, 255, false, true⟩,
      ⟨F.pwrGrantEpochNo, .ro, 0, 0, 4294967295, false, false⟩]
  | .pwrDieClk => [⟨F.pwrDieClkState, .ro, 0, 0, 15, false, false⟩,
      ⟨F.pwrDieClkBlitzStep, .ro, 0, 0, 3, false, false⟩,
      ⟨F.pwrDieClkFloor, .ro, 0, 0, 1, false, false⟩,
      ⟨F.pwrDieClkThrottle, .ro, 0, 0, 1, false, false⟩,
      ⟨F.pwrDieClkCeil, .rw, 0, 0, 15, false, false⟩,
      ⟨F.pwrDieClkStretch, .ro, 0, 0, 4294967295, false, true⟩]
  | .pwrFloor => [⟨F.pwrFloorHoldUs, .rw, 1000, 100, 60000, false, false⟩,
      ⟨F.pwrFloorEntries, .ro, 0, 0, 65535, false, true⟩,
      ⟨F.pwrFloorActive, .ro, 0, 0, 1, false, false⟩]
  | .pwrTherm => [⟨F.pwrThermThrottleC, .rw, 95, 0, 255, false, false⟩,
      ⟨F.pwrThermTripC, .rwl, 105, 0, 255, false, false⟩,
      ⟨F.pwrThermMaxC, .ro, 0, 0, 255, false, false⟩,
      ⟨F.pwrThermPeakC, .ro, 0, 0, 255, false, false⟩]
  | .pwrTelem => [⟨F.pwrTelemPkgW, .ro, 0, 0, 65535, false, false⟩,
      ⟨F.pwrTelemLinksW, .ro, 0, 0, 65535, false, false⟩,
      ⟨F.pwrTelemMemW, .ro, 0, 0, 65535, false, false⟩,
      ⟨F.pwrTelemComputeW, .ro, 0, 0, 65535, false, false⟩]
  | .pwrPark => [⟨F.pwrParkReq, .rw, 0, 0, 255, false, false⟩,
      ⟨F.pwrParkState, .ro, 0, 0, 255, false, false⟩]
  | .pwrDom0 => [⟨F.pwrDom0On, .ro, 0, 0, 18446744073709551615, true, false⟩]
  | .pwrDom1 => [⟨F.pwrDom1On, .ro, 0, 0, 281474976710655, true, false⟩]
  | .prtMode => [⟨F.prtModeMode, .rw, 0, 0, 4, false, false⟩,
      ⟨F.prtModeBusy, .ro, 0, 0, 1, false, false⟩]
  | .prtLayout => [⟨F.prtLayoutNext, .rw, 1, 0, 255, false, false⟩,
      ⟨F.prtLayoutCurrent, .ro, 1, 0, 255, false, false⟩]
  | .prtPartReport => [⟨F.prtPartReportCes, .roFw, 0, 0, 192, false, false⟩,
      ⟨F.prtPartReportCores, .roFw, 0, 0, 96, false, false⟩,
      ⟨F.prtPartReportDdrCh, .roFw, 0, 0, 16, false, false⟩,
      ⟨F.prtPartReportHbmCh, .roFw, 0, 0, 1024, false, false⟩,
      ⟨F.prtPartReportValid, .roFw, 0, 0, 1, false, false⟩,
      ⟨F.prtPartReportParked, .roFw, 0, 0, 1, false, false⟩,
      ⟨F.prtPartReportGen, .roFw, 0, 0, 65535, false, false⟩]
  | .prtCapMem => [⟨F.prtCapMemHbm, .roFw, 0, 0, 4294967295, false, false⟩,
      ⟨F.prtCapMemDdr, .roFw, 0, 0, 4294967295, false, false⟩]
  | .prtCapSeq => [⟨F.prtCapSeqKv, .roFw, 0, 0, 4294967295, false, false⟩,
      ⟨F.prtCapSeqSlots, .roFw, 0, 0, 16384, false, false⟩]
  | .prtCapJrn => [⟨F.prtCapJrnJournal, .roFw, 0, 0, 4294967295, false, false⟩]
  | .ddrcChStatus => [⟨F.ddrcChStatusState, .ro, 0, 0, 3, false, false⟩,
      ⟨F.ddrcChStatusDimms, .ro, 0, 0, 3, false, false⟩,
      ⟨F.ddrcChStatusKind, .ro, 0, 0, 3, false, false⟩,
      ⟨F.ddrcChStatusGib, .ro, 0, 0, 4095, false, false⟩,
      ⟨F.ddrcChStatusMts, .ro, 0, 0, 32767, false, false⟩,
      ⟨F.ddrcChStatusSpareLanes, .ro, 0, 0, 3, true, false⟩]
  | .ddrcChEcc => [⟨F.ddrcChEccCorrected, .ro, 0, 0, 4294967295, false, true⟩,
      ⟨F.ddrcChEccUncorr, .ro, 0, 0, 65535, false, true⟩]
  | .arbCfgErr => [⟨F.arbCfgErrCfgErr, .w1c, 0, 0, 1, false, false⟩,
      ⟨F.arbCfgErrConflict, .w1c, 0, 0, 1, false, false⟩]
  | .evcCfgErr => [⟨F.evcCfgErrCfgErr, .w1c, 0, 0, 1, false, false⟩,
      ⟨F.evcCfgErrConflict, .w1c, 0, 0, 1, false, false⟩]
  | .secCfgErr => [⟨F.secCfgErrCfgErr, .w1c, 0, 0, 1, false, false⟩,
      ⟨F.secCfgErrConflict, .w1c, 0, 0, 1, false, false⟩]
  | .pwrCfgErr => [⟨F.pwrCfgErrCfgErr, .w1c, 0, 0, 1, false, false⟩,
      ⟨F.pwrCfgErrConflict, .w1c, 0, 0, 1, false, false⟩]
  | .resCfgErr => [⟨F.resCfgErrCfgErr, .w1c, 0, 0, 1, false, false⟩,
      ⟨F.resCfgErrConflict, .w1c, 0, 0, 1, false, false⟩]
  | .prtCfgErr => [⟨F.prtCfgErrCfgErr, .w1c, 0, 0, 1, false, false⟩,
      ⟨F.prtCfgErrConflict, .w1c, 0, 0, 1, false, false⟩]
  | .hubCfgErr => [⟨F.hubCfgErrCfgErr, .w1c, 0, 0, 1, false, false⟩,
      ⟨F.hubCfgErrConflict, .w1c, 0, 0, 1, false, false⟩]
  | .kioCfgErr => [⟨F.kioCfgErrCfgErr, .w1c, 0, 0, 1, false, false⟩,
      ⟨F.kioCfgErrConflict, .w1c, 0, 0, 1, false, false⟩]
  | .shcCfgErr => [⟨F.shcCfgErrCfgErr, .w1c, 0, 0, 1, false, false⟩,
      ⟨F.shcCfgErrConflict, .w1c, 0, 0, 1, false, false⟩]
  | .ddrcCfgErr => [⟨F.ddrcCfgErrCfgErr, .w1c, 0, 0, 1, false, false⟩,
      ⟨F.ddrcCfgErrConflict, .w1c, 0, 0, 1, false, false⟩]
  | .igfCfgErr => [⟨F.igfCfgErrCfgErr, .w1c, 0, 0, 1, false, false⟩,
      ⟨F.igfCfgErrConflict, .w1c, 0, 0, 1, false, false⟩]
  | .hptCfgErr => [⟨F.hptCfgErrCfgErr, .w1c, 0, 0, 1, false, false⟩,
      ⟨F.hptCfgErrConflict, .w1c, 0, 0, 1, false, false⟩]
  | .ceCfgErr => [⟨F.ceCfgErrCfgErr, .w1c, 0, 0, 1, false, false⟩,
      ⟨F.ceCfgErrConflict, .w1c, 0, 0, 1, false, false⟩]
  | .seqeCfgErr => [⟨F.seqeCfgErrCfgErr, .w1c, 0, 0, 1, false, false⟩,
      ⟨F.seqeCfgErrConflict, .w1c, 0, 0, 1, false, false⟩]
  | .hbmcCfgErr => [⟨F.hbmcCfgErrCfgErr, .w1c, 0, 0, 1, false, false⟩,
      ⟨F.hbmcCfgErrConflict, .w1c, 0, 0, 1, false, false⟩]
  | .xlatCfgErr => [⟨F.xlatCfgErrCfgErr, .w1c, 0, 0, 1, false, false⟩,
      ⟨F.xlatCfgErrConflict, .w1c, 0, 0, 1, false, false⟩]
  | .resPartCfgErr => [⟨F.resPartCfgErrCfgErr, .w1c, 0, 0, 1, false, false⟩,
      ⟨F.resPartCfgErrConflict, .w1c, 0, 0, 1, false, false⟩]
  | .prtPartCfgErr => [⟨F.prtPartCfgErrCfgErr, .w1c, 0, 0, 1, false, false⟩,
      ⟨F.prtPartCfgErrConflict, .w1c, 0, 0, 1, false, false⟩]
  | .hptWinCfgErr => [⟨F.hptWinCfgErrCfgErr, .w1c, 0, 0, 1, false, false⟩,
      ⟨F.hptWinCfgErrConflict, .w1c, 0, 0, 1, false, false⟩]
  | .hptMsi => [⟨F.hptMsiHart, .rw, 0, 0, 127, false, false⟩,
      ⟨F.hptMsiFile, .rw, 0, 0, 7, false, false⟩,
      ⟨F.hptMsiEiid, .rw, 0, 0, 511, false, false⟩,
      ⟨F.hptMsiEn, .rw, 0, 0, 1, false, false⟩]
  | .hptDb => [⟨F.hptDbWord, .wo, 0, 0, 4294967295, false, false⟩]
  | .hptCqDb => [⟨F.hptCqDbWord, .wo, 0, 0, 4294967295, false, false⟩]

/-- The reset domain of a register (R480). `BTM.CFG_ERR` is WARM by the table of R480 where R66 keeps every BTM register but the counters: the
model takes the table (DEDUCED, log entry 136). -/
def regDomain : RegName → Domain
  | .btmNow => .power
  | .btmCtrl => .power
  | .btmStatus => .power
  | .btmFreqAdj => .power
  | .btmPtpCfg => .power
  | .btmSrcFilt => .power
  | .btmSrcStat => .power
  | .btmTod => .power
  | .btmPpsCfg => .power
  | .btmCfgErr => .warm
  | .seqeEwStat => .warm
  | .arbEwStat => .power
  | .seqeEwSlot => .warm
  | .arbEwSlot => .power
  | .seqeEwNext => .warm
  | .arbEwNext => .power
  | .ceId => .warm
  | .ceState => .warm
  | .ceCtrl => .warm
  | .ceOcc => .warm
  | .ceSqcStat => .warm
  | .cePerfTensor => .warm
  | .cePerfVec => .warm
  | .ceDieMap0 => .warm
  | .ceDieMap1 => .warm
  | .seqeCtrl => .warm
  | .seqeKvbtBase => .warm
  | .seqePoolCfg => .warm
  | .seqePoolCap => .warm
  | .seqePoolStat => .warmPart
  | .seqeStat0 => .warm
  | .seqeStat1 => .warm
  | .seqeStat2 => .warm
  | .seqeKvcStat => .warm
  | .prtPromCtrl => .warm
  | .prtPromAge => .warm
  | .prtPgpoolCfg => .warm
  | .prtPgpoolCap => .warm
  | .prtPgpoolStat => .warmPart
  | .prtPromQdepth => .warmPart
  | .prtPromStat0 => .warm
  | .prtPromStat1 => .warm
  | .prtPromStat2 => .warm
  | .hubCoreState => .power
  | .hubCoreStat => .warm
  | .hubCoreIso => .warm
  | .shcCtrl => .power
  | .shcRetryCfg => .power
  | .shcPartCfg => .warm
  | .shcPartStat => .warm
  | .shcSliceStat0 => .warm
  | .shcSliceStat1 => .warm
  | .shcSliceStat2 => .warm
  | .kioLinkStatus => .power
  | .kioLinkCfg => .power
  | .kioLinkErr => .power
  | .kioTimeout => .power
  | .hbmcChStatus => .power
  | .hbmcChEcc => .warm
  | .hbmcChSlot => .power
  | .hbmcChScrub => .power
  | .hbmcScrubCfg => .power
  | .hbmcChTestCfg => .warm
  | .hbmcChTestPat => .warm
  | .hbmcChTestStat => .warm
  | .hbmcIlCfg => .power
  | .hbmcTourBase => .warm
  | .hbmcTourLen => .warm
  | .hbmcTourCmd => .warm
  | .hbmcTourPat => .warm
  | .hbmcTourResult => .warm
  | .hbmcTourStatus => .warm
  | .xlatFqBase => .warm
  | .xlatFqCfg => .warm
  | .xlatFqHead => .warm
  | .xlatFqTail => .warm
  | .xlatFqResolve => .warm
  | .xlatFqStat => .warm
  | .xlatFqTimeout => .warm
  | .xlatFqMsi => .warm
  | .xlatInvReq => .warm
  | .xlatInvIssued => .warm
  | .xlatInvDone => .warm
  | .xlatWalkStat => .warm
  | .xlatTlbStat => .warm
  | .hptPortStatus => .warm
  | .hptPortCfg => .warm
  | .hptPortBind => .power
  | .hptSqBase => .warmPair
  | .hptCqBase => .warmPair
  | .hptHeadWb => .warmPair
  | .hptCfg => .warmPair
  | .hptAttach => .warmPair
  | .hptStatus => .warmPair
  | .hptStat => .warmPair
  | .igfRt => .power
  | .igfCtrl => .power
  | .igfNode => .power
  | .igfPortStatus => .power
  | .igfPortCfg => .power
  | .igfPortStat => .power
  | .igfRetx => .power
  | .igfDtSel => .power
  | .igfDtData0 => .power
  | .igfDtData1 => .power
  | .igfWinBase => .warmPart
  | .igfWinCfg => .warmPart
  | .igfPeerStat => .power
  | .arbPairStatus => .warm
  | .arbPairCtrl => .warm
  | .arbWdog => .power
  | .arbEscLimit => .power
  | .arbFastVec => .power
  | .arbTlTail => .power
  | .arbTlStat => .power
  | .evcCtrl => .power
  | .evcAge => .power
  | .evcSrcCfg => .power
  | .evcSrcState => .power
  | .evcSet => .power
  | .evcStat => .power
  | .secBootStatus => .warm
  | .secBootSrc => .warm
  | .secBootLen => .warm
  | .secBootCmd => .warm
  | .secFwState => .power
  | .secFwRemap => .power
  | .secId => .power
  | .secSerial => .power
  | .resCtrl => .power
  | .resWdogCfg => .power
  | .resTqCfg => .power
  | .resEscCfg => .power
  | .resResetReq => .power
  | .resPartStatus => .warmPart
  | .resHangStat => .warm
  | .resReplayStat => .warm
  | .resScrCfg => .power
  | .resShadowCfg => .power
  | .resShadowStat => .warm
  | .resHistCfg => .power
  | .resDigBase => .power
  | .resDigCfg => .power
  | .pwrCtrl => .power
  | .pwrCap => .power
  | .pwrEpoch => .power
  | .pwrGrant => .power
  | .pwrDieClk => .power
  | .pwrFloor => .power
  | .pwrTherm => .power
  | .pwrTelem => .power
  | .pwrPark => .power
  | .pwrDom0 => .power
  | .pwrDom1 => .power
  | .prtMode => .power
  | .prtLayout => .power
  | .prtPartReport => .warm
  | .prtCapMem => .warm
  | .prtCapSeq => .warm
  | .prtCapJrn => .warm
  | .ddrcChStatus => .power
  | .ddrcChEcc => .warm
  | .arbCfgErr => .warm
  | .evcCfgErr => .warm
  | .secCfgErr => .warm
  | .pwrCfgErr => .warm
  | .resCfgErr => .warm
  | .prtCfgErr => .warm
  | .hubCfgErr => .warm
  | .kioCfgErr => .warm
  | .shcCfgErr => .warm
  | .ddrcCfgErr => .warm
  | .igfCfgErr => .warm
  | .hptCfgErr => .warm
  | .ceCfgErr => .warm
  | .seqeCfgErr => .warm
  | .hbmcCfgErr => .warm
  | .xlatCfgErr => .warmPart
  | .resPartCfgErr => .warmPart
  | .prtPartCfgErr => .warmPart
  | .hptWinCfgErr => .warmPart
  | .hptMsi => .warmDev
  | .hptDb => .warmDev
  | .hptCqDb => .warmDev

/-- All registers. -/
def allRegs : List RegName :=
  [RegName.btmNow, RegName.btmCtrl, RegName.btmStatus, RegName.btmFreqAdj, RegName.btmPtpCfg] ++
  [RegName.btmSrcFilt, RegName.btmSrcStat, RegName.btmTod, RegName.btmPpsCfg, RegName.btmCfgErr] ++
  [RegName.seqeEwStat, RegName.arbEwStat, RegName.seqeEwSlot, RegName.arbEwSlot, RegName.seqeEwNext] ++
  [RegName.arbEwNext, RegName.ceId, RegName.ceState, RegName.ceCtrl, RegName.ceOcc] ++
  [RegName.ceSqcStat, RegName.cePerfTensor, RegName.cePerfVec, RegName.ceDieMap0, RegName.ceDieMap1] ++
  [RegName.seqeCtrl, RegName.seqeKvbtBase, RegName.seqePoolCfg, RegName.seqePoolCap, RegName.seqePoolStat] ++
  [RegName.seqeStat0, RegName.seqeStat1, RegName.seqeStat2, RegName.seqeKvcStat, RegName.prtPromCtrl] ++
  [RegName.prtPromAge, RegName.prtPgpoolCfg, RegName.prtPgpoolCap, RegName.prtPgpoolStat, RegName.prtPromQdepth] ++
  [RegName.prtPromStat0, RegName.prtPromStat1, RegName.prtPromStat2, RegName.hubCoreState, RegName.hubCoreStat] ++
  [RegName.hubCoreIso, RegName.shcCtrl, RegName.shcRetryCfg, RegName.shcPartCfg, RegName.shcPartStat] ++
  [RegName.shcSliceStat0, RegName.shcSliceStat1, RegName.shcSliceStat2, RegName.kioLinkStatus, RegName.kioLinkCfg] ++
  [RegName.kioLinkErr, RegName.kioTimeout, RegName.hbmcChStatus, RegName.hbmcChEcc, RegName.hbmcChSlot] ++
  [RegName.hbmcChScrub, RegName.hbmcScrubCfg, RegName.hbmcChTestCfg, RegName.hbmcChTestPat, RegName.hbmcChTestStat] ++
  [RegName.hbmcIlCfg, RegName.hbmcTourBase, RegName.hbmcTourLen, RegName.hbmcTourCmd, RegName.hbmcTourPat] ++
  [RegName.hbmcTourResult, RegName.hbmcTourStatus, RegName.xlatFqBase, RegName.xlatFqCfg, RegName.xlatFqHead] ++
  [RegName.xlatFqTail, RegName.xlatFqResolve, RegName.xlatFqStat, RegName.xlatFqTimeout, RegName.xlatFqMsi] ++
  [RegName.xlatInvReq, RegName.xlatInvIssued, RegName.xlatInvDone, RegName.xlatWalkStat, RegName.xlatTlbStat] ++
  [RegName.hptPortStatus, RegName.hptPortCfg, RegName.hptPortBind, RegName.hptSqBase, RegName.hptCqBase] ++
  [RegName.hptHeadWb, RegName.hptCfg, RegName.hptAttach, RegName.hptStatus, RegName.hptStat] ++
  [RegName.igfRt, RegName.igfCtrl, RegName.igfNode, RegName.igfPortStatus, RegName.igfPortCfg] ++
  [RegName.igfPortStat, RegName.igfRetx, RegName.igfDtSel, RegName.igfDtData0, RegName.igfDtData1] ++
  [RegName.igfWinBase, RegName.igfWinCfg, RegName.igfPeerStat, RegName.arbPairStatus, RegName.arbPairCtrl] ++
  [RegName.arbWdog, RegName.arbEscLimit, RegName.arbFastVec, RegName.arbTlTail, RegName.arbTlStat] ++
  [RegName.evcCtrl, RegName.evcAge, RegName.evcSrcCfg, RegName.evcSrcState, RegName.evcSet] ++
  [RegName.evcStat, RegName.secBootStatus, RegName.secBootSrc, RegName.secBootLen, RegName.secBootCmd] ++
  [RegName.secFwState, RegName.secFwRemap, RegName.secId, RegName.secSerial, RegName.resCtrl] ++
  [RegName.resWdogCfg, RegName.resTqCfg, RegName.resEscCfg, RegName.resResetReq, RegName.resPartStatus] ++
  [RegName.resHangStat, RegName.resReplayStat, RegName.resScrCfg, RegName.resShadowCfg, RegName.resShadowStat] ++
  [RegName.resHistCfg, RegName.resDigBase, RegName.resDigCfg, RegName.pwrCtrl, RegName.pwrCap] ++
  [RegName.pwrEpoch, RegName.pwrGrant, RegName.pwrDieClk, RegName.pwrFloor, RegName.pwrTherm] ++
  [RegName.pwrTelem, RegName.pwrPark, RegName.pwrDom0, RegName.pwrDom1, RegName.prtMode] ++
  [RegName.prtLayout, RegName.prtPartReport, RegName.prtCapMem, RegName.prtCapSeq, RegName.prtCapJrn] ++
  [RegName.ddrcChStatus, RegName.ddrcChEcc, RegName.arbCfgErr, RegName.evcCfgErr, RegName.secCfgErr] ++
  [RegName.pwrCfgErr, RegName.resCfgErr, RegName.prtCfgErr, RegName.hubCfgErr, RegName.kioCfgErr] ++
  [RegName.shcCfgErr, RegName.ddrcCfgErr, RegName.igfCfgErr, RegName.hptCfgErr, RegName.ceCfgErr] ++
  [RegName.seqeCfgErr, RegName.hbmcCfgErr, RegName.xlatCfgErr, RegName.resPartCfgErr, RegName.prtPartCfgErr] ++
  [RegName.hptWinCfgErr, RegName.hptMsi, RegName.hptDb, RegName.hptCqDb]

end Sys2Proof.Machine
end

