-- ==== Sys2Proof/Machine/State.lean ====
section
/-! DEFINITION. The state of the Catinil as plain data, its value after power-on, and the reasons a command can stop.

The registers of the register index are one table (`regs`) of 64-bit values keyed by register and instance; a register
whose fields report other state (`CE.OCC`, `HPT.RPk_STATUS`, ...) is computed where it is read (`readReg`). The other
structures follow the chapters of the spec. -/

namespace Sys2Proof.Machine

/-! ### Completion (chapters 02 and 14) -/

/-- Completion status codes (the table before R55). -/
inductive Status where
  | ok | okDegraded | flagFell | descNotReady | descInvalid | range | pageFaultUnresolved | accessViolation | hostLost
  | peerReset | peerUnreachable | contextReset | contextTerminated | partitionReset | dataPoison | miscompare | quota
  | versionMismatch | internal
  deriving DecidableEq, Repr

/-- A completion entry (R345), before its PHASE, which its place in the ring gives. `result` is 128 bits. -/
structure Entry where
  tag : Nat
  status : Status
  degrade : Nat := 0
  bt : Nat
  result : Nat := 0
  deriving DecidableEq, Repr

/-- What the device emits toward the outside. The outside is not modelled; this is the record of what it sees. -/
inductive Out where
  /-- a completion entry written into slot `slot` of a pair's completion ring (R345) -/
  | cqe (pair slot : Nat) (phase : Bool) (e : Entry)
  /-- the head word of a pair (R340) -/
  | headWb (pair head gen : Nat)
  /-- an MSI-X message on a vector of a host port (R346, R385, R475) -/
  | msix (port vector : Nat)
  /-- bytes written to host memory -/
  | hostWrite (port iova : Nat) (data : List Byte)
  /-- a packet sent on a fabric port, by its opcode, with the MAC address it goes to (R358, R360) -/
  | packet (op mac : Nat) (k : Packet)
  /-- an output land driven (R486 to R490): signal number and level -/
  | pin (signal : Nat) (level : Bool)
  /-- an SPDM response or IDE message on a connection, with its code and the bytes or numbers it carries -/
  | spdm (conn code : Nat) (body : List Nat)
  /-- a value returned to a core by a firmware-interface call (R234) -/
  | sbi (hart : Nat) (error value : Nat)
  deriving DecidableEq, Repr

/-! ### Contexts (chapter 02) -/

/-- Context states (R37). -/
inductive CtxSt where
  | free | admitted | resetting | replaying | closing | terminating
  deriving DecidableEq, Repr

/-- The five reservations (R31): HBM and DDR in units of 2 MiB, KV blocks, sequence slots, journal entries. -/
structure Resv where
  hbm : Nat := 0
  ddr : Nat := 0
  kv : Nat := 0
  slots : Nat := 0
  journal : Nat := 0
  deriving DecidableEq, Repr

/-- A hardware context (R30). `use` is what its reservations hold now; bytes are counted in `hbmB` and `ddrB`. -/
structure Ctx where
  st : CtxSt := .free
  root : Nat := 0
  queues : Nat := 0
  res : Resv := {}
  hbmB : Nat := 0
  ddrB : Nat := 0
  kvUse : Nat := 0
  slotUse : Nat := 0
  jrnUse : Nat := 0
  keep : Nat := 0
  ceil : Nat := 0
  vanan : Bool := false
  noReplay : Bool := false
  seed : Nat := 0
  sigTable : Nat := 0
  sigCount : Nat := 0
  /-- a close taken during RESETTING or REPLAYING (R38) -/
  closePending : Bool := false
  /-- the launch last queued on each launch queue -/
  last : Map Nat := []
  deriving DecidableEq, Repr

/-- A grant (R331). -/
structure Grant where
  port : Nat
  ctx : Nat
  qmask : Nat
  deriving DecidableEq, Repr

/-! ### Ring pairs (chapter 14) -/

/-- Ring-pair states (`HPT.RPk_STATUS.STATE`). -/
inductive PairSt where
  | detached | attached | stopped | frozen | draining
  deriving DecidableEq, Repr

/-- A fetched descriptor: the copy R337 makes, with the Board Time of its fetch. `pair` is a reference (`pairRef`). -/
structure Desc where
  pair : Nat
  typ : Nat
  nslot : Nat
  tag : Nat
  ts0 : Nat
  ts1 : Nat
  ts2 : Nat
  payload : List Byte
  bt : Nat
  /-- the place of the descriptor in the order of fetch (R29) -/
  order : Nat := 0
  deriving DecidableEq, Repr

/-- A post that waits for room in a completion ring (R346): the entry and the launch member that posts it, if one. -/
structure Post where
  entry : Entry
  launch : Option (Nat × Nat)
  deriving DecidableEq, Repr

/-- A ring pair. -/
structure Pair where
  st : PairSt := .detached
  gen : Nat := 0
  verMaj : Nat := 0
  verMin : Nat := 0
  attachErr : Nat := 0
  ctx : Nat := 0
  queue : Nat := 0
  admin : Bool := false
  /-- next slot to fetch, its expected PHASE and SEQ, and the announced TAIL -/
  sqHead : Nat := 0
  sqPhase : Bool := true
  sqSeq : Nat := 0
  sqTail : Nat := 0
  /-- re-reads made of the header at `sqHead`, while it is not current (R338) -/
  rereads : Option Nat := none
  /-- attaches ended so far: it tells the descriptors of one attach from those of another (`pairRef`) -/
  inc : Nat := 0
  /-- entries of the shadow area taken by the attach (R350) -/
  area : Nat := 0
  /-- an attach of the FROZEN pair that waits for its last descriptor -/
  go : Bool := false
  /-- fetched, not yet dispatched, in ring order -/
  fetched : List Desc := []
  /-- fetched and not yet completed -/
  outst : Nat := 0
  /-- completion ring: next index to write, its PHASE, and the entries not yet handed back -/
  cqTail : Nat := 0
  cqPhase : Bool := true
  cqHeld : Nat := 0
  posts : List Post := []
  shadow : List Entry := []
  deriving DecidableEq, Repr

/-- A REVOKE that waits until its pairs are DETACHED (R344). -/
structure Revoke where
  pair : Nat
  tag : Nat
  pairs : List Nat
  deriving DecidableEq, Repr

/-- A host transfer (R342, R343). -/
structure Xfer where
  inward : Bool
  pair : Nat
  tag : Nat
  ctx : Nat
  port : Nat
  len : Nat
  iova : Nat
  ava : Nat
  hint : Nat
  data : List Byte
  notify : Option (Nat × Nat)
  /-- the host transfer engine that serves it, and whether its fault waits for a resolve (R317) -/
  engine : Nat
  fault : Bool := false
  /-- bytes moved so far -/
  moved : Nat := 0
  deriving DecidableEq, Repr

/-- Rings, grants and host transfers. -/
structure RingSt where
  pairs : Map Pair := []
  grants : List Grant := []
  revokes : List Revoke := []
  xfers : Map Xfer := []
  nextXfer : Nat := 0
  deriving DecidableEq, Repr

/-! ### Board Time and the event wheels (chapter 03) -/

/-- What an event on a wheel stands for (R69, R71). -/
inductive Ev where
  | promo (a model e : Nat)
  | flag (slot : Nat)
  | level3 (slot : Nat)
  | watchdog (l : Nat)
  | slot (n : Nat)
  deriving DecidableEq, Repr

/-- The level of the wheel that holds an event (R67). -/
inductive WheelLvl where
  | fine | coarse | overflow
  deriving DecidableEq, Repr

/-- An armed event: `bucket` is the start, in µs, of the fine bucket it fires in; `seq` its place in arming order. -/
structure Event where
  ev : Ev
  order : Nat
  due : Nat
  bucket : Nat
  lvl : WheelLvl
  seq : Nat
  deriving DecidableEq, Repr

/-- One source of Board Time (R59, R63): accepted and rejected samples in a row, the time of the last accepted one, and
the filtered estimate of the offset. -/
structure BtSrc where
  acc : Nat := 0
  rej : Nat := 0
  last : Option Nat := none
  est : Option Int := none
  deriving DecidableEq, Repr

/-- The discipline of Board Time and the event wheels. -/
structure TimeSt where
  ptp : BtSrc := {}
  pps : BtSrc := {}
  /-- accepted samples in a row with an error bound below 1,000 ns (R64) -/
  lockRun : Nat := 0
  /-- the second the last PPS edge marked, once one is known (R61) -/
  ppsSec : Option Nat := none
  /-- a step asked for (R65) -/
  stepReq : Bool := false
  /-- Board Time has locked once since the power cycle (R65) -/
  lockedOnce : Bool := false
  /-- offset that slewing still has to take out (R65) -/
  slew : Int := 0
  /-- wheels 0 to 7 (Sequence Engines) and 8 (Arbiter) -/
  wheels : Map (List Event) := []
  /-- by wheel, the microsecond in which it processed its last event, and how many in that microsecond (R68) -/
  rate : Map (Nat × Nat) := []
  armSeq : Nat := 0
  /-- the PPS_IN land serves the trace trigger (chapter 22) -/
  traceTrigger : Bool := false
  deriving DecidableEq, Repr

/-! ### The Arbiter (chapter 16) -/

/-- A Trouble Log entry (R383). -/
structure TEntry where
  seq : Nat := 0
  bt : Nat := 0
  cls : Nat := 0
  code : Nat := 0
  sev : Nat := 0
  part : Nat := 0
  status : Nat := 0
  unit : Nat := 0
  ctx : Nat := 0
  addr : Nat := 0
  data : List Nat := []
  deriving DecidableEq, Repr

/-- An active handler of a pair (R379). -/
structure Handler where
  src : Nat
  fast : Bool
  bt : Nat
  deriving DecidableEq, Repr

/-- The volatile state of an Arbiter pair (R378, R379): the handler stack, newest first, its CSRs `evcsrc` and `evcbt`,
the Board Time of its last kick, and whether its second register bank is switched in. -/
structure ArbPair where
  handlers : List Handler := []
  evcsrc : Word := 0#64
  evcbt : Word := 0#64
  lastKick : Nat := 0
  deriving DecidableEq, Repr

/-- An event source (R376). -/
structure EvSrc where
  pending : Bool := false
  count : Nat := 0
  first : Nat := 0
  deriving DecidableEq, Repr

/-- The Arbiter, its event controller and the Trouble Log. -/
structure ArbSt where
  pairs : Map ArbPair := []
  srcs : Map EvSrc := []
  tlQueue : List TEntry := []
  tlRing : Map TEntry := []
  /-- Board Time of the last notification per target (R385): ports 0 to 3, LOG_NOTIFY of the partition at die a: 4 + a -/
  notified : Map Nat := []
  /-- Board Times of counted partition resets (lowest die, time) and chip warm resets (R375) -/
  partResets : List (Nat × Nat) := []
  warmResets : List Nat := []
  deriving DecidableEq, Repr

/-! ### Compute engines and launches (chapters 02, 04, 05 and 06) -/

/-- State of a physical CE (`CE.STATE.STATE`). -/
inductive CeSt where
  | active | withheld | spareFree | spareHeld | mappedOut | gated
  deriving DecidableEq, Repr

/-- A line of a CE's sequencer cache (R101): context, line address, instruction or data mark, dirty, its 64 bytes, and the
frame address it is written back to. -/
structure SqcLine where
  ctx : Nat
  ava : Nat
  insn : Bool
  /-- log2 of the size of its page -/
  lg : Nat
  dirty : Bool
  dpa : Nat
  data : List Byte
  /-- a parity error has hit it (R107) -/
  bad : Bool := false
  deriving DecidableEq, Repr

/-- The outstanding demand miss of a sequencer cache (R104). -/
structure SqcMiss where
  ctx : Nat
  ava : Nat
  insn : Bool
  launch : Nat
  member : Nat
  /-- the next line is fetched with it (R103) -/
  prefetch : Bool
  deriving DecidableEq, Repr

/-- A compute engine: its unit state, and the contents of its memories. Local Store, register file and Codebook RAM keep
the context (plus 1; 0: none) that last used each unit (R90). -/
structure Ce where
  st : CeSt
  rank : Nat := 0
  logical : Option Nat
  /-- the launch member in each control thread, as (launch, member) -/
  threads : List (Option (Nat × Nat)) := [none, none, none, none]
  ls : Memory := []
  lsCtx : Map Nat := []
  vrf : Map Lane := []
  vrfCtx : Map Nat := []
  cb : Memory := []
  cbCtx : Map Nat := []
  acc : Map Cell := []
  /-- the array's mode (R122): `none`, or FP32 (`true`) or wide -/
  mode : Option Bool := none
  /-- holder of the tensor unit and the launches that wait for it (R97) -/
  tensor : Option (Nat × Nat) := none
  tensorWait : List (Nat × Nat) := []
  sqc : List SqcLine := []
  miss : Option SqcMiss := none
  /-- a second demand miss stalls the whole sequencer (R104) -/
  stalled : Bool := false
  /-- 64-byte lines of Local Store written since the VRUN of the member that owns them (R139) -/
  wrote : List Nat := []
  /-- what read-outs that no TWAIT 1 has waited for write to Local Store, by address (R158) -/
  tpend : Map Byte := []
  /-- operands in Local Store of tensor instructions that no TWAIT has waited for: address, length, and for a codebook load its slot
  (R158) -/
  tread : List (Nat × Nat × Option Nat) := []
  deriving DecidableEq, Repr

/-- A launch's state in the device. `ending` stops issue and waits for its commands in flight (R163); `done` has ended and
holds its completion for the comparison with its shadow (R437); `removed` is a suspect's launch that a reset has taken out,
kept for its journal record (R48). -/
inductive LaunchSt where
  | queued | running | ending | done | removed
  deriving DecidableEq, Repr

/-- An answer given to a residency check or a dispatch. One of level 1 or 2 is a degrade decision of the launch's journal
header (R47, R194); level 0 marks an answer without substitution, which only the launch's shadow takes (R437). -/
structure Decision where
  member : Nat
  queue : Nat
  ticket : Nat
  idx : Nat
  level : Nat
  value : List Nat
  deriving DecidableEq, Repr

/-- A launch (R42) with its journal record (R46). -/
structure Launch where
  ctx : Nat
  queue : Nat
  pair : Nat
  tag : Nat
  order : Nat
  group : Nat
  cohorts : Nat
  regs : Nat
  lsUnits : Nat
  nrs : Bool
  faultable : Bool
  concurrent : Bool
  kernel : Nat
  ploff : Nat
  watchdogUs : Nat
  seed : Nat
  payload : List Byte
  journal : Nat
  st : LaunchSt := .queued
  start : Nat := 0
  status : Status := .ok
  degrade : Nat := 0
  exc : Option Nat := none
  fstat : Nat := 0
  decisions : List Decision := []
  /-- the step each sequence is bound to, by slot (R501) -/
  bound : Map Nat := []
  /-- the launch before it in its queue (R42, CONCURRENT) -/
  prev : Option Nat := none
  /-- its journal entries are charged (R46) -/
  charged : Bool := false
  /-- it runs, or is to run, as a replay alone on its CEs (R417) -/
  replay : Bool := false
  /-- physical CEs it ran on (R48) -/
  oldCes : List Nat := []
  /-- the launch number of its shadow (R436), and the original of a shadow -/
  shadow : Option Nat := none
  shadowOf : Option Nat := none
  /-- queue digests of a run that has ended, and those of the original and its shadow while a replay settles them (R438) -/
  digests : List Nat := []
  settle : Option (List Nat × List Nat) := none
  /-- global memory that a sampled or replayed launch has written, as DPA[47:0] and length (R438, R51), and that a replayed one has
  read -/
  outs : List (Nat × Nat) := []
  ins : List (Nat × Nat) := []
  deriving DecidableEq, Repr

/-- What a member's control thread waits for, where the wait is state and not only a condition. -/
inductive MWait where
  | none
  | miss
  | tensor
  | gbar
  | ring (pair : Nat)
  /-- a doorbell post that waits for room: its signal-table entry, its place in order of acceptance, and the two words -/
  | mailbox (entry order : Nat) (a b : Word)
  /-- BTWAIT, and WAITQ, FENCE or END on commands in flight: the instruction is tried again; only the no-progress check reads
  these (R410) -/
  | time
  | cmds
  deriving DecidableEq, Repr

/-- A bound tensor handle (R145). -/
structure TDesc where
  data : Nat
  scale : Nat
  rows : Nat
  cols : Nat
  rowStride : Nat
  scaleStride : Nat
  fmt : Nat
  cbSlot : Nat
  deriving DecidableEq, Repr

/-- A launch member on its CE. Keys of `members`: launch * 32 + member. -/
structure Member where
  ce : Nat
  thread : Nat
  lsBase : Nat
  /-- its units of 1 KiB of the register file (R88, R90) -/
  vrf : List Nat := []
  /-- the issue slot of each of its cohorts (R92) -/
  slots : List Nat := []
  pc : Nat
  s : Map Word := []
  snap : Map Word := []
  handles : Map TDesc := []
  /-- tickets given per queue (R156) -/
  tickets : Map Nat := []
  /-- queue digests (R162) -/
  digest : Map Word := []
  /-- SR read-outs made (R130) -/
  srReads : Nat := 0
  gbars : Nat := 0
  wait : MWait := .none
  ended : Bool := false
  /-- a VRUN has been made -/
  ran : Bool := false
  /-- Board Time of the last progress (R410) -/
  progress : Nat := 0
  deriving DecidableEq, Repr

/-- A cohort of the current VRUN. Keys of `cohorts`: (launch * 32 + member) * 512 + cohort. `p` holds predicate
registers as 32-bit maps over lanes, those not all ones; `sr` the SR instructions each lane has executed. -/
structure Cohort where
  pc : Nat
  p : Map (BitVec 32) := []
  bars : Nat := 0
  atBar : Bool := false
  ended : Bool := false
  /-- its place in the order in which its slot's cohorts have last issued (R92) -/
  since : Nat := 0
  deriving DecidableEq, Repr

/-- DMA and Sequence Engine commands. -/
inductive CmdOp where
  | get | put | gather | scatter | red | fill | kvg | kva | lchk | xdisp
  deriving DecidableEq, Repr

/-- An answer of a Sequence Engine command that is held for residency (R192, R193): its list index. -/
structure HeldAnswer where
  idx : Nat
  slot : Nat
  deriving DecidableEq, Repr

/-- A command on a transfer queue (R100, R156). `started` is false while ORD holds it (R159). -/
structure Cmd where
  l : Nat
  m : Nat
  q : Nat
  ticket : Nat
  op : CmdOp
  ord : Nat
  hint : Nat
  rb : Bool
  twoD : Bool
  crc : Bool
  ef : Nat
  sd : Nat
  sa : Nat
  sl : Nat
  sx : Nat
  started : Bool
  bt : Nat
  status : Status := .ok
  /-- fault record it waits for (R317) -/
  fault : Bool := false
  held : List HeldAnswer := []
  /-- since when an answer is held: that time does not count for the timeout (R411) -/
  heldSince : Option Nat := none
  answers : List (Nat × List Nat) := []
  /-- slots whose step this command has ended, with the status (R187) -/
  fails : List (Nat × Nat) := []
  /-- extents done and bytes done of the next one -/
  row : Nat := 0
  off : Nat := 0
  /-- reads asked of other nodes and not answered: node, offset in the command, bytes -/
  gets : List (Nat × Nat × Nat) := []
  deriving DecidableEq, Repr

/-- Launches, members, cohorts, commands and engines. -/
structure EngSt where
  ces : Map Ce := []
  launches : Map Launch := []
  nextLaunch : Nat := 0
  order : Nat := 0
  members : Map Member := []
  cohorts : Map Cohort := []
  /-- SR vector instructions executed, per thread: cohort key * 32 + lane (R130) -/
  srVec : Map Nat := []
  cmds : Map Cmd := []
  nextCmd : Nat := 0
  /-- vector instructions issued -/
  turn : Nat := 0
  deriving DecidableEq, Repr

/-! ### Sequences (chapter 07) -/

/-- Sequence states (R178), in the order of STATE codes. -/
inductive SeqSt where
  | closed | open | adjourning | adjourned | resuming | closing
  deriving DecidableEq, Repr

/-- A sequence slot (R177, R178). `serial` numbers the open or last step over all sequences, so that a launch's binding
(R501) names one step. `ceil` is the step's ceiling, `fetchBt` the Board Time its STEP was fetched. -/
structure Slot where
  st : SeqSt := .closed
  ctx : Nat := 0
  length : Nat := 0
  stepNo : Nat := 0
  pending : Nat := 0
  spanBase : Nat := 0
  spanLen : Nat := 0
  layerBytes : Nat := 0
  layersM1 : Nat := 0
  cls : Nat := 0
  stepOpen : Bool := false
  fallen : Bool := false
  level : Nat := 0
  tree : Bool := false
  ceil : Nat := 0
  flag : Option Nat := none
  stepPair : Nat := 0
  stepTag : Nat := 0
  draft : Option Nat := none
  l3 : Nat := 0
  serial : Nat := 0
  /-- the step that ended last, by serial, and how -/
  lastEnd : Option (Nat × Status) := none
  /-- requests held until later, in arrival order (R178) -/
  held : List Desc := []
  /-- the ADJOURN or RESUME in progress and those that joined it: pair and tag -/
  waiters : List (Nat × Nat) := []
  /-- blocks moved to DDR by the adjourn in progress -/
  moved : Nat := 0
  /-- an adjourn or resume that was stopped and waits for the blocks already moving: what follows it -/
  after : Option Desc := none
  stopping : Bool := false
  /-- an uncorrectable error met by the resume in progress (R217) -/
  poisoned : Bool := false
  /-- the CLOSE to complete when the slot is CLOSED; none for a context that ends -/
  closeReq : Option (Nat × Nat) := none
  /-- layers, as model and layer, that level 2 has replaced in the open step (R78) -/
  shadows : List (Nat × Nat) := []
  deriving DecidableEq, Repr

/-- A frame pool (R175, R220): its free frames, newest last, the number being wiped, and the frames lent. -/
structure Pool where
  free : List Nat := []
  wiping : Nat := 0
  lent : List Nat := []
  deriving DecidableEq, Repr

/-- What an entry of the KV Block Table holds while it has a frame or its wipe: the context charged, the pool the frame
came from, and its class. -/
structure KvFrame where
  ctx : Nat
  pool : Nat
  cls : Nat
  deriving DecidableEq, Repr

/-- The Sequence Engines: slots; the entries of the KV Block Table that hold a frame or its wipe; and the frame pools, keyed 8·a + n for KV pool n and 64 + 4·a + n for page pool n of the partition at die a. -/
structure SeqEng where
  slots : Map Slot := []
  kvOwn : Map KvFrame := []
  pools : Map Pool := []
  nextSerial : Nat := 0
  deriving DecidableEq, Repr

/-! ### Tiers and promotion (chapter 08) -/

/-- Promotion classes (R204). -/
inductive MoveCls where
  | demand | scheduled | background
  deriving DecidableEq, Repr

/-- What a request to the promotion engine serves: a page of a context with the DPA of its leaf entry; a KV block between tiers; a shared
KV block into a frame of its own (R182); the wipe of a DDR frame, or the digest of a table entry's data in DDR (R204). -/
inductive MoveObj where
  | page (ctx ava leaf : Nat)
  | block (entry slot : Nat)
  | copy (entry slot : Nat)
  | wipe (x : Nat)
  | digest (part entry : Nat)
  deriving DecidableEq, Repr

/-- A move. Its key is its place in order of arrival, and `req` the place of the request that it belongs to (R205). `dst` is `none`
while a window's page waits for a frame (R212); `since` is when its request entered the queue or had its last burst (R206). -/
structure Move where
  part : Nat
  die : Nat
  obj : MoveObj
  up : Bool
  cls : MoveCls
  src : Nat
  dst : Option Nat
  /-- the KV pool that `dst` came from -/
  dpool : Nat := 0
  len : Nat
  moved : Nat := 0
  begun : Bool := false
  since : Nat
  urgent : Bool := false
  win : Option (Nat × Nat) := none
  /-- the leaf entry as it was when the move began (R203) -/
  leafVal : Nat := 0
  req : Nat := 0
  deriving DecidableEq, Repr

/-- A frame that waits for its wipe (R37): the pool it goes back to, the charge that ends with the wipe, the entry of the KV Block Table
that leaves WIPING with it, and the journal entries that are wiped. -/
structure Wipe where
  part : Nat
  frame : Nat
  len : Nat
  pool : Option Nat
  charge : Option Nat
  entry : Option Nat
  journal : Nat := 0
  deriving DecidableEq, Repr

/-- Window entry states (R211), in the order of their codes. -/
inductive EntSt where
  | idle | waiting | promoting | late | resident | leaving | failed
  deriving DecidableEq, Repr

/-- A page of a window entry: its DDR frame, held throughout, and its HBM frame while it is in HBM. -/
structure WPage where
  ava : Nat
  lg : Nat
  leaf : Nat
  ddr : Nat
  hbm : Option Nat := none
  deriving DecidableEq, Repr

/-- A window entry (R208). `past` says that it has left in this pass, `started` that its
pages move up or are up. -/
structure WEnt where
  layer : Nat
  expert : Nat
  ava : Nat
  len : Nat
  start : Nat
  due : Nat
  leave : Nat
  st : EntSt := .idle
  pages : List WPage
  past : Bool := false
  started : Bool := false
  deriving DecidableEq, Repr

/-- A window pass asked for by WINDOW_ARM (R210). -/
structure WArm where
  pair : Nat
  tag : Nat
  base : Nat
  deriving DecidableEq, Repr

/-- A streaming window (R208). `base` is the base of the running pass, `next` that of the next periodic one. -/
structure Win where
  ctx : Nat
  period : Nat
  budget : Nat
  ents : List WEnt
  base : Option Nat := none
  next : Option Nat := none
  arms : List WArm := []
  clearing : Option (Nat × Nat) := none
  deriving DecidableEq, Repr

/-- A PROMOTE or DEMOTE request in progress: pages still to settle, by AVA (R220). -/
structure TierReq where
  pair : Nat
  tag : Nat
  ctx : Nat
  up : Bool
  cls : MoveCls
  left : List Nat
  poison : Bool := false
  /-- the place of the request in order of arrival -/
  id : Nat := 0
  deriving DecidableEq, Repr

/-- A held range (R221), with the MOVE_HOLD that has not completed. -/
structure Hold where
  ctx : Nat
  ava : Nat
  len : Nat
  req : Option (Nat × Nat)
  deriving DecidableEq, Repr

/-- The promotion engine: moves, wipes, windows keyed 256·a + MODEL, requests in progress, held ranges, frames charged to a context by a
move, DPA[47:16] to context and bytes, and the compact shadow areas that firmware has pinned: partition, DPA[47:0], bytes (R216). -/
structure TierSt where
  moves : Map Move := []
  nextMove : Nat := 0
  wipes : Map Wipe := []
  nextWipe : Nat := 0
  wins : Map Win := []
  reqs : List TierReq := []
  holds : List Hold := []
  owned : Map (Nat × Nat) := []
  areas : List (Nat × Nat × Nat) := []
  deriving DecidableEq, Repr

/-! ### Resident cores (chapters 09 and 10) -/

/-- State of a physical core (`HUB.COREn_STATE.STATE`). -/
inductive CoreSt where
  | running | stopped | spareFree | spareHeld | mappedOut | gated
  deriving DecidableEq, Repr

/-- A physical core: its state and the logical number it serves. -/
structure Core where
  st : CoreSt
  logical : Option Nat
  deriving DecidableEq, Repr

/-- A store to a device register that its block has not acknowledged (R255, R256). -/
structure RegStore where
  addr : Nat
  value : Nat
  bt : Nat
  deriving DecidableEq, Repr

/-- The state of a hart: its privilege mode (0 U, 1 S, 3 M; `virt`: VU and VS), pc, integer, floating-point and vector registers and
CSRs by number, its store buffer (R254), its outstanding register stores and load (address, Board Time; R256), the addresses of stores
that timed out and await their trap, and the last trap taken (cause, epc, stval). It moves with the logical number (R227). -/
structure Hart where
  mode : Nat := 1
  virt : Bool := false
  pc : Word := 0#64
  x : Map Word := []
  f : Map Word := []
  v : Map (BitVec 256) := []
  csr : Map Word := []
  stores : List (Nat × List Byte) := []
  regStores : List RegStore := []
  regLoad : Option (Nat × Nat) := none
  timedOut : List Nat := []
  trap : Option (Nat × Nat × Nat) := none
  /-- the line its load-reserved holds, if any (R225, R276) -/
  lr : Option Nat := none
  deriving DecidableEq, Repr

/-- The resident cores: physical cores not in their Part Record state, harts by logical number, pending interrupt
identities as (hart, file, identity) with file 0 supervisor, 1 to 7 guest and 8 machine (R229), and the registrations of
R234 by partition: HART_LOST_ENTRY, and LOG_NOTIFY as (hart, identity). -/
structure CoreCplx where
  cores : Map Core := []
  harts : Map Hart := []
  imsic : List (Nat × Nat × Nat) := []
  lostEntry : Map Nat := []
  logNotify : Map (Nat × Nat) := []
  /-- negotiated firmware-interface version per partition, major·256 + minor (R233) -/
  fwiVer : Map Nat := []
  /-- physical cores found failing that cannot enter M-mode (R228, R412) -/
  failing : List Nat := []
  /-- HART_STARTs that wait for their cluster's power domain (R451): hart, entry, opaque argument -/
  starting : List (Nat × Word × Word) := []
  deriving DecidableEq, Repr

/-! ### Shared cache and Kiorn (chapter 11) -/

/-- A home slice's directory entry for a line it holds (R262, R264): the agent in M or E (`mod`: in M), the one in F, agents
in S, whether the slice's own copy is dirty, the context whose Keep hint protects it (R274), and whether it was allocated as a
Stream line (R273). Agents: 0 to 95 cores, 96 + n
Sequence Engines. -/
structure DirEnt where
  owner : Option Nat := none
  mod : Bool := false
  fwd : Option Nat := none
  shar : List Nat := []
  dirty : Bool := false
  keep : Option Nat := none
  stream : Bool := false
  deriving DecidableEq, Repr

/-- The kind of a coherence request. -/
inductive ReqKind where
  | rds | rdx | upgrade
  deriving DecidableEq, Repr

/-- A request that is not yet answered (R267 to R270): its agent, line and kind, the owner queue it waits in (an agent's, or the home
slice's: 104 + slice) and its place there, the refusals so far, the Board Time of its first issue, and the access of the core that waits
for it. `ret` marks a returned forward, which is never refused. -/
structure CohReq where
  agent : Nat
  line : Nat
  kind : ReqKind
  fwdTo : Option Nat := none
  place : Nat := 0
  refused : Nat := 0
  bt : Nat
  /-- Board Time of its last refusal -/
  last : Nat := 0
  ret : Bool := false
  acc : Option CoreAcc := none
  deriving DecidableEq, Repr

/-- A lane group of a Kiorn link (R284), keyed 16·link + group: Board Times of the CRC errors of the last 1 ms and of the
retrainings of the last 10 s. -/
structure LaneGrp where
  errs : List Nat := []
  retrains : List Nat := []
  deriving DecidableEq, Repr

/-- The shared cache: directory entries by line (DPA / 64), requests in order of first arrival, the next number and the
next place in an owner queue, Resident Buffer bytes per partition
(lowest die), spare ways in use as (slice, set group), set groups that run a way short, and lane groups. -/
structure CohSt where
  dir : Map DirEnt := []
  reqs : Map CohReq := []
  nextReq : Nat := 0
  nextPlace : Nat := 0
  rb : Map Memory := []
  ways : List (Nat × Nat) := []
  short : List (Nat × Nat) := []
  lanes : Map LaneGrp := []
  deriving DecidableEq, Repr

/-! ### HBM (chapter 12) -/

/-- A running Tour job (R299): operation (1 zeros, 2 pattern, 3 digest), range and pattern, as GO found them. -/
structure TourJob where
  op : Nat
  base : Nat
  len : Nat
  pat : Nat
  deriving DecidableEq, Repr

/-! ### Translation (chapter 13) -/

/-- A translation: the page's AVA and size, its frame, and the attributes of its leaf (R309). -/
structure Page where
  ava : Nat
  lg : Nat
  dpa : Nat
  w : Bool
  pin : Bool
  cp : Nat
  tier : Nat
  /-- DPA of the leaf entry, for the promotion engine's commit (R198) -/
  leaf : Nat
  deriving DecidableEq, Repr

/-- A TLB entry, tagged with its context (R311). -/
structure TlbEntry where
  ctx : Nat
  page : Page
  deriving DecidableEq, Repr

/-- A fault held in a source (R317, R320): `id` once it has a record. -/
structure Held where
  part : Nat
  kind : Nat
  source : Nat
  cause : Nat
  write : Bool
  ctx : Nat
  ava : Nat
  bt : Nat
  id : Option Nat
  /-- the command, the transfer, or none for a scalar store's record on TQ0 -/
  cmd : Option Nat
  /-- the launch and member of a scalar store -/
  lm : Option (Nat × Nat) := none
  deriving DecidableEq, Repr

/-- An invalidation request (R314): scope 0 range, 1 context, 2 partition. -/
structure Inval where
  part : Nat
  token : Nat
  scope : Nat
  ctx : Nat
  ava : Nat
  len : Nat
  deriving DecidableEq, Repr

/-- Translation caches (keys: 0 to 7 second level of the partition at that die, 16 + CE, 256 + host transfer engine), held
faults oldest first, fault numbers given per partition, and outstanding invalidations. -/
structure XlatSt where
  tlbs : Map (List TlbEntry) := []
  held : List Held := []
  faultId : Map Nat := []
  invs : List Inval := []
  /-- walkers failed per group, and groups whose spare is used (R312) -/
  walkersLost : Map Nat := []
  spareUsed : List Nat := []
  deriving DecidableEq, Repr

/-! ### The fabric (chapter 15) -/

/-- A packet not yet acknowledged (R361): its opcode and header, the command it belongs to, the Board Times of its first and
last sending, and how often it was sent again. -/
structure Sent where
  op : Nat
  pkt : Packet
  cmd : Option Nat
  first : Nat
  last : Nat
  retx : Nat := 0
  deriving DecidableEq, Repr

/-- One peer of a partition: word 0 of its destination table entry and the EPOCH of word 1 (R358); the PSN stream toward it,
with what waits for room and what is not acknowledged; the stream from it: every PSN below `cum` and those in `got` have arrived, and how many packets
since when are not yet acknowledged. -/
structure Peer where
  word0 : Nat := 0
  epoch : Option Nat := none
  txPsn : Nat := 0
  waiting : List (Nat × Packet × Option Nat) := []
  unacked : Map Sent := []
  cum : Nat := 0
  got : List Nat := []
  owed : Nat := 0
  since : Nat := 0
  deriving DecidableEq, Repr

/-- A fabric port: lanes that failed, and the lane that lane 8 replaces (R355). -/
structure FabPort where
  failed : List Nat := []
  spareFor : Option Nat := none
  deriving DecidableEq, Repr

/-- The fabric: peers keyed 4096·a + node for the partition at die a, the position in each route's round (64·a + route), and
ports. -/
structure FabSt where
  peers : Map Peer := []
  spray : Map Nat := []
  ports : Map FabPort := []
  deriving DecidableEq, Repr

/-! ### Start-up, firmware and attestation (chapter 17) -/

/-- The nominal Part Record, which the boot flash holds at `State.reset` (log entry 12). -/
def nominalPart : PartRecord :=
  { sig := .valid, deviceId := 0#384, serial := 0, part := 0x3248, stepping := 0xB1, blitzMax := 39, pciVid := 0, pciDid := 0
    powerW := 4400, tjTripC := 105, ceSpares := List.replicate 8 (20, 25), coreSpares := [7, 15, 23, 31, 39, 47, 55, 63]
    ceMapout := [], coreMapout := [], hbmRetired := [], vmin := List.replicate 16 0, repairs := [], reserved := false }

/-- What commands change in the boot flash beside the unit history (R387): the records, the firmware image with the verdict
its verification gives, and the hand-off tables by partition number. -/
structure Flash where
  part : Option PartRecord := some nominalPart
  owner : Option OwnerRecord := none
  image : Option (SigResult × ImageHdr) := none
  tables : Map Handoff := []
  deriving DecidableEq, Repr

/-- A resident OS load in progress (R404): the loading port and the table. -/
structure OsLoad where
  port : Nat
  table : Handoff
  deriving DecidableEq, Repr

/-- An SPDM connection (R405): versions, capabilities and algorithms agreed (1, 2, 3), the message that the RSA signature of the
preceding response covered (R406), the session (1 handshake, 2 established), the bytes of a long response still to be fetched and
the next chunk, and those of a long request with the next chunk. -/
structure Spdm where
  stage : Nat := 0
  signed : Option (List Nat) := none
  session : Nat := 0
  reply : List Nat := []
  replySeq : Nat := 0
  request : List Byte := []
  requestSeq : Nat := 0
  deriving DecidableEq, Repr

/-- The security engine and the boot ROM: the identity that the PUF gave (SHA-384 of the identity public keys), the Part Record
and Owner Record in force, the image in each bank of Arbiter SRAM (0: 0x00_0000, 1: the staging area), the flash image's 2 s wait,
whether a verified image is staged, measurement 4, live replacements since cold start (R405), OS loads and the verified tables
kept by partition (lowest die), partitions whose OS runs, BLOCK_DIGESTs (R233), and connections (0 to 3: the ports, 4: MCTP). -/
structure SecSt where
  flash : Flash := {}
  /-- the flash is treated as absent (R498) -/
  flashGone : Bool := false
  /-- the boot ROM runs: SYS_RESET_N has been released; firmware runs -/
  up : Bool := false
  started : Bool := false
  identity : Option (BitVec 384) := none
  part : Option PartRecord := some nominalPart
  owner : Option OwnerRecord := none
  banks : Map ImageHdr := []
  /-- what awaits verification: 0 a flash image, 1 a host image (BOOT), 2 a staged image -/
  verifying : Option Nat := none
  flashWait : Option Nat := none
  staged : Bool := false
  fromFlash : Bool := false
  meas4 : BitVec 384 := 0#384
  replaced : Nat := 0
  osLoads : Map OsLoad := []
  osTables : Map Handoff := []
  osRuns : List Nat := []
  blocks : Map (BitVec 384) := []
  memReady : Bool := false
  spdm : Map Spdm := []
  deriving DecidableEq, Repr

/-! ### Resets, screening and the unit history (chapters 18 and 19) -/

/-- An episode of hang handling in a partition (R413 to R420). `removing` lasts from the hang until the suspects' launches
are removed; `joined` are suspects of later hangs (R429); `engine` the CEs to be engine-reset; `cleared` those that were. -/
structure Episode where
  start : Nat
  removing : Bool := true
  suspects : List Nat
  joined : List Nat := []
  hung : List Nat
  engine : List Nat := []
  engStart : Option Nat := none
  cleared : List Nat := []
  current : Option Nat := none
  guilty : Bool := false
  deriving DecidableEq, Repr

/-- A screening in progress on a CE (R433): its phase, whether it is the second screening at once (R434), and the Board Time
its phase began. -/
structure Screen where
  phase : Nat := 1
  second : Bool := false
  since : Nat
  /-- the nominal pass did not match -/
  bad : Bool := false
  deriving DecidableEq, Repr

/-- A partition reset in progress: its start, whether it is held by the rate limit (R375), and whether its steps 1 to 4 are
done (R423). -/
structure PartReset where
  start : Nat
  held : Bool := false
  wiped : Bool := false
  deriving DecidableEq, Repr

/-- A record of the unit history (R442), without its CRC. -/
structure HistRec where
  typ : Nat
  kind : Nat
  cls : Nat := 0
  corner : Bool := false
  tValid : Bool := false
  unit : Nat
  bt : Nat
  value : Nat := 0
  powerOn : Nat := 0
  deriving DecidableEq, Repr

/-- Hang detection, reset, replay, screening, and the unit history in flash with its active half's generation. -/
structure ResSt where
  /-- a chip warm reset is to be performed (R371, R374) -/
  warmPending : Bool := false
  /-- the start of the chip warm reset in progress (R424) -/
  warm : Option Nat := none
  /-- a power cycle is to be requested, by the code of its cause (R375, R421, R431) -/
  cycleReq : Option Nat := none
  /-- POWER_CYCLE_REQ_N is asserted, and no further work starts (R425) -/
  cycle : Bool := false
  episodes : Map Episode := []
  /-- partition resets in progress, by lowest die -/
  parts : Map PartReset := []
  /-- screenings by physical CE -/
  screens : Map Screen := []
  /-- CEs to be screened at the next free slot of their die (R420, R432, R435) -/
  toScreen : List Nat := []
  /-- CEs castled out that finish their resident launches (R426) -/
  draining : List Nat := []
  /-- logical CE numbers that wait for a spare at rank 1, oldest first (R27) -/
  claims : List Nat := []
  /-- logical CE numbers that wait for a spare after an engine reset, with the CE that lost them (R422) -/
  waiting : List (Nat × Nat) := []
  /-- partitions whose memory a layout change is clearing, by lowest die (R24) -/
  clearing : List Nat := []
  /-- eligible launches placed, per die (R436) -/
  eligible : Map Nat := []
  /-- entries of digest tables done in the present pass, per partition (R440) -/
  digests : Map Nat := []
  /-- when the present or last pass over a digest table began, per partition -/
  digestAt : Map Nat := []
  /-- when a CE was last screened, and its last CORNER_FAIL (R432, R446) -/
  screened : Map Nat := []
  cornered : Map Nat := []
  /-- Board Times of corrected errors of the last hour, per unit (class 8 of R443), keyed 2^20·kind + unit -/
  corr : Map (List Nat) := []
  history : List HistRec := []
  histGen : Nat := 0
  deriving DecidableEq, Repr

/-! ### Power (chapter 20) -/

/-- Power: switched domains that are off and those powering up (R450, R451); PWR_ALERT_N asserted, and the Board Time of its
release; per die, the states that the epoch (R456) and the thermal loop (R465) ask for, the hottest sensor in °C, and the Board
Time of its last thermal and Blitz step; whether the last sample of package power was above the cap, and whether stretching has
lasted since the epoch began (R460); slack reports of a budget group's members by node, and the grant, with its power epoch, that
waits for the next epoch (R462, R463); THERM_TRIP_N asserted (R466). -/
structure PowSt where
  off : List Nat := []
  rising : List Nat := []
  alert : Bool := false
  released : Option Nat := none
  capState : Map Nat := []
  hot : Map Nat := []
  temps : Map Nat := []
  thermAt : Map Nat := []
  blitzAt : Map Nat := []
  overCap : Bool := false
  stretched : Bool := false
  reports : Map Nat := []
  grant : Option (Nat × Nat) := none
  epochNo : Nat := 0
  tripped : Bool := false
  deriving DecidableEq, Repr

/-- The device, but for Board Time and the queue of waiting commands. -/
structure Dev where
  /-- registers by `code * 2^24 + instance`, those not at their reset value -/
  regs : Map Word := []
  /-- fields of RWO registers already written (R6) -/
  rwo : List Nat := []
  /-- HBM and DDR by DPA[47:0], as coherent agents see it (R243) -/
  mem : Memory := []
  /-- 64-byte granules that hold uncorrectable data or a poison mark (R217), DPA / 64 -/
  poison : List Nat := []
  /-- the model's own counter of free values taken (log entry 4) -/
  free : Nat := 0
  /-- what has been emitted, oldest first -/
  out : List Out := []
  ctxs : Map Ctx := []
  ring : RingSt := {}
  time : TimeSt := {}
  arb : ArbSt := {}
  eng : EngSt := {}
  seq : SeqEng := {}
  tier : TierSt := {}
  cpx : CoreCplx := {}
  coh : CohSt := {}
  /-- running Tour jobs, by lowest die of the partition -/
  tours : Map TourJob := []
  xlat : XlatSt := {}
  fab : FabSt := {}
  sec : SecSt := {}
  res : ResSt := {}
  pow : PowSt := {}
  /-- MSI-X tables of the host ports by 8-byte word: `4096 * port + word` (R329, R345) -/
  msix : Map Word := []
  deriving DecidableEq, Repr

/-- The state: Board Time in ns (R57), the device, and the commands waiting, first in first out. -/
structure State where
  bt : Nat
  dev : Dev
  pending : List Instr
  deriving DecidableEq, Repr

/-- Faults. No command of the table stops the machine with a fault: every error the spec describes is a completion
status, a refused write or a logged event. The type is kept for the host's interface; nothing raises its one reason. -/
inductive Fault where
  /-- raised by nothing; safe -/
  | none
  deriving DecidableEq, Repr

/-- Refusals. -/
inductive Refusal where
  /-- raised by an arm of `exec` whose command has no meaning yet; safe -/
  | notModelled (mnemonic : String)
  deriving DecidableEq, Repr

/-- The state at power-on. -/
def State.reset : State := { bt := 0, dev := {}, pending := [] }

end Sys2Proof.Machine
end

