-- ==== Sys2Proof/Machine/Ops.lean ====
section
/-! DEFINITION. The named operations over registers and partitions: reading and changing a field, the checks and the
effect of a register write (R6 to R8), the refusal of a write (R7, R478), and the arithmetic of the partition layout (R16
to R18). -/

namespace Sys2Proof.Machine

/-! ### Parts of the device -/

/-- Change the rings. -/
def Dev.modRing (d : Dev) (f : RingSt → RingSt) : Dev := { d with ring := f d.ring }
/-- Change Board Time's part. -/
def Dev.modTime (d : Dev) (f : TimeSt → TimeSt) : Dev := { d with time := f d.time }
/-- Change the Arbiter. -/
def Dev.modArb (d : Dev) (f : ArbSt → ArbSt) : Dev := { d with arb := f d.arb }
/-- Change the engines. -/
def Dev.modEng (d : Dev) (f : EngSt → EngSt) : Dev := { d with eng := f d.eng }
/-- Change the sequences. -/
def Dev.modSeq (d : Dev) (f : SeqEng → SeqEng) : Dev := { d with seq := f d.seq }
/-- Change the promotion engine. -/
def Dev.modTier (d : Dev) (f : TierSt → TierSt) : Dev := { d with tier := f d.tier }
/-- Change the core complex. -/
def Dev.modCpx (d : Dev) (f : CoreCplx → CoreCplx) : Dev := { d with cpx := f d.cpx }
/-- Change the shared cache. -/
def Dev.modCoh (d : Dev) (f : CohSt → CohSt) : Dev := { d with coh := f d.coh }
/-- Change translation. -/
def Dev.modXlat (d : Dev) (f : XlatSt → XlatSt) : Dev := { d with xlat := f d.xlat }
/-- Change the fabric. -/
def Dev.modFab (d : Dev) (f : FabSt → FabSt) : Dev := { d with fab := f d.fab }
/-- Change the security engine. -/
def Dev.modSec (d : Dev) (f : SecSt → SecSt) : Dev := { d with sec := f d.sec }
/-- Change resets and screening. -/
def Dev.modRes (d : Dev) (f : ResSt → ResSt) : Dev := { d with res := f d.res }
/-- Change power. -/
def Dev.modPow (d : Dev) (f : PowSt → PowSt) : Dev := { d with pow := f d.pow }

/-- Set memory. -/
def Dev.setMem (d : Dev) (x : Memory) : Dev := { d with mem := x }
/-- Set the poisoned granules. -/
def Dev.setPoison (d : Dev) (x : List Nat) : Dev := { d with poison := x }
/-- Set the running Tour jobs. -/
def Dev.setTours (d : Dev) (x : Map TourJob) : Dev := { d with tours := x }
/-- Set the contexts. -/
def Dev.setCtxs (d : Dev) (x : Map Ctx) : Dev := { d with ctxs := x }
/-- Set the counter of free values. -/
def Dev.setFree (d : Dev) (x : Nat) : Dev := { d with free := x }
/-- Set the MSI-X tables. -/
def Dev.setMsix (d : Dev) (x : Map Word) : Dev := { d with msix := x }

/-- A granule is poisoned. -/
def Dev.notePoison (d : Dev) (g : Nat) : Dev := { d with poison := listAdd d.poison g }

/-! ### Registers -/

/-- The value of a register with every field at its reset value. -/
def regReset (r : RegName) : Word :=
  BitVec.ofNat 64 ((regFields r).foldl (fun v f => v + f.reset * 2 ^ f.fld.lo) 0)

/-- The key of a register's stored value. -/
def regKey (r : RegName) (i : Nat) : Nat := r.code * 2 ^ 24 + i

/-- The stored value of a register. -/
def Dev.reg (d : Dev) (r : RegName) (i : Nat) : Word := mapGet (regReset r) d.regs (regKey r i)

/-- Set the stored value of a register. -/
def Dev.setReg (d : Dev) (r : RegName) (i : Nat) (v : Word) : Dev :=
  { d with regs := mapSet (regReset r) d.regs (regKey r i) v }

/-- Replace bits `[hi:lo]` of a 64-bit value. -/
def putBits (w : Word) (hi lo v : Nat) : Word :=
  BitVec.ofNat 64 (w.toNat - 2 ^ lo * bits w.toNat hi lo + 2 ^ lo * (v % 2 ^ (hi + 1 - lo)))

/-- The value of a field. -/
def Dev.fget (d : Dev) (f : Fld) (i : Nat) : Nat := bits (d.reg f.reg i).toNat f.hi f.lo

/-- Set a field. -/
def Dev.fset (d : Dev) (f : Fld) (i v : Nat) : Dev :=
  d.setReg f.reg i (putBits (d.reg f.reg i) f.hi f.lo v)

/-- Add to a saturating counter field. -/
def Dev.fbump (d : Dev) (f : Fld) (i n : Nat) : Dev :=
  d.fset f i (min (2 ^ (f.hi + 1 - f.lo) - 1) (d.fget f i + n))

/-- Is a one-bit field set? -/
def Dev.fon (d : Dev) (f : Fld) (i : Nat) : Bool := d.fget f i == 1

/-- The LOCK bit that locks the RWL fields of a register's block instance (R477). `IGF.NODE` is locked by the one LOCK bit
of the IGF block (DEDUCED, log entry 5). -/
def lockOf (r : RegName) (i : Nat) : Option (Fld × Nat) :=
  match r with
  | .btmCtrl | .btmPtpCfg | .btmPpsCfg => some (F.btmCtrlLock, 0)
  | .ceCtrl => some (F.ceCtrlLock, i)
  | .prtPromCtrl | .prtPromAge => some (F.prtPromCtrlLock, i)
  | .shcCtrl | .shcRetryCfg => some (F.shcCtrlLock, 0)
  | .kioTimeout | .kioLinkCfg => some (F.kioTimeoutLock, 0)
  | .hbmcScrubCfg => some (F.hbmcScrubCfgLock, 0)
  | .hptPortBind => some (F.hptPortBindLock, i)
  | .igfCtrl | .igfNode | .igfPortCfg | .igfRetx => some (F.igfCtrlLock, 0)
  | .arbFastVec => some (F.arbFastVecLock, 0)
  | .evcCtrl | .evcAge => some (F.evcCtrlLock, 0)
  | .resCtrl | .resEscCfg => some (F.resCtrlLock, 0)
  | .pwrCtrl | .pwrTherm => some (F.pwrCtrlLock, 0)
  | _ => none

/-- Are the RWL fields of a register locked? -/
def Dev.locked (d : Dev) (r : RegName) (i : Nat) : Bool :=
  match lockOf r i with
  | some (f, j) => d.fon f j
  | none => false

/-- Does the party's write act on fields that only firmware may write (R353, R475)? -/
def partyFirmware : Party → Bool
  | .firmware _ => true
  | _ => false

/-- The access code a field has for a party: `roFw` is RW to firmware and RO to others; `HPT.PORT_BIND` is RO to others. -/
def accFor (p : Party) (f : FldDef) : Acc :=
  if partyFirmware p then (if f.acc = .roFw then .rw else f.acc)
  else if f.acc = .roFw ∨ f.fld.reg = .hptPortBind then .ro else f.acc

/-- The key of a field in the list of written RWO fields. -/
def rwoKey (f : Fld) (i : Nat) : Nat := regKey f.reg i * 64 + f.lo

/-- Does a write of `v` pass R7 for one field? -/
def Dev.fieldOk (d : Dev) (p : Party) (i : Nat) (v : Nat) (f : FldDef) : Bool :=
  let new := bits v f.fld.hi f.fld.lo
  let old := d.fget f.fld i
  let inRange := decide (f.lo ≤ new) && decide (new ≤ f.hi)
  match accFor p f with
  | .ro | .roFw => true
  | .rw | .wo | .w1c | .w1s => inRange
  | .rwl => inRange && (new == old || !d.locked f.fld.reg i)
  | .rwo => inRange && (new == old || !(d.rwo.contains (rwoKey f.fld i)))

/-- The bits of a value that lie in no field of the register. -/
def reservedPart (r : RegName) (v : Nat) : Nat :=
  (regFields r).foldl (fun w f => w - bits w f.fld.hi f.fld.lo * 2 ^ f.fld.lo) v

/-- Does a write pass the checks of R7 that its register's table states? -/
def Dev.writeOk (d : Dev) (p : Party) (r : RegName) (i : Nat) (v : Word) : Bool :=
  reservedPart r v.toNat == 0 && (regFields r).all (d.fieldOk p i v.toNat)

/-- The value of one field after an accepted write (R6). -/
def fieldAfter (a : Acc) (old new : Nat) : Nat :=
  match a with
  | .rw | .rwl | .rwo => new
  | .ro | .roFw => old
  | .wo => 0
  | .w1c => old &&& (old ^^^ new)
  | .w1s => old ||| new

/-- The stored value after an accepted write (R6). -/
def Dev.afterWrite (d : Dev) (p : Party) (r : RegName) (i : Nat) (v : Word) : Word :=
  (regFields r).foldl
    (fun w f => putBits w f.fld.hi f.fld.lo
      (fieldAfter (accFor p f) (d.fget f.fld i) (bits v.toNat f.fld.hi f.fld.lo)))
    (d.reg r i)

/-- The CFG_ERR register that records a refused write of a register (R478). -/
def cfgErrOf (r : RegName) (i : Nat) : RegName × Nat :=
  match r with
  | .btmNow | .btmCtrl | .btmStatus | .btmFreqAdj | .btmPtpCfg | .btmSrcFilt | .btmSrcStat | .btmTod | .btmPpsCfg
  | .btmCfgErr => (.btmCfgErr, 0)
  | .seqeEwSlot | .seqeEwNext => (.seqeCfgErr, i / 64)
  | .seqePoolCfg | .seqePoolCap | .seqePoolStat => (.seqeCfgErr, i / 8)
  | .seqeEwStat | .seqeCtrl | .seqeKvbtBase | .seqeStat0 | .seqeStat1 | .seqeStat2 | .seqeKvcStat
  | .seqeCfgErr => (.seqeCfgErr, i)
  | .arbEwStat | .arbEwSlot | .arbEwNext | .arbPairStatus | .arbPairCtrl | .arbWdog | .arbEscLimit | .arbFastVec
  | .arbTlTail | .arbTlStat | .arbCfgErr => (.arbCfgErr, 0)
  | .evcCtrl | .evcAge | .evcSrcCfg | .evcSrcState | .evcSet | .evcStat | .evcCfgErr => (.evcCfgErr, 0)
  | .ceId | .ceState | .ceCtrl | .ceOcc | .ceSqcStat | .cePerfTensor | .cePerfVec | .ceCfgErr => (.ceCfgErr, i)
  | .ceDieMap0 | .ceDieMap1 => (.ceCfgErr, 26 * i)
  | .prtPromCtrl | .prtPromAge | .prtPromQdepth | .prtPromStat0 | .prtPromStat1 | .prtPromStat2 | .prtCapMem
  | .prtCapSeq | .prtCapJrn | .prtPartCfgErr => (.prtPartCfgErr, i)
  | .prtPgpoolCfg | .prtPgpoolCap | .prtPgpoolStat => (.prtPartCfgErr, i / 4)
  | .prtMode | .prtLayout | .prtPartReport | .prtCfgErr => (.prtCfgErr, 0)
  | .hubCoreState | .hubCoreStat | .hubCoreIso | .hubCfgErr => (.hubCfgErr, 0)
  | .shcCtrl | .shcRetryCfg | .shcPartCfg | .shcPartStat | .shcSliceStat0 | .shcSliceStat1 | .shcSliceStat2
  | .shcCfgErr => (.shcCfgErr, 0)
  | .kioLinkStatus | .kioLinkCfg | .kioLinkErr | .kioTimeout | .kioCfgErr => (.kioCfgErr, 0)
  | .hbmcChStatus | .hbmcChEcc | .hbmcChSlot | .hbmcChScrub | .hbmcScrubCfg | .hbmcChTestCfg | .hbmcChTestPat
  | .hbmcChTestStat | .hbmcIlCfg | .hbmcTourBase | .hbmcTourLen | .hbmcTourCmd | .hbmcTourPat | .hbmcTourResult
  | .hbmcTourStatus | .hbmcCfgErr => (.hbmcCfgErr, 0)
  | .xlatFqBase | .xlatFqCfg | .xlatFqHead | .xlatFqTail | .xlatFqResolve | .xlatFqStat | .xlatFqTimeout | .xlatFqMsi
  | .xlatInvReq | .xlatInvIssued | .xlatInvDone | .xlatWalkStat | .xlatTlbStat | .xlatCfgErr => (.xlatCfgErr, i)
  | .hptPortStatus | .hptPortCfg | .hptPortBind | .hptCfgErr => (.hptCfgErr, i)
  | .hptSqBase | .hptCqBase | .hptHeadWb | .hptCfg | .hptAttach | .hptStatus | .hptStat | .hptMsi | .hptDb
  | .hptCqDb => if i < 4096 then (.hptCfgErr, i / 1024) else (.hptWinCfgErr, (i - 4096) / 256)
  | .hptWinCfgErr => (.hptWinCfgErr, i)
  | .igfRt | .igfCtrl | .igfNode | .igfPortStatus | .igfPortCfg | .igfPortStat | .igfRetx | .igfDtSel | .igfDtData0
  | .igfDtData1 | .igfWinBase | .igfWinCfg | .igfPeerStat | .igfCfgErr => (.igfCfgErr, 0)
  | .secBootStatus | .secBootSrc | .secBootLen | .secBootCmd | .secFwState | .secFwRemap | .secId | .secSerial
  | .secCfgErr => (.secCfgErr, 0)
  | .resCtrl | .resEscCfg | .resResetReq | .resScrCfg | .resShadowCfg | .resHistCfg | .resCfgErr => (.resCfgErr, 0)
  | .resWdogCfg | .resTqCfg | .resPartStatus | .resHangStat | .resReplayStat | .resShadowStat | .resDigBase
  | .resDigCfg | .resPartCfgErr => (.resPartCfgErr, i)
  | .pwrCtrl | .pwrCap | .pwrEpoch | .pwrGrant | .pwrDieClk | .pwrFloor | .pwrTherm | .pwrTelem | .pwrPark | .pwrDom0
  | .pwrDom1 | .pwrCfgErr => (.pwrCfgErr, 0)
  | .ddrcChStatus | .ddrcChEcc | .ddrcCfgErr => (.ddrcCfgErr, 0)

/-- Refuse a write: CFG_ERR of the owning instance sets, and CONFLICT when the write claimed an owned resource (R7). Every
CFG_ERR register has the layout of `BTM.CFG_ERR`. -/
def Dev.refuse (d : Dev) (r : RegName) (i : Nat) (conflict : Bool) : Dev :=
  let (e, j) := cfgErrOf r i
  d.setReg e j ((d.reg e j) ||| (if conflict then 3#64 else 1#64))

/-- The verdict of a register's own rules on a write, beside R7's general cases. -/
inductive Verdict where
  | ok | refuse | conflict
  deriving DecidableEq, Repr

/-- A verdict from two tests. A write that claims an owned resource sets CONFLICT "in addition" (R7), so a conflict shows whatever else
refuses the write (DEDUCED, log entry 117). -/
def verdict (refuse conflict : Bool) : Verdict := if conflict then .conflict else if refuse then .refuse else .ok

/-- The RWO fields of a register have been written (R6). No register of the index has one; the rule is kept for the code. -/
def Dev.noteRwo (d : Dev) (r : RegName) (i : Nat) : Dev :=
  (regFields r).foldl (fun d f => if f.acc = .rwo then { d with rwo := listAdd d.rwo (rwoKey f.fld i) } else d) d

/-- A register write: R7's checks, the register's own verdict, then the new value and the write's effect (R476). A write that both
claims an owned resource and fails another check is refused with CONFLICT (DEDUCED, log entry 117). -/
def Dev.regWrite (d : Dev) (p : Party) (r : RegName) (i : Nat) (v : Word) (own : Verdict) (eff : Dev → Dev) : Dev :=
  if d.writeOk p r i v then
    match own with
    | .refuse => d.refuse r i false
    | .conflict => d.refuse r i true
    | .ok => eff ((d.setReg r i (d.afterWrite p r i v)).noteRwo r i)
  else d.refuse r i (decide (own = .conflict))

/-- The value a write of `v` would leave in a field (for verdicts on the register as the write leaves it). -/
def Dev.fwould (d : Dev) (p : Party) (v : Word) (f : Fld) (i : Nat) : Nat :=
  bits (d.afterWrite p f.reg i v).toNat f.hi f.lo

/-- Set the counter fields of a register to 0. -/
def Dev.clearCounters (d : Dev) (r : RegName) (i : Nat) : Dev :=
  (regFields r).foldl (fun d f => if f.cnt then d.fset f.fld i 0 else d) d

/-! ### Free values (log entry 4) -/

/-- Advance the counter of free values. -/
def Dev.took (d : Dev) (n : Nat) : Dev := { d with free := d.free + n }

/-! ### Partitions

A partition is named by its lowest die. -/

/-- The lowest die of the partition that holds a die, for a layout mask (bit n: a partition starts at die n). -/
def partOf (mask : Nat) : Nat → Nat
  | 0 => 0
  | n + 1 => if bit mask (n + 1) then n + 1 else partOf mask n

/-- Does a partition start at die `a`? Die 0 always starts one (R474). -/
def partStarts (mask a : Nat) : Bool := partOf mask a == a

/-- The die count of the partition that starts at die `a`. -/
def partDies (mask a : Nat) : Nat := ((List.range 8).filter (fun n => partOf mask n == a)).length

/-- The number of the partition that starts at die `a`: P0 upward by lowest die (R17). -/
def partNum (mask a : Nat) : Nat := ((List.range a).filter (partStarts mask)).length

/-- The lowest die of partition Pp, if there is one. -/
def partAt (mask p : Nat) : Option Nat := ((List.range 8).filter (partStarts mask))[p]?

/-- The layout in force. -/
def Dev.layout (d : Dev) : Nat := d.fget F.prtLayoutCurrent 0

/-- The partition that holds a die. -/
def Dev.partOfDie (d : Dev) (n : Nat) : Nat := partOf d.layout n

/-- The die count of a partition. -/
def Dev.dies (d : Dev) (a : Nat) : Nat := partDies d.layout a

/-- Does a partition start at die `a`? -/
def Dev.isPart (d : Dev) (a : Nat) : Bool := decide (a < 8) && partStarts d.layout a

/-- The partitions of the layout in force. -/
def Dev.parts (d : Dev) : List Nat := (List.range 8).filter (partStarts d.layout)

/-- The partition whose range holds a context (R18). -/
def Dev.partOfCtx (d : Dev) (c : Nat) : Nat := d.partOfDie (c / 512)

/-- The partition whose range holds a sequence slot (R18). -/
def Dev.partOfSlot (d : Dev) (s : Nat) : Nat := d.partOfDie (s / 2048)

/-- The partition that a logical core belongs to (R18). -/
def Dev.partOfHart (d : Dev) (h : Nat) : Nat := d.partOfDie (h / 12)

/-- The partition of a ring pair: a device pair's own; a host pair's is its context's. -/
def pairIsHost (k : Nat) : Bool := decide (k < 4096)
/-- The host port of a host pair. -/
def pairPort (k : Nat) : Nat := k / 1024
/-- The partition window of a device pair. -/
def pairWindow (k : Nat) : Nat := (k - 4096) / 256

/-- The ports bound to a partition (R21). -/
def Dev.boundTo (d : Dev) (port a : Nat) : Bool := bit (d.fget F.hptPortBindPartitions port) (partNum d.layout a)

/-! ### Status codes -/

/-- The 8-bit code of a status. -/
def Status.code : Status → Nat
  | .ok => 0x00
  | .okDegraded => 0x01
  | .flagFell => 0x02
  | .descNotReady => 0x10
  | .descInvalid => 0x11
  | .range => 0x12
  | .pageFaultUnresolved => 0x20
  | .accessViolation => 0x21
  | .hostLost => 0x30
  | .peerReset => 0x31
  | .peerUnreachable => 0x32
  | .contextReset => 0x40
  | .contextTerminated => 0x41
  | .partitionReset => 0x42
  | .dataPoison => 0x50
  | .miscompare => 0x51
  | .quota => 0x60
  | .versionMismatch => 0x70
  | .internal => 0xFF

/-- The place of a status in R55's order, first to last. Codes given at fetch meet no other. -/
def Status.rank : Status → Nat
  | .internal => 1
  | .partitionReset => 2
  | .contextTerminated => 3
  | .accessViolation => 4
  | .contextReset => 5
  | .hostLost => 6
  | .peerReset => 7
  | .peerUnreachable => 8
  | .dataPoison => 9
  | .miscompare => 10
  | .pageFaultUnresolved => 11
  | .range => 12
  | .quota => 13
  | .flagFell => 14
  | .okDegraded => 15
  | .ok => 16
  | .descNotReady => 0
  | .descInvalid => 0
  | .versionMismatch => 0

/-- The one of two statuses that a completion reports (R55). -/
def Status.first (a b : Status) : Status := if b.rank < a.rank then b else a

/-! ### Contexts -/

/-- A context; one that is not listed is FREE. -/
def Dev.ctx (d : Dev) (c : Nat) : Ctx := mapGet {} d.ctxs c

/-- Set a context. -/
def Dev.setCtx (d : Dev) (c : Nat) (x : Ctx) : Dev := { d with ctxs := mapSet {} d.ctxs c x }

/-- Change a context. -/
def Dev.modCtx (d : Dev) (c : Nat) (f : Ctx → Ctx) : Dev := d.setCtx c (f (d.ctx c))

/-- Is the context ending? Its new work completes with CONTEXT_TERMINATED (R37). -/
def Ctx.ending (x : Ctx) : Bool := x.st = .closing ∨ x.st = .terminating

/-- Does the context exist (any state but FREE)? -/
def Ctx.live (x : Ctx) : Bool := x.st ≠ .free

/-- Does any partition hold an admitted context (R65)? -/
def Dev.anyCtx (d : Dev) : Bool := d.ctxs.any (fun p => p.2.live)

/-! ### Meanings -/

/-- A command that changes the device and neither Board Time nor the queue. -/
def onDev (f : Nat → Dev → Dev) (s : State) : Host.Outcome State Fault Refusal :=
  .next { s with dev := f s.bt s.dev }

/-- A command that may step Board Time too. -/
def onTime (f : Nat → Dev → Nat × Dev) (s : State) : Host.Outcome State Fault Refusal :=
  .next { s with bt := (f s.bt s.dev).1, dev := (f s.bt s.dev).2 }

end Sys2Proof.Machine
end

