-- ==== Sys2Proof/Machine/MemMap.lean ====
section
/-! DEFINITION. The local physical map (R306): HBM regions and the place of a byte on a channel (R289, R290), DDR regions
(R307), and which partition's memory a DPA lies in. -/

namespace Sys2Proof.Machine

/-- Capacity of an HBM channel, Q (R288). -/
def Dev.chanCap (d : Dev) : Nat := if d.fget F.secIdPart 0 = 0x3236 then 1152 * 2 ^ 20 else 1536 * 2 ^ 20

/-- W of a partition (R289): 0 in one of a single die, whatever an earlier layout left in its register (R291). -/
def Dev.wideBytes (d : Dev) (a : Nat) : Nat := if d.dies a = 1 then 0 else 2 ^ 20 * d.fget F.hbmcIlCfgWideMib a

/-- The state of an HBM channel: 0 ACTIVE, 1 MARKED, 2 RETIRED, 3 FAILED. -/
def Dev.chanState (d : Dev) (c : Nat) : Nat := d.fget F.hbmcChStatusState c

/-- The active channels of dies `n` to `n + k - 1` in ascending order: all but the RETIRED ones (R295). -/
def Dev.activeChans (d : Dev) (n k : Nat) : List Nat :=
  ((List.range (128 * k)).map (fun i => 128 * n + i)).filter (fun c => d.chanState c != 2)

/-- An HBM region (R289): base, size, its channels, and the local address its units start at. -/
structure Region where
  base : Nat
  size : Nat
  chans : List Nat
  start : Nat
  part : Nat
  deriving DecidableEq, Repr

/-- The die-local region of a die. -/
def Dev.localRegion (d : Dev) (n : Nat) : Region :=
  let a := d.partOfDie n
  let cs := d.activeChans n 1
  { base := n * 2 ^ 38, size := cs.length * (d.chanCap - d.wideBytes a), chans := cs, start := 0, part := a }

/-- The wide region of the partition at die `a`. -/
def Dev.wideRegion (d : Dev) (a : Nat) : Region :=
  let cs := d.activeChans a (d.dies a)
  { base := 0x80000000000 + a * 2 ^ 38, size := cs.length * d.wideBytes a, chans := cs,
    start := d.chanCap - d.wideBytes a, part := a }

/-- The HBM region a DPA[47:0] lies in. A wide region of several dies reaches over the spacing of 256 GiB of its lowest one. -/
def Dev.regionOf (d : Dev) (x : Nat) : Option Region :=
  if x < 0x80000000000 then
    let n := x / 2 ^ 38
    if n < 8 then
      let r := d.localRegion n
      if x - r.base < r.size then some r else none
    else none
  else if x < 0x100000000000 then
    let r := d.wideRegion (d.partOfDie ((x - 0x80000000000) / 2 ^ 38 % 8))
    if r.base ≤ x ∧ x - r.base < r.size then some r else none
  else none

/-- The channel index and local address of offset `x` of a region of `C` channels (R290). -/
def interleave (C x : Nat) : Nat × Nat :=
  let u := x / 512
  let g := u / C
  let f := bits g 9 0 ^^^ bits g 19 10 ^^^ bits g 29 20
  ((u % C + f % C) % C, g * 512 + x % 512)

/-- The channel and local address of an HBM byte. -/
def Dev.hbmPlace (d : Dev) (x : Nat) : Option (Nat × Nat) :=
  match d.regionOf x with
  | some r =>
    let (i, l) := interleave r.chans.length (x - r.base)
    some (r.chans.getD i 0, l + r.start)
  | none => none

/-- Capacity of a DDR channel in bytes; 0 when it is absent or has failed. -/
def Dev.ddrCap (d : Dev) (c : Nat) : Nat :=
  if d.fget F.ddrcChStatusState c = 0 then 0 else 2 ^ 30 * d.fget F.ddrcChStatusGib c

/-- The DDR channels of the partition at die `a` that are populated. -/
def Dev.ddrChans (d : Dev) (a : Nat) : List Nat :=
  ((List.range (2 * d.dies a)).map (fun i => 2 * a + i)).filter (fun c => d.ddrCap c != 0)

/-- The size of a partition's DDR region: its channels times the smallest populated one (R307). -/
def Dev.ddrSize (d : Dev) (a : Nat) : Nat :=
  match d.ddrChans a with
  | [] => 0
  | c :: cs => (2 * d.dies a) * cs.foldl (fun m x => min m (d.ddrCap x)) (d.ddrCap c)

/-- The base of a partition's DDR region. -/
def ddrBase (a : Nat) : Nat := 0x100000000000 + a * 2 ^ 40

/-- The partition whose DDR region holds a DPA[47:0]. -/
def Dev.ddrOf (d : Dev) (x : Nat) : Option Nat :=
  if 0x100000000000 ≤ x ∧ x < 0x180000000000 then
    d.parts.find? (fun a => decide (ddrBase a ≤ x) && decide (x < ddrBase a + d.ddrSize a))
  else none

/-- The DDR channel of a DPA and its channel address (R307). -/
def Dev.ddrPlace (d : Dev) (x : Nat) : Option (Nat × Nat) :=
  match d.ddrOf x with
  | some a =>
    let k := 2 * d.dies a
    let o := x - ddrBase a
    some (2 * a + o / 4096 % k, o / (4096 * k) * 4096 + o % 4096)
  | none => none

/-- Is the address in the DDR range? -/
def isDdr (x : Nat) : Bool := decide (0x100000000000 ≤ x) && decide (x < 0x180000000000)

/-- The partition whose HBM or DDR holds a DPA[47:0]. -/
def Dev.memOwner (d : Dev) (x : Nat) : Option Nat :=
  if isDdr x then d.ddrOf x else (d.regionOf x).map (fun r => r.part)

/-- Do `n` bytes from `x` lie in one HBM region of the partition at die `a`? -/
def Dev.inHbm (d : Dev) (a x n : Nat) : Bool :=
  match d.regionOf x with
  | some r => r.part == a && decide (x - r.base + n ≤ r.size)
  | none => false

/-- Do `n` bytes from `x` lie in the DDR region of the partition at die `a`? -/
def Dev.inDdr (d : Dev) (a x n : Nat) : Bool := d.ddrOf x == some a && decide (x + n ≤ ddrBase a + d.ddrSize a)

/-- Do `n` bytes lie in the partition's memory of a tier? -/
def Dev.inTier (d : Dev) (ddr : Bool) (a x n : Nat) : Bool := if ddr then d.inDdr a x n else d.inHbm a x n

/-- A partition's HBM bytes. -/
def Dev.hbmSize (d : Dev) (a : Nat) : Nat :=
  ((List.range (d.dies a)).map (fun i => (d.localRegion (a + i)).size)).sum + (d.wideRegion a).size

/-- The die whose mover or HBM serves a DPA: a die-local address's own; a wide address's channel's. -/
def Dev.dieOfHbm (d : Dev) (x : Nat) : Nat :=
  match d.hbmPlace x with
  | some (c, _) => c / 128
  | none => 0

/-- The home slice of a memory address (R261). -/
def Dev.homeSlice (d : Dev) (x : Nat) : Option Nat :=
  match d.hbmPlace x with
  | some (c, _) => some (8 * (c / 128) + c % 8)
  | none => (d.ddrPlace x).map (fun p => 64 + p.1)

/-! ### Memory with poison -/

/-- Has the channel that holds a DPA FAILED (R296)? -/
def Dev.deadAt (d : Dev) (x : Nat) : Bool :=
  match d.hbmPlace x with
  | some (c, _) => d.chanState c == 3
  | none => match d.ddrPlace x with
    | some (c, _) => d.fget F.ddrcChStatusState c == 3
    | none => false

/-- Has any channel FAILED? -/
def Dev.anyDead (d : Dev) : Bool :=
  d.regs.any (fun p => (p.1 / 2 ^ 24 == RegName.hbmcChStatus.code || p.1 / 2 ^ 24 == RegName.ddrcChStatus.code) &&
    bits p.2.toNat 1 0 == 3)

/-- Do `n` bytes from `x` touch a FAILED channel? -/
def Dev.deadIn (d : Dev) (x n : Nat) : Bool :=
  d.anyDead && decide (0 < n) && (List.range ((x + n - 1) / 512 + 1 - x / 512)).any (fun i => d.deadAt ((x / 512 + i) * 512))

/-- Does a read of `n` bytes meet poison (R217, R296)? -/
def Dev.poisoned (d : Dev) (x n : Nat) : Bool :=
  d.poison.any (fun g => decide (x < 64 * g + 64) && decide (64 * g < x + n)) || d.deadIn x n

/-- The home slice recalls the lines of `n` bytes and owns them (R266); a core's reservation on them is lost. -/
def Dev.homeOp (d : Dev) (x n : Nat) : Dev :=
  let hit := fun (k : Nat) => decide (x < 64 * k + 64) && decide (64 * k < x + n)
  (d.modCoh (fun z => { z with
      dir := mapAll z.dir (fun k e =>
        if hit k then { e with owner := none, mod := false, fwd := none, shar := [] } else e) })).modCpx
    (fun z => { z with harts := mapAll z.harts (fun _ h => if h.lr.any hit then { h with lr := none } else h) })

/-- Write bytes at the home slice: whole granules written lose their poison mark (R217); a write to a FAILED channel is dropped
(R296). -/
def Dev.memPut (d : Dev) (x : Nat) (bs : List Byte) : Dev :=
  let dead := d.anyDead
  let d := d.homeOp x bs.length
  (d.setMem (if dead then bs.zipIdx.foldl (fun m p => if d.deadAt (x + p.2) then m else memWrite m (x + p.2) p.1) d.mem
      else memWriteBytes d.mem x bs)).setPoison (d.poison.filter (fun g => !(decide (x ≤ 64 * g) && decide (64 * g + 64 ≤ x + bs.length))))

/-- Set `n` bytes to zero and clear their poison marks (R204, R300). -/
def Dev.memClear (d : Dev) (x n : Nat) : Dev :=
  (d.setMem (memZero d.mem x n)).setPoison (d.poison.filter (fun g => !(decide (x ≤ 64 * g) && decide (64 * g < x + n))))

/-- Copy a frame with its poison marks (R217); a granule that a FAILED channel does not give up is marked in the new frame too. -/
def Dev.frameCopy (d : Dev) (src dst n : Nat) : Dev :=
  let bad := if d.anyDead then ((List.range ((n + 63) / 64)).map (fun i => src / 64 + i)).filter (fun g => d.poisoned (64 * g) 64)
    else d.poison.filter (fun g => decide (src ≤ 64 * g) && decide (64 * g < src + n))
  let marks := bad.map (fun g => g + dst / 64 - src / 64)
  let d := d.setMem (memCopy d.mem src dst n)
  d.setPoison (d.poison.filter (fun g => !(decide (dst ≤ 64 * g) && decide (64 * g < dst + n))) ++ marks)

/-- Replace `n` bytes by values the spec leaves undefined (log entry 4). -/
def Dev.memFree (d : Dev) (x n : Nat) : Dev :=
  let k := d.free
  let d := d.memPut x ((List.range n).map (fun i => Config.freeByte (k + i)))
  d.took n

end Sys2Proof.Machine
end

