-- ==== Sys2Proof/Machine/Post.lean ====
section
/-! DEFINITION. What the device sends: MSIs to the resident cores (R224, R230), edges of event sources (R376), Trouble Log
entries (R383), completion entries and interrupts of ring pairs (R345, R346), and the completion of a descriptor
(R349 to R351). -/

namespace Sys2Proof.Machine

/-- Record something emitted. -/
def Dev.emit (d : Dev) (o : Out) : Dev := { d with out := d.out ++ [o] }

/-! ### MSIs -/

/-- An MSI on behalf of the partition at die `a`: it sets the identity pending in the hart's file; one that names a hart of
another partition is dropped and counted (R224). -/
def Dev.sendMsi (d : Dev) (a hart file eiid : Nat) : Dev :=
  if hart < 96 ∧ d.partOfHart hart = a then
    d.modCpx (fun z => { z with imsic := listAdd z.imsic (hart, file, eiid) })
  else d.fbump F.hubCoreIsoDropped 0 1

/-- An MSI to the target a register of the layout of `XLAT.FQ_MSI` names, if its EN is set. -/
def Dev.sendMsiReg (d : Dev) (a : Nat) (r : RegName) (i : Nat) : Dev :=
  let v := (d.reg r i).toNat
  if bit v 19 then d.sendMsi a (bits v 6 0) (bits v 9 7) (bits v 18 10) else d

/-! ### Event sources -/

/-- An event source. -/
def Dev.evSrc (d : Dev) (n : Nat) : EvSrc := mapGet {} d.arb.srcs n

/-- Set an event source. -/
def Dev.setSrc (d : Dev) (n : Nat) (x : EvSrc) : Dev := d.modArb (fun z => { z with srcs := mapSet {} z.srcs n x })

/-- An edge of a source (R376). Sources 1,984 and up never fire. -/
def Dev.raise (bt : Nat) (d : Dev) (n : Nat) : Dev :=
  if n < 1984 then
    let x := d.evSrc n
    d.setSrc n { pending := true, count := min 255 (x.count + 1), first := if x.pending then x.first else bt }
  else d

/-- The Arbiter's own sources, in the order of R375's table (DEDUCED, log entry 8). -/
def srcPairStopped (k : Nat) : Nat := k
def srcPairWatchdog (k : Nat) : Nat := 4 + k
def srcEvcOrder : Nat := 8
def srcArbWheel : Nat := 9

/-! ### The Trouble Log -/

/-- PART of a log entry: the partition's number, 0xF for the whole device. -/
def Dev.logPart (d : Dev) (a : Option Nat) : Nat :=
  match a with
  | some a => partNum d.layout a
  | none => 0xF

/-- Queue a Trouble Log entry; one that finds 256 queued is lost and counted (R383). -/
def Dev.tlogE (d : Dev) (e : TEntry) : Dev :=
  if d.arb.tlQueue.length < 256 then d.modArb (fun z => { z with tlQueue := z.tlQueue ++ [e] })
  else d.fbump F.arbTlStatDropped 0 1

/-- Queue an entry whose CODE and SEV no chapter lists: event `k` of the model (log entry 7). -/
def Dev.tlog (bt : Nat) (d : Dev) (cls k : Nat) (a : Option Nat) (unit : Nat := 0) (addr : Nat := 0) (ctx : Nat := 0)
    (status : Nat := 0) : Dev :=
  d.tlogE { bt, cls, code := (Config.logCode k).toNat, sev := (Config.logSev k).val, part := d.logPart a, status, unit,
            ctx, addr }

/-- Queue an entry with all its fields. -/
def Dev.tlogX (bt : Nat) (d : Dev) (cls code sev : Nat) (a : Option Nat) (unit ctx addr status : Nat) (data : List Nat) :
    Dev :=
  d.tlogE { bt, cls, code, sev, part := d.logPart a, status, unit, ctx, addr, data }

/-! ### Ring pairs -/

/-- A ring pair; one that is not listed is as after reset. -/
def Dev.pair (d : Dev) (k : Nat) : Pair := mapGet {} d.ring.pairs k

/-- Set a ring pair. -/
def Dev.setPair (d : Dev) (k : Nat) (p : Pair) : Dev :=
  d.modRing (fun z => { z with pairs := mapSet {} z.pairs k p })

/-- Change a ring pair. -/
def Dev.modPair (d : Dev) (k : Nat) (f : Pair → Pair) : Dev := d.setPair k (f (d.pair k))

/-- Slots of a pair's submission ring. -/
def Dev.sqSize (d : Dev) (k : Nat) : Nat := 2 ^ d.fget F.hptCfgLog2Sq k
/-- Entries of a pair's completion ring. -/
def Dev.cqSize (d : Dev) (k : Nat) : Nat := 2 ^ d.fget F.hptCfgLog2Cq k

/-- The partition a pair works for: a device pair's window, a host pair's context. -/
def Dev.pairPart (d : Dev) (k : Nat) : Nat := if pairIsHost k then d.partOfCtx (d.pair k).ctx else pairWindow k

/-- The 32 bytes of a completion entry (R345). -/
def entryBytes (e : Entry) (phase : Bool) : List Byte :=
  leBytes 8 e.tag ++ leBytes 8 (e.status.code + e.degrade * 2 ^ 8 + b2n phase * 2 ^ 10 + e.bt % 2 ^ 53 * 2 ^ 11) ++
    leBytes 16 e.result

/-- The number of the pair that a reference names: references tell the descriptors of one attach from those of another. -/
def pairNo (ref : Nat) : Nat := ref % 8192
/-- The reference to a pair's present attach. -/
def Dev.pairRef (d : Dev) (k : Nat) : Nat := k + 8192 * (d.pair k).inc

/-- Write an entry into a pair's completion ring, in host memory or in device memory, then the interrupt (R345, R346,
R352). A 2.x pair reports degrade level 0 (R334). -/
def Dev.putEntry (d : Dev) (k : Nat) (e : Entry) : Dev :=
  let p := d.pair k
  let n := d.cqSize k
  let e := if p.verMaj = 2 then { e with degrade := 0 } else e
  let d := d.setPair k { p with
    cqTail := (p.cqTail + 1) % n
    cqPhase := if p.cqTail + 1 = n then !p.cqPhase else p.cqPhase
    cqHeld := p.cqHeld + 1 }
  let d := d.emit (.cqe k p.cqTail p.cqPhase e)
  if pairIsHost k then
    if d.fon F.hptCfgIntEn k then d.emit (.msix (pairPort k) (d.fget F.hptCfgVector k)) else d
  else
    let base := d.fget F.hptCqBaseAddr k * 2 ^ 12
    let d := d.memPut (base % 2 ^ 48 + 32 * p.cqTail) (entryBytes e p.cqPhase)
    if d.fon F.hptCfgIntEn k then d.sendMsiReg (pairWindow k) .hptMsi k else d

/-- A launch member whose post no longer waits goes on; its no-progress window starts again (R410). -/
def Dev.resumeMember (bt : Nat) (d : Dev) (lm : Option (Nat × Nat)) : Dev :=
  match lm with
  | some (l, m) =>
    d.modEng (fun z => { z with members := mapModify z.members (l * 32 + m) (fun x => { x with wait := .none, progress := bt }) })
  | none => d

/-- A pair becomes DETACHED: its attach ends, with its shadow entries and its share of the shadow area (R350, R351). -/
def Dev.detachPair (d : Dev) (k : Nat) : Dev :=
  d.modPair k (fun p => { p with
    st := .detached, admin := false, rereads := none, fetched := [], outst := 0, posts := [], shadow := [], area := 0,
    go := false, inc := p.inc + 1 })

/-- Entries of a completion ring that nothing holds or is promised to (R346). -/
def Dev.cqRoom (d : Dev) (k : Nat) : Bool := decide ((d.pair k).cqHeld + (d.pair k).outst < d.cqSize k)

/-- An attach takes effect: GEN 1, empty rings, and the shadow entries of a FROZEN pair written first (R332, R350). Entries
beyond the ring's size wait for room. -/
def Dev.attachNow (d : Dev) (k : Nat) : Dev :=
  let sh := (d.pair k).shadow
  let n := d.cqSize k
  let d := d.modPair k (fun p => { p with
    st := .attached, gen := 1, sqHead := 0, sqPhase := true, sqSeq := 0, sqTail := 0, rereads := none, fetched := []
    outst := 0, cqTail := 0, cqPhase := true, cqHeld := 0, shadow := [], go := false
    posts := (sh.drop n).map (fun e => { entry := e, launch := none }) })
  (sh.take n).foldl (fun d e => d.putEntry k e) d

/-- What the last completion of a pair lets happen: a DRAINING pair becomes DETACHED (R351), and an attach that waits for
a FROZEN pair's descriptors takes effect (R350). -/
def Dev.settle (d : Dev) (k : Nat) : Dev :=
  let p := d.pair k
  if p.outst = 0 then
    if p.st = .draining ∧ p.posts = [] then d.detachPair k
    else if p.st = .frozen ∧ p.go then d.attachNow k
    else d
  else d

/-- Complete a descriptor of a pair (R345). On a FROZEN pair the entry goes to the shadow ring with HOST_LOST or a higher
status (R349); `final` marks a status given at fetch, which nothing replaces (R55). A descriptor whose attach has ended
leaves no entry. -/
def Dev.completeOne (bt : Nat) (d : Dev) (ref : Nat) (tag : Nat) (st : Status) (degrade result : Nat) (final : Bool) : Dev :=
  let k := pairNo ref
  if ref = d.pairRef k then
    let d := d.modPair k (fun p => { p with outst := p.outst - 1 })
    let e : Entry := { tag, status := st, degrade, bt, result }
    match (d.pair k).st with
    | .detached => d
    | .frozen =>
      (d.modPair k (fun p =>
        { p with shadow := p.shadow ++ [{ e with status := if final then st else st.first .hostLost }] })).settle k
    | _ => (d.putEntry k e).settle k
  else d

/-- REVOKEs whose pairs are all DETACHED complete (R344). -/
def Dev.finishRevokes (bt : Nat) (d : Dev) : Dev :=
  let open_ := fun (r : Revoke) => r.pairs.any (fun k => (d.pair k).st ≠ .detached)
  let ready := d.ring.revokes.filter (fun r => !open_ r)
  let d := d.modRing (fun z => { z with revokes := z.revokes.filter open_ })
  ready.foldl (fun d r => d.completeOne bt r.pair r.tag .ok 0 0 false) d

/-- Complete a descriptor, with the REVOKEs that this finishes. -/
def Dev.complete (bt : Nat) (d : Dev) (ref : Nat) (tag : Nat) (st : Status) (degrade : Nat := 0) (result : Nat := 0)
    (final : Bool := false) : Dev :=
  (d.completeOne bt ref tag st degrade result final).finishRevokes bt

/-- A post (SIGNAL or notify entry) to a pair: written when there is room, discarded and counted on a FROZEN pair (R347),
else it waits (R346). -/
def Dev.post (d : Dev) (k : Nat) (e : Entry) (launch : Option (Nat × Nat)) : Dev :=
  match (d.pair k).st with
  | .detached => d
  | .frozen => d.fbump F.hptStatSigDropped k 1
  | _ =>
    if d.cqRoom k ∧ (d.pair k).posts = [] then d.putEntry k e
    else d.modPair k (fun p => { p with posts := p.posts ++ [{ entry := e, launch }] })

/-- Would a post to the pair wait? -/
def Dev.postWaits (d : Dev) (k : Nat) : Bool :=
  (d.pair k).st ≠ .detached && (d.pair k).st ≠ .frozen && !(d.cqRoom k && (d.pair k).posts.isEmpty)

/-- One MSI-X message on the event vector of every port that a test accepts. -/
def Dev.msixPorts (d : Dev) (f : Nat → Bool) : Dev :=
  ((List.range 4).filter f).foldl (fun d q => d.emit (.msix q (d.fget F.hptPortCfgEvtVector q))) d

end Sys2Proof.Machine
end

