-- ==== Sys2Proof/Machine/Wheel.lean ====
section
/-! DEFINITION. The event wheels (R67 to R71): arming, disarming and firing events, the coarse level, and the periodic
slots. An event fires when it is the first, in R69's order, of the events in fine buckets that have begun. -/

namespace Sys2Proof.Machine

/-- The fine level's horizon: 4,096 buckets of 1 µs. -/
def fineHorizon : Nat := 4096000
/-- The coarse level's horizon: 4,096 buckets of 4.096 ms. -/
def coarseHorizon : Nat := 4096 * 4096000

/-- The events of a wheel. -/
def Dev.wheel (d : Dev) (w : Nat) : List Event := mapGet [] d.time.wheels w

/-- Set the events of a wheel. -/
def Dev.setWheel (d : Dev) (w : Nat) (l : List Event) : Dev :=
  d.modTime (fun z => { z with wheels := mapSet [] z.wheels w l })

/-- The level for a due time (R67). -/
def wheelLevel (bt due : Nat) : WheelLvl :=
  if due < bt + fineHorizon then .fine else if due < bt + coarseHorizon then .coarse else .overflow

/-- The fine bucket of a due time, in µs; one already past goes into the next bucket (R68). -/
def wheelBucket (bt due : Nat) : Nat := if due ≤ bt then bt / 1000 + 1 else due / 1000

/-- Arm an event (R67, R68). -/
def Dev.arm (bt : Nat) (d : Dev) (w : Nat) (ev : Ev) (order due : Nat) : Dev :=
  let e : Event := { ev, order, due, bucket := wheelBucket bt due, lvl := wheelLevel bt due, seq := d.time.armSeq }
  let d := d.setWheel w (d.wheel w ++ [e])
  d.modTime (fun z => { z with armSeq := z.armSeq + 1 })

/-- Take an event off a wheel. -/
def Dev.disarm (d : Dev) (w : Nat) (ev : Ev) : Dev := d.setWheel w ((d.wheel w).filter (fun e => e.ev != ev))

/-- Does event `a` go before event `b` (R69)? -/
def Event.before (a b : Event) : Bool :=
  decide (a.bucket < b.bucket) ||
    (a.bucket == b.bucket && (decide (a.order < b.order) || (a.order == b.order && decide (a.seq < b.seq))))

/-- Does the event lie in a fine bucket that has begun? -/
def Event.begun (bt : Nat) (e : Event) : Bool := e.lvl = .fine && decide (e.bucket * 1000 ≤ bt)

/-- The first event, in R69's order, of the buckets that have begun. -/
def wheelHead (bt : Nat) (l : List Event) : Option Event :=
  (l.filter (Event.begun bt)).foldl
    (fun h e => match h with
      | none => some e
      | some x => if e.before x then some e else some x) none

/-- The next event of a wheel to be processed: the head, once its time has come (R68). A later kind of its bucket waits
for it (R69). -/
def wheelNext (bt : Nat) (l : List Event) : Option Event :=
  match wheelHead bt l with
  | some e => if e.due ≤ bt then some e else none
  | none => none

/-- Events a wheel processes in one microsecond (R68). -/
def wheelRate : Nat := 64

/-- Events the wheel has processed in the current microsecond. -/
def Dev.wheelCount (bt : Nat) (d : Dev) (w : Nat) : Nat :=
  let x := mapGet (0, 0) d.time.rate w
  if x.1 = bt / 1000 then x.2 else 0

/-- The register that counts a wheel's late events. -/
def ewLate (w : Nat) : Fld × Nat := if w < 8 then (F.seqeEwStatLate, w) else (F.arbEwStatLate, 0)
/-- The register that counts arms refused for lack of an entry. -/
def ewFull (w : Nat) : Fld × Nat := if w < 8 then (F.seqeEwStatFull, w) else (F.arbEwStatFull, 0)

/-- An event leaves its wheel, one of those the wheel processes in this microsecond. -/
def Dev.processed (bt : Nat) (d : Dev) (w : Nat) (ev : Ev) : Dev :=
  (d.disarm w ev).modTime (fun z => { z with rate := mapSet (0, 0) z.rate w (bt / 1000, d.wheelCount bt w + 1) })

/-- Process an event, if it is the next of its wheel and the wheel has processed fewer than 64 in this microsecond: it
leaves the wheel, and counts as late when it is processed more than 10 µs after the start of its bucket (R68). -/
def Dev.fire (bt : Nat) (d : Dev) (w : Nat) (ev : Ev) : Option Dev :=
  match wheelNext bt (d.wheel w) with
  | some e =>
    if e.ev = ev ∧ d.wheelCount bt w < wheelRate then
      let d := d.processed bt w ev
      some (if e.bucket * 1000 + 10000 < bt then d.fbump (ewLate w).1 (ewLate w).2 1 else d)
    else none
  | none => none

/-- Entries shared by watchdogs and promotion deadlines on a Sequence Engine's wheel (R70). -/
def wheelShared : Nat := 14272

/-- Shared entries in use. -/
def Dev.wheelUsed (d : Dev) (w : Nat) : Nat :=
  ((d.wheel w).filter (fun e => match e.ev with
    | .promo _ _ _ => true
    | .watchdog _ => true
    | _ => false)).length

/-- R67: events of coarse buckets that are current move to the fine level, and overflow events within the coarse horizon
to the coarse level. -/
def Event.relevel (bt : Nat) (e : Event) : Event :=
  match e.lvl with
  | .fine => e
  | .coarse => if e.due / 4096000 ≤ bt / 4096000 then { e with lvl := .fine, bucket := wheelBucket bt e.due } else e
  | .overflow => if e.due < bt + coarseHorizon then { e with lvl := .coarse } else e

/-- COARSE_BUCKET_CURRENT. -/
def Dev.coarseStep (bt : Nat) (d : Dev) (w : Nat) : Dev := d.setWheel w ((d.wheel w).map (Event.relevel bt))

/-- A step of Board Time moves every armed event forward by the same amount (R65). -/
def Event.shift (n : Nat) (e : Event) : Event := { e with due := e.due + n, bucket := max ((e.due + n) / 1000) (e.bucket + n / 1000) }

/-! ### Periodic slots (R71) -/

/-- The registers of a slot: wheels 0 to 7 are SEQE, 8 is ARB. -/
def ewSlotReg (w : Nat) : RegName := if w < 8 then .seqeEwSlot else .arbEwSlot
def ewNextReg (w : Nat) : RegName := if w < 8 then .seqeEwNext else .arbEwNext
def ewInst (w n : Nat) : Nat := if w < 8 then 64 * w + n else n

/-- EW_NEXT of the armed slots of a wheel moves with their events: it shows the Board Time of the slot's next firing. -/
def Dev.shiftNext (n : Nat) (d : Dev) (w : Nat) : Dev :=
  (d.wheel w).foldl (fun d e => match e.ev with
    | .slot k =>
      d.setReg (ewNextReg w) (ewInst w k) (BitVec.ofNat 64 ((d.reg (ewNextReg w) (ewInst w k)).toNat + n))
    | _ => d) d

/-- All wheels moved forward, with the registers of their armed slots (R65). -/
def Dev.shiftWheels (d : Dev) (n : Nat) : Dev :=
  (List.range 9).foldl (Dev.shiftNext n) (d.modTime (fun z =>
    { z with wheels := mapAll z.wheels (fun _ l => l.map (Event.shift n)) }))

/-- OWNER and PERIOD_US of a slot. -/
def Dev.slotOwner (d : Dev) (w n : Nat) : Nat := bits (d.reg (ewSlotReg w) (ewInst w n)).toNat 3 0
def Dev.slotPeriod (d : Dev) (w n : Nat) : Nat := bits (d.reg (ewSlotReg w) (ewInst w n)).toNat 39 8

/-- The place in R69's order of a slot's event, by its owner; firmware timers come last (DESIGN CHOICE, log entry 9). -/
def slotOrder (owner : Nat) : Nat :=
  match owner with
  | 5 => 4
  | 3 => 5
  | 4 => 5
  | 1 => 6
  | 2 => 6
  | _ => 7

/-- A write of EW_SLOTn. -/
def Dev.ewSlotWrite (d : Dev) (p : Party) (w n : Nat) (v : Word) : Dev :=
  let old := d.slotOwner w n
  let new := bits v.toNat 3 0
  let per := bits v.toNat 39 8
  d.regWrite p (ewSlotReg w) (ewInst w n) v
    (verdict (new == 0 && per != 0) (old != 0 && new != 0 && new != old))
    (fun d => if new = 0 ∧ old ≠ 0 then (d.disarm w (.slot n)).setReg (ewNextReg w) (ewInst w n) 0#64 else d)

/-- A write of EW_NEXTn: refused while OWNER is 0; it arms the slot's event. -/
def Dev.ewNextWrite (bt : Nat) (d : Dev) (p : Party) (w n : Nat) (v : Word) : Dev :=
  let own := d.slotOwner w n
  d.regWrite p (ewNextReg w) (ewInst w n) v (verdict (own == 0) false)
    (fun d => (d.disarm w (.slot n)).arm bt w (.slot n) (slotOrder own) v.toNat)

/-- Fire slot n of a wheel for an owner: EW_NEXTn is advanced by PERIOD_US and the event armed again, unless it is
one-shot (R71). -/
def Dev.fireSlot (bt : Nat) (d : Dev) (w n owner : Nat) : Option Dev :=
  if d.slotOwner w n = owner then
    match d.fire bt w (.slot n) with
    | some d =>
      let per := d.slotPeriod w n
      if per = 0 then some d
      else
        let next := (d.reg (ewNextReg w) (ewInst w n)).toNat + per * 1000
        some ((d.setReg (ewNextReg w) (ewInst w n) (BitVec.ofNat 64 next)).arm bt w (.slot n) (slotOrder owner) next)
    | none => none
  else none

/-- The slot of a wheel with an owner whose event is the next to be processed. -/
def Dev.slotDue (bt : Nat) (d : Dev) (w owner : Nat) : Option Nat :=
  match wheelNext bt (d.wheel w) with
  | some e => match e.ev with
    | .slot n => if d.slotOwner w n = owner then some n else none
    | _ => none
  | none => none

/-- The event source of a wheel: the Arbiter's, or its Sequence Engine's. -/
def wheelSource (w : Nat) : Nat := if w < 8 then 320 + 128 * w + (Config.seqeWheelSource w).val else srcArbWheel

/-- FIRMWARE_TIMER: a slot owned as a firmware timer fires (R71) and its wheel's source tells firmware (R375). -/
def Dev.firmwareTimer (bt : Nat) (d : Dev) (w n : Nat) : Dev :=
  match d.fireSlot bt w n 6 with
  | some d => d.raise bt (wheelSource w)
  | none => d

def execCoarseBucketCurrent (wheel : Nat) : State → Host.Outcome State Fault Refusal :=
  onDev (fun bt d => d.coarseStep bt wheel)

def execEwSlotWrite (p : Party) (wheel n : Nat) (v : Word) : State → Host.Outcome State Fault Refusal :=
  onDev (fun _ d => d.ewSlotWrite p wheel n v)

def execEwNextWrite (p : Party) (wheel n : Nat) (v : Word) : State → Host.Outcome State Fault Refusal :=
  onDev (fun bt d => d.ewNextWrite bt p wheel n v)

def execFirmwareTimer (wheel n : Nat) : State → Host.Outcome State Fault Refusal :=
  onDev (fun bt d => d.firmwareTimer bt wheel n)

end Sys2Proof.Machine
end

