-- ==== Sys2Proof/Machine/Arbiter.lean ====
section
/-! DEFINITION. The Arbiter (chapter 16): lockstep pairs and their watchdogs (R371, R372), the event controller (R376 to
R382), and the Trouble Log (R383, R385). -/

namespace Sys2Proof.Machine

/-- States of a pair (`ARB.PAIRk_STATUS.STATE`). -/
def pairRunning : Nat := 0
def pairStopped : Nat := 1
def pairUpdating : Nat := 3

/-- A pair's volatile state. -/
def Dev.arbPair (d : Dev) (k : Nat) : ArbPair := mapGet {} d.arb.pairs k

/-- Set it. -/
def Dev.setArbPair (d : Dev) (k : Nat) (x : ArbPair) : Dev :=
  d.modArb (fun z => { z with pairs := mapSet {} z.pairs k x })

/-- Is the pair running? -/
def Dev.pairRuns (d : Dev) (k : Nat) : Bool := d.fget F.arbPairStatusState k == pairRunning

/-- The lowest-numbered running pair that a test accepts. -/
def Dev.lowestPair (d : Dev) (f : Nat → Bool) : Option Nat := ((List.range 4).filter (fun k => d.pairRuns k && f k)).head?

/-- R382: every source aimed at pair `k` is aimed at pair `j`. -/
def Dev.redirect (d : Dev) (k j : Nat) : Dev :=
  ((List.range 2048).filter (fun n => d.fget F.evcSrcCfgPair n == k)).foldl (fun d n => d.fset F.evcSrcCfgPair n j) d

/-- R382: the handlers a stopped pair had active are abandoned; their sources are pending again with their first-edge
time kept. -/
def Dev.abandonHandlers (d : Dev) (k : Nat) : Dev :=
  let hs := (d.arbPair k).handlers
  let d := hs.foldl (fun d h =>
    let x := d.evSrc h.src
    d.setSrc h.src { x with pending := true, first := h.bt }) d
  d.setArbPair k { d.arbPair k with handlers := [] }

/-- `SEC.FW_REMAP` with every pair on the active bank: a pair's bit selects the bank of its view (R402, R403; DEDUCED, log entry 149). -/
def Dev.remapActive (d : Dev) : Nat := if d.fon F.secFwStateActive 0 then 15 else 0

/-- R403: a stop during a replacement of the firmware aborts it: each switched pair restarts on the old image, its handlers abandoned
(R382), the staged image is given up, and the abort is logged. -/
def Dev.abortUpdate (bt : Nat) (d : Dev) : Dev :=
  if d.fon F.secFwStateUpdating 0 then
    let switched := (List.range 4).filter (fun k => bit (d.fget F.secFwRemapPair 0) k != d.fon F.secFwStateActive 0)
    let d := switched.foldl (fun d k =>
      if d.fget F.arbPairStatusState k = pairStopped then d else (d.abandonHandlers k).setArbPair k { lastKick := bt }) d
    let d := (d.fset F.secFwRemapPair 0 d.remapActive).fset F.secFwStateUpdating 0 0
    (d.modSec (fun z => { z with staged := false })).tlog bt 16 74 none
  else d

/-- R371: a pair stops. Its sources are redirected, the stop is logged and delivered to the lowest-numbered running pair;
with no pair left running a chip warm reset is to be performed. -/
def Dev.stopPair (bt : Nat) (d : Dev) (k : Nat) : Dev :=
  let d := d.fset F.arbPairStatusState k pairStopped
  let d := d.abandonHandlers k
  let d := d.tlog bt 11 0 none k
  let d := d.abortUpdate bt
  match d.lowestPair (fun _ => true) with
  | some j => ((d.redirect k j).fset F.evcSrcCfgPair (srcPairStopped k) j).raise bt (srcPairStopped k)
  | none => d.modRes (fun z => { z with warmPending := true })

/-- LOCKSTEP_MISMATCH: the cores of a pair that is not stopped disagree. -/
def Dev.lockstepMismatch (bt : Nat) (d : Dev) (k : Nat) : Dev :=
  if k < 4 ∧ d.fget F.arbPairStatusState k ≠ pairStopped then
    (d.fbump F.arbPairStatusMismatches k 1).stopPair bt k
  else d

/-- PAIR_WATCHDOG: a pair has not kicked within PERIOD_MS (R372). -/
def Dev.pairWatchdog (bt : Nat) (d : Dev) (k : Nat) : Dev :=
  if k < 4 ∧ d.fget F.arbPairStatusState k ≠ pairStopped ∧
      (d.arbPair k).lastKick + d.fget F.arbWdogPeriodMs 0 * 1000000 ≤ bt then
    ((d.fbump F.arbPairStatusWdogMisses k 1).raise bt (srcPairWatchdog k)).stopPair bt k
  else d

/-- A write of `ARB.PAIRk_CTRL`: only the pair itself may write KICK; RESTART is refused unless the pair is STOPPED
(R386). A restarted pair runs the image in Arbiter SRAM again (R371). -/
def Dev.pairCtrlWrite (bt : Nat) (d : Dev) (p : Party) (k : Nat) (v : Word) : Dev :=
  let kick := bit v.toNat 0
  let restart := bit v.toNat 1
  d.regWrite p .arbPairCtrl k v
    (verdict ((kick && p != .firmware k) || (restart && d.fget F.arbPairStatusState k != pairStopped)) false)
    (fun d =>
      let d := if restart then d.fset F.arbPairStatusState k pairRunning else d
      if kick || restart then d.setArbPair k { d.arbPair k with lastKick := bt } else d)

/-- A write of `EVC.SRCn_CFG`: a STOPPED pair as target is refused with CONFLICT. -/
def Dev.evcCfgWrite (d : Dev) (p : Party) (n : Nat) (v : Word) : Dev :=
  d.regWrite p .evcSrcCfg n v (verdict false (d.fget F.arbPairStatusState (bits v.toNat 3 2) == pairStopped)) id

/-- Does hardware drive a source: those of Arbiter, Hub and dies, and of the sideband inputs PWR_ALERT_N, PPS_IN and TRAY_GPI0 to 7
(R490)? Sources 1,472 to 1,983 are fired only by `EVC.SET` (R375's table of sources); the others never fire. -/
def sourceWired (n : Nat) : Bool := decide (n ≤ 1345) || (decide (1347 ≤ n) && decide (n ≤ 1354))

/-- SOURCE_EDGE: an edge of a source that the hardware drives. -/
def Dev.sourceEdge (bt : Nat) (d : Dev) (n : Nat) : Dev := if sourceWired n then d.raise bt n else d

/-- A write of `EVC.SET`: an edge of the source; a reserved source is refused (R377). -/
def Dev.evcSetWrite (bt : Nat) (d : Dev) (p : Party) (v : Word) : Dev :=
  d.regWrite p .evcSet 0 v (verdict (decide (1984 ≤ bits v.toNat 10 0)) false)
    (fun d => d.raise bt (bits v.toNat 10 0))

/-- The group of R381 a pending source of the pair falls in. -/
def Dev.evcGroup (bt : Nat) (d : Dev) (n : Nat) : Nat :=
  let wait := bt - (d.evSrc n).first
  if d.fon F.evcSrcCfgClass n then (if d.fget F.evcAgeFreshUs 0 * 1000 ≤ wait then 1 else 3)
  else (if d.fget F.evcAgeAgeUs 0 * 1000 ≤ wait then 2 else 4)

/-- May the pair take a source of a group now (R379, R381)? -/
def ArbPair.takes (x : ArbPair) (group : Nat) : Bool :=
  match x.handlers with
  | [] => true
  | h :: _ => !h.fast && (group == 1 || group == 3)

/-- Is source `n` before source `m` for delivery: group, first-edge time, number (R381)? -/
def Dev.evcBefore (bt : Nat) (d : Dev) (n m : Nat) : Bool :=
  let gn := d.evcGroup bt n
  let gm := d.evcGroup bt m
  let tn := (d.evSrc n).first
  let tm := (d.evSrc m).first
  decide (gn < gm) || (gn == gm && (decide (tn < tm) || (tn == tm && decide (n < m))))

/-- The source a pair takes next (R381). -/
def Dev.evcNext (bt : Nat) (d : Dev) (k : Nat) : Option Nat :=
  ((List.range 1984).filter (fun n => (d.evSrc n).pending && d.fon F.evcSrcCfgEn n && d.fget F.evcSrcCfgPair n == k &&
      (d.arbPair k).takes (d.evcGroup bt n))).foldl
    (fun h n => match h with
      | none => some n
      | some m => if d.evcBefore bt n m then some n else some m) none

/-- EVENT_DELIVERY (R378, R379): the pending bit and the counter are read and cleared, and the pair's CSRs name them. -/
def Dev.eventDelivery (bt : Nat) (d : Dev) (k : Nat) : Dev :=
  if d.pairRuns k then
    match d.evcNext bt k with
    | none => d
    | some n =>
      let x := d.evSrc n
      let fast := d.fon F.evcSrcCfgClass n
      let g := d.evcGroup bt n
      let d := d.setSrc n {}
      let p := d.arbPair k
      let d := d.setArbPair k { p with
        handlers := { src := n, fast, bt := x.first } :: p.handlers
        evcsrc := BitVec.ofNat 64 (n + b2n fast * 2 ^ 12 + x.count * 2 ^ 16)
        evcbt := BitVec.ofNat 64 x.first }
      let d := d.fbump F.evcStatDelivered 0 1
      if g = 2 then d.fbump F.evcStatAged 0 1 else d
  else d

/-- A completion that names another source than the newest handler's: counted, logged, and EVC_ORDER fires in class NORMAL
at another pair (R380). -/
def Dev.evcOrder (bt : Nat) (d : Dev) (k : Nat) : Dev :=
  let d := (d.fbump F.evcStatOrderErr 0 1).tlog bt 11 1 none k
  let j := match d.lowestPair (fun j => j != k) with
    | some j => j
    | none => k
  ((d.fset F.evcSrcCfgClass srcEvcOrder 0).fset F.evcSrcCfgPair srcEvcOrder j).raise bt srcEvcOrder

/-- EVC_COMPLETE: a write of `evccomplete` by pair `k` (R380). -/
def Dev.evcComplete (bt : Nat) (d : Dev) (k src : Nat) : Dev :=
  let p := d.arbPair k
  if !d.pairRuns k || decide (4 ≤ k) then d
  else match p.handlers with
  | h :: hs => if h.src = src then d.setArbPair k { p with handlers := hs } else d.evcOrder bt k
  | [] => d.evcOrder bt k

/-- Is a handler of the source active (`EVC.SRCn_STATE.ACTIVE`)? -/
def Dev.srcActive (d : Dev) (n : Nat) : Bool :=
  (List.range 4).any (fun k => (d.arbPair k).handlers.any (fun h => h.src == n))

/-! ### The Trouble Log -/

/-- May target `t` be notified now: at most once per 1 ms (R385)? -/
def Dev.mayNotify (bt : Nat) (d : Dev) (t : Nat) : Bool :=
  match mapFind? d.arb.notified t with
  | some b => decide (b + 1000000 ≤ bt)
  | none => true

/-- Note the time of a notification. -/
def Dev.noted (bt : Nat) (d : Dev) (t : Nat) : Dev :=
  d.modArb (fun z => { z with notified := mapPut z.notified t bt })

/-- R385: notify the ports an entry concerns, and the partition's LOG_NOTIFY target. A notification within 1 ms of the last
to its target is not sent (DESIGN CHOICE, log entry 11). -/
def Dev.notify (bt : Nat) (d : Dev) (part : Nat) : Dev :=
  let d := (List.range 4).foldl
    (fun d q =>
      if (part = 0xF ∨ bit (d.fget F.hptPortBindPartitions q) part) ∧ d.mayNotify bt q then
        (d.emit (.msix q (d.fget F.hptPortCfgEvtVector q))).noted bt q
      else d) d
  match partAt d.layout part with
  | some a => match mapFind? d.cpx.logNotify a with
    | some (h, id) => if d.mayNotify bt (4 + a) then (d.sendMsi a h 0 id).noted bt (4 + a) else d
    | none => d
  | none => d

/-- TROUBLE_LOG_WRITE: the log unit writes the oldest queued entry (R383). -/
def Dev.troubleLogWrite (bt : Nat) (d : Dev) : Dev :=
  match d.arb.tlQueue with
  | [] => d
  | e :: q =>
    let seq := d.fget F.arbTlTailSeq 0
    let i := seq % 65536
    let d := if mapHas d.arb.tlRing i then d.fbump F.arbTlStatOverwritten 0 1 else d
    let d := d.modArb (fun z => { z with tlQueue := q, tlRing := mapPut z.tlRing i { e with seq } })
    let d := d.fset F.arbTlTailSeq 0 (seq + 1)
    if 3 ≤ e.sev then d.notify bt e.part else d

/-- What a reader of the log sees of an entry (R384): all of it, or SEQ, BT, CLASS, SEV and PART only. -/
def TEntry.filtered (e : TEntry) : TEntry := { seq := e.seq, bt := e.bt, cls := e.cls, sev := e.sev, part := e.part }

/-- The log entry at an index as a party sees it (R384). -/
def Dev.logRead (d : Dev) (p : Party) (i : Nat) : TEntry :=
  let e := (mapFind? d.arb.tlRing i).getD {}
  match p with
  | .firmware _ => e
  | .monitor _ => e
  | .core h => if e.part = 0xF ∨ e.part = partNum d.layout (d.partOfHart h) then e else e.filtered
  | .host q => if e.part = 0xF ∨ bit (d.fget F.hptPortBindPartitions q) e.part then e else e.filtered

/-- SRAM_UNCORRECTABLE (R373): the pair that reads the error stops; an error in a log entry makes it read as zeros. -/
def Dev.sramUncorrectable (bt : Nat) (d : Dev) (k : Nat) (entry : Option Nat) : Dev :=
  match entry with
  | some i =>
    if mapHas d.arb.tlRing i then (d.modArb (fun z => { z with tlRing := mapPut z.tlRing i {} })) else d
  | none => if k < 4 ∧ d.fget F.arbPairStatusState k ≠ pairStopped then d.stopPair bt k else d

def execLockstepMismatch (k : Nat) : State → Host.Outcome State Fault Refusal :=
  onDev (fun bt d => d.lockstepMismatch bt k)
def execPairWatchdog (k : Nat) : State → Host.Outcome State Fault Refusal := onDev (fun bt d => d.pairWatchdog bt k)
def execKick (p : Party) (k : Nat) (v : Word) : State → Host.Outcome State Fault Refusal :=
  onDev (fun bt d => d.pairCtrlWrite bt p k v)
def execRestart (p : Party) (k : Nat) (v : Word) : State → Host.Outcome State Fault Refusal :=
  onDev (fun bt d => d.pairCtrlWrite bt p k v)
def execSourceEdge (n : Nat) : State → Host.Outcome State Fault Refusal := onDev (fun bt d => d.sourceEdge bt n)
def execEvcSet (p : Party) (v : Word) : State → Host.Outcome State Fault Refusal :=
  onDev (fun bt d => d.evcSetWrite bt p v)
def execEventDelivery (k : Nat) : State → Host.Outcome State Fault Refusal := onDev (fun bt d => d.eventDelivery bt k)
def execEvcComplete (k src : Nat) : State → Host.Outcome State Fault Refusal := onDev (fun bt d => d.evcComplete bt k src)
def execTroubleLogWrite : State → Host.Outcome State Fault Refusal := onDev (fun bt d => d.troubleLogWrite bt)
def execSramUncorrectable (k : Nat) (entry : Option Nat) : State → Host.Outcome State Fault Refusal :=
  onDev (fun bt d => d.sramUncorrectable bt k entry)

end Sys2Proof.Machine
end

