-- ==== Sys2Proof/Machine/CeBase.lean ====
section
/-! DEFINITION. Compute engines and launches as units: who is active, what a CE holds, placement (R84 to R90). -/

namespace Sys2Proof.Machine

/-- A physical CE as the nominal Part Record leaves it: CEs 20 and 25 of each die are spares, the rest take the die's
logical numbers in ascending order (R84; log entry 12). -/
def ceInit (k : Nat) : Ce :=
  let p := k % 26
  if p = 20 ∨ p = 25 then { st := .spareFree, logical := none }
  else { st := .active, logical := some (24 * (k / 26) + (if p < 20 then p else p - 1)) }

/-- A physical CE. -/
def Dev.ce (d : Dev) (k : Nat) : Ce := mapGet (ceInit k) d.eng.ces k

/-- Set a CE. -/
def Dev.setCe (d : Dev) (k : Nat) (c : Ce) : Dev := d.modEng (fun z => { z with ces := mapSet (ceInit k) z.ces k c })

/-- Change a CE. -/
def Dev.modCe (d : Dev) (k : Nat) (f : Ce → Ce) : Dev := d.setCe k (f (d.ce k))

/-- The physical CEs of a partition. -/
def Dev.partCes (d : Dev) (a : Nat) : List Nat := (List.range (26 * d.dies a)).map (fun i => 26 * a + i)

/-- The engine group of a CE on its die, and its power domain (R450). -/
def ceGroup (k : Nat) : Nat := if k % 26 < 20 then k % 26 / 4 else if k % 26 = 20 then 4 else 5
def ceDomain (k : Nat) : Nat := 12 * (k / 26) + ceGroup k

/-- Is a power domain on? -/
def Dev.domOn (d : Dev) (n : Nat) : Bool := !d.pow.off.contains n

/-- The active CEs of a partition (R86). -/
def Dev.activeCes (d : Dev) (a : Nat) : List Nat :=
  (d.partCes a).filter (fun k => (d.ce k).st = .active && d.domOn (ceDomain k))

/-- The physical CE that serves a logical number. -/
def Dev.ceOfLogical (d : Dev) (n : Nat) : Option Nat :=
  ((List.range 26).map (fun i => 26 * (n / 24) + i)).find? (fun k => (d.ce k).logical == some n)

/-- A launch. -/
def Dev.launch? (d : Dev) (l : Nat) : Option Launch := mapFind? d.eng.launches l

/-- Change a launch. -/
def Dev.modLaunch (d : Dev) (l : Nat) (f : Launch → Launch) : Dev :=
  d.modEng (fun z => { z with launches := mapModify z.launches l f })

/-- Note what a sampled or replayed launch writes to global memory (R438, R51). -/
def Dev.noteOut (d : Dev) (l x n : Nat) : Dev :=
  match d.launch? l with
  | some y => if y.shadow.isSome || y.settle.isSome || y.replay then d.modLaunch l (fun y => { y with outs := y.outs ++ [(x, n)] }) else d
  | none => d

/-- Note what a replayed launch reads of global memory (R51). -/
def Dev.noteIn (d : Dev) (l x n : Nat) : Dev :=
  match d.launch? l with
  | some y => if y.replay then d.modLaunch l (fun y => { y with ins := y.ins ++ [(x, n)] }) else d
  | none => d

/-- Note an access that both reads and writes its target (R49). -/
def Dev.noteBoth (d : Dev) (l x n : Nat) : Dev := (d.noteIn l x n).noteOut l x n

/-- The key of a member. -/
def memberKey (l m : Nat) : Nat := l * 32 + m

/-- A member. -/
def Dev.member? (d : Dev) (l m : Nat) : Option Member := mapFind? d.eng.members (memberKey l m)

/-- Change a member. -/
def Dev.modMember (d : Dev) (l m : Nat) (f : Member → Member) : Dev :=
  d.modEng (fun z => { z with members := mapModify z.members (memberKey l m) f })

/-- The key of a cohort. -/
def cohortKey (l m c : Nat) : Nat := memberKey l m * 512 + c

/-- The members of a launch, as (member, state). -/
def Dev.membersOf (d : Dev) (l : Nat) : List (Nat × Member) :=
  (d.eng.members.filter (fun p => p.1 / 32 == l)).map (fun p => (p.1 % 32, p.2))

/-- The launches resident on a CE, by control thread. -/
def Dev.resident (d : Dev) (k : Nat) : List (Nat × Nat) := (d.ce k).threads.filterMap id

/-- A sum over the launches resident on a CE. -/
def Dev.ceSum (d : Dev) (k : Nat) (f : Launch → Nat) : Nat :=
  ((d.resident k).map (fun lm => match d.launch? lm.1 with
    | some l => f l
    | none => 0)).sum

/-- Resident cohorts. -/
def Dev.ceCohorts (d : Dev) (k : Nat) : Nat := d.ceSum k (fun l => l.cohorts)
/-- Register-file bytes of a launch on one CE (R42). -/
def Launch.regBytes (l : Launch) : Nat := l.cohorts * 32 * l.regs * 4
/-- Register-file KiB in use, each launch in whole units of 1 KiB. -/
def Dev.ceRegKib (d : Dev) (k : Nat) : Nat := d.ceSum k (fun l => (l.regBytes + 1023) / 1024)
/-- Local Store units of 4 KiB in use. -/
def Dev.ceLs (d : Dev) (k : Nat) : Nat := d.ceSum k (fun l => l.lsUnits)

/-- The extents that the launches on a CE hold of a memory, as (base, size), by the lowest base first. -/
def Dev.extents (d : Dev) (k : Nat) (base : Member → Nat) (size : Launch → Nat) : List (Nat × Nat) :=
  sortBy (fun p q => decide (p.1 ≤ q.1)) ((d.resident k).filterMap (fun lm => match d.launch? lm.1, d.member? lm.1 lm.2 with
    | some l, some m => some (base m, size l)
    | _, _ => none))

/-- The lowest base at which `n` units fit between extents in a memory of `cap` units (DESIGN CHOICE, log entry 13). -/
def fitAt (cap n : Nat) : Nat → List (Nat × Nat) → Option Nat
  | at_, [] => if at_ + n ≤ cap then some at_ else none
  | at_, (b, s) :: es => if at_ + n ≤ b then some at_ else fitAt cap n (max at_ (b + s)) es

/-- The place for a Local Store allocation on a CE, in 4 KiB units (R89). -/
def Dev.lsFit (d : Dev) (k n : Nat) : Option Nat := fitAt 768 n 0 (d.extents k (fun m => m.lsBase) (fun l => l.lsUnits))
/-- The 1 KiB units of the register file that the launches on a CE hold. -/
def Dev.vrfUsed (d : Dev) (k : Nat) : List Nat :=
  (d.resident k).flatMap (fun lm => match d.member? lm.1 lm.2 with
    | some m => m.vrf
    | none => [])
/-- The units of a register allocation: the lowest free ones (DESIGN CHOICE, log entry 13). -/
def Dev.vrfFree (d : Dev) (k n : Nat) : List Nat :=
  let used := d.vrfUsed k
  ((List.range 1024).filter (fun u => !used.contains u)).take n

/-- The issue slot of each cohort of a launch placed on a CE: the slot of 32 with the fewest resident cohorts, the lowest on ties (R92). -/
def Dev.issueSlots (d : Dev) (k n : Nat) : List Nat :=
  let held := (d.resident k).flatMap (fun lm => match d.member? lm.1 lm.2 with
    | some m => m.slots
    | none => [])
  (List.range n).foldl (fun l _ =>
    let load := fun (s : Nat) => (held ++ l).count s
    l ++ [(List.range 32).foldl (fun b s => if load s < load b then s else b) 0]) []

/-- A free control thread, within SLOTS_MAX (R88). -/
def Dev.freeThread (d : Dev) (k : Nat) : Option Nat :=
  if (d.resident k).length < d.fget F.ceCtrlSlotsMax k then
    (List.range 4).find? (fun t => (d.ce k).threads.getD t none == none)
  else none

/-- Does a member of the launch fit on a CE (R88)? -/
def Dev.ceFits (d : Dev) (k : Nat) (l : Launch) : Bool :=
  (d.freeThread k).isSome && decide (d.ceCohorts k + l.cohorts ≤ 512) &&
    decide (d.ceRegKib k + (l.regBytes + 1023) / 1024 ≤ 1024) && decide (d.ceLs k + l.lsUnits ≤ 768) &&
    (d.lsFit k l.lsUnits).isSome

/-- Does CE `k` go before CE `j` in placement: fewest resident cohorts, then the lowest logical number (R88)? -/
def Dev.ceBefore (d : Dev) (k j : Nat) : Bool :=
  decide (d.ceCohorts k < d.ceCohorts j) ||
    (d.ceCohorts k == d.ceCohorts j && decide (((d.ce k).logical).getD 999 < ((d.ce j).logical).getD 999))

/-- The CEs a launch group would take now, one per member (R44, R88), or none when too few fit. -/
def Dev.choose (d : Dev) (l : Launch) (cands : List Nat) : Option (List Nat) :=
  let fit := sortBy (fun k j => d.ceBefore k j || !d.ceBefore j k) (cands.filter (fun k => d.ceFits k l))
  if l.group ≤ fit.length then some (fit.take l.group) else none

/-- Does any launch of the context run on the CE? -/
def Dev.ctxOnCe (d : Dev) (k c : Nat) : Bool :=
  (d.resident k).any (fun lm => match d.launch? lm.1 with
    | some l => l.ctx == c
    | none => false)

/-- The units of an allocation record this context from now on (R90). Keys of the unit map are unit numbers; the value is context + 1. -/
def recordUnits (used : Map Nat) (us : List Nat) (ctx : Nat) : Map Nat := us.foldl (fun m u => mapSet 0 m u (ctx + 1)) used

/-- Units of an allocation that record another context, and so must be zero-filled. A context admitted anew under an ID that a freed
context had counts as the same one (DESIGN CHOICE, log entry 129). -/
def staleUnits (used : Map Nat) (us : List Nat) (ctx : Nat) : List Nat := us.filter (fun u => mapGet 0 used u != ctx + 1)

/-- The tensor instructions with operands or targets at the addresses have completed (R152): read-outs have their bytes in place. -/
def Ce.tensorDone (c : Ce) (complete : Bool) (at_ : Nat → Bool) : Ce :=
  let c := { c with tread := c.tread.filter (fun r => !at_ r.1) }
  if complete then { c with
    ls := (c.tpend.filter (fun p => at_ p.1)).foldl (fun m p => memWrite m p.1 p.2) c.ls
    tpend := c.tpend.filter (fun p => !at_ p.1) }
  else c

/-- The zero fill and the records of a placement (R90): Local Store units are 4 KiB, register-file units 256 lane values. -/
def Ce.place (c : Ce) (ls vrf : List Nat) (ctx : Nat) : Ce :=
  let stale := staleUnits c.vrfCtx vrf ctx
  let c := c.tensorDone true (fun a => ls.contains (a / 4096))
  { c with
    ls := (staleUnits c.lsCtx ls ctx).foldl (fun m u => memZero m (u * 4096) 4096) c.ls
    lsCtx := recordUnits c.lsCtx ls ctx
    vrf := c.vrf.filter (fun p => !(stale.contains (p.1 / 256)))
    vrfCtx := recordUnits c.vrfCtx vrf ctx }

end Sys2Proof.Machine
end

