-- ==== Sys2Proof/Machine/Castle.lean ====
section
/-! DEFINITION. Castling of compute engines and the use of spares (R25 to R27, R85, R422, R426, R432): which spare a claim
takes, what a released spare does, and the start of a screening. -/

namespace Sys2Proof.Machine

/-- A resilience entry of the Trouble Log (R430, R448): CLASS 13, UNIT the logical CE or 0xFFFF. -/
def Dev.resLog (bt : Nat) (d : Dev) (code sev : Nat) (a : Option Nat) (unit : Nat) (data : List Nat) (ctx : Nat := 0) : Dev :=
  d.tlogX bt 13 code sev a unit ctx 0 0 data

/-- UNIT of a CE's entry: its logical number, or 0xFFFF. -/
def Dev.ceUnit (d : Dev) (k : Nat) : Nat := ((d.ce k).logical).getD 0xFFFF

/-- DATA1 of a resilience entry. -/
def resData1 (member ctx suspects : Nat) : Nat := member + ctx * 2 ^ 16 + suspects * 2 ^ 32

/-- Is the device in the Safe configuration (R391)? -/
def Dev.safe (d : Dev) : Bool := d.fon F.secBootStatusSafe 0

/-- The spare a claim takes: the lowest-numbered SPARE_FREE CE of the die (R85) whose engine group is powered (R451); none in the
Safe configuration (R391). -/
def Dev.spareOf (d : Dev) (die : Nat) : Option Nat :=
  ((List.range 26).map (fun i => 26 * die + i)).find? (fun k => (d.ce k).st = .spareFree && d.domOn (ceDomain k) && !d.safe)

/-- The physical CEs of a die. -/
def dieCes (die : Nat) : List Nat := (List.range 26).map (fun i => 26 * die + i)

/-- The rank at which a spare of a die is in use below rank 1 (R26): it is held, or it serves for a CE castled out for screening that
still finishes its launches. -/
def Dev.heldRank (d : Dev) (k : Nat) : Option Nat :=
  if d.res.draining.contains k then some 2 else if (d.ce k).st = .spareHeld then some (d.ce k).rank else none

/-- What a claim on a spare of a die meets: a spare to take; one whose group must be powered up first (R451); a user of lower rank, for
which it waits; users of equal or higher rank only, so that it is refused (R26); or no spare at all (R27, R391). -/
inductive SpareClaim where
  | take (k : Nat)
  | wakes (k : Nat)
  | waits (k : Nat)
  | refused
  | none
  deriving DecidableEq, Repr

/-- A claim of a rank on a spare of a die, for the sake of CE `but`, which is none of its spares. -/
def Dev.claimSpare (d : Dev) (die rank but : Nat) : SpareClaim :=
  let ces := (dieCes die).filter (fun k => k != but)
  if d.safe then .none
  else match d.spareOf die with
    | some k => .take k
    | Option.none => match ces.find? (fun k => (d.ce k).st = .spareFree) with
      | some k => .wakes k
      | Option.none => match ces.find? (fun k => (d.heldRank k).any (fun r => decide (rank < r))) with
        | some k => .waits k
        | Option.none => if ces.any (fun k => (d.heldRank k).isSome) then .refused else .none

/-- A domain is asked for (R451). -/
def Dev.wake (d : Dev) (n : Nat) : Dev := d.modPow (fun z => { z with rising := listAdd z.rising n })

/-- A claim that has left every spare of the die held at rank 1 is reported (R27). -/
def Dev.reportSpares (bt : Nat) (d : Dev) (die : Nat) : Dev :=
  if (dieCes die).any (fun k => (d.ce k).st = .spareFree || (d.heldRank k).isSome) then d
  else d.tlog bt 13 64 (some (d.partOfDie die)) die

/-- Move the logical number of CE `k` to CE `j`, which becomes ACTIVE (R85). -/
def Dev.castle (bt : Nat) (d : Dev) (k j : Nat) : Dev :=
  let n := (d.ce k).logical
  let d := d.resLog bt 0x30 1 (some (d.partOfDie (k / 26))) (d.ceUnit k) [0, 0, bt, 0]
  (d.modCe k (fun c => { c with logical := none })).modCe j (fun c => { c with st := .active, rank := 0, logical := n })

/-- Begin the screening of a CE held at rank 2: phase 1 clears it (R433). -/
def Dev.beginScreen (bt : Nat) (d : Dev) (k : Nat) (second : Bool) : Dev :=
  let d := d.modCe k (fun c => { c with
    st := .spareHeld, rank := 2, ls := [], lsCtx := [], vrf := [], vrfCtx := [], cb := [], cbCtx := [], acc := [], mode := none
    sqc := [], tpend := [], tread := [] })
  d.modRes (fun z => { z with screens := mapPut z.screens k { second, since := bt }, toScreen := listDel z.toScreen k })

/-- Screenings in progress on a die. -/
def Dev.screensOn (d : Dev) (die : Nat) : Nat := (d.res.screens.filter (fun s => s.1 / 26 == die)).length

/-- Take a CE that holds a logical number out for screening by planned castling (R426, R432): the number moves at once, the
CE finishes its resident launches. Without a free spare it waits for one (R420), a gated one being powered up (R87). -/
def Dev.castleOut (bt : Nat) (d : Dev) (k : Nat) : Dev :=
  let later := fun (d : Dev) => d.modRes (fun z => { z with toScreen := listAdd z.toScreen k })
  match d.claimSpare (k / 26) 2 k with
  | .take j =>
    let d := d.castle bt k j
    if (d.resident k).isEmpty then d.beginScreen bt k false
    else (d.modCe k (fun c => { c with st := .withheld })).modRes
      (fun z => { z with draining := listAdd z.draining k, toScreen := listDel z.toScreen k })
  | .wakes j => (later d).wake (ceDomain j)
  | .waits _ => later d
  | .refused => later d
  | .none => later d

/-- Send a CE to screening: one with a logical number by planned castling, a spare where it stands. -/
def Dev.sendToScreen (bt : Nat) (d : Dev) (k : Nat) : Dev :=
  if (d.ce k).logical.isSome then d.castleOut bt k
  else if (d.ce k).st = .spareFree ∨ (d.ce k).st = .spareHeld then d.beginScreen bt k false
  else d

/-- A spare is released (R27, R422): a rank-1 claim that waits on its die takes it, then a number that waits since an engine
reset, then a CE that waits to be castled out for screening (R420); else it is SPARE_FREE. -/
def Dev.releaseSpare (bt : Nat) (d : Dev) (k : Nat) : Dev :=
  let die := k / 26
  match d.res.claims.find? (fun n => n / 24 == die) with
  | some n =>
    let d := d.modRes (fun z => { z with claims := z.claims.erase n })
    ((d.modCe k (fun c => { c with st := .active, rank := 0, logical := some n })).resLog bt 0x30 1
      (some (d.partOfDie die)) n [0, 0, bt, 0]).reportSpares bt die
  | none => match d.res.waiting.find? (fun w => w.1 / 24 == die) with
    | some w =>
      let d := d.modRes (fun z => { z with waiting := z.waiting.erase w })
      (d.modCe k (fun c => { c with st := .active, rank := 0, logical := some w.1 })).resLog bt 0x30 1
        (some (d.partOfDie die)) w.1 [0, 0, bt, 0]
    | none =>
      let d := d.modCe k (fun c => { c with st := .spareFree, rank := 0 })
      match d.res.toScreen.find? (fun j => j / 26 == die && (d.ce j).logical.isSome) with
      | some j => d.castleOut bt j
      | none => d

/-- A launch member has left a CE: one castled out starts its screening when none is left (R426). -/
def Dev.ceVacant (bt : Nat) (d : Dev) (k : Nat) : Dev :=
  if d.res.draining.contains k ∧ (d.resident k).isEmpty then
    (d.modRes (fun z => { z with draining := listDel z.draining k })).beginScreen bt k false
  else d

/-! ### The unit history (R442 to R446) -/

/-- Is an event record inside the window (R444, R446)? -/
def Dev.histRecent (bt : Nat) (d : Dev) (r : HistRec) : Bool :=
  !r.tValid || decide (bt < r.bt + d.fget F.resHistCfgWindowD 0 * 86400 * 10 ^ 9)

/-- R445: what the copy to the other half keeps when the active half of 131,070 records is full. -/
def Dev.histCompact (bt : Nat) (d : Dev) : Dev :=
  if d.res.history.length < 131070 then d
  else
    let newest := (d.res.history.filter (fun r => r.typ == 4)).getLast?
    let keep := d.res.history.filter (fun r =>
      r.typ == 2 || r.typ == 3 || some r == newest || (r.typ == 1 && d.histRecent bt r))
    d.modRes (fun z => { z with history := keep, histGen := z.histGen + 1 })

/-- Append a record (R442, R444), whose CLASS is 0 unless it is an event; in the Safe configuration the history is not written
(R391). -/
def Dev.histAdd (bt : Nat) (d : Dev) (typ kind cls unit : Nat) (corner : Bool := false) (value : Nat := 0) : Dev :=
  if d.safe then d
  else
    let d := d.histCompact bt
    let r : HistRec := { typ, kind, cls := if typ = 1 then cls else 0, corner, tValid := d.time.lockedOnce, unit, bt, value,
                         powerOn := (d.res.history.filter (fun r => r.typ == 4)).length }
    d.modRes (fun z => { z with history := z.history ++ [r] })

/-- Does a failure class count toward permanence (R443)? -/
def histCounts (cls : Nat) : Bool := [1, 3, 5, 7, 8, 9, 10].contains cls

/-- Is a unit's fault permanent (R446)? In the Safe configuration the history is not read (R391). -/
def Dev.permanent (bt : Nat) (d : Dev) (kind unit : Nat) : Bool :=
  let rs := d.res.history.filter (fun r => r.typ == 1 && r.kind == kind && r.unit == unit && d.histRecent bt r)
  !d.safe && (decide (d.fget F.resHistCfgPermCount 0 ≤ (rs.filter (fun r => histCounts r.cls && !r.corner)).length) ||
    decide (d.fget F.resHistCfgMarginalCount 0 ≤ (rs.filter (fun r => r.cls == 2)).length))

/-- A corrected error of a unit: more than BURST in an hour are one CORRECTED_BURST event (R443). -/
def Dev.corrected (bt : Nat) (d : Dev) (kind unit : Nat) : Dev :=
  let key := 2 ^ 20 * kind + unit
  let ts := (mapGet [] d.res.corr key).filter (fun t => decide (bt < t + 3600 * 10 ^ 9)) ++ [bt]
  let burst := decide (d.fget F.resHistCfgBurst 0 < ts.length)
  let d := d.modRes (fun z => { z with corr := mapSet [] z.corr key (if burst then [] else ts) })
  if burst then d.histAdd bt 1 kind 8 unit else d

/-- MAP_OUT of a CE (R447): its logical number goes to a free spare at rank 1, or waits for the next release or for the
power of a gated spare (R27, R451); with every spare of the die held at rank 1 it is lost. -/
def Dev.mapOutCe (bt : Nat) (d : Dev) (k cls : Nat) : Dev :=
  let die := k / 26
  let a := d.partOfDie die
  let u := d.ceUnit k
  let data := [0, 0, bt, cls]
  let d := (d.resLog bt 0x46 2 (some a) u data).resLog bt 0x47 2 (some a) u data
  let out := fun (d : Dev) (j : Nat) => (d.histAdd bt 3 1 cls k false j).modCe k (fun c => { c with st := .mappedOut, rank := 0 })
  match (d.ce k).logical with
  | none =>
    -- its number has moved already: the record names the die's free spare, or else a CE in service (log entry 35)
    let j := (d.spareOf die).getD ((dieCes die).find? (fun j => (d.ce j).logical.isSome) |>.getD 0)
    (out (d.modRes (fun z => { z with draining := listDel z.draining k })) j).reportSpares bt die
  | some n =>
    let lost := fun (d : Dev) => d.modCe k (fun c => { c with logical := none })
    let queued := fun (d : Dev) => d.modRes (fun z => { z with claims := z.claims ++ [n] })
    match d.claimSpare die 1 k with
    | .take j => (((d.histAdd bt 3 1 cls k false j).castle bt k j).modCe k (fun c => { c with st := .mappedOut, rank := 0 })).reportSpares bt die
    | .wakes j => queued ((lost (out d j)).wake (ceDomain j))
    | .waits j => queued (lost (out d j))
    | .refused => (lost (out d 0xFFFFFFFF)).resLog bt 0x31 2 (some a) n data
    | .none => (lost (out d 0xFFFFFFFF)).resLog bt 0x31 2 (some a) n data

end Sys2Proof.Machine
end

