-- ==== Sys2Proof/Machine/Kiorn.lean ====
section
/-! DEFINITION. The Kiorn topology (R13 to R15, R282): which nodes a link joins, the way of a request, and the links that carry nothing.
Node n, 0 to 7, is die ADn; node 8 is the Hub. -/

namespace Sys2Proof.Machine

/-- The Hub as a node. -/
def hubNode : Nat := 8

/-- The two nodes that a link joins (R282): link n the Hub and ADn, link 8 + k ADk and its neighbour upward. -/
def linkEnds (link : Nat) : Nat × Nat := if link < 8 then (hubNode, link) else (link - 8, (link - 7) % 8)

/-- The ring links from die `a` upward over `n` hops, and downward. -/
def ringUp (a n : Nat) : List Nat := (List.range n).map (fun i => 8 + (a + i) % 8)
def ringDown (a n : Nat) : List Nat := (List.range n).map (fun i => 8 + (a + 7 - i) % 8)

/-- The links that a request crosses on its way from a node to a node, for a line whose home slice has number `slice`: between the
Hub and a die their own link alone (R13); between dies the shorter way round the ring, and at a distance of four upward for an even
home slice and downward for an odd one (R14). -/
def kiornWay (src dst slice : Nat) : List Nat :=
  if src = dst then []
  else if src = hubNode then [dst]
  else if dst = hubNode then [src]
  else
    let up := (dst + 8 - src) % 8
    if up < 4 ∨ (up = 4 ∧ slice % 2 = 0) then ringUp src up else ringDown src (8 - up)

/-- The node of a slice (R260). -/
def sliceNode (slice : Nat) : Nat := if slice < 64 then slice / 8 else hubNode

/-- Is a link up? One whose last lane group is down carries nothing (R284). -/
def Dev.linkIsUp (d : Dev) (link : Nat) : Bool := d.fget F.kioLinkStatusState link == 2

/-- Is a link down: none of its lane groups is left (R284)? A link that has not been trained carries no traffic either, but none is
asked for then. -/
def Dev.linkDead (d : Dev) (link : Nat) : Bool := d.fget F.kioLinkStatusState link == 0 && d.fget F.kioLinkStatusGroupDown link != 0

/-- Does a request from a node reach a home slice (R13, R14, R284)? -/
def Dev.wayOpen (d : Dev) (src slice : Nat) : Bool := (kiornWay src (sliceNode slice) slice).all (fun l => !d.linkDead l)

/-- Do requests from a node for `n` bytes of memory at a DPA reach every home slice of theirs? -/
def Dev.bytesOpen (d : Dev) (src x n : Nat) : Bool :=
  !((List.range 16).any d.linkDead) || (List.range ((x + n + 511) / 512 - x / 512)).all (fun i =>
    match d.homeSlice ((x / 512 + i) * 512) with
    | some s => d.wayOpen src s
    | none => true)

/-- Does a ring link join dies of different partitions (R15)? -/
def Dev.linkIdle (d : Dev) (link : Nat) : Bool :=
  decide (8 ≤ link) && d.partOfDie (linkEnds link).1 != d.partOfDie (linkEnds link).2

/-- The states of the trained links under the layout in force: UP_IDLE between partitions, UP elsewhere (R15, R285). -/
def Dev.idleLinks (d : Dev) : Dev :=
  (List.range 16).foldl (fun d l =>
    let st := d.fget F.kioLinkStatusState l
    if 2 ≤ st then d.fset F.kioLinkStatusState l (if d.linkIdle l then 3 else 2) else d) d

end Sys2Proof.Machine
end

