-- ==== Sys2Proof/Machine/Translate.lean ====
section
/-! DEFINITION. Address translation (R304 to R312): the four-level walk, malformed entries, and the translation caches. -/

namespace Sys2Proof.Machine

/-- What a translation finds. -/
inductive Tr where
  | page (p : Page)
  | unmapped
  | malformed
  deriving DecidableEq, Repr

/-- The bit offset and index width of each level (R308). -/
def levelShift : Nat → Nat × Nat
  | 0 => (39, 17)
  | 1 => (30, 9)
  | 2 => (21, 9)
  | _ => (16, 5)

/-- Bytes of a table at a level. -/
def tableBytes (lvl : Nat) : Nat := 8 * 2 ^ (levelShift lvl).2

/-- Is an entry with V = 1 malformed at a level (R310)? -/
def Dev.pteBad (d : Dev) (a lvl e : Nat) : Bool :=
  let leaf := bit e 1
  let addr := bits e 59 8 * 256
  let sz := 2 ^ (levelShift lvl).1
  bits e 63 60 != 0 || bits e 5 4 == 3 || bits e 7 6 == 3 || (leaf && lvl == 0) || (!leaf && lvl == 3) ||
    (if leaf then
      addr % sz != 0 ||
        (addr / 2 ^ 48 == d.fget F.igfNodeId a &&
          !(d.inTier (isDdr (addr % 2 ^ 48)) a (addr % 2 ^ 48) sz))
    else
      bits e 7 2 != 0 || addr % tableBytes (lvl + 1) != 0 || addr / 2 ^ 48 != d.fget F.igfNodeId a ||
        !(d.inHbm a (addr % 2 ^ 48) (tableBytes (lvl + 1))))

/-- Walk from a table at a level; the fuel counts the levels left. -/
def Dev.walkFrom (d : Dev) (a ava : Nat) : Nat → Nat → Nat → Tr
  | 0, _, _ => .unmapped
  | fuel + 1, lvl, table =>
    let (sh, n) := levelShift lvl
    let at_ := table + 8 * (ava / 2 ^ sh % 2 ^ n)
    let e := memNat d.mem at_ 8
    if !bit e 0 then .unmapped
    else if d.pteBad a lvl e then .malformed
    else
      let addr := bits e 59 8 * 256
      if bit e 1 then
        .page { ava := ava / 2 ^ sh * 2 ^ sh, lg := sh, dpa := addr, w := bit e 2, pin := bit e 3, cp := bits e 5 4,
                tier := bits e 7 6, leaf := at_ }
      else d.walkFrom a ava fuel (lvl + 1) (addr % 2 ^ 48)

/-- The walk of a context's table (R308). -/
def Dev.walkTable (d : Dev) (c ava : Nat) : Tr := d.walkFrom (d.partOfCtx c) ava 4 0 ((d.ctx c).root % 2 ^ 48)

/-- The caches of translations: 0 to 7 the second level of the partition at that die, 16 + k of physical CE k, 256 + e of
host transfer engine e (R311). -/
def tlbCe (k : Nat) : Nat := 16 + k
def tlbHte (e : Nat) : Nat := 256 + e

/-- Entries a cache holds (R311). -/
def tlbSize (u : Nat) : Nat := if u < 16 then 32768 else if u < 256 then 512 else 64

/-- A cache. -/
def Dev.tlb (d : Dev) (u : Nat) : List TlbEntry := mapGet [] d.xlat.tlbs u

/-- Set a cache. -/
def Dev.setTlb (d : Dev) (u : Nat) (l : List TlbEntry) : Dev :=
  d.modXlat (fun z => { z with tlbs := mapSet [] z.tlbs u l })

/-- The entry of a cache that maps an address of a context. -/
def tlbHit (l : List TlbEntry) (c ava : Nat) : Option Page :=
  (l.find? (fun e => e.ctx == c && e.page.ava == ava / 2 ^ e.page.lg * 2 ^ e.page.lg)).map (fun e => e.page)

/-- Add an entry; the oldest goes when the cache is full (DESIGN CHOICE, log entry 14). -/
def Dev.tlbAdd (d : Dev) (u c : Nat) (p : Page) : Dev :=
  let l := (d.tlb u).filter (fun e => e != { ctx := c, page := p }) ++ [{ ctx := c, page := p }]
  d.setTlb u (l.drop (l.length - tlbSize u))

/-- Translate an address through a first-level cache `u`, the partition's second level, or a walk. -/
def Dev.translate (d : Dev) (u c ava : Nat) : Tr × Dev :=
  let a := d.partOfCtx c
  match tlbHit (d.tlb u) c ava with
  | some p => (.page p, d)
  | none =>
    match tlbHit (d.tlb a) c ava with
    | some p => (.page p, (d.fbump F.xlatTlbStatL2Hits a 1).tlbAdd u c p)
    | none =>
      let d := (d.fbump F.xlatTlbStatL2Misses a 1).fbump F.xlatWalkStatWalks a 1
      match d.walkTable c ava with
      | .page p => (.page p, (d.tlbAdd a c p).tlbAdd u c p)
      | .malformed => (.malformed, d.fbump F.xlatWalkStatMalformed a 1)
      | .unmapped => (.unmapped, d)

/-- Is a DPA local to the partition at die `a` (R305, R357)? -/
def Dev.isLocal (d : Dev) (a dpa : Nat) : Bool := dpa / 2 ^ 48 == d.fget F.igfNodeId a

/-- The DPA of an address in its page. -/
def Page.at_ (p : Page) (ava : Nat) : Nat := p.dpa + ava % 2 ^ p.lg

/-- May the page never move: FIXED, pinned, or of 1 GiB (R201)? -/
def Page.fixed (p : Page) : Bool := p.tier == 0 || p.pin || p.lg == 30

/-- Drop the entries a test accepts from every cache of a partition (R314). -/
def Dev.tlbDrop (d : Dev) (a : Nat) (f : TlbEntry → Bool) : Dev :=
  let mine := fun (u : Nat) =>
    if u < 16 then u == a
    else if u < 256 then decide (d.partOfDie ((u - 16) / 26) = a)
    else decide (d.partOfDie ((u - 256) / 2) = a)
  d.modXlat (fun z => { z with tlbs := mapKeep (mapAll z.tlbs (fun u l => if mine u then l.filter (fun e => !f e) else l)) (fun _ l => !l.isEmpty) })

/-- The page move that a page of a context is in, if any (R202). -/
def Dev.pageMove (d : Dev) (c : Nat) (p : Page) : Option (Nat × Move) :=
  d.tier.moves.find? (fun m => match m.2.obj with
    | .page c' ava _ => c' == c && ava == p.ava
    | _ => false)

end Sys2Proof.Machine
end

