-- ==== Sys2Proof/Machine/Ring.lean ====
section
/-! DEFINITION. Host ports, ring pairs and descriptors (chapter 14): doorbells, fetch and its checks, attach, drain, freeze,
and the head of a pair's fetched descriptors, which the commands that dispatch a descriptor take. -/

namespace Sys2Proof.Machine

/-! ### Descriptor fields -/

/-- `n` bytes of the payload from offset `o`. -/
def Desc.at_ (x : Desc) (o n : Nat) : Nat := listNat x.payload o n

/-- LAUNCH fields (R341). -/
def Desc.group (x : Desc) : Nat := bits x.ts0 4 0 + 1
def Desc.cohorts (x : Desc) : Nat := bits x.ts0 13 5 + 1
def Desc.regs (x : Desc) : Nat := 16 * (bits x.ts0 16 14 + 1)
def Desc.lsUnits (x : Desc) : Nat := bits x.ts0 26 17 + 1
def Desc.ploff (x : Desc) : Nat := bits x.ts1 63 50
def Desc.watchdog (x : Desc) : Nat := bits x.ts2 31 0

/-- HOST_IN and HOST_OUT fields (R342). -/
def Desc.len (x : Desc) : Nat := x.ts0
def Desc.hostPort (x : Desc) : Nat := bits x.ts2 59 58

/-- Do all set bits of a value lie in the listed fields `(hi, lo)`? -/
def onlyBits (v : Nat) (fs : List (Nat × Nat)) : Bool := fs.foldl (fun w f => w - bits w f.1 f.2 * 2 ^ f.2) v == 0

/-- The fields that a CONTEXT request uses (R344), as bit ranges of the payload; none for a reserved OP. -/
def ctxFields (op : Nat) : Option (List (Nat × Nat)) :=
  let quota := [(63, 32), (159, 128), (191, 160), (223, 192), (239, 224), (287, 256)]
  (match op with
  | 1 => some ([(15, 8), (127, 64), (319, 288), (383, 320), (447, 384)] ++ quota)
  | 2 => some []
  | 3 => some quota
  | 4 => some [(65, 64), (95, 80)]
  | 5 => some [(65, 64), (95, 80)]
  | _ => none).map (fun fs => [(7, 0), (27, 16)] ++ fs)

/-- The fields that a SEQUENCE request uses (R177). -/
def seqFields (op flags : Nat) : Option (List (Nat × Nat)) :=
  (match op with
  | 0x01 => some [(31, 16), (55, 32), (87, 64), (120, 96)]
  | 0x02 => some [(15, 8), (31, 16), (63, 32), (127, 64), (139, 128)]
  | 0x03 => some ([(11, 11), (31, 16), (63, 32), (127, 64)] ++ (if bit flags 3 then [(511, 256)] else []))
  | 0x04 => some [(31, 16)]
  | 0x05 => some [(31, 16)]
  | 0x06 => some [(31, 16)]
  | 0x07 => some [(31, 16), (47, 32), (88, 64), (159, 128)]
  | 0x08 => some [(31, 16), (88, 64)]
  | 0x09 => some [(31, 16), (127, 64)]
  | 0x10 => some [(10, 8), (127, 64), (159, 128)]
  | 0x11 => some [(10, 8), (127, 64), (159, 128)]
  | _ => none).map (fun fs => (7, 0) :: fs)

/-- The fields that a TIER request uses (R220). -/
def tierFields (op : Nat) : Option (List (Nat × Nat)) :=
  (match op with
  | 0x01 => some [(8, 8), (127, 64), (191, 128)]
  | 0x02 => some [(8, 8), (127, 64), (191, 128)]
  | 0x03 => some [(31, 16), (127, 64)]
  | 0x04 => some [(31, 16), (191, 128)]
  | 0x05 => some [(31, 16)]
  | 0x06 => some [(31, 16), (63, 32)]
  | 0x07 => some [(31, 16), (127, 64), (143, 128)]
  | 0x08 => some [(127, 64), (191, 128)]
  | 0x09 => some [(127, 64), (191, 128)]
  | 0x10 => some [(9, 8), (127, 64), (159, 128)]
  | 0x11 => some [(9, 8), (127, 64), (159, 128)]
  | _ => none).map (fun fs => (7, 0) :: fs)

/-- Requests accepted only from the resident driver (R177, R220). -/
def driverOnly (typ op : Nat) : Bool :=
  if typ = 4 then op == 0x10 || op == 0x11
  else [0x03, 0x05, 0x06, 0x08, 0x09, 0x10, 0x11].contains op

/-- Are a request's OP and reserved fields as the tables give them (R337 step 3)? -/
def requestOk (typ : Nat) (host : Bool) (payload : List Byte) : Bool :=
  let v := leNat (payload.take 64)
  let op := bits v 7 0
  let fs := if typ = 4 then seqFields op (bits v 15 8) else if typ = 5 then tierFields op else ctxFields op
  match fs with
  | some fs => onlyBits v fs && !(host && typ != 6 && driverOnly typ op)
  | none => false

/-! ### Checks at fetch (R337) -/

/-- The version of the host ring protocol that introduced a type, major·256 + minor (R336). -/
def typeSince (typ : Nat) : Nat :=
  match typ with
  | 4 => 0x300
  | 5 => 0x301
  | 6 => 0x300
  | _ => 0

/-- Is the payload length one that the type takes (R336)? -/
def plenOk (typ plen : Nat) : Bool :=
  match typ with
  | 1 => decide (plen ≤ 62)
  | 2 => decide (plen ≤ 62)
  | 3 => decide (plen ≤ 1)
  | _ => plen == 4

/-- The device or host pair that a port number and pair number name (R347): port 4 is the device rings of a partition. -/
def pairOf (a port k : Nat) : Nat := if port < 4 then 1024 * port + k else 4096 + 256 * a + k

/-- The reserved bits of a descriptor's own fields (R342, R343; requests R177, R220, R344). -/
def Dev.descReserved (host : Bool) (x : Desc) : Bool :=
  match x.typ with
  | 1 => true
  | 2 => bits x.ts2 63 60 == 0
  | 3 => bits x.ts2 63 60 == 0 && (x.payload.isEmpty || onlyBits (x.at_ 0 8) [(1, 0), (25, 16)])
  | _ => x.ts0 == 0 && x.ts1 == 0 && x.ts2 == 0 && requestOk x.typ host x.payload

/-- The ranges of a LAUNCH (R42, R341). -/
def Dev.launchRange (d : Dev) (a plen : Nat) (x : Desc) : Bool :=
  decide (x.group ≤ min 24 (d.activeCes a).length) && decide (x.cohorts * 32 * x.regs * 4 ≤ 2 ^ 20) &&
    decide (x.lsUnits ≤ 768) && decide (x.ploff * 256 < 4096 * x.lsUnits) &&
    decide (x.ploff * 256 + 16 * plen ≤ 4096 * x.lsUnits) && !(decide (1 ≤ x.watchdog) && decide (x.watchdog ≤ 99))

/-- The ranges of a host transfer (R342, R343). -/
def Dev.hostRange (d : Dev) (k plen : Nat) (x : Desc) : Bool :=
  decide (1 ≤ x.len) && (if pairIsHost k then x.hostPort == 0 else d.boundTo x.hostPort (pairWindow k)) &&
    (if x.typ = 2 then plen == 0 || (decide (x.len ≤ 16 * plen) && x.ts1 == 0)
     else plen == 0 ||
      (let q := pairOf 0 (bits (x.at_ 0 8) 1 0) (bits (x.at_ 0 8) 25 16)
       (d.pair q).st ≠ .detached && !(d.pair q).admin && (d.pair q).ctx == (d.pair k).ctx))

/-- R337 steps 2 to 4: the status a descriptor is refused with at fetch. -/
def Dev.fetchCheck (d : Dev) (k ver plen : Nat) (x : Desc) : Option Status :=
  let p := d.pair k
  let reserved := x.typ == 0 || decide (7 ≤ x.typ)
  if p.verMin < ver ∨ (¬reserved ∧ ¬p.admin ∧ p.verMaj * 256 + p.verMin < typeSince x.typ) then some .versionMismatch
  else if reserved || ((x.typ == 6) != p.admin) || !plenOk x.typ plen || (x.nslot != (32 + 16 * plen + 63) / 64) ||
      !Dev.descReserved (pairIsHost k) x then some .descInvalid
  else if x.typ == 1 && !d.launchRange (d.pairPart k) plen x then some .range
  else if (x.typ == 2 || x.typ == 3) && !d.hostRange k plen x then some .range
  else none

/-! ### Fetch -/

/-- The bytes of `n` slots from the pair's head: a device ring's from device memory, a host ring's as delivered. -/
def Dev.slotBytes (d : Dev) (k n : Nat) (host : List Byte) : List Byte :=
  if pairIsHost k then host.take (64 * n)
  else
    let base := d.fget F.hptSqBaseAddr k * 2 ^ 12 % 2 ^ 48
    (List.range n).flatMap (fun j => memReadBytes d.mem (base + 64 * (((d.pair k).sqHead + j) % d.sqSize k)) 64)

/-- Are PHASE and SEQ of a header what the pair expects (R338)? -/
def Pair.current (p : Pair) (hdr : Nat) : Bool := bit hdr 8 == p.sqPhase && bits hdr 33 18 == p.sqSeq

/-- Slots announced and not yet fetched. -/
def Dev.announced (d : Dev) (k : Nat) : Nat := ((d.pair k).sqTail + d.sqSize k - (d.pair k).sqHead) % d.sqSize k

/-- The head word (R340), in host memory or in device memory. -/
def Dev.headWriteBack (d : Dev) (k : Nat) : Dev :=
  let p := d.pair k
  let d := d.emit (.headWb k p.sqHead p.gen)
  if pairIsHost k then d
  else d.memPut (d.fget F.hptHeadWbAddr k * 8 % 2 ^ 48) (leBytes 8 (p.sqHead + p.gen * 2 ^ 16))

/-- Take the descriptor at the head, whose header is current: copy it, move the head on, check it (R337, R340). It waits
while not all its slots are announced (DESIGN CHOICE, log entry 15). The head is written after every descriptor. -/
def Dev.takeDesc (bt : Nat) (d : Dev) (k : Nat) (host : List Byte) : Dev :=
  let hdr := leNat ((d.slotBytes k 1 host).take 8)
  let n := bits hdr 7 4 + 1
  if d.announced k < n then d.modPair k (fun p => { p with rereads := none })
  else
    let bs := d.slotBytes k n host
    let size := d.sqSize k
    let plen := bits hdr 17 12
    let x : Desc := {
      pair := d.pairRef k, typ := bits hdr 3 0, nslot := n, tag := listNat bs 8 8, ts0 := bits hdr 63 34,
      ts1 := listNat bs 16 8, ts2 := listNat bs 24 8, payload := (bs.drop 32).take (16 * plen), bt := bt, order := d.eng.order }
    let d := d.modEng (fun z => { z with order := z.order + 1 })
    let d := d.modPair k (fun p => { p with
      rereads := none, outst := p.outst + 1, sqHead := (p.sqHead + n) % size
      sqPhase := if size ≤ p.sqHead + n then !p.sqPhase else p.sqPhase
      sqSeq := (p.sqSeq + 1) % 2 ^ 16 })
    let d := d.headWriteBack k
    match d.fetchCheck k (bits hdr 11 9) plen x with
    | some st => d.complete bt x.pair x.tag st (final := true)
    | none => d.modPair k (fun p => { p with fetched := p.fetched ++ [x] })

/-- May the pair fetch: ATTACHED, slots announced, room for the completion (R346), and no power cycle asked for (R425)? -/
def Dev.mayFetch (d : Dev) (k : Nat) : Bool :=
  !d.res.cycle && !d.pow.tripped && (d.pair k).st = .attached && (d.pair k).sqHead != (d.pair k).sqTail && d.cqRoom k

/-- DESC_FETCH: a header that is not current starts the re-reads (R338). -/
def Dev.descFetch (bt : Nat) (d : Dev) (k : Nat) (host : List Byte) : Dev :=
  if d.mayFetch k ∧ (d.pair k).rereads = none then
    if (d.pair k).current (leNat ((d.slotBytes k 1 host).take 8)) then d.takeDesc bt k host
    else d.modPair k (fun p => { p with rereads := some 0 })
  else d

/-- HEADER_REREAD: the eighth re-read that still differs stops the pair with DESC_NOT_READY (R338). -/
def Dev.headerReread (bt : Nat) (d : Dev) (k : Nat) (host : List Byte) : Dev :=
  match (d.pair k).rereads with
  | none => d
  | some n =>
    if d.mayFetch k then
      let d := d.fbump F.hptStatRereads k 1
      let p := d.pair k
      if p.current (leNat ((d.slotBytes k 1 host).take 8)) then d.takeDesc bt k host
      else if n + 1 < 8 then d.modPair k (fun p => { p with rereads := some (n + 1) })
      else
        let d := d.modPair k (fun p => { p with rereads := none, st := .stopped })
        d.putEntry k {
          tag := 2 ^ 64 - 1, status := .descNotReady, bt := bt
          result := p.sqHead + p.sqSeq * 2 ^ 16 + b2n p.sqPhase * 2 ^ 32 + p.gen * 2 ^ 48 }
    else d

/-! ### Doorbells (R330, R339) -/

/-- Is the doorbell word in order: GEN the pair's, no reserved bit set? -/
def Dev.doorbellOk (d : Dev) (k : Nat) (w : Word) : Bool := bits w.toNat 31 16 == (d.pair k).gen && bits w.toNat 63 32 == 0

/-- A submission doorbell. A TAIL beyond the ring is taken modulo its size (DESIGN CHOICE, log entry 16). -/
def Dev.sqDoorbell (d : Dev) (k offset size : Nat) (w : Word) : Dev :=
  if offset = 0 ∧ size = 8 ∧ d.doorbellOk k w ∧ (d.pair k).st = .attached then
    d.modPair k (fun p => { p with sqTail := bits w.toNat 15 0 % d.sqSize k })
  else d.fbump F.hptStatDbIgnored k 1

/-- A completion doorbell hands back the entries before HEAD; a DRAINING pair still takes it (R351). -/
def Dev.cqDoorbell (d : Dev) (k offset size : Nat) (w : Word) : Dev :=
  if offset = 0 ∧ size = 8 ∧ d.doorbellOk k w ∧ ((d.pair k).st = .attached ∨ (d.pair k).st = .draining) then
    d.modPair k (fun p =>
      let n := d.cqSize k
      let head := (p.cqTail + n - p.cqHeld % n) % n
      { p with cqHeld := p.cqHeld - min p.cqHeld ((bits w.toNat 15 0 % n + n - head) % n) })
  else d.fbump F.hptStatDbIgnored k 1

/-- COMPLETION_RING_ROOM: the oldest waiting post is written when there is room for it (R346). -/
def Dev.ringRoom (bt : Nat) (d : Dev) (k : Nat) : Dev :=
  match (d.pair k).posts with
  | p :: ps =>
    if d.cqRoom k then
      let d := (d.modPair k (fun x => { x with posts := ps })).putEntry k p.entry
      ((d.resumeMember bt p.launch).settle k).finishRevokes bt
    else d
  | [] => d

/-! ### Attach, detach, re-arm (R331 to R334, R350, R351) -/

/-- Is the queue of the context granted to the pair: by a GRANT to its port, or as the partition's own on a device ring? -/
def Dev.granted (d : Dev) (k c q : Nat) : Bool :=
  let x := d.ctx c
  x.live && !x.ending && decide (q < x.queues) &&
    (if pairIsHost k then
      d.boundTo (pairPort k) (d.partOfCtx c) &&
        d.ring.grants.any (fun g => g.port == pairPort k && g.ctx == c && bit g.qmask q)
     else d.partOfCtx c == pairWindow k)

/-- The highest minor spoken of a major (R333, R334, R352), or none. -/
def Dev.topMinor (d : Dev) (k maj c : Nat) (admin : Bool) : Option Nat :=
  if admin then (if maj = 1 then some 1 else none)
  else if maj = 3 then some 2
  else if maj = 2 ∧ pairIsHost k ∧ (d.ctx c).vanan then some 5
  else none

/-- Entries of the partition's shadow area taken by other pairs (R350). -/
def Dev.areaUsed (d : Dev) (a k : Nat) : Nat :=
  (d.ring.pairs.map (fun p => if p.1 != k && p.1 < 4096 && d.partOfCtx p.2.ctx == a then p.2.area else 0)).sum

/-- GO (R332): what stops the attach, or the attach itself. That of a FROZEN pair waits for its last descriptor (DESIGN
CHOICE, log entry 17). -/
def Dev.attachGo (d : Dev) (k : Nat) : Dev :=
  let c := d.fget F.hptAttachCtx k
  let q := d.fget F.hptAttachQueue k
  let maj := d.fget F.hptAttachVerMaj k
  let admin := !pairIsHost k && d.fon F.hptAttachAdmin k
  let area := if pairIsHost k then d.cqSize k else 0
  let fail := fun (st : Status) => d.modPair k (fun p => { p with attachErr := st.code })
  if !admin && !d.granted k c q then fail .range
  else match d.topMinor k maj c admin with
    | none => fail .versionMismatch
    | some top =>
      if 524288 * d.dies (d.partOfCtx c) < d.areaUsed (d.partOfCtx c) k + area ∧ pairIsHost k then fail .quota
      else
        let d := d.modPair k (fun p => { p with
          attachErr := 0, ctx := if admin then 0 else c, queue := if admin then 0 else q, admin, area, verMaj := maj
          verMin := min top (d.fget F.hptAttachVerMinMax k), go := true })
        if (d.pair k).st = .frozen ∧ (d.pair k).outst ≠ 0 then d else d.attachNow k

/-- DETACH (R351). -/
def Dev.detach (bt : Nat) (d : Dev) (k : Nat) : Dev :=
  match (d.pair k).st with
  | .attached => ((d.modPair k (fun p => { p with st := .draining, rereads := none })).settle k).finishRevokes bt
  | .stopped => ((d.modPair k (fun p => { p with st := .draining, rereads := none })).settle k).finishRevokes bt
  | .frozen => (d.detachPair k).finishRevokes bt
  | _ => d

/-- Is the partition reset of the pair that an attach names held (R375, R423)? -/
def Dev.resetHeld (d : Dev) (k c : Nat) : Bool :=
  match mapFind? d.res.parts (if pairIsHost k then d.partOfCtx c else pairWindow k) with
  | some r => r.held
  | none => false

/-- A write of a pair's ATTACH register (R332, R338, R350, R351, R423). -/
def Dev.attachWrite (bt : Nat) (d : Dev) (p : Party) (k : Nat) (v : Word) : Dev :=
  let st := (d.pair k).st
  let go := bit v.toNat 32
  let det := bit v.toNat 33
  let rearm := bit v.toNat 34
  let other := bits v.toNat 11 0 != (d.pair k).ctx || bits v.toNat 15 12 != (d.pair k).queue || bit v.toNat 35
  d.regWrite p .hptAttach k v
    (verdict ((pairIsHost k && bit v.toNat 35) || (rearm && st ≠ .stopped && st ≠ .draining))
      (st = .draining || (go && d.resetHeld k (bits v.toNat 11 0)) || (go && (st = .attached || st = .stopped)) || (go && st = .frozen && other)))
    (fun d =>
      let d := if go then d.attachGo k else d
      let d := if rearm then d.modPair k (fun p => { p with st := .attached, gen := (p.gen + 1) % 2 ^ 16 }) else d
      if det then d.detach bt k else d)

/-- A write of SQ_BASE, CQ_BASE, HEAD_WB or CFG: only while DETACHED or FROZEN; a CFG that leaves a FROZEN pair no room
for its shadow entries is refused (R332, R350). Bases of device pairs are DPAs in the partition's memory (R352); one elsewhere is
refused (DEDUCED, log entry 153). -/
def Dev.pairRegWrite (d : Dev) (p : Party) (r : RegName) (k : Nat) (v : Word) : Dev :=
  let st := (d.pair k).st
  d.regWrite p r k v
    (verdict
      ((!pairIsHost k && r ≠ .hptCfg && (bits v.toNat 63 48 != 0 || !d.inTier (isDdr v.toNat) (pairWindow k) v.toNat 8)) ||
        (r = .hptCfg && st = .frozen && decide (2 ^ bits v.toNat 9 5 ≤ (d.pair k).shadow.length)))
      (!(st = .detached || st = .frozen))) id

/-- The STATUS register of a pair. -/
def Dev.pairStatus (d : Dev) (k : Nat) : Word :=
  let p := d.pair k
  let st := match p.st with
    | .detached => 0
    | .attached => 1
    | .stopped => 2
    | .frozen => 3
    | .draining => 4
  BitVec.ofNat 64 (st + p.gen * 2 ^ 3 + p.verMaj * 2 ^ 19 + p.verMin * 2 ^ 27 + p.attachErr * 2 ^ 35 +
    p.shadow.length * 2 ^ 43)

/-! ### Freeze and end (R349, R351) -/

/-- Freeze a pair: undispatched descriptors complete into the shadow ring, waiting posts are discarded. -/
def Dev.freezePair (bt : Nat) (d : Dev) (k : Nat) : Dev :=
  let p := d.pair k
  if p.st = .detached then d
  else
    let d := p.posts.foldl (fun d x => (d.resumeMember bt x.launch).fbump F.hptStatSigDropped k 1) d
    let d := d.modPair k (fun p => { p with st := .frozen, rereads := none, fetched := [], posts := [], go := false })
    p.fetched.foldl (fun d x => d.complete bt x.pair x.tag .hostLost) d

/-- The pairs of a host port that are not DETACHED. -/
def Dev.portPairs (d : Dev) (q : Nat) : List Nat :=
  (d.ring.pairs.filter (fun p => p.1 < 4096 && p.1 / 1024 == q && p.2.st ≠ .detached)).map (fun p => p.1)

/-- An unfinished HOST_IN leaves its target torn at 64-byte granules (R247, R349): its bytes are free values wherever a
mapped, writable HBM page holds them. -/
def Dev.tear (d : Dev) (c ava len : Nat) : Dev :=
  (List.range (len / 2 ^ 16 + 2)).foldl
    (fun d i =>
      let lo := max ava ((ava / 2 ^ 16 + i) * 2 ^ 16)
      let hi := min (ava + len) ((ava / 2 ^ 16 + i + 1) * 2 ^ 16)
      if lo < hi then
        match d.walkTable c lo with
        | .page p => if p.w && d.isLocal (d.partOfCtx c) p.dpa && !isDdr (p.dpa % 2 ^ 48) then d.memFree (p.at_ lo % 2 ^ 48) (hi - lo) else d
        | _ => d
      else d) d

/-- End a host transfer with a status. -/
def Dev.endXfer (bt : Nat) (d : Dev) (x : Nat) (st : Status) : Dev :=
  match mapFind? d.ring.xfers x with
  | some t =>
    let d := (d.modRing (fun z => { z with xfers := mapErase z.xfers x })).modXlat
      (fun z => { z with held := z.held.filter (fun h => !(h.kind == 1 && h.cmd == some x)) })
    d.complete bt t.pair t.tag st
  | none => d

/-- A freeze event on a port (R349): the transfers that still need the host end; an inward one whose payload is in the device runs to
its end. -/
def Dev.freezePort (bt : Nat) (d : Dev) (q : Nat) : Dev :=
  let xs := d.ring.xfers.filter (fun x => x.2.port == q && !(x.2.inward && !x.2.data.isEmpty))
  let d := (d.portPairs q).foldl (fun d k => d.freezePair bt k) d
  xs.foldl (fun d x => ((if x.2.inward && x.2.data.isEmpty then d.tear x.2.ctx x.2.ava x.2.len else d).endXfer bt x.1
    .hostLost)) d

/-- R351: the context of a pair ends, or its partition is reset: its undispatched descriptors complete with the status,
then it is DETACHED. -/
def Dev.endPair (bt : Nat) (d : Dev) (k : Nat) (st : Status) : Dev :=
  let xs := (d.pair k).fetched
  let d := d.modPair k (fun p => { p with fetched := [] })
  let d := xs.foldl (fun d x => d.complete bt x.pair x.tag st) d
  let d := (d.pair k).posts.foldl (fun d p => d.resumeMember bt p.launch) d
  (d.detachPair k).finishRevokes bt

/-- The pairs attached to a context. -/
def Dev.ctxPairs (d : Dev) (c : Nat) : List Nat :=
  (d.ring.pairs.filter (fun p => p.2.ctx == c && !p.2.admin && p.2.st ≠ .detached)).map (fun p => p.1)

/-! ### Dispatch -/

/-- The descriptor next to be dispatched on a pair, if it is of the type and, for a request, has the OP. -/
def Dev.head? (d : Dev) (k typ op : Nat) : Option Desc :=
  match (d.pair k).fetched with
  | x :: _ => if x.typ = typ ∧ (typ < 4 ∨ x.at_ 0 1 = op) then some x else none
  | [] => none

/-- Take it from the pair. -/
def Dev.popDesc (d : Dev) (k : Nat) : Dev := d.modPair k (fun p => { p with fetched := p.fetched.tail })

/-- Dispatch the head of a pair by a function of the descriptor. -/
def Dev.dispatch (d : Dev) (k typ op : Nat) (f : Desc → Dev → Dev) : Dev :=
  match d.head? k typ op with
  | some x => f x (d.popDesc k)
  | none => d

/-- The context of a descriptor's pair. -/
def Dev.descCtx (d : Dev) (x : Desc) : Nat := (d.pair (pairNo x.pair)).ctx

/-- Complete a descriptor. -/
def Dev.finish (bt : Nat) (d : Dev) (x : Desc) (st : Status) (degrade : Nat := 0) (result : Nat := 0) : Dev :=
  d.complete bt x.pair x.tag st degrade result

/-- Dispatch a descriptor whose context must not be ending (R37). -/
def Dev.dispatchCtx (bt : Nat) (d : Dev) (k typ op : Nat) (f : Desc → Nat → Dev → Dev) : Dev :=
  d.dispatch k typ op (fun x d =>
    let c := d.descCtx x
    if (d.ctx c).ending then d.finish bt x .contextTerminated else f x c d)

/-- The host transfer engine a new transfer takes: of its partition's, the one with the fewest transfers, then the lowest
(DESIGN CHOICE, log entry 18). -/
def Dev.pickEngine (d : Dev) (a : Nat) : Nat :=
  let load := fun (e : Nat) => (d.ring.xfers.filter (fun x => x.2.engine == e)).length
  ((List.range (2 * d.dies a)).map (fun i => 2 * a + i)).foldl (fun b e => if load e < load b then e else b) (2 * a)

/-- Start a host transfer (R342, R343). -/
def Dev.startXfer (d : Dev) (x : Desc) (c : Nat) (inward : Bool) : Dev :=
  let k := pairNo x.pair
  let t : Xfer := {
    inward, pair := x.pair, tag := x.tag, ctx := c, port := if pairIsHost k then pairPort k else x.hostPort, len := x.len
    iova := x.ts1, ava := bits x.ts2 55 0, hint := bits x.ts2 57 56
    data := if inward then x.payload.take x.len else []
    notify := if inward || x.payload.isEmpty then none
      else some (pairOf 0 (bits (x.at_ 0 8) 1 0) (bits (x.at_ 0 8) 25 16), x.at_ 8 8)
    engine := d.pickEngine (d.partOfCtx c) }
  d.modRing (fun z => { z with xfers := mapPut z.xfers z.nextXfer t, nextXfer := z.nextXfer + 1 })

/-! ### Meanings -/

def execSqDoorbell (pair offset size : Nat) (w : Word) : State → Host.Outcome State Fault Refusal :=
  onDev (fun _ d => d.sqDoorbell pair offset size w)
def execCqDoorbell (pair offset size : Nat) (w : Word) : State → Host.Outcome State Fault Refusal :=
  onDev (fun _ d => d.cqDoorbell pair offset size w)
def execDescFetch (pair : Nat) (host : List Byte) : State → Host.Outcome State Fault Refusal :=
  onDev (fun bt d => d.descFetch bt pair host)
def execHeaderReread (pair : Nat) (host : List Byte) : State → Host.Outcome State Fault Refusal :=
  onDev (fun bt d => d.headerReread bt pair host)
def execCompletionRingRoom (pair : Nat) : State → Host.Outcome State Fault Refusal := onDev (fun bt d => d.ringRoom bt pair)
def execAttachGo (p : Party) (pair : Nat) (v : Word) : State → Host.Outcome State Fault Refusal :=
  onDev (fun bt d => d.attachWrite bt p pair v)
def execDetach (p : Party) (pair : Nat) (v : Word) : State → Host.Outcome State Fault Refusal :=
  onDev (fun bt d => d.attachWrite bt p pair v)
def execRearm (p : Party) (pair : Nat) (v : Word) : State → Host.Outcome State Fault Refusal :=
  onDev (fun bt d => d.attachWrite bt p pair v)

/-- HOST_IN: an inward transfer starts. -/
def execHostIn (pair : Nat) : State → Host.Outcome State Fault Refusal :=
  onDev (fun bt d => d.dispatchCtx bt pair 2 0 (fun x c d => d.startXfer x c true))

/-- HOST_OUT: an outward transfer starts. -/
def execHostOut (pair : Nat) : State → Host.Outcome State Fault Refusal :=
  onDev (fun bt d => d.dispatchCtx bt pair 3 0 (fun x c d => d.startXfer x c false))

def execHotReset (port : Nat) : State → Host.Outcome State Fault Refusal := onDev (fun bt d => d.freezePort bt port)
def execFunctionLevelReset (port : Nat) : State → Host.Outcome State Fault Refusal :=
  onDev (fun bt d => d.freezePort bt port)
def execBusMasterEnableCleared (port : Nat) : State → Host.Outcome State Fault Refusal :=
  onDev (fun bt d => d.freezePort bt port)

/-- COMPLETION_TIMEOUT: a read of host memory times out; only its own command ends (R349). -/
def execCompletionTimeout (x : Nat) : State → Host.Outcome State Fault Refusal :=
  onDev (fun bt d => match mapFind? d.ring.xfers x with
    | some t => if t.inward && t.data.isEmpty then (d.tear t.ctx t.ava t.len).endXfer bt x .hostLost else d
    | none => d)

/-- LINK_RETRAIN: invisible above the link layer but for the width and rate that PORT_STATUS reports (R327, R348). -/
def execLinkRetrain (port width rate l0p : Nat) : State → Host.Outcome State Fault Refusal :=
  onDev (fun _ d => if port < 4 then ((d.fset F.hptPortStatusWidth port width).fset F.hptPortStatusRate port rate).fset
    F.hptPortStatusL0pWidth port l0p else d)

end Sys2Proof.Machine
end

