-- ==== Sys2Proof/Machine/Frames.lean ====
section
/-! DEFINITION. Frames and charges: what a context's reservations hold (R31, R34), frame pools (R175, R199), wipes (R37), and
the entries of the KV Block Table (R170 to R174). -/

namespace Sys2Proof.Machine

/-! ### The queue of the promotion engine -/

/-- Add a request's move to the promotion engine's queue. -/
def Dev.addMove (d : Dev) (m : Move) : Dev :=
  d.modTier (fun z => { z with moves := mapPut z.moves z.nextMove m, nextMove := z.nextMove + 1 })

/-- Change a move. -/
def Dev.modMove (d : Dev) (n : Nat) (f : Move → Move) : Dev :=
  d.modTier (fun z => { z with moves := mapModify z.moves n f })

/-- Take a move off the queue. -/
def Dev.dropMove (d : Dev) (n : Nat) : Dev := d.modTier (fun z => { z with moves := mapErase z.moves n })

/-! ### What a context holds (R31, R308)

Some of it is charged by a counter of the context: its root, KV frames, window budgets and the frames that moves have taken, which
`owned` names. The rest, the pages and tables that the driver maps itself, is what its page table holds. -/

/-- The context that a frame's charge stands with, if a counter holds it. -/
def Dev.ownerOf (d : Dev) (dpa : Nat) : Option (Nat × Nat) := mapFind? d.tier.owned (dpa / 2 ^ 16)

/-- Note or forget the charge of a frame. -/
def Dev.own (d : Dev) (dpa c n : Nat) : Dev :=
  d.modTier (fun z => { z with owned := mapPut z.owned (dpa / 2 ^ 16) (c, n) })
def Dev.disown (d : Dev) (dpa : Nat) : Dev := d.modTier (fun z => { z with owned := mapErase z.owned (dpa / 2 ^ 16) })

/-- The entries of a table of `n` bytes that are not all zero: each holds a listed byte. -/
def Dev.tableSlots (d : Dev) (table n : Nat) : List Nat :=
  d.mem.foldl (fun l c => if table ≤ c.1 ∧ c.1 < table + n then listAdd l ((c.1 - table) / 8) else l) []

/-- What a table maps of a context's memory, with the tables below it: DPA[47:0], bytes, and the AVA of a page. -/
def Dev.heldFrom (d : Dev) (a : Nat) : Nat → Nat → Nat → Nat → List (Nat × Nat × Option Nat)
  | 0, _, _, _ => []
  | fuel + 1, lvl, table, base =>
    (d.tableSlots table (tableBytes lvl)).flatMap (fun i =>
      let e := memNat d.mem (table + 8 * i) 8
      let addr := bits e 59 8 * 256
      let ava := base + i * 2 ^ (levelShift lvl).1
      if !bit e 0 || d.pteBad a lvl e then []
      else if bit e 1 then (if d.isLocal a addr then [(addr % 2 ^ 48, 2 ^ (levelShift lvl).1, some ava)] else [])
      else (addr % 2 ^ 48, tableBytes (lvl + 1), none) :: d.heldFrom a fuel (lvl + 1) (addr % 2 ^ 48) ava)

/-- What the page table of a context holds below its root. -/
def Dev.mapping (d : Dev) (c : Nat) : List (Nat × Nat × Option Nat) :=
  d.heldFrom (d.partOfCtx c) 4 0 ((d.ctx c).root % 2 ^ 48) 0

/-- The frames of it, each once. -/
def Dev.held (d : Dev) (c : Nat) : List (Nat × Nat) := ((d.mapping c).map (fun p => (p.1, p.2.1))).foldl listAdd []

/-- The part of an extent that another covers. -/
def overlap (p q : Nat × Nat) : Option (Nat × Nat) :=
  let lo := max p.1 q.1
  let hi := min (p.1 + p.2) (q.1 + q.2)
  if lo < hi then some (lo, hi - lo) else none

/-- The memory behind a range of a context's addresses: DPA[47:0] and bytes of each part that is mapped to it. -/
def Dev.rangeParts (d : Dev) (c ava n : Nat) : List (Nat × Nat) :=
  (d.mapping c).filterMap (fun p => p.2.2.bind (fun b =>
    (overlap (b, p.2.1) (ava, n)).map (fun o => (p.1 + (o.1 - b), o.2))))

/-- Does a DPA lie in a shadow area that firmware has pinned (R32, R216)? -/
def Dev.inArea (d : Dev) (x : Nat) : Bool := d.tier.areas.any (fun r => decide (r.2.1 ≤ x) && decide (x < r.2.1 + r.2.2))

/-- The pages of the windows of a context (R208). -/
def Dev.winPages (d : Dev) (c : Nat) : List WPage :=
  (d.tier.wins.filter (fun w => w.2.ctx == c)).flatMap (fun w => w.2.ents.flatMap (fun e => e.pages))

/-- The frames that the driver has mapped for a context and no counter charges: what its page table holds but pinned areas and the HBM
frames of windowed pages, which their BUDGET covers, and the DDR frames that windowed pages in HBM still hold (R209). -/
def Dev.mapped (d : Dev) (c : Nat) : List (Nat × Nat) :=
  let ws := d.winPages c
  let free := fun (p : Nat × Nat) => (d.ownerOf p.1).isNone && !d.inArea p.1
  ((d.held c).filter (fun p => free p && !ws.any (fun w => w.hbm == some p.1))) ++
    (ws.filter (fun w => w.hbm.isSome && free (w.ddr, 0))).map (fun w => (w.ddr, 2 ^ w.lg))

/-- The bytes of a tier that a context has in use. -/
def Dev.inUse (d : Dev) (c : Nat) (ddr : Bool) : Nat :=
  let x := d.ctx c
  (if ddr then x.ddrB else x.hbmB) + (((d.mapped c).filter (fun p => isDdr p.1 == ddr)).map (fun p => p.2)).sum

/-! ### Charges -/

/-- Put bytes of a tier on a context's counter. -/
def Dev.addCharge (d : Dev) (c : Nat) (ddr : Bool) (n : Nat) : Dev :=
  d.modCtx c (fun x => if ddr then { x with ddrB := x.ddrB + n } else { x with hbmB := x.hbmB + n })

/-- Charge bytes of a tier to a context, within its reservation (R34). -/
def Dev.charge (d : Dev) (c : Nat) (ddr : Bool) (n : Nat) : Option Dev :=
  let x := d.ctx c
  if d.inUse c ddr + n ≤ 2 ^ 21 * (if ddr then x.res.ddr else x.res.hbm) then some (d.addCharge c ddr n) else none

/-- A frame that the driver mapped is put on its context's counter, so that its charge lasts until its wipe ends (R37, R199). -/
def Dev.takeOver (d : Dev) (c dpa n : Nat) : Dev :=
  if (d.ownerOf dpa).isSome then d else (d.addCharge c (isDdr dpa) n).own dpa c n

/-- End a charge. -/
def Dev.uncharge (d : Dev) (c : Nat) (ddr : Bool) (n : Nat) : Dev :=
  d.modCtx c (fun x => if ddr then { x with ddrB := x.ddrB - n } else { x with hbmB := x.hbmB - n })

/-- Charge KV blocks. -/
def Dev.chargeKv (d : Dev) (c n : Nat) : Option Dev :=
  let x := d.ctx c
  if x.kvUse + n ≤ x.res.kv then some (d.setCtx c { x with kvUse := x.kvUse + n }) else none

/-- End the charge of KV blocks. -/
def Dev.unchargeKv (d : Dev) (c n : Nat) : Dev := d.modCtx c (fun x => { x with kvUse := x.kvUse - n })

/-! ### Pools -/

/-- A pool. -/
def Dev.pool (d : Dev) (k : Nat) : Pool := mapGet {} d.seq.pools k

/-- Change a pool. -/
def Dev.modPool (d : Dev) (k : Nat) (f : Pool → Pool) : Dev :=
  d.modSeq (fun z => { z with pools := mapSet {} z.pools k (f (d.pool k)) })

/-- The keys of KV pool n and page pool n of the partition at die `a`. -/
def kvPool (a n : Nat) : Nat := 8 * a + n
def pagePool (a n : Nat) : Nat := 64 + 4 * a + n

/-- Is a pool VALID? -/
def Dev.poolValid (d : Dev) (k : Nat) : Bool :=
  if k < 64 then d.fon F.seqePoolCfgValid k else d.fon F.prtPgpoolCfgValid (k - 64)

/-- A pool's capacity in frames. -/
def Dev.poolCap (d : Dev) (k : Nat) : Nat :=
  if k < 64 then d.fget F.seqePoolCapCap k else d.fget F.prtPgpoolCapCap (k - 64)

/-- The tier of a pool: DDR? -/
def Dev.poolDdr (d : Dev) (k : Nat) : Bool := if k < 64 then d.fon F.seqePoolCfgTier k else decide (2 ≤ (k - 64) % 4)

/-- The frame size of a pool (R172, R220). -/
def Dev.poolFrame (d : Dev) (k : Nat) : Nat :=
  if k < 64 then 2 ^ (16 + d.fget F.seqePoolCfgClass k) else if k % 2 = 1 then 2 ^ 21 else 2 ^ 16

/-- The page pool of a tier and page size. -/
def pagePoolOf (a : Nat) (ddr : Bool) (lg : Nat) : Nat := pagePool a (2 * b2n ddr + (if lg = 21 then 1 else 0))

/-- The VALID KV pools of a tier and class, lowest number first. -/
def Dev.kvPools (d : Dev) (a : Nat) (ddr : Bool) (cls : Nat) : List Nat :=
  ((List.range 8).map (kvPool a)).filter (fun k =>
    d.fon F.seqePoolCfgValid k && d.fon F.seqePoolCfgTier k == ddr && d.fget F.seqePoolCfgClass k == cls)

/-- Take the newest frame of a pool. -/
def Dev.poolTake (d : Dev) (k : Nat) : Option (Nat × Dev) :=
  match (d.pool k).free.getLast? with
  | some f => if d.poolValid k then
      some (f, d.modPool k (fun p => { p with free := p.free.dropLast, lent := listAdd p.lent f })) else none
  | none => none

/-- Give a frame that was never used back to its pool. -/
def Dev.poolGive (d : Dev) (k f : Nat) : Dev :=
  d.modPool k (fun p => { p with free := p.free ++ [f], lent := listDel p.lent f })

/-- Take a KV frame of a tier and class for a slot of die `n`; an empty pool is counted (R175). The answer names the pool. -/
def Dev.kvTake (d : Dev) (n a : Nat) (ddr : Bool) (cls : Nat) : Option (Nat × Nat) × Dev :=
  match (d.kvPools a ddr cls).find? (fun k => !(d.pool k).free.isEmpty) with
  | some k => match d.poolTake k with
    | some (f, d) => (some (k, f), d)
    | none => (none, d)
  | none => (none, d.fbump F.seqeStat0PoolEmpty n 1)

/-- Take a page frame; a take from an empty page pool writes a Trouble Log entry (R212). -/
def Dev.pageTake (bt : Nat) (d : Dev) (a : Nat) (ddr : Bool) (lg : Nat) : Option Nat × Dev :=
  match d.poolTake (pagePoolOf a ddr lg) with
  | some (f, d) => (some f, d)
  | none => (none, d.tlog bt 6 10 (some a))

/-- The DPA of a frame number, DPA[47:16]. -/
def frameDpa (f : Nat) : Nat := f * 2 ^ 16

/-! ### Entries of the KV Block Table -/

/-- The DPA of an entry (R170). -/
def Dev.kvAddr (d : Dev) (i : Nat) : Nat := d.fget F.seqeKvbtBaseAddr (i / 2097152) * 2 ^ 24 + 8 * (i % 2097152)

/-- An entry. -/
def Dev.kvGet (d : Dev) (i : Nat) : Nat := memNat d.mem (d.kvAddr i) 8

/-- Write an entry. -/
def Dev.kvPut (d : Dev) (i v : Nat) : Dev := d.setMem (memPutNat d.mem (d.kvAddr i) 8 v)

/-- Fields of an entry (R173). -/
def kvValid (e : Nat) : Bool := bit e 0
def kvTier (e : Nat) : Bool := bit e 1
def kvPinned (e : Nat) : Bool := bit e 2
def kvBusy (e : Nat) : Bool := bit e 4
def kvShared (e : Nat) : Bool := bit e 5
def kvGen (e : Nat) : Nat := bits e 15 8
def kvFrame (e : Nat) : Nat := bits e 47 16
def kvRefs (e : Nat) : Nat := bits e 63 48
/-- The origin of a SHARED entry. -/
def kvOrigin (e : Nat) : Nat := bits e 39 16

/-- Put an entry together from its low six flags, GEN, FRAME and REFS. -/
def kvMake (flags gen frame refs : Nat) : Nat := flags + gen % 256 * 2 ^ 8 + frame * 2 ^ 16 + refs * 2 ^ 48

/-- Replace the flag bits [5:0] of an entry. -/
def kvFlags (e flags : Nat) : Nat := e - bits e 5 0 + flags

/-- Replace FRAME. -/
def kvWithFrame (e f : Nat) : Nat := kvMake (bits e 5 0) (kvGen e) f (kvRefs e)

/-- Replace REFS. -/
def kvWithRefs (e n : Nat) : Nat := kvMake (bits e 5 0) (kvGen e) (kvFrame e) n

/-- The states of an entry (R174). -/
inductive KvSt where
  | free | wiping | hbm | ddr | promoting | demoting | shared | copying
  deriving DecidableEq, Repr

/-- The state of an entry. -/
def kvState (e : Nat) : KvSt :=
  if kvValid e then
    if kvShared e then (if kvBusy e then .copying else .shared)
    else match kvTier e, kvBusy e with
      | false, false => .hbm
      | true, false => .ddr
      | true, true => .promoting
      | false, true => .demoting
  else if kvBusy e then .wiping else .free

/-- Flag bits of the states: VALID 1, TIER 2, PINNED 4, WRITABLE 8, BUSY 16, SHARED 32. -/
def kvHbm : Nat := 9
def kvDdr : Nat := 3
def kvPromoting : Nat := 19
def kvDemoting : Nat := 17
def kvWiping : Nat := 16
def kvSharedF : Nat := 33
def kvCopying : Nat := 49

/-- A slot; one that is not listed is CLOSED. -/
def Dev.slot (d : Dev) (s : Nat) : Slot := mapGet {} d.seq.slots s

/-- Set a slot. -/
def Dev.setSlot (d : Dev) (s : Nat) (x : Slot) : Dev :=
  d.modSeq (fun z => { z with slots := mapSet {} z.slots s x })

/-- Change a slot. -/
def Dev.modSlot (d : Dev) (s : Nat) (f : Slot → Slot) : Dev := d.setSlot s (f (d.slot s))

/-- The span entries of a slot. -/
def Slot.span (x : Slot) : List Nat := (List.range x.spanLen).map (fun i => x.spanBase + i)

/-- Bytes of a slot's frames (R172). -/
def Slot.frameBytes (x : Slot) : Nat := 2 ^ (16 + x.cls)

/-- Does a slot own an entry: is it in the span of a sequence that is neither CLOSED nor CLOSING? -/
def Dev.kvOwned (d : Dev) (i : Nat) : Bool :=
  d.seq.slots.any (fun p => p.2.st ≠ .closed && p.2.st ≠ .closing && decide (p.2.spanBase ≤ i) &&
    decide (i < p.2.spanBase + p.2.spanLen))

/-! ### Wipes (R37) -/

/-- Begin the wipe of a frame. That of a DDR frame is a background request to the mover of the die whose channel holds it (R204). -/
def Dev.startWipe (bt : Nat) (d : Dev) (w : Wipe) : Dev :=
  let n := d.tier.nextWipe
  let d := d.modTier (fun z => { z with wipes := mapPut z.wipes n w, nextWipe := n + 1 })
  let d := if isDdr w.frame then
      d.addMove { part := w.part, die := ((d.ddrPlace w.frame).map (fun p => p.1 / 2)).getD w.part, obj := .wipe n, up := false
                  cls := .background, src := w.frame, dst := some w.frame, len := w.len, since := bt, req := d.tier.nextMove }
    else d
  match w.pool with
  | some k => d.modPool k (fun p => { p with wiping := p.wiping + 1, lent := listDel p.lent (w.frame / 2 ^ 16) })
  | none => d

/-- An entry that holds a frame and that nothing refers to enters WIPING. -/
def Dev.wipeEntry (bt : Nat) (d : Dev) (i : Nat) : Dev :=
  let e := d.kvGet i
  match mapFind? d.seq.kvOwn i with
  | some o =>
    (d.kvPut i (kvMake kvWiping (kvGen e) (kvFrame e) 0)).startWipe bt
      { part := d.partOfDie (i / 2097152), frame := frameDpa (kvFrame e), len := 2 ^ (16 + o.cls), pool := some o.pool,
        charge := some o.ctx, entry := some i }
  | none => d.kvPut i (kvMake 0 (kvGen e) 0 0)

/-- One sharer of an origin fewer; an orphan without sharers is released (R183). -/
def Dev.unshare (bt : Nat) (d : Dev) (o : Nat) : Dev :=
  let e := d.kvGet o
  let d := d.kvPut o (kvWithRefs e (kvRefs e - 1))
  if kvRefs e ≤ 1 ∧ ¬d.kvOwned o then
    match kvState (d.kvGet o) with
    | .hbm => d.wipeEntry bt o
    | .ddr => d.wipeEntry bt o
    | _ => d
  else d

/-- Release one entry of a closing sequence (R183). One whose move is in flight is released when the move ends (R37). -/
def Dev.releaseEntry (bt : Nat) (d : Dev) (c i : Nat) : Dev :=
  let e := d.kvGet i
  match kvState e with
  | .hbm => if kvRefs e = 0 then d.wipeEntry bt i else d
  | .ddr => if kvRefs e = 0 then d.wipeEntry bt i else d
  | .shared => ((d.kvPut i (kvMake 0 (kvGen e) 0 0)).unchargeKv c 1).unshare bt (kvOrigin e)
  | _ => d

/-- Is an entry still in the way of its slot's CLOSED: VALID and no orphan (R183)? -/
def kvBlocksClose (e : Nat) : Bool :=
  match kvState e with
  | .free => false
  | .wiping => false
  | .hbm => kvRefs e == 0
  | .ddr => kvRefs e == 0
  | _ => true

/-- A CLOSING slot whose entries are released becomes CLOSED, its charge ends, and its CLOSE completes. -/
def Dev.settleSlot (bt : Nat) (d : Dev) (s : Nat) : Dev :=
  let x := d.slot s
  if x.st = .closing ∧ ¬(x.span.any (fun i => kvBlocksClose (d.kvGet i))) then
    let d := (d.setSlot s {}).modCtx x.ctx (fun c => { c with slotUse := c.slotUse - 1 })
    match x.closeReq with
    | some (k, t) => d.complete bt k t .ok
    | none => d
  else d

/-- Settle every slot of a context that is CLOSING. -/
def Dev.settleSlots (bt : Nat) (d : Dev) (c : Nat) : Dev :=
  (d.seq.slots.filter (fun p => p.2.ctx == c && p.2.st = .closing)).foldl (fun d p => d.settleSlot bt p.1) d

/-- The context a move works for. -/
def Dev.moveCtx (d : Dev) (m : Move) : Nat :=
  match m.obj with
  | .page c _ _ => c
  | .block i s => match mapFind? d.seq.kvOwn i with
    | some o => o.ctx
    | none => (d.slot s).ctx
  | .copy _ s => (d.slot s).ctx
  | .wipe x => ((mapFind? d.tier.wipes x).bind (fun w => w.charge)).getD 4096
  | .digest _ _ => 4096

/-- An ending context whose frames are all wiped becomes FREE (R37). -/
def Dev.settleCtx (d : Dev) (c : Nat) : Dev :=
  let x := d.ctx c
  if x.ending ∧ x.kvUse = 0 ∧ x.slotUse = 0 ∧ x.jrnUse = 0 ∧ ¬(d.tier.wipes.any (fun w => w.2.charge == some c)) ∧
      ¬(d.tier.moves.any (fun m => d.moveCtx m.2 == c)) ∧ ¬(d.tier.owned.any (fun o => o.2.1 == c)) then
    d.setCtx c {}
  else d

/-- May a frame be wiped now? HBM is wiped by Tour, which needs the command slots: they must not be with scrub or test mode
(R297). -/
def Dev.wipeMay (d : Dev) (x : Nat) : Bool :=
  match d.regionOf x with
  | some r => r.chans.all (fun c => d.fget F.hbmcChSlotOwner c != 1 && d.fget F.hbmcChSlotOwner c != 3)
  | none => true

/-- The frame goes back to its pool; one whose page pool is not VALID or full joins none (R199). -/
def Dev.poolReturn (d : Dev) (k f : Nat) : Dev :=
  d.modPool k (fun p => { p with
    wiping := p.wiping - 1
    free := if k < 64 ∨ (d.poolValid k ∧ p.free.length < d.poolCap k) then p.free ++ [f] else p.free })

/-- The end of a wipe: zeros, the frame in its pool, the charge ended, the entry FREE with its GEN advanced (R37, R173). Journal entries
that were wiped are free again. -/
def Dev.endWipe (bt : Nat) (d : Dev) (x : Nat) (w : Wipe) : Dev :=
  let d := d.modTier (fun z => { z with wipes := mapErase z.wipes x })
  let d := d.memClear w.frame w.len
  let d := match w.pool with
    | some k => d.poolReturn k (w.frame / 2 ^ 16)
    | none => d
  let d := match w.entry with
    | some i =>
      let d := (d.kvPut i (kvMake 0 (kvGen (d.kvGet i) + 1) 0 0))
      match mapFind? d.seq.kvOwn i with
      | some o => (d.unchargeKv o.ctx 1).modSeq (fun z => { z with kvOwn := mapErase z.kvOwn i })
      | none => d
    | none => d
  match w.charge with
  | some c =>
    let d := (d.uncharge c (isDdr w.frame) w.len).modCtx c (fun x => { x with jrnUse := x.jrnUse - w.journal })
    (d.settleSlots bt c).settleCtx c
  | none => d

/-! ### Closing a sequence (R183) -/

/-- Take a slot's flag event off its wheel. -/
def Dev.cancelFlag (d : Dev) (s : Nat) : Dev := (d.disarm (s / 2048) (.flag s)).disarm (s / 2048) (.level3 s)

/-- End the open step of a slot and write its completion (R181). -/
def Dev.endStep (bt : Nat) (d : Dev) (s : Nat) (st : Status) (token accepted : Nat) : Dev :=
  let x := d.slot s
  if x.stepOpen then
    let d := d.cancelFlag s
    let d := d.setSlot s { x with
      stepOpen := false, fallen := false, flag := none, draft := none, lastEnd := some (x.serial, st) }
    let d := if st = .dataPoison then d.fbump F.seqeStat2Poison (s / 2048) 1 else d
    d.complete bt x.stepPair x.stepTag st x.level
      (token + x.length * 2 ^ 32 + x.stepNo * 2 ^ 64 + accepted * 2 ^ 96)
  else d

/-- Release the entries of a slot that becomes CLOSING. -/
def Dev.closeSlot (bt : Nat) (d : Dev) (s : Nat) (req : Option (Nat × Nat)) : Dev :=
  let x := d.slot s
  let d := d.setSlot s { x with st := .closing, closeReq := req, held := [], waiters := [], after := none, stopping := false }
  (x.span.foldl (fun d i => d.releaseEntry bt x.ctx i) d).settleSlot bt s

end Sys2Proof.Machine
end

