-- ==== Sys2Proof/Machine/Seq.lean ====
section
/-! DEFINITION. Sequence requests (chapter 07): open, step, adjourn, resume, close, share, extend, the frame pools, and the
moves and copies of KV blocks. -/

namespace Sys2Proof.Machine

/-! ### Moves of KV blocks (R174, R184) -/

/-- The tier moves of a slot's blocks. -/
def Dev.blockMoves (d : Dev) (s : Nat) : List (Nat × Move) :=
  d.tier.moves.filter (fun m => match m.2.obj with
    | .block _ s' => s' == s
    | _ => false)

/-- Queue the move of one block for a request. -/
def Dev.moveBlock (bt : Nat) (d : Dev) (req s i : Nat) (up : Bool) (cls : MoveCls) (pool frame : Nat) : Dev :=
  let src := frameDpa (kvFrame (d.kvGet i))
  let dst := frameDpa frame
  d.addMove { part := d.partOfSlot s, die := d.dieOfHbm (if up then dst else src), obj := .block i s, up, cls, src,
              dst := some dst, dpool := pool, len := (d.slot s).frameBytes, since := bt, req }

/-- Take `n` frames of a tier and class, all or none. -/
def Dev.takeFrames (d : Dev) (die a : Nat) (ddr : Bool) (cls : Nat) : Nat → Option (List (Nat × Nat)) × Dev
  | 0 => (some [], d)
  | n + 1 =>
    match d.kvTake die a ddr cls with
    | (some pf, d1) => match d1.takeFrames die a ddr cls n with
      | (some l, d2) => (some (pf :: l), d2)
      | (none, d2) => (none, d2.poolGive pf.1 pf.2)
    | (none, d1) => (none, d1)

/-- Blocks that ADJOURN moves: in HBM, neither PINNED nor referenced (R184). -/
def Dev.movable (d : Dev) (x : Slot) : List Nat :=
  x.span.filter (fun i => let e := d.kvGet i; kvState e = .hbm && !kvPinned e && kvRefs e == 0)

/-- The DDR blocks of a span (R184). -/
def Dev.ddrBlocks (d : Dev) (x : Slot) : List Nat := x.span.filter (fun i => kvState (d.kvGet i) = .ddr)

/-- The blocks among those of a slot that no move waits for or moves yet. -/
def Dev.unqueued (d : Dev) (s : Nat) (bs : List Nat) : List Nat :=
  bs.filter (fun i => !(d.blockMoves s).any (fun m => m.2.obj == .block i s))

/-- Start the move of blocks to a tier, with their charge and frames, all or none (R41). -/
def Dev.startBlocks (bt : Nat) (d : Dev) (s : Nat) (bs : List Nat) (up : Bool) : Option Dev × Dev :=
  let x := d.slot s
  match d.charge x.ctx (!up) (bs.length * x.frameBytes) with
  | none => (none, d)
  | some d1 =>
    match d1.takeFrames (s / 2048) (d.partOfSlot s) (!up) x.cls bs.length with
    | (none, d2) => (none, d2.uncharge x.ctx (!up) (bs.length * x.frameBytes))
    | (some fs, d2) =>
      (some ((bs.zip fs).foldl
        (fun d p => d.moveBlock bt d1.tier.nextMove s p.1 up (if up then .demand else .background) p.2.1 p.2.2) d2), d2)

/-- Drop the moves of a slot that have not begun: their frames and charges are returned (R178, R184). -/
def Dev.dropUnbegun (d : Dev) (s : Nat) : Dev :=
  ((d.blockMoves s).filter (fun m => !m.2.begun)).foldl
    (fun d m => ((d.dropMove m.1).poolGive m.2.dpool (m.2.dst.getD 0 / 2 ^ 16)).uncharge (d.slot s).ctx (!m.2.up) m.2.len) d

/-- Complete the ADJOURN or RESUME in progress and those that joined it. -/
def Dev.finishWaiters (bt : Nat) (d : Dev) (s : Nat) (st : Status) (result : Nat) : Dev :=
  let ws := (d.slot s).waiters
  let d := d.modSlot s (fun x => { x with waiters := [], stopping := false, moved := 0, poisoned := false })
  ws.foldl (fun d w => d.complete bt w.1 w.2 st 0 result) d

/-- A RESUME on a sequence that is not moving (R178, R184): a block that an append promotes already arrives by that promotion. With
QUOTA the sequence stays OPEN, its blocks where they are (DEDUCED, log entry 135). -/
def Dev.startResume (bt : Nat) (d : Dev) (s k t : Nat) : Dev :=
  let d := d.modSlot s (fun x => { x with st := .open })
  match d.ddrBlocks (d.slot s) with
  | [] => d.complete bt k t .ok
  | bs =>
    match d.startBlocks bt s (d.unqueued s bs) true with
    | (some d, _) => d.modSlot s (fun x => { x with st := .resuming, waiters := [(k, t)] })
    | (none, d) => d.complete bt k t .quota

/-- An ADJOURN on an OPEN sequence without an open step. -/
def Dev.startAdjourn (bt : Nat) (d : Dev) (s k t : Nat) : Dev :=
  match d.movable (d.slot s) with
  | [] => (d.modSlot s (fun x => { x with st := .adjourned })).complete bt k t .ok
  | bs =>
    match d.startBlocks bt s bs false with
    | (some d, _) => d.modSlot s (fun x => { x with st := .adjourning, waiters := [(k, t)], moved := 0 })
    | (none, d) => d.complete bt k t .quota

/-- When no block of an adjourn or resume is left to move, it ends; what stopped it follows (R178). -/
def Dev.settleBlocks (bt : Nat) (d : Dev) (s : Nat) : Dev :=
  let x := d.slot s
  if (d.blockMoves s).isEmpty ∧ (x.st = .adjourning ∨ x.st = .resuming) then
    let st := if x.poisoned then Status.dataPoison else .ok
    let result := if x.st = .adjourning then x.moved + b2n x.stopping * 2 ^ 32 else 0
    let next := if x.st = .adjourning ∧ ¬x.stopping then SeqSt.adjourned else .open
    let d := (d.finishWaiters bt s st result).modSlot s (fun x => { x with st := next, after := none })
    match x.after with
    | some r => if r.at_ 0 1 = 6 then d.closeSlot bt s (some (r.pair, r.tag)) else d.startResume bt s r.pair r.tag
    | none => d
  else d

/-- Stop the adjourn or resume of a slot once the blocks already moving have finished (R184). -/
def Dev.stopBlocks (bt : Nat) (d : Dev) (s : Nat) (after : Option Desc) : Dev :=
  ((d.modSlot s (fun x => { x with stopping := true, after := x.after.or after })).dropUnbegun s).settleBlocks bt s

/-- A block's move begins: its entry is BUSY (R174). -/
def Dev.beginBlock (d : Dev) (i : Nat) (up : Bool) : Dev :=
  let e := d.kvGet i
  d.kvPut i (kvFlags e ((if up then kvPromoting else kvDemoting) + 4 * b2n (kvPinned e)))

/-- Does an append of the open step of a slot wait for a block (R185)? -/
def Dev.appendWaits (d : Dev) (s : Nat) : Bool := d.eng.cmds.any (fun c => c.2.op == .kva && c.2.held.any (fun a => a.slot == s))

/-- The commit of a block's move (R174, R217): one update of the entry; the old frame is wiped. A step whose append waits on a
promotion that failed ends with DATA_POISON (R185), in any state of the sequence; ADJOURN counts the blocks it moves down (R177). -/
def Dev.commitBlock (bt : Nat) (d : Dev) (n : Nat) (m : Move) (i s : Nat) : Dev :=
  let e := d.kvGet i
  let dst := m.dst.getD 0
  let bad := d.poisoned m.src m.len
  let d := (d.dropMove n).frameCopy m.src dst m.len
  let d := if bad then d.fbump F.prtPromStat2Poison m.part 1 else d
  let d := d.kvPut i (kvWithFrame (kvFlags e ((if m.up then kvHbm else kvDdr) + 4 * b2n (kvPinned e))) (dst / 2 ^ 16))
  let d := match mapFind? d.seq.kvOwn i with
    | some o =>
      let d := d.modSeq (fun z => { z with kvOwn := mapPut z.kvOwn i { o with pool := m.dpool } })
      d.startWipe bt { part := m.part, frame := m.src, len := m.len, pool := some o.pool, charge := some o.ctx, entry := none }
    | none => d
  let x := d.slot s
  match x.st with
  | .closing => (d.releaseEntry bt x.ctx i).settleSlot bt s
  | .adjourning =>
    let d := if bad ∧ m.up then d.endStep bt s .dataPoison 0 0 else d
    (d.modSlot s (fun x => { x with moved := if m.up then x.moved else x.moved + 1 })).settleBlocks bt s
  | .resuming =>
    let d := if bad ∧ d.appendWaits s then d.endStep bt s .dataPoison 0 0 else d
    (d.modSlot s (fun x => { x with poisoned := x.poisoned || bad })).settleBlocks bt s
  | _ => if bad then d.endStep bt s .dataPoison 0 0 else d

/-- The end of a copy on write (R182): the positions below LENGTH, the entry in HBM, one reference less. -/
def Dev.commitCopy (bt : Nat) (d : Dev) (n : Nat) (m : Move) (i s : Nat) : Dev :=
  let x := d.slot s
  let e := d.kvGet i
  let o := kvOrigin e
  let dst := m.dst.getD 0
  let src := frameDpa (kvFrame (d.kvGet o))
  let cnt := min 32 (x.length - 32 * (i - x.spanBase))
  let d := (List.range (x.layersM1 + 1)).foldl
    (fun d l => d.frameCopy (src + l * 32 * x.layerBytes) (dst + l * 32 * x.layerBytes) (cnt * x.layerBytes)) (d.dropMove n)
  let d := d.kvPut i (kvMake kvHbm (kvGen e) (dst / 2 ^ 16) 0)
  let d := d.modSeq (fun z => { z with kvOwn := mapPut z.kvOwn i { ctx := x.ctx, pool := m.dpool, cls := x.cls } })
  let d := (d.fbump F.seqeStat0CowCopies (s / 2048) 1).unshare bt o
  if x.st = .closing then (d.releaseEntry bt x.ctx i).settleSlot bt s else d

/-- KV_MOVE_COMMIT: a block whose bursts are all made, or a copy, commits. -/
def Dev.kvCommit (bt : Nat) (d : Dev) (n : Nat) : Dev :=
  match mapFind? d.tier.moves n with
  | some m => match m.obj with
    | .block i s => if m.moved = m.len ∧ m.begun then (d.commitBlock bt n m i s).settleCtx (d.moveCtx m) else d
    | .copy i s => (d.commitCopy bt n m i s).settleCtx (d.moveCtx m)
    | _ => d
  | none => d

/-! ### Requests -/

/-- Has the close of the sequence been received (R40)? -/
def Slot.closeSeen (x : Slot) : Bool :=
  x.st = .closing || x.held.any (fun r => r.at_ 0 1 == 6) || (match x.after with
    | some r => r.at_ 0 1 == 6
    | none => false)

/-- The Sequence Engine of a slot is enabled and the slot lies in the partition (R177, R197). -/
def Dev.slotOk (d : Dev) (c s : Nat) : Bool :=
  decide (s < 16384) && d.partOfSlot s == d.partOfCtx c && d.fon F.seqeCtrlEnable (s / 2048)

/-- Dispatch a request that names an open sequence of its context (R39, R40); `late` requests are taken after a close has
been received. -/
def Dev.seqReq (bt : Nat) (d : Dev) (k op : Nat) (late : Bool) (f : Desc → Nat → Dev → Dev) : Dev :=
  d.dispatchCtx bt k 4 op (fun r c d =>
    let s := r.at_ 2 2
    let x := d.slot s
    if d.slotOk c s ∧ x.st ≠ .closed ∧ x.st ≠ .closing ∧ x.ctx = c ∧ (late ∨ ¬x.closeSeen) then f r s d
    else d.finish bt r .range)

/-- Do entries `[lo, lo + n)` lie in the partition's entries? -/
def Dev.entriesOk (d : Dev) (a lo n : Nat) : Bool :=
  decide (2097152 * a ≤ lo) && decide (lo + n ≤ 2097152 * (a + d.dies a))

/-- May a span be taken for slot `s` (R176)? `fresh` are the entries that it adds. -/
def Dev.spanOk (d : Dev) (s lo n : Nat) (fresh : List Nat) : Bool :=
  d.entriesOk (d.partOfSlot s) lo n &&
    !(d.seq.slots.any (fun p => p.1 != s && p.2.st ≠ .closed && decide (lo < p.2.spanBase + p.2.spanLen) &&
      decide (p.2.spanBase < lo + n))) &&
    fresh.all (fun i => kvState (d.kvGet i) = .free)

/-- The smallest frame class that holds `n` bytes (R172). -/
def classFor (n : Nat) : Nat := ((List.range 6).find? (fun c => decide (n ≤ 2 ^ (16 + c)))).getD 5

/-- OPEN. -/
def Dev.seqOpen (bt : Nat) (d : Dev) (k : Nat) : Dev :=
  d.dispatchCtx bt k 4 1 (fun r c d =>
    let s := r.at_ 2 2
    let lb := r.at_ 4 2
    let layers := r.at_ 6 1 + 1
    let base := r.at_ 8 3
    let len := bits (r.at_ 8 8) 56 32
    if ¬d.slotOk c s ∨ (d.slot s).st ≠ .closed ∨ lb % 64 ≠ 0 ∨ lb < 64 ∨ 65472 < lb ∨ 65536 < layers * lb ∨ len = 0 ∨
        ¬d.spanOk s base len ((List.range len).map (fun i => base + i)) then d.finish bt r .range
    else if (d.ctx c).res.slots < (d.ctx c).slotUse + 1 then d.finish bt r .quota
    else
      let d := d.modCtx c (fun x => { x with slotUse := x.slotUse + 1 })
      (d.setSlot s { st := .open, ctx := c, spanBase := base, spanLen := len, layerBytes := lb, layersM1 := layers - 1,
                     cls := classFor (32 * layers * lb) }).finish bt r .ok)

/-- The flag time a STEP gives (R72): `none` when it is out of range. -/
def stepFlag (fetch form arg : Nat) : Option (Option Nat) :=
  match form with
  | 0 => some none
  | 1 => if fetch + 2 ^ 40 < arg then none else some (some arg)
  | 2 => if arg < 2 ^ 32 then some (some (fetch + arg)) else none
  | _ => none

/-- Open a step (R179). -/
def Dev.openStep (bt : Nat) (d : Dev) (s : Nat) (r : Desc) (flag : Option Nat) (ceil : Nat) : Dev :=
  let fl := r.at_ 1 1
  let n := d.seq.nextSerial + 1
  let d := d.modSeq (fun z => { z with nextSerial := n })
  let d := d.modSlot s (fun x => { x with
    st := if x.st = .adjourned then .open else x.st
    stepNo := (x.stepNo + 1) % 2 ^ 32, pending := 0, stepOpen := true, fallen := false, level := 0, tree := bit fl 3
    ceil, flag, shadows := [], stepPair := r.pair, stepTag := r.tag, draft := if bit fl 2 then some (r.at_ 4 4) else none
    l3 := bits (r.at_ 16 8) 11 0, serial := n })
  match flag with
  | some t => d.arm bt (s / 2048) (.flag s) 2 t
  | none => d

/-- Apply a STEP to a sequence without an open step. -/
def Dev.applyStep (bt : Nat) (d : Dev) (s : Nat) (r : Desc) : Dev :=
  let x := d.slot s
  let ceil := bits (r.at_ 1 1) 7 4
  let top := (d.ctx x.ctx).ceil
  match stepFlag r.bt (bits (r.at_ 1 1) 1 0) (r.at_ 8 8) with
  | none => d.finish bt r .range
  | some flag =>
    if ceil ≠ 15 ∧ (3 < ceil ∨ top < ceil) then d.finish bt r .range
    else
      let d := if x.st = .adjourning then d.stopBlocks bt s none else d
      d.openStep bt s r flag (if ceil = 15 then top else ceil)

/-- SHARE (R182). -/
def Dev.shareReq (bt : Nat) (d : Dev) (s : Nat) (r : Desc) : Dev :=
  let x := d.slot s
  let src := r.at_ 4 2
  let y := d.slot src
  let n := bits (r.at_ 8 8) 24 0
  let len := r.at_ 16 4
  let origin := fun (i : Nat) => let e := d.kvGet i; if kvShared e then kvOrigin e else i
  let pairs := (List.range n).map (fun b => (x.spanBase + b, origin (y.spanBase + b)))
  if y.st ≠ .closed ∧ y.st ≠ .closing ∧ y.ctx = x.ctx ∧ src ≠ s ∧ x.st = .open ∧ x.length = 0 ∧ ¬x.stepOpen ∧
      n ≤ x.spanLen ∧ n ≤ y.spanLen ∧ pairs.all (fun p => !kvValid (d.kvGet p.1) && !kvBusy (d.kvGet p.1)) ∧
      (List.range n).all (fun b => kvValid (d.kvGet (y.spanBase + b))) ∧ len ≤ y.length ∧ len ≤ 32 * n ∧
      pairs.all (fun p => decide (kvRefs (d.kvGet p.2) < 65535)) then
    match d.chargeKv x.ctx n with
    | none => d.finish bt r .quota
    | some d =>
      let d := pairs.foldl (fun d p =>
        let e := d.kvGet p.1
        let o := d.kvGet p.2
        (d.kvPut p.1 (kvMake kvSharedF (kvGen e) (p.2 + kvGen o * 2 ^ 24) 0)).kvPut p.2 (kvWithRefs o (kvRefs o + 1))) d
      (d.modSlot s (fun x => { x with length := len })).finish bt r .ok
  else d.finish bt r .range

/-- EXTEND (R176, R177). -/
def Dev.extendReq (bt : Nat) (d : Dev) (s : Nat) (r : Desc) : Dev :=
  let x := d.slot s
  let n := bits (r.at_ 8 8) 24 0
  if x.spanLen < n ∧ d.spanOk s x.spanBase n ((List.range (n - x.spanLen)).map (fun i => x.spanBase + x.spanLen + i)) then
    (d.setSlot s { x with spanLen := n }).finish bt r .ok
  else d.finish bt r .range

/-- Must a request wait on the sequence as it stands (R178)? What follows a stopped adjourn goes first. -/
def Slot.mustHold (x : Slot) (op : Nat) : Bool :=
  match op with
  | 2 => x.stepOpen
  | 4 => x.stepOpen || x.st = .resuming || x.after.isSome
  | 6 => x.stepOpen || x.after.isSome
  | _ => x.after.isSome

/-- Apply a request that need not wait. -/
def Dev.applyReq (bt : Nat) (d : Dev) (s : Nat) (r : Desc) : Dev :=
  let x := d.slot s
  let join := fun (d : Dev) => d.modSlot s (fun x => { x with waiters := x.waiters ++ [(r.pair, r.tag)] })
  match r.at_ 0 1, x.st with
  | 2, _ => d.applyStep bt s r
  | 4, .adjourned => d.finish bt r .ok
  | 4, .adjourning => join d
  | 4, _ => d.startAdjourn bt s r.pair r.tag
  | 5, .adjourning => d.stopBlocks bt s (some r)
  | 5, .resuming => join d
  | 5, _ => d.startResume bt s r.pair r.tag
  | 7, _ => d.shareReq bt s r
  | 8, _ => d.extendReq bt s r
  | _, .adjourning => d.stopBlocks bt s (some r)
  | _, .resuming => d.stopBlocks bt s (some r)
  | _, _ => (d.dropUnbegun s).closeSlot bt s (some (r.pair, r.tag))

/-- Take a request in order of arrival: it waits behind what is held (R40), up to 8 requests (R178). -/
def Dev.takeReq (bt : Nat) (d : Dev) (s : Nat) (r : Desc) : Dev :=
  let x := d.slot s
  if x.mustHold (r.at_ 0 1) ∨ x.held ≠ [] then
    if x.held.length < 8 then d.setSlot s { x with held := x.held ++ [r] } else d.finish bt r .range
  else d.applyReq bt s r

/-- HELD_REQUEST_RELEASE: the oldest held request whose condition has ended takes effect. -/
def Dev.releaseHeld (bt : Nat) (d : Dev) (s : Nat) : Dev :=
  let x := d.slot s
  match x.held with
  | r :: rs => if x.mustHold (r.at_ 0 1) then d else (d.setSlot s { x with held := rs }).applyReq bt s r
  | [] => d

/-- The frame byte of a position of a layer (R172). -/
def Slot.posOff (x : Slot) (layer p : Nat) : Nat := layer * 32 * x.layerBytes + p % 32 * x.layerBytes

/-- The frame that serves reads of a block, and whether there is one (R174). -/
def Dev.readFrame (d : Dev) (i : Nat) : Option Nat :=
  let e := d.kvGet i
  match kvState e with
  | .free => none
  | .wiping => none
  | .shared => some (frameDpa (kvFrame (d.kvGet (kvOrigin e))))
  | .copying => some (frameDpa (kvFrame (d.kvGet (kvOrigin e))))
  | _ => some (frameDpa (kvFrame e))

/-- The DPA of a position of a layer of a sequence, if its block has a frame. -/
def Dev.posDpa (d : Dev) (x : Slot) (layer p : Nat) : Option Nat :=
  (d.readFrame (x.spanBase + p / 32)).map (fun f => f + x.posOff layer p)

/-- Entries of a span in states that a test accepts. -/
def Dev.countState (d : Dev) (x : Slot) (f : KvSt → Bool) : Nat := (x.span.filter (fun i => f (kvState (d.kvGet i)))).length

/-- The 64 bytes that QUERY writes (R177). -/
def Dev.queryBytes (d : Dev) (s : Nat) : List Byte :=
  let x := d.slot s
  let st := match x.st with
    | .closed => 0
    | .open => 1
    | .adjourning => 2
    | .adjourned => 3
    | .resuming => 4
    | .closing => 5
  if x.st = .closed then leBytes 64 0
  else
    leBytes 4 (st + b2n x.stepOpen * 8 + b2n x.fallen * 16 + x.level * 32 + b2n (x.tree && x.stepOpen) * 128 + x.ctx * 2 ^ 16)
      ++ leBytes 4 x.length ++ leBytes 4 x.stepNo ++ leBytes 4 x.pending ++ leBytes 4 x.spanBase ++ leBytes 4 x.spanLen
      ++ leBytes 4 (x.layerBytes + x.layersM1 * 2 ^ 16 + x.cls * 2 ^ 24)
      ++ leBytes 4 (d.countState x (fun q => q = .hbm || q = .demoting || q = .promoting))
      ++ leBytes 4 (d.countState x (fun q => q = .ddr || q = .promoting))
      ++ leBytes 4 (d.countState x (fun q => q = .shared || q = .copying))
      ++ leBytes 8 (x.flag.getD 0) ++ leBytes 8 (if x.stepOpen then x.stepTag else 0)
      ++ leBytes 4 (x.draft.getD 0) ++ leBytes 4 (if x.stepOpen then x.l3 else 0)

/-- POOL_GROW and PAGE_POOL_GROW: `n` contiguous frames from a DPA join pool `k` (R177, R220). -/
def Dev.poolGrow (d : Dev) (a k dpa n : Nat) : Option Dev :=
  let sz := d.poolFrame k
  if d.poolValid k ∧ dpa % sz = 0 ∧ d.inTier (d.poolDdr k) a dpa (n * sz) ∧ dpa < 2 ^ 48 ∧
      (d.pool k).free.length + (d.pool k).wiping + n ≤ d.poolCap k then
    some (d.modPool k (fun p => { p with free := p.free ++ (List.range n).map (fun i => (dpa + i * sz) / 2 ^ 16) }))
  else none

/-- A sequence request for a pool. -/
def Dev.kvPoolGrow (bt : Nat) (d : Dev) (k : Nat) : Dev :=
  d.dispatchCtx bt k 4 0x10 (fun r c d =>
    let a := d.partOfCtx c
    match d.poolGrow a (kvPool a (bits (r.at_ 1 1) 2 0)) (r.at_ 8 8) (r.at_ 16 4) with
    | some d => d.finish bt r .ok
    | none => d.finish bt r .range)

/-! ### Flags (R73 to R79) -/

/-- FLAG_CHECK: in Vanan mode the step ends; else the sequence is fallen, and a declared draft arms the level-3 check at flag fall, which
is now (R73), plus the step's margin. -/
def Dev.flagCheck (bt : Nat) (d : Dev) (s : Nat) : Dev :=
  match d.fire bt (s / 2048) (.flag s) with
  | some d =>
    let x := d.slot s
    if x.stepOpen then
      if (d.ctx x.ctx).vanan then d.endStep bt s .flagFell 0 0
      else
        let d := d.setSlot s { x with fallen := true }
        match x.draft with
        | some _ => d.arm bt (s / 2048) (.level3 s) 2 (bt + x.l3 * 1000)
        | none => d
    else d
  | none => d

/-- LEVEL3_CHECK: an incomplete step whose ceiling is 3 completes with the draft token (R76). -/
def Dev.level3Check (bt : Nat) (d : Dev) (s : Nat) : Dev :=
  match d.fire bt (s / 2048) (.level3 s) with
  | some d =>
    let x := d.slot s
    if x.stepOpen ∧ x.ceil = 3 then
      match x.draft with
      | some t => (d.setSlot s { x with level := 3 }).endStep bt s .okDegraded t 0
      | none => d
    else d
  | none => d

/-! ### Meanings -/

def execLevel3Check (slot : Nat) : State → Host.Outcome State Fault Refusal := onDev (fun bt d => d.level3Check bt slot)
def execSeqOpen (pair : Nat) : State → Host.Outcome State Fault Refusal := onDev (fun bt d => d.seqOpen bt pair)
def execSeqStep (pair : Nat) : State → Host.Outcome State Fault Refusal :=
  onDev (fun bt d => d.seqReq bt pair 2 false (fun r s d => d.takeReq bt s r))
def execAdjourn (pair : Nat) : State → Host.Outcome State Fault Refusal :=
  onDev (fun bt d => d.seqReq bt pair 4 false (fun r s d => d.takeReq bt s r))
def execResume (pair : Nat) : State → Host.Outcome State Fault Refusal :=
  onDev (fun bt d => d.seqReq bt pair 5 false (fun r s d => d.takeReq bt s r))
def execSeqClose (pair : Nat) : State → Host.Outcome State Fault Refusal :=
  onDev (fun bt d => d.seqReq bt pair 6 false (fun r s d => d.takeReq bt s r))
def execShare (pair : Nat) : State → Host.Outcome State Fault Refusal :=
  onDev (fun bt d => d.seqReq bt pair 7 false (fun r s d => d.takeReq bt s r))
def execExtend (pair : Nat) : State → Host.Outcome State Fault Refusal :=
  onDev (fun bt d => d.seqReq bt pair 8 false (fun r s d => d.takeReq bt s r))
def execPoolGrow (pair : Nat) : State → Host.Outcome State Fault Refusal := onDev (fun bt d => d.kvPoolGrow bt pair)
def execHeldRequestRelease (slot : Nat) : State → Host.Outcome State Fault Refusal :=
  onDev (fun bt d => d.releaseHeld bt slot)
def execKvMoveCommit (mv : Nat) : State → Host.Outcome State Fault Refusal := onDev (fun bt d => d.kvCommit bt mv)

end Sys2Proof.Machine
end

