-- ==== Sys2Proof/Machine/Tier.lean ====
section
/-! DEFINITION. The promotion engine (chapter 08): movers and classes, page moves and their commit, writes that reach the
lower tier, streaming windows, tier requests, held ranges and wipes. -/

namespace Sys2Proof.Machine

/-! ### Pages -/

/-- The whole mapped local pages that make up `[ava, ava + len)` exactly (R220), with fuel for their number. -/
def Dev.pagesOf (d : Dev) (c : Nat) : Nat → Nat → Nat → Option (List Page)
  | _, _, 0 => some []
  | 0, _, _ => none
  | fuel + 1, ava, len =>
    match d.walkTable c ava with
    | .page p =>
      if p.ava = ava ∧ 2 ^ p.lg ≤ len ∧ d.isLocal (d.partOfCtx c) p.dpa then
        (d.pagesOf c fuel (ava + 2 ^ p.lg) (len - 2 ^ p.lg)).map (fun l => p :: l)
      else none
    | _ => none

/-- Is a page's home DDR? -/
def Page.inDdr (p : Page) : Bool := isDdr (p.dpa % 2 ^ 48)

/-- May requests and writes move the page: MOVABLE, not pinned, not of 1 GiB (R201)? -/
def Page.movable (p : Page) : Bool := p.tier == 1 && !p.fixed

/-- Read bytes of a context's memory by AVA. -/
def Dev.readAva (d : Dev) (c : Nat) : Nat → Nat → Nat → Option (List Byte)
  | _, _, 0 => some []
  | 0, _, _ => none
  | fuel + 1, ava, n =>
    match d.walkTable c ava with
    | .page p =>
      let k := min n (2 ^ p.lg - ava % 2 ^ p.lg)
      if d.isLocal (d.partOfCtx c) p.dpa ∧ ¬d.poisoned (p.at_ ava % 2 ^ 48) k then
        (d.readAva c fuel (ava + k) (n - k)).map (fun l => memReadBytes d.mem (p.at_ ava % 2 ^ 48) k ++ l)
      else none
    | _ => none

/-- Does a held range of the context touch a page (R221)? -/
def Dev.pageHeld (d : Dev) (c ava len : Nat) : Bool :=
  d.tier.holds.any (fun h => h.ctx == c && decide (h.ava < ava + len) && decide (ava < h.ava + h.len))

/-! ### Page moves -/

/-- Queue the move of a page to a frame, for a request. -/
def Dev.movePage (bt : Nat) (d : Dev) (req c : Nat) (p : Page) (up : Bool) (cls : MoveCls) (dst : Option Nat)
    (win : Option (Nat × Nat)) : Dev :=
  let src := p.dpa % 2 ^ 48
  d.addMove { part := d.partOfCtx c, die := d.dieOfHbm (if up then dst.getD (d.partOfCtx c * 2 ^ 38) else src),
              obj := .page c p.ava p.leaf, up, cls, src, dst, len := 2 ^ p.lg, since := bt, win, req }

/-- The page size of a move. -/
def Move.lg (m : Move) : Nat := if m.len = 2 ^ 21 then 21 else 16

/-- Take a page move that has not begun off the queue: its frame and its charge go back; the DDR frame of a windowed page stays held
(R209). -/
def Dev.undoMove (d : Dev) (n : Nat) (m : Move) : Dev :=
  let d := d.dropMove n
  match m.dst with
  | some f =>
    if m.win.isSome ∧ ¬m.up then d
    else
      let d := match d.ownerOf f with
        | some o => (d.uncharge o.1 (!m.up) m.len).disown f
        | none => d
      d.poolGive (pagePoolOf m.part (!m.up) m.lg) (f / 2 ^ 16)
  | none => d

/-- Charge the destination of a page move and take its frame; `none` leaves all as it was (R207). -/
def Dev.chargePage (bt : Nat) (d : Dev) (c : Nat) (p : Page) (up : Bool) : Option Nat × Dev :=
  let a := d.partOfCtx c
  match d.charge c (!up) (2 ^ p.lg) with
  | none => (none, d)
  | some d1 =>
    match d1.pageTake bt a (!up) p.lg with
    | (some f, d2) => (some (frameDpa f), d2.own (frameDpa f) c (2 ^ p.lg))
    | (none, d2) => (none, d2.uncharge c (!up) (2 ^ p.lg))

/-- Start moves of pages to a tier for a request, all or none. -/
def Dev.startPages (bt : Nat) (req c : Nat) (up : Bool) (cls : MoveCls) : Dev → List Page → Option Dev × Dev
  | d, [] => (some d, d)
  | d, p :: ps =>
    match d.chargePage bt c p up with
    | (none, d1) => (none, d1)
    | (some f, d1) =>
      let n := d1.tier.nextMove
      match Dev.startPages bt req c up cls (d1.movePage bt req c p up cls (some f) none) ps with
      | (some d2, d3) => (some d2, d3)
      | (none, d2) => (none, match mapFind? d2.tier.moves n with
        | some m => d2.undoMove n m
        | none => d2)

/-- What a write to a page finds (R200 to R202, R207). -/
inductive WriteNeed where
  | ready | wait | quota | violation
  deriving DecidableEq, Repr

/-- A write reaches a page: a page that moves makes it wait; one whose home is DDR is promoted first, at demand class. -/
def Dev.writeNeed (bt : Nat) (d : Dev) (c : Nat) (p : Page) : WriteNeed × Dev :=
  match d.pageMove c p with
  | some (n, m) => (.wait, if m.up then d.modMove n (fun m => { m with cls := .demand }) else d)
  | none =>
    if !p.inDdr then (.ready, d)
    else if !p.movable then (.violation, d)
    else if !d.fon F.prtPromCtrlEnable (d.partOfCtx c) || d.pageHeld c p.ava (2 ^ p.lg) then (.wait, d)
    else match d.chargePage bt c p true with
      | (some f, d) => (.wait, d.movePage bt d.tier.nextMove c p true .demand (some f) none)
      | (none, d) => (.quota, d)

/-- Release a frame: it is wiped, then returned to the page pool of its tier and size, if its size has one; a charge that a counter
holds for it ends with the wipe (R199). -/
def Dev.releaseFrame (bt : Nat) (d : Dev) (a dpa n : Nat) : Dev :=
  let w : Wipe := { part := a, frame := dpa, len := n
                    pool := if n = 2 ^ 16 then some (pagePoolOf a (isDdr dpa) 16)
                      else if n = 2 ^ 21 then some (pagePoolOf a (isDdr dpa) 21) else none
                    charge := (d.ownerOf dpa).map (fun o => o.1), entry := none }
  (d.startWipe bt w).disown dpa

/-- Release a frame of a context; one that the driver mapped is put on the context's counter first. -/
def Dev.releaseOf (bt : Nat) (d : Dev) (c a dpa n : Nat) : Dev := (d.takeOver c dpa n).releaseFrame bt a dpa n

/-! ### Windows (R208 to R215) -/

/-- The key of a window. -/
def winKey (a model : Nat) : Nat := 256 * a + model

/-- A window. -/
def Dev.win? (d : Dev) (a model : Nat) : Option Win := mapFind? d.tier.wins (winKey a model)

/-- Change a window. -/
def Dev.modWin (d : Dev) (w : Nat) (f : Win → Win) : Dev :=
  d.modTier (fun z => { z with wins := mapModify z.wins w f })

/-- Change an entry of a window. -/
def Dev.modEnt (d : Dev) (w e : Nat) (f : WEnt → WEnt) : Dev :=
  d.modWin w (fun x => { x with ents := x.ents.modify e f })

/-- An entry of a window. -/
def Win.ent? (x : Win) (e : Nat) : Option WEnt := x.ents[e]?

/-- Budget bytes an entry takes (R212): the pages of a LEAVING one give theirs back one by one. -/
def WEnt.bytes (x : WEnt) : Nat :=
  match x.st with
  | .leaving => ((x.pages.filter (fun p => p.hbm.isSome)).map (fun p => 2 ^ p.lg)).sum
  | .promoting => x.len
  | .resident => x.len
  | .late => x.len
  | _ => 0

/-- The byte by which TIER_QUERY names the state of a window entry: the state code of the table (R211, R220). -/
def WEnt.stateByte (x : WEnt) : BitVec 8 :=
  match x.st with
  | .idle => 0
  | .waiting => 1
  | .promoting => 2
  | .late => 3
  | .resident => 4
  | .leaving => 5
  | .failed => 6

/-- The budget of a window in bytes: BUDGET counts 2 MiB (R208). -/
def Win.budgetBytes (x : Win) : Nat := 2 ^ 21 * x.budget

/-- Does entry `e` fit in the budget beside the others? -/
def Win.fits (x : Win) (e : Nat) (len : Nat) : Bool :=
  decide (((x.ents.zipIdx.filter (fun p => p.2 != e)).map (fun p => p.1.bytes)).sum + len ≤ x.budgetBytes)

/-- Does an entry wait for its move up to start? -/
def WEnt.toStart (x : WEnt) : Bool := x.st = .waiting || (x.st = .late && !x.started)

/-- The first entry that waits to start: ascending DUE_US, then index (R212). -/
def Win.first (x : Win) : Option Nat :=
  ((x.ents.zipIdx.filter (fun p => p.1.toStart)).foldl
    (fun b p => match b with
      | none => some p
      | some q => if p.1.due < q.1.due then some p else some q) none).map (fun p => p.2)

/-- A window page as the walk finds it, at a frame. -/
def WPage.at_ (p : WPage) (dpa : Nat) : Page :=
  { ava := p.ava, lg := p.lg, dpa, w := false, pin := false, cp := 0, tier := 2, leaf := p.leaf }

/-- Take a frame for a window page's move up; without one the page waits (R212). -/
def Dev.winUp (bt : Nat) (d : Dev) (req c w e : Nat) (p : WPage) : Dev :=
  match d.pageTake bt (d.partOfCtx c) false p.lg with
  | (f, d) => d.movePage bt req c (p.at_ p.ddr) true .scheduled (f.map frameDpa) (some (w, e))

/-- Queue a window page's move down into its held DDR frame. -/
def Dev.winDown (bt : Nat) (d : Dev) (req c w e : Nat) (p : WPage) : Dev :=
  d.movePage bt req c (p.at_ (p.hbm.getD 0)) false .scheduled (some p.ddr) (some (w, e))

/-- Is a page of the context in a move? -/
def Dev.isMoving (d : Dev) (c ava : Nat) : Bool :=
  d.tier.moves.any (fun m => match m.2.obj with
    | .page c' ava' _ => c' == c && ava' == ava
    | _ => false)

/-- Drop the moves of a window entry that have not begun; frames taken go back. -/
def Dev.dropEntMoves (d : Dev) (w e : Nat) : Dev :=
  (d.tier.moves.filter (fun m => m.2.win == some (w, e) && !m.2.begun)).foldl (fun d m => d.undoMove m.1 m.2) d

/-- Queue every page of an entry that lies in DDR and is not moving for its move up. -/
def Dev.entUp (bt : Nat) (d : Dev) (c w e : Nat) (pages : List WPage) : Dev :=
  (pages.filter (fun p => p.hbm.isNone)).foldl
    (fun d' p => if d'.isMoving c p.ava then d' else d'.winUp bt d.tier.nextMove c w e p) d

/-- Queue every page of an entry that lies in HBM and is not moving for its move down. -/
def Dev.entDown (bt : Nat) (d : Dev) (c w e : Nat) (pages : List WPage) : Dev :=
  (pages.filter (fun p => p.hbm.isSome)).foldl
    (fun d' p => if d'.isMoving c p.ava then d' else d'.winDown bt d.tier.nextMove c w e p) d

/-- An entry begins to move down. -/
def Dev.entLeave (bt : Nat) (d : Dev) (c w e : Nat) (y : WEnt) : Dev :=
  (d.modEnt w e (fun y => { y with st := .leaving, past := true, started := false })).entDown bt c w e y.pages

/-- A PROMOTING or LATE entry all of whose pages lie in HBM becomes RESIDENT, and LEAVING at once when its LEAVE time has passed
(R211). -/
def Dev.entArrived (bt : Nat) (d : Dev) (w e : Nat) : Dev :=
  match mapFind? d.tier.wins w with
  | some x => match x.ent? e with
    | some y =>
      if (y.st = .promoting ∨ y.st = .late) ∧ y.pages.all (fun p => p.hbm.isSome && !d.isMoving x.ctx p.ava) = true then
        if y.leave ≠ 0xFFFFFFFF ∧ x.base.getD bt + y.leave * 1000 ≤ bt then d.entLeave bt x.ctx w e y
        else d.modEnt w e (fun y => { y with st := .resident })
      else d
    | none => d
  | none => d

/-- WINDOW_ENTRY_START: an entry whose START has passed begins to move up when it is the first that waits and the budget
has room (R211, R212); one still LEAVING from an earlier pass turns back (R214). -/
def Dev.entryStart (bt : Nat) (d : Dev) (a model e : Nat) : Dev :=
  let w := winKey a model
  match d.win? a model with
  | some x => match x.ent? e, x.base with
    | some y, some b =>
      if b + y.start * 1000 ≤ bt ∧ x.clearing = none ∧ d.fon F.prtPromCtrlEnable a ∧ x.fits e y.len then
        if y.toStart ∧ x.first = some e then
          ((d.modEnt w e (fun y => { y with st := if y.st = .late then .late else .promoting, started := true })).entUp bt x.ctx w
            e y.pages).entArrived bt w e
        else if y.st = .leaving ∧ ¬y.past then
          (((d.dropEntMoves w e).modEnt w e (fun y => { y with st := .promoting, started := true })).entUp bt x.ctx w e
            y.pages).entArrived bt w e
        else d
      else d
    | _, _ => d
  | none => d

/-- WINDOW_ENTRY_LEAVE: a RESIDENT entry whose LEAVE time has come (R211). -/
def Dev.entryLeave (bt : Nat) (d : Dev) (a model e : Nat) : Dev :=
  match d.win? a model with
  | some x => match x.ent? e, x.base with
    | some y, some b =>
      if y.st = .resident ∧ y.leave ≠ 0xFFFFFFFF ∧ b + y.leave * 1000 ≤ bt then d.entLeave bt x.ctx (winKey a model) e y else d
    | _, _ => d
  | none => d

/-- PROMOTION_DEADLINE (R213). -/
def Dev.deadline (bt : Nat) (d : Dev) (a model e : Nat) : Dev :=
  match d.fire bt a (.promo a model e) with
  | some d => match d.win? a model with
    | some x => match x.ent? e with
      | some y =>
        if y.st = .waiting ∨ y.st = .promoting then
          (d.modEnt (winKey a model) e (fun y => { y with st := .late })).fbump F.prtPromStat1LateEntries a 1
        else d
      | none => d
    | none => d
  | none => d

/-- Take the deadlines of a window off the wheel. -/
def Dev.disarmWin (d : Dev) (a model n : Nat) : Dev := (List.range n).foldl (fun d e => d.disarm a (.promo a model e)) d

/-- A pass starts at its base (R210, R211). -/
def Dev.startPass (bt : Nat) (d : Dev) (a model : Nat) (x : Win) (base : Nat) : Dev :=
  let w := winKey a model
  let d := d.disarmWin a model x.ents.length
  let d := d.modWin w (fun x => { x with
    base := some base, next := if x.period = 0 then none else some (base + x.period)
    ents := x.ents.map (fun y => { y with past := false, st := if y.st = .idle then .waiting else y.st }) })
  x.ents.zipIdx.foldl
    (fun d p =>
      if d.wheelUsed a < wheelShared then d.arm bt a (.promo a model p.2) 1 (base + p.1.due * 1000)
      else d.fbump F.seqeEwStatFull a 1) d

/-- WINDOW_PASS_START: the oldest ARM whose base has come, else the next periodic pass (R210). -/
def Dev.passStart (bt : Nat) (d : Dev) (a model : Nat) : Dev :=
  match d.win? a model with
  | some x =>
    if x.clearing.isSome then d
    else match x.arms.find? (fun r => decide (r.base ≤ bt)) with
      | some r =>
        ((d.modWin (winKey a model) (fun x => { x with arms := x.arms.erase r })).startPass bt a model x r.base).complete bt
          r.pair r.tag .ok
      | none => match x.next with
        | some b => if b ≤ bt then d.startPass bt a model x b else d
        | none => d
  | none => d

/-- A window whose clearing is done goes: BUDGET is released and the WINDOW_CLEAR completes (R220). -/
def Dev.settleWin (bt : Nat) (d : Dev) (w : Nat) : Dev :=
  match mapFind? d.tier.wins w with
  | some x => match x.clearing with
    | some (k, t) =>
      if x.ents.all (fun y => y.st = .idle || y.st = .failed) ∧
          ¬(d.tier.moves.any (fun m => match m.2.win with
            | some (w', _) => w' == w
            | none => false)) then
        ((d.uncharge x.ctx false (x.budgetBytes)).modTier (fun z => { z with wins := mapErase z.wins w })).complete bt k t .ok
      else d
    | none => d
  | none => d

/-- What the commit of a window page's move does to its entry (R211, R214, R218). -/
def Dev.winCommit (bt : Nat) (d : Dev) (w e ava : Nat) (up bad : Bool) (dst : Nat) : Dev :=
  let d := d.modEnt w e (fun y => { y with
    pages := y.pages.map (fun p => if p.ava = ava then { p with hbm := if up then some dst else none } else p) })
  match mapFind? d.tier.wins w with
  | some x => match x.ent? e with
    | some y =>
      let d :=
        if bad ∧ y.st ≠ .failed then (d.dropEntMoves w e).modEnt w e (fun y => { y with st := .failed, started := false })
        else match y.st with
          | .leaving =>
            if y.pages.all (fun p => p.hbm.isNone) then
              d.modEnt w e (fun y => { y with
                st := if x.base.isSome && x.clearing.isNone && !y.past then .waiting else .idle, started := false })
            else d.entDown bt x.ctx w e y.pages
          | .promoting => (d.entUp bt x.ctx w e y.pages).entArrived bt w e
          | .late => (d.entUp bt x.ctx w e y.pages).entArrived bt w e
          | _ => d
      d.settleWin bt w
    | none => d
  | none => d

/-- Pages of windows that wait for a frame take one, in order of arrival (R212). -/
def Dev.stockWindows (d : Dev) (a : Nat) : Dev :=
  (d.tier.moves.filter (fun m => m.2.part == a && m.2.up && m.2.dst.isNone)).foldl
    (fun d m => match d.poolTake (pagePoolOf a false (if m.2.len = 2 ^ 21 then 21 else 16)) with
      | some (f, d) => d.modMove m.1 (fun m => { m with dst := some (frameDpa f), die := d.dieOfHbm (frameDpa f) })
      | none => d) d

/-! ### Requests in progress -/

/-- Complete MOVE_HOLDs none of whose pages is still copying (R221). -/
def Dev.settleHolds (bt : Nat) (d : Dev) : Dev :=
  let busy := fun (h : Hold) => d.tier.moves.any (fun m => m.2.begun && (match m.2.obj with
    | .page c ava _ => c == h.ctx && decide (ava < h.ava + h.len) && decide (h.ava < ava + m.2.len)
    | _ => false))
  let ready := d.tier.holds.filterMap (fun h => if busy h then none else h.req)
  let d := d.modTier (fun z => { z with holds := z.holds.map (fun h => if busy h then h else { h with req := none }) })
  ready.foldl (fun d r => d.complete bt r.1 r.2 .ok) d

/-- Go on with a PROMOTE or DEMOTE: pages that have arrived leave it; a page that has stopped moving elsewhere is moved. -/
def Dev.stepReq (bt : Nat) (d : Dev) (r : TierReq) : Dev :=
  let left := r.left.filter (fun ava => match d.walkTable r.ctx ava with
    | .page p => (p.inDdr == r.up && p.movable && (r.up || !p.w)) || d.isMoving r.ctx ava
    | _ => false)
  if left = [] then d.complete bt r.pair r.tag (if r.poison then .dataPoison else .ok)
  else
    let idle := left.filterMap (fun ava => match d.walkTable r.ctx ava with
      | .page p => if d.isMoving r.ctx ava then none else some p
      | _ => none)
    match Dev.startPages bt r.id r.ctx r.up r.cls d idle with
    | (some d, _) => d.modTier (fun z => { z with reqs := z.reqs ++ [{ r with left }] })
    | (none, d) => d.complete bt r.pair r.tag .quota

/-- Go on with every request in progress of a context. -/
def Dev.stepReqs (bt : Nat) (d : Dev) (c : Nat) : Dev :=
  let rs := d.tier.reqs.filter (fun r => r.ctx == c)
  let d := d.modTier (fun z => { z with reqs := z.reqs.filter (fun r => r.ctx != c) })
  rs.foldl (fun d r => d.stepReq bt r) d

/-- The leaf entry of a page names its new frame (R198). An entry that software has changed since the move began leaves contents and
mapping undefined (R203). -/
def Dev.putLeaf (d : Dev) (m : Move) (leaf : Nat) : Dev :=
  let dst := m.dst.getD 0
  let node := m.leafVal / 2 ^ 56 % 16 * 2 ^ 8 + m.leafVal / 2 ^ 48 % 256
  if memNat d.mem leaf 8 = m.leafVal then
    d.setMem (memPutNat d.mem leaf 8 ((putBits (BitVec.ofNat 64 m.leafVal) 59 8 (dst / 2 ^ 8 + node * 2 ^ 40)).toNat))
  else (d.memFree dst m.len).memFree leaf 8

/-- MOVE_COMMIT of a page whose bursts are all made (R198, R199, R202, R217): the frame is copied with its poison marks, the
leaf entry names the new frame, the page leaves every TLB, and the old frame is wiped, but for a window page's held DDR frame
(R209). A page of a context that has ended is released with both its frames (R219). -/
def Dev.commitPage (bt : Nat) (d : Dev) (n : Nat) (m : Move) (c ava leaf : Nat) : Dev :=
  let dst := m.dst.getD 0
  let bad := d.poisoned m.src m.len
  let d := d.dropMove n
  let d := if bad then d.fbump F.prtPromStat2Poison m.part 1 else d
  if (d.ctx c).ending then
    (((d.releaseOf bt c m.part m.src m.len).releaseOf bt c m.part dst m.len).settleHolds bt).settleCtx c
  else
    let d := ((d.frameCopy m.src dst m.len).putLeaf m leaf).tlbDrop m.part (fun e => e.ctx == c && e.page.ava == ava)
    let d := match m.win with
      | some (w, e) => (if m.up then d else d.releaseFrame bt m.part m.src m.len).winCommit bt w e ava m.up bad dst
      | none => d.releaseOf bt c m.part m.src m.len
    let d := d.modTier (fun z => { z with reqs := z.reqs.map (fun (r : TierReq) =>
      if bad && r.ctx == c && r.left.contains ava then { r with poison := true } else r) })
    (d.stepReqs bt c).settleHolds bt

/-- MOVE_COMMIT. -/
def Dev.moveCommit (bt : Nat) (d : Dev) (n : Nat) : Dev :=
  match mapFind? d.tier.moves n with
  | some m => match m.obj with
    | .page c ava leaf => if m.begun ∧ m.moved = m.len then d.commitPage bt n m c ava leaf else d
    | _ => d
  | none => d

/-! ### Movers (R204 to R206) -/

/-- May a mover serve the move: it has a frame and bursts left, and either runs already or may start (R221, R223)? A KV block's move
starts from the state it was asked in (R174); wipes and digests are not held back. -/
def Dev.serves (d : Dev) (die : Nat) (m : Move) : Bool :=
  m.die == die && m.dst.isSome && decide (m.moved < m.len) && (match m.obj with
    | .page c ava _ => m.begun || (d.fon F.prtPromCtrlEnable m.part && !d.pageHeld c ava m.len)
    | .block i _ => m.begun || (d.fon F.prtPromCtrlEnable m.part && kvState (d.kvGet i) = (if m.up then .ddr else .hbm))
    | .copy _ _ => false
    | .wipe _ => true
    | .digest _ _ => true)

/-- A move's place in R205's order. -/
def Dev.moveRank (d : Dev) (m : Move) : Nat :=
  if m.urgent then 0
  else match m.cls with
    | .demand => 1
    | .scheduled => (match m.win with
      | some (w, e) => match (mapFind? d.tier.wins w).bind (fun x => x.ent? e) with
        | some y => if y.st = .late then 2 else 3
        | none => 3
      | none => 3)
    | .background => 4

/-- The move a mover serves next: the first class that has one, then the oldest request, then ascending addresses (R205). -/
def Dev.nextBurst (d : Dev) (die : Nat) : Option (Nat × Move) :=
  let before := fun (x y : Move) => d.moveRank x < d.moveRank y || (d.moveRank x == d.moveRank y && decide (x.req < y.req))
  (d.tier.moves.filter (fun m => d.serves die m.2)).foldl
    (fun b m => match b with
      | none => some m
      | some q => if before m.2 q.2 then some m else some q) none

/-- What a window entry knows of a page whose mapping the driver has changed under a hold. -/
def Dev.winMapped (d : Dev) (w e : Nat) (p : Page) : Dev :=
  let here := p.dpa % 2 ^ 48
  d.modEnt w e (fun y => { y with pages := y.pages.map (fun q =>
    if q.ava = p.ava then (if p.inDdr then { q with leaf := p.leaf, ddr := here, hbm := none } else { q with leaf := p.leaf, hbm := some here })
    else q) })

/-- A page move begins from the page as it is mapped now (R203, R221). One that no longer applies is taken off the queue; the request
or the entry that asked for it goes on. -/
def Dev.beginPage (bt : Nat) (d : Dev) (n : Nat) (m : Move) (c ava : Nat) : Bool × Dev :=
  let dropped := fun (d : Dev) => (d.undoMove n m).stepReqs bt c
  match d.walkTable c ava with
  | .page p =>
    let mine := if m.win.isSome then p.tier == 2 && !p.fixed else p.movable && (m.up || !p.w)
    let d := match m.win with
      | some (w, e) => d.winMapped w e p
      | none => d
    if p.ava = ava ∧ 2 ^ p.lg = m.len ∧ p.inDdr = m.up ∧ mine = true ∧ d.isLocal m.part p.dpa = true then
      (true, d.modMove n (fun m => { m with obj := .page c ava p.leaf, src := p.dpa % 2 ^ 48, leafVal := memNat d.mem p.leaf 8 }))
    else match m.win with
      | some (w, e) => (false, (dropped d).entArrived bt w e)
      | none => (false, dropped d)
  | _ => (false, dropped d)

/-- A move that a mover serves begins, if it has not. -/
def Dev.beginMove (bt : Nat) (d : Dev) (n : Nat) (m : Move) : Bool × Dev :=
  if m.begun then (true, d)
  else match m.obj with
    | .page c ava _ => d.beginPage bt n m c ava
    | .block i _ => (true, d.beginBlock i m.up)
    | _ => (true, d)

/-- Is a move one of data between the tiers? -/
def Move.tiers (m : Move) : Bool :=
  match m.obj with
  | .page _ _ _ => true
  | .block _ _ => true
  | _ => false

/-- MOVER_BURST: one burst of up to 256 KiB. The waiting time of its request starts again (R206). -/
def Dev.moverBurst (bt : Nat) (d : Dev) (die : Nat) : Dev :=
  match d.nextBurst die with
  | some (n, m) => match d.beginMove bt n m with
    | (false, d) => d
    | (true, d) =>
      let d := if m.tiers then d.fbump (if m.up then F.prtPromStat0UpBursts else F.prtPromStat0DownBursts) m.part 1 else d
      let d := if m.urgent then d.fbump F.prtPromStat1Aged m.part 1 else d
      let d := d.modMove n (fun m => { m with begun := true, moved := min m.len (m.moved + 2 ^ 18) })
      d.modTier (fun z => { z with moves := mapAll z.moves (fun _ x => if x.req = m.req then { x with since := bt, urgent := false } else x) })
  | none => d

/-- STARVATION_HORIZON: a background request that has waited longer than the horizon becomes urgent for one burst (R206). -/
def Dev.starve (bt : Nat) (d : Dev) (n : Nat) : Dev :=
  match mapFind? d.tier.moves n with
  | some m =>
    if m.cls = .background ∧ m.moved < m.len ∧ m.since + d.fget F.prtPromAgeHorizonUs m.part * 1000 < bt then
      d.modTier (fun z => { z with moves := mapAll z.moves (fun _ x =>
        if x.req = m.req ∧ x.cls = .background then { x with urgent := true } else x) })
    else d
  | none => d

/-- The mover's part of the wipe of a DDR frame. -/
def Dev.wipeMove (d : Dev) (x : Nat) : Option (Nat × Move) := d.tier.moves.find? (fun m => m.2.obj == .wipe x)

/-- WIPE_DONE: Tour has wiped a frame of HBM; the bursts of a DDR frame are made. -/
def Dev.wipeDone (bt : Nat) (d : Dev) (x : Nat) : Dev :=
  match mapFind? d.tier.wipes x with
  | some w =>
    if d.wipeMay w.frame then
      match d.wipeMove x with
      | some (n, m) => if m.moved = m.len then ((d.dropMove n).endWipe bt x w).stockWindows w.part else d
      | none => (d.endWipe bt x w).stockWindows w.part
    else d
  | none => d

/-- What the promotion engine holds of the partitions that a test accepts goes (R24, R219, R423); the first die of a partition names
it. Shadow areas that firmware has pinned are kept by a reset. -/
def Dev.dropTier (d : Dev) (f : Nat → Bool) : Dev :=
  let ours := fun (c : Nat) => f (d.partOfCtx c)
  d.modTier (fun z => { z with
    moves := mapKeep z.moves (fun _ m => !f m.part)
    wipes := mapKeep z.wipes (fun _ w => !f w.part)
    wins := mapKeep z.wins (fun w _ => !f (w / 256))
    reqs := z.reqs.filter (fun r => !ours r.ctx)
    holds := z.holds.filter (fun h => !ours h.ctx)
    owned := mapKeep z.owned (fun _ o => !ours o.1) })

/-! ### Tier requests (R220) -/

/-- Dispatch a tier request; while ENABLE is 0 it completes with RANGE (R223). -/
def Dev.tierReq (bt : Nat) (d : Dev) (k op : Nat) (f : Desc → Nat → Nat → Dev → Dev) : Dev :=
  d.dispatchCtx bt k 5 op (fun r c d =>
    let a := d.partOfCtx c
    if d.fon F.prtPromCtrlEnable a then f r c a d else d.finish bt r .range)

/-- A range of whole 64 KiB units, not empty, within the AVA space. -/
def rangeOk (ava len : Nat) : Bool := ava % 65536 == 0 && len % 65536 == 0 && decide (0 < len) && decide (ava + len ≤ 2 ^ 56)

/-- PROMOTE and DEMOTE. -/
def Dev.promoteReq (bt : Nat) (d : Dev) (k : Nat) (up : Bool) : Dev :=
  d.tierReq bt k (if up then 1 else 2) (fun r c _ d =>
    let ava := r.at_ 8 8
    let len := r.at_ 16 8
    let cls := if up && !bit (r.at_ 1 1) 0 then MoveCls.demand else .background
    match (if rangeOk ava len then d.pagesOf c (len / 65536) ava len else none) with
    | none => d.finish bt r .range
    | some ps =>
      if ps.all (fun p => p.movable && (up || !p.w)) then
        let far := ps.filter (fun p => p.inDdr == up || d.isMoving c p.ava)
        let d' := far.foldl (fun d p => match d.pageMove c p with
          | some (n, m) => if cls = .demand ∧ m.up then d.modMove n (fun m => { m with cls := .demand }) else d
          | none => d) d
        let id := d.tier.nextMove
        let d' := d'.modTier (fun z => { z with nextMove := id + 1 })
        match Dev.startPages bt id c up cls d' (far.filter (fun p => !d.isMoving c p.ava)) with
        | (none, d) => d.finish bt r .quota
        | (some d, _) =>
          if far = [] then d.finish bt r .ok
          else d.modTier (fun z => { z with
            reqs := z.reqs ++ [{ pair := r.pair, tag := r.tag, ctx := c, up, cls, left := far.map (fun p => p.ava), id }] })
      else d.finish bt r .range)

/-- One 32-byte window entry (R208): its fields, or none when a reserved one is nonzero. -/
def winEntry (d : Dev) (c : Nat) (bs : List Byte) : Option WEnt :=
  let ava := listNat bs 8 7
  let len := listNat bs 4 4 * 65536
  let start := listNat bs 16 4
  let due := listNat bs 20 4
  let leave := listNat bs 24 4
  if listNat bs 15 1 = 0 ∧ listNat bs 28 4 = 0 ∧ rangeOk ava len ∧ start ≤ due ∧ due ≤ leave then
    match d.pagesOf c (len / 65536) ava len with
    | some ps =>
      if ps.all (fun p => p.tier == 2 && !p.fixed && !p.w && p.inDdr) then
        some { layer := listNat bs 0 2, expert := listNat bs 2 2, ava, len, start, due, leave,
               pages := ps.map (fun p => { ava := p.ava, lg := p.lg, leaf := p.leaf, ddr := p.dpa % 2 ^ 48 }) }
      else none
    | none => none
  else none

/-- No two entries share a LAYER and EXPERT pair or overlap. -/
def disjointEnts : List WEnt → Bool
  | [] => true
  | x :: xs => xs.all (fun y => !(x.layer == y.layer && x.expert == y.expert) &&
      (decide (x.ava + x.len ≤ y.ava) || decide (y.ava + y.len ≤ x.ava))) && disjointEnts xs

/-- The window a schedule describes, if R208 and R209 allow it. -/
def Dev.parseWindow (d : Dev) (c a model ava : Nat) : Option Win := do
  let h ← d.readAva c 4 ava 64
  let n := listNat h 2 2
  let period := listNat h 8 8
  let budget := listNat h 16 4
  if listNat h 0 2 = model ∧ 1 ≤ model ∧ model ≤ 255 ∧ 1 ≤ n ∧ n ≤ 4096 ∧ listNat h 4 4 = 0 ∧ (h.drop 20).all (fun b => b == 0#8) ∧
      (period = 0 ∨ (1000000 ≤ period ∧ period ≤ 2 ^ 40)) then pure () else none
  let bs ← d.readAva c (n / 2048 + 4) (ava + 64) (32 * n)
  let ents ← (List.range n).mapM (fun i => winEntry d c ((bs.drop (32 * i)).take 32))
  let others := d.tier.wins.filter (fun w => w.1 / 256 == a)
  if disjointEnts ents ∧ ents.all (fun y => decide (y.len ≤ budget * 2 ^ 21) &&
        (period == 0 || y.leave == 0xFFFFFFFF || decide (y.leave < period / 1000)) &&
        others.all (fun w => w.2.ctx != c || w.2.ents.all (fun z =>
          decide (z.ava + z.len ≤ y.ava) || decide (y.ava + y.len ≤ z.ava)))) ∧
      n + (others.map (fun w => w.2.ents.length)).sum ≤ 16384 ∧ (d.win? a model).isNone then
    some { ctx := c, period, budget, ents }
  else none

/-- WINDOW_SET. -/
def Dev.windowSet (bt : Nat) (d : Dev) (k : Nat) : Dev :=
  d.tierReq bt k 3 (fun r c a d =>
    match d.parseWindow c a (r.at_ 2 2) (r.at_ 8 8) with
    | none => d.finish bt r .range
    | some w => match d.charge c false (w.budgetBytes) with
      | none => d.finish bt r .quota
      | some d =>
        (d.modTier (fun z => { z with wins := mapPut z.wins (winKey a (r.at_ 2 2)) w })).finish bt r .ok)

/-- Dispatch a request on a window of the context; without one it completes with RANGE. -/
def Dev.winReq (bt : Nat) (d : Dev) (k op : Nat) (f : Desc → Nat → Nat → Win → Dev → Dev) : Dev :=
  d.tierReq bt k op (fun r c a d =>
    match d.win? a (r.at_ 2 2) with
    | some x => if x.ctx = c then f r a (r.at_ 2 2) x d else d.finish bt r .range
    | none => d.finish bt r .range)

/-- WINDOW_ARM: the request completes when its pass starts. -/
def Dev.windowArm (bt : Nat) (d : Dev) (k : Nat) : Dev :=
  d.winReq bt k 4 (fun r a model x d =>
    if x.clearing.isSome then d.finish bt r .range
    else
      let base := r.at_ 16 8
      d.modWin (winKey a model) (fun x => { x with
        arms := x.arms ++ [{ pair := r.pair, tag := r.tag, base := if base = 0 then bt else base }] }))

/-- WINDOW_CLEAR: passes stop, entries move down, and ARMs whose pass has not started complete with RANGE. -/
def Dev.windowClear (bt : Nat) (d : Dev) (k : Nat) : Dev :=
  d.winReq bt k 5 (fun r a model x d =>
    if x.clearing.isSome then d.finish bt r .range
    else
      let w := winKey a model
      let d := d.disarmWin a model x.ents.length
      let d := d.modWin w (fun x => { x with base := none, next := none, arms := [], clearing := some (r.pair, r.tag) })
      let d := x.arms.foldl (fun d q => d.complete bt q.pair q.tag .range) d
      let d := x.ents.zipIdx.foldl (fun d p =>
        if p.1.st = .idle ∨ p.1.st = .failed then d
        else
          let d := d.dropEntMoves w p.2
          let quiet := p.1.pages.all (fun q => q.hbm.isNone && !d.isMoving x.ctx q.ava)
          (d.modEnt w p.2 (fun y => { y with st := if quiet then .idle else .leaving, past := true, started := false })).entDown bt
            x.ctx w p.2 p.1.pages) d
      d.settleWin bt w)

/-- A page of a FAILED entry as its mapping now has it. -/
def windowPageOf (y : WEnt) (p : Page) : WPage :=
  let old := ((y.pages.find? (fun q => q.ava == p.ava)).map (fun q => q.ddr)).getD 0
  let here := p.dpa % 2 ^ 48
  if p.inDdr then { ava := p.ava, lg := p.lg, leaf := p.leaf, ddr := here }
  else { ava := p.ava, lg := p.lg, leaf := p.leaf, ddr := old, hbm := some here }

/-- ENTRY_RESET: a FAILED entry, its pages mapped anew, returns to IDLE, and to WAITING while a pass runs. -/
def Dev.entryReset (bt : Nat) (d : Dev) (k : Nat) : Dev :=
  d.winReq bt k 6 (fun r a model x d =>
    match x.ent? (r.at_ 4 4) with
    | some y =>
      if y.st = .failed then
        let pages := match d.pagesOf x.ctx (y.len / 65536) y.ava y.len with
          | some ps => ps.map (windowPageOf y)
          | none => y.pages
        (d.modEnt (winKey a model) (r.at_ 4 4) (fun y => { y with
          st := if x.base.isSome then .waiting else .idle, started := false, pages })).finish bt r .ok
      else d.finish bt r .range
    | none => d.finish bt r .range)

/-- MOVE_HOLD (R221). -/
def Dev.moveHold (bt : Nat) (d : Dev) (k : Nat) : Dev :=
  d.tierReq bt k 8 (fun r c a d =>
    let ava := r.at_ 8 8
    let len := r.at_ 16 8
    let mine := d.tier.holds.filter (fun h => d.partOfCtx h.ctx == a)
    if rangeOk ava len ∧ (d.pagesOf c (len / 65536) ava len).isSome ∧ mine.length < 16 ∧ ¬d.pageHeld c ava len then
      let h : Hold := { ctx := c, ava, len, req := some (r.pair, r.tag) }
      Dev.settleHolds bt (d.modTier (fun z => { z with holds := z.holds ++ [h] }))
    else d.finish bt r .range)

/-- MOVE_RELEASE: it names a held range of its context exactly; a MOVE_HOLD still waiting completes with it. -/
def Dev.moveRelease (bt : Nat) (d : Dev) (k : Nat) : Dev :=
  d.tierReq bt k 9 (fun r c _ d =>
    match d.tier.holds.find? (fun h => h.ctx == c && h.ava == r.at_ 8 8 && h.len == r.at_ 16 8) with
    | some h =>
      let d := d.modTier (fun z => { z with holds := z.holds.erase h })
      let d := match h.req with
        | some q => d.complete bt q.1 q.2 .ok
        | none => d
      d.finish bt r .ok
    | none => d.finish bt r .range)

/-- PAGE_POOL_GROW. -/
def Dev.pagePoolGrow (bt : Nat) (d : Dev) (k : Nat) : Dev :=
  d.tierReq bt k 0x10 (fun r _ a d =>
    match d.poolGrow a (pagePool a (bits (r.at_ 1 1) 1 0)) (r.at_ 8 8) (r.at_ 16 4) with
    | some d => (d.stockWindows a).finish bt r .ok
    | none => d.finish bt r .range)

/-- Is a layer or expert resident for a context, failed, awaited, or named by no window (R215, R218)? -/
inductive Residency where
  | unnamed | resident | failed | absent
  deriving DecidableEq, Repr

/-- The state of one (layer, expert) pair of a window. -/
def Win.entryOf (x : Win) (layer expert : Nat) : Option EntSt :=
  (x.ents.find? (fun y => y.layer == layer && y.expert == expert)).map (fun y => y.st)

/-- Residency of a layer for LCHK: whole-layer entries only. -/
def Dev.layerResidency (d : Dev) (c model layer : Nat) : Residency :=
  match d.win? (d.partOfCtx c) model with
  | some x =>
    if x.ctx ≠ c then .unnamed
    else match x.entryOf layer 0xFFFF with
      | some .resident => .resident
      | some .failed => .failed
      | some _ => .absent
      | none => .unnamed
  | none => .unnamed

/-- Residency of an expert for XDISP: its own entry or its whole layer's. -/
def Dev.expertResidency (d : Dev) (c model layer expert : Nat) : Residency :=
  match d.win? (d.partOfCtx c) model with
  | some x =>
    if x.ctx ≠ c then .unnamed
    else
      let e := x.entryOf layer expert
      let l := x.entryOf layer 0xFFFF
      if e = some .failed ∨ l = some .failed then .failed
      else if e = some .resident ∨ l = some .resident then .resident
      else if e.isSome ∨ l.isSome then .absent else .unnamed
  | none => .unnamed

/-! ### Meanings -/

def execPromote (pair : Nat) : State → Host.Outcome State Fault Refusal := onDev (fun bt d => d.promoteReq bt pair true)
def execDemote (pair : Nat) : State → Host.Outcome State Fault Refusal := onDev (fun bt d => d.promoteReq bt pair false)
def execWindowSet (pair : Nat) : State → Host.Outcome State Fault Refusal := onDev (fun bt d => d.windowSet bt pair)
def execWindowArm (pair : Nat) : State → Host.Outcome State Fault Refusal := onDev (fun bt d => d.windowArm bt pair)
def execWindowClear (pair : Nat) : State → Host.Outcome State Fault Refusal := onDev (fun bt d => d.windowClear bt pair)
def execEntryReset (pair : Nat) : State → Host.Outcome State Fault Refusal := onDev (fun bt d => d.entryReset bt pair)
def execMoveHold (pair : Nat) : State → Host.Outcome State Fault Refusal := onDev (fun bt d => d.moveHold bt pair)
def execMoveRelease (pair : Nat) : State → Host.Outcome State Fault Refusal := onDev (fun bt d => d.moveRelease bt pair)
def execPagePoolGrow (pair : Nat) : State → Host.Outcome State Fault Refusal := onDev (fun bt d => d.pagePoolGrow bt pair)
def execWindowPassStart (a model : Nat) : State → Host.Outcome State Fault Refusal :=
  onDev (fun bt d => d.passStart bt a model)
def execWindowEntryStart (a model e : Nat) : State → Host.Outcome State Fault Refusal :=
  onDev (fun bt d => d.entryStart bt a model e)
def execWindowEntryLeave (a model e : Nat) : State → Host.Outcome State Fault Refusal :=
  onDev (fun bt d => d.entryLeave bt a model e)
def execPromotionDeadline (a model e : Nat) : State → Host.Outcome State Fault Refusal :=
  onDev (fun bt d => d.deadline bt a model e)
def execMoverBurst (die : Nat) : State → Host.Outcome State Fault Refusal := onDev (fun bt d => d.moverBurst bt die)
def execStarvationHorizon (mv : Nat) : State → Host.Outcome State Fault Refusal := onDev (fun bt d => d.starve bt mv)
def execMoveCommit (mv : Nat) : State → Host.Outcome State Fault Refusal := onDev (fun bt d => d.moveCommit bt mv)
def execWipeDone (x : Nat) : State → Host.Outcome State Fault Refusal := onDev (fun bt d => d.wipeDone bt x)

end Sys2Proof.Machine
end

