-- ==== Sys2Proof/Machine/Cmd.lean ====
section
/-! DEFINITION. What a launch member holds on its CE and what its commands touch: Local Store (R89), the Resident Buffer
(R279), the extents of DMA commands (R160), and the pending positions that an append writes (R190). -/

namespace Sys2Proof.Machine

/-! ### Local Store -/

/-- A launch's Local Store allocation in bytes. -/
def Launch.lsSize (x : Launch) : Nat := x.lsUnits * 4096

/-- Read bytes of a member's Local Store. -/
def Dev.lsRead (d : Dev) (x : Member) (a n : Nat) : List Byte := memReadBytes (d.ce x.ce).ls (x.lsBase * 4096 + a) n

/-- Read a little-endian number. -/
def Dev.lsNat (d : Dev) (x : Member) (a n : Nat) : Nat := leNat (d.lsRead x a n)

/-- A write of `n` bytes at Local Store address `a` that a tensor instruction's access is not known to precede (R158): into the
target of a read-out that no TWAIT 1 has waited for, or into operands that no TWAIT has. -/
def Ce.hazard (c : Ce) (a n : Nat) : Bool :=
  c.tpend.any (fun p => decide (a ≤ p.1) && decide (p.1 < a + n)) ||
    (decide (0 < n) && c.tread.any (fun r => decide (r.1 < a + n) && decide (a < r.1 + r.2.1)))

/-- A free value in an accumulator cell, within the widths R120 gives it. -/
def freeCell (n : Nat) (c : Cell) : Cell :=
  { c with v := Config.freeInt n % (2 * accHalf) - accHalf, w := Config.freeInt (n + 1), nan := Config.freeBool n
           pinf := Config.freeBool (n + 1), ninf := Config.freeBool (n + 2), ovf := Config.freeBool (n + 3)
           low := Config.freeBool (n + 4), f32 := Config.freeNat n % 2 ^ 32 }

/-- What such a write leaves (R158): the read-outs' bytes that it meets stay free values, and when it meets operands, so is all that
came of them: the accumulators of the launch that holds the tensor unit, the codebook slots loaded, and the read-outs not complete.
Free values from number `f` on. -/
def Ce.disturb (c : Ce) (f t a n : Nat) : Ce :=
  let hit := c.tread.filter (fun r => decide (0 < n) && decide (r.1 < a + n) && decide (a < r.1 + r.2.1))
  let tpend := c.tpend.map (fun p =>
    if !hit.isEmpty || (decide (a ≤ p.1) && decide (p.1 < a + n)) then (p.1, Config.freeByte (f + p.1)) else p)
  let mine := c.tensor.isSome && c.tensor == c.threads.getD t none
  { c with
    tpend
    acc := if !hit.isEmpty && mine then mapAll c.acc (fun k x => freeCell (f + 2 ^ 22 + 8 * k) x) else c.acc
    cb := (hit.filterMap (fun r => r.2.2)).foldl (fun m s => memWriteBytes m (32768 * s)
      ((List.range 32768).map (fun i => Config.freeByte (f + 2 ^ 23 + 32768 * s + i)))) c.cb }

/-- Bytes stored in Local Store; the lines written are recorded for R139. -/
def Ce.lsStore (c : Ce) (a : Nat) (bs : List Byte) : Ce :=
  let n := if bs.isEmpty then 0 else (a + bs.length + 63) / 64 - a / 64
  { c with
    ls := memWriteBytes c.ls a bs
    wrote := ((List.range n).map (fun i => a / 64 + i)).foldl listAdd c.wrote }

/-- Write bytes of a member's Local Store. Where R158 asks for a TWAIT that has not been, what the bytes then read as is free. -/
def Dev.lsWrite (d : Dev) (x : Member) (a : Nat) (bs : List Byte) : Dev :=
  let at_ := x.lsBase * 4096 + a
  if (d.ce x.ce).hazard at_ bs.length then
    (d.took (2 ^ 24)).modCe x.ce (fun c =>
      let m := c.ls
      let c := (c.disturb d.free x.thread at_ bs.length).lsStore at_ bs
      let met := c.tpend.filter (fun p => decide (at_ ≤ p.1) && decide (p.1 < at_ + bs.length))
      { c with ls := met.foldl (fun l p => memWrite l p.1 (memRead m p.1)) c.ls })
  else d.modCe x.ce (fun c => c.lsStore at_ bs)

/-- The bytes of a read-out: until TWAIT 1 the target reads as free values (R158). -/
def Dev.lsReadout (d : Dev) (x : Member) (a : Nat) (bs : List Byte) : Dev :=
  let at_ := x.lsBase * 4096 + a
  let old := (d.ce x.ce).tpend
  ((d.took bs.length).lsWrite x a ((List.range bs.length).map (fun i => Config.freeByte (d.free + i)))).modCe x.ce (fun c =>
    { c with tpend := (bs.zipIdx).foldl (fun t p => if mapHas old (at_ + p.2) then t else mapPut t (at_ + p.2) p.1) c.tpend })

/-- Record the operands of a tensor instruction, `n` bytes from `a`. -/
def Ce.operand (c : Ce) (y : Member) (slot : Option Nat) (a n : Nat) : Ce :=
  { c with tread := c.tread ++ [(y.lsBase * 4096 + a, n, slot)] }

/-- Does Local Store of the member hold the target of a read-out that may not be complete? -/
def Dev.readoutLeft (d : Dev) (x : Launch) (y : Member) : Bool :=
  (d.ce y.ce).tpend.any (fun p => decide (y.lsBase * 4096 ≤ p.1) && decide (p.1 < y.lsBase * 4096 + x.lsSize))

/-- Write a little-endian number. -/
def Dev.lsPut (d : Dev) (x : Member) (a n v : Nat) : Dev := d.lsWrite x a (leBytes n v)

/-! ### The Resident Buffer (R278, R279) -/

/-- Slices of a partition (R261). -/
def Dev.sliceCount (d : Dev) (a : Nat) : Nat := 10 * d.dies a

/-- RB_SIZE. -/
def Dev.rbSize (d : Dev) (a : Nat) : Nat := d.fget F.shcPartCfgRbWays a * 2 ^ 18 * d.sliceCount a

/-- The carve-out of a partition. -/
def Dev.rbMem (d : Dev) (a : Nat) : Memory := mapGet [] d.coh.rb a

/-- Set it. -/
def Dev.setRb (d : Dev) (a : Nat) (m : Memory) : Dev := d.modCoh (fun z => { z with rb := mapSet [] z.rb a m })

/-- The first line of the Resident Buffer window of the partition at die `a` in the directory: each partition sees its own
carve-out at 0xE000_0000_0000 (R279). -/
def rbLine (a : Nat) : Nat := (a + 1) * 2 ^ 48 + 0xE00000000000 / 64

/-- The slice of Resident Buffer offset `o` (R279): unit o div 4 KiB goes round the partition's slices in ascending global number. -/
def Dev.rbSlice (d : Dev) (a o : Nat) : Nat :=
  let u := o / 4096 % d.sliceCount a
  if u < 8 * d.dies a then 8 * a + u else 64 + 2 * a + (u - 8 * d.dies a)

/-- Lines are recalled from every agent and leave the directory; reservations on them are lost. -/
def Dev.recallLines (d : Dev) (hit : Nat → Bool) : Dev :=
  (d.modCoh (fun z => { z with dir := mapKeep z.dir (fun k _ => !hit k) })).modCpx
    (fun z => { z with harts := mapAll z.harts (fun _ h => if h.lr.any hit then { h with lr := none } else h) })

/-- Write bytes of it: the lines are recalled (R266), and granules written whole lose their poison marks (R217). -/
def Dev.rbPut (d : Dev) (a x : Nat) (bs : List Byte) : Dev :=
  let hit := fun (k : Nat) => decide (rbLine a + x / 64 ≤ k) && decide (64 * k < 64 * rbLine a + x + bs.length)
  let d := d.setRb a (memWriteBytes (d.rbMem a) x bs)
  let whole := fun (g : Nat) => decide (64 * rbLine a + x ≤ 64 * g) && decide (64 * g + 64 ≤ 64 * rbLine a + x + bs.length)
  (d.recallLines hit).setPoison (d.poison.filter (fun g => !whole g))

/-- Does a read of `n` bytes of the Resident Buffer meet poison? Its granules are marked by their directory key (R281). -/
def Dev.rbPoisoned (d : Dev) (a x n : Nat) : Bool :=
  d.poison.any (fun g => decide (64 * rbLine a + x < 64 * g + 64) && decide (64 * g < 64 * rbLine a + x + n))

/-- The carve-out of a partition is filled with zeros, its lines recalled (R280). -/
def Dev.clearRb (d : Dev) (a : Nat) : Dev :=
  let mine := fun (k : Nat) => k / 2 ^ 48 == a + 1
  ((d.setRb a []).recallLines mine).setPoison (d.poison.filter (fun g => !mine g))

/-- Do requests from a node for `n` bytes of the Resident Buffer reach their slices (R13, R14, R284)? -/
def Dev.rbOpen (d : Dev) (src a x n : Nat) : Bool :=
  !((List.range 16).any d.linkDead) || (List.range ((x + n + 4095) / 4096 - x / 4096)).all (fun i =>
    d.wayOpen src (d.rbSlice a ((x / 4096 + i) * 4096)))

/-! ### Hints (R273 to R276) -/

/-- Does a line lie in the slice of another, in the same set (R274; which set is PRESUMED, log entry 29)? -/
def Dev.sameSlice (d : Dev) (x y : Nat) : Bool := d.homeSlice (64 * x) == d.homeSlice (64 * y)

/-- Protect a line for a Keep request within the context's share of its slice and KEEP_WAYS of its set (R273, R274). A line that is
protected already stays so. -/
def Dev.keepLine (d : Dev) (a c line : Nat) : Dev :=
  let e := mapGet {} d.coh.dir line
  let kept := d.coh.dir.filter (fun e => e.2.keep.isSome && d.sameSlice e.1 line)
  let share := ((d.ctx c).keep + d.sliceCount a - 1) / d.sliceCount a
  if e.keep.isSome then d
  else if share ≤ (kept.filter (fun e => e.2.keep == some c)).length ∨
      d.fget F.shcPartCfgKeepWays a ≤ (kept.filter (fun e => e.1 % 4096 == line % 4096)).length then
    d.fbump F.shcSliceStat1KeepDenied ((d.homeSlice (64 * line)).getD 0) 1
  else d.modCoh (fun z => { z with dir := mapPut z.dir line { e with keep := some c } })

/-- Lines of `n` bytes. -/
def linesOf (x n : Nat) : List Nat := (List.range ((x % 64 + n + 63) / 64)).map (fun i => x / 64 + i)

/-- A Stream request makes its lines the next victims of their sets (R273). -/
def Dev.streamLine (d : Dev) (line : Nat) : Dev :=
  d.modCoh (fun z => { z with dir := mapPut z.dir line { (mapGet {} z.dir line) with stream := true } })

/-- Bytes of a Last-use read are undefined until they are written again (R276): whole lines become free values. -/
def Dev.lastUse (d : Dev) (x n : Nat) : Dev :=
  let d := d.memFree (x / 64 * 64) ((x % 64 + n + 63) / 64 * 64)
  d.recallLines (fun k => decide (x < 64 * k + 64) && decide (64 * k < x + n))

/-- The effect of a hint at the home slices of `n` bytes (R273, R276). -/
def Dev.hinted (d : Dev) (a c hint x n : Nat) : Dev :=
  match hint with
  | 1 => (linesOf x n).foldl (fun d k => d.streamLine k) d
  | 2 => (linesOf x n).foldl (fun d k => d.keepLine a c k) d
  | 3 => d.lastUse x n
  | _ => d

/-- A back-invalidation that software caused (CINV or a TLB invalidation): the home slices recall the lines of `n` bytes, and protection
ends (R266, R275). -/
def Dev.backInv (d : Dev) (x n : Nat) : Dev :=
  (d.homeOp x n).modCoh (fun z => { z with dir := mapAll z.dir (fun k e =>
    if decide (x < 64 * k + 64) && decide (64 * k < x + n) then { e with keep := none } else e) })

/-- Keep protection of a context ends with its release or reset (R275). -/
def Dev.endKeep (d : Dev) (c : Nat) : Dev :=
  d.modCoh (fun z => { z with dir := mapAll z.dir (fun _ e => if e.keep = some c then { e with keep := none } else e) })

/-! ### Extents of commands -/

/-- The rows of a GET, PUT, RED or FILL: global address, Local Store address, length. -/
def Cmd.rows (c : Cmd) : List (Nat × Nat × Nat) :=
  if c.twoD then (List.range (bits c.sx 47 32)).map (fun i => (c.sa + i * bits c.sx 31 0, c.sd + i * c.sl, c.sl))
  else [(c.sa, c.sd, c.sl)]

/-- The extents of a GATHER or SCATTER, packed in Local Store from SD: `n` list entries from `at_`. -/
def Dev.listRows (d : Dev) (x : Member) : Nat → Nat → Nat → List (Nat × Nat × Nat)
  | 0, _, _ => []
  | n + 1, at_, ls =>
    let len := d.lsNat x (at_ + 8) 4
    (d.lsNat x at_ 8, ls, len) :: d.listRows x n (at_ + 16) (ls + len)

/-- The extents of a DMA command. -/
def Dev.cmdExtents (d : Dev) (x : Member) (c : Cmd) : List (Nat × Nat × Nat) :=
  match c.op with
  | .gather | .scatter => d.listRows x c.sl c.sx c.sd
  | .get | .put | .red | .fill => c.rows
  | .kvg | .kva | .lchk | .xdisp => []

/-- The extents of a command in ascending address order (R319): AVA or Resident Buffer offset, Local Store address, bytes. -/
def Dev.sortedExtents (d : Dev) (y : Member) (c : Cmd) : List (Nat × Nat × Nat) :=
  sortBy (fun e f => decide (e.1 ≤ f.1)) (d.cmdExtents y c)

/-- Bytes `off` to `off + n - 1` of an extent, as the command writes them. -/
def Dev.cmdBytes (d : Dev) (y : Member) (c : Cmd) (ls off n : Nat) : List Byte :=
  if c.op = .fill then (List.range n).map (fun i => BitVec.ofNat 8 (c.sx / 256 ^ ((off + i) % 8)))
  else d.lsRead y (ls + off) n

/-- Does the operation write global memory or the Resident Buffer from its extents? -/
def CmdOp.writes : CmdOp → Bool
  | .put | .scatter | .red | .fill => true
  | .get | .gather | .kvg | .kva | .lchk | .xdisp => false

/-- DPAs that an append of the list entry at `at_` would write, for a sequence whose blocks are in HBM (R190). -/
def Dev.kvaTargets (d : Dev) (x : Member) (c : Cmd) : List (Nat × Nat) :=
  let layer := d.lsNat x (c.sd + 2) 1
  let list := d.lsNat x (c.sd + 4) 4
  let off := d.lsNat x (c.sd + 0x14) 2
  let len := d.lsNat x (c.sd + 0x16) 2
  (List.range (d.lsNat x c.sd 2)).flatMap (fun i =>
    let e := list + 16 * i
    let y := d.slot (d.lsNat x e 2)
    (List.range (d.lsNat x (e + 8) 4)).filterMap (fun j =>
      let p := y.length + d.lsNat x (e + 4) 4 + j
      if kvState (d.kvGet (y.spanBase + p / 32)) = .hbm then (d.posDpa y layer p).map (fun q => (q + off, len)) else none))

/-- The targets of a command that ends before it has completed are torn at 64-byte granules (R167, R415): their bytes are free
values. A shadow run writes nothing (R437). -/
def Dev.tearCmd (d : Dev) (l : Launch) (x : Member) (c : Cmd) : Dev :=
  if !c.started || l.shadowOf.isSome then d
  else if c.op = .kva then (d.kvaTargets x c).foldl (fun d t => d.memFree t.1 t.2) d
  else if c.op.writes then
    (d.cmdExtents x c).foldl (fun d e =>
      if c.rb then
        let k := d.free
        (d.rbPut (d.partOfCtx l.ctx) e.1 ((List.range e.2.2).map (fun i => Config.freeByte (k + i)))).took e.2.2
      else d.tear l.ctx e.1 e.2.2) d
  else d

/-- Write bytes at an AVA page by page, as far as the pages are mapped, local, writable and at rest in HBM. -/
def Dev.landBytes (d : Dev) (c : Nat) : Nat → Nat → List Byte → Dev
  | _, _, [] => d
  | 0, _, _ => d
  | fuel + 1, ava, bs =>
    match d.walkTable c ava with
    | .page p =>
      let k := min bs.length (2 ^ p.lg - ava % 2 ^ p.lg)
      if p.w ∧ d.isLocal (d.partOfCtx c) p.dpa ∧ ¬p.inDdr ∧ (d.pageMove c p).isNone then
        (d.memPut (p.at_ ava % 2 ^ 48) (bs.take k)).landBytes c fuel (ava + k) (bs.drop k)
      else d
    | _ => d

/-- A command in flight of a launch that ends runs to completion (R163): what it has still to write of its rows is written. The targets
of a RED or an append are free values instead, which its result is one of (DESIGN CHOICE, log entry 130). -/
def Dev.landCmd (d : Dev) (l : Launch) (x : Member) (c : Cmd) : Dev :=
  if !c.started || l.shadowOf.isSome then d
  else match c.op with
    | .put | .scatter | .fill =>
      (d.sortedExtents x c).zipIdx.foldl (fun d e =>
        let off := if e.2 = c.row then c.off else 0
        let bs := d.cmdBytes x c e.1.2.1 off (e.1.2.2 - off)
        if e.2 < c.row then d
        else if c.rb then d.rbPut (d.partOfCtx l.ctx) (e.1.1 + off) bs
        else d.landBytes l.ctx (bs.length / 65536 + 2) (e.1.1 + off) bs) d
    | _ => d.tearCmd l x c

end Sys2Proof.Machine
end

