-- ==== Sys2Proof/Machine/CoreBase.lean ====
section
/-! DEFINITION. Harts and the physical cores that serve them (R19, R224): the CSRs of a trap and of the timer (R231), trap entry
(R226, R256), the store buffer (R254), and the start of a hart. -/

namespace Sys2Proof.Machine

/-- A physical core as the nominal Part Record sets it: core 7 of clusters 0 to 7 is a spare (R19, R224); no hart runs. -/
def coreInit (k : Nat) : Core :=
  if k < 64 ∧ k % 8 = 7 then { st := .spareFree, logical := none }
  else { st := .stopped, logical := some (if k < 64 then k - k / 8 else k - 8) }

/-- A physical core. -/
def Dev.core (d : Dev) (k : Nat) : Core := mapGet (coreInit k) d.cpx.cores k

/-- Set a physical core. -/
def Dev.setCore (d : Dev) (k : Nat) (c : Core) : Dev :=
  d.modCpx (fun z => { z with cores := mapSet (coreInit k) z.cores k c })

/-- The physical core that serves a hart. -/
def Dev.coreOf (d : Dev) (h : Nat) : Option Nat := (List.range 104).find? (fun k => (d.core k).logical == some h)

/-- A hart. -/
def Dev.hart (d : Dev) (h : Nat) : Hart := mapGet {} d.cpx.harts h

/-- Set a hart. -/
def Dev.setHart (d : Dev) (h : Nat) (x : Hart) : Dev := d.modCpx (fun z => { z with harts := mapSet {} z.harts h x })

/-- Change a hart. -/
def Dev.modHart (d : Dev) (h : Nat) (f : Hart → Hart) : Dev := d.setHart h (f (d.hart h))

/-- Is a hart running? -/
def Dev.runs (d : Dev) (h : Nat) : Bool :=
  match d.coreOf h with
  | some k => (d.core k).st = .running
  | none => false

/-- The power domain of a core's cluster (R450). -/
def coreDomain (k : Nat) : Nat := 96 + k / 8

/-! ### CSRs and traps

Numbers, bits and the entry of a trap are those of the RISC-V privileged specification (R11); `sstatus`, `sie` and `sip` are views of
`mstatus`, `mie` and `mip`, which are stored. -/

def csrMstatus : Nat := 0x300
def csrMedeleg : Nat := 0x302
def csrMie : Nat := 0x304
def csrMtvec : Nat := 0x305
def csrHedeleg : Nat := 0x602
def csrHstatus : Nat := 0x600
def csrStimecmp : Nat := 0x14D
def csrTime : Nat := 0xC01
def csrSip : Nat := 0x144

/-- A stored CSR. -/
def Hart.csrGet (x : Hart) (n : Nat) : Word := mapGet 0#64 x.csr n

/-- Store a CSR. -/
def Hart.csrSet (x : Hart) (n : Nat) (v : Word) : Hart := { x with csr := mapSet 0#64 x.csr n v }

/-- Has Board Time reached the supervisor timer's compare value (R231)? It is never early. -/
def Hart.timerDue (x : Hart) (bt : Nat) : Bool := decide ((x.csrGet csrStimecmp).toNat ≤ bt)

/-- What a CSR reads as: `time` is Board Time (R58, R231), and STIP of `sip` compares it with `stimecmp`. -/
def Hart.csrRead (x : Hart) (bt n : Nat) : Word :=
  if n = csrTime then BitVec.ofNat 64 bt
  else if n = csrSip then putBits (x.csrGet n) 5 5 (b2n (x.timerDue bt))
  else x.csrGet n

/-- The privilege level that takes a trap: the lowest that handles its cause (R226, R256). -/
inductive TrapLevel where
  | m | hs | vs
  deriving DecidableEq, Repr

/-- Traps from M-mode stay there; others go to HS-mode where `medeleg` delegates the cause, and on to VS-mode where `hedeleg` does. -/
def Hart.trapLevel (x : Hart) (cause : Nat) : TrapLevel :=
  if x.mode = 3 ∨ bit (x.csrGet csrMedeleg).toNat cause = false then .m
  else if x.virt ∧ bit (x.csrGet csrHedeleg).toNat cause then .vs
  else .hs

/-- Enter a trap handler at a level: `epc`, `cause` and `tval` are written, the enables are stacked, and the pc is the vector's base.
`code` is the cause register's value, with bit 63 set for an interrupt. -/
def Hart.enter (x : Hart) (level : TrapLevel) (code addr : Nat) : Hart :=
  let save := fun (epc cause tval : Nat) =>
    ((x.csrSet epc x.pc).csrSet cause (BitVec.ofNat 64 code)).csrSet tval (BitVec.ofNat 64 addr)
  let vector := fun (n : Nat) => BitVec.ofNat 64 ((x.csrGet n).toNat / 4 * 4)
  let stack := fun (w : Word) => putBits (putBits (putBits w 5 5 (bits w.toNat 1 1)) 1 1 0) 8 8 (b2n (decide (x.mode ≠ 0)))
  match level with
  | .m =>
    let w := x.csrGet csrMstatus
    let w := putBits (putBits (putBits (putBits w 7 7 (bits w.toNat 3 3)) 3 3 0) 12 11 x.mode) 39 39 (b2n x.virt)
    { (save 0x341 0x342 0x343).csrSet csrMstatus w with mode := 3, virt := false, pc := vector csrMtvec }
  | .hs =>
    let y := (save 0x141 0x142 0x143).csrSet csrMstatus (stack (x.csrGet csrMstatus))
    { y.csrSet csrHstatus (putBits (x.csrGet csrHstatus) 7 7 (b2n x.virt)) with mode := 1, virt := false, pc := vector 0x105 }
  | .vs =>
    { (save 0x241 0x242 0x243).csrSet 0x200 (stack (x.csrGet 0x200)) with mode := 1, virt := true, pc := vector 0x205 }

/-- A trap of the hart: at the level that handles its cause, with the last trap noted; a register store that has timed out is dropped
without a trap of its own (R256). -/
def Hart.trapped (x : Hart) (cause addr : Nat) : Hart :=
  { x.enter (x.trapLevel cause) cause addr with trap := some (cause, x.pc.toNat, addr), timedOut := [], regLoad := none }

/-! ### The store buffer (R254) -/

/-- Where a core's physical address lies: in its partition's memory, by DPA[47:0]; in its carve-out, by offset (R279); or nowhere. -/
inductive CorePlace where
  | mem (x : Nat)
  | rb (o : Nat)
  | none
  deriving DecidableEq, Repr

/-- The place of `n` bytes of a core of the partition at die `a` (R252). The node field is 0 or the device's own (R240; DEDUCED, log
entry 120). -/
def Dev.corePlace (d : Dev) (a addr n : Nat) : CorePlace :=
  let x := addr % 2 ^ 48
  if addr ≠ x ∧ d.isLocal a addr = false then .none
  else if 0xE00000000000 ≤ x then
    if x + n ≤ 0xE00000000000 + d.rbSize a then .rb (x - 0xE00000000000) else .none
  else if d.memOwner x = some a ∧ d.memOwner (x + n - 1) = some a then .mem x else .none

/-- The directory key of the line of an address, as a core of the partition at die `a` sees it. -/
def coreLine (a addr : Nat) : Nat :=
  let line := addr % 2 ^ 48 / 64
  if 0xE00000000000 ≤ 64 * line then (a + 1) * 2 ^ 48 + line else line

/-- A core holds a line alone, in M: every other copy and reservation is gone. -/
def Dev.ownLine (d : Dev) (h k : Nat) : Dev :=
  (d.modCoh (fun z => { z with
      dir := mapSet {} z.dir k { mapGet {} z.dir k with owner := some h, mod := true, fwd := none, shar := [] } })).modCpx
    (fun z => { z with harts := mapAll z.harts (fun j x => if x.lr = some k ∧ j ≠ h then { x with lr := none } else x) })

/-- A core writes bytes of a line that it owns, where its L1D makes them visible (R242). -/
def Dev.corePut (d : Dev) (h addr : Nat) (bs : List Byte) : Dev :=
  let a := d.partOfHart h
  match d.corePlace a addr bs.length with
  | .mem x => (d.memPut x bs).ownLine h (coreLine a addr)
  | .rb o => (d.rbPut a o bs).ownLine h (coreLine a addr)
  | .none => d

/-- The store buffer drains: its stores are visible, oldest first (R242, R254). -/
def Dev.drainStores (d : Dev) (h : Nat) : Dev :=
  ((d.hart h).stores.foldl (fun d s => d.corePut h s.1 s.2) d).modHart h (fun x => { x with stores := [] })

/-- The buffered stores to one line leave the buffer, oldest first. -/
def Dev.drainLine (d : Dev) (h k : Nat) : Dev :=
  let a := d.partOfHart h
  let hit := fun (s : Nat × List Byte) => coreLine a s.1 == k
  (((d.hart h).stores.filter hit).foldl (fun d s => d.corePut h s.1 s.2) d).modHart h
    (fun x => { x with stores := x.stores.filter (fun s => !hit s) })

/-- A precise exception of a hart: the buffer drains before the handler's first instruction (R254, R256). -/
def Dev.coreTrap (d : Dev) (h cause addr : Nat) : Dev := (d.drainStores h).modHart h (fun x => x.trapped cause addr)

/-! ### The supervisor timer (R231) -/

/-- Is a hart to take its supervisor timer interrupt: due, enabled in `mie` and by its mode? -/
def Hart.timerTakes (x : Hart) (bt : Nat) : Bool :=
  x.timerDue bt && bit (x.csrGet csrMie).toNat 5 &&
    (x.virt || x.mode == 0 || (x.mode == 1 && bit (x.csrGet csrMstatus).toNat 1))

/-- At a Board Time every running hart whose timer is due takes its interrupt, in HS-mode; its buffer drains first (R254). -/
def Dev.timerTick (bt : Nat) (d : Dev) : Dev :=
  d.cpx.harts.foldl (fun d h =>
    if d.runs h.1 ∧ h.2.timerTakes bt then
      (d.drainStores h.1).modHart h.1 (fun x => x.enter .hs (2 ^ 63 + 5) 0)
    else d) d

/-! ### The start of a hart -/

/-- A hart starts in HS-mode at an entry (R228, R233, R234): `a0` and `a1` as given, the other integer registers free, paging off
and interrupts disabled; the machine-level CSRs are the core monitor's (log entry 119). -/
def Dev.startHart (d : Dev) (h : Nat) (entry a0 a1 : Word) : Dev :=
  let k := d.free
  let x := ((List.range 31).foldl (fun (m : Map Word) i => mapSet 0#64 m (i + 1) (Config.freeWord (k + i))) [])
  let x := mapSet 0#64 (mapSet 0#64 x 10 a0) 11 a1
  let csr := [csrMedeleg, csrMtvec].foldl (fun (m : Map Word) n => mapSet 0#64 m n (Config.monitorCsr n)) []
  let d := (d.took 31).setHart h { mode := 1, pc := entry, x, csr }
  match d.coreOf h with
  | some c => d.setCore c { d.core c with st := .running }
  | none => d

/-- A hart stops: its buffer drains first (R254, R257). -/
def Dev.stopHart (d : Dev) (h : Nat) : Dev :=
  match d.coreOf h with
  | some k =>
    let d := d.drainStores h
    if (d.core k).st = .running then d.setCore k { d.core k with st := .stopped } else d
  | none => d

end Sys2Proof.Machine
end

