-- ==== Sys2Proof/Machine/BoardTime.lean ====
section
/-! DEFINITION. The discipline of Board Time (R57 to R66): samples of PTP and PPS, loss of a source, and the step. Board
Time counts ns; slewing changes its rate against the outside world, which the model has no clock for, so a correction is
kept as the offset that slewing has to take out (log entry 10). -/

namespace Sys2Proof.Machine

/-- States of Board Time (`BTM.STATUS.STATE`). -/
def btFreerun : Nat := 0
def btAcquiring : Nat := 1
def btLocked : Nat := 2
def btHoldover : Nat := 3

/-- The loss time of a source (R59): 2 s for PTP, 1.5 s for PPS. -/
def lossTime (src : Nat) : Nat := if src = 1 then 2000000000 else 1500000000

/-- The record of a source. -/
def Dev.btSrc (d : Dev) (src : Nat) : BtSrc := if src = 1 then d.time.ptp else d.time.pps

/-- Set the record of a source. -/
def Dev.setBtSrc (d : Dev) (src : Nat) (x : BtSrc) : Dev :=
  if src = 1 then (d.modTime (fun z => { z with ptp := x })) else d.modTime (fun z => { z with pps := x })

/-- Is the source enabled and not declared faulty (R59, R63)? -/
def Dev.btUsable (d : Dev) (src : Nat) : Bool :=
  if src = 1 then d.fon F.btmCtrlPtpEn 0 && !d.fon F.btmStatusPtpFault 0
  else d.fon F.btmCtrlPpsEn 0 && !d.fon F.btmStatusPpsFault 0

/-- Has it supplied an accepted sample within its loss time? -/
def Dev.btAlive (bt : Nat) (d : Dev) (src : Nat) : Bool :=
  d.btUsable src && (match (d.btSrc src).last with
    | some t => decide (bt < t + lossTime src)
    | none => false)

/-- The source in use: 0 none, 1 PTP, 2 PPS, 3 reference. -/
def Dev.btSource (d : Dev) : Nat := d.fget F.btmStatusSource 0

/-- Begin to acquire from a source (R64). -/
def Dev.btAcquire (d : Dev) (src : Nat) : Dev :=
  let d := (d.fset F.btmStatusState 0 btAcquiring).fset F.btmStatusSource 0 src
  d.modTime (fun z => { z with lockRun := 0 })

/-- Every source is lost: HOLDOVER with HOLD_EN, else FREERUN with the correction discarded and the error bound saturated
(R62). What ERR_BOUND_NS shows in HOLDOVER the spec leaves open: it keeps its last value (DESIGN CHOICE, log entry 131). -/
def Dev.btNoSource (d : Dev) : Dev :=
  if d.fon F.btmCtrlHoldEn 0 then (d.fset F.btmStatusState 0 btHoldover).fset F.btmStatusSource 0 3
  else (((d.fset F.btmStatusState 0 btFreerun).fset F.btmStatusSource 0 0).fset F.btmFreqAdjAdj 0 0).fset
    F.btmStatusErrBoundNs 0 0xFFFFFFFF

/-- The source in use is gone: fall to the other if it is alive, else to none (R59, R63). -/
def Dev.btFall (bt : Nat) (d : Dev) (src : Nat) : Dev :=
  if d.btAlive bt (3 - src) then d.btAcquire (3 - src) else d.btNoSource

/-- Declare a source faulty (R63). -/
def Dev.btFault (bt : Nat) (d : Dev) (src : Nat) : Dev :=
  let d := if src = 1 then d.fset F.btmStatusPtpFault 0 1 else d.fset F.btmStatusPpsFault 0 1
  d.btFall bt src

/-- A rejected sample (R63). Rejections made while the source was not the active one count on toward REJECT_LIMIT once it
is (DESIGN CHOICE, log entry 132). -/
def Dev.btReject (bt : Nat) (d : Dev) (src : Nat) : Dev :=
  let x := d.btSrc src
  let d := (d.fbump F.btmSrcStatRejected 0 1).setBtSrc src { x with acc := 0, rej := x.rej + 1 }
  if d.btSource = src ∧ x.rej + 1 ≥ d.fget F.btmSrcFiltRejectLimit 0 then d.btFault bt src else d

/-- Move the time of a source's last accepted sample. -/
def Dev.shiftSrc (d : Dev) (src n : Nat) : Dev :=
  d.setBtSrc src { d.btSrc src with last := (d.btSrc src).last.map (· + n) }

/-- The step of Board Time by an offset it is behind (R65): forward only, and only while no context is admitted; otherwise
the offset is slewed. The step is no time without samples: it moves the last accepted sample of each source with it. -/
def Dev.btStep (bt : Nat) (d : Dev) (offset : Int) : Nat × Dev :=
  if 0 < offset ∧ ¬ d.anyCtx then
    (bt + offset.toNat, ((d.shiftWheels offset.toNat).shiftSrc 1 offset.toNat).shiftSrc 2 offset.toNat)
  else (bt, (d.modTime (fun z => { z with slew := offset })))

/-- An accepted sample of a source (R63 to R65): the loop learns a new estimate, correction and error bound, whose values
the spec leaves open; the source in use locks after 16 of them with an error bound below 1,000 ns; a more preferred source
takes over after 16 accepted samples in a row; the first lock and a step asked for step Board Time. -/
def Dev.btAccept (bt : Nat) (d : Dev) (src : Nat) (offset : Int) : Nat × Dev :=
  let x := d.btSrc src
  let est := Config.freeInt d.free
  let bound := Config.freeNat (d.free + 1) % 2 ^ 32
  let adj := Config.freeInt (d.free + 2) % 102400001 - 51200000
  let d := (d.took 3).setBtSrc src { acc := x.acc + 1, rej := 0, last := some bt, est := some est }
  -- which source is in use after this sample
  let d :=
    if d.btSource = src then d
    else if d.btSource = 0 ∨ d.btSource = 3 then d.btAcquire src
    else if src < d.btSource ∧ x.acc + 1 ≥ 16 then d.btAcquire src
    else d
  if d.btSource ≠ src then (bt, d)
  else
    let d := ((d.fbump F.btmSrcStatAccepted 0 1).fset F.btmStatusErrBoundNs 0 bound).fset F.btmFreqAdjAdj 0
      (toBits 32 adj)
    let run := if bound < 1000 then d.time.lockRun + 1 else 0
    let d := d.modTime (fun z => { z with lockRun := run })
    let locks := d.fget F.btmStatusState 0 == btAcquiring && decide (16 ≤ run)
    let first := locks && !d.time.lockedOnce
    let d := if locks then d.fset F.btmStatusState 0 btLocked else d
    let d := if locks then (d.modTime (fun z => { z with lockedOnce := true })) else d
    if first || d.time.stepReq then (d.modTime (fun z => { z with stepReq := false })).btStep bt offset
    else (bt, (d.modTime (fun z => { z with slew := offset })))

/-- Does a sample differ from the source's estimate by more than OUTLIER_NS (R63)? Before the first accepted sample there
is no estimate and nothing to differ from (DESIGN CHOICE, log entry 10). Each source has an estimate of its own (DESIGN
CHOICE, log entry 133). -/
def Dev.btOutlier (d : Dev) (src : Nat) (offset : Int) : Bool :=
  match (d.btSrc src).est with
  | some e => decide (d.fget F.btmSrcFiltOutlierNs 0 < (offset - e).natAbs)
  | none => false

/-- PTP_SAMPLE: a sample from fabric port Fport counts while source 1 is enabled, not faulty, and the port allowed. -/
def Dev.ptpSample (bt : Nat) (d : Dev) (port : Nat) (offset : Int) : Nat × Dev :=
  if d.btUsable 1 ∧ bit (d.fget F.btmCtrlPtpPorts 0) port then
    if d.btOutlier 1 offset then (bt, d.btReject bt 1)
    else (d.fset F.btmStatusPtpPort 0 port).btAccept bt 1 offset
  else (bt, d)

/-- PPS_EDGE (R61, R63): a pulse shorter than GLITCH × 10 ns is ignored. VALID clears at the edge; a second that is not
the one counted on rejects the edge, as does, once locked, an edge further than WINDOW_NS away. An edge clears VALID and
counts the second whether or not source 2 is used; only a usable source disciplines Board Time. -/
def Dev.ppsEdge (bt : Nat) (d : Dev) (offset : Int) (widthNs : Nat) : Nat × Dev :=
  if d.time.traceTrigger ∨ widthNs < d.fget F.btmPpsCfgGlitch 0 * 10 then (bt, d)
  else
    let valid := d.fon F.btmTodValid 0
    let sec := d.fget F.btmTodSec 0
    let counted := d.time.ppsSec.map (· + 1)
    let wrong := valid && (match counted with
      | some c => c != sec
      | none => false)
    let far := d.fget F.btmStatusState 0 == btLocked && decide (d.fget F.btmPpsCfgWindowNs 0 < offset.natAbs)
    let next := if wrong then counted else if valid then some sec else counted
    let d := d.fset F.btmTodValid 0 0
    let d := d.modTime (fun z => { z with ppsSec := next })
    if !d.btUsable 2 then (bt, d)
    else if wrong || far || d.btOutlier 2 offset then (bt, d.btReject bt 2) else d.btAccept bt 2 offset

/-- SOURCE_LOST: the source has supplied no accepted sample within its loss time (R59, R62). -/
def Dev.sourceLost (bt : Nat) (d : Dev) (src : Nat) : Dev :=
  if d.btAlive bt src then d
  else
    let d := d.setBtSrc src { d.btSrc src with acc := 0 }
    if d.btSource = src ∧ (src = 1 ∨ src = 2) then d.btFall bt src else d

/-- A write of `BTM.CTRL` (R65, R82): PPS_EN while the land serves the trace trigger is refused with CONFLICT; STEP_REQ
while a context is admitted is refused. A source in use that the write disables is used no more: Board Time falls to the
other enabled source, or to none (R59). -/
def Dev.btmCtrlWrite (bt : Nat) (d : Dev) (p : Party) (v : Word) : Dev :=
  let step := bit v.toNat 11
  d.regWrite p .btmCtrl 0 v (verdict (step && d.anyCtx) (bit v.toNat 1 && d.time.traceTrigger))
    (fun d =>
      let d := if bit v.toNat 12 then d.clearCounters .btmSrcStat 0 else d
      let d := if step then (d.modTime (fun z => { z with stepReq := true })) else d
      let src := d.btSource
      if (src = 1 ∨ src = 2) ∧ ¬ d.btUsable src then d.btFall bt src else d)

/-- A write of `BTM.STATUS`: clearing PTP_FAULT or PPS_FAULT lets the source be used again; SRC_FAULT is their OR. -/
def Dev.btmStatusWrite (d : Dev) (p : Party) (v : Word) : Dev := d.regWrite p .btmStatus 0 v .ok id

/-- A write of `BTM.FREQ_ADJ`: refused outside FREERUN and beyond ±200 ppm (R82). -/
def Dev.btmFreqAdjWrite (d : Dev) (p : Party) (v : Word) : Dev :=
  d.regWrite p .btmFreqAdj 0 v
    (verdict (d.fget F.btmStatusState 0 != btFreerun || decide (51200000 < (ofBits 32 v.toNat).natAbs)) false) id

def execPtpSample (port : Nat) (offset : Int) : State → Host.Outcome State Fault Refusal :=
  onTime (fun bt d => d.ptpSample bt port offset)

def execPpsEdge (offset : Int) (widthNs : Nat) : State → Host.Outcome State Fault Refusal :=
  onTime (fun bt d => d.ppsEdge bt offset widthNs)

def execSourceLost (src : Nat) : State → Host.Outcome State Fault Refusal :=
  onDev (fun bt d => d.sourceLost bt src)

/-- STEP_REQ: a write of `BTM.CTRL`. -/
def execStepReq (p : Party) (v : Word) : State → Host.Outcome State Fault Refusal :=
  onDev (fun bt d => d.btmCtrlWrite bt p v)

/-- TOD_WRITE: the tray controller's write of `BTM.TOD` over I3C (R61). -/
def execTodWrite (v : Word) : State → Host.Outcome State Fault Refusal :=
  onDev (fun _ d => d.regWrite (.firmware 0) .btmTod 0 v .ok id)

end Sys2Proof.Machine
end

