-- ==== Sys2Proof/Machine/CoreMem.lean ====
section
/-! DEFINITION. Memory accesses of the resident cores (R225, R226, R252, R259): which ones trap, what a load reads and what a store, an
atomic or a paired access does once the core holds the line. -/

namespace Sys2Proof

/-! ### The form of an access -/

/-- Bytes an access touches. -/
def CoreOp.size : CoreOp → Nat
  | .load n _ _ => n
  | .fetch => 4
  | .pairLoad _ => 16
  | .lr n _ => n
  | .store n _ => n
  | .pairStore _ => 16
  | .sc n _ _ => n
  | .amo _ n _ _ => n
  | .casq _ _ => 16

/-- Does it only read: RDS serves it? The others gain ownership first (R225). -/
def CoreOp.reads : CoreOp → Bool
  | .load _ _ _ => true
  | .fetch => true
  | .pairLoad _ => true
  | .lr _ _ => false
  | .store _ _ => false
  | .pairStore _ => false
  | .sc _ _ _ => false
  | .amo _ _ _ _ => false
  | .casq _ _ => false

/-- A plain store, which goes through the store buffer (R254). -/
def CoreOp.plainStore : CoreOp → Bool
  | .store _ _ => true
  | .pairStore _ => true
  | _ => false

/-- An AMO, LR, SC or `amocas.q`. -/
def CoreOp.atomic : CoreOp → Bool
  | .lr _ _ => true
  | .sc _ _ _ => true
  | .amo _ _ _ _ => true
  | .casq _ _ => true
  | _ => false

/-- A vector access. -/
def CoreOp.vector : CoreOp → Bool
  | .pairLoad _ => true
  | .pairStore _ => true
  | _ => false

/-- The cause of its access fault: 1 for a fetch, 5 for a load, 7 for a store or an atomic (R226, R256, R259). -/
def CoreOp.cause : CoreOp → Nat
  | .fetch => 1
  | .load _ _ _ => 5
  | .pairLoad _ => 5
  | .lr _ _ => 5
  | _ => 7

/-- The cause of its misaligned-address exception. -/
def CoreOp.misaligned : CoreOp → Nat
  | .lr _ _ => 4
  | _ => 6

/-- The exception of an access to main memory before anything is asked for, if one (R252, R259): atomics are aligned to their size
(PRESUMED for AMO, LR and SC: the RISC-V specification, log entry 121), and `amocas.q` takes cacheable memory only. -/
def CoreAcc.exc (x : CoreAcc) : Option Nat :=
  if x.op.atomic ∧ x.addr % x.op.size ≠ 0 then some x.op.misaligned
  else match x.op, x.attr with
    | .casq _ _, .nc => some 7
    | .casq _ _, .io => some 7
    | _, _ => none

end Sys2Proof

namespace Sys2Proof.Machine

/-! ### Reading and writing -/

/-- Bytes of memory or the carve-out. -/
def Dev.placeBytes (d : Dev) (a : Nat) (p : CorePlace) (n : Nat) : List Byte :=
  match p with
  | .mem x => memReadBytes d.mem x n
  | .rb o => memReadBytes (d.rbMem a) o n
  | .none => []

/-- Does a read of a place meet poison (R226)? -/
def Dev.placePoisoned (d : Dev) (a : Nat) (p : CorePlace) (n : Nat) : Bool :=
  match p with
  | .mem x => d.poisoned x n
  | .rb o => d.rbPoisoned a o n
  | .none => false

/-- A byte read, with the hart's own buffered stores over it, the newest last. -/
def overStores (stores : List (Nat × List Byte)) (addr : Nat) (b : Byte) : Byte :=
  stores.foldl (fun b s => if s.1 ≤ addr then ((s.2)[addr - s.1]?).getD b else b) b

/-- What a hart reads at an address. -/
def Dev.coreBytes (d : Dev) (h addr n : Nat) (p : CorePlace) : List Byte :=
  (d.placeBytes (d.partOfHart h) p n).zipIdx.map (fun b => overStores (d.hart h).stores (addr + b.2) b.1)

/-- An integer register; x0 reads 0. -/
def Hart.xGet (x : Hart) (n : Nat) : Word := if n = 0 then 0#64 else mapGet 0#64 x.x n

/-- Write an integer register; a write to x0 is ignored. -/
def Hart.xPut (x : Hart) (n : Nat) (v : Word) : Hart := if n = 0 then x else { x with x := mapSet 0#64 x.x n v }

/-- A vector register. -/
def Hart.vGet (x : Hart) (n : Nat) : BitVec 256 := mapGet 0#256 x.v n

/-- The register pair of `amocas.q`: 128 bits, the even register low; the pair at x0 reads 0 and is not written. -/
def Hart.pairGet (x : Hart) (n : Nat) : Nat := if n = 0 then 0 else (x.xGet n).toNat + 2 ^ 64 * (x.xGet (n + 1)).toNat
def Hart.pairPut (x : Hart) (n v : Nat) : Hart :=
  if n = 0 then x else (x.xPut n (BitVec.ofNat 64 v)).xPut (n + 1) (BitVec.ofNat 64 (v / 2 ^ 64))

/-- A load's value in its register: sign-extended, or zero-extended (`ofBits` in Num.lean reads a signed number). -/
def loadWord (n : Nat) (sign : Bool) (v : Nat) : Word :=
  if sign then BitVec.ofInt 64 (ofBits (8 * n) v) else BitVec.ofNat 64 v

/-- A plain store enters the store buffer, one entry for each granule it touches (R248, R254); a paired store that is not aligned to 16
bytes or not to cacheable memory is two stores of 8 bytes (R259). -/
def Dev.bufferStore (d : Dev) (h : Nat) (x : CoreAcc) : Dev :=
  d.modHart h (fun y =>
    let whole : List (Nat × List Byte) := match x.op with
      | .store n rs => [(x.addr, leBytes n (y.xGet rs).toNat)]
      | .pairStore vs =>
        let bs := leBytes 16 (y.vGet vs).toNat
        if x.addr % 16 = 0 ∧ x.attr = MemAttr.pma then [(x.addr, bs)] else [(x.addr, bs.take 8), (x.addr + 8, bs.drop 8)]
      | _ => []
    let cut := whole.flatMap (fun s =>
      let k := min s.2.length (64 - s.1 % 64)
      if k = s.2.length then [s] else [(s.1, s.2.take k), (s.1 + k, s.2.drop k)])
    { y with stores := y.stores ++ cut, pc := y.pc + BitVec.ofNat 64 x.len })

/-- An access that reads or is atomic is performed (R225, R249, R259): a poisoned granule raises its access fault, with a log entry
(R226); else the registers and memory change and the pc moves on. A store-conditional succeeds while its reservation holds. -/
def Dev.coreDo (bt : Nat) (d : Dev) (h : Nat) (x : CoreAcc) : Dev :=
  let a := d.partOfHart h
  let n := x.op.size
  let p := d.corePlace a x.addr n
  let y := d.hart h
  let next := fun (d : Dev) (f : Hart → Hart) => d.modHart h (fun y => { f y with pc := y.pc + BitVec.ofNat 64 x.len })
  if d.placePoisoned a p n then (d.tlog bt 1 44 (some a) h x.addr).coreTrap h x.op.cause x.addr
  else
    let old := leNat (d.coreBytes h x.addr n p)
    match x.op with
    | .load n sg rd => next d (fun y => y.xPut rd (loadWord n sg old))
    | .fetch => d
    | .pairLoad vd => next d (fun y => { y with
        v := mapSet 0#256 y.v vd (BitVec.ofNat 256 ((y.vGet vd).toNat / 2 ^ 128 * 2 ^ 128 + old)) })
    | .lr n rd => next d (fun y => { y.xPut rd (loadWord n true old) with lr := some (coreLine a x.addr) })
    | .sc n rd rs =>
      let ok := decide (y.lr = some (coreLine a x.addr))
      let d := if ok then d.corePut h x.addr (leBytes n (y.xGet rs).toNat) else d
      next d (fun y => { y.xPut rd (if ok then 0#64 else 1#64) with lr := none })
    | .amo fn n rd rs =>
      let low := fun (w : Word) => w.toNat % 2 ^ (8 * n)
      match amoOp fn n old (low (y.xGet rs)) (low (y.xGet rd)) with
      | some v => next (d.corePut h x.addr (leBytes n v)) (fun y => y.xPut rd (loadWord n true old))
      | none => d
    | .casq rd rs =>
      let d := if old = y.pairGet rd then d.corePut h x.addr (leBytes 16 (y.pairGet rs)) else d
      next d (fun y => y.pairPut rd old)
    | .store _ _ => d
    | .pairStore _ => d

end Sys2Proof.Machine
end

