-- ==== Sys2Proof/Machine/Coh.lean ====
section
/-! DEFINITION. The shared cache's protocol (R260 to R281) and the Kiorn links (R282 to R285): requests of the coherent agents,
owner queues and credits, evictions, slice errors, the carve-out, and lane groups. Bytes are read and written in the coherent
view of memory; the directory says who holds what. -/

namespace Sys2Proof.Machine

/-- The partition an agent belongs to: cores 0 to 95, Sequence Engines 96 + n. -/
def Dev.partOfAgent (d : Dev) (g : Nat) : Nat := if g < 96 then d.partOfHart g else d.partOfDie (g - 96)

/-- The directory key of a line as an agent addresses it: its own partition's carve-out behind the window of R252. -/
def Dev.lineKey (d : Dev) (g line : Nat) : Nat :=
  if 0xE00000000000 ≤ 64 * line then (d.partOfAgent g + 1) * 2 ^ 48 + line else line

/-- May an agent use a line (R263): memory of its partition, or its carve-out? -/
def Dev.lineOk (d : Dev) (g line : Nat) : Bool :=
  let a := d.partOfAgent g
  decide (g < 104) && (d.memOwner (64 * line) == some a ||
    (decide (0xE00000000000 ≤ 64 * line) && decide (64 * line + 64 ≤ 0xE00000000000 + d.rbSize a)))

/-- The slice of a directory key (R261, R279). -/
def Dev.sliceOf (d : Dev) (k : Nat) : Nat :=
  if k < 2 ^ 48 then (d.homeSlice (64 * k)).getD 0
  else
    let a := k / 2 ^ 48 - 1
    d.rbSlice a (64 * (k - rbLine a))

/-- The directory key of line `line` at a slice: a line of the window is one of the slice's partition (R279). -/
def Dev.sliceKey (d : Dev) (slice line : Nat) : Nat :=
  if 0xE00000000000 ≤ 64 * line then
    (d.partOfDie (if slice < 64 then slice / 8 else (slice - 64) / 2) + 1) * 2 ^ 48 + line
  else line

/-- Does a line lie at a slice: memory whose home it is, or a line of its partition's carve-out? -/
def Dev.atSlice (d : Dev) (slice line : Nat) : Bool :=
  let k := d.sliceKey slice line
  if k < 2 ^ 48 then d.homeSlice (64 * line) == some slice
  else decide (slice < 80) && d.sliceOf k == slice && decide (64 * line + 64 ≤ 0xE00000000000 + d.rbSize (k / 2 ^ 48 - 1))

/-- A directory entry. -/
def Dev.dirEnt (d : Dev) (k : Nat) : DirEnt := mapGet {} d.coh.dir k

/-- Change a directory entry. -/
def Dev.modDir (d : Dev) (k : Nat) (f : DirEnt → DirEnt) : Dev :=
  d.modCoh (fun z => { z with dir := mapSet {} z.dir k (f (d.dirEnt k)) })

/-- Does the directory name a holder of the line? -/
def DirEnt.held (e : DirEnt) : Bool := e.owner.isSome || e.fwd.isSome || !e.shar.isEmpty

/-- Does an agent hold the line so that it may read it (R265)? -/
def DirEnt.holds (e : DirEnt) (g : Nat) : Bool := e.owner == some g || e.fwd == some g || e.shar.contains g

/-- The agents other than `g` lose the line, and their cores any reservation on it. -/
def Dev.loseLine (d : Dev) (k : Nat) (f : Nat → Bool) : Dev :=
  d.modCpx (fun z => { z with harts := mapAll z.harts (fun h x => if x.lr = some k ∧ f h then { x with lr := none } else x) })

/-- Change a request. -/
def Dev.modReq (d : Dev) (n : Nat) (f : CohReq → CohReq) : Dev :=
  d.modCoh (fun z => { z with reqs := mapModify z.reqs n f })

/-- Forget a request that has been answered. -/
def Dev.dropReq (d : Dev) (n : Nat) : Dev := d.modCoh (fun z => { z with reqs := mapErase z.reqs n })

/-! ### Queues and credits (R267 to R269) -/

/-- The home slice of a directory key as an owner: it has an owner queue like an agent (R268). -/
def Dev.homeAgent (d : Dev) (k : Nat) : Nat := 104 + d.sliceOf k

/-- The node of an agent (R13): cores and Hub slices are on the Hub. -/
def agentNode (g : Nat) : Nat := if g < 96 then hubNode else if g < 104 then g - 96 else sliceNode (g - 104)

/-- Does a request reach its home slice, and what the slice sends reach an agent, over the Kiorn links (R284)? -/
def Dev.homeOpen (d : Dev) (g k : Nat) : Bool := d.wayOpen (agentNode g) (d.sliceOf k)

/-- The owner of a line: an agent in M or E, else its home slice (R267). -/
def Dev.lineOwner (d : Dev) (k : Nat) : Nat := ((d.dirEnt k).owner).getD (d.homeAgent k)

/-- Entries used of an owner queue: requests sent to the owner of their line. A read sent to a holder in F uses no credit of it. -/
def Dev.creditsUsed (d : Dev) (o : Nat) : Nat :=
  (d.coh.reqs.filter (fun r => r.2.fwdTo == some o && d.lineOwner r.2.line == o)).length

/-- Has a request been refused often enough to be urgent? -/
def Dev.urgent (d : Dev) (r : CohReq) : Bool := decide (d.fget F.shcRetryCfgUrgentAfter 0 ≤ r.refused)

/-- Does a waiting request go before another, for the next credit of an owner: the oldest urgent one first, but no request before a
returned forward that arrived before it (R268, R269; DEDUCED, log entry 122)? Returned forwards keep their queue order. -/
def Dev.goesFirst (d : Dev) (p q : Nat × CohReq) : Bool :=
  match p.2.ret, q.2.ret with
  | true, true => decide (p.2.place < q.2.place)
  | true, false => !(d.urgent q.2 && decide (q.1 < p.1))
  | false, true => d.urgent p.2 && decide (p.1 < q.1)
  | false, false => d.urgent p.2 && (!d.urgent q.2 || decide (p.1 < q.1))

/-- May request `n` take a credit of owner `o`? -/
def Dev.mayForward (d : Dev) (o n : Nat) (r : CohReq) : Bool :=
  decide (d.creditsUsed o < 8) && !(d.coh.reqs.any (fun p =>
    p.2.fwdTo.isNone && d.lineOwner p.2.line == o && p.1 != n && (p.2.ret || decide (0 < p.2.refused)) && d.goesFirst p (n, r)))

/-- Put a request into a queue, at its end. -/
def Dev.enqueue (d : Dev) (n o : Nat) : Dev :=
  (d.modReq n (fun r => { r with fwdTo := some o, place := d.coh.nextPlace })).modCoh
    (fun z => { z with nextPlace := z.nextPlace + 1 })

/-- Send a request to the owner, or refuse it; a returned forward waits (R269). -/
def Dev.forward (bt : Nat) (d : Dev) (n o : Nat) (r : CohReq) : Dev :=
  if d.mayForward o n r then d.enqueue n o
  else if r.ret then d
  else (d.modReq n (fun r => { r with refused := r.refused + 1, last := bt })).fbump F.shcSliceStat1Nacks (d.sliceOf r.line) 1

/-! ### The home slice (R265, R267) -/

/-- A request has been answered: a core's buffered stores to a line that it now owns leave the buffer, and the access that waited is
performed. -/
def Dev.lineGranted (bt : Nat) (d : Dev) (r : CohReq) : Dev :=
  if r.agent < 96 then
    let d := if (d.dirEnt r.line).owner = some r.agent ∧ r.kind ≠ .rds then d.drainLine r.agent r.line else d
    match r.acc with
    | some x => if d.runs r.agent then d.coreDo bt r.agent x else d
    | none => d
  else d

/-- The home slice answers a read or ownership request itself, as the owner. Whether the slice held the line's data, and so
which counter rises, is a free value. -/
def Dev.homeAnswer (bt : Nat) (d : Dev) (n : Nat) (r : CohReq) : Dev :=
  let e := d.dirEnt r.line
  let s := d.sliceOf r.line
  let d := d.fbump (if Config.freeBool d.free then F.shcSliceStat0Hits else F.shcSliceStat0Misses) s 1
  let d := (d.took 1).dropReq n
  Dev.lineGranted bt (match r.kind with
    | .rds =>
      if e.held then d.modDir r.line (fun e => { e with fwd := some r.agent, shar := listDel e.shar r.agent })
      else d.modDir r.line (fun e => { e with owner := some r.agent, mod := false })
    | _ =>
      (d.modDir r.line (fun e => { e with owner := some r.agent, mod := true, fwd := none, shar := [] })).loseLine r.line
        (fun h => h != r.agent)) r

/-- Requests for a line that wait at its holder in F, or before request `n` in its home slice's queue. -/
def Dev.atHolder (d : Dev) (k n : Nat) : Bool :=
  d.coh.reqs.any (fun p => p.1 != n && p.2.line == k && (match p.2.fwdTo with
    | some o => decide (o ≠ d.homeAgent k)
    | none => false))
def Dev.atHome (d : Dev) (k n : Nat) (r : CohReq) : Bool :=
  d.coh.reqs.any (fun p => p.1 != n && p.2.line == k && p.2.fwdTo == some (d.homeAgent k) && (!r.ret || decide (p.2.place < r.place)))

/-- The home slice takes a request that has reached it: it sends it to the owner in M or E; as the owner itself it keeps the order of
conflicting requests in its own queue, sends a read to the holder in F, or answers (R267). -/
def Dev.homeServe (bt : Nat) (d : Dev) (n : Nat) : Dev :=
  match mapFind? d.coh.reqs n with
  | some r =>
    if ¬d.homeOpen r.agent r.line then d
    else
      let e := d.dirEnt r.line
      match e.owner with
      | some o => if o = r.agent then (d.dropReq n).lineGranted bt r else d.forward bt n o r
      | none =>
        if d.atHome r.line n r ∨ (r.kind ≠ .rds ∧ d.atHolder r.line n) then d.forward bt n (d.homeAgent r.line) r
        else match r.kind, e.fwd with
          | .rds, some f => if f = r.agent then (d.dropReq n).lineGranted bt r else d.enqueue n f
          | _, _ => d.homeAnswer bt n r
  | none => d

/-- The requests that wait in a queue, or have come back from one, in queue order. -/
def inPlace (rs : List (Nat × CohReq)) : List (Nat × CohReq) := sortBy (fun p q => decide (p.2.place ≤ q.2.place)) rs

/-- Returned forwards that wait for a credit of an owner are sent on, in order. -/
def Dev.pump (bt : Nat) (d : Dev) (o : Nat) : Dev :=
  (inPlace (d.coh.reqs.filter (fun p => p.2.ret && p.2.fwdTo.isNone && d.lineOwner p.2.line == o))).foldl (fun d p => d.homeServe bt p.1) d

/-- Requests leave a queue for the home slice, ahead of every later one (R269), which takes them again in queue order. -/
def Dev.requeue (bt : Nat) (d : Dev) (rs : List (Nat × CohReq)) : Dev :=
  let d := rs.foldl (fun d p => d.modReq p.1 (fun r => { r with fwdTo := none, ret := true })) d
  rs.foldl (fun d p => d.homeServe bt p.1) d

/-- Forwards of a line queued at an agent that no longer answers them go back to the home slice (R269). -/
def Dev.returnForwards (bt : Nat) (d : Dev) (o k : Nat) : Dev :=
  (d.requeue bt (inPlace (d.coh.reqs.filter (fun p => p.2.fwdTo == some o && p.2.line == k)))).pump bt o

/-- What waits in the home slice's own queue for a line goes on, in order, as far as it may: to a new owner, or to its answer. -/
def Dev.settleLine (bt : Nat) (d : Dev) (k : Nat) : Dev :=
  (inPlace (d.coh.reqs.filter (fun p => p.2.fwdTo == some (d.homeAgent k) && p.2.line == k))).foldl (fun d p =>
    if (d.dirEnt k).owner.isSome ∨ (d.atHome k p.1 { p.2 with ret := true } = false ∧ (p.2.kind = .rds ∨ d.atHolder k p.1 = false)) then
      d.requeue bt [p]
    else d) d

/-- A request of an agent for a line: refused outside its partition (R263), else taken by the home slice. -/
def Dev.request (bt : Nat) (d : Dev) (g line : Nat) (kind : ReqKind) (acc : Option CoreAcc) : Dev :=
  if ¬d.lineOk g line then
    let d := d.tlog bt 4 50 (some (d.partOfAgent g)) g (64 * line)
    if g < 96 ∧ d.runs g then d.coreTrap g (if kind = .rds then 5 else 7) (64 * line) else d
  else
    let k := d.lineKey g line
    let n := d.coh.nextReq
    let d := d.modCoh (fun z => { z with reqs := mapPut z.reqs n { agent := g, line := k, kind, bt, acc }, nextReq := n + 1 })
    (d.homeServe bt n).settleLine bt k

/-- Has the agent a request for the line already? -/
def Dev.asked (d : Dev) (g k : Nat) : Bool := d.coh.reqs.any (fun p => p.2.agent == g && p.2.line == k)

/-- A read miss. A sharer bit of the agent itself is stale (R265). -/
def Dev.rds (bt : Nat) (d : Dev) (g line : Nat) (acc : Option CoreAcc) : Dev :=
  let k := d.lineKey g line
  let e := d.dirEnt k
  if e.owner = some g ∨ e.fwd = some g ∨ d.asked g k then d
  else (if e.shar.contains g then d.modDir k (fun e => { e with shar := listDel e.shar g }) else d).request bt g line .rds acc

/-- A write: a holder in E takes M silently, one in M has it already; else the line is asked for. -/
def Dev.rdx (bt : Nat) (d : Dev) (g line : Nat) (acc : Option CoreAcc) : Dev :=
  let k := d.lineKey g line
  if (d.dirEnt k).owner = some g then d.modDir k (fun e => { e with mod := true })
  else if d.asked g k then d
  else d.request bt g line .rdx acc

/-- A holder in S or F asks for ownership. -/
def Dev.upgrade (bt : Nat) (d : Dev) (g line : Nat) (acc : Option CoreAcc) : Dev :=
  let k := d.lineKey g line
  let e := d.dirEnt k
  if (e.fwd = some g ∨ e.shar.contains g) ∧ ¬d.asked g k then d.request bt g line .upgrade acc else d

/-- The oldest forward queued at an agent for a line, where it is a read or not: an owner serves its forwards in queue order (R267). -/
def Dev.oldestFwd (d : Dev) (o k : Nat) (read : Bool) : Option (Nat × CohReq) :=
  match (inPlace (d.coh.reqs.filter (fun p => p.2.fwdTo == some o && p.2.line == k))).head? with
  | some p => if decide (p.2.kind = .rds) = read then some p else none
  | none => none

/-- FWDS: an owner in M or E, or the holder in F, supplies the data and keeps S, and the requester takes F; from M the data
are also written back. Any other state bounces it. Over a dead link the forward does not arrive. -/
def Dev.fwds (bt : Nat) (d : Dev) (o line : Nat) : Dev :=
  let k := d.lineKey o line
  match d.oldestFwd o k true with
  | some (n, r) =>
    let e := d.dirEnt k
    if ¬d.homeOpen o k then d
    else if e.owner = some o ∨ e.fwd = some o then
      let d := (d.dropReq n).modDir k (fun e => { e with
        owner := none, mod := false, dirty := e.dirty || e.mod, fwd := some r.agent
        shar := listAdd (listDel e.shar r.agent) o })
      (((d.lineGranted bt r).returnForwards bt o k).pump bt o).settleLine bt k
    else (d.requeue bt [(n, r)]).settleLine bt k
  | none => d

/-- FWDX: the owner supplies the data and loses the line, and the requester takes M; the forwards behind it are returned. -/
def Dev.fwdx (bt : Nat) (d : Dev) (o line : Nat) : Dev :=
  let k := d.lineKey o line
  match d.oldestFwd o k false with
  | some (n, r) =>
    if ¬d.homeOpen o k then d
    else if (d.dirEnt k).owner = some o then
      let d := (d.dropReq n).modDir k (fun e => { e with owner := some r.agent, mod := true, fwd := none, shar := [] })
      ((((d.loseLine k (fun h => h != r.agent)).lineGranted bt r).returnForwards bt o k).pump bt o).settleLine bt k
    else (d.requeue bt [(n, r)]).settleLine bt k
  | none => d

/-! ### Accesses of the cores (R225, R252, R259) -/

/-- A line that a core has used uncached stays with nobody (R252). -/
def Dev.uncached (d : Dev) (k : Nat) : Dev :=
  d.modDir k (fun e => { e with owner := none, mod := false, dirty := e.dirty || e.mod })

/-- A core's access to main memory or its Resident Buffer window. It traps where it may not be made (R234, R240, R252, R263); an
uncached page's is performed at the home slice; a store enters the buffer and leaves it when the core owns the line; a hit is performed
at once, a miss when it is answered. -/
def Dev.coreAccess (bt : Nat) (d : Dev) (g : Nat) (kind : ReqKind) (x : CoreAcc) : Dev :=
  let a := d.partOfHart g
  let k := coreLine a x.addr
  let e := d.dirEnt k
  match x.exc, d.corePlace a x.addr x.op.size with
  | some c, _ => d.coreTrap g c x.addr
  | none, .none => (d.tlog bt 1 43 (some a) g x.addr).coreTrap g x.op.cause x.addr
  | none, _ =>
    let d := if x.op.plainStore then d.bufferStore g x else d
    let asks := fun (d : Dev) (acc : Option CoreAcc) =>
      if d.asked g k then d else d.request bt g (x.addr % 2 ^ 48 / 64) (if kind = .rds then .rds else if e.holds g then .upgrade else .rdx) acc
    if x.attr ≠ .pma then
      let d := d.drainLine g k
      (if x.op.plainStore then d else d.coreDo bt g x).uncached k
    else if x.op.plainStore then
      if e.owner = some g then (d.modDir k (fun e => { e with mod := true })).drainLine g k else asks d none
    else if x.op.reads then (if e.holds g then d.coreDo bt g x else asks d (some x))
    else if e.owner = some g then ((d.modDir k (fun e => { e with mod := true })).drainLine g k).coreDo bt g x
    else asks d (some x)

/-! ### Evictions, retries and timeouts -/

/-- The set of a line in its slice (PRESUMED, log entry 29). -/
def setOf (line : Nat) : Nat := line % 4096

/-- Does another line of the set that may be a victim go first, as a Stream line (R273)? -/
def Dev.streamFirst (d : Dev) (line : Nat) : Bool :=
  !(d.dirEnt line).stream && d.coh.dir.any (fun e =>
    e.2.stream && e.2.keep.isNone && setOf e.1 == setOf line && e.1 != line && d.sliceOf e.1 == d.sliceOf line)

/-- EVICTION (R262, R265): from an agent, M is written back, E and F are notified, S is silent; from the home slice every copy is
recalled. A protected line and a line of the carve-out are never victims of a slice, and Stream lines go first (R273, R275, R279). -/
def Dev.evict (bt : Nat) (d : Dev) (agent : Option Nat) (line : Nat) : Dev :=
  match agent with
  | some g =>
    let k := d.lineKey g line
    let e := d.dirEnt k
    let d := d.loseLine k (fun h => h == g)
    if e.owner = some g then
      ((d.modDir k (fun e => { e with owner := none, mod := false, dirty := e.dirty || e.mod })).returnForwards bt g k).settleLine bt k
    else if e.fwd = some g then ((d.modDir k (fun e => { e with fwd := none })).returnForwards bt g k).settleLine bt k
    else d
  | none =>
    let e := d.dirEnt line
    if e.keep.isSome ∨ 0xE00000000000 ≤ 64 * line ∨ d.streamFirst line then d
    else
      let d := (d.modCoh (fun z => { z with dir := mapErase z.dir line })).loseLine line (fun _ => true)
      ((e.owner.toList ++ e.fwd.toList).foldl (fun d o => d.returnForwards bt o line) d).settleLine bt line

/-- Every line that an agent holds is written back or given up (R227): its copies are gone, and forwards queued at it go back. -/
def Dev.flushAgent (bt : Nat) (d : Dev) (g : Nat) : Dev :=
  let mine := (d.coh.dir.filter (fun e => e.2.holds g)).map (fun e => e.1)
  let d := mine.foldl (fun d k => (d.modDir k (fun e =>
    if e.owner = some g then { e with owner := none, mod := false, dirty := e.dirty || e.mod }
    else { e with fwd := if e.fwd = some g then none else e.fwd, shar := listDel e.shar g })).loseLine k (fun h => h == g)) d
  mine.foldl (fun d k => (d.returnForwards bt g k).settleLine bt k) d

/-- CREDIT_RETRY (R268): a refused request tries again after n · BACKOFF cycles of 2.4 GHz, at most 1,024. -/
def Dev.creditRetry (bt : Nat) (d : Dev) (n : Nat) : Dev :=
  match mapFind? d.coh.reqs n with
  | some r =>
    let cycles := min 1024 (r.refused * d.fget F.shcRetryCfgBackoff 0)
    if r.fwdTo.isNone ∧ ¬r.ret ∧ 0 < r.refused ∧ (r.last + (cycles * 5 + 11) / 12 ≤ bt) then
      (d.homeServe bt n).settleLine bt r.line
    else d
  | none => d

/-- A coherence request that has had no answer for REQ_US is abandoned (R270). A core's access ends as a register access does that times
out (R256): a load, a fetch or an atomic takes its access fault; a buffered store is dropped, and its fault comes at the next fence. -/
def Dev.reqTimeout (bt : Nat) (d : Dev) (n : Nat) : Dev :=
  match mapFind? d.coh.reqs n with
  | some r =>
    if r.bt + d.fget F.kioTimeoutReqUs 0 * 1000 ≤ bt then
      let x := r.line % 2 ^ 48 * 64
      let d := (d.dropReq n).tlog bt 5 51 (some (d.partOfAgent r.agent)) r.agent x
      let d := match r.fwdTo with
        | some o => d.pump bt o
        | none => d
      let d := d.settleLine bt r.line
      if r.agent < 96 ∧ d.runs r.agent then
        match r.acc with
        | some y => d.coreTrap r.agent y.op.cause y.addr
        | none =>
          if r.kind = .rds then d.coreTrap r.agent 5 x
          else d.modHart r.agent (fun h => { h with
            stores := h.stores.filter (fun s => coreLine (d.partOfHart r.agent) s.1 != r.line), timedOut := h.timedOut ++ [x] })
      else d
    else d
  | none => d

/-! ### Slice errors (R281) -/

/-- The number of a set group of a slice as a unit. -/
def wayUnit (slice line : Nat) : Nat := 16 * slice + line / 256 % 16

/-- A way that keeps failing is castled to its set group's spare, or the group runs a way short (R281, R447). -/
def Dev.wayOut (bt : Nat) (d : Dev) (slice line : Nat) : Dev :=
  let g := line / 256 % 16
  let d := d.histAdd bt 3 5 8 (wayUnit slice line)
  let d := (d.resLog bt 0x46 2 none 0xFFFF [0, 0, bt, 8]).resLog bt 0x47 2 none 0xFFFF [0, 0, bt, 8]
  if d.coh.ways.contains (slice, g) then d.modCoh (fun z => { z with short := z.short ++ [(slice, g)] })
  else d.modCoh (fun z => { z with ways := z.ways ++ [(slice, g)] })

/-- What a demand transfer of a line from or to HBM met (R292): corrected bursts and link retries are counted, and a granule with an
uncorrectable burst is marked. -/
def Dev.hbmTransfer (bt : Nat) (d : Dev) (line n retries : Nat) (bad : Bool) : Dev :=
  match d.hbmPlace (64 * line) with
  | some (c, _) =>
    let d := (d.fbump F.hbmcChEccCorrected c n).fbump F.hbmcChEccCrcRetry c retries
    let d := (List.range n).foldl (fun d _ => d.corrected bt 10 c) d
    if bad then ((d.fbump F.hbmcChEccUncorr c 1).histAdd bt 1 8 7 c).notePoison line else d
  | none => d

/-- SLICE_ECC_ERROR, on a line of memory or of the carve-out (as its window shows it). A poisoned granule of the carve-out is marked by
its directory key. -/
def Dev.sliceError (bt : Nat) (d : Dev) (slice line : Nat) (e : SliceErr) : Dev :=
  let u := wayUnit slice line
  let k := d.sliceKey slice line
  let bad := fun (d : Dev) =>
    let d := d.histAdd bt 1 5 7 u
    if d.permanent bt 5 u then d.wayOut bt slice line else d
  if d.atSlice slice line then
    match e with
    | .corrected => (d.fbump F.shcSliceStat2Corrected slice 1).corrected bt 5 u
    | .cleanData => bad d
    | .dirtyData =>
      bad ((((d.fbump F.shcSliceStat2Poisoned slice 1).modDir k (fun e => { e with dirty := false })).tlog bt 4 52
        (d.memOwner (64 * line)) slice (64 * line)).notePoison k)
    | .directory =>
      -- every copy is recalled; the state is taken as the worst case, M
      let x := d.dirEnt k
      let d := (d.modDir k (fun e => { e with owner := none, mod := false, fwd := none, shar := [], dirty := true })).loseLine
        k (fun _ => true)
      bad (((x.owner.toList ++ x.fwd.toList).foldl (fun d o => d.returnForwards bt o k) d).settleLine bt k)
    | .wayFailing => d.wayOut bt slice line
    | .transfer n retries bad => d.hbmTransfer bt line n retries bad
  else d

/-! ### The carve-out (R278, R280) -/

/-- Lines of memory of the partition at die `a` that lie in ways that the carve-out takes are recalled, written back and invalidated;
which ones lie there is a free value of each. -/
def Dev.carveOut (d : Dev) (a : Nat) : Dev :=
  let k := d.free
  let hit := (d.coh.dir.zipIdx.filter (fun e =>
    decide (e.1.1 < 2 ^ 48) && d.memOwner (64 * e.1.1) == some a && Config.freeBool (k + e.2))).map (fun e => e.1.1)
  (d.took d.coh.dir.length).recallLines (fun n => hit.contains n)

/-- A write of `SHC.PART_CFG`. A change of RB_WAYS recalls the carve-out's lines and the lines in ways carved out; added ways start as
zeros, returned ones go back to the cache. -/
def Dev.partCfgWrite (d : Dev) (p : Party) (a : Nat) (v : Word) : Dev :=
  let rb := d.fwould p v F.shcPartCfgRbWays a
  let keep := d.fwould p v F.shcPartCfgKeepWays a
  let admitted := d.ctxs.any (fun c => c.2.live && d.partOfCtx c.1 == a)
  let old := d.fget F.shcPartCfgRbWays a
  d.regWrite p .shcPartCfg a v (verdict (decide (12 < rb + keep)) admitted) (fun d =>
    if rb = old then d
    else if old < rb then (d.clearRb a).carveOut a
    else
      let size := d.rbSize a
      (d.recallLines (fun k => k / 2 ^ 48 == a + 1)).setRb a ((d.rbMem a).filter (fun c => decide (c.1 < size))))

/-! ### Kiorn links (R282 to R285) -/

/-- Lane groups of a link, per direction. -/
def linkGroups (link : Nat) : Nat := if link < 8 then 8 else if link < 16 then 16 else 0

/-- A lane group. -/
def Dev.laneGrp (d : Dev) (link g : Nat) : LaneGrp := mapGet {} d.coh.lanes (16 * link + g)

/-- Set a lane group. -/
def Dev.setLaneGrp (d : Dev) (link g : Nat) (x : LaneGrp) : Dev :=
  d.modCoh (fun z => { z with lanes := mapSet {} z.lanes (16 * link + g) x })

/-- Is a lane group in use? -/
def Dev.groupUp (d : Dev) (link g : Nat) : Bool := decide (g < linkGroups link) && !bit (d.fget F.kioLinkStatusGroupDown link) g

/-- FLIT_CRC_FAIL: the flit is replayed (R283) and counts toward a retraining. -/
def Dev.flitFail (bt : Nat) (d : Dev) (link g : Nat) : Dev :=
  if d.groupUp link g then
    let x := d.laneGrp link g
    ((d.fbump F.kioLinkErrReplays link 1).setLaneGrp link g
      { x with errs := x.errs.filter (fun t => decide (bt < t + 1000000)) ++ [bt] }).corrected bt 4 (16 * link + g)
  else d

/-- A group without a spare left goes down; a link without groups is down (R284). -/
def Dev.groupDown (bt : Nat) (d : Dev) (link g : Nat) : Dev :=
  let m := d.fget F.kioLinkStatusGroupDown link ||| 2 ^ g
  let d := (d.fset F.kioLinkStatusGroupDown link m).tlog bt 5 53 none link
  if m = 2 ^ linkGroups link - 1 then d.fset F.kioLinkStatusState link 0 else d

/-- LANE_GROUP_RETRAIN: due when a group's CRC errors within 1 ms exceed RETRAIN_ERR; a lane that fails it, or a group
retrained more than SWAP_AFTER times in 10 s, uses the spare. -/
def Dev.retrain (bt : Nat) (d : Dev) (link g : Nat) (fails : Bool) : Dev :=
  let x := d.laneGrp link g
  if d.groupUp link g ∧ d.fget F.kioLinkCfgRetrainErr link < (x.errs.filter (fun t => decide (bt < t + 1000000))).length then
    let rs := x.retrains.filter (fun t => decide (bt < t + 10 ^ 10)) ++ [bt]
    let d := d.fbump F.kioLinkErrRetrains link 1
    if fails ∨ d.fget F.kioLinkCfgSwapAfter link < rs.length then
      let d := (d.setLaneGrp link g {}).histAdd bt 1 4 9 (16 * link + g)
      let used := d.fget F.kioLinkStatusSpareUsed link
      if bit used g then d.groupDown bt link g
      else (d.fset F.kioLinkStatusSpareUsed link (used ||| 2 ^ g)).fbump F.kioLinkErrSwaps link 1
    else d.setLaneGrp link g { errs := [], retrains := rs }
  else d

/-! ### Meanings -/

def execFwds (owner line : Nat) : State → Host.Outcome State Fault Refusal := onDev (fun bt d => d.fwds bt owner line)
def execFwdx (owner line : Nat) : State → Host.Outcome State Fault Refusal := onDev (fun bt d => d.fwdx bt owner line)
def execEviction (agent : Option Nat) (line : Nat) : State → Host.Outcome State Fault Refusal :=
  onDev (fun bt d => d.evict bt agent line)
def execCreditRetry (req : Nat) : State → Host.Outcome State Fault Refusal := onDev (fun bt d => d.creditRetry bt req)
def execSliceEccError (slice line : Nat) (e : SliceErr) : State → Host.Outcome State Fault Refusal :=
  onDev (fun bt d => d.sliceError bt slice line e)
def execFlitCrcFail (link group : Nat) : State → Host.Outcome State Fault Refusal := onDev (fun bt d => d.flitFail bt link group)
def execLaneGroupRetrain (link group : Nat) (laneFails : Bool) : State → Host.Outcome State Fault Refusal :=
  onDev (fun bt d => d.retrain bt link group laneFails)
def execPartCfgWrite (p : Party) (a : Nat) (v : Word) : State → Host.Outcome State Fault Refusal :=
  onDev (fun _ d => d.partCfgWrite p a v)

end Sys2Proof.Machine
end

