-- ==== Sys2Proof/Machine/Engine.lean ====
section
/-! DEFINITION. How launches end: exceptions (R166), failures (R163), completion (R46, R105), removal by a reset (R415), and the
release of a context (R37). -/

namespace Sys2Proof.Machine

/-! ### The sequencer cache of a CE, as far as its write-backs (R102, R105) -/

/-- Write back the dirty lines that a test accepts; they stay, clean. One that a parity error has hit has no data to write (R107). -/
def Dev.sqcClean (d : Dev) (k : Nat) (f : SqcLine → Bool) : Dev :=
  let ls := (d.ce k).sqc
  let out := fun (l : SqcLine) => l.dirty && !l.bad && f l
  let d := (ls.filter out).foldl (fun d l => d.memPut l.dpa l.data) d
  d.modCe k (fun c => { c with sqc := ls.map (fun l => if out l then { l with dirty := false } else l) })

/-- Drop the lines that a test accepts, without writing them back. -/
def Dev.sqcDrop (d : Dev) (k : Nat) (f : SqcLine → Bool) : Dev :=
  d.modCe k (fun c => { c with sqc := c.sqc.filter (fun l => !f l) })

/-! ### A launch leaves its CEs -/

/-- The wheel of a launch's watchdog: the Sequence Engine of the die of the group's lowest-numbered CE (R69). -/
def Dev.launchWheel (d : Dev) (l : Nat) : Nat :=
  match (d.membersOf l).map (fun m => ((d.ce m.2.ce).logical.getD 999, m.2.ce)) with
  | [] => 0
  | p :: ps => (ps.foldl (fun a b => if b.1 < a.1 then b else a) p).2 / 26

/-- A member's control thread, tensor unit and waits are given up; the last launch of its context takes the context's data
lines with it (R105). -/
def Dev.leaveCe (bt : Nat) (d : Dev) (l m c k : Nat) : Dev :=
  let d := d.modCe k (fun e => { e with
    threads := e.threads.map (fun t => if t = some (l, m) then none else t)
    tensor := if e.tensor = some (l, m) then none else e.tensor
    tensorWait := e.tensorWait.filter (fun t => t != (l, m)) })
  let d := if d.ctxOnCe k c then d else d.sqcDrop k (fun s => s.ctx == c && !s.insn)
  d.ceVacant bt k

/-- Forget a launch's members and cohorts, its watchdog and its waiting posts. -/
def Dev.forget (bt : Nat) (d : Dev) (l c : Nat) : Dev :=
  let d := d.disarm (d.launchWheel l) (.watchdog l)
  let d := (d.membersOf l).foldl (fun d m => d.leaveCe bt l m.1 c m.2.ce) d
  d.modEng (fun z => { z with members := mapKeep z.members (fun k _ => k / 32 != l),
                              cohorts := mapKeep z.cohorts (fun k _ => k / 16384 != l),
                              srVec := mapKeep z.srVec (fun k _ => k / 524288 != l) })

/-- Queue digests of a launch of one member. -/
def Dev.digestsOf (d : Dev) (l : Nat) : List Nat :=
  (List.range 4).map (fun q => match d.member? l 0 with
    | some x => (mapGet 0#64 x.digest q).toNat
    | none => 0)

/-- The physical CEs of a launch's members. -/
def Dev.launchCes (d : Dev) (l : Nat) : List Nat := (d.membersOf l).map (fun m => m.2.ce)

/-- Remove a launch's commands: those in flight run to completion where the launch ends (R163), and tear their targets where it is
removed (R415); held faults go with them (R325). -/
def Dev.dropCmds (d : Dev) (l : Nat) (ends : Bool) : Dev :=
  let mine := d.eng.cmds.filter (fun c => c.2.l == l)
  let d := mine.foldl (fun d c => match d.launch? l, d.member? l c.2.m with
    | some x, some y => if ends then d.landCmd x y c.2 else d.tearCmd x y c.2
    | _, _ => d) d
  let ours := fun (h : Held) => mine.any (fun c => h.cmd == some c.1) || (match h.lm with
    | some (l', _) => l' == l
    | none => false)
  (d.modEng (fun z => { z with cmds := mapKeep z.cmds (fun _ c => c.l != l) })).modXlat
    (fun z => { z with held := z.held.filter (fun h => !(h.kind == 0 && ours h)) })

/-- Waiting SIGNAL posts of a launch go with it. -/
def Dev.dropPosts (d : Dev) (l : Nat) : Dev :=
  d.modRing (fun z => { z with pairs := mapAll z.pairs (fun _ p =>
    { p with posts := p.posts.filter (fun x => match x.launch with
        | some (l', _) => l' != l
        | none => true) }) })

/-- Release the spare that a shadow run holds (R26). -/
def Dev.freeSpares (bt : Nat) (d : Dev) (ces : List Nat) : Dev :=
  ces.foldl (fun d k => if (d.ce k).st = .spareHeld ∧ (d.ce k).rank = 3 then d.releaseSpare bt k else d) d

/-- Discard a shadow run and release its spare (R429, R439). -/
def Dev.dropShadow (bt : Nat) (d : Dev) (l : Nat) : Dev :=
  match (d.launch? l).bind (fun x => x.shadow) with
  | some s =>
    let ces := d.launchCes s
    let c := ((d.launch? s).map (fun x => x.ctx)).getD 0
    let d := ((d.dropCmds s false).dropPosts s).forget bt s c
    let d := d.modEng (fun z => { z with launches := mapErase z.launches s })
    (d.modLaunch l (fun x => { x with shadow := none })).freeSpares bt ces
  | none => d

/-- Take a launch off its CEs; its journal record stays. One that ends lets its commands in flight complete, and its CEs write back the
dirty lines of its context (R105, R163); one that a reset removes has everything in the engines discarded (R415). -/
def Dev.removeLaunch (bt : Nat) (d : Dev) (l : Nat) (ends : Bool) : Dev :=
  match d.launch? l with
  | some x =>
    let ces := d.launchCes l
    let mine := fun (s : SqcLine) => s.ctx == x.ctx && !s.insn
    let d := ((d.dropShadow bt l).dropCmds l ends).dropPosts l
    let d := (ces.foldl (fun d k => if ends then d.sqcClean k mine else d.sqcDrop k mine) d).forget bt l x.ctx
    d.modLaunch l (fun x => { x with
      st := .removed, oldCes := x.oldCes ++ ces, status := .ok, exc := none, fstat := 0, settle := none, digests := [], outs := [], ins := [] })
  | none => d

/-- Is the launch started and not complete? -/
def Launch.started (x : Launch) : Bool := x.st ≠ .queued && x.st ≠ .removed

/-- The completion entry of a launch, and the end of its journal entries (R46, R55, R56). -/
def Dev.completeLaunch (bt : Nat) (d : Dev) (l : Nat) (st : Status) : Dev :=
  match d.launch? l with
  | some x =>
    let d := if x.charged then d.modCtx x.ctx (fun c => { c with jrnUse := c.jrnUse - x.journal }) else d
    let d := d.modEng (fun z => { z with launches := mapErase z.launches l })
    d.complete bt x.pair x.tag st x.degrade (x.exc.getD 0)
  | none => d

/-- The status of a launch that has ended (R55): OK_DEGRADED where a level was reached and nothing else failed. -/
def Launch.final (x : Launch) : Status := if x.degrade = 0 then x.status else x.status.first .okDegraded

/-! ### Failures (R163) and exceptions (R166) -/

/-- The exception record (R166). -/
def excRecord (code stream member cohort pc : Nat) : Nat :=
  code + stream * 2 ^ 8 + member * 2 ^ 16 + cohort * 2 ^ 32 + pc % 2 ^ 64 * 2 ^ 64

/-- A launch ends by a failure: nothing more issues, commands that have not started never do, those in flight go on (R163). -/
def Dev.failLaunch (d : Dev) (l : Nat) (st : Status) (exc : Option Nat) : Dev :=
  match d.launch? l with
  | some x =>
    if x.st = .running ∨ x.st = .ending then
      let d := d.modLaunch l (fun x => { x with st := .ending, status := x.status.first st, exc := x.exc.or exc })
      let d := (d.launchCes l).foldl (fun d k => d.modCe k (fun e => { e with
        tensorWait := e.tensorWait.filter (fun t => t.1 != l) })) d
      d.modEng (fun z => { z with cmds := mapKeep z.cmds (fun _ c => c.l != l || c.started) })
    else d
  | none => d

/-! ### Release of a context (R37) -/

/-- End a launch of a context that ends: its own cause first when it caused the termination, else CONTEXT_TERMINATED; an
exception record goes with it (R55). -/
def Dev.endLaunch (bt : Nat) (d : Dev) (l : Nat) (st : Status) : Dev :=
  match d.launch? l with
  | some x =>
    if x.shadowOf.isSome then d
    else
      let exc := x.exc
      let own := if x.started then x.status.first st else st
      let d := if x.started then d.removeLaunch bt l true else d
      (d.modLaunch l (fun x => { x with exc := exc })).completeLaunch bt l own
  | none => d

/-- The slots a context owns. -/
def Dev.ctxSlots (d : Dev) (c : Nat) : List Nat :=
  (d.seq.slots.filter (fun p => p.2.ctx == c && p.2.st ≠ .closed && p.2.st ≠ .closing)).map (fun p => p.1)

/-- End the sequences of a context (R183): open steps and waiting requests complete, the slots close. -/
def Dev.endSlots (bt : Nat) (d : Dev) (c : Nat) (st : Status) : Dev :=
  (d.ctxSlots c).foldl (fun d s =>
    let x := d.slot s
    let d := d.endStep bt s st 0 0
    let d := x.waiters.foldl (fun d w => d.complete bt w.1 w.2 st) d
    let d := (x.held ++ x.after.toList).foldl (fun d r => d.finish bt r st) d
    (d.dropUnbegun s).closeSlot bt s none) d

/-- The frames at rest that only a context holds (R37): what its page table maps, with the tables, and the DDR frames that windowed pages
in HBM hold. A pinned shadow area is the partition's, and a frame that another context maps is that context's too. -/
def Dev.ownFrames (d : Dev) (c : Nat) : List (Nat × Nat) :=
  let a := d.partOfCtx c
  let others := (d.ctxs.filter (fun p => p.1 != c && d.partOfCtx p.1 == a && p.2.live)).flatMap (fun p => d.held p.1)
  ((d.held c ++ ((d.winPages c).filter (fun (w : WPage) => w.hbm.isSome)).map (fun (w : WPage) => (w.ddr, 2 ^ w.lg))).foldl listAdd []).filter (fun f =>
    (d.ownerOf f.1).isNone && !d.inArea f.1 && !others.any (fun o => o.1 == f.1))

/-- The page moves of a context. -/
def Dev.pageMoves (d : Dev) (c : Nat) : List (Nat × Move) :=
  d.tier.moves.filter (fun m => match m.2.obj with
    | .page c' _ _ => c' == c
    | _ => false)

/-- End the tier requests, held ranges and windows of a context: moves that have not begun are dropped, window budgets return, and every
frame that no move in flight uses is released; those in use keep a charge until their moves commit (R37, R219). -/
def Dev.endTier (bt : Nat) (d : Dev) (c : Nat) (st : Status) : Dev :=
  let a := d.partOfCtx c
  let reqs := d.tier.reqs.filter (fun r => r.ctx == c)
  let holds := d.tier.holds.filter (fun h => h.ctx == c)
  let wins := d.tier.wins.filter (fun w => w.2.ctx == c)
  let d := d.modTier (fun z => { z with reqs := z.reqs.filter (fun r => r.ctx != c), holds := z.holds.filter (fun h => h.ctx != c) })
  let d := reqs.foldl (fun d r => d.complete bt r.pair r.tag st) d
  let d := holds.foldl (fun d h => match h.req with
    | some q => d.complete bt q.1 q.2 st
    | none => d) d
  let d := wins.foldl (fun d w =>
    let d := d.disarmWin (w.1 / 256) (w.1 % 256) w.2.ents.length
    let d := w.2.arms.foldl (fun d q => d.complete bt q.pair q.tag st) d
    match w.2.clearing with
    | some q => d.complete bt q.1 q.2 st
    | none => d) d
  let frames := d.ownFrames c
  let d := ((d.pageMoves c).filter (fun m => !m.2.begun)).foldl (fun d m => d.undoMove m.1 m.2) d
  let d := wins.foldl (fun d w =>
    (d.modTier (fun z => { z with wins := mapErase z.wins w.1 })).uncharge c false w.2.budgetBytes) d
  let flying := d.pageMoves c
  let inFlight := fun (x : Nat) => flying.any (fun m => m.2.src == x || m.2.dst == some x)
  let d := flying.foldl (fun d m => (d.takeOver c m.2.src m.2.len).takeOver c (m.2.dst.getD 0) m.2.len) d
  let rest := (d.tier.owned.filter (fun o => o.2.1 == c)).map (fun o => (o.1 * 2 ^ 16, o.2.2))
  ((frames ++ rest).filter (fun f => !inFlight f.1)).foldl (fun d f => d.releaseOf bt c a f.1 f.2) d

/-- Drop what the caches hold of a context: translations and sequencer-cache lines (R105, R311), and its Keep protection
(R275). -/
def Dev.dropCaches (d : Dev) (c : Nat) : Dev :=
  let a := d.partOfCtx c
  let d := d.tlbDrop a (fun e => e.ctx == c)
  ((d.partCes a).foldl (fun d k => d.sqcDrop k (fun s => s.ctx == c)) d).endKeep c

/-- The journal entries, replays and holds of a context that a reset is handling go with it: it leaves the episode. -/
def Dev.leaveEpisodes (d : Dev) (c : Nat) : Dev :=
  d.modRes (fun z => { z with episodes := mapAll z.episodes (fun _ e => { e with
    suspects := listDel e.suspects c, joined := listDel e.joined c
    current := if e.current = some c then none else e.current }) })

/-- The release of a context that is closed or terminated (R37, R351): its work completes, its pairs are detached, its frames and the
journal entries it had in use are wiped, and it becomes FREE when the last of them is. -/
def Dev.releaseCtx (bt : Nat) (d : Dev) (c : Nat) (st : CtxSt) (status : Status) : Dev :=
  let a := d.partOfCtx c
  let d := (d.modCtx c (fun x => { x with st, closePending := false })).leaveEpisodes c
  let jrn := (d.ctx c).jrnUse
  let ls := (d.eng.launches.filter (fun l => l.2.ctx == c)).map (fun l => l.1)
  let d := ls.foldl (fun d l => d.endLaunch bt l status) d
  let xs := (d.ring.xfers.filter (fun x => x.2.ctx == c)).map (fun x => x.1)
  let d := xs.foldl (fun d x => d.endXfer bt x status) d
  let d := d.modXlat (fun z => { z with held := z.held.filter (fun h => h.ctx != c) })
  let d := (d.endSlots bt c status).endTier bt c status
  let d := d.modRing (fun z => { z with grants := z.grants.filter (fun g => g.ctx != c) })
  let d := (d.ctxPairs c).foldl (fun d k => d.endPair bt k status) d
  let d := d.dropCaches c
  let root := (d.ctx c).root % 2 ^ 48
  let d := d.startWipe bt { part := a, frame := root, len := 2 ^ 20, pool := none, charge := some c, entry := none }
  let d := if jrn = 0 then d
    else (d.modCtx c (fun x => { x with jrnUse := jrn })).startWipe bt
      { part := a, frame := root, len := 0, pool := none, charge := some c, entry := none, journal := jrn }
  d.settleCtx c

/-- Termination of a context (R37, R55): the launch that caused it reports its own cause. -/
def Dev.terminate (bt : Nat) (d : Dev) (c : Nat) (cause : Option (Nat × Status)) : Dev :=
  if (d.ctx c).live ∧ ¬(d.ctx c).ending then
    let d := match cause with
      | some (l, st) => match d.launch? l with
        | some x =>
          -- the causing launch completes first
          let d := d.modLaunch l (fun y => { y with status := y.status.first st })
          let exc := x.exc
          let d := d.removeLaunch bt l true
          (d.modLaunch l (fun y => { y with exc := exc })).completeLaunch bt l (x.status.first st)
        | none => d
      | none => d
    d.releaseCtx bt c .terminating .contextTerminated
  else d

/-- An access that ends its context with ACCESS_VIOLATION (R108, R160, R317), made by a launch. -/
def Dev.violation (bt : Nat) (d : Dev) (l : Nat) : Dev :=
  match d.launch? l with
  | some x => match x.shadowOf with
    | some o => d.dropShadow bt o
    | none => d.terminate bt x.ctx (some (l, .accessViolation))
  | none => d

/-! ### Parity errors of the sequencer cache (R107) -/

/-- The oldest launch of a context resident on a CE. -/
def Dev.oldestOn (d : Dev) (k c : Nat) : Option Nat :=
  ((d.resident k).filterMap (fun r => match d.launch? r.1 with
    | some x => if x.ctx = c ∧ x.shadowOf.isNone then some (x.start, r.1) else none
    | none => none)).foldl (fun b x => match b with
      | some y => if x.1 < (y : Nat × Nat).1 ∨ (x.1 = y.1 ∧ x.2 < y.2) then some x else some y
      | none => some x) none |>.map (fun p => p.2)

/-- Is it that line? -/
def SqcLine.same (a b : SqcLine) : Bool := a.ctx == b.ctx && a.ava == b.ava && a.insn == b.insn

/-- A parity error is met on a line: a clean line is dropped, to be fetched again; a dirty one ends its context, for the launch that met
it or else the oldest one. The answer says whether things go on. -/
def Dev.badLine (bt : Nat) (d : Dev) (k : Nat) (l : Option Nat) (s : SqcLine) : Bool × Dev :=
  let a := some (d.partOfCtx s.ctx)
  if ¬(d.ce k).sqc.any s.same then (true, d)
  else if s.dirty then
    let d := (d.fbump F.ceSqcStatDirtyPoison k 1).tlog bt 2 21 a (d.ceUnit k) s.dpa s.ctx
    let d := (d.histAdd bt 1 1 5 k).sqcDrop k s.same
    match (l.bind d.launch?).bind (fun x => x.shadowOf) with
    | some o => (false, d.dropShadow bt o)
    | none => (false, d.terminate bt s.ctx ((l.or (d.oldestOn k s.ctx)).map (fun n => (n, Status.dataPoison))))
  else
    let d := (d.fbump F.ceSqcStatCleanRefetch k 1).tlog bt 2 20 a (d.ceUnit k) s.dpa s.ctx
    (true, (d.corrected bt 1 k).sqcDrop k s.same)

/-- The lines hit by parity errors among those that a use of the cache meets. -/
def Dev.badLines (bt : Nat) (d : Dev) (k : Nat) (l : Option Nat) (f : SqcLine → Bool) : Bool × Dev :=
  ((d.ce k).sqc.filter (fun s => s.bad && f s)).foldl (fun r s =>
    let q := r.2.badLine bt k l s
    (r.1 && q.1, q.2)) (true, d)

/-- Parity errors hit lines of a CE's cache: context, AVA and mark of each. -/
def Dev.hitLines (d : Dev) (k : Nat) (ls : List (Nat × Nat × Bool)) : Dev :=
  d.modCe k (fun e => { e with sqc := e.sqc.map (fun s => if ls.contains (s.ctx, s.ava, s.insn) then { s with bad := true } else s) })

/-- Write back, then drop, the lines that a test accepts, where no dirty one among them is lost. -/
def Dev.sqcRecall (bt : Nat) (d : Dev) (k : Nat) (l : Option Nat) (f : SqcLine → Bool) : Bool × Dev :=
  match d.badLines bt k l f with
  | (true, d) => (true, (d.sqcClean k f).sqcDrop k f)
  | (false, d) => (false, d)

end Sys2Proof.Machine
end

