-- ==== Sys2Proof/Machine/Contexts.lean ====
section
/-! DEFINITION. Context requests (R344): admission, close, quotas, grants (R30 to R38), and the chargeable capacity (R32). -/

namespace Sys2Proof.Machine

/-! ### Capacity -/

/-- HBM bytes that the Catinil holds for a partition (R32): per die 16 MiB of KV Block Table, 64 MiB of journal and 16 MiB of
shadow area, the fault queue, and the compact shadow areas that firmware has pinned. -/
def Dev.heldBytes (d : Dev) (a : Nat) : Nat :=
  96 * 2 ^ 20 * d.dies a + 32 * 2 ^ d.fget F.xlatFqCfgLog2Size a +
    ((d.tier.areas.filter (fun r => r.1 == a)).map (fun r => r.2.2)).sum

/-- Chargeable capacity of a partition in the five units (R32). -/
def Dev.capacity (d : Dev) (a : Nat) : Resv :=
  { hbm := (d.hbmSize a - d.heldBytes a) / 2 ^ 21, ddr := d.ddrSize a / 2 ^ 21, kv := 2097152 * d.dies a
    slots := 2048 * d.dies a, journal := 1048576 * d.dies a }

/-- What a context takes of the capacity (R37): its reservations, or what an ending one still holds. Bytes count in whole
units of 2 MiB. -/
def Ctx.charged (x : Ctx) : Resv :=
  if x.st = .free then {}
  else if x.ending then
    { hbm := (2 ^ 21 - 1 + x.hbmB) / 2 ^ 21, ddr := (2 ^ 21 - 1 + x.ddrB) / 2 ^ 21, kv := x.kvUse, slots := x.slotUse
      journal := x.jrnUse }
  else x.res

/-- The sum of two sets of reservations. -/
def Resv.add (a b : Resv) : Resv :=
  { hbm := a.hbm + b.hbm, ddr := a.ddr + b.ddr, kv := a.kv + b.kv, slots := a.slots + b.slots, journal := a.journal + b.journal }

/-- Is each unit within another's? -/
def Resv.le (a b : Resv) : Bool :=
  decide (a.hbm ≤ b.hbm) && decide (a.ddr ≤ b.ddr) && decide (a.kv ≤ b.kv) && decide (a.slots ≤ b.slots) &&
    decide (a.journal ≤ b.journal)

/-- What the contexts of a partition other than `c` take. -/
def Dev.taken (d : Dev) (a c : Nat) : Resv :=
  (d.ctxs.filter (fun p => d.partOfCtx p.1 == a && p.1 != c)).foldl (fun r p => r.add p.2.charged) {}

/-- Can context `c` have these reservations (R31, R36)? Nothing can while the partition's memory is being cleared (R24) or its
reset runs (R423). -/
def Dev.canReserve (d : Dev) (a c : Nat) (r : Resv) : Bool :=
  ((d.taken a c).add r).le (d.capacity a) && !d.res.clearing.contains a && !mapHas d.res.parts a

/-! ### Requests -/

/-- The reservations a request names. -/
def Desc.resv (x : Desc) : Resv :=
  { hbm := x.at_ 0x10 4, ddr := x.at_ 0x14 4, kv := x.at_ 0x18 4, slots := x.at_ 0x1C 2, journal := x.at_ 4 4 }

/-- A partition's Keep limit in lines (R274). -/
def Dev.keepLimit (d : Dev) (a : Nat) : Nat := d.fget F.shcPartCfgKeepWays a * 4096 * d.sliceCount a

/-- Dispatch a context request of the admin pair's partition; a CTX outside it completes with RANGE. -/
def Dev.ctxReq (bt : Nat) (d : Dev) (k op : Nat) (f : Desc → Nat → Nat → Dev → Dev) : Dev :=
  d.dispatch k 6 op (fun r d =>
    let c := bits (r.at_ 2 2) 11 0
    let a := pairWindow k
    if d.partOfCtx c = a then f r a c d else d.finish bt r .range)

/-- ADMIT (R31, R33, R344). The root's 1 MiB is charged at once (R308). -/
def Dev.admitReq (bt : Nat) (d : Dev) (k : Nat) : Dev :=
  d.ctxReq bt k 1 (fun r a c d =>
    let fl := r.at_ 1 1
    let queues := bits fl 3 0 + 1
    let root := r.at_ 8 8
    let sig := r.at_ 0x24 4
    if (d.ctx c).live ∨ root % 2 ^ 20 ≠ 0 ∨ root / 2 ^ 48 ≠ d.fget F.igfNodeId a ∨ ¬d.inHbm a (root % 2 ^ 48) (2 ^ 20) ∨
        r.resv.journal < 17 * queues ∨ sig = 0 ∨ 65536 < sig ∨ d.keepLimit a < r.at_ 0x20 4 then d.finish bt r .range
    else if ¬d.canReserve a c r.resv ∨ r.resv.hbm = 0 then d.finish bt r .quota
    else
      (d.setCtx c {
        st := .admitted, root, queues, res := r.resv, hbmB := 2 ^ 20, keep := r.at_ 0x20 4, ceil := bits fl 5 4
        vanan := bit fl 6, noReplay := bit fl 7, seed := r.at_ 0x28 8, sigTable := r.at_ 0x30 8
        sigCount := sig }).finish bt r .ok)

/-- CLOSE (R37, R38): during RESETTING or REPLAYING it takes effect when the replay ends. When its completion is written the spec leaves
open: here it is at once (DESIGN CHOICE, log entry 125). -/
def Dev.closeReq (bt : Nat) (d : Dev) (k : Nat) : Dev :=
  d.ctxReq bt k 2 (fun r _ c d =>
    match (d.ctx c).st with
    | .admitted => (d.releaseCtx bt c .closing .contextTerminated).finish bt r .ok
    | .resetting => (d.modCtx c (fun x => { x with closePending := true })).finish bt r .ok
    | .replaying => (d.modCtx c (fun x => { x with closePending := true })).finish bt r .ok
    | _ => d.finish bt r .range)

/-- SET_QUOTA (R36): every reservation together, or none. -/
def Dev.quotaReq (bt : Nat) (d : Dev) (k : Nat) : Dev :=
  d.ctxReq bt k 3 (fun r a c d =>
    let x := d.ctx c
    let n := r.resv
    if ¬x.live ∨ x.ending ∨ n.journal < 17 * x.queues ∨ 2 ^ 21 * n.hbm < d.inUse c false ∨ 2 ^ 21 * n.ddr < d.inUse c true ∨ n.kv < x.kvUse ∨
        n.slots < x.slotUse ∨ n.journal < x.jrnUse ∨ d.keepLimit a < r.at_ 0x20 4 then d.finish bt r .range
    else if ¬d.canReserve a c n then d.finish bt r .quota
    else (d.setCtx c { x with res := n, keep := r.at_ 0x20 4 }).finish bt r .ok)

/-- GRANT (R331). -/
def Dev.grantReq (bt : Nat) (d : Dev) (k : Nat) : Dev :=
  d.ctxReq bt k 4 (fun r a c d =>
    let q := r.at_ 8 1
    let m := r.at_ 10 2
    let x := d.ctx c
    if ¬x.live ∨ x.ending ∨ ¬d.boundTo q a ∨ 2 ^ x.queues ≤ m then d.finish bt r .range
    else
      let g : Grant := { port := q, ctx := c, qmask := m }
      Dev.finish bt (d.modRing (fun z => { z with grants := z.grants ++ [g] })) r .ok)

/-- Does a pair hang on a grant of the port, context and queues? -/
def Dev.underGrant (d : Dev) (k q c m : Nat) : Bool :=
  pairIsHost k && pairPort k == q && (d.pair k).st ≠ .detached && !(d.pair k).admin && (d.pair k).ctx == c &&
    bit m (d.pair k).queue

/-- REVOKE (R344, R351): fetching stops on the pairs attached under the grant, which drain; the request completes when they are
DETACHED. A FROZEN pair stays until the host detaches it. -/
def Dev.revokeReq (bt : Nat) (d : Dev) (k : Nat) : Dev :=
  d.ctxReq bt k 5 (fun r _ c d =>
    let q := r.at_ 8 1
    let m := r.at_ 10 2
    let d : Dev := d.modRing (fun z => { z with grants := z.grants.filterMap (fun (g : Grant) =>
      if g.port = q ∧ g.ctx = c then
        (if g.qmask &&& (65535 - m) = 0 then none else some { g with qmask := g.qmask &&& (65535 - m) })
      else some g) })
    let ks := (d.ring.pairs.filter (fun p => d.underGrant p.1 q c m)).map (fun p => p.1)
    let v : Revoke := { pair := r.pair, tag := r.tag, pairs := ks }
    let d := d.modRing (fun z => { z with revokes := z.revokes ++ [v] })
    (ks.foldl (fun (d : Dev) j => if (d.pair j).st = .attached ∨ (d.pair j).st = .stopped then d.detach bt j else d) d).finishRevokes bt)

def execAdmitContext (pair : Nat) : State → Host.Outcome State Fault Refusal := onDev (fun bt d => d.admitReq bt pair)
def execContextClose (pair : Nat) : State → Host.Outcome State Fault Refusal := onDev (fun bt d => d.closeReq bt pair)
def execSetQuota (pair : Nat) : State → Host.Outcome State Fault Refusal := onDev (fun bt d => d.quotaReq bt pair)
def execGrant (pair : Nat) : State → Host.Outcome State Fault Refusal := onDev (fun bt d => d.grantReq bt pair)
def execRevoke (pair : Nat) : State → Host.Outcome State Fault Refusal := onDev (fun bt d => d.revokeReq bt pair)

end Sys2Proof.Machine
end

