-- ==== Sys2Proof/Machine/Launch.lean ====
section
/-! DEFINITION. Launches: queueing (R42, R43), placement (R44, R45, R88 to R90), shadow sampling (R436), completion (R46,
R105), and the end of a replay and of an episode (R418, R420). -/

namespace Sys2Proof.Machine

/-! ### The end of an episode -/

/-- R420: when no suspect is left, each hung CE goes to screening, or back to service with a software hang counted. -/
def Dev.endEpisode (bt : Nat) (d : Dev) (a : Nat) : Dev :=
  match mapFind? d.res.episodes a with
  | some e =>
    if e.removing ∨ e.suspects ≠ [] ∨ e.joined ≠ [] ∨ e.current ≠ none ∨ e.engine ≠ [] then d
    else
      let d := d.modRes (fun z => { z with episodes := mapErase z.episodes a })
      e.hung.foldl (fun d k =>
        let d := d.fset F.ceCtrlWithhold k 0
        if e.cleared.contains k then (if (d.ce k).st = .spareHeld then d.beginScreen bt k false else d)
        else
          let d := if (d.ce k).st = .withheld then d.modCe k (fun c => { c with st := .active }) else d
          if e.guilty then d.histAdd bt 1 1 6 k else d.castleOut bt k) d
  | none => d

/-- The replay of a suspect has ended well (R418): it is ADMITTED again; a close that waited takes effect (R38). -/
def Dev.replayDone (bt : Nat) (d : Dev) (c : Nat) : Dev :=
  let a := d.partOfCtx c
  let close := (d.ctx c).closePending
  let d := (d.modCtx c (fun x => { x with st := .admitted, closePending := false })).fbump F.resReplayStatReplayed a 1
  let n := match mapFind? d.res.episodes a with
    | some e => e.suspects.length + e.joined.length
    | none => 0
  let d := (d.resLog bt 0x20 0 (some a) 0xFFFF [0, resData1 0 c n, bt, 0] c).leaveEpisodes c
  let d := if close then d.releaseCtx bt c .closing .contextTerminated else d
  d.endEpisode bt a

/-- Has the context launches that its replay has still to run? -/
def Dev.replayLeft (d : Dev) (c : Nat) : Bool := d.eng.launches.any (fun l => l.2.ctx == c && (l.2.replay || l.2.st = .removed))

/-! ### LAUNCH -/

/-- Does another ring pair that feeds the same launch queue hold a LAUNCH that was fetched earlier (R29)? -/
def Dev.laterLaunch (d : Dev) (k : Nat) : Bool :=
  match d.head? k 1 0 with
  | some r => d.ring.pairs.any (fun p => p.1 != k && !p.2.admin && p.2.ctx == (d.pair k).ctx && p.2.queue == (d.pair k).queue &&
      p.2.fetched.any (fun x => x.typ == 1 && decide (x.order < r.order)))
  | none => false

/-- A LAUNCH descriptor joins its launch queue in the order of fetch (R29); one that needs more than the context's whole journal reservation ends with
QUOTA (R35). -/
def Dev.queueLaunch (bt : Nat) (d : Dev) (k : Nat) : Dev :=
  if d.laterLaunch k then d
  else d.dispatchCtx bt k 1 0 (fun r c d =>
    let x := d.ctx c
    let q := (d.pair k).queue
    if x.res.journal < 1 + r.nslot then d.finish bt r .quota
    else
      let n := d.eng.nextLaunch
      let l : Launch := {
        ctx := c, queue := q, pair := r.pair, tag := r.tag, order := r.order, group := r.group, cohorts := r.cohorts
        regs := r.regs, lsUnits := r.lsUnits, nrs := bit r.ts0 27, faultable := bit r.ts0 28, concurrent := bit r.ts0 29
        kernel := bits r.ts1 49 0 * 64, ploff := r.ploff * 256, watchdogUs := r.watchdog, seed := bits r.ts2 63 32
        payload := r.payload, journal := 1 + r.nslot
        prev := match mapGet 0 x.last q with
          | 0 => none
          | p + 1 => some p }
      let d := d.setCtx c { x with last := mapSet 0 x.last q (n + 1) }
      (d.modEng (fun z => { z with launches := mapPut z.launches n l, nextLaunch := n + 1 })))

/-! ### LAUNCH_PLACE -/

/-- Is it the launch's turn in its queue (R43, R42 CONCURRENT), in a context that may start it (R38, R417)? A replay that
settles a shadow's disagreement has its turn at once. -/
def Dev.myTurn (d : Dev) (x : Launch) : Bool :=
  let c := d.ctx x.ctx
  x.st = .queued && (c.st = .admitted || (c.st = .replaying && x.replay)) &&
    (x.settle.isSome ||
      (!(d.eng.launches.any (fun l => l.2.ctx == x.ctx && l.2.queue == x.queue && l.2.st = .queued &&
          l.2.settle.isNone && decide (l.2.order < x.order))) &&
        (x.concurrent || (match x.prev with
          | some p => !mapHas d.eng.launches p
          | none => true))))

/-- The CEs that may take a launch: the active ones; for a replay those that it has not run on, free of other launches, and
not hung (R417). -/
def Dev.candidates (d : Dev) (x : Launch) : List Nat :=
  let a := d.partOfCtx x.ctx
  let hung := match mapFind? d.res.episodes a with
    | some e => e.hung
    | none => []
  (d.activeCes a).filter (fun k =>
    !x.oldCes.contains k && !hung.contains k && (!x.replay || (d.resident k).isEmpty) &&
      !(d.resident k).any (fun lm => match d.launch? lm.1 with
        | some y => y.replay
        | none => false))

/-- The initial scalar registers of a member (R142). -/
def startRegs (x : Launch) (m : Nat) : Map Word :=
  [(1, m), (2, x.group), (3, x.ploff), (4, x.lsSize), (5, x.cohorts), (6, x.regs)].foldl
    (fun r p => mapSet 0#64 r p.1 (BitVec.ofNat 64 p.2)) []

/-- Place a member: zero fill (R90), payload (R45), initial registers. -/
def Dev.placeMember (bt : Nat) (d : Dev) (l m k : Nat) (x : Launch) : Dev :=
  match d.lsFit k x.lsUnits, (List.range 4).find? (fun t => (d.ce k).threads.getD t none == none) with
  | some ls, some t =>
    let vrf := d.vrfFree k ((x.regBytes + 1023) / 1024)
    let slots := d.issueSlots k x.cohorts
    let d := d.modCe k (fun c =>
      let c := c.place ((List.range x.lsUnits).map (fun i => ls + i)) vrf x.ctx
      { c with threads := c.threads.set t (some (l, m)), ls := memWriteBytes c.ls (ls * 4096 + x.ploff) x.payload })
    let y : Member := { ce := k, thread := t, lsBase := ls, vrf, slots, pc := x.kernel, s := startRegs x m, progress := bt }
    d.modEng (fun z => { z with members := mapPut z.members (memberKey l m) y })
  | _, _ => d

/-- Place every member of a launch on its CEs and arm its watchdog (R409). -/
def Dev.placeOn (bt : Nat) (d : Dev) (l : Nat) (x : Launch) (ces : List Nat) : Dev :=
  let d := ces.zipIdx.foldl (fun d p => d.placeMember bt l p.2 p.1 x) d
  let bound := if x.watchdogUs = 0 then d.fget F.resWdogCfgDefaultUs (d.partOfCtx x.ctx) else x.watchdogUs
  d.arm bt (d.launchWheel l) (.watchdog l) 3 (bt + bound * 1000)

/-- SHADOW_SAMPLE (R436): every RATE-th eligible launch of a die gets a shadow run on a spare of it held at rank 3. Without a free spare, or
a wheel entry for the shadow's watchdog (R70), it runs unshadowed; a claim on spares in use is refused with CONFLICT (R26). -/
def Dev.sampleShadow (bt : Nat) (d : Dev) (l : Nat) (x : Launch) (k : Nat) : Dev :=
  if x.group = 1 ∧ ¬x.nrs ∧ ¬(d.ctx x.ctx).noReplay ∧ ¬x.replay ∧ x.settle = none then
    let die := k / 26
    let n := mapGet 0 d.res.eligible die + 1
    let d := d.modRes (fun z => { z with eligible := mapPut z.eligible die n })
    let rate := d.fget F.resShadowCfgRate 0
    if rate ≠ 0 ∧ n % rate = 0 then
      let skip := fun (d : Dev) => d.fbump F.resShadowStatSkipped (d.partOfCtx x.ctx) 1
      match d.claimSpare die 3 k with
      | .none => skip d
      | .wakes _ => skip d
      | .waits _ => skip d
      | .refused => skip (d.refuse .resCfgErr 0 true)
      | .take j =>
        if wheelShared ≤ d.wheelUsed die then skip d else
        let s := d.eng.nextLaunch
        let y : Launch := { x with st := .running, start := bt, charged := false, shadow := none, shadowOf := some l }
        let d := d.modCe j (fun c => { c with st := .spareHeld, rank := 3 })
        let d := (d.modLaunch l (fun x => { x with shadow := some s }))
        let d := d.modEng (fun z => { z with launches := mapPut z.launches s y, nextLaunch := s + 1 })
        d.placeOn bt s y [j]
    else d
  else d

/-- LAUNCH_PLACE: the launch starts when it has its turn, its journal entries (R35), a wheel entry (R70) and its CEs (R44).
The entries are charged with the placement: the spec says only before the start (DESIGN CHOICE, log entry 134). -/
def Dev.placeLaunch (bt : Nat) (d : Dev) (l : Nat) : Dev :=
  match d.launch? l with
  | some x =>
    if d.res.cycle = false ∧ d.pow.tripped = false ∧ d.myTurn x ∧ (x.charged ∨ (d.ctx x.ctx).jrnUse + x.journal ≤ (d.ctx x.ctx).res.journal) then
      match d.choose x (d.candidates x) with
      | some ces =>
        let low := (ces.foldl (fun b k => if ((d.ce k).logical).getD 999 < ((d.ce b).logical).getD 999 then k else b)
          (ces.headD 0)) / 26
        if d.wheelUsed low < wheelShared then
          let d := if x.charged then d else d.modCtx x.ctx (fun c => { c with jrnUse := c.jrnUse + x.journal })
          let d := d.modLaunch l (fun x => { x with
            st := .running, start := bt, status := .ok, fstat := 0, exc := none, charged := true })
          (d.placeOn bt l x ces).sampleShadow bt l x (ces.headD 0)
        else d
      | none => d
    else d
  | none => d

/-! ### LAUNCH_COMPLETE -/

/-- Has a launch ended: no command in flight, and every member ended, or the launch failed (R163)? -/
def Dev.hasEnded (d : Dev) (l : Nat) (x : Launch) : Bool :=
  !(d.eng.cmds.any (fun c => c.2.l == l)) &&
    (x.st = .ending || (x.st = .running && (d.membersOf l).all (fun m => m.2.ended)))

/-- After a replay, the bytes that a launch without NRS both reads and writes are undefined (R51). -/
def Dev.tornReplay (d : Dev) (x : Launch) : Dev :=
  if x.replay then (x.outs.flatMap (fun o => x.ins.filterMap (overlap o))).foldl (fun d r => d.memFree r.1 r.2) d else d

/-- LAUNCH_COMPLETE (R46, R105): dirty sequencer lines are written back, then the completion entry. A run that is compared
with its shadow, or settles a disagreement, holds its completion (R437, R438). -/
def Dev.launchComplete (bt : Nat) (d : Dev) (l : Nat) : Dev :=
  match d.launch? l with
  | some x =>
    if d.hasEnded l x then
      let ces := d.launchCes l
      let mine := fun (s : SqcLine) => s.ctx == x.ctx && s.dirty
      match (if x.shadowOf.isSome then (true, d) else ces.foldl (fun r k =>
        let q := Dev.badLines bt r.2 k none mine
        (r.1 && q.1, q.2)) (true, d)) with
      | (false, d) => d
      | (true, d) =>
      let d := if x.shadowOf.isSome then d else (ces.foldl (fun d k => d.sqcClean k mine) d).tornReplay x
      let digs := d.digestsOf l
      let d := (d.dropPosts l).forget bt l x.ctx
      if x.shadowOf.isSome || x.shadow.isSome || x.settle.isSome then
        d.modLaunch l (fun x => { x with st := .done, digests := digs, oldCes := x.oldCes ++ ces })
      else
        let d := d.completeLaunch bt l x.final
        if x.replay ∧ (d.ctx x.ctx).st = .replaying ∧ ¬d.replayLeft x.ctx then d.replayDone bt x.ctx else d
    else d
  | none => d

def execLaunch (pair : Nat) : State → Host.Outcome State Fault Refusal := onDev (fun bt d => d.queueLaunch bt pair)
def execLaunchPlace (l : Nat) : State → Host.Outcome State Fault Refusal := onDev (fun bt d => d.placeLaunch bt l)
def execLaunchComplete (l : Nat) : State → Host.Outcome State Fault Refusal := onDev (fun bt d => d.launchComplete bt l)

end Sys2Proof.Machine
end

