-- ==== Sys2Proof/Machine/Fault.lean ====
section
/-! DEFINITION. Translation faults and the fault queue (R317 to R325), invalidation (R313 to R315), host transfers (R342), and
the requests that write a target in the context's or the host's memory (R177, R220). -/

namespace Sys2Proof.Machine

/-! ### The fault queue (R320 to R322) -/

/-- Slots of a partition's fault queue. -/
def Dev.fqSize (d : Dev) (a : Nat) : Nat := 2 ^ d.fget F.xlatFqCfgLog2Size a

/-- Records written and not consumed. -/
def Dev.fqUsed (d : Dev) (a : Nat) : Nat := (2 ^ 32 + d.fget F.xlatFqTailCount a - d.fget F.xlatFqHeadCount a) % 2 ^ 32

/-- May a record be written now? -/
def Dev.fqRoom (d : Dev) (a : Nat) : Bool := d.fon F.xlatFqCfgEnable a && decide (d.fqUsed a < d.fqSize a)

/-- The 32 bytes of a fault record (R320). -/
def Held.bytes (h : Held) (phase : Bool) (id : Nat) : List Byte :=
  leBytes 4 (h.cause + b2n h.write * 2 ^ 8 + h.kind * 2 ^ 9 + b2n phase * 2 ^ 15 + h.source * 2 ^ 16) ++ leBytes 4 h.ctx ++
    leBytes 8 h.ava ++ leBytes 8 id ++ leBytes 8 h.bt

/-- Write the record of a held fault, which takes the next FAULT_ID; an MSI follows when the queue was empty. -/
def Dev.writeRecord (d : Dev) (h : Held) : Held × Dev :=
  let a := h.part
  let id := (mapGet 0 d.xlat.faultId a + 1) % 2 ^ 32
  let tail := d.fget F.xlatFqTailCount a
  let n := d.fqSize a
  let empty := d.fqUsed a == 0
  let at_ := d.fget F.xlatFqBaseAddr a * 2 ^ 12 + 32 * (tail % n)
  let d := d.memPut at_ (h.bytes (tail / n % 2 == 0) id)
  let d := d.modXlat (fun z => { z with faultId := mapSet 0 z.faultId a id })
  let d := d.fset F.xlatFqTailCount a (tail + 1)
  ({ h with id := some id }, if empty then d.sendMsiReg a .xlatFqMsi a else d)

/-- Write the records of a partition's held faults that have none, in the order in which they occurred, as room appears
(R322). -/
def Dev.postFaults (d : Dev) (a : Nat) : Dev :=
  let (hs, d) := d.xlat.held.foldl
    (fun (p : List Held × Dev) h =>
      if h.part = a ∧ h.id = none ∧ p.2.fqRoom a then
        let (h, d) := p.2.writeRecord h
        (p.1 ++ [h], d)
      else (p.1 ++ [h], p.2)) ([], d)
  d.modXlat (fun z => { z with held := hs })

/-- Hold a fault in its source, with its record when there is room (R320, R322). -/
def Dev.holdFault (d : Dev) (h : Held) : Dev :=
  let a := h.part
  let room := d.fqRoom a && !(d.xlat.held.any (fun g => g.part == a && g.id.isNone))
  let d := if h.cause = 3 then d.fbump F.prtPromStat2QuotaFaults a 1 else d
  let d := if room ∨ ¬d.fon F.xlatFqCfgEnable a then d else d.fbump F.xlatFqStatOverflow a 1
  Dev.postFaults (d.modXlat (fun z => { z with held := z.held ++ [h] })) a

/-- Does a source hold a fault (R100)? -/
def Dev.holds (d : Dev) (a kind source : Nat) : Bool :=
  d.xlat.held.any (fun h => h.part == a && h.kind == kind && h.source == source)

/-- SOURCE of a transfer queue: logical CE × 4 + queue; a CE without a logical number, such as a spare that runs a shadow, has one of its
own above them (DESIGN CHOICE, log entry 20). -/
def Dev.tqSource (d : Dev) (k q : Nat) : Nat := 4 * (((d.ce k).logical).getD (192 + k)) + q

/-! ### An access by a data mover (R317) -/

/-- What an access finds. -/
inductive Access where
  | ok (p : Page)
  | wait
  | fault (cause : Nat)
  | violation
  deriving DecidableEq, Repr

/-- Translate an access of context `c` through cache `u`. `remote` says that a remote page may be reached, `soft` that an
unmapped page is a fault and no violation. -/
def Dev.access (bt : Nat) (d : Dev) (u c ava : Nat) (write remote soft : Bool) : Access × Dev :=
  match d.translate u c ava with
  | (.page p, d) =>
    if ¬d.isLocal (d.partOfCtx c) p.dpa ∧ ¬remote then (if soft then .fault 4 else .violation, d.fbump F.xlatWalkStatMalformed (d.partOfCtx c) 1)
    else if write then
      if !p.w then (if soft then .fault 2 else .violation, d)
      else if ¬d.isLocal (d.partOfCtx c) p.dpa then (.ok p, d)
      else match d.writeNeed bt c p with
        | (.ready, d) => (.ok p, d)
        | (.wait, d) => (.wait, d)
        | (.quota, d) => (.fault 3, d)
        | (.violation, d) => (.violation, d)
    else (.ok p, d)
  | (.unmapped, d) => (if soft then .fault 1 else .violation, d)
  | (.malformed, d) => (if soft then .fault 4 else .violation, d)

/-! ### Host transfers (R342, R343) -/

/-- Move the pieces of a host transfer, page by page, until it is done, waits, or fails; `data` is what an inward transfer
writes. The status is `none` while it is not over. -/
def Dev.xferPieces (bt : Nat) (x : Nat) (data : List Byte) : Nat → Dev → Option Status × Dev
  | 0, d => (none, d)
  | fuel + 1, d =>
    match mapFind? d.ring.xfers x with
    | some t =>
      if t.len ≤ t.moved then (some .ok, d)
      else
        let ava := t.ava + t.moved
        let setX := fun (d : Dev) (t : Xfer) => d.modRing (fun z => { z with xfers := mapPut z.xfers x t })
        match (if 2 ^ 56 ≤ ava then (Access.fault 1, d) else d.access bt (tlbHte t.engine) t.ctx ava t.inward false true) with
        | (.ok p, d) =>
          let n := min (t.len - t.moved) (2 ^ p.lg - ava % 2 ^ p.lg)
          let a := p.at_ ava % 2 ^ 48
          let part := d.partOfCtx t.ctx
          if ¬d.bytesOpen hubNode a n then (none, d)
          else if t.inward then
            Dev.xferPieces bt x data fuel (setX ((d.memPut a ((data.drop t.moved).take n)).hinted part t.ctx t.hint a n)
              { t with moved := t.moved + n })
          else if d.poisoned a n then (some .dataPoison, d)
          else
            let bs := memReadBytes d.mem a n
            let d := d.hinted part t.ctx t.hint a n
            Dev.xferPieces bt x data fuel (setX (d.emit (.hostWrite t.port (t.iova + t.moved) bs)) { t with moved := t.moved + n })
        | (.fault cause, d) =>
          let d := setX d { t with fault := true }
          (none, d.holdFault { part := d.partOfCtx t.ctx, kind := 1, source := t.engine, cause, write := t.inward, ctx := t.ctx
                               ava, bt, id := none, cmd := some x })
        | (.violation, d) => (some .accessViolation, d)
        | (.wait, d) => (none, d)
    | none => (none, d)

/-- A host transfer goes on, and ends with its completion and notify entry. -/
def Dev.xferStep (bt : Nat) (d : Dev) (x : Nat) (host : List Byte) : Dev :=
  match mapFind? d.ring.xfers x with
  | some t =>
    let oldest := !(d.ring.xfers.any (fun y => y.2.engine == t.engine && decide (y.1 < x)))
    let data := if t.data.isEmpty then host else t.data
    if ¬oldest ∨ t.fault ∨ (t.inward ∧ data.length < t.len) then d
    else match d.xferPieces bt x data (t.len / 65536 + 3) with
      | (none, d) => d
      | (some .accessViolation, d) => (d.endXfer bt x .accessViolation).terminate bt t.ctx none
      | (some st, d) =>
        let d := match t.notify with
          | some (k, tag) => if st = Status.ok ∧ (d.pair k).ctx = t.ctx then
              d.post k { tag, status := .ok, bt, result := t.len } none else d
          | none => d
        d.endXfer bt x st
  | none => d

/-! ### Ending a fault (R323, R324) -/

/-- Take a held fault away. -/
def Dev.dropHeld (d : Dev) (h : Held) : Dev := d.modXlat (fun z => { z with held := z.held.erase h })

/-- A command fails: it leaves its queue, and its launch ends (R163). -/
def Dev.failCmd (d : Dev) (n : Nat) (st : Status) : Dev :=
  match mapFind? d.eng.cmds n with
  | some c => (d.modEng (fun z => { z with cmds := mapErase z.cmds n })).failLaunch c.l st none
  | none => d

/-- FAIL and the timeout: the command, host transfer or scalar store ends with PAGE_FAULT_UNRESOLVED. -/
def Dev.failHeld (bt : Nat) (d : Dev) (h : Held) : Dev :=
  let d := (d.dropHeld h).postFaults h.part
  match h.kind, h.cmd, h.lm with
  | 0, some n, _ => d.failCmd n .pageFaultUnresolved
  | 0, none, some (l, _) => d.failLaunch l .pageFaultUnresolved none
  | _, some x, _ => d.endXfer bt x .pageFaultUnresolved
  | _, _, _ => d

/-- RETRY: the source translates its access again when it goes on; the time held does not count toward the command's timeout
(R411). -/
def Dev.retryHeld (bt : Nat) (d : Dev) (h : Held) : Dev :=
  let d := (d.dropHeld h).postFaults h.part
  match h.kind, h.cmd with
  | 0, some n => d.modEng (fun z => { z with cmds := mapModify z.cmds n (fun c =>
      { c with fault := false, bt := c.bt + (bt - h.bt) }) })
  | _, some x => d.modRing (fun z => { z with xfers := mapModify z.xfers x (fun t => { t with fault := false }) })
  | _, none => d

/-- A write of `XLAT.FQ_RESOLVE` (R323): a resolve that matches no held fault is ignored and counted. -/
def Dev.fqResolve (bt : Nat) (d : Dev) (p : Party) (a : Nat) (v : Word) : Dev :=
  let w := v.toNat
  d.regWrite p .xlatFqResolve a v (verdict (bits w 44 43 == 0 || bits w 44 43 == 3) false)
    (fun d =>
      match d.xlat.held.find? (fun h => h.part == a && h.kind == bits w 42 42 && h.source % 1024 == bits w 41 32 &&
          h.id == some (bits w 31 0)) with
      | some h => if bits w 44 43 = 1 then d.retryHeld bt h else d.failHeld bt h
      | none => d.fbump F.xlatFqStatStale a 1)

/-- FAULT_TIMEOUT (R324). -/
def Dev.faultTimeout (bt : Nat) (d : Dev) (a kind source : Nat) : Dev :=
  match d.xlat.held.find? (fun h => h.part == a && h.kind == kind && h.source == source) with
  | some h => if h.bt + d.fget F.xlatFqTimeoutTimeoutMs a * 1000000 ≤ bt then d.failHeld bt h else d
  | none => d

/-- A write of `XLAT.FQ_HEAD`: a HEAD beyond TAIL is refused; records of held faults follow as room appears (R322). -/
def Dev.fqHeadWrite (d : Dev) (p : Party) (a : Nat) (v : Word) : Dev :=
  let ahead := (2 ^ 32 + d.fget F.xlatFqTailCount a - bits v.toNat 31 0) % 2 ^ 32
  d.regWrite p .xlatFqHead a v (verdict (decide (d.fqSize a < ahead)) false) (fun d => d.postFaults a)

/-! ### WALK (R312) -/

/-- The command in flight on a transfer queue that makes an access, oldest first. -/
def Dev.cmdAt (d : Dev) (source c ava : Nat) (write : Bool) : Option (Nat × Cmd) :=
  d.eng.cmds.find? (fun n => n.2.started && !n.2.fault && !n.2.rb &&
    (match d.launch? n.2.l, d.member? n.2.l n.2.m with
    | some l, some x => l.ctx == c && d.tqSource x.ce n.2.q == source && n.2.op.writes == write &&
        (d.cmdExtents x n.2).any (fun e => decide (e.1 ≤ ava) && decide (ava < e.1 + e.2.2))
    | _, _ => false))

/-- A command's access fails: its transfer queue holds the fault, one at a time (R100); or the context ends. -/
def Dev.cmdFault (bt : Nat) (d : Dev) (n : Nat) (c : Cmd) (k ctx ava cause : Nat) : Dev :=
  let a := d.partOfCtx ctx
  let source := d.tqSource k c.q
  if d.holds a 0 source then d
  else
    let d := d.modEng (fun z => { z with cmds := mapModify z.cmds n (fun c => { c with fault := true }) })
    d.holdFault { part := a, kind := 0, source, cause, write := c.op.writes, ctx, ava, bt, id := none, cmd := some n }

/-- WALK: the access of a command or of the transfer a host transfer engine serves is translated; a failure holds its source
and posts a record (R320), or ends the context (R317). -/
def Dev.walkAccess (bt : Nat) (d : Dev) (kind source c ava : Nat) (write : Bool) : Dev :=
  if kind = 0 then
    match d.cmdAt source c ava write with
    | some (n, cmd) => match d.launch? cmd.l, d.member? cmd.l cmd.m with
      | some l, some x => match d.access bt (tlbCe x.ce) c ava write true l.faultable with
        | (.fault cause, d) => d.cmdFault bt n cmd x.ce c ava cause
        | (.violation, d) => d.violation bt cmd.l
        | (_, d) => d
      | _, _ => d
    | none => d
  else
    match d.ring.xfers.find? (fun x => x.2.engine == source) with
    | some (x, t) =>
      if t.ctx = c ∧ t.inward = write ∧ ¬t.fault ∧ t.ava + t.moved = ava then
        match d.access bt (tlbHte source) c ava write false true with
        | (.fault cause, d) =>
          let d := d.modRing (fun z => { z with xfers := mapPut z.xfers x { t with fault := true } })
          d.holdFault { part := d.partOfCtx c, kind := 1, source, cause, write, ctx := c, ava, bt, id := none, cmd := some x }
        | (.violation, d) => (d.endXfer bt x .accessViolation).terminate bt c none
        | (_, d) => d
      else d
    | none => d

/-! ### Invalidation (R314, R315) -/

/-- A write of `XLAT.INV_REQ`: the next token is issued. At most 64 requests are outstanding. -/
def Dev.invReq (d : Dev) (p : Party) (a : Nat) (v : Word) : Dev :=
  let w := v.toNat
  let scope := bits w 13 12
  let len := 2 ^ bits w 19 14 * 65536
  let ava := bits w 59 20 * 65536
  let issued := (d.reg .xlatInvIssued a).toNat
  let done := (d.reg .xlatInvDone a).toNat
  d.regWrite p .xlatInvReq a v
    (verdict (scope == 3 || decide (64 ≤ issued - done) || (scope != 2 && d.partOfCtx (bits w 11 0) != a) ||
      (scope == 0 && ava % len != 0)) false)
    (fun d =>
      let i : Inval := { part := a, token := issued + 1, scope, ctx := bits w 11 0, ava, len }
      (d.setReg .xlatInvIssued a (BitVec.ofNat 64 (issued + 1))).modXlat (fun z => { z with invs := z.invs ++ [i] }))

/-- Does an invalidation cover a page? -/
def Inval.covers (i : Inval) (ctx ava lg : Nat) : Bool :=
  i.scope == 2 || (i.ctx == ctx && (i.scope == 1 || (decide (ava < i.ava + i.len) && decide (i.ava < ava + 2 ^ lg))))

/-- Does it cover a sequencer-cache line, by the page the line was filled from? -/
def Inval.coversLine (i : Inval) (l : SqcLine) : Bool := i.covers l.ctx (l.ava / 2 ^ l.lg * 2 ^ l.lg) l.lg

/-- The frames that a request's translations name: those of the cached entries it covers (R275). -/
def Dev.invFrames (d : Dev) (a : Nat) (i : Inval) : List (Nat × Nat) :=
  (((d.xlat.tlbs.flatMap (fun t => t.2)).filter (fun e => d.partOfCtx e.ctx == a && i.covers e.ctx e.page.ava e.page.lg)).map
    (fun e => (e.page.dpa % 2 ^ 48, 2 ^ e.page.lg))).foldl listAdd []

/-- INV_COMPLETE: the oldest request of a partition completes; every TLB drops its entries, every sequencer cache writes back
and drops its lines, and the home slices recall the lines of the frames (R266, R275; DEDUCED, log entry 127). -/
def Dev.invComplete (bt : Nat) (d : Dev) (a : Nat) : Dev :=
  match d.xlat.invs.find? (fun i => i.part == a) with
  | some i =>
    let d := d.modXlat (fun z => { z with invs := z.invs.erase i })
    let frames := d.invFrames a i
    let d := d.tlbDrop a (fun e => i.covers e.ctx e.page.ava e.page.lg)
    let d := (d.partCes a).foldl (fun d k => (d.sqcRecall bt k none i.coversLine).2) d
    let d := frames.foldl (fun d f => if isDdr f.1 then d else d.backInv f.1 f.2) d
    d.setReg .xlatInvDone a (BitVec.ofNat 64 i.token)
  | none => d

/-! ### Requests with a target (R177, R220) -/

/-- The pages of a range, if each is mapped, local and writable. -/
def Dev.targetPages (d : Dev) (c : Nat) : Nat → Nat → Nat → Option (List Page)
  | _, _, 0 => some []
  | 0, _, _ => none
  | fuel + 1, ava, n =>
    match d.walkTable c ava with
    | .page p =>
      let k := min n (2 ^ p.lg - ava % 2 ^ p.lg)
      if p.w ∧ d.isLocal (d.partOfCtx c) p.dpa then (d.targetPages c fuel (ava + k) (n - k)).map (fun l => p :: l) else none
    | _ => none

/-- What the pages of a target find: the worst of their needs; promotions start (R207). -/
def Dev.targetNeed (bt c : Nat) : List Page → Dev → WriteNeed × Dev
  | [], d => (.ready, d)
  | p :: ps, d =>
    match d.writeNeed bt c p with
    | (.violation, d) => (.violation, d)
    | (.quota, d) => (.quota, d)
    | (n, d) => match Dev.targetNeed bt c ps d with
      | (.ready, d) => (n, d)
      | r => r

/-- Write bytes of a context's memory by AVA. -/
def Dev.writeAva (d : Dev) (c : Nat) : Nat → Nat → List Byte → Dev
  | 0, _, _ => d
  | fuel + 1, ava, bs =>
    if bs.isEmpty then d
    else match d.walkTable c ava with
      | .page p =>
        let k := min bs.length (2 ^ p.lg - ava % 2 ^ p.lg)
        (d.memPut (p.at_ ava % 2 ^ 48) (bs.take k)).writeAva c fuel (ava + k) (bs.drop k)
      | _ => d

/-- Dispatch a request that writes `len` bytes at its ARG1. A status from `pre` refuses it; on a device ring the target is
checked before any other effect, and the request waits at the head of its ring while a page is promoted; `f` gives the bytes,
the inline result, and what else changes. -/
def Dev.withTarget (bt : Nat) (d : Dev) (k typ op : Nat) (pre : Desc → Nat → Dev → Option Status)
    (len : Desc → Nat → Dev → Nat) (f : Desc → Nat → Dev → List Byte × Nat × Dev) : Dev :=
  match d.head? k typ op with
  | none => d
  | some r =>
    let c := d.descCtx r
    let d' := d.popDesc k
    if (d.ctx c).ending then d'.finish bt r .contextTerminated
    else match pre r c d with
      | some st => d'.finish bt r st
      | none =>
        let at_ := r.at_ 8 8
        let n := len r c d
        if pairIsHost k then
          let (bs, res, d) := f r c d'
          (d.emit (.hostWrite (pairPort k) at_ bs)).finish bt r .ok 0 res
        else match (if at_ + n ≤ 2 ^ 56 then d.targetPages c (n / 65536 + 3) at_ n else none) with
          | none => d'.finish bt r .range
          | some ps => match Dev.targetNeed bt c ps d with
            | (.violation, d) => d.terminate bt c none
            | (.quota, _) => d'.finish bt r .quota
            | (.wait, d) => d
            | (.ready, d) =>
              let (bs, res, d) := f r c (d.popDesc k)
              (d.writeAva c (n / 65536 + 3) at_ bs).finish bt r .ok 0 res

/-- QUERY (R177): a CLOSED slot of the partition, or a slot of the context. -/
def Dev.queryReq (bt : Nat) (d : Dev) (k : Nat) : Dev :=
  d.withTarget bt k 4 9
    (fun r c d =>
      let s := r.at_ 2 2
      if d.slotOk c s ∧ ((d.slot s).st = .closed ∨ (d.slot s).ctx = c) then none else some .range)
    (fun _ _ _ => 64) (fun r _ d => (d.queryBytes (r.at_ 2 2), 0, d))

/-- Take up to `n` free frames off a pool, newest first. -/
def Dev.poolShrink (d : Dev) (k n : Nat) : List Nat × Dev :=
  let fs := ((d.pool k).free.reverse).take n
  (fs, d.modPool k (fun p => { p with free := p.free.take (p.free.length - fs.length) }))

/-- POOL_SHRINK: the list of frame numbers is written, the inline result is their count. -/
def Dev.poolShrinkReq (bt : Nat) (d : Dev) (k typ op : Nat) (pre : Desc → Nat → Dev → Option Status)
    (pool : Desc → Nat → Nat) : Dev :=
  d.withTarget bt k typ op pre
    (fun r c d => 4 * min (r.at_ 16 4) (d.pool (pool r (d.partOfCtx c))).free.length)
    (fun r c d =>
      let (fs, d) := d.poolShrink (pool r (d.partOfCtx c)) (r.at_ 16 4)
      (fs.flatMap (leBytes 4), fs.length, d))

/-- TIER_QUERY: one byte per entry of the window, the first n. -/
def Dev.tierQueryReq (bt : Nat) (d : Dev) (k : Nat) : Dev :=
  let win := fun (r : Desc) (c : Nat) (d : Dev) => d.win? (d.partOfCtx c) (r.at_ 2 2)
  d.withTarget bt k 5 7
    (fun r c d => match win r c d with
      | some x => if x.ctx = c ∧ d.fon F.prtPromCtrlEnable (d.partOfCtx c) then none else some .range
      | none => some .range)
    (fun r c d => match win r c d with
      | some x => min (r.at_ 16 2) x.ents.length
      | none => 0)
    (fun r c d => match win r c d with
      | some x => ((x.ents.take (r.at_ 16 2)).map WEnt.stateByte, 0, d)
      | none => ([], 0, d))

/-! ### Meanings -/

def execWalk (kind source ctx ava : Nat) (write : Bool) : State → Host.Outcome State Fault Refusal :=
  onDev (fun bt d => d.walkAccess bt kind source ctx ava write)
def execFqHeadWrite (p : Party) (a : Nat) (v : Word) : State → Host.Outcome State Fault Refusal :=
  onDev (fun _ d => d.fqHeadWrite p a v)
def execRetryFault (p : Party) (a : Nat) (v : Word) : State → Host.Outcome State Fault Refusal :=
  onDev (fun bt d => d.fqResolve bt p a v)
def execFailFault (p : Party) (a : Nat) (v : Word) : State → Host.Outcome State Fault Refusal :=
  onDev (fun bt d => d.fqResolve bt p a v)
def execFaultTimeout (a kind source : Nat) : State → Host.Outcome State Fault Refusal :=
  onDev (fun bt d => d.faultTimeout bt a kind source)
def execInvRange (p : Party) (a : Nat) (v : Word) : State → Host.Outcome State Fault Refusal :=
  onDev (fun _ d => d.invReq p a v)
def execInvContext (p : Party) (a : Nat) (v : Word) : State → Host.Outcome State Fault Refusal :=
  onDev (fun _ d => d.invReq p a v)
def execInvPartition (p : Party) (a : Nat) (v : Word) : State → Host.Outcome State Fault Refusal :=
  onDev (fun _ d => d.invReq p a v)
def execInvComplete (a : Nat) : State → Host.Outcome State Fault Refusal := onDev (fun bt d => d.invComplete bt a)
def execHostTransferComplete (x : Nat) (host : List Byte) : State → Host.Outcome State Fault Refusal :=
  onDev (fun bt d => d.xferStep bt x host)
def execQuery (pair : Nat) : State → Host.Outcome State Fault Refusal := onDev (fun bt d => d.queryReq bt pair)
def execPoolShrink (pair : Nat) : State → Host.Outcome State Fault Refusal :=
  onDev (fun bt d => d.poolShrinkReq bt pair 4 0x11
    (fun r c d => if d.poolValid (kvPool (d.partOfCtx c) (bits (r.at_ 1 1) 2 0)) then none else some .range)
    (fun r a => kvPool a (bits (r.at_ 1 1) 2 0)))
def execTierQuery (pair : Nat) : State → Host.Outcome State Fault Refusal := onDev (fun bt d => d.tierQueryReq bt pair)
def execPagePoolShrink (pair : Nat) : State → Host.Outcome State Fault Refusal :=
  onDev (fun bt d => d.poolShrinkReq bt pair 5 0x11
    (fun _ c d => if d.fon F.prtPromCtrlEnable (d.partOfCtx c) then none else some .range)
    (fun r a => pagePool a (bits (r.at_ 1 1) 1 0)))

end Sys2Proof.Machine
end

