-- ==== Sys2Proof/Machine/Fabric.lean ====
section
/-! DEFINITION. The Igsuren fabric (chapter 15): ports and lanes, the destination and route tables, sending and delivery of
packets, remote windows, and reset epochs. -/

namespace Sys2Proof.Machine

/-! ### Peers and routes (R357, R358) -/

def opPut : Nat := 1
def opRed : Nat := 2
def opGetReq : Nat := 3
def opGetResp : Nat := 4
def opAck : Nat := 5
def opNack : Nat := 6
def opEpoch : Nat := 7

/-- A peer of the partition at die `a`. -/
def Dev.peer (d : Dev) (a n : Nat) : Peer := mapGet {} d.fab.peers (4096 * a + n)

/-- Set a peer. -/
def Dev.setPeer (d : Dev) (a n : Nat) (p : Peer) : Dev :=
  d.modFab (fun z => { z with peers := mapSet {} z.peers (4096 * a + n) p })

/-- A partition's node ID and epoch. -/
def Dev.nodeId (d : Dev) (a : Nat) : Nat := d.fget F.igfNodeId a
def Dev.epoch (d : Dev) (a : Nat) : Nat := d.fget F.igfNodeEpoch a

/-- Is a port UP? -/
def Dev.portUp (d : Dev) (p : Nat) : Bool := d.fget F.igfPortStatusLink p == 2

/-- The ports of one round of a route, each as often as its weight, in ascending order (DESIGN CHOICE, log entry 26). -/
def Dev.roundOf (d : Dev) (a r : Nat) : List Nat :=
  let i := 64 * a + r
  ((List.range (d.dies a)).map (fun j => a + j)).flatMap (fun q =>
    if bit (d.fget F.igfRtPortMask i) q ∧ d.portUp q then listRep (d.fget F.igfRtW i / 2 ^ (4 * q) % 16) q else [])

/-- The route of a node. -/
def Peer.route (p : Peer) : Nat := bits p.word0 6 1

/-- May the node be addressed: its entry is VALID and its route has a port UP? -/
def Dev.reachable (d : Dev) (a n : Nat) : Bool :=
  let p := d.peer a n
  bit p.word0 0 && !(d.roundOf a p.route).isEmpty

/-- The port of the node that a packet from local port `q` is addressed to. -/
def Peer.dstPort (p : Peer) (q : Nat) : Nat :=
  let own := bits p.word0 63 56
  if own = 0 ∨ bit own q then q else ((List.range 8).find? (bit own)).getD q

/-- The next port of a node's spray. -/
def Dev.spray (d : Dev) (a n : Nat) : Option Nat × Dev :=
  let r := (d.peer a n).route
  let round := d.roundOf a r
  let i := mapGet 0 d.fab.spray (64 * a + r)
  (round[i % round.length]?, (d.modFab (fun z => { z with spray := mapSet 0 z.spray (64 * a + r) ((i + 1) % round.length) })))

/-- Send a packet from a port, with the epochs of the moment. -/
def Dev.emitPkt (d : Dev) (a op q : Nat) (k : Packet) : Dev :=
  let p := d.peer a k.dstNode
  let t := p.dstPort q
  let mac := bits p.word0 55 8 / 8 * 8 + t
  d.emit (.packet op mac { k with port := q, srcNode := d.nodeId a, srcEpoch := d.epoch a, dstEpoch := p.epoch.getD 0 })

/-- A header without a command. -/
def bareHdr (dst : Nat) (payload : List Byte) : Packet :=
  { port := 0, hint := 0, ef := 0, retx := false, psn := 0, srcNode := 0, dstNode := dst, srcEpoch := 0, dstEpoch := 0, addr := 0,
    cmdId := 0, segOff := 0, cmdLen := 0, payload }

/-- Send a packet outside the PSN stream on the next port of the spray. -/
def Dev.sendBare (d : Dev) (a op dst : Nat) (payload : List Byte) : Dev :=
  match d.spray a dst with
  | (some q, d) => d.emitPkt a op q (bareHdr dst payload)
  | (none, d) => d

/-! ### The PSN stream (R361) -/

/-- Payload not acknowledged. -/
def Peer.bytesOut (p : Peer) : Nat := (p.unacked.map (fun s => s.2.pkt.payload.length)).sum

/-- Send what waits while the window has room. -/
def Dev.drain (bt : Nat) (a n : Nat) : Nat → Dev → Dev
  | 0, d => d
  | fuel + 1, d =>
    let p := d.peer a n
    match p.waiting with
    | [] => d
    | (op, k, cmd) :: ws =>
      if p.unacked.isEmpty ∨ p.bytesOut + k.payload.length ≤ d.fget F.igfRetxWindowKib 0 * 1024 then
        match d.spray a n with
        | (some q, d) =>
          let k := { k with psn := p.txPsn }
          let d := d.setPeer a n { p with
            waiting := ws, txPsn := (p.txPsn + 1) % 2 ^ 32
            unacked := mapPut p.unacked p.txPsn { op, pkt := k, cmd, first := bt, last := bt } }
          Dev.drain bt a n fuel (d.emitPkt a op q k)
        | (none, d) => d
      else d

/-- Queue packets for a node, and send what has room. -/
def Dev.sendPkts (bt : Nat) (d : Dev) (a n : Nat) (ks : List (Nat × Packet)) (cmd : Option Nat) : Dev :=
  let p := d.peer a n
  let d := d.setPeer a n { p with waiting := p.waiting ++ ks.map (fun k => (k.1, k.2, cmd)) }
  Dev.drain bt a n ((d.peer a n).waiting.length) d

/-- Cut a payload into segments: at most 8,192 bytes, at 64-byte boundaries of the target address (R360). -/
def segments : Nat → Nat → Nat → List Byte → List (Nat × Nat × List Byte)
  | 0, _, _, _ => []
  | fuel + 1, addr, off, bs =>
    if bs.isEmpty then []
    else
      let n := min bs.length (8192 - addr % 64)
      (addr, off, bs.take n) :: segments fuel (addr + n) (off + n) (bs.drop n)

/-- Nodes that a command still has packets or reads with. -/
def Dev.cmdNode (d : Dev) (a node n : Nat) : Bool :=
  let p := d.peer a node
  p.unacked.any (fun s => s.2.cmd == some n) || p.waiting.any (fun w => w.2.2 == some n) ||
    (match mapFind? d.eng.cmds n with
    | some c => c.gets.any (fun g => g.1 == node)
    | none => false)

/-- Commands of a partition in flight to a node. -/
def Dev.inFlight (d : Dev) (a node : Nat) : List Nat :=
  (d.eng.cmds.filter (fun c => (match d.launch? c.2.l with
    | some x => d.partOfCtx x.ctx == a
    | none => false) && d.cmdNode a node c.1)).map (fun c => c.1)

/-- Has a command anything outstanding with another node? -/
def Dev.cmdRemote (d : Dev) (a n : Nat) : Bool :=
  d.fab.peers.any (fun p => p.1 / 4096 == a && d.cmdNode a (p.1 % 4096) n) ||
    (match mapFind? d.eng.cmds n with
    | some c => !c.gets.isEmpty
    | none => false)

/-- Restart both streams of a pair (R362, R367). -/
def Peer.restart (p : Peer) : Peer := { p with txPsn := 0, waiting := [], unacked := [], cum := 0, got := [], owed := 0 }

/-- Every command to a node fails (R362, R367). -/
def Dev.failNode (d : Dev) (a node : Nat) (st : Status) : Dev := (d.inFlight a node).foldl (fun d n => d.failCmd n st) d

/-! ### Delivery (R361, R364, R367) -/

/-- Is the partition dropping packets while a reset of it runs (R366)? -/
def Dev.fabDeaf (d : Dev) (a : Nat) : Bool :=
  d.res.warm.isSome || (match mapFind? d.res.parts a with
    | some r => !r.held
    | none => false)

/-- Record a PSN as arrived. -/
def Peer.arrive (p : Peer) (bt psn : Nat) : Peer :=
  let got := listAdd p.got psn
  let cum := (List.range got.length).foldl (fun c _ => if got.contains c then (c + 1) % 2 ^ 32 else c) p.cum
  { p with cum, got := got.filter (fun n => decide (0 < (2 ^ 32 + n - cum) % 2 ^ 32) && decide ((2 ^ 32 + n - cum) % 2 ^ 32 < 2 ^ 31))
           owed := p.owed + 1, since := if p.owed = 0 then bt else p.since }

/-- Has the PSN arrived before, or does it lie more than 2^31 ahead? -/
def Peer.duplicate (p : Peer) (psn : Nat) : Bool :=
  p.got.contains psn || decide (2 ^ 31 ≤ (2 ^ 32 + psn - p.cum) % 2 ^ 32)

/-- The ACK payload: CUM_PSN and the map of the 256 PSNs from it. -/
def Peer.ackBytes (p : Peer) : List Byte :=
  leBytes 4 p.cum ++ leBytes 32 ((List.range 256).foldl (fun v i => if p.got.contains ((p.cum + i) % 2 ^ 32) then v + 2 ^ i else v) 0)

/-- Send the ACK that is owed to a node. -/
def Dev.sendAck (d : Dev) (a n : Nat) : Dev :=
  let p := d.peer a n
  (d.setPeer a n { p with owed := 0 }).sendBare a opAck n p.ackBytes

/-- A node's epoch is heard: none recorded yet, the same, a newer one (its commands end with PEER_RESET and both streams
restart), or an older one, whose packet is discarded (R367, R428). -/
def Dev.hearEpoch (d : Dev) (a n e : Nat) : Bool × Dev :=
  let p := d.peer a n
  match p.epoch with
  | none => (true, d.setPeer a n { p with epoch := some e })
  | some r =>
    if e = r then (true, d)
    else if (2 ^ 32 + e - r) % 2 ^ 32 < 2 ^ 31 then
      let d := d.failNode a n .peerReset
      let d := d.setPeer a n { (d.peer a n).restart with epoch := some e }
      (true, d.fbump F.igfPeerStatEpochsSeen a 1)
    else (false, d)

/-- Receive a packet: the node it is for, the epochs; then `f` for the partition. -/
def Dev.receive (d : Dev) (k : Packet) (f : Nat → Dev → Dev) : Dev :=
  let a := d.partOfDie k.port
  if 8 ≤ k.port ∨ d.fabDeaf a ∨ k.dstNode ≠ d.nodeId a then d
  else match d.hearEpoch a k.srcNode k.srcEpoch with
    | (false, d) => d
    | (true, d) => if k.dstEpoch ≠ d.epoch a then d.sendBare a opEpoch k.srcNode [] else f a d

/-- Receive a packet of the PSN stream: a duplicate is acknowledged again and discarded; `f` applies it and gives the reason of a
refusal (R361, R363). -/
def Dev.receivePsn (bt : Nat) (d : Dev) (k : Packet) (f : Nat → Dev → Option Nat × Dev) : Dev :=
  d.receive k (fun a d =>
    let n := k.srcNode
    if (d.peer a n).duplicate k.psn then d.sendAck a n
    else
      let (why, d) := f a d
      let d := d.setPeer a n ((d.peer a n).arrive bt k.psn)
      match why with
      | some r => d.sendBare a opNack n (leBytes 4 k.psn ++ leBytes 1 r)
      | none => if 16 ≤ (d.peer a n).owed then d.sendAck a n else d)

/-- Does a remote window of the partition grant an operation (bit 56 READ, 57 WRITE, 58 RED) on a range (R364)? -/
def Dev.windowGrants (d : Dev) (a src addr n grant : Nat) : Bool :=
  (List.range 64).any (fun i =>
    let c := (d.reg .igfWinCfg (64 * a + i)).toNat
    let base := d.fget F.igfWinBaseBase (64 * a + i) * 2 ^ 16
    bit c 59 && bit c grant && decide (base ≤ addr) && decide (addr + n ≤ (bits c 31 0 + 1) * 2 ^ 16) &&
      ((src ^^^ bits c 43 32) &&& bits c 55 44) == 0)

/-- A packet that no window accepts (R364). -/
def Dev.refuseRemote (d : Dev) (a : Nat) : Option Nat × Dev := (some 1, d.fbump F.igfPeerStatRefused a 1)

/-- Add the elements of a reduce to memory (R134, R271): `el` bytes each. -/
def Dev.reduceAt (d : Dev) (el : Nat) : Nat → Nat → List Byte → Dev
  | 0, _, _ => d
  | fuel + 1, x, bs =>
    if bs.isEmpty then d
    else
      let old := memReadBytes d.mem x el
      let new := if el = 32 then recordBytes (recordAdd (recordCell old) (recordCell (bs.take 32)))
        else leBytes 4 ((leNat old + leNat (bs.take 4)) % 2 ^ 32)
      Dev.reduceAt (d.memPut x new) el fuel (x + el) (bs.drop el)

/-- The cache hint of a packet at its target: Stream only, since Keep and Last-use count as none there (R363). -/
def Dev.hintedFrom (d : Dev) (a : Nat) (k : Packet) (n : Nat) : Dev := if k.hint = 1 then d.hinted a 0 1 k.addr n else d

/-- PUT_PACKET. -/
def Dev.putPacket (bt : Nat) (d : Dev) (k : Packet) : Dev :=
  d.receivePsn bt k (fun a d =>
    if d.windowGrants a k.srcNode k.addr k.payload.length 57 then (none, (d.memPut k.addr k.payload).hintedFrom a k k.payload.length) else d.refuseRemote a)

/-- RED_PACKET. -/
def Dev.redPacket (bt : Nat) (d : Dev) (k : Packet) : Dev :=
  d.receivePsn bt k (fun a d =>
    if d.windowGrants a k.srcNode k.addr k.payload.length 58 then
      if d.poisoned k.addr k.payload.length then (some 2, d)
      else (none, (d.reduceAt (if k.ef = 0 then 32 else 4) k.payload.length k.addr k.payload).hintedFrom a k k.payload.length)
    else d.refuseRemote a)

/-- GET_REQ: the bytes go back on the target's own stream. CMD_LEN of a request is the bytes it asks for (DESIGN CHOICE, log
entry 27). -/
def Dev.getReq (bt : Nat) (d : Dev) (k : Packet) : Dev :=
  d.receivePsn bt k (fun a d =>
    if d.windowGrants a k.srcNode k.addr k.cmdLen 56 then
      if d.poisoned k.addr k.cmdLen then (some 2, d)
      else
        let ps := (segments (k.cmdLen / 64 + 2) k.addr k.segOff (memReadBytes d.mem k.addr k.cmdLen)).map (fun s =>
          (opGetResp, { bareHdr k.srcNode s.2.2 with addr := s.1, cmdId := k.cmdId, segOff := s.2.1, cmdLen := k.cmdLen }))
        (none, (d.hintedFrom a k k.cmdLen).sendPkts bt a k.srcNode ps none)
    else d.refuseRemote a)

/-- Take bytes off the outstanding reads of a command. -/
def takeGet (gs : List (Nat × Nat × Nat)) (node off n : Nat) : List (Nat × Nat × Nat) :=
  gs.flatMap (fun g =>
    if g.1 = node ∧ g.2.1 ≤ off ∧ off + n ≤ g.2.1 + g.2.2 then
      (if off = g.2.1 then [] else [(node, g.2.1, off - g.2.1)]) ++
        (if off + n = g.2.1 + g.2.2 then [] else [(node, off + n, g.2.1 + g.2.2 - off - n)])
    else [g])

/-- GET_RESP: the bytes go into Local Store at their offset in the command (R363). -/
def Dev.getResp (bt : Nat) (d : Dev) (k : Packet) : Dev :=
  d.receivePsn bt k (fun _ d =>
    match mapFind? d.eng.cmds k.cmdId with
    | some c => match d.member? c.l c.m with
      | some y =>
        if c.gets.any (fun g => g.1 = k.srcNode ∧ g.2.1 ≤ k.segOff ∧ k.segOff + k.payload.length ≤ g.2.1 + g.2.2) then
          let d := d.lsWrite y (c.sd + k.segOff) k.payload
          (none, (d.modEng (fun z => { z with cmds := mapModify z.cmds k.cmdId (fun c =>
            { c with gets := takeGet c.gets k.srcNode k.segOff k.payload.length }) })))
        else (none, d)
      | none => (none, d)
    | none => (none, d))

/-- ACK: packets below CUM_PSN and those of the map have arrived. -/
def Dev.ackPacket (bt : Nat) (d : Dev) (k : Packet) : Dev :=
  d.receive k (fun a d =>
    let n := k.srcNode
    let cum := listNat k.payload 0 4
    let map := listNat k.payload 4 32
    let p := d.peer a n
    let acked := fun (psn : Nat) =>
      let o := (2 ^ 32 + psn - cum) % 2 ^ 32
      decide (2 ^ 31 ≤ o) || (decide (o < 256) && bit map o)
    let d := d.setPeer a n { p with unacked := mapKeep p.unacked (fun psn _ => !acked psn) }
    Dev.drain bt a n p.waiting.length d)

/-- Send an unacknowledged packet again, on the next port of the spray. -/
def Dev.resend (bt : Nat) (d : Dev) (a n psn : Nat) (s : Sent) : Dev :=
  match d.spray a n with
  | (some q, d) =>
    let p := d.peer a n
    let d := d.setPeer a n { p with unacked := mapPut p.unacked psn { s with last := bt, retx := s.retx + 1 } }
    (d.fbump F.igfPortStatRetx q 1).emitPkt a s.op q { s.pkt with retx := true }
  | (none, d) => d

/-- NACK: reason 0 sends the packet again, 1 ends the command's context, 2 fails the command; a refusal for its epoch has no
effect of its own. -/
def Dev.nackPacket (bt : Nat) (d : Dev) (k : Packet) : Dev :=
  d.receive k (fun a d =>
    let n := k.srcNode
    let psn := listNat k.payload 0 4
    let p := d.peer a n
    match mapFind? p.unacked psn with
    | none => d
    | some s =>
      let gone := d.setPeer a n { p with unacked := mapErase p.unacked psn }
      match listNat k.payload 4 1 with
      | 0 => if s.retx < d.fget F.igfRetxLimit 0 then d.resend bt a n psn s else d
      | 1 => match s.cmd.bind (fun c => mapFind? d.eng.cmds c) with
        | some c => gone.violation bt c.l
        | none => gone
      | 2 => match s.cmd with
        | some c => gone.failCmd c .dataPoison
        | none => gone
      | _ => d)

/-- EPOCH: the node's new epoch. -/
def Dev.epochPacket (d : Dev) (k : Packet) : Dev :=
  let a := d.partOfDie k.port
  if 8 ≤ k.port ∨ d.fabDeaf a ∨ k.dstNode ≠ d.nodeId a then d else (d.hearEpoch a k.srcNode k.srcEpoch).2

/-- ACK_TIMER: 2 µs after the first packet not yet acknowledged. -/
def Dev.ackTimer (bt : Nat) (d : Dev) (a n : Nat) : Dev :=
  let p := d.peer a n
  if 0 < p.owed ∧ p.since + 2000 ≤ bt then d.sendAck a n else d

/-- RETRANSMIT_TIMEOUT. -/
def Dev.retransmit (bt : Nat) (d : Dev) (a n psn : Nat) : Dev :=
  match mapFind? (d.peer a n).unacked psn with
  | some s =>
    if s.last + d.fget F.igfRetxRtoUs 0 * 1000 ≤ bt ∧ s.retx < d.fget F.igfRetxLimit 0 then d.resend bt a n psn s else d
  | none => d

/-- GIVEUP (R362). -/
def Dev.giveUp (bt : Nat) (d : Dev) (a n : Nat) : Dev :=
  let p := d.peer a n
  if p.unacked.any (fun s => decide (s.2.first + d.fget F.igfRetxGiveupMs 0 * 1000000 ≤ bt)) then
    let d := d.failNode a n .peerUnreachable
    let p := d.peer a n
    (d.setPeer a n { p with txPsn := 0, waiting := [], unacked := [] }).fbump F.igfPeerStatGiveups a 1
  else d

/-! ### Tables and windows (R358, R359, R364) -/

/-- DT_WRITE: word 0 of the destination entry that DT_SEL names. Clearing VALID is always accepted; another write of a VALID entry
needs that no command to the node is in flight. A newly written entry holds no recorded epoch (R428). -/
def Dev.dtWrite (d : Dev) (p : Party) (a : Nat) (v : Word) : Dev :=
  let n := d.fget F.igfDtSelNode a
  let w := v.toNat
  d.regWrite p .igfDtData0 a v
    (verdict (bit w 7 || bits w 10 8 != 0) (bit w 0 && bit (d.peer a n).word0 0 && !(d.inFlight a n).isEmpty))
    (fun d =>
      let d := d.setReg .igfDtData0 a 0#64
      let q := d.peer a n
      d.setPeer a n { q with word0 := w, epoch := if bit w 0 then none else q.epoch })

/-- A write of a route entry: its ports lie in the partition. -/
def Dev.routeWrite (d : Dev) (p : Party) (i : Nat) (v : Word) : Dev :=
  let a := i / 64
  let out := (List.range 8).any (fun q => bit v.toNat q && !(decide (a ≤ q) && decide (q < a + d.dies a)))
  d.regWrite p .igfRt i v (verdict out false) id

/-- May a window of the partition hold these values: its memory only, and DDR for reads only? -/
def Dev.winOk (d : Dev) (a base c : Nat) : Bool :=
  let lo := base * 2 ^ 16
  let n := (bits c 31 0 + 1 - base) * 2 ^ 16
  !(isDdr lo && (bit c 57 || bit c 58)) && (!bit c 59 || (decide (base ≤ bits c 31 0) && d.inTier (isDdr lo) a lo n))

/-- Writes of `IGF.WINn_CFG` and `IGF.WINn_BASE`. -/
def Dev.winCfgWrite (d : Dev) (p : Party) (i : Nat) (v : Word) : Dev :=
  d.regWrite p .igfWinCfg i v (verdict (!d.winOk (i / 64) (d.fget F.igfWinBaseBase i) v.toNat) false) id
def Dev.winBaseWrite (d : Dev) (p : Party) (i : Nat) (v : Word) : Dev :=
  d.regWrite p .igfWinBase i v (verdict (!d.winOk (i / 64) (bits v.toNat 47 16) (d.reg .igfWinCfg i).toNat) false) id

/-- A write of `IGF.PORTp_CFG`: a VLAN needs a VID of 1 to 4,094. -/
def Dev.portCfgWrite (d : Dev) (p : Party) (i : Nat) (v : Word) : Dev :=
  d.regWrite p .igfPortCfg i v
    (verdict (bit v.toNat 1 && (bits v.toNat 13 2 == 0 || bits v.toNat 13 2 == 4095)) false) id

/-! ### Lanes (R354 to R356) -/

/-- A port's lanes. -/
def Dev.fabPort (d : Dev) (p : Nat) : FabPort := mapGet {} d.fab.ports p

/-- Set them. -/
def Dev.setFabPort (d : Dev) (p : Nat) (x : FabPort) : Dev := d.modFab (fun z => { z with ports := mapSet {} z.ports p x })

/-- Does a lane of 0 to 7 work, itself or through lane 8? -/
def FabPort.works (x : FabPort) (l : Nat) : Bool := !x.failed.contains l || x.spareFor == some l

/-- The lane map of the lanes given, with lane 8 in the place of the one it replaces. -/
def FabPort.laneMap (x : FabPort) (ls : List Nat) : Nat :=
  (ls.map (fun l => if x.spareFor = some l then 2 ^ 8 else 2 ^ l)).sum

/-- Set the state of a port: link, half, lanes in use. -/
def Dev.setPort (d : Dev) (p link half : Nat) (ls : List Nat) : Dev :=
  let x := d.fabPort p
  let m := x.laneMap ls
  (((d.fset F.igfPortStatusLink p link).fset F.igfPortStatusHalf p half).fset F.igfPortStatusLanes p m).fset
    F.igfPortStatusSpareUsed p (b2n (bit m 8))

/-- The half a port restarts on: the one with lane 0 first. -/
def FabPort.half (x : FabPort) : Option (List Nat) :=
  if [0, 1, 2, 3].all x.works then some [0, 1, 2, 3] else if [4, 5, 6, 7].all x.works then some [4, 5, 6, 7] else none

/-- A port restarts on a half, or goes DOWN. -/
def Dev.restartPort (bt : Nat) (d : Dev) (p : Nat) : Dev :=
  match (d.fabPort p).half with
  | some ls => d.setPort p 2 1 ls
  | none => (d.setPort p 0 0 []).tlog bt 10 30 (some (d.partOfDie p)) p

/-- IGSUREN_LANE_FAIL. -/
def Dev.laneFail (bt : Nat) (d : Dev) (p l lost : Nat) : Dev :=
  let d := if p < 8 then d.fbump F.igfPortStatFcsErr p lost else d
  let x := d.fabPort p
  if 8 ≤ p ∨ x.failed.contains l then d
  else
    let used := l < 8 ∧ bit (d.fget F.igfPortStatusLanes p) l ∨ l = 8 ∧ x.spareFor ≠ none
    let x' : FabPort := { x with
      failed := x.failed ++ [l], spareFor := if l = 8 then none else x.spareFor }
    if ¬used ∨ d.fget F.igfPortStatusLink p ≠ 2 then d.setFabPort p x'
    else if d.fon F.igfPortCfgSpareEn p ∧ l < 8 ∧ x.spareFor = none ∧ ¬x.failed.contains 8 then
      let half := d.fon F.igfPortStatusHalf p
      let d := d.setFabPort p { x' with spareFor := some l }
      let d := if half then d.setPort p 2 1 (if l < 4 then [0, 1, 2, 3] else [4, 5, 6, 7]) else d.setPort p 2 0 (List.range 8)
      (d.fbump F.igfPortStatSwaps p 1).histAdd bt 1 3 9 (16 * p + l)
    else (d.setFabPort p x').restartPort bt p

/-- What waits for the peers of a partition is sent as far as it has room. -/
def Dev.drainAll (bt : Nat) (d : Dev) (a : Nat) : Dev :=
  d.fab.peers.foldl (fun d q => if q.1 / 4096 = a then Dev.drain bt a (q.1 % 4096) q.2.waiting.length d else d) d

/-- FABRIC_LINK_RETRY: a DOWN port comes up in the widest form that its working lanes allow, and takes what waits for a port. -/
def Dev.linkRetry (bt : Nat) (d : Dev) (p working : Nat) : Dev :=
  if d.fget F.igfPortStatusLink p ≠ 0 then d
  else
    let bad := (List.range 9).filter (fun l => !bit working l)
    let spare := if d.fon F.igfPortCfgSpareEn p ∧ bit working 8 then (bad.filter (fun l => decide (l < 8))).head? else none
    let d := d.setFabPort p { failed := bad, spareFor := spare }
    let x := d.fabPort p
    if (List.range 8).all x.works then (d.setPort p 2 0 (List.range 8)).drainAll bt (d.partOfDie p)
    else match x.half with
      | some _ => (d.restartPort bt p).drainAll bt (d.partOfDie p)
      | none => d

/-- LANEMAP: the partner's map of active lanes is taken over (DEDUCED, log entry 28). -/
def Dev.laneMapFrame (d : Dev) (k : Packet) : Dev :=
  if 8 ≤ k.port ∨ ¬d.portUp k.port ∨ ¬d.fon F.igfPortCfgSpareEn k.port then d
  else
    let m := listNat k.payload 0 2 % 512
    (d.fset F.igfPortStatusLanes k.port m).fset F.igfPortStatusSpareUsed k.port (b2n (bit m 8))

/-! ### Epochs of the own node (R366) -/

/-- A reset of the partition: the epoch rises, the streams restart, the windows are cleared. -/
def Dev.fabReset (d : Dev) (a : Nat) : Dev :=
  let d := d.fset F.igfNodeEpoch a ((d.epoch a + 1) % 2 ^ 32)
  let d := d.modFab (fun z => { z with peers := mapAll z.peers (fun k p => if k / 4096 = a then p.restart else p) })
  (List.range 64).foldl (fun d i => (d.setReg .igfWinBase (64 * a + i) 0#64).setReg .igfWinCfg (64 * a + i) 0#64) d

/-- The reset has finished: EPOCH on every UP port of every route, to every VALID node. -/
def Dev.announceEpoch (d : Dev) (a : Nat) : Dev :=
  (d.fab.peers.filter (fun p => p.1 / 4096 == a && bit p.2.word0 0)).foldl
    (fun d p => ((List.range 8).filter (fun q => (d.roundOf a p.2.route).contains q)).foldl
      (fun d q => d.emitPkt a opEpoch q (bareHdr (p.1 % 4096) [])) d) d

/-! ### Meanings -/

def execPutPacket (k : Packet) : State → Host.Outcome State Fault Refusal := onDev (fun bt d => d.putPacket bt k)
def execRedPacket (k : Packet) : State → Host.Outcome State Fault Refusal := onDev (fun bt d => d.redPacket bt k)
def execGetReq (k : Packet) : State → Host.Outcome State Fault Refusal := onDev (fun bt d => d.getReq bt k)
def execGetResp (k : Packet) : State → Host.Outcome State Fault Refusal := onDev (fun bt d => d.getResp bt k)
def execAckPacket (k : Packet) : State → Host.Outcome State Fault Refusal := onDev (fun bt d => d.ackPacket bt k)
def execNackPacket (k : Packet) : State → Host.Outcome State Fault Refusal := onDev (fun bt d => d.nackPacket bt k)
def execEpochPacket (k : Packet) : State → Host.Outcome State Fault Refusal := onDev (fun _ d => d.epochPacket k)
def execLaneMap (k : Packet) : State → Host.Outcome State Fault Refusal := onDev (fun _ d => d.laneMapFrame k)
def execAckTimer (a node : Nat) : State → Host.Outcome State Fault Refusal := onDev (fun bt d => d.ackTimer bt a node)
def execRetransmitTimeout (a node psn : Nat) : State → Host.Outcome State Fault Refusal :=
  onDev (fun bt d => d.retransmit bt a node psn)
def execGiveUp (a node : Nat) : State → Host.Outcome State Fault Refusal := onDev (fun bt d => d.giveUp bt a node)
def execDtWrite (p : Party) (a : Nat) (v : Word) : State → Host.Outcome State Fault Refusal := onDev (fun _ d => d.dtWrite p a v)
def execIgsurenLaneFail (port lane lost : Nat) : State → Host.Outcome State Fault Refusal :=
  onDev (fun bt d => d.laneFail bt port lane lost)
def execFabricLinkRetry (port working : Nat) : State → Host.Outcome State Fault Refusal :=
  onDev (fun bt d => d.linkRetry bt port working)

end Sys2Proof.Machine
end

