-- ==== Sys2Proof/Machine/Hbm.lean ====
section
/-! DEFINITION. The HBM4 memory system (R288 to R303): patrol scrub, repairs and retirement, the command slot, Tour jobs, test
mode, and the interleave. -/

namespace Sys2Proof.Machine

/-- Does a partition hold an admitted context? -/
def Dev.admitted (d : Dev) (a : Nat) : Bool := d.ctxs.any (fun c => c.2.live && d.partOfCtx c.1 == a)

/-- Does a DPA[47:0] lie in a partition's span of the HBM range, backed or not? -/
def Dev.hbmAddr (d : Dev) (a x : Nat) : Bool :=
  if x < 0x80000000000 then d.partOfDie (x / 2 ^ 38) == a
  else decide (x < 0x100000000000) && d.partOfDie ((x - 0x80000000000) / 2 ^ 38) == a

/-- The bytes that a test accepts become undefined: each listed one is a free value (log entry 30). -/
def Dev.scramble (d : Dev) (f : Nat → Bool) : Dev :=
  let k := d.free
  let fill := fun (c : Host.Cell) => (c.1, if f c.1 then Config.freeByte (k + c.1) else c.2)
  (d.setMem ((d.mem.map fill).filter (fun c => c.2 != memDefault))).setFree (k + 2 ^ 48)

/-- A wipe of the HBM of dies: zeros, no poison, and every MARKED or FAILED channel RETIRED (R295, R296). -/
def Dev.wipeHbm (d : Dev) (a : Nat) : Dev :=
  let hit := fun (x : Nat) => d.hbmAddr a x
  let d := (d.setMem (d.mem.filter (fun c => !hit c.1))).setPoison (d.poison.filter (fun g => !hit (64 * g)))
  let d := d.modCoh (fun z => { z with dir := mapKeep z.dir (fun k _ => !hit (64 * k)) })
  let bad := ((List.range (128 * d.dies a)).map (fun i => 128 * a + i)).filter (fun c => d.chanState c == 1 || d.chanState c == 3)
  bad.foldl (fun d c => d.fset F.hbmcChStatusState c 2) d

/-! ### Patrol scrub (R293) -/

/-- Rows of 1 KiB of a channel. -/
def Dev.chanRows (d : Dev) : Nat := d.chanCap / 1024

/-- Is a granule in the rows that a scrub step of a channel checks? -/
def Dev.inScrub (d : Dev) (c x : Nat) : Bool :=
  match d.hbmPlace x with
  | some (c', l) =>
    let ptr := d.fget F.hbmcChScrubPtr c
    c' == c && decide ((l / 1024 + d.chanRows - ptr) % d.chanRows < d.fget F.hbmcScrubCfgRows 0)
  | none => false

/-- One channel's scrub step: the pointer moves on, what the rows showed is counted, and uncorrectable granules take their
poison mark. -/
def Dev.scrubStep (bt : Nat) (d : Dev) (c corrected onDie : Nat) (bad : List Nat) : Dev :=
  let bad := bad.filter (d.inScrub c)
  let ptr := d.fget F.hbmcChScrubPtr c + d.fget F.hbmcScrubCfgRows 0
  let d := d.fset F.hbmcChScrubPtr c (ptr % d.chanRows)
  let d := if d.chanRows ≤ ptr then d.fbump F.hbmcChScrubPasses c 1 else d
  let d := (d.fbump F.hbmcChEccCorrected c corrected).fbump F.hbmcChEccOnDie c onDie
  let d := (List.range corrected).foldl (fun d _ => d.corrected bt 10 c) d
  bad.foldl (fun d x =>
    ((d.fbump F.hbmcChEccUncorr c 1).histAdd bt 1 8 7 c).notePoison (x / 64)) d

/-- One channel's scrub step with what a walk found on it. -/
def Dev.scrubChan (bt : Nat) (found : List (Nat × Nat × Nat × List Nat)) (d : Dev) (c : Nat) : Dev :=
  match found.find? (fun f => f.1 == c) with
  | some (_, k, o, bad) => d.scrubStep bt c k o bad
  | none => d.scrubStep bt c 0 0 []

/-- SCRUB_WALK: every channel whose slot scrub owns checks its rows; `found` is what they show. -/
def Dev.scrubWalk (bt : Nat) (d : Dev) (found : List (Nat × Nat × Nat × List Nat)) : Dev :=
  match (d.slotDue bt 8 4).bind (fun n => d.fireSlot bt 8 n 4) with
  | some d =>
    ((List.range 1024).filter (fun c => d.fget F.hbmcChSlotOwner c == 1)).foldl
      (Dev.scrubChan bt found) d
  | none => d

/-! ### Repairs and retirement (R294 to R296) -/

/-- A channel is MARKED for retirement; a map-out record carries the mark to the next cold start (R295, R442; DEDUCED, log entry
37). -/
def Dev.markChan (bt : Nat) (d : Dev) (c : Nat) : Dev :=
  if d.chanState c = 0 then
    ((d.fset F.hbmcChStatusState c 1).histAdd bt 3 10 0 c).tlog bt 6 60 (some (d.partOfDie (c / 128))) c
  else d

/-- A repair is written to the Trouble Log and to the unit history, with the VALUE of its Part Record entry (R294, R442), which
the chapter leaves to the stack's vendor: a free value. -/
def Dev.repaired (bt : Nat) (d : Dev) (kind c : Nat) : Dev :=
  ((d.tlog bt 6 61 (some (d.partOfDie (c / 128))) c).histAdd bt 2 kind 0 c false (Config.freeNat d.free % 2 ^ 32)).took 1

/-- HBM_LANE_REPAIR: the 16 CRC retries on the lane that trigger it are counted with it (R292, R294). -/
def Dev.laneRepair (bt : Nat) (d : Dev) (c : Nat) (left : Bool) : Dev :=
  if 1024 ≤ c ∨ d.chanState c = 2 then d
  else
    let d := (d.fbump F.hbmcChEccCrcRetry c 16).histAdd bt 1 7 9 c
    if left then (d.fbump F.hbmcChStatusLanesUsed c 1).repaired bt 7 c else d.markChan bt c

/-- HBM_ROW_REPAIR. -/
def Dev.rowRepair (bt : Nat) (d : Dev) (c : Nat) (left : Bool) : Dev :=
  if 1024 ≤ c ∨ d.chanState c = 2 then d
  else if left then (d.fbump F.hbmcChStatusRowsRepaired c 1).repaired bt 8 c
  else d.markChan bt c

/-- HBM_CHANNEL_FAIL. -/
def Dev.chanFail (bt : Nat) (d : Dev) (c : Nat) : Dev :=
  if 1024 ≤ c ∨ d.chanState c = 2 then d
  else (d.fset F.hbmcChStatusState c 3).tlog bt 6 62 (some (d.partOfDie (c / 128))) c

/-! ### The command slot (R297) -/

/-- A write of `HBMC.CHn_SLOT`. -/
def Dev.chSlotWrite (d : Dev) (p : Party) (c : Nat) (v : Word) : Dev :=
  let old := d.fget F.hbmcChSlotOwner c
  let new := d.fwould p v F.hbmcChSlotOwner c
  d.regWrite p .hbmcChSlot c v
    (verdict false ((old != 0 && new != 0 && new != old) || (new == 3 && d.admitted (d.partOfDie (c / 128))))) id

/-! ### Tour (R299 to R301) -/

/-- The channels that a range touches: those of its region, for a range that reaches all of them, else those of its units. -/
def Dev.rangeChans (d : Dev) (x n : Nat) : List Nat :=
  match d.regionOf x with
  | some r =>
    if 512 * r.chans.length * 2 ≤ n then r.chans
    else (List.range (n / 512)).filterMap (fun i => (d.hbmPlace (x + 512 * i)).map (fun p => p.1))
  | none => []

/-- A write of `HBMC.TOURp_CMD`; GO starts the job on the range as the registers give it. -/
def Dev.tourCmdWrite (d : Dev) (p : Party) (a : Nat) (v : Word) : Dev :=
  let go := bit v.toNat 2
  let op := bits v.toNat 1 0
  let base := d.fget F.hbmcTourBaseAddr a * 512
  let len := d.fget F.hbmcTourLenUnits a * 512
  d.regWrite p .hbmcTourCmd a v
    (verdict (go && (op == 0 || mapHas d.tours a || len == 0 || !d.inHbm a base len))
      (go && (d.rangeChans base len).any (fun c => d.fget F.hbmcChSlotOwner c != 2)))
    (fun d =>
      if go then
        let d := (d.fset F.hbmcTourStatusState a 1).fset F.hbmcTourStatusDoneUnits a 0
        d.setTours (mapPut d.tours a { op, base, len, pat := (d.reg .hbmcTourPat a).toNat })
      else d)

/-- The digest of a range (R300): the sum over units `k` of the CRC-64 of `k` and the unit's bytes. -/
def rangeDigest (m : Memory) (x : Nat) : Nat → Word
  | 0 => 0#64
  | n + 1 => rangeDigest m x n + crc64 (leBytes 8 n ++ memReadBytes m (x + 512 * n) 512)

/-- Fill a range with an 8-byte pattern: its lines are dropped everywhere, and every poison mark goes (R300). -/
def Dev.tourFill (d : Dev) (x n pat : Nat) : Dev :=
  let d := (d.homeOp x n).memClear x n
  let d := d.modCoh (fun z => { z with dir := mapKeep z.dir (fun k _ => !(decide (x ≤ 64 * k) && decide (64 * k < x + n))) })
  if pat = 0 then d
  else d.setMem (memWriteBytes d.mem x ((List.range (n / 8)).flatMap (fun _ => leBytes 8 pat)))

/-- TOUR_DONE: every channel has finished its units. -/
def Dev.tourDone (d : Dev) (a : Nat) : Dev :=
  match mapFind? d.tours a with
  | some j =>
    let d := ((d.setTours (mapErase d.tours a))).fset F.hbmcTourStatusDoneUnits a (j.len / 512)
    if j.op = 3 then
      let bad := d.poisoned j.base j.len
      (d.setReg .hbmcTourResult a (rangeDigest d.mem j.base (j.len / 512))).fset F.hbmcTourStatusState a (if bad then 3 else 2)
    else (d.tourFill j.base j.len (if j.op = 1 then 0 else j.pat)).fset F.hbmcTourStatusState a 2
  | none => d

/-! ### Test mode (R302) -/

/-- Does a DPA[47:0] lie in a channel? -/
def Dev.inChan (d : Dev) (c x : Nat) : Bool := (d.hbmPlace x).map (fun p => p.1) == some c

/-- A write of `HBMC.CHn_TEST_CFG`: START destroys the channel's contents; STOP ends the walk with what it has counted so far,
which the model does not follow line by line (free values). -/
def Dev.testCfgWrite (d : Dev) (p : Party) (c : Nat) (v : Word) : Dev :=
  let w := v.toNat
  d.regWrite p .hbmcChTestCfg c v (verdict (bit w 5 && d.fget F.hbmcChSlotOwner c != 3) false) (fun d =>
    let d := if bit w 5 then
        (d.setReg .hbmcChTestStat c (BitVec.ofNat 64 (2 ^ 33))).scramble (d.inChan c)
      else d
    if bit w 6 ∧ d.fon F.hbmcChTestStatRunning c then
      let k := d.free
      ((((d.fset F.hbmcChTestStatRunning c 0).fset F.hbmcChTestStatDone c 1).fset F.hbmcChTestStatErrors c (Config.freeNat k)).fset
        F.hbmcChTestStatFirstFail c (Config.freeNat (k + 1))).took 2
    else d)

/-- TEST_DONE: the walk has ended. -/
def Dev.testDone (d : Dev) (c errors first : Nat) : Dev :=
  if d.fon F.hbmcChTestStatRunning c then
    let d := (d.fset F.hbmcChTestStatRunning c 0).fset F.hbmcChTestStatDone c 1
    let d := d.fset F.hbmcChTestStatErrors c (min (2 ^ 32 - 1) errors)
    if errors = 0 then d else d.fset F.hbmcChTestStatFirstFail c first
  else d

/-! ### The interleave (R291) -/

/-- A write of `HBMC.IL_CFG`: every HBM byte of the partition becomes undefined. -/
def Dev.ilCfgWrite (d : Dev) (p : Party) (a : Nat) (v : Word) : Dev :=
  let wide := d.fwould p v F.hbmcIlCfgWideMib a * 2 ^ 20
  d.regWrite p .hbmcIlCfg a v
    (verdict (decide (d.chanCap < wide + 16 * 2 ^ 20) || (decide (d.dies a = 1) && wide != 0)) (d.admitted a))
    (fun d => d.scramble (d.hbmAddr a))

/-! ### Meanings -/

def execScrubWalk (found : List (Nat × Nat × Nat × List Nat)) : State → Host.Outcome State Fault Refusal :=
  onDev (fun bt d => d.scrubWalk bt found)
def execHbmLaneRepair (ch : Nat) (spareLeft : Bool) : State → Host.Outcome State Fault Refusal :=
  onDev (fun bt d => d.laneRepair bt ch spareLeft)
def execHbmRowRepair (ch : Nat) (spareLeft : Bool) : State → Host.Outcome State Fault Refusal :=
  onDev (fun bt d => d.rowRepair bt ch spareLeft)
def execHbmChannelFail (ch : Nat) : State → Host.Outcome State Fault Refusal := onDev (fun bt d => d.chanFail bt ch)
def execTourFillZero (p : Party) (a : Nat) (v : Word) : State → Host.Outcome State Fault Refusal :=
  onDev (fun _ d => d.tourCmdWrite p a v)
def execTourFillPattern (p : Party) (a : Nat) (v : Word) : State → Host.Outcome State Fault Refusal :=
  onDev (fun _ d => d.tourCmdWrite p a v)
def execTourDigest (p : Party) (a : Nat) (v : Word) : State → Host.Outcome State Fault Refusal :=
  onDev (fun _ d => d.tourCmdWrite p a v)
def execTourDone (a : Nat) : State → Host.Outcome State Fault Refusal := onDev (fun _ d => d.tourDone a)
def execTestStart (p : Party) (ch : Nat) (v : Word) : State → Host.Outcome State Fault Refusal :=
  onDev (fun _ d => d.testCfgWrite p ch v)
def execTestStop (p : Party) (ch : Nat) (v : Word) : State → Host.Outcome State Fault Refusal :=
  onDev (fun _ d => d.testCfgWrite p ch v)
def execTestDone (ch errors firstFail : Nat) : State → Host.Outcome State Fault Refusal :=
  onDev (fun _ d => d.testDone ch errors firstFail)
def execChSlotWrite (p : Party) (ch : Nat) (v : Word) : State → Host.Outcome State Fault Refusal :=
  onDev (fun _ d => d.chSlotWrite p ch v)
def execIlCfgWrite (p : Party) (a : Nat) (v : Word) : State → Host.Outcome State Fault Refusal :=
  onDev (fun _ d => d.ilCfgWrite p a v)

end Sys2Proof.Machine
end

