-- ==== Sys2Proof/Machine/Cores.lean ====
section
/-! DEFINITION. The resident cores (chapters 09 and 10): castling (R227, R228), the core monitor's calls (R234), the store buffer
and timeouts of register accesses (R254 to R258), and failing cores (R412). Of the cores' own instructions the table's commands are the
accesses that miss or fence; the others are no command (log entry 114). -/

namespace Sys2Proof.Machine

/-! ### Castling (R25, R227, R228) -/

/-- The spare a castling takes: the lowest-numbered free one, in any cluster; its cluster is powered (R451). The
Safe configuration uses none (R391). -/
def Dev.spareCore (d : Dev) (k : Nat) : Option Nat :=
  if d.safe then none else (List.range 104).find? (fun j => j != k && (d.core j).st = .spareFree)

/-- Move a core's logical number to a spare. The core is MAPPED_OUT when its fault is permanent (R446, R447) or no spare is
free (R25), else it becomes a free spare. -/
def Dev.moveCore (bt : Nat) (d : Dev) (k h : Nat) : Option Nat × Dev :=
  let perm := d.permanent bt 2 k
  let a := some (d.partOfHart h)
  let data := [0, 0, bt, 10]
  match d.spareCore k with
  | some j =>
    let d := if perm then
        ((d.histAdd bt 3 2 10 k false j).resLog bt 0x46 2 a 0xFFFF data).resLog bt 0x47 2 a 0xFFFF data
      else d
    let d := (d.resLog bt 0x30 1 a 0xFFFF [0, 0, bt, 0])
    let d := d.modPow (fun z => { z with off := listDel z.off (coreDomain j) })
    let st := (d.core k).st
    let d := d.setCore k { st := if perm then .mappedOut else .spareFree, logical := none }
    (some j, d.setCore j { st, logical := some h })
  | none =>
    let d := (d.histAdd bt 3 2 10 k false 0xFFFFFFFF).resLog bt 0x31 2 a 0xFFFF data
    (none, d.setCore k { st := .mappedOut, logical := none })

/-- The castling of a core that can still enter M-mode (R227): its buffer drains, its lines are written back and its state goes with its
number; a reservation is not part of it. -/
def Dev.castleCore (bt : Nat) (d : Dev) (k : Nat) : Dev :=
  match (d.core k).logical with
  | some h =>
    let d := ((d.drainStores h).flushAgent bt h).modHart h (fun x => { x with lr := none })
    match d.moveCore bt k h with
    | (some _, d) => d
    | (none, d) => d.setHart h {}
  | none => d

/-- A core is failing (R412): it is castled, or it waits for HART_LOST when it cannot enter M-mode. -/
def Dev.coreFailing (bt : Nat) (d : Dev) (k : Nat) (entersM : Bool) : Dev :=
  match (d.core k).logical with
  | some h =>
    if (d.core k).st = .running then
      let d := (d.resLog bt 0x05 2 (some (d.partOfHart h)) 0xFFFF [0, 0, bt, 0]).histAdd bt 1 2 10 k
      if entersM then d.castleCore bt k else d.modCpx (fun z => { z with failing := listAdd z.failing k })
    else d
  | none => d

/-- The boot hart of a partition: its lowest logical core in service (R233). -/
def Dev.bootHart (d : Dev) (a : Nat) : Option Nat :=
  (List.range 96).find? (fun h => d.partOfHart h == a && (d.coreOf h).isSome)

/-- HART_LOST (R228, R257): buffered stores are discarded; the spare starts at the registered entry, or stays stopped. -/
def Dev.hartLost (bt : Nat) (d : Dev) (k : Nat) : Dev :=
  match (d.core k).logical with
  | some h =>
    if d.cpx.failing.contains k then
      let a := d.partOfHart h
      let boot := d.bootHart a
      let d := d.modCpx (fun z => { z with failing := listDel z.failing k })
      let d := (d.setHart h {}).setCore k { d.core k with st := .stopped }
      let d := (d.tlog bt 1 40 (some a) h)
      let d := match d.moveCore bt k h with
        | (some _, d) => match mapFind? d.cpx.lostEntry a with
          | some e => d.startHart h (BitVec.ofNat 64 e) (BitVec.ofNat 64 h) 0#64
          | none => d
        | (none, d) => d
      let to_ := if boot = some h then (List.range 96).find? (fun j => d.partOfHart j == a && j != h && d.runs j) else boot
      match to_ with
      | some t => d.sendMsi a t 0 (Config.hartLostIdentity.val + 1)
      | none => d
    else d
  | none => d

/-! ### Monitor calls (R234) -/

/-- Result codes. -/
def sbiSuccess : Word := 0#64
def sbiInvalid : Word := -1#64
def sbiConflict : Word := -2#64
def sbiNotSupported : Word := -3#64

/-- The result of a monitor call goes to `a0`, and the hart goes on behind its ECALL. -/
def Dev.callResult (d : Dev) (h : Nat) (v : Word) : Dev :=
  (d.modHart h (fun x => { x with x := mapSet 0#64 x.x 10 v, pc := x.pc + 4#64 })).emit (.sbi h 0 v.toNat)

/-- A monitor call by a hart in HS-mode: its result goes to `a0`, and the hart goes on behind its ECALL. -/
def Dev.monitorCall (d : Dev) (h : Nat) (f : Dev → Word × Dev) : Dev :=
  if d.runs h ∧ (d.hart h).mode = 1 then
    let (v, d) := f d
    d.callResult h v
  else d

/-- VERSION, and every function number that R234 does not define: those return NOT_SUPPORTED. The other functions have commands of
their own. -/
def Dev.versionCall (d : Dev) (h fn : Nat) : Dev :=
  if 2 ≤ fn ∧ fn ≤ 6 then d
  else d.monitorCall h (fun d => (if fn = 1 then BitVec.ofNat 64 (mapGet 0 d.cpx.fwiVer (d.partOfHart h)) else sbiNotSupported, d))

/-- HART_START: in a gated cluster the start waits for its domain (R451). -/
def Dev.hartStartCall (d : Dev) (h t : Nat) (entry opq : Word) : Dev :=
  d.monitorCall h (fun d =>
    match (if t < 96 ∧ d.partOfHart t = d.partOfHart h then d.coreOf t else none) with
    | none => (sbiInvalid, d)
    | some k =>
      if (d.core k).st ≠ .stopped then (Config.hartStartRunning, d)
      else if d.domOn (coreDomain k) then (sbiSuccess, d.startHart t entry (BitVec.ofNat 64 t) opq)
      else
        let d := d.modPow (fun z => { z with rising := listAdd z.rising (coreDomain k) })
        (sbiSuccess, (d.modCpx (fun z => { z with starting := z.starting ++ [(t, entry, opq)] }))))

/-- HART_STOP, called by a running hart. -/
def Dev.hartStopCall (d : Dev) (h : Nat) : Dev := if d.runs h ∧ (d.hart h).mode = 1 then d.stopHart h else d

/-- Is a partition parked (R452)? -/
def Dev.parked (d : Dev) (a : Nat) : Bool := bit (d.fget F.pwrParkReq 0) (partNum d.layout a)

/-- May a cluster be gated (R20, R258)? Each active core in it is stopped or its partition parked, and its buffer is empty. -/
def Dev.clusterIdle (d : Dev) (j : Nat) : Bool :=
  (List.range 8).all (fun i => match (d.core (8 * j + i)).logical with
    | some h => (d.hart h).stores.isEmpty && ((d.core (8 * j + i)).st ≠ .running || d.parked (d.partOfHart h))
    | none => true)

/-- CLUSTER_IDLE: gate the cluster, or CONFLICT, which the power block records. -/
def Dev.clusterIdleCall (d : Dev) (h j : Nat) : Dev :=
  d.monitorCall h (fun d =>
    if 13 ≤ j then (sbiInvalid, d)
    else if d.clusterIdle j then
      (sbiSuccess, (d.modPow (fun z => { z with off := listAdd z.off (96 + j), rising := listDel z.rising (96 + j) })))
    else (sbiConflict, d.refuse .pwrPark 0 true))

/-! ### The store buffer and register accesses (R254 to R256) -/

/-- A core's cache error (R226): corrected, refetched, or the line's granule poisoned and written back. -/
def Dev.coreError (bt : Nat) (d : Dev) (h : Nat) (x : Nat) (e : CoreErr) : Dev :=
  match d.coreOf h with
  | some k =>
    let d := d.tlog bt 1 42 (some (d.partOfHart h)) h x
    let line := x / 64
    let drop := fun (d : Dev) => d.modCoh (fun z => { z with dir := mapAll z.dir (fun n y =>
      if n = line then { y with
        owner := if y.owner = some h then none else y.owner
        mod := y.mod && decide (y.owner ≠ some h)
        fwd := if y.fwd = some h then none else y.fwd
        shar := listDel y.shar h } else y) })
    let d := match e with
      | .corrected => (d.fbump F.hubCoreStatCorrected k 1).corrected bt 2 k
      | .clean => (drop d).histAdd bt 1 2 7 k
      | .dirty => ((drop (d.fbump F.hubCoreStatPoisoned k 1)).notePoison line).histAdd bt 1 2 7 k
    if d.permanent bt 2 k then d.castleCore bt k else d
  | none => d

/-- REGISTER_ACCESS_TIMEOUT (R256): a store not acknowledged within 100 µs is dropped, its fault comes at the next fence or register
access; a load that its block has not answered for 100 µs takes its fault at once, and its destination is unchanged. -/
def Dev.accessTimeout (bt : Nat) (d : Dev) (h addr : Nat) (load : Bool) : Dev :=
  if d.runs h then
    let log := fun (d : Dev) => d.tlogX bt 1 (Config.logCode 41).toNat (Config.logSev 41).val (some (d.partOfHart h)) h 0 addr 0 [b2n load]
    if load then
      if (d.hart h).regLoad.any (fun s => s.1 == addr && decide (s.2 + 100000 ≤ bt)) then (log d).coreTrap h 5 addr else d
    else
      match (d.hart h).regStores.find? (fun s => s.addr == addr && decide (s.bt + 100000 ≤ bt)) with
      | some s => (log d).modHart h (fun x => { x with regStores := x.regStores.erase s, timedOut := x.timedOut ++ [addr] })
      | none => d
  else d

/-! ### Meanings -/

def execHartLost (core : Nat) : State → Host.Outcome State Fault Refusal := onDev (fun bt d => d.hartLost bt core)
def execFwiVersion (call : VersionCall) : State → Host.Outcome State Fault Refusal :=
  onDev (fun _ d => d.versionCall call.hart call.fn)
def execHartStart (hart target : Nat) (entry opaqueArg : Word) : State → Host.Outcome State Fault Refusal :=
  onDev (fun _ d => d.hartStartCall hart target entry opaqueArg)
def execHartStop (hart : Nat) : State → Host.Outcome State Fault Refusal := onDev (fun _ d => d.hartStopCall hart)
def execHartLostEntry (hart : Nat) (entry : Word) : State → Host.Outcome State Fault Refusal :=
  onDev (fun _ d => d.monitorCall hart (fun d =>
    (sbiSuccess, (d.modCpx (fun z => { z with lostEntry := mapPut z.lostEntry (d.partOfHart hart) entry.toNat })))))
def execLogNotify (hart target eiid : Nat) : State → Host.Outcome State Fault Refusal :=
  onDev (fun _ d => d.monitorCall hart (fun d =>
    if target < 96 ∧ d.partOfHart target = d.partOfHart hart ∧ 0 < eiid ∧ eiid < 512 then
      (sbiSuccess, (d.modCpx (fun z => { z with logNotify := mapPut z.logNotify (d.partOfHart hart) (target, eiid) })))
    else (sbiInvalid, d)))
def execClusterIdle (hart cluster : Nat) : State → Host.Outcome State Fault Refusal :=
  onDev (fun _ d => d.clusterIdleCall hart cluster)
def execRegisterAccessTimeout (hart addr : Nat) (load : Bool) : State → Host.Outcome State Fault Refusal :=
  onDev (fun bt d => d.accessTimeout bt hart addr load)
def execCoreRetireWatchdog (core : Nat) (entersM : Bool) : State → Host.Outcome State Fault Refusal :=
  onDev (fun bt d => d.coreFailing bt core entersM)
def execArchitecturalRegisterError (core : Nat) (entersM : Bool) : State → Host.Outcome State Fault Refusal :=
  onDev (fun bt d => d.coreFailing bt core entersM)

end Sys2Proof.Machine
end

