-- ==== Sys2Proof/Machine/Os.lean ====
section
/-! DEFINITION. Resident operating systems (R232, R233, R404): the hand-off table, the boot information block, the start of a
partition's harts, and the check of an image that a reset has kept. -/

namespace Sys2Proof.Machine

/-- The 48 bytes of a digest, in the order in which SHA-384 gives them. -/
def digestBytes (x : BitVec 384) : List Byte := (leBytes 48 x.toNat).reverse

/-- The signed part of a hand-off table (R232). -/
def handoffBytes (h : Handoff) : List Byte :=
  leBytes 4 0x43465448 ++ leBytes 2 h.fwiMin ++ leBytes 2 h.fwiMaj ++ leBytes 8 h.imageSize ++ leBytes 8 h.loadOff ++
    leBytes 8 h.entryOff ++ digestBytes h.imageDigest ++ leBytes 1 h.partition ++ leBytes 1 (b2n h.startAll) ++ leBytes 46 0

/-- The header of the running firmware image. -/
def Dev.firmware? (d : Dev) : Option ImageHdr := mapFind? d.sec.banks (d.fget F.secFwStateActive 0)

/-- The firmware interface version that a table and the running image agree on (R232): the table's major, and the highest minor
of the image, which must not lie below the lowest that the table accepts (DEDUCED, log entry 31). -/
def Dev.fwiFor (d : Dev) (h : Handoff) : Option Nat :=
  match d.firmware? with
  | some f => if f.fwiMaj = h.fwiMaj ∧ h.fwiMin ≤ f.fwiMinHi then some (f.fwiMaj * 256 + f.fwiMinHi) else none
  | none => none

/-- DPA[47:0] of a partition's OS image: LOAD_OFF from the start of its first DDR channel pair. -/
def osBase (a : Nat) (h : Handoff) : Nat := ddrBase a + h.loadOff

/-- Is a port a management port (R392)? -/
def Dev.mgmtPort (d : Dev) (q : Nat) : Bool :=
  match d.sec.owner with
  | some o => bit o.mgmtPorts q
  | none => true

/-- Set or clear a partition's OS_WAIT bit on every management port bound to it (R404). -/
def Dev.setOsWait (d : Dev) (a : Nat) (on : Bool) : Dev :=
  let p := partNum d.layout a
  ((List.range 4).filter (fun q => d.mgmtPort q && d.boundTo q a)).foldl
    (fun d q =>
      let w := d.fget F.secBootStatusOsWait q
      d.fset F.secBootStatusOsWait q (if on then w ||| 2 ^ p else w &&& (255 - 2 ^ p))) d

/-- Why a partition has no resident OS is shown to every host bound to it (R232): the ERR of its port. -/
def Dev.noOs (d : Dev) (a err : Nat) : Dev :=
  ((List.range 4).filter (fun q => d.boundTo q a)).foldl (fun d q => d.fset F.secBootStatusErr q err) d

/-- The boot information block (R233) of `n` bytes, with its digest field as given. The image is its first extent; what the other
extents are, how many there are and where the block lies are firmware's choice (log entry 32). -/
def Dev.bootBlock (bt : Nat) (d : Dev) (a : Nat) (h : Handoff) (ver n k : Nat) (digest : List Byte) : List Byte :=
  let p := partNum d.layout a
  let harts := ((List.range 96).filter (fun j => d.partOfHart j == a)).foldl (fun m j => m + 2 ^ j) 0
  let exts := (n - 0x70) / 16
  leBytes 2 ver ++ leBytes 1 p ++ leBytes 1 (d.reg .prtMode 0).toNat ++ leBytes 4 n ++ leBytes 12 harts ++ leBytes 4 exts ++
    leBytes 8 0xF00004800000 ++ leBytes 8 (0xF00000400000 + p * 0x800000) ++ leBytes 8 0x800000 ++ leBytes 8 (d.rbSize a) ++
    leBytes 8 bt ++ digest ++ leBytes 8 (osBase a h) ++ leBytes 6 h.imageSize ++ leBytes 2 3 ++
    (List.range (16 * (exts - 1))).map (fun i =>
      if i % 16 = 14 then Config.freeByte (k + 2 + i) % 4 else if i % 16 = 15 then 0#8 else Config.freeByte (k + 2 + i))

/-- Where the boot information block of `n` bytes lies: a page of the partition's DDR that keeps clear of the OS image, by a free choice. -/
def Dev.blockAt (d : Dev) (a : Nat) (h : Handoff) (n choice : Nat) : Nat :=
  let below := if n ≤ h.loadOff then (h.loadOff - n) / 4096 + 1 else 0
  let above := (h.loadOff + h.imageSize + 4095) / 4096
  let c := choice % (below + ((d.ddrSize a - n) / 4096 + 1 - above))
  ddrBase a + 4096 * (if c < below then c else above + (c - below))

/-- The L1 and L2 of a partition's cores are invalidated (R233): the directory names none of its harts. -/
def Dev.emptyCaches (d : Dev) (a : Nat) : Dev :=
  let mine := fun (g : Nat) => decide (g < 96) && d.partOfHart g == a
  d.modCoh (fun z => { z with dir := mapAll z.dir (fun _ y => { y with
    owner := if y.owner.any mine then none else y.owner
    mod := y.mod && !y.owner.any mine
    fwd := if y.fwd.any mine then none else y.fwd
    shar := y.shar.filter (fun g => !mine g) }) })

/-- Start the harts of a partition at the entry of its OS image, in a block that firmware has written and measured (R233). -/
def Dev.startOs (bt : Nat) (d : Dev) (a ver : Nat) (h : Handoff) : Dev :=
  let k := d.free
  let n := 0x70 + 16 * (1 + Config.freeNat (k + 1) % 256)
  let at_ := d.blockAt a h n (Config.freeNat k)
  let d := (d.took (2 + n)).emptyCaches a
  let digest := sha384 (d.bootBlock bt a h ver n k (leBytes 48 0))
  let d := d.memPut at_ (d.bootBlock bt a h ver n k (digestBytes digest))
  let d := (d.modSec (fun z => { z with osTables := mapPut z.osTables a h, osRuns := listAdd z.osRuns a,
                                        blocks := mapPut z.blocks a digest })).modCpx (fun z => { z with fwiVer := mapSet 0 z.fwiVer a ver })
  let harts := (List.range 96).filter (fun j => d.partOfHart j == a && (d.coreOf j).isSome)
  let start := if h.startAll then harts else harts.take 1
  let d := d.modPow (fun z => { z with off := z.off.filter (fun x => !(start.any (fun j => (d.coreOf j).any (fun c => coreDomain c == x)))) })
  start.foldl (fun d j => d.startHart j (BitVec.ofNat 64 (osBase a h + h.entryOff)) (BitVec.ofNat 64 j) (BitVec.ofNat 64 at_)) d

/-- Does the image in a partition's DDR match its table? -/
def Dev.imageOk (d : Dev) (a : Nat) (h : Handoff) : Bool :=
  sha384 (memReadBytes d.mem (osBase a h) h.imageSize) == h.imageDigest && !d.poisoned (osBase a h) h.imageSize

/-- The partition has no OS: its image's bytes are zero, its table is gone and it waits for a load; its hosts see why. -/
def Dev.dropOs (d : Dev) (a err : Nat) : Dev :=
  let d := match mapFind? d.sec.osTables a with
    | some h => d.memClear (osBase a h) h.imageSize
    | none => d
  let d := d.modSec (fun z => { z with osTables := mapErase z.osTables a, osRuns := listDel z.osRuns a, blocks := mapErase z.blocks a })
  (d.setOsWait a true).noOs a err

/-- After a reset: the kept image is checked and its OS started with no load, or its extent is zero-filled (R404). -/
def Dev.restartOs (bt : Nat) (d : Dev) (a : Nat) : Dev :=
  match mapFind? d.sec.osTables a with
  | some h => match d.fwiFor h with
    | some ver => if d.imageOk a h then d.startOs bt a ver h else d.dropOs a 9
    | none => d.dropOs a 10
  | none => d.setOsWait a true

/-- The harts of a partition are reset (R423, R257): nothing buffered is written. -/
def Dev.resetHarts (d : Dev) (a : Nat) : Dev :=
  let d := ((List.range 96).filter (fun h => d.partOfHart h == a)).foldl (fun d h =>
    let d := d.setHart h {}
    match d.coreOf h with
    | some c => if (d.core c).st = .running then d.setCore c { d.core c with st := .stopped } else d
    | none => d) d
  (d.modCpx (fun z => { z with imsic := z.imsic.filter (fun m => d.partOfHart m.1 != a),
                               lostEntry := mapErase z.lostEntry a,
                               logNotify := mapErase z.logNotify a,
                               fwiVer := mapErase z.fwiVer a,
                               starting := z.starting.filter (fun s => d.partOfHart s.1 != a) })).modSec (fun z => { z with osRuns := listDel z.osRuns a })

/-- Does an address lie in the image of a resident OS that is kept? -/
def Dev.inOs (d : Dev) (x : Nat) : Bool :=
  d.sec.osTables.any (fun t => decide (osBase t.1 t.2 ≤ x) && decide (x < osBase t.1 t.2 + t.2.imageSize))

/-- The DDR of the partition at die `a` is zero-filled, except the image of its resident OS (R423). -/
def Dev.fillDdr (d : Dev) (a : Nat) : Dev :=
  let hit := fun (x : Nat) => decide (ddrBase a ≤ x) && decide (x < ddrBase a + 2 ^ 40 * d.dies a) && !d.inOs x
  ((d.setMem (d.mem.filter (fun c => !hit c.1))).setPoison (d.poison.filter (fun g => !hit (64 * g)))).modCoh
    (fun z => { z with dir := mapKeep z.dir (fun k _ => !hit (64 * k)) })

end Sys2Proof.Machine
end

