-- ==== Sys2Proof/Machine/Reset.lean ====
section
/-! DEFINITION. Hangs, resets and replay (chapter 18), the rate limits of R375, and what each reset domain loses (R480). -/

namespace Sys2Proof.Machine

/-! ### Reset domains (R480) -/

/-- A register after a reset: fields that report a unit's state stay, the others return to their reset values when the register's
domain is reset; a chip warm reset clears every statistics counter. -/
def regAfterReset (r : RegName) (mine cnts : Bool) (v : Word) : Word :=
  (regFields r).foldl (fun w f =>
    if (mine && !f.keep) || (cnts && f.cnt) then putBits w f.fld.hi f.fld.lo f.reset else w) v

/-- Reset the registers that a test accepts, and with `cnts` every statistics counter. -/
def Dev.resetRegs (d : Dev) (mine : RegName → Nat → Bool) (cnts : Bool) : Dev :=
  let regOf := fun (k : Nat) => allRegs.find? (fun r => r.code == k / 2 ^ 24)
  { d with
    regs := d.regs.filterMap (fun p => match regOf p.1 with
      | some r =>
        let w := regAfterReset r (mine r (p.1 % 2 ^ 24)) cnts p.2
        if w = regReset r then none else some (p.1, w)
      | none => some p)
    rwo := d.rwo.filter (fun k => match regOf (k / 64) with
      | some r => !mine r (k / 64 % 2 ^ 24)
      | none => true) }

/-- Is a register instance in the PARTITION domain of the partition at die `a`? -/
def inPartition (a : Nat) (r : RegName) (i : Nat) : Bool :=
  match regDomain r with
  | .warmPart => (match r with
    | .seqePoolStat => i / 8 == a
    | .prtPgpoolStat => i / 4 == a
    | .igfWinBase => i / 64 == a
    | .igfWinCfg => i / 64 == a
    | _ => i == a)
  | .warmPair => decide (4096 ≤ i) && (i - 4096) / 256 == a
  | .warmDev => decide (4096 ≤ i) && (i - 4096) / 256 == a
  | .power => false
  | .warm => false

/-! ### Entries and episodes -/

/-- DATA3 of a rung's entry (R430): its deadline in ms and the next rung's code. -/
def rungData (ms next : Nat) : Nat := ms + next * 2 ^ 32

/-- An episode. -/
def Dev.episode? (d : Dev) (a : Nat) : Option Episode := mapFind? d.res.episodes a

/-- Set an episode. -/
def Dev.setEpisode (d : Dev) (a : Nat) (e : Episode) : Dev := d.modRes (fun z => { z with episodes := mapPut z.episodes a e })

/-- Suspects of a partition not yet replayed. -/
def Dev.suspects (d : Dev) (a : Nat) : Nat :=
  match d.episode? a with
  | some e => e.suspects.length + e.joined.length
  | none => 0

/-- Does a reset of the partition or of the whole device run, or is a power cycle asked for? No episode starts then. -/
def Dev.quiet (d : Dev) (a : Nat) : Bool := mapHas d.res.parts a || d.res.warm.isSome || d.res.cycle

/-- Contexts become suspects (R413, R415): RESETTING, behind the present suspects in ascending ID (R429). -/
def Dev.suspend (bt : Nat) (d : Dev) (a : Nat) (cs : List Nat) : Dev :=
  let new := sortBy (fun x y => decide (x ≤ y)) ((cs.filter (fun c => (d.ctx c).st = .admitted)).foldl listAdd [])
  match new with
  | [] => d
  | c :: _ =>
    let d := new.foldl (fun d c => d.modCtx c (fun x => { x with st := .resetting })) d
    let d := d.setEpisode a (match d.episode? a with
      | some e => { e with joined := e.joined ++ new, removing := true, start := if e.removing then e.start else bt }
      | none => { start := bt, suspects := new, hung := [] })
    d.resLog bt 0x10 2 (some a) 0xFFFF
      [0, resData1 0 c (d.suspects a), bt, rungData (d.fget F.resEscCfgCtxMs 0) 0x11] c

/-- A hung CE is WITHHELD for the whole episode (R417). -/
def Dev.holdCe (d : Dev) (a k : Nat) : Dev :=
  let d := d.fset F.ceCtrlWithhold k 1
  let d := if (d.ce k).st = .active then d.modCe k (fun c => { c with st := .withheld }) else d
  match d.episode? a with
  | some e => d.setEpisode a { e with hung := listAdd e.hung k }
  | none => d

/-! ### Partition reset (R375, R423) -/

/-- A hung CE of an episode that a partition reset supersedes (R429) serves again; one that was engine-reset is screened. -/
def Dev.endHung (bt : Nat) (d : Dev) (e : Episode) : Dev :=
  e.hung.foldl (fun d k =>
    let d := d.fset F.ceCtrlWithhold k 0
    if e.cleared.contains k then (if (d.ce k).st = .spareHeld then d.beginScreen bt k false else d)
    else if (d.ce k).st = .withheld then d.modCe k (fun c => { c with st := .active }) else d) d

/-- Step 1 of R423, with the end of every context and launch: every dispatched descriptor completes with PARTITION_RESET, every
pair becomes DETACHED. -/
def Dev.quiesce (bt : Nat) (d : Dev) (a : Nat) : Dev :=
  let e := d.episode? a
  let d := d.modRes (fun z => { z with episodes := mapErase z.episodes a })
  let mine := d.ring.revokes.filter (fun r => d.pairPart (pairNo r.pair) == a)
  let d := d.modRing (fun z => { z with revokes := z.revokes.filter (fun r => d.pairPart (pairNo r.pair) != a) })
  let d := mine.foldl (fun d r => d.complete bt r.pair r.tag .partitionReset) d
  let cs := (d.ctxs.filter (fun c => c.2.live && d.partOfCtx c.1 == a)).map (fun c => c.1)
  let d := cs.foldl (fun d c => d.releaseCtx bt c .terminating .partitionReset) d
  let ks := (d.ring.pairs.filter (fun p => decide (4096 ≤ p.1) && pairWindow p.1 == a && p.2.st ≠ .detached)).map (fun p => p.1)
  let d := ks.foldl (fun d k => d.endPair bt k .partitionReset) d
  match e with
  | some e => d.endHung bt e
  | none => d

/-- A partition reset is asked for: it starts, counted (R375), or is held, quiesced as in step 1. -/
def Dev.askPartReset (bt : Nat) (d : Dev) (a : Nat) : Dev :=
  if d.quiet a then d
  else
    let recent := d.arb.partResets.filter (fun r => decide (bt < r.2 + 60 * 10 ^ 9))
    let d := d.modArb (fun z => { z with partResets := recent })
    let d :=
      if d.fget F.arbEscLimitPartMax 0 ≤ (recent.filter (fun r => r.1 == a)).length then
        let d := d.modRes (fun z => { z with parts := mapPut z.parts a { start := bt, held := true } })
        d.resLog bt 0x16 4 (some a) 0xFFFF [0, 0, bt, 0]
      else
        let d := (d.modRes (fun z => { z with parts := mapPut z.parts a { start := bt } })).modArb (fun z => { z with partResets := recent ++ [(a, bt)] })
        d.resLog bt 0x12 4 (some a) 0xFFFF [0, 0, bt, rungData (d.fget F.resEscCfgPartMs 0) 0x13]
    d.quiesce bt a

/-- RESET_HOLD_EXPIRY (R375): the held reset runs once the oldest counted one has left the window. -/
def Dev.holdExpiry (bt : Nat) (d : Dev) (a : Nat) : Dev :=
  match mapFind? d.res.parts a with
  | some r =>
    let recent := d.arb.partResets.filter (fun r => decide (bt < r.2 + 60 * 10 ^ 9))
    if r.held ∧ (recent.filter (fun r => r.1 == a)).length < d.fget F.arbEscLimitPartMax 0 then
      let d := (d.modRes (fun z => { z with parts := mapPut z.parts a { start := bt } })).modArb (fun z => { z with partResets := recent ++ [(a, bt)] })
      d.resLog bt 0x12 4 (some a) 0xFFFF [0, 0, bt, rungData (d.fget F.resEscCfgPartMs 0) 0x13]
    else d
  | none => d

/-- The memories of a CE after a reset. -/
def Ce.cleared (c : Ce) : Ce :=
  { c with
    threads := [none, none, none, none], ls := [], lsCtx := [], vrf := [], vrfCtx := [], cb := [], cbCtx := [], acc := [], mode := none
    tensor := none, tensorWait := [], sqc := [], miss := none, stalled := false, wrote := [], tpend := [], tread := [] }

/-- The entries of the KV Block Table per die (R170). -/
def kvPerDie : Nat := 2097152

/-- Step 2 of R423, and the state of the partition's engines: what the records of the partition at die `a` hold goes. -/
def Dev.dropPart (q : Dev) (a : Nat) : Dev :=
  let mine := fun (n : Nat) => q.partOfDie n == a
  let d := q.setCtxs (q.ctxs.filter (fun c => q.partOfCtx c.1 != a))
  let d := d.modSeq (fun z => { z with
    slots := mapKeep z.slots (fun s _ => q.partOfSlot s != a)
    kvOwn := mapKeep z.kvOwn (fun i _ => !mine (i / kvPerDie))
    pools := mapKeep z.pools (fun k _ => !(if k < 64 then mine (k / 8) else mine ((k - 64) / 4))) })
  let d := d.dropTier (fun b => b == a)
  let d := d.modTime (fun z => { z with
    wheels := mapAll z.wheels (fun w l =>
      if w < 8 ∧ mine w then l.filter (fun e => match e.ev with
        | .slot _ => true
        | _ => false)
      else l) })
  let d := d.modCoh (fun z => { z with
    reqs := mapKeep z.reqs (fun _ r => q.partOfAgent r.agent != a)
    dir := mapKeep z.dir (fun k _ => k / 2 ^ 48 != a + 1)
    rb := mapErase z.rb a })
  let d := d.setTours (mapErase q.tours a)
  let d := d.modSec (fun z => { z with osLoads := mapErase z.osLoads a })
  d.modXlat (fun z => { z with
    held := z.held.filter (fun h => h.part != a)
    invs := z.invs.filter (fun v => v.part != a) })

/-- PARTITION_RESET: steps 1 to 4 of R423. A CE under screening is not touched (R435); a Tour job ends without a result. -/
def Dev.partReset (bt : Nat) (d : Dev) (a : Nat) : Dev :=
  match mapFind? d.res.parts a with
  | some r =>
    if r.held ∨ r.wiped then d
    else
      let d := d.quiesce bt a
      let d := d.dropPart a
      let d := d.tlbDrop a (fun _ => true)
      let d := ((d.partCes a).filter (fun k => !mapHas d.res.screens k)).foldl (fun d k => d.modCe k Ce.cleared) d
      let d := (d.resetHarts a).fabReset a
      let d := (d.resetRegs (inPartition a) false).fset F.hbmcTourStatusState a 0
      let d := d.fset F.xlatFqTailCount a (d.fget F.xlatFqHeadCount a)
      let d := d.wipeHbm a
      d.modRes (fun z => { z with parts := mapPut z.parts a { r with wiped := true } })
  | none => d

/-- After a reset a partition's operating system starts again (R399, R423); a parked partition's waits until it is unparked (R453). -/
def Dev.startKept (bt : Nat) (d : Dev) (a : Nat) : Dev := if d.parked a then d else d.restartOs bt a

/-- PARTITION_RESET_DONE: steps 5 and 6 of R423, then the new epoch (R366). -/
def Dev.partResetDone (bt : Nat) (d : Dev) (a : Nat) : Dev :=
  match mapFind? d.res.parts a with
  | some r =>
    if r.wiped then
      let d := (d.fillDdr a).startKept bt a
      (d.modRes (fun z => { z with parts := mapErase z.parts a })).announceEpoch a
    else d
  | none => d

/-! ### Hangs (R408 to R414) -/

/-- A suspect is guilty (R418): it is terminated. -/
def Dev.guilty (bt : Nat) (d : Dev) (a c : Nat) : Dev :=
  let d := (d.fbump F.resReplayStatGuilty a 1).resLog bt 0x21 3 (some a) 0xFFFF [0, resData1 0 c (d.suspects a), bt, 0] c
  let d := match d.episode? a with
    | some e => d.setEpisode a { e with guilty := true }
    | none => d
  (d.terminate bt c none).endEpisode bt a

/-- A shadow run that hangs is discarded and its spare screened (R429, R439). -/
def Dev.shadowHang (bt : Nat) (d : Dev) (o : Nat) (ces : List Nat) : Dev :=
  ces.foldl (fun d k => if (d.ce k).logical.isNone then d.sendToScreen bt k else d) (d.dropShadow bt o)

/-- Does a launch of a context run on any of the CEs? -/
def Dev.onAny (d : Dev) (ces : List Nat) (c : Nat) : Bool := ces.any (fun k => d.ctxOnCe k c)

/-- A hang names CEs (R413, R414, R418, R429): `l` and `m` are the launch and member, `code` and `cnt` its entry and counter. -/
def Dev.hang (bt : Nat) (d : Dev) (l m : Nat) (ces : List Nat) (code : Nat) (cnt : Fld) : Dev :=
  let a := d.partOfDie (ces.headD 0 / 26)
  match d.launch? l with
  | some x =>
    if d.quiet a ∨ ces = [] then d
    else
      let last := ((d.member? l m).map (fun y => y.progress)).getD bt
      let small := decide (d.dies a ≤ 2)
      let rung := if small then rungData (d.fget F.resEscCfgPartMs 0) 0x13 else rungData (d.fget F.resEscCfgCtxMs 0) 0x11
      let d := (d.fbump cnt a 1).resLog bt code 2 (some a) (d.ceUnit (ces.headD 0))
        [x.tag, resData1 m x.ctx (d.suspects a), last, rung] x.ctx
      match x.shadowOf with
      | some o => d.shadowHang bt o ces
      | none =>
        match (d.episode? a).bind (fun e => e.current) with
        | some c =>
          if d.onAny ces c then d.guilty bt a c
          else if small then d.askPartReset bt a
          else
            let cs := (ces.flatMap (fun k => d.resident k)).filterMap (fun r => (d.launch? r.1).map (fun y => y.ctx))
            ces.foldl (fun d k => d.holdCe a k) (d.suspend bt a cs)
        | none =>
          if small then d.askPartReset bt a
          else
            let cs := (ces.flatMap (fun k => d.resident k)).filterMap (fun r => (d.launch? r.1).map (fun y => y.ctx))
            ces.foldl (fun d k => d.holdCe a k) (d.suspend bt a cs)
  | none => d

/-- LAUNCH_WATCHDOG: the launch's bound is over (R409). -/
def Dev.launchWatchdog (bt : Nat) (d : Dev) (l : Nat) : Dev :=
  match d.fire bt (d.launchWheel l) (.watchdog l) with
  | some d => d.hang bt l 0 (d.launchCes l) 0x01 F.resHangStatBound
  | none => d

/-- Does a member wait only in a way that stops the no-progress window (R410)? -/
def Dev.waitsWell (bt : Nat) (d : Dev) (l m : Nat) (y : Member) (window : Nat) : Bool :=
  !(d.eng.cohorts.any (fun c => c.1 / 512 == memberKey l m && !c.2.ended)) &&
    (match y.wait with
    | .none => false
    | .miss => false
    | .gbar => (d.membersOf l).any (fun z => z.1 != m && decide (bt < z.2.progress + window))
    | .cmds => d.eng.cmds.any (fun c => c.2.l == l && c.2.m == m)
    | .tensor => true
    | .ring _ => true
    | .mailbox _ _ _ _ => true
    | .time => true)

/-- NO_PROGRESS: the member has made no progress for NOPROG_MS (R410). -/
def Dev.noProgress (bt : Nat) (d : Dev) (l m : Nat) : Dev :=
  match d.launch? l, d.member? l m with
  | some x, some y =>
    let window := d.fget F.resWdogCfgNoprogMs (d.partOfCtx x.ctx) * 1000000
    if x.st = .running ∧ ¬y.ended ∧ y.progress + window ≤ bt ∧ ¬d.waitsWell bt l m y window then
      d.hang bt l m (d.launchCes l) 0x02 F.resHangStatNoprog
    else d
  | _, _ => d

/-- Is a command started, local, and held by nothing (R411)? -/
def Dev.localCmd (d : Dev) (n : Nat) (c : Cmd) : Bool :=
  c.started && !c.fault && c.held.isEmpty &&
    (match d.member? c.l c.m with
    | some y => !d.cmdRemote (d.partOfDie (y.ce / 26)) n
    | none => false)

/-- TQ_TIMEOUT (R411). -/
def Dev.tqTimeout (bt : Nat) (d : Dev) (n : Nat) : Dev :=
  match mapFind? d.eng.cmds n with
  | some c => match d.member? c.l c.m with
    | some y =>
      if d.localCmd n c ∧ c.bt + d.fget F.resTqCfgLocalMs (d.partOfDie (y.ce / 26)) * 1000000 ≤ bt then
        d.hang bt c.l c.m [y.ce] 0x03 F.resHangStatTqTimeout
      else d
    | none => d
  | none => d

/-- KIORN_REQUEST_TIMEOUT (R270): a coherence request, or one of a command, which makes its launch hung. -/
def Dev.kiornTimeout (bt : Nat) (d : Dev) (n : Nat) : Dev :=
  if n < 2 ^ 32 then d.reqTimeout bt n
  else match mapFind? d.eng.cmds (n - 2 ^ 32) with
    | some c => match d.member? c.l c.m with
      | some y =>
        if d.localCmd (n - 2 ^ 32) c ∧ c.bt + d.fget F.kioTimeoutReqUs 0 * 1000 ≤ bt then
          (d.tlog bt 5 51 (some (d.partOfDie (y.ce / 26))) (d.ceUnit y.ce)).hang bt c.l c.m [y.ce] 0x04 F.resHangStatKioAbandon
        else d
      | none => d
    | none => d

/-! ### Context reset and replay (R415 to R420) -/

/-- The launches of a context that run or hold their completion. -/
def Dev.startedOf (d : Dev) (c : Nat) : List Nat :=
  (d.eng.launches.filter (fun l => l.2.ctx == c && l.2.started && l.2.shadowOf.isNone)).map (fun l => l.1)

/-- A launch is removed by a reset, to be run again; one that raised an exception has completed (R166), and its entry is written. -/
def Dev.resetLaunch (bt : Nat) (d : Dev) (l : Nat) : Dev :=
  match d.launch? l with
  | some x =>
    if x.st = .ending ∧ x.exc.isSome then
      ((d.removeLaunch bt l false).modLaunch l (fun y => { y with exc := x.exc })).completeLaunch bt l x.final
    else d.removeLaunch bt l false
  | none => d

/-- A context reset ends the context's instruction lines and its Keep protection (R105, R275). -/
def Dev.resetCaches (d : Dev) (c : Nat) : Dev :=
  ((d.partCes (d.partOfCtx c)).foldl (fun d k => d.sqcDrop k (fun s => s.ctx == c)) d).endKeep c

/-- CONTEXT_RESET: the launches of every suspect are removed from every CE (R415). -/
def Dev.contextReset (bt : Nat) (d : Dev) (a : Nat) : Dev :=
  match d.episode? a with
  | some e =>
    if e.removing ∧ ¬d.quiet a then
      let cs := e.suspects ++ e.joined
      let d := (cs.flatMap (fun c => d.startedOf c)).foldl (fun d l => d.resetLaunch bt l) d
      let d := cs.foldl (fun d c => d.resetCaches c) d
      let d := d.setEpisode a { e with removing := false, suspects := cs, joined := [] }
      d.endEpisode bt a
    else d
  | none => d

/-- The removed launches of a context, oldest first. -/
def Dev.removedOf (d : Dev) (c : Nat) : List (Nat × Launch) :=
  sortBy (fun x y => decide (x.2.order ≤ y.2.order)) (d.eng.launches.filter (fun l => l.2.ctx == c && l.2.st = .removed))

/-- Launches complete with CONTEXT_RESET. -/
def Dev.giveUpRuns (bt : Nat) (d : Dev) (ls : List (Nat × Launch)) : Dev :=
  ls.foldl (fun d l => d.completeLaunch bt l.1 .contextReset) d

/-- A suspect whose replay is impossible (R419) is counted and logged. -/
def Dev.noReplay (bt : Nat) (d : Dev) (a c : Nat) : Dev :=
  (d.fbump F.resReplayStatImpossible a 1).resLog bt 0x22 2 (some a) 0xFFFF [0, resData1 0 c (d.suspects a), bt, 0] c

/-- The context is ADMITTED again without a replay; a close that waited takes effect (R38). -/
def Dev.readmit (bt : Nat) (d : Dev) (a c : Nat) : Dev :=
  let close := (d.ctx c).closePending
  let d := (d.modCtx c (fun x => { x with st := .admitted, closePending := false })).leaveEpisodes c
  (if close then d.releaseCtx bt c .closing .contextTerminated else d).endEpisode bt a

/-- REPLAY_START: the next suspect is replayed under R48, unless R419 forbids it; `bad` are the launches whose journal records read
as poison. -/
def Dev.replayStart (bt : Nat) (d : Dev) (a : Nat) (bad : List Nat) : Dev :=
  match d.episode? a with
  | some e => match e.suspects with
    | c :: rest =>
      if e.removing ∨ e.engine ≠ [] ∨ e.current ≠ none ∨ d.quiet a then d
      else
        let ls := d.removedOf c
        if (d.ctx c).noReplay then ((d.noReplay bt a c).giveUpRuns bt ls).readmit bt a c
        else if ls.any (fun l => l.2.nrs) then ((d.noReplay bt a c).terminate bt c none).endEpisode bt a
        else
          let lost := ls.filter (fun l => ls.any (fun b => bad.contains b.1 && b.2.queue == l.2.queue && decide (b.2.order ≤ l.2.order)))
          let d := if lost = [] then d else (d.noReplay bt a c).giveUpRuns bt lost
          let d := d.modEng (fun z => { z with launches := mapAll z.launches (fun _ (l : Launch) =>
            if l.ctx = c ∧ l.st = LaunchSt.removed then { l with st := .queued, replay := true, degrade := 0 } else l) })
          let d := (d.modCtx c (fun x => { x with st := .replaying })).setEpisode a { e with suspects := rest, current := some c }
          if d.replayLeft c then d else d.replayDone bt c
    | [] => d
  | none => d

/-- CTX_DEADLINE (R416): the CEs that still hold suspect work are to be engine-reset. -/
def Dev.ctxDeadline (bt : Nat) (d : Dev) (a : Nat) : Dev :=
  match d.episode? a with
  | some e =>
    let left := ((e.suspects ++ e.joined).flatMap (fun c => (d.startedOf c).flatMap (fun l => d.launchCes l))).foldl listAdd []
    if e.removing ∧ e.engine = [] ∧ left ≠ [] ∧ e.start + d.fget F.resEscCfgCtxMs 0 * 1000000 ≤ bt then
      (d.setEpisode a { e with engine := left, engStart := some bt }).resLog bt 0x15 2 (some a) 0xFFFF
        [0, 0, e.start, rungData (d.fget F.resEscCfgCtxMs 0) 0x11]
    else d
  | none => d

/-! ### Engine reset (R422) -/

/-- Firmware asks for an engine reset. -/
def Dev.askEngineReset (bt : Nat) (d : Dev) (k : Nat) : Dev :=
  let a := d.partOfDie (k / 26)
  if d.quiet a then d
  else d.setEpisode a (match d.episode? a with
    | some e => { e with engine := listAdd e.engine k, engStart := e.engStart.or (some bt) }
    | none => { start := bt, removing := false, suspects := [], hung := [], engine := [k], engStart := some bt })

/-- ENGINE_RESET: the CE is cleared, its launches removed and their contexts suspects; its logical number goes to a spare at rank
2, or waits (R422). -/
def Dev.engineReset (bt : Nat) (d : Dev) (k : Nat) : Dev :=
  let a := d.partOfDie (k / 26)
  match d.episode? a with
  | some e =>
    if e.engine.contains k ∧ ¬d.quiet a then
      let n := (d.ce k).logical
      let d := (d.fbump F.resReplayStatEngineResets a 1).resLog bt 0x11 2 (some a) (d.ceUnit k)
        [0, 0, bt, rungData (d.fget F.resEscCfgEngMs 0) 0x12]
      let ls := (d.resident k).map (fun r => r.1)
      let cs := ls.filterMap (fun l => (d.launch? l).bind (fun x => if x.shadowOf.isNone then some x.ctx else none))
      -- a replay that the reset cuts short is a suspect again
      let d := match e.current with
        | some c => if cs.contains c then
            (d.modCtx c (fun x => { x with st := .admitted })).setEpisode a { e with current := none } else d
        | none => d
      let d := d.suspend bt a cs
      let d := ls.foldl (fun d l => match (d.launch? l).bind (fun x => x.shadowOf) with
        | some o => d.dropShadow bt o
        | none => d.resetLaunch bt l) d
      let d := (d.modCe k Ce.cleared).setTlb (16 + k) []
      let d := match d.episode? a with
        | some e => d.setEpisode a { e with
            engine := listDel e.engine k, engStart := if listDel e.engine k = [] then none else e.engStart
            hung := listAdd e.hung k, cleared := listAdd e.cleared k }
        | none => d
      let d := match n with
        | some n =>
          let waits := fun (d : Dev) => (d.modCe k (fun c => { c with logical := none })).modRes (fun z => { z with
            waiting := z.waiting ++ [(n, k)] })
          match d.claimSpare (k / 26) 2 k with
          | .take j => d.castle bt k j
          | .wakes j => (waits d).wake (ceDomain j)
          | .waits _ => (waits d).resLog bt 0x31 2 (some a) n [0, 0, bt, 0]
          | .refused => (waits d).resLog bt 0x31 2 (some a) n [0, 0, bt, 0]
          | .none => (waits d).resLog bt 0x31 2 (some a) n [0, 0, bt, 0]
        | none => d
      (d.modCe k (fun c => { c with st := .spareHeld, rank := 2 })).endEpisode bt a
    else d
  | none => d

/-- ENG_DEADLINE (R421): a partition reset starts. -/
def Dev.engDeadline (bt : Nat) (d : Dev) (a : Nat) : Dev :=
  match (d.episode? a).bind (fun e => if e.engine = [] then none else e.engStart) with
  | some t =>
    if t + d.fget F.resEscCfgEngMs 0 * 1000000 ≤ bt then
      (d.resLog bt 0x15 4 (some a) 0xFFFF [0, 0, t, rungData (d.fget F.resEscCfgEngMs 0) 0x12]).askPartReset bt a
    else d
  | none => d

/-- PART_DEADLINE (R421): a chip warm reset starts. -/
def Dev.partDeadline (bt : Nat) (d : Dev) (a : Nat) : Dev :=
  match mapFind? d.res.parts a with
  | some r =>
    if ¬r.held ∧ ¬r.wiped ∧ r.start + d.fget F.resEscCfgPartMs 0 * 1000000 ≤ bt then
      let d := d.resLog bt 0x15 5 (some a) 0xFFFF [0, 0, r.start, rungData (d.fget F.resEscCfgPartMs 0) 0x13]
      d.modRes (fun z => { z with warmPending := true })
    else d
  | none => d

/-! ### Chip warm reset (R399, R400, R424) -/

/-- Set STATE of the boot mailbox of every port, with ERR, SAFE and FROM_FLASH as they are to read. A chip without an identity
shows NO_IDENTITY where there is no other error (R394). -/
def Dev.setBoot (d : Dev) (state err : Nat) (safe flash : Bool) : Dev :=
  let err := if err = 0 ∧ d.sec.up ∧ d.sec.identity = none then 7 else err
  (List.range 4).foldl (fun d q =>
    (((d.fset F.secBootStatusState q state).fset F.secBootStatusErr q err).fset F.secBootStatusSafe q (b2n safe)).fset
      F.secBootStatusFromFlash q (b2n flash)) d

/-- The least size of a partition's fault queue (R321), which is also its reset value. -/
def fqLog2 (dies : Nat) : Nat := 7 + dies.log2

/-- Every partition's fault queue at its reset size. -/
def Dev.fqDefaults (d : Dev) : Dev := d.parts.foldl (fun d a => d.fset F.xlatFqCfgLog2Size a (fqLog2 (d.dies a))) d

/-- A CE after a chip warm reset: a hold at rank 2 or 3 is released, a withheld CE is active. -/
def Ce.warm (c : Ce) : Ce :=
  let c := c.cleared
  match c.st with
  | .withheld => { c with st := if c.logical.isSome then .active else .spareFree }
  | .spareHeld => { c with st := .spareFree, rank := 0 }
  | _ => c

/-- The spares that a chip warm reset releases, and the CEs whose screening ends without a verdict or had still to begin. -/
def Dev.heldSpares (d : Dev) : List Nat :=
  (List.range 208).filter (fun k => (d.ce k).st = .spareHeld ∨ ((d.ce k).st = .withheld ∧ (d.ce k).logical = none))

/-- Steps 1 to 4 of a chip warm reset: everything goes except what R399 lists. -/
def Dev.warmClear (bt : Nat) (d : Dev) : Dev :=
  let safe := d.safe
  let freed := d.heldSpares
  let cut := freed.filter (fun k => (d.ce k).rank != 3)
  let abandoned := d.res.screens.map (fun s => s.1)
  let d := abandoned.foldl (fun d k => d.resLog bt 0x42 0 (some (d.partOfDie (k / 26))) 0xFFFF [0, 0, bt, 4]) d
  let d := d.parts.foldl (fun d a => (d.resetHarts a).fabReset a) d
  let d := (d.parts.foldl (fun d a => (d.wipeHbm a).fillDdr a) d)
  let d := d.setCtxs []
  let d := d.modRing (fun _ => {})
  let d := d.modSeq (fun _ => {})
  let d := d.modTier (fun _ => {})
  let d := d.setTours []
  let d := d.modEng (fun z => { z with
    ces := mapAll z.ces (fun _ c => c.warm), launches := [], members := [], cohorts := [], srVec := [], cmds := [] })
  let d := d.modCpx (fun z => { z with imsic := [], starting := [] })
  let d := d.modCoh (fun z => { z with dir := [], reqs := [], rb := [] })
  let d := d.modXlat (fun z => { walkersLost := z.walkersLost, spareUsed := z.spareUsed })
  let d := d.modTime (fun z => { z with wheels := mapKeep z.wheels (fun w _ => w == 8) })
  let d := d.modArb (fun z => { z with pairs := (List.range 4).map (fun k => (k, ({ lastKick := bt } : ArbPair))) })
  let d := d.modRes (fun z => { z with
    warmPending := false, episodes := [], parts := [], screens := [], draining := [], clearing := [], digests := []
    toScreen := cut.foldl listAdd z.toScreen })
  let d := d.modSec (fun z => { z with
    verifying := none, staged := false, osLoads := [], osRuns := [], blocks := [], spdm := [], flashWait := none })
  let d := (d.resetRegs (fun r _ => regDomain r ≠ .power) true).fqDefaults
  let d := d.fset F.prtModeBusy 0 0
  let d := (d.fset F.secFwRemapPair 0 d.remapActive).fset F.secFwStateUpdating 0 0
  let d := d.setBoot 0 0 safe d.sec.fromFlash
  freed.foldl (fun d k => d.releaseSpare bt k) d

/-- CHIP_WARM_RESET (R424): one that the device may not have any more within the hour becomes a request for a power cycle (R375). A
retained image whose digest is not measurement 4 leaves the boot ROM in RECOVERY (R400). -/
def Dev.chipWarmReset (bt : Nat) (d : Dev) (digest : BitVec 384) : Dev :=
  if d.res.warmPending ∧ ¬d.res.cycle then
    let recent := d.arb.warmResets.filter (fun t => decide (bt < t + 3600 * 10 ^ 9))
    let d := d.modArb (fun z => { z with warmResets := recent })
    if d.fget F.arbEscLimitWarmMax 0 ≤ recent.length then
      let d := d.resLog bt 0x17 5 none 0xFFFF [0, 0, bt, 0]
      d.modRes (fun z => { z with warmPending := false, cycleReq := some 0x17 })
    else
      let d := (d.msixPorts (fun _ => true)).resLog bt 0x13 5 none 0xFFFF
        [0, 0, bt, rungData (d.fget F.resEscCfgWarmMs 0) 0x14]
      let d := d.modArb (fun z => { z with warmResets := recent ++ [bt] })
      let d := d.warmClear bt
      if digest = d.sec.meas4 then d.modRes (fun z => { z with warm := some bt })
      else
        let d := d.setBoot 4 5 d.safe d.sec.fromFlash
        d.modSec (fun z => { z with started := false, memReady := false })
  else d

/-- WARM_RESET_DONE: the layout is set, resident OSes are started (R399, R404), and the new epochs are sent (R366). -/
def Dev.warmResetDone (bt : Nat) (d : Dev) : Dev :=
  match d.res.warm with
  | some _ =>
    let d := d.modRes (fun z => { z with warm := none })
    let d := d.setBoot 5 0 d.safe d.sec.fromFlash
    d.parts.foldl (fun d a => (d.startKept bt a).announceEpoch a) d
  | none => d

/-- WARM_DEADLINE (R421): a power cycle is to be requested. -/
def Dev.warmDeadline (bt : Nat) (d : Dev) : Dev :=
  match d.res.warm with
  | some t =>
    if t + d.fget F.resEscCfgWarmMs 0 * 1000000 ≤ bt ∧ d.res.cycleReq = none then
      let d := d.resLog bt 0x15 5 none 0xFFFF [0, 0, t, rungData (d.fget F.resEscCfgWarmMs 0) 0x14]
      d.modRes (fun z => { z with cycleReq := some 0x15 })
    else d
  | none => d

/-! ### Power cycle (R425) -/

/-- Output signals of `Out.pin`, by the model's own numbers. -/
def pinThermTrip : Nat := 0
def pinPowerCycle : Nat := 1

/-- POWER_CYCLE: firmware records the cause in the unit history, in a record whose KIND and VALUE the spec does not give (log entry
33), and asserts POWER_CYCLE_REQ_N. -/
def Dev.powerCycle (bt : Nat) (d : Dev) : Dev :=
  match d.res.cycleReq with
  | some cause =>
    let d := d.histAdd bt 1 (11 + Config.powerCycleKind) 0 0 false (Config.powerCycleValue cause)
    let d := (d.resLog bt 0x14 5 none 0xFFFF [0, 0, bt, 0]).emit (.pin pinPowerCycle false)
    d.modRes (fun z => { z with cycleReq := none, cycle := true, warmPending := false })
  | none => d

/-! ### RES.RESET_REQ -/

/-- A write of `RES.RESET_REQ`: firmware starts a rung (R421). -/
def Dev.resetReqWrite (bt : Nat) (d : Dev) (p : Party) (v : Word) : Dev :=
  let kind := bits v.toNat 2 0
  let t := bits v.toNat 14 3
  d.regWrite p .resResetReq 0 v
    (verdict
      (match kind with
      | 1 => !(d.ctx t).live || decide (d.dies (d.partOfCtx t) ≤ 2)
      | 2 => decide (192 ≤ t) || (d.ceOfLogical t).isNone
      | 3 => (partAt d.layout t).isNone
      | 4 => false
      | 5 => false
      | _ => true) false)
    (fun d => match kind with
      | 1 => if d.quiet (d.partOfCtx t) then d else d.suspend bt (d.partOfCtx t) [t]
      | 2 => match d.ceOfLogical t with
        | some k => d.askEngineReset bt k
        | none => d
      | 3 => match partAt d.layout t with
        | some a => d.askPartReset bt a
        | none => d
      | 4 => d.modRes (fun z => { z with warmPending := true })
      | _ => (d.modRes (fun z => { z with cycleReq := some 5 })))

/-! ### Meanings -/

def execLaunchWatchdog (l : Nat) : State → Host.Outcome State Fault Refusal := onDev (fun bt d => d.launchWatchdog bt l)
def execNoProgress (l m : Nat) : State → Host.Outcome State Fault Refusal := onDev (fun bt d => d.noProgress bt l m)
def execTqTimeout (c : Nat) : State → Host.Outcome State Fault Refusal := onDev (fun bt d => d.tqTimeout bt c)
def execKiornRequestTimeout (req : Nat) : State → Host.Outcome State Fault Refusal := onDev (fun bt d => d.kiornTimeout bt req)
def execContextReset (a : Nat) : State → Host.Outcome State Fault Refusal := onDev (fun bt d => d.contextReset bt a)
def execReplayStart (a : Nat) (poisonedRec : List Nat) : State → Host.Outcome State Fault Refusal :=
  onDev (fun bt d => d.replayStart bt a poisonedRec)
def execCtxDeadline (a : Nat) : State → Host.Outcome State Fault Refusal := onDev (fun bt d => d.ctxDeadline bt a)
def execEngineReset (ce : Nat) : State → Host.Outcome State Fault Refusal := onDev (fun bt d => d.engineReset bt ce)
def execEngDeadline (a : Nat) : State → Host.Outcome State Fault Refusal := onDev (fun bt d => d.engDeadline bt a)
def execPartitionReset (a : Nat) : State → Host.Outcome State Fault Refusal := onDev (fun bt d => d.partReset bt a)
def execPartitionResetDone (a : Nat) : State → Host.Outcome State Fault Refusal := onDev (fun bt d => d.partResetDone bt a)
def execPartDeadline (a : Nat) : State → Host.Outcome State Fault Refusal := onDev (fun bt d => d.partDeadline bt a)
def execChipWarmReset (imageDigest : BitVec 384) : State → Host.Outcome State Fault Refusal :=
  onDev (fun bt d => d.chipWarmReset bt imageDigest)
def execWarmResetDone : State → Host.Outcome State Fault Refusal := onDev (fun bt d => d.warmResetDone bt)
def execWarmDeadline : State → Host.Outcome State Fault Refusal := onDev (fun bt d => d.warmDeadline bt)
def execPowerCycle : State → Host.Outcome State Fault Refusal := onDev (fun bt d => d.powerCycle bt)
def execResetHoldExpiry (a : Nat) : State → Host.Outcome State Fault Refusal := onDev (fun bt d => d.holdExpiry bt a)

end Sys2Proof.Machine
end

