-- ==== Sys2Proof/Machine/Screen.lean ====
section
/-! DEFINITION. Silent-error screening, shadow execution and weight digests (chapter 19). -/

namespace Sys2Proof.Machine

/-! ### Screening (R432 to R435) -/

/-- Is a CE's screening due: it waits for one, or its period is over? A marginal CE has a period of its own for 7 days (R446). -/
def Dev.screenDue (bt : Nat) (d : Dev) (k : Nat) : Bool :=
  let hour := 3600 * 10 ^ 9
  let marginal := match mapFind? d.res.cornered k with
    | some t => decide (bt < t + 7 * 24 * hour)
    | none => false
  let period := if marginal then d.fget F.resHistCfgMarginalH 0 else d.fget F.resScrCfgPeriodH 0
  d.res.toScreen.contains k || (match mapFind? d.res.screened k with
    | some t => decide (t + period * hour ≤ bt)
    | none => true)

/-- SCREENING_WINDOW: an ACTIVE CE is castled out, a spare is claimed where it stands (R432). A claim on spares in use at rank 1 or 2 is
refused with CONFLICT; one on a spare that a shadow uses waits for its release (R26), one on a gated spare for its power (R451). A die
whose spares are all held at rank 1 does nothing (R27). -/
def Dev.screenWindow (bt : Nat) (d : Dev) (k : Nat) : Dev :=
  match (d.slotDue bt 8 1).bind (fun n => d.fireSlot bt 8 n 1) with
  | some d =>
    let die := k / 26
    if 208 ≤ k ∨ ¬d.fon F.resScrCfgEn 0 ∨ d.quiet (d.partOfDie die) ∨ d.fget F.resScrCfgPerDie 0 ≤ d.screensOn die ∨ ¬d.screenDue bt k then d
    else match (d.ce k).st with
      | .active =>
        let later := fun (d : Dev) => d.modRes (fun z => { z with toScreen := listAdd z.toScreen k })
        match d.claimSpare die 2 k with
        | .take _ => d.castleOut bt k
        | .wakes j => (later d).wake (ceDomain j)
        | .waits _ => later d
        | .refused => d.refuse .resCfgErr 0 true
        | .none => d
      | .spareFree =>
        if d.safe then d
        else if d.domOn (ceDomain k) then d.beginScreen bt k false
        else (d.modRes (fun z => { z with toScreen := listAdd z.toScreen k })).wake (ceDomain k)
      | .spareHeld => if d.res.toScreen.contains k ∧ ¬mapHas d.res.screens k ∧ (d.ce k).rank = 2 then d.beginScreen bt k false else d
      | _ => d
  | none => d

/-- Verdicts of a screening, by their codes (R448). -/
def verdictPass : Nat := 0
def verdictCorner : Nat := 1
def verdictNominal : Nat := 2
def verdictHang : Nat := 3

/-- The screening of a CE is over. -/
def Dev.endScreen (bt : Nat) (d : Dev) (k : Nat) : Dev :=
  d.modRes (fun z => { z with screens := mapErase z.screens k, screened := mapPut z.screened k bt })

/-- A CE that passed its check is a spare; one whose logical number waits since its engine reset takes it back first (R422). -/
def Dev.passed (bt : Nat) (d : Dev) (k : Nat) : Dev :=
  match d.res.waiting.find? (fun w => w.2 == k) with
  | some w =>
    let d := d.modRes (fun z => { z with waiting := z.waiting.erase w })
    (d.modCe k (fun c => { c with st := .active, rank := 0, logical := some w.1 })).resLog bt 0x30 1
      (some (d.partOfDie (k / 26))) w.1 [0, 0, bt, 0]
  | none => d.releaseSpare bt k

/-- A verdict, and what follows from it (R434, R446, R447). A CE that failed twice at once and is not permanently faulty stays held
and is screened again (log entry 34). -/
def Dev.verdictOf (bt : Nat) (d : Dev) (k : Nat) (s : Screen) (v : Nat) : Dev :=
  let fail := decide (v ≠ verdictPass)
  let cls := if v = verdictPass then 0 else if v = verdictCorner then 2 else 1
  let d := d.resLog bt (if fail then 0x41 else 0x40) (b2n fail) (some (d.partOfDie (k / 26))) (d.ceUnit k) [0, 0, bt, v]
  let d := (d.histAdd bt 1 1 cls k (v == verdictCorner)).endScreen bt k
  let d := if v = verdictCorner then (d.modRes (fun z => { z with cornered := mapPut z.cornered k bt })) else d
  if fail ∧ d.permanent bt 1 k then d.mapOutCe bt k cls
  else if v = verdictPass ∨ v = verdictCorner then d.passed bt k
  else if s.second then d.modRes (fun z => { z with toScreen := listAdd z.toScreen k })
  else d.beginScreen bt k true

/-- How long a phase lasts, in ns (R433). -/
def phaseNs (phase : Nat) : Nat := (match phase with
  | 1 => 2
  | 2 => 6
  | 3 => 8
  | _ => 24) * 10 ^ 9

/-- SCREENING_PHASE_END: a phase ends at its time, heating also at its temperature; the temperature reached is logged (event 63)
when it is not TEMP_C. -/
def Dev.phaseEnd (bt : Nat) (d : Dev) (k : Nat) (r : PassResult) (tempC : Nat) : Dev :=
  match mapFind? d.res.screens k with
  | some s =>
    let hot := decide (d.fget F.resScrCfgTempC 0 ≤ tempC)
    let late := decide (s.since + phaseNs s.phase ≤ bt)
    if ¬(late = true ∨ (s.phase = 3 ∧ hot = true)) then d
    else
      let next := fun (d : Dev) (bad : Bool) =>
        d.modRes (fun z => { z with screens := mapPut z.screens k { s with phase := s.phase + 1, since := bt, bad } })
      match s.phase with
      | 1 => next d s.bad
      | 2 => next d (r == .differs)
      | 3 => next (if hot then d else d.tlog bt 13 63 (some (d.partOfDie (k / 26))) (d.ceUnit k) tempC) s.bad
      | _ => d.verdictOf bt k s (if s.bad then verdictNominal else if r = .differs then verdictCorner else verdictPass)
  | none => d

/-- SCREEN_WATCHDOG: the slot of a screening watchdog fires; the verdict is HANG. -/
def Dev.screenWatchdog (bt : Nat) (d : Dev) (k : Nat) : Dev :=
  match (d.slotDue bt 8 2).bind (fun n => d.fireSlot bt 8 n 2) with
  | some d => match mapFind? d.res.screens k with
    | some s => d.verdictOf bt k s verdictHang
    | none => d
  | none => d

/-- R435: the screenings that a test accepts end without a verdict; the spare is released, to a rank-1 claim first (R27), and the CE
screened again. -/
def Dev.abandonScreens (bt : Nat) (d : Dev) (f : Nat → Bool) : Dev :=
  ((d.res.screens.map (fun s => s.1)).filter f).foldl (fun d k =>
    let d := d.resLog bt 0x42 0 (some (d.partOfDie (k / 26))) (d.ceUnit k) [0, 0, bt, 4]
    let d := d.modRes (fun z => { z with screens := mapErase z.screens k, toScreen := listAdd z.toScreen k })
    d.releaseSpare bt k) d

/-- A write of `RES.SCR_CFG`: TEMP_C is at most TJ_TRIP_C − 5. Clearing EN is how firmware withdraws screenings (log entry 36). -/
def Dev.scrCfgWrite (bt : Nat) (d : Dev) (p : Party) (v : Word) : Dev :=
  let t := bits v.toNat 20 13
  let trip := (d.sec.part.map (fun r => r.tjTripC)).getD 95
  d.regWrite p .resScrCfg 0 v (verdict (decide (t < 60) || decide (trip < t + 5)) false)
    (fun d => if bit v.toNat 0 then d else d.abandonScreens bt (fun _ => true))

/-! ### Shadow execution (R436 to R439) -/

/-- Release a held completion (R437). -/
def Dev.releaseRun (bt : Nat) (d : Dev) (l : Nat) : Dev :=
  match d.launch? l with
  | some x => d.completeLaunch bt l x.final
  | none => d

/-- A CE found wrong: by the unit history it is screened, or mapped out when its fault is permanent (R446). -/
def Dev.wrongCe (bt : Nat) (d : Dev) (k : Nat) : Dev :=
  let d := d.histAdd bt 1 1 3 k
  if d.permanent bt 1 k then d.mapOutCe bt k 3 else d.sendToScreen bt k

/-- The spare of a shadow is done: erase the shadow run. -/
def Dev.endShadow (d : Dev) (l s : Nat) : Dev :=
  (d.modEng (fun z => { z with launches := mapErase z.launches s })).modLaunch l (fun x => { x with shadow := none })

/-- A replay that settled a disagreement has ended (R438): `o` and `h` are the digests of the original and of its shadow, `k0` and
`k1` their CEs. -/
def Dev.settleRun (bt : Nat) (d : Dev) (l : Nat) (x : Launch) (o h : List Nat) (k0 k1 : Nat) : Dev :=
  let a := d.partOfCtx x.ctx
  let entry := fun (d : Dev) (code sev k cls : Nat) =>
    d.resLog bt code sev (some a) (d.ceUnit k) [x.tag, resData1 0 x.ctx 0, bt, cls] x.ctx
  let d := match x.shadow with
    | some s => d.endShadow l s
    | none => d
  if x.digests = o then
    let d := entry (d.fbump F.resShadowStatSettled a 1) 0x43 1 k1 4
    ((d.histAdd bt 1 1 4 k1).sendToScreen bt k1).releaseRun bt l
  else if x.digests = h then
    let d := entry (d.fbump F.resShadowStatSettled a 1) 0x43 1 k0 3
    ((d.wrongCe bt k0).freeSpares bt [k1]).releaseRun bt l
  else
    let d := entry (d.fbump F.resShadowStatMiscompares a 1) 0x44 2 k0 3
    let d := x.outs.foldl (fun d r => d.memFree r.1 r.2) d
    let d := (d.wrongCe bt k1).wrongCe bt k0
    d.completeLaunch bt l (x.final.first .miscompare)

/-- SHADOW_COMPARE: when both runs have ended their digests are compared; a disagreement is replayed on a third CE (R438). An
original whose shadow is gone completes as it stands (R439). -/
def Dev.shadowCompare (bt : Nat) (d : Dev) (l : Nat) : Dev :=
  match d.launch? l with
  | some x =>
    if x.st = .done ∧ x.shadowOf = none then
      match x.settle with
      | some (o, h) =>
        let n := x.oldCes.length
        d.settleRun bt l x o h (x.oldCes.getD (n - 3) 0) (x.oldCes.getD (n - 2) 0)
      | none => match x.shadow with
        | none => d.releaseRun bt l
        | some s => match d.launch? s with
          | some y =>
            if y.st = .done then
              let spares := y.oldCes.drop (y.oldCes.length - 1)
              let d := d.fbump F.resShadowStatSampled (d.partOfCtx x.ctx) 1
              if x.digests = y.digests then ((d.endShadow l s).freeSpares bt spares).releaseRun bt l
              else d.modLaunch l (fun z => { z with
                st := .queued, settle := some (x.digests, y.digests), digests := [], oldCes := z.oldCes ++ spares, degrade := 0 })
            else d
          | none => d.releaseRun bt l
    else d
  | none => d

/-! ### Weight digests (R440, R441) -/

/-- Does a digest pass run over a partition's table? -/
def Dev.digestRuns (d : Dev) (a : Nat) : Bool := mapGet 0 d.res.digests a != 0

/-- A write of `RES.DIG_BASE` or `RES.DIG_CFG`. -/
def Dev.digWrite (d : Dev) (p : Party) (r : RegName) (a : Nat) (v : Word) : Dev :=
  d.regWrite p r a v (verdict false (d.digestRuns a)) id

/-- RESULT of an entry. -/
def Dev.digestResult (d : Dev) (a base w0 w1 golden : Nat) : Nat :=
  let units := bits w1 31 0
  let n := 512 * units
  if bits w0 63 48 ≠ 0 ∨ bits w1 63 35 ≠ 0 ∨ units = 0 ∨ 2097152 < units ∨ base % 512 ≠ 0 ∨
      ¬(d.inHbm a base n ∨ d.inDdr a base n) then 4
  else if d.poisoned base n then 3
  else if (rangeDigest d.mem base units).toNat = golden then 1
  else 2

/-- The result of an entry is written, and the pass goes on to the next. -/
def Dev.digestDone (bt : Nat) (d : Dev) (a e : Nat) : Dev :=
  let at_ := d.fget F.resDigBaseAddr a * 32 + 32 * e
  let w0 := memNat d.mem at_ 8
  let w1 := memNat d.mem (at_ + 8) 8
  let r := d.digestResult a (bits w0 47 0) w0 w1 (memNat d.mem (at_ + 16) 8)
  let d := d.memPut (at_ + 8) (leBytes 8 (w1 - bits w1 34 32 * 2 ^ 32 + r * 2 ^ 32))
  let d := d.memPut (at_ + 24) (leBytes 8 bt)
  let d := d.modRes (fun z => { z with digests := mapSet 0 z.digests a ((e + 1) % d.fget F.resDigCfgCount a),
                                       digestAt := if e = 0 then mapPut z.digestAt a bt else z.digestAt })
  if r = 2 ∨ r = 3 then d.tlogX bt 13 0x45 3 (some a) 0xFFFF 0 (bits w0 47 0) 0 [0, 0, bt, r] else d

/-- DIGEST_PASS: the next entry of the pass is digested and its RESULT written; a pass begins once in PERIOD_H, and a pending wipe
goes first. A range in DDR is first read by its die's mover, at background class (R204). -/
def Dev.digestPass (bt : Nat) (d : Dev) (a e : Nat) : Dev :=
  let start := match mapFind? d.res.digestAt a with
    | some t => decide (t + d.fget F.resDigCfgPeriodH a * 3600 * 10 ^ 9 ≤ bt)
    | none => true
  if d.fget F.resDigCfgCount a ≤ e ∨ e ≠ mapGet 0 d.res.digests a ∨ (e = 0 ∧ start = false) ∨ d.quiet a = true ∨
      d.tier.wipes.any (fun w => w.2.part == a) = true then d
  else
    let at_ := d.fget F.resDigBaseAddr a * 32 + 32 * e
    let base := bits (memNat d.mem at_ 8) 47 0
    let n := 512 * bits (memNat d.mem (at_ + 8) 8) 31 0
    match d.tier.moves.find? (fun m => m.2.obj == .digest a e) with
    | some (k, m) => if m.moved = m.len then (d.dropMove k).digestDone bt a e else d
    | none =>
      if n ≠ 0 ∧ d.inDdr a base n = true then
        d.addMove { part := a, die := ((d.ddrPlace base).map (fun p => p.1 / 2)).getD a, obj := .digest a e, up := true, cls := .background
                    src := base, dst := some base, len := n, since := bt, req := d.tier.nextMove }
      else d.digestDone bt a e

/-! ### Meanings -/

def execScreeningWindow (ce : Nat) : State → Host.Outcome State Fault Refusal := onDev (fun bt d => d.screenWindow bt ce)
def execScreeningPhaseEnd (ce : Nat) (r : PassResult) (tempC : Nat) : State → Host.Outcome State Fault Refusal :=
  onDev (fun bt d => d.phaseEnd bt ce r tempC)
def execScreenWatchdog (ce : Nat) : State → Host.Outcome State Fault Refusal := onDev (fun bt d => d.screenWatchdog bt ce)
def execShadowCompare (l : Nat) : State → Host.Outcome State Fault Refusal := onDev (fun bt d => d.shadowCompare bt l)
def execDigestPass (a e : Nat) : State → Host.Outcome State Fault Refusal := onDev (fun bt d => d.digestPass bt a e)

end Sys2Proof.Machine
end

