-- ==== Sys2Proof/Machine/Power.lean ====
section
/-! DEFINITION. Power, clocks and thermal control (chapter 20). Stretching, memory throttling and AVSBus requests change timing and
voltages only; what the model holds of them is what registers and later steps show. -/

namespace Sys2Proof.Machine

/-- Output signals of `Out.pin` and tlog numbers of this chapter. -/
def evFloor : Nat := 70
def evTrip : Nat := 71
def evSensor : Nat := 72

/-! ### The ACLK state of a die (R454 to R456) -/

/-- Is the device in the Floor state? -/
def Dev.floor (d : Dev) : Bool := d.fon F.pwrFloorActive 0

/-- The state a die is to run in: A15 in the Floor state, else the lower of the cap and thermal states (R465). -/
def Dev.clkTarget (d : Dev) (n : Nat) : Nat :=
  if d.floor then 15 else max (mapGet 0 d.pow.capState n) (mapGet 0 d.pow.hot n)

/-- A die whose state lies above its target falls at once (R455); one in Blitz keeps what it has gained unless it must obey (R456).
FLOOR and THROTTLE show what holds it down. A die that is lowered gives up its screenings (R435). -/
def Dev.clkDown (bt : Nat) (d : Dev) (n : Nat) (obey : Bool) : Dev :=
  let t := if obey then d.clkTarget n else if d.floor then 15 else mapGet 0 d.pow.hot n
  let d := (d.fset F.pwrDieClkFloor n (b2n d.floor)).fset F.pwrDieClkThrottle n
    (b2n (decide (mapGet 0 d.pow.capState n < mapGet 0 d.pow.hot n)))
  let up := d.fget F.pwrDieClkBlitzStep n
  if d.fget F.pwrDieClkState n < t ∨ (0 < up ∧ (obey = true ∨ 0 < t)) then
    let d := (d.fset F.pwrDieClkBlitzStep n 0).fset F.pwrDieClkState n (max t (d.fget F.pwrDieClkState n))
    d.abandonScreens bt (fun k => k / 26 == n)
  else d

/-- All dies. -/
def allDies : List Nat := List.range 8

/-- ACLK_STEP: a step up of one state toward the target, about 20 µs (R455). -/
def Dev.aclkStep (d : Dev) (n : Nat) : Dev :=
  if n < 8 ∧ d.clkTarget n < d.fget F.pwrDieClkState n then
    d.fset F.pwrDieClkState n (d.fget F.pwrDieClkState n - 1)
  else d

/-- Is the device in Blitz mode, and not suspended (R456, R464)? -/
def Dev.blitz (d : Dev) : Bool := d.fon F.pwrCtrlBlitz 0 && !d.floor && !d.safe

/-- The highest Blitz state that BLITZ_MAX of the Part Record allows (R454). -/
def Dev.blitzTop (d : Dev) : Nat := min 3 ((d.sec.part.map (fun r => r.blitzMax)).getD 0 - 36)

/-- BLITZ_STEP: with room a die rises one state every 100 µs, without it falls back at once to the Classical state (R456). CEIL and
the thermal state bound it; a CEIL of A0 bounds no Blitz state (DEDUCED, log entry 38). -/
def Dev.blitzStep (bt : Nat) (d : Dev) (n : Nat) (room : Bool) : Dev :=
  if 8 ≤ n ∨ d.blitz = false then d
  else if ¬room then d.clkDown bt n true
  else if (match mapFind? d.pow.blitzAt n with
      | some t => decide (bt < t + 100000)
      | none => false) then d
  else
    let st := d.fget F.pwrDieClkState n
    let low := max (mapGet 0 d.pow.hot n) (d.fget F.pwrDieClkCeil n)
    let up := d.fget F.pwrDieClkBlitzStep n
    let d := d.modPow (fun z => { z with blitzAt := mapPut z.blitzAt n bt })
    if low < st then d.fset F.pwrDieClkState n (st - 1)
    else if st = 0 ∧ low = 0 ∧ up < d.blitzTop then d.fset F.pwrDieClkBlitzStep n (up + 1)
    else d

/-! ### Sharing the cap (R457 to R459) -/

/-- The compute model, in half watts; the states that the table does not list are interpolated between their neighbours (R457;
DEDUCED, log entry 39). -/
def modelHalfW (k : Nat) : Nat :=
  ([660, 600, 548, 500, 456, 418, 380, 345, 310, 280, 250, 220, 190, 160, 130, 100][k]?).getD 100

/-- The highest state whose power fits a die's budget, given in W times the number of dies (R456). -/
def fitState (budget dies : Nat) : Nat := ((List.range 15).find? (fun k => decide (modelHalfW k * dies ≤ 2 * budget))).getD 15

/-- The package power ceiling (R374, R391). -/
def Dev.powerW (d : Dev) : Nat := if d.safe then 2000 else (d.sec.part.map (fun r => r.powerW)).getD 2000

/-- The effective cap (R458): a member that has had no grant for 3 epochs uses LOCAL_W in the place of one (R463). -/
def Dev.effCap (d : Dev) : Nat :=
  let c := min d.powerW (d.fget F.pwrCapCapW 0)
  if d.fon F.pwrEpochEn 0 then
    if 3 ≤ d.fget F.pwrGrantMissed 0 then min c (d.fget F.pwrCapLocalW 0)
    else if d.fget F.pwrGrantCapW 0 = 0 then c else min c (d.fget F.pwrGrantCapW 0)
  else c

/-- A PWR payload (R369). -/
def pwrPayload (kind group epoch slack power cap bt : Nat) : List Byte :=
  leBytes 1 kind ++ leBytes 1 0 ++ leBytes 2 group ++ leBytes 4 epoch ++ leBytes 4 slack ++ leBytes 2 power ++ leBytes 2 cap ++
    leBytes 8 bt ++ leBytes 8 0

/-- A PWR packet of the partition with die 0, sent once on the lowest-numbered UP port of the route (R369). -/
def Dev.sendPwr (d : Dev) (dst : Nat) (payload : List Byte) : Dev :=
  if bit (d.peer 0 dst).word0 0 then
    match (d.roundOf 0 (d.peer 0 dst).route).head? with
    | some q => d.emitPkt 0 8 q (bareHdr dst payload)
    | none => d
  else d

/-- At an epoch boundary a member reports its slack to the leader of its group, whose node firmware knows; a leader grants every
member that reported a cap of firmware's choosing (R462; log entry 40). -/
def Dev.pwrReports (bt : Nat) (d : Dev) (slack : Nat) : Dev :=
  if d.fon F.pwrEpochEn 0 then
    let group := d.fget F.pwrEpochGroup 0
    let no := d.pow.epochNo
    if d.fon F.pwrEpochLeader 0 then
      let ms := d.pow.reports
      let k := d.free
      let d := (d.took ms.length).modPow (fun z => { z with reports := [] })
      ms.zipIdx.foldl (fun d m => d.sendPwr m.1.1 (pwrPayload 2 group no 0 0 (Config.freeNat (k + m.2) % 65536) bt)) d
    else d.sendPwr (Config.budgetLeader group) (pwrPayload 1 group no slack (d.fget F.pwrTelemPkgW 0) 0 bt)
  else d

/-- A grant that has arrived is applied; an epoch without one is counted (R463). -/
def Dev.applyGrant (d : Dev) : Dev :=
  match d.pow.grant with
  | some (w, no) =>
    let d := d.modPow (fun z => { z with grant := none })
    ((d.fset F.pwrGrantCapW 0 w).fset F.pwrGrantEpochNo 0 no).fset F.pwrGrantMissed 0 0
  | none => if d.fon F.pwrEpochEn 0 then d.fbump F.pwrGrantMissed 0 1 else d

/-- Is a die in service: its partition is not parked? -/
def Dev.dieActive (d : Dev) (n : Nat) : Bool := !d.parked (d.partOfDie n)

/-- The states of the next epoch (R456, R458, R460). The compute class gets what the other classes leave of the cap, whatever ORDER:
a class after it receives its measured power first. -/
def Dev.chooseStates (bt : Nat) (d : Dev) (base links mem cores : Nat) : Dev :=
  let live := allDies.filter d.dieActive
  let st := fitState (d.effCap - base - links - mem - cores) live.length
  let st := if d.pow.stretched then min 15 (st + 1) else st
  let d := d.modPow (fun z => { z with capState := allDies.foldl (fun m n => mapSet 0 m n (max st (d.fget F.pwrDieClkCeil n))) z.capState })
  allDies.foldl (fun d n => d.clkDown bt n (!d.blitz)) d

/-- POWER_EPOCH: the power-epoch slot fires (R459). A grant that comes in the Floor state waits for the first epoch after the
hold. -/
def Dev.powerEpoch (bt : Nat) (d : Dev) (base links mem cores adies slack : Nat) : Dev :=
  match (d.slotDue bt 8 5).bind (fun n => d.fireSlot bt 8 n 5) with
  | some d =>
    let d := d.modPow (fun z => { z with epochNo := (z.epochNo + 1) % 2 ^ 32 })
    let d := ((d.fset F.pwrTelemLinksW 0 links).fset F.pwrTelemMemW 0 mem).fset F.pwrTelemComputeW 0 (cores + adies)
    let d := if d.floor then d
      else
        let d := d.applyGrant
        if d.safe then d else d.chooseStates bt base links mem cores
    let d := d.modPow (fun z => { z with stretched := z.overCap })
    d.pwrReports bt slack
  | none => d

/-- PWR_PACKET: a report is kept for the leader, a grant for the next epoch (R462, R463, R369). -/
def Dev.pwrPacket (d : Dev) (k : Packet) : Dev :=
  let a := d.partOfDie k.port
  if 8 ≤ k.port ∨ d.fabDeaf a ∨ k.dstNode ≠ d.nodeId a then d
  else match d.hearEpoch a k.srcNode k.srcEpoch with
    | (false, d) => d
    | (true, d) =>
      let kind := listNat k.payload 0 1
      if d.fon F.pwrEpochEn 0 ∧ listNat k.payload 2 2 = d.fget F.pwrEpochGroup 0 then
        if kind = 1 ∧ d.fon F.pwrEpochLeader 0 then
          d.modPow (fun z => { z with reports := mapPut z.reports k.srcNode (listNat k.payload 8 4) })
        else if kind = 2 then d.modPow (fun z => { z with grant := some (listNat k.payload 14 2, listNat k.payload 4 4) })
        else d
      else d

/-! ### Limiter and droop (R460, R461) -/

/-- LIMITER_SAMPLE: the average of package power, each 1 µs; above the cap every die stretches its ACLK. -/
def Dev.limiterSample (d : Dev) (pkgW : Nat) : Dev :=
  let high := decide (d.effCap < pkgW)
  let d := d.fset F.pwrTelemPkgW 0 pkgW
  let d := d.modPow (fun z => { z with overCap := high, stretched := z.stretched && high })
  if high then allDies.foldl (fun d n => d.fbump F.pwrDieClkStretch n 1) d else d

/-- DROOP: ACLK of the die stretches for as long as the droop lasts. -/
def Dev.droop (d : Dev) (n us : Nat) : Dev := if n < 8 then d.fbump F.pwrDieClkStretch n us else d

/-! ### The Floor state (R464) -/

/-- Every die enters the Floor state; the entry is counted, written to the Trouble Log and delivered to firmware. -/
def Dev.enterFloor (bt : Nat) (d : Dev) : Dev :=
  let d := ((d.fset F.pwrFloorActive 0 1).fbump F.pwrFloorEntries 0 1).tlog bt 12 evFloor none
  let d := d.raise bt 1344
  allDies.foldl (fun d n => d.clkDown bt n true) d

/-- FLOOR_ENTER: PWR_ALERT_N is asserted. Before SYS_RESET_N is released it is ignored (R496). -/
def Dev.floorEnter (bt : Nat) (d : Dev) : Dev :=
  let was := d.pow.alert
  let d := d.modPow (fun z => { z with alert := true, released := none })
  if d.sec.up = false ∨ was = true then d
  else if d.floor then d.raise bt 1344
  else d.enterFloor bt

/-- PWR_ALERT_RELEASE. -/
def Dev.alertRelease (bt : Nat) (d : Dev) : Dev :=
  if d.pow.alert then (d.modPow (fun z => { z with alert := false, released := some bt })) else d

/-- FLOOR_HOLD_END: the land has stayed deasserted for HOLD_US; the dies step up by ACLK_STEP. -/
def Dev.floorHoldEnd (bt : Nat) (d : Dev) : Dev :=
  match d.pow.released with
  | some t =>
    if d.floor ∧ t + d.fget F.pwrFloorHoldUs 0 * 1000 ≤ bt then
      let d := (d.fset F.pwrFloorActive 0 0).modPow (fun z => { z with released := none })
      allDies.foldl (fun d n => d.clkDown bt n true) d
    else d
  | none => d

/-! ### Thermal control (R465, R466) -/

/-- THERMAL_STEP: the filtered value of a die's hottest sensor. At THROTTLE_C or above the die falls one state every 1 ms, 3 °C below
it rises again; a die in Blitz first falls back (R456). A value out of range is discarded and logged. -/
def Dev.thermalStep (bt : Nat) (d : Dev) (n : Nat) (tempC : Int) : Dev :=
  if 8 ≤ n then d
  else if tempC < -40 ∨ 150 < tempC then d.tlog bt 12 evSensor (some (d.partOfDie n)) n
  else
    let t := tempC.toNat
    let d := d.modPow (fun z => { z with temps := mapSet 0 z.temps n t })
    let hottest := allDies.foldl (fun m n => max m (mapGet 0 d.pow.temps n)) 0
    let d := (d.fset F.pwrThermMaxC 0 hottest).fset F.pwrThermPeakC 0 (max hottest (d.fget F.pwrThermPeakC 0))
    if d.safe = true ∨ (match mapFind? d.pow.thermAt n with
        | some x => decide (bt < x + 1000000)
        | none => false) = true then d
    else
      let lim := d.fget F.pwrThermThrottleC 0
      let h := mapGet 0 d.pow.hot n
      let up := decide (0 < d.fget F.pwrDieClkBlitzStep n)
      let h' := if lim ≤ t then (if up then h else min 15 (max h (d.fget F.pwrDieClkState n) + 1)) else if t + 3 ≤ lim then h - 1 else h
      let d := d.modPow (fun z => { z with hot := mapSet 0 z.hot n h', thermAt := mapPut z.thermAt n bt })
      d.clkDown bt n (!d.blitz || (up && decide (lim ≤ t)))

/-- THERM_TRIP: TRIP_C has been reached for 10 µs. THERM_TRIP_N stays asserted until power is removed. -/
def Dev.thermTrip (bt : Nat) (d : Dev) (tempC : Int) : Dev :=
  if d.pow.tripped ∨ tempC < (d.fget F.pwrThermTripC 0 : Int) then d
  else
    let d := (d.emit (.pin pinThermTrip false)).tlog bt 12 evTrip none 0
    d.modPow (fun z => { z with tripped := true })

/-! ### Domains and parking (R450 to R453) -/

/-- A domain is powered: starts and claims that wait for it go on (R451). -/
def Dev.domainUp (bt : Nat) (d : Dev) (n : Nat) : Dev :=
  let d := d.modPow (fun z => { z with off := listDel z.off n, rising := listDel z.rising n })
  if 96 ≤ n ∧ n < 109 then
    let mine := fun (s : Nat × Word × Word) => (d.coreOf s.1).any (fun k => coreDomain k == n)
    let go := d.cpx.starting.filter mine
    let d := d.modCpx (fun z => { z with starting := z.starting.filter (fun s => !mine s) })
    go.foldl (fun d s => d.startHart s.1 s.2.1 (BitVec.ofNat 64 s.1) s.2.2) d
  else
    (((List.range 26).map (fun i => 26 * (n / 12) + i)).filter (fun k => ceDomain k == n)).foldl
      (fun d k =>
        if (d.ce k).st = .spareFree ∧ d.safe = false then
          let d := d.releaseSpare bt k
          if (d.ce k).st = .spareFree ∧ d.res.toScreen.contains k then d.beginScreen bt k false else d
        else d) d

/-- DOMAIN_POWER_UP: about 50 µs for an engine group, 80 µs for a core cluster. -/
def Dev.domainPowerUp (bt : Nat) (d : Dev) (n : Nat) : Dev := if d.pow.rising.contains n then d.domainUp bt n else d

/-- The domains of a parked partition: engine groups, slices and Sequence Engines of its dies (R450, R452). -/
def Dev.parkDomains (d : Dev) (a : Nat) : List Nat :=
  (List.range (8 * d.dies a)).map (fun i => 12 * (a + i / 8) + i % 8)

/-- The core clusters whose active cores all belong to parked partitions, one of them `a` (R20, R452). -/
def Dev.parkClusters (d : Dev) (a : Nat) : List Nat :=
  (List.range 13).filter (fun j =>
    let hs := (List.range 8).filterMap (fun i => (d.core (8 * j + i)).logical)
    hs.any (fun h => d.partOfHart h == a) && hs.all (fun h => d.parked (d.partOfHart h)))

/-- Is a partition idle in the sense of R23: no admitted context and no attached ring pair? A pair counts as attached in every state
but DETACHED (DEDUCED, log entry 124). -/
def Dev.partIdle (d : Dev) (a : Nat) : Bool :=
  !d.admitted a && !(d.ring.pairs.any (fun p => p.2.st ≠ .detached && d.pairPart p.1 == a))

/-- May the engine groups of a partition be gated (R87): every CE of its dies WITHHELD and empty, SPARE_FREE or MAPPED_OUT? -/
def Dev.groupsIdle (d : Dev) (a : Nat) : Bool :=
  (List.range (26 * d.dies a)).all (fun i =>
    let k := 26 * a + i
    match (d.ce k).st with
    | .withheld => (d.resident k).isEmpty
    | .spareFree => true
    | .mappedOut => true
    | .gated => true
    | .active => false
    | .spareHeld => false)

/-- May a partition be parked (R452)? Parking asks for the gating of its engine groups, so R87 must allow that (R451; DEDUCED, log entry
109). -/
def Dev.parkConflict (d : Dev) (a : Nat) : Bool :=
  !d.partIdle a || !d.groupsIdle a || mapHas d.tours a || d.res.clearing.contains a ||
    (d.parkDomains a ++ (List.range 13).map (96 + ·)).any (fun n => d.pow.rising.contains n &&
      (decide (n < 96) || (List.range 8).any (fun i => ((d.core (8 * (n - 96) + i)).logical).any (fun h => d.partOfHart h == a))))

/-- A partition is parked: its harts stop, its caches are written back (memory is held as coherent agents see it) and return empty
with its carve-out (R453; DEDUCED, log entry 154), its domains are gated. -/
def Dev.parkPart (d : Dev) (a : Nat) : Dev :=
  let d := ((List.range 96).filter (fun h => d.partOfHart h == a)).foldl (fun d h => d.stopHart h) d
  let d := (d.modSec (fun z => { z with osRuns := listDel z.osRuns a })).modCoh (fun z => { z with dir := mapKeep z.dir (fun k _ => !d.hbmAddr a (64 * k)) })
  let d := d.clearRb a
  let off := d.parkDomains a ++ (d.parkClusters a).map (96 + ·)
  let d := d.modPow (fun z => { z with off := off.foldl listAdd z.off })
  d.fset F.pwrParkState 0 (d.fget F.pwrParkState 0 ||| 2 ^ partNum d.layout a)

/-- A partition is unparked: its domains are powered, every slot of its dies is CLOSED, and firmware restarts its OS (R453), unless a
reset that is under way starts it at its end. -/
def Dev.unparkPart (bt : Nat) (d : Dev) (a : Nat) : Dev :=
  let d := (d.parkDomains a).foldl (fun d n => d.domainUp bt n) d
  let d := d.modSeq (fun z => { z with slots := mapKeep z.slots (fun s _ => d.partOfSlot s != a) })
  let d := d.fset F.pwrParkState 0 (d.fget F.pwrParkState 0 &&& (255 - 2 ^ partNum d.layout a))
  if d.quiet a then d else d.restartOs bt a

/-- A write of `PWR.PARK`: bits that rise park partitions, bits that fall unpark them. -/
def Dev.parkWrite (bt : Nat) (d : Dev) (p : Party) (v : Word) : Dev :=
  let old := d.fget F.pwrParkReq 0
  let new := d.fwould p v F.pwrParkReq 0
  let up := (List.range 8).filter (fun i => bit new i && !bit old i)
  let down := (List.range 8).filter (fun i => bit old i && !bit new i)
  d.regWrite p .pwrPark 0 v
    (verdict (up.any (fun i => (partAt d.layout i).isNone))
      (up.any (fun i => match partAt d.layout i with
        | some a => d.parkConflict a
        | none => false)))
    (fun d =>
      let d := up.foldl (fun d i => match partAt d.layout i with
        | some a => d.parkPart a
        | none => d) d
      down.foldl (fun d i => match partAt d.layout i with
        | some a => d.unparkPart bt a
        | none => d) d)

/-! ### Withholding a CE (R86) -/

/-- A write of `CE.CTRL`. A CE hung in an episode stays WITHHELD (R417). A cleared WITHHOLD powers the CE's group up (R451). -/
def Dev.ceCtrlWrite (d : Dev) (p : Party) (k : Nat) (v : Word) : Dev :=
  let old := d.fget F.ceCtrlWithhold k
  let new := d.fwould p v F.ceCtrlWithhold k
  let st := (d.ce k).st
  let hung := d.res.episodes.any (fun e => e.2.hung.contains k)
  d.regWrite p .ceCtrl k v
    (verdict (decide (208 ≤ k) || (decide (new ≠ old) && st != .active && st != .withheld)) (decide (new ≠ old) && hung))
    (fun d =>
      let d := if bit v.toNat 5 then d.clearCounters .ceSqcStat k else d
      if new = 1 ∧ st = .active then d.modCe k (fun c => { c with st := .withheld })
      else if new = 0 ∧ old = 1 ∧ st = .withheld ∧ (d.ce k).logical.isSome then
        let d := d.modCe k (fun c => { c with st := .active })
        if d.domOn (ceDomain k) then d
        else d.modPow (fun z => { z with rising := listAdd z.rising (ceDomain k) })
      else d)

/-! ### Registers of the power block (R467) -/

/-- A write of `PWR.CTRL`: ORDER 6 and 7 and Blitz in the Safe configuration are refused. -/
def Dev.pwrCtrlWrite (d : Dev) (p : Party) (v : Word) : Dev :=
  d.regWrite p .pwrCtrl 0 v
    (verdict (decide (5 < d.fwould p v F.pwrCtrlOrder 0) || (d.safe && d.fwould p v F.pwrCtrlBlitz 0 == 1)) false)
    (fun d => if bit v.toNat 4 then
        ([(RegName.pwrFloor, 0), (.pwrGrant, 0)] ++ allDies.map (fun n => (RegName.pwrDieClk, n))).foldl
          (fun d (r : RegName × Nat) => d.clearCounters r.1 r.2) d
      else d)

/-- A write of `PWR.CAP`: 1,200 W to POWER_W. -/
def Dev.pwrCapWrite (d : Dev) (p : Party) (v : Word) : Dev :=
  let bad := fun (w : Nat) => decide (w < 1200) || decide (d.powerW < w)
  d.regWrite p .pwrCap 0 v (verdict (bad (d.fwould p v F.pwrCapCapW 0) || bad (d.fwould p v F.pwrCapLocalW 0)) false) id

/-- A write of `PWR.THERM`: TRIP_C no higher than TJ_TRIP_C (R374), THROTTLE_C from 60 °C to TRIP_C − 5. -/
def Dev.pwrThermWrite (d : Dev) (p : Party) (v : Word) : Dev :=
  let top := if d.safe then 95 else (d.sec.part.map (fun r => r.tjTripC)).getD 95
  let trip := d.fwould p v F.pwrThermTripC 0
  let thr := d.fwould p v F.pwrThermThrottleC 0
  d.regWrite p .pwrTherm 0 v (verdict (decide (top < trip) || decide (thr < 60) || decide (trip < thr + 5)) false) id

/-- A write of `PWR.EPOCH`: the period and the budget group. -/
def Dev.pwrEpochWrite (d : Dev) (p : Party) (v : Word) : Dev := d.regWrite p .pwrEpoch 0 v .ok id

/-! ### Meanings -/

def execPwrPacket (k : Packet) : State → Host.Outcome State Fault Refusal := onDev (fun _ d => d.pwrPacket k)
def execFloorEnter : State → Host.Outcome State Fault Refusal := onDev (fun bt d => d.floorEnter bt)
def execFloorHoldEnd : State → Host.Outcome State Fault Refusal := onDev (fun bt d => d.floorHoldEnd bt)
def execPwrAlertRelease : State → Host.Outcome State Fault Refusal := onDev (fun bt d => d.alertRelease bt)
def execThermalStep (die : Nat) (tempC : Int) : State → Host.Outcome State Fault Refusal :=
  onDev (fun bt d => d.thermalStep bt die tempC)
def execThermTrip (tempC : Int) : State → Host.Outcome State Fault Refusal := onDev (fun bt d => d.thermTrip bt tempC)
def execPowerEpoch (base links mem cores adies slackUs : Nat) : State → Host.Outcome State Fault Refusal :=
  onDev (fun bt d => d.powerEpoch bt base links mem cores adies slackUs)
def execLimiterSample (pkgW : Nat) : State → Host.Outcome State Fault Refusal := onDev (fun _ d => d.limiterSample pkgW)
def execDroop (die us : Nat) : State → Host.Outcome State Fault Refusal := onDev (fun _ d => d.droop die us)
def execBlitzStep (die : Nat) (room : Bool) : State → Host.Outcome State Fault Refusal := onDev (fun bt d => d.blitzStep bt die room)
def execAclkStep (die : Nat) : State → Host.Outcome State Fault Refusal := onDev (fun _ d => d.aclkStep die)
def execPark (p : Party) (v : Word) : State → Host.Outcome State Fault Refusal := onDev (fun bt d => d.parkWrite bt p v)
def execUnpark (p : Party) (v : Word) : State → Host.Outcome State Fault Refusal := onDev (fun bt d => d.parkWrite bt p v)
def execDomainPowerUp (n : Nat) : State → Host.Outcome State Fault Refusal := onDev (fun bt d => d.domainPowerUp bt n)
def execWithhold (p : Party) (ce : Nat) (v : Word) : State → Host.Outcome State Fault Refusal :=
  onDev (fun _ d => d.ceCtrlWrite p ce v)

end Sys2Proof.Machine
end

