-- ==== Sys2Proof/Machine/Boot.lean ====
section
/-! DEFINITION. Start-up and firmware (chapter 17): cold start from the records in flash, the boot mailbox, the firmware image and its
live replacement, memory initialisation, resident OS loads, and the flash. -/

namespace Sys2Proof.Machine

/-! ### Records (R388, R390, R392) -/

/-- Is a Part Record valid on a chip with the identity given (R390)? -/
def partValid (r : PartRecord) (identity : Option (BitVec 384)) : Bool :=
  r.sig = .valid && identity == some r.deviceId && !r.reserved

/-- The Part Record in force after a cold start. -/
def SecSt.partInForce (s : SecSt) (identity : Option (BitVec 384)) : Option PartRecord :=
  if s.flashGone then none else s.flash.part.filter (fun r => partValid r identity)

/-- The Owner Record in force: its SERIAL is the valid Part Record's (R392). -/
def SecSt.ownerInForce (s : SecSt) (part : Option PartRecord) : Option OwnerRecord :=
  match part, s.flash.owner with
  | some r, some o => if o.sig = .valid ∧ o.serial = r.serial then some o else none
  | _, _ => none

/-! ### Which unit serves which number (R19, R84) -/

/-- What a unit is after the assignment: in service with a number, a free spare, or mapped out. -/
inductive Served where
  | number (n : Nat)
  | spare
  | out
  deriving DecidableEq, Repr

/-- The assignment of R19 and R84 over units in ascending order: those not named as spares take the numbers from `base` in order; each
of them that is mapped out gives its number to the lowest spare that is neither mapped out nor used. -/
def served (units spares : List Nat) (out : Nat → Bool) (base u : Nat) : Served :=
  let normals := (units.filter (fun x => !spares.contains x)).zipIdx
  let lost := (normals.filter (fun x => out x.1)).map (fun x => base + x.2)
  let free := (units.filter (fun x => spares.contains x && !out x))
  if out u then .out
  else if spares.contains u then
    match lost[free.idxOf u]? with
    | some n => .number n
    | none => .spare
  else match normals.find? (fun x => x.1 == u) with
    | some x => .number (base + x.2)
    | none => .out

/-- Spares and mapped-out units of the Part Record; in the Safe configuration those of R391. -/
def ceSparesOf (r : Option PartRecord) (die : Nat) : List Nat :=
  match r with
  | some r => match r.ceSpares[die]? with
    | some (x, y) => [26 * die + x, 26 * die + y]
    | none => []
  | none => [26 * die + 20, 26 * die + 25]
def coreSparesOf (r : Option PartRecord) : List Nat :=
  match r with
  | some r => r.coreSpares
  | none => (List.range 8).map (fun j => 8 * j + 7)

/-- Every CE as the Part Record assigns it. -/
def Dev.assignCes (d : Dev) (r : Option PartRecord) : Dev :=
  let out := fun (k : Nat) => match r with
    | some r => r.ceMapout.contains k
    | none => false
  (List.range 208).foldl (fun d k =>
    let die := k / 26
    let c : Ce := match served ((List.range 26).map (fun i => 26 * die + i)) (ceSparesOf r die) out (24 * die) k with
      | .number n => { st := .active, logical := some n }
      | .spare => { st := .spareFree, logical := none }
      | .out => { st := .mappedOut, logical := none }
    d.setCe k c) d

/-- Every core as the Part Record assigns it. -/
def Dev.assignCores (d : Dev) (r : Option PartRecord) : Dev :=
  let out := fun (k : Nat) => match r with
    | some r => r.coreMapout.contains k
    | none => false
  (List.range 104).foldl (fun d k =>
    d.setCore k (match served (List.range 104) (coreSparesOf r) out 0 k with
      | .number n => { st := .stopped, logical := some n }
      | .spare => { st := .spareFree, logical := none }
      | .out => { st := .mappedOut, logical := none })) d

/-- A map-out record of a CE (R84, R442): its number goes to the spare that the record names. A spare that serves already, which only
a castling without a record can explain, gives way to the die's lowest free one (log entry 35). -/
def Dev.remapCe (d : Dev) (k j : Nat) : Dev :=
  let to_ := if (d.ce j).st = .spareFree ∧ j / 26 = k / 26 then some j
    else if j = 0xFFFFFFFF then none else d.spareOf (k / 26)
  match (d.ce k).logical, to_ with
  | some n, some j => (d.setCe k { st := .mappedOut, logical := none }).setCe j { st := .active, logical := some n }
  | _, _ => d.setCe k { st := .mappedOut, logical := none }

/-- A map-out record of a core (R19, R442). -/
def Dev.remapCore (d : Dev) (k j : Nat) : Dev :=
  let to_ := if (d.core j).st = .spareFree then some j else if j = 0xFFFFFFFF then none else d.spareCore k
  match (d.core k).logical, to_ with
  | some h, some j => (d.setCore k { st := .mappedOut, logical := none }).setCore j { st := .stopped, logical := some h }
  | _, _ => d.setCore k { st := .mappedOut, logical := none }

/-! ### Repairs (R294, R390, R442) -/

/-- A failed walker is castled to its group's spare, or its group runs with 15 (R312, R447). -/
def Dev.walkerOut (d : Dev) (g : Nat) : Dev :=
  d.modXlat (fun _ => if d.xlat.spareUsed.contains g then { d.xlat with walkersLost := mapSet 0 d.xlat.walkersLost g (mapGet 0 d.xlat.walkersLost g + 1) }
      else { d.xlat with spareUsed := d.xlat.spareUsed ++ [g] })

/-- Apply a repair to a unit, by the kinds of the unit history. Units of lanes, ways and walkers are numbered 16 per port, link, slice
or walker group (log entry 41). -/
def Dev.applyRepair (d : Dev) (kind u : Nat) : Dev :=
  match kind with
  | 3 => if u / 16 < 8 then
      let x := d.fabPort (u / 16)
      d.setFabPort (u / 16) { failed := listAdd x.failed (u % 16), spareFor := x.spareFor.or (some (u % 16)) } else d
  | 4 => if u / 16 < 16 then
      d.fset F.kioLinkStatusSpareUsed (u / 16) (d.fget F.kioLinkStatusSpareUsed (u / 16) ||| 2 ^ (u % 16)) else d
  | 5 => if d.coh.ways.contains (u / 16, u % 16) then d.modCoh (fun z => { z with short := z.short ++ [(u / 16, u % 16)] })
      else d.modCoh (fun z => { z with ways := z.ways ++ [(u / 16, u % 16)] })
  | 6 => d.walkerOut (u / 16)
  | 7 => d.fbump F.hbmcChStatusLanesUsed u 1
  | 8 => d.fbump F.hbmcChStatusRowsRepaired u 1
  | 9 => d.fset F.ddrcChStatusSpareLanes u (min 2 (d.fget F.ddrcChStatusSpareLanes u + 1))
  | _ => d

/-- Apply a map-out record (R447): a unit with no spare left runs degraded; a channel is retired. -/
def Dev.applyMapOut (d : Dev) (r : HistRec) : Dev :=
  match r.kind with
  | 1 => d.remapCe r.unit r.value
  | 2 => d.remapCore r.unit r.value
  | 5 => d.applyRepair 5 r.unit
  | 6 => d.applyRepair 6 r.unit
  | 10 => if r.unit < 1024 then d.fset F.hbmcChStatusState r.unit 2 else d
  | _ => d

/-- The history kind of a Part Record repair. -/
def repairKind (kind : Nat) : Nat :=
  match kind with
  | 1 => 7
  | 2 => 4
  | 3 => 3
  | 4 => 5
  | _ => 6

/-- What the Part Record and the unit history repair and map out, the Part Record first, the history in the order written (R444). -/
def Dev.applyRecords (d : Dev) (r : PartRecord) : Dev :=
  let d := r.hbmRetired.foldl (fun d c => if c < 1024 then d.fset F.hbmcChStatusState c 2 else d) d
  let d := r.repairs.foldl (fun d x => d.applyRepair (repairKind x.1) x.2.1) d
  d.res.history.foldl (fun d x => if x.typ = 2 then d.applyRepair x.kind x.unit else if x.typ = 3 then d.applyMapOut x else d) d

/-! ### Cold start (R390 to R398, R494) -/

/-- The registers that take their values from the Part Record, or the fixed values of the Safe configuration (R391, R407, R467). -/
def Dev.recordRegs (d : Dev) (r : Option PartRecord) : Dev :=
  let w := (r.map (fun r => r.powerW)).getD 2000
  let tj := (r.map (fun r => r.tjTripC)).getD 95
  let d := ((d.fset F.secIdPart 0 ((r.map (fun r => r.part)).getD 0)).fset F.secIdStepping 0
    ((r.map (fun r => r.stepping)).getD 0)).fset F.secSerialSerial 0 ((r.map (fun r => r.serial)).getD 0)
  (((d.fset F.pwrCapCapW 0 w).fset F.pwrCapLocalW 0 w).fset F.pwrThermTripC 0 tj).fset F.pwrThermThrottleC 0 (tj - 10)

/-- COLD_START: steps 1 to 5 of a cold start, at the release of SYS_RESET_N. The security engine gives each node a random epoch
(R366): free values. -/
def Dev.coldStart (d : Dev) (pufOk : Bool) (identity : BitVec 384) : Dev :=
  let id_ := if pufOk ∧ d.sec.flashGone = false then some identity else none
  let r := d.sec.partInForce id_
  let safe := r.isNone
  let d := d.modSec (fun z => { z with up := true, identity := id_, part := r, owner := z.ownerInForce r })
  let k := d.free
  let d := (List.range 8).foldl (fun d i => d.fset F.igfNodeEpoch i (Config.freeNat (k + i) % 2 ^ 32)) (d.took 8)
  let d := d.recordRegs r
  let flash := !safe && d.sec.flash.image.isSome
  let d := d.setBoot (if flash then 3 else 1) 0 safe false
  let d := d.modSec (fun z => { z with verifying := if flash then some 0 else none })
  let d := (d.assignCes r).assignCores r
  let d := match r with
    | some r => (d.applyRecords r).histAdd 0 4 0 0 0
    | none => d
  if d.pow.alert then d.enterFloor 0 else d

/-! ### The boot mailbox (R397, R401, R404) -/

/-- Has a port's link trained? Until then it reaches no register of BAR0. -/
def Dev.linkUp (d : Dev) (q : Nat) : Bool := d.fget F.hptPortStatusLink q == 2

/-- Does another port hold the claim? -/
def Dev.claimedElse (d : Dev) (q : Nat) : Bool := (List.range 4).any (fun r => r != q && d.fon F.secBootStatusClaimed r)

/-- Every claim ends. -/
def Dev.unclaim (d : Dev) : Dev := (List.range 4).foldl (fun d q => d.fset F.secBootStatusClaimed q 0) d

/-- The verdict on a write of `SEC.BOOT_CMD`. The length is checked at the GO, which gives the target (DEDUCED, log entry 42). -/
def Dev.bootVerdict (d : Dev) (q : Nat) (v : Word) : Verdict :=
  let target := bits v.toNat 2 1
  let part := bits v.toNat 10 8
  let st := d.fget F.secBootStatusState q
  let len := d.fget F.secBootLenBytes q
  let badLen := decide (len < 17112) || decide (4211352 < len)
  let bad := target == 3 || (target != 2 && part != 0)
  if ¬bit v.toNat 0 then verdict bad false
  else if ¬d.mgmtPort q then .conflict
  else match target with
    | 0 => verdict (bad || badLen || (st != 1 && st != 4)) (d.claimedElse q)
    | 1 => verdict (bad || badLen || st != 5) (d.claimedElse q || st == 6 || d.fon F.secFwStateUpdating 0)
    | 2 => match partAt d.layout part with
      | some a => verdict (st != 5 || !d.sec.memReady || d.quiet a || d.res.clearing.contains a)
          (!d.boundTo q a || mapHas d.sec.osLoads a || d.sec.osRuns.contains a)
      | none => .refuse
    | _ => .refuse

/-- May firmware take a table for the partition at die `a` whose image has `n` bytes (R232, R404)? Without a valid Owner Record no
table is valid (R392). -/
def Dev.tableOk (d : Dev) (a n : Nat) (t : Handoff) : Bool :=
  t.sig = .valid && d.sec.owner.isSome && (t.partition == partNum d.layout a || t.partition == 0xFF) && t.imageSize == n &&
    t.loadOff % 2097152 == 0 && decide (t.loadOff + n ≤ d.ddrSize a) && (d.fwiFor t).isSome

/-- An OS load: the table is verified, and the image copied to the partition's DDR at LOAD_OFF; `image` are the bytes the port reads.
A bundle without a table uses the flash's (R404). -/
def Dev.loadOs (d : Dev) (q a : Nat) (table : Option Handoff) (image : List Byte) : Dev :=
  let len := d.fget F.secBootLenBytes q
  let n := if table.isSome then len - 17176 else len
  match table.or (if d.sec.flashGone then none else mapFind? d.sec.flash.tables (partNum d.layout a)) with
  | some t =>
    if d.tableOk a n t ∧ image.length = n then
      let d := d.modSec (fun z => { z with osLoads := mapPut z.osLoads a { port := q, table := t } })
      d.memPut (osBase a t) image
    else (d.noOs a 10).fset F.secBootStatusErr q 10
  | none => (d.noOs a 10).fset F.secBootStatusErr q 10

/-- A write of `SEC.BOOT_CMD` of a port. -/
def Dev.bootCmdWrite (d : Dev) (p : Party) (q : Nat) (v : Word) (table : Option Handoff) (image : List Byte) : Dev :=
  d.regWrite p .secBootCmd q v (d.bootVerdict q v) (fun d =>
    if ¬bit v.toNat 0 then d
    else match bits v.toNat 2 1 with
      | 0 =>
        let d := (d.setBoot 2 0 d.safe false).fset F.secBootStatusClaimed q 1
        d.modSec (fun z => { z with verifying := some 1, flashWait := none })
      | 1 =>
        let d := (d.setBoot 6 0 d.safe d.sec.fromFlash).fset F.secBootStatusClaimed q 1
        d.modSec (fun z => { z with verifying := some 2 })
      | _ => match partAt d.layout (bits v.toNat 10 8) with
        | some a => d.loadOs q a table image
        | none => d)

/-- The host's GO on a port whose link has trained. -/
def Dev.bootGo (d : Dev) (q : Nat) (v : Word) (table : Option Handoff) (image : List Byte) : Dev :=
  if q < 4 ∧ d.linkUp q then d.bootCmdWrite (.host q) q v table image else d

/-- A write of `SEC.BOOT_SRC`: refused while CLAIMED. -/
def Dev.bootSrcWrite (d : Dev) (p : Party) (q : Nat) (v : Word) : Dev :=
  d.regWrite p .secBootSrc q v (verdict (d.fon F.secBootStatusClaimed q) false) id

/-- PORT_LINK_TRAINED: the port is UP and its mailbox open. A link trains once SYS_RESET_N has been released (R494). -/
def Dev.linkTrained (d : Dev) (q width rate : Nat) : Dev :=
  if q < 4 ∧ d.sec.up ∧ [1, 2, 4, 8].contains width then
    (((d.fset F.hptPortStatusLink q 2).fset F.hptPortStatusWidth q width).fset F.hptPortStatusRate q rate).fset
      F.hptPortStatusL0pWidth q width
  else d

/-- A claiming port's link goes down during the read: the claim ends and nothing is kept (R397); an OS load ends, and what it has copied
is zero-filled (R404). -/
def Dev.claimLost (d : Dev) (q : Nat) : Dev :=
  let d := if d.fon F.secBootStatusClaimed q then
      let d := match d.sec.verifying with
        | some 1 => d.setBoot 1 0 d.safe false
        | _ => d.setBoot 5 0 d.safe d.sec.fromFlash
      let d := (d.fset F.secBootStatusErr q 6).unclaim
      d.modSec (fun z => { z with verifying := none })
    else d
  (d.sec.osLoads.filter (fun o => o.2.port == q)).foldl (fun d o =>
    let d := d.modSec (fun z => { z with osLoads := mapErase z.osLoads o.1 })
    ((d.memClear (osBase o.1 o.2.table) o.2.table.imageSize).noOs o.1 6).fset F.secBootStatusErr q 6) d

/-- LINK_DOWN, surprise down included: the port's link and its IDE streams are down, and its pairs freeze (R349). -/
def Dev.linkDown (bt : Nat) (d : Dev) (q : Nat) : Dev :=
  if 4 ≤ q then d
  else
    let d := [F.hptPortStatusLink, F.hptPortStatusWidth, F.hptPortStatusRate, F.hptPortStatusL0pWidth, F.hptPortStatusLinkIde,
      F.hptPortStatusSelIde].foldl (fun d f => d.fset f q 0) d
    (d.claimLost q).freezePort bt q

/-! ### Firmware images (R396, R398, R401) -/

/-- ERR of a verdict on an image (R388, R396); 0 for a valid one. -/
def imageErr (s : SigResult) (h : ImageHdr) : Nat :=
  match s with
  | .valid => if 4194304 < h.size ∨ h.size < 64 then 4 else 0
  | .rsaFailed => 1
  | .slhFailed => 2
  | .unknownKey => 3
  | .badHeader => 4

/-- Firmware starts on all four pairs; measurement 4 is fixed, and the Kiorn links train. -/
def Dev.startFirmware (bt : Nat) (d : Dev) (h : ImageHdr) (flash : Bool) : Dev :=
  let bank := d.fget F.secFwStateActive 0
  let d := d.unclaim
  let d := d.modSec (fun z => { z with
    started := true, verifying := none, flashWait := none, fromFlash := flash, meas4 := h.digest
    banks := mapPut z.banks bank h })
  let d := d.modArb (fun z => { z with pairs := (List.range 4).map (fun k => (k, ({ lastKick := bt } : ArbPair))) })
  let d := (List.range 4).foldl (fun d k => d.fset F.arbPairStatusState k pairRunning) (d.fset F.secFwStateSvn 0 h.svn)
  let d := (List.range 16).foldl (fun d l =>
    if d.fget F.kioLinkStatusState l = 0 ∧ d.fget F.kioLinkStatusGroupDown l ≠ 2 ^ linkGroups l - 1 then
      d.fset F.kioLinkStatusState l 2 else d) d
  let d := d.idleLinks
  d.setBoot 5 0 d.safe flash

/-- Can the running image be replaced by this one (R401)? -/
def Dev.replaceable (d : Dev) (h : ImageHdr) : Bool :=
  match d.firmware? with
  | some f => decide (h.stateMin ≤ f.stateVer) && d.sec.osRuns.all (fun a =>
      let v := mapGet 0 d.cpx.fwiVer a
      h.fwiMaj == v / 256 && decide (h.fwiMinLo ≤ v % 256) && decide (v % 256 ≤ h.fwiMinHi))
  | none => false

/-- An image that may not run leaves the boot ROM in RECOVERY, with every mailbox open (R398). -/
def Dev.recovery (d : Dev) (err : Nat) : Dev :=
  let d := (d.unclaim).setBoot 4 err d.safe false
  d.modSec (fun z => { z with verifying := none, flashWait := none })

/-- IMAGE_VERIFIED: the verdict on the image being verified; a flash image is the one that the flash holds. -/
def Dev.imageVerified (bt : Nat) (d : Dev) (s : SigResult) (h : ImageHdr) : Dev :=
  match d.sec.verifying with
  | some 0 => match d.sec.flash.image with
    | some (s, h) =>
      if imageErr s h = 0 then
        let d := d.setBoot 1 0 d.safe false
        d.modSec (fun z => { z with verifying := none, flashWait := some bt })
      else d.recovery (imageErr s h)
    | none => d
  | some 1 => if imageErr s h = 0 then d.startFirmware bt h false else d.recovery (imageErr s h)
  | some _ =>
    let err := if imageErr s h ≠ 0 then imageErr s h else if d.replaceable h then 0 else 8
    let d := (d.unclaim).setBoot 5 err d.safe d.sec.fromFlash
    let d := d.modSec (fun z => { z with verifying := none })
    if err = 0 then
      let d := d.modSec (fun z => { z with staged := true, banks := mapPut z.banks (1 - d.fget F.secFwStateActive 0) h })
      d.fset F.secFwStateUpdating 0 1
    else d
  | none => d

/-- FLASH_WAIT_EXPIRY: 2 s without a host GO (R398). -/
def Dev.flashWaitExpiry (bt : Nat) (d : Dev) : Dev :=
  match d.sec.flashWait, d.sec.flash.image with
  | some t, some (_, h) => if t + 2 * 10 ^ 9 ≤ bt ∧ d.fget F.secBootStatusState 0 = 1 then d.startFirmware bt h true else d
  | _, _ => d

/-- The pair that switches next: the highest that still runs the active bank (R402). -/
def Dev.nextSwitch (d : Dev) : Option Nat :=
  ([3, 2, 1, 0]).find? (fun k => bit (d.fget F.secFwRemapPair 0) k == d.fon F.secFwStateActive 0)

/-- PAIR_SWITCH: a pair restarts on the staged image; its handlers are abandoned while its sources are redirected, and it takes them
back (R382, R402). With pair 0 the new image is the active one. -/
def Dev.pairSwitch (bt : Nat) (d : Dev) (k : Nat) : Dev :=
  if d.fon F.secFwStateUpdating 0 ∧ d.sec.staged ∧ d.nextSwitch = some k then
    let d := d.fset F.secFwRemapPair 0 (d.fget F.secFwRemapPair 0 ^^^ 2 ^ k)
    let d := (d.abandonHandlers k).setArbPair k { lastKick := bt }
    if k = 0 then
      let new := 1 - d.fget F.secFwStateActive 0
      let d := (d.fset F.secFwStateActive 0 new).fset F.secFwStateUpdating 0 0
      let d := match mapFind? d.sec.banks new with
        | some h =>
          let d := d.fset F.secFwStateSvn 0 h.svn
          d.modSec (fun z => { z with meas4 := h.digest })
        | none => d
      let d := d.modSec (fun z => { z with staged := false, fromFlash := false, replaced := (z.replaced + 1) % 2 ^ 32 })
      (List.range 4).foldl (fun d q => d.fset F.secBootStatusFromFlash q 0) d
    else d
  else d

/-! ### Memory and resident OSes (R398 steps 9 to 12, R404) -/

/-- MEMORY_INIT_DONE: the DDR channels as trained, each (GiB, DIMMs, kind, MT/s); HBM and DDR are wiped, the layout is set, and each
resident OS waits for its load, or starts from an image that is kept. -/
def Dev.memoryInitDone (bt : Nat) (d : Dev) (ddr : List (Nat × Nat × Nat × Nat)) : Dev :=
  if d.sec.started ∧ d.sec.memReady = false then
    let d := (List.range 16).foldl (fun d c =>
      let x := ddr.getD c (0, 0, 0, 0)
      let out := !d.safe && d.res.history.any (fun r => r.typ == 3 && r.kind == 9 && r.unit == c)
      let there := decide (x.1 ≠ 0)
      ((((d.fset F.ddrcChStatusState c (if there then (if out then 2 else 1) else 0)).fset F.ddrcChStatusDimms c
        (if there then x.2.1 else 0)).fset F.ddrcChStatusKind c (if there then x.2.2.1 else 0)).fset F.ddrcChStatusGib c x.1).fset
        F.ddrcChStatusMts c (if there then x.2.2.2 else 0)) d
    let d := d.modSec (fun z => { z with memReady := true })
    let d := d.fqDefaults
    let d := d.parts.foldl (fun d a => (d.wipeHbm a).fillDdr a) d
    d.parts.foldl (fun d a => (d.restartOs bt a).announceEpoch a) d
  else d

/-- OS_IMAGE_CHECKED: the copied image's SHA-384 is compared with IMAGE_DIGEST (R404). -/
def Dev.osImageChecked (bt : Nat) (d : Dev) (a : Nat) : Dev :=
  match mapFind? d.sec.osLoads a with
  | some o =>
    let d := d.modSec (fun z => { z with osLoads := mapErase z.osLoads a })
    match d.fwiFor o.table, d.imageOk a o.table with
    | some ver, true => ((d.fset F.secBootStatusErr o.port 0).setOsWait a false).startOs bt a ver o.table
    | some _, false => ((d.memClear (osBase a o.table) o.table.imageSize).noOs a 9).fset F.secBootStatusErr o.port 9
    | none, _ => ((d.memClear (osBase a o.table) o.table.imageSize).noOs a 10).fset F.secBootStatusErr o.port 10
  | none => d

/-! ### The boot flash (R387, R391, R498) -/

/-- MANAGEMENT_FLASH_WRITE: firmware writes what a management port may ask for. A write to a region marked "factory only" is refused,
except that the Safe configuration takes a Part Record that is valid for this chip (R391). -/
def Dev.flashWrite (d : Dev) (q : Nat) (w : FlashWrite) : Dev :=
  let put := fun (f : Flash) => d.modSec (fun z => { z with flash := f })
  let f := d.sec.flash
  if 4 ≤ q ∨ d.sec.started = false ∨ d.mgmtPort q = false ∨ d.sec.flashGone = true then d
  else match w with
    | .ownerRecord r => put { f with owner := some r }
    | .image s h => put { f with image := some (s, h) }
    | .handoff slot h => if slot < 8 then put { f with tables := mapPut f.tables slot h } else d
    | .partRecord r => if d.safe ∧ partValid r d.sec.identity then put { f with part := some r } else d.refuse .secCfgErr 0 false
    | .factoryRegion off =>
      if off < 0x10000 ∨ (0x20000 ≤ off ∧ off < 0x40000) then d.refuse .secCfgErr 0 false else d

/-- XSPI_TIMEOUT: the operation is abandoned and logged, and the boot ROM treats the flash as absent (R498). -/
def Dev.xspiTimeout (bt : Nat) (d : Dev) : Dev :=
  let d := d.tlog bt 15 73 none
  let d := d.modSec (fun z => { z with flashGone := true })
  if d.sec.verifying = some 0 then
    let d := d.setBoot 1 0 d.safe false
    d.modSec (fun z => { z with verifying := none })
  else d

/-! ### The end of power (R495, R496) -/

/-- What a loss of power leaves: the flash, and the level of PWR_ALERT_N, which is the tray's. -/
def Dev.lost (d : Dev) : Dev :=
  { sec := { flash := d.sec.flash }, pow := { alert := d.pow.alert }
    res := { history := d.res.history, histGen := d.res.histGen }, free := d.free, out := d.out }

/-! ### Meanings -/

def execLinkDown (port : Nat) : State → Host.Outcome State Fault Refusal := onDev (fun bt d => d.linkDown bt port)
def execPortLinkTrained (port width rate : Nat) : State → Host.Outcome State Fault Refusal :=
  onDev (fun _ d => d.linkTrained port width rate)

/-- COLD_START: Board Time is FREERUN from 0 (R66). The boot ROM runs once for a power-on. -/
def execColdStart (pufOk : Bool) (identity : BitVec 384) : State → Host.Outcome State Fault Refusal :=
  onTime (fun bt d => if d.sec.up then (bt, d) else (0, d.coldStart pufOk identity))
def execBoot (port : Nat) (v : Word) : State → Host.Outcome State Fault Refusal := onDev (fun _ d => d.bootGo port v none [])
def execStage (port : Nat) (v : Word) : State → Host.Outcome State Fault Refusal := onDev (fun _ d => d.bootGo port v none [])
def execOsLoad (port : Nat) (v : Word) (table : Option Handoff) (image : List Byte) : State → Host.Outcome State Fault Refusal :=
  onDev (fun _ d => d.bootGo port v table image)
def execImageVerified (sig : SigResult) (h : ImageHdr) : State → Host.Outcome State Fault Refusal :=
  onDev (fun bt d => d.imageVerified bt sig h)
def execFlashWaitExpiry : State → Host.Outcome State Fault Refusal := onDev (fun bt d => d.flashWaitExpiry bt)
def execPairSwitch (k : Nat) : State → Host.Outcome State Fault Refusal := onDev (fun bt d => d.pairSwitch bt k)
def execMemoryInitDone (ddr : List (Nat × Nat × Nat × Nat)) : State → Host.Outcome State Fault Refusal :=
  onDev (fun bt d => d.memoryInitDone bt ddr)
def execOsImageChecked (a : Nat) : State → Host.Outcome State Fault Refusal := onDev (fun bt d => d.osImageChecked bt a)
def execManagementFlashWrite (port : Nat) (w : FlashWrite) : State → Host.Outcome State Fault Refusal :=
  onDev (fun _ d => d.flashWrite port w)

/-- I3C_TIMEOUT: the transaction is aborted (R498); none is kept across commands. -/
def execI3cTimeout : State → Host.Outcome State Fault Refusal := onDev (fun _ d => d)
def execXspiTimeout : State → Host.Outcome State Fault Refusal := onDev (fun bt d => d.xspiTimeout bt)

/-- SYS_RESET_ASSERTED: a power cycle without power loss; the start at its release is a cold start (R496). -/
def execSysResetAsserted : State → Host.Outcome State Fault Refusal := onTime (fun _ d => (0, d.lost))

/-- POWER_REMOVED: nothing remains but the flash. -/
def execPowerRemoved : State → Host.Outcome State Fault Refusal := onTime (fun _ d => (0, d.lost))

end Sys2Proof.Machine
end

