-- ==== Sys2Proof/Machine/Sqc.lean ====
section
/-! DEFINITION. The sequencer cache (R101 to R108): lookup, misses and fills, scalar loads and stores, and parity errors. -/

namespace Sys2Proof.Machine

/-- The set of a line: 256 sets by AVA[13:6] (PRESUMED, log entry 21). -/
def sqcSet (ava : Nat) : Nat := ava / 64 % 256

/-- The line of a context that holds an address, with the instruction or the data mark (R101; log entry 22). -/
def Dev.sqcFind (d : Dev) (k c ava : Nat) (insn : Bool) : Option SqcLine :=
  (d.ce k).sqc.find? (fun l => l.ctx == c && l.ava == ava / 64 * 64 && l.insn == insn)

/-- Put a line into its set; of four ways the one filled first leaves, written back when dirty (R102; DESIGN CHOICE, log entry
21). A parity error met on it is dealt with first (R107). -/
def Dev.sqcFill (bt : Nat) (d : Dev) (k : Nat) (s : SqcLine) : Dev :=
  let old := (d.ce k).sqc.filter (fun l => sqcSet l.ava == sqcSet s.ava)
  let d := match old with
    | v :: _ => if 4 ≤ old.length then (d.sqcRecall bt k none v.same).2 else d
    | [] => d
  if (d.ctx s.ctx).ending then d else d.modCe k (fun c => { c with sqc := c.sqc ++ [s] })

/-- The page of a scalar access (R108): none when it is unmapped, malformed or remote, which ends the context. -/
def Dev.scalarPage (d : Dev) (k c ava : Nat) : Option Page × Dev :=
  if 2 ^ 56 ≤ ava then (none, d)
  else match d.translate (tlbCe k) c ava with
    | (.page p, d) => (if d.isLocal (d.partOfCtx c) p.dpa then some p else none, d)
    | (.unmapped, d) => (none, d)
    | (.malformed, d) => (none, d)

/-- Is a page being copied by a move (R202)? -/
def Dev.migrating (d : Dev) (c : Nat) (p : Page) : Bool :=
  match d.pageMove c p with
  | some (_, m) => m.begun
  | none => false

/-- A demand miss of a member (R104): one is outstanding; a second stalls the sequencer until the first fill returns. -/
def Dev.sqcMiss (d : Dev) (k l m c ava : Nat) (insn : Bool) : Dev :=
  match (d.ce k).miss with
  | some _ => d.modCe k (fun e => { e with stalled := true })
  | none =>
    let d := d.fbump F.ceSqcStatMisses k 1
    let q : SqcMiss := { ctx := c, ava := ava / 64 * 64, insn, launch := l, member := m, prefetch := d.fon F.ceCtrlPfEn k }
    (d.modCe k (fun e => { e with miss := some q })).modMember l m (fun y => { y with wait := .miss })

/-- What a scalar access finds. -/
inductive SqAns where
  | data (bs : List Byte)
  | wait
  | violation
  | poison
  deriving DecidableEq, Repr

/-- Fetch through the cache: instruction lines are allocated whatever the page's policy says (R138, R309). -/
def Dev.sqFetch (d : Dev) (k l m c pc : Nat) : SqAns × Dev :=
  match d.sqcFind k c pc true with
  | some s => (.data ((s.data.drop (pc % 64)).take 8), d)
  | none => match d.scalarPage k c pc with
    | (none, d) => (.violation, d)
    | (some p, d) => (.wait, if d.migrating c p then d else d.sqcMiss k l m c pc true)

/-- Does a page move that has begun cover an address of the context? -/
def Dev.moving (d : Dev) (c ava : Nat) : Bool :=
  d.tier.moves.any (fun m => m.2.begun && (match m.2.obj with
    | .page c' b _ => c' == c && decide (b ≤ ava) && decide (ava < b + m.2.len)
    | _ => false))

/-- A scalar load of `n` bytes (R102). While its page is being migrated it waits, whether its line is in the cache or not (R108, R202). -/
def Dev.sqLoad (d : Dev) (k l m c ava n : Nat) : SqAns × Dev :=
  match d.sqcFind k c ava false with
  | some s =>
    if d.moving c ava then (.wait, d)
    else (.data ((s.data.drop (ava % 64)).take n), d.noteIn l (s.dpa + ava % 64) n)
  | none => match d.scalarPage k c ava with
    | (none, d) => (.violation, d)
    | (some p, d) =>
      let a := p.at_ ava % 2 ^ 48
      if d.migrating c p then (.wait, d)
      else if p.cp ≠ 2 then (.wait, d.sqcMiss k l m c ava false)
      else if ¬d.bytesOpen (k / 26) a n then (.wait, d)
      else if d.poisoned (a / 8 * 8) 8 then (.poison, d)
      else (.data (memReadBytes d.mem a n), d.noteIn l a n)

/-- What a scalar store needs of its page: `data []` when it may be made (R108, R207). A promotion that the reservation cannot
cover is held on TQ0 (R317). -/
def Dev.sqWriteReady (bt : Nat) (d : Dev) (k l m c ava : Nat) : SqAns × Option Page × Dev :=
  match d.scalarPage k c ava with
  | (none, d) => (.violation, none, d)
  | (some p, d) =>
    if !p.w then (.violation, none, d)
    else match d.writeNeed bt c p with
      | (.ready, d) => (.data [], some p, d)
      | (.wait, d) => (.wait, none, d)
      | (.violation, d) => (.violation, none, d)
      | (.quota, d) =>
        let a := d.partOfCtx c
        let source := d.tqSource k 0
        (.wait, none, if d.holds a 0 source then d else
          d.holdFault { part := a, kind := 0, source, cause := 3, write := true, ctx := c, ava, bt, id := none, cmd := none,
                        lm := some (l, m) })

/-- A scalar store (R102). A shadow run writes nothing outside its Local Store (R437). -/
def Dev.sqStore (bt : Nat) (d : Dev) (k l m c ava : Nat) (bs : List Byte) (shadow : Bool) : SqAns × Dev :=
  if shadow then
    match d.scalarPage k c ava with
    | (some p, d) => (if p.w then .data [] else .violation, d)
    | (none, d) => (.violation, d)
  else match d.sqWriteReady bt k l m c ava with
    | (.data _, some p, d) =>
      let a := p.at_ ava % 2 ^ 48
      let d := d.noteOut l a bs.length
      let put := fun (s : SqcLine) =>
        { s with data := s.data.take (ava % 64) ++ bs ++ s.data.drop (ava % 64 + bs.length) }
      let mine := fun (s : SqcLine) => s.ctx == c && s.ava == ava / 64 * 64 && !s.insn
      let update := fun (d : Dev) (f : SqcLine → SqcLine) =>
        d.modCe k (fun e => { e with sqc := e.sqc.map (fun s => if mine s then f s else s) })
      match p.cp with
      | 0 => match d.sqcFind k c ava false with
        | some _ => (.data [], update d (fun s => { put s with dirty := true, dpa := a / 64 * 64 }))
        | none => (.wait, d.sqcMiss k l m c ava false)
      | 1 => (.data [], (update d put).memPut a bs)
      | _ => (.data [], d.memPut a bs)
    | (r, _, d) => (r, d)

/-- The line of a page at an address, as memory holds it now. -/
def Dev.lineOf (d : Dev) (c : Nat) (p : Page) (ava : Nat) (insn : Bool) : SqcLine :=
  let a := p.at_ ava % 2 ^ 48
  { ctx := c, ava, insn, lg := p.lg, dirty := false, dpa := a, data := memReadBytes d.mem a 64 }

/-- SQC_FILL_RETURN (R103, R104): the line of the outstanding miss is filled, and the next line of the page with it; the
member goes on, and a stall ends. `bad` names the lines of the cache that parity errors have hit since the last fill (R107). Over a Kiorn
link that is down nothing returns (R284). -/
def Dev.sqcReturn (bt : Nat) (d : Dev) (k : Nat) (bad : List (Nat × Nat × Bool)) : Dev :=
  let d := d.hitLines k bad
  match (d.ce k).miss with
  | none => d
  | some q =>
    let clear := fun (d : Dev) =>
      (d.modCe k (fun e => { e with miss := none, stalled := false })).modMember q.launch q.member
        (fun y => { y with wait := .none })
    match d.member? q.launch q.member with
    | none => clear d
    | some _ => match d.scalarPage k q.ctx q.ava with
      | (none, d) => (clear d).violation bt q.launch
      | (some p, d) =>
        if d.migrating q.ctx p then d
        else
          let s := d.lineOf q.ctx p q.ava q.insn
          if ¬d.bytesOpen (k / 26) s.dpa 64 then d
          else
            let d := clear d
            if d.poisoned s.dpa 64 then d.failLaunch q.launch .dataPoison none
            else
              let d := d.sqcFill bt k s
              let nx := q.ava + 64
              if q.prefetch ∧ p.cp ≠ 2 ∧ nx < p.ava + 2 ^ p.lg ∧ (d.sqcFind k q.ctx nx q.insn).isNone ∧
                  ¬d.poisoned (s.dpa + 64) 64 then
                d.sqcFill bt k (d.lineOf q.ctx p nx q.insn)
              else d

/-- A parity error on the line that an access of a launch finds (R107): a clean line is refetched at once and the access goes on with
it; a dirty one ends its context. The answer says whether the access goes on. -/
def Dev.sqParity (bt : Nat) (d : Dev) (k l c ava : Nat) (insn : Bool) : Bool × Dev :=
  match d.sqcFind k c ava insn with
  | none => (true, d)
  | some s =>
    if ¬s.bad then (true, d)
    else match d.badLine bt k (some l) s with
      | (false, d) => (false, d)
      | (true, d) => match d.scalarPage k c ava with
        | (some p, d) => (true, if d.migrating c p then d else d.sqcFill bt k (d.lineOf c p (ava / 64 * 64) insn))
        | (none, d) => (true, d)

/-- An access of a launch hits a line; `parity` says that a parity error hits it now. -/
def Dev.sqHit (bt : Nat) (d : Dev) (k l c ava : Nat) (parity : Bool) : Bool × Dev :=
  Dev.sqParity bt (if parity then d.hitLines k [(c, ava / 64 * 64, false)] else d) k l c ava false

/-- Write back the dirty lines of a context on a CE for a launch (R157). The answer says whether things go on (R107). -/
def Dev.sqcFlush (bt : Nat) (d : Dev) (k l c : Nat) : Bool × Dev :=
  let mine := fun (s : SqcLine) => s.ctx == c && s.dirty
  match d.badLines bt k (some l) mine with
  | (true, d) => (true, d.sqcClean k mine)
  | (false, d) => (false, d)

def execSqcFillReturn (fill : FillReturn) : State → Host.Outcome State Fault Refusal :=
  onDev (fun bt d => d.sqcReturn bt fill.ce fill.bad)

end Sys2Proof.Machine
end

