-- ==== Sys2Proof/Machine/Control.lean ====
section
/-! DEFINITION. The two instruction streams (R138 to R148), and the control stream's scalar, branch, wait and signal
instructions (R149, R150, R156, R157, R161, R164, R165). -/

namespace Sys2Proof.Machine

/-! ### Instruction fields (R147) -/

def iD (w : Nat) : Nat := bits w 51 44
def iA (w : Nat) : Nat := bits w 43 36
def iB (w : Nat) : Nat := bits w 35 28
def iC (w : Nat) : Nat := bits w 27 20
def iFC (w : Nat) : Nat := bits w 19 16
def iFN (w : Nat) : Nat := bits w 15 8
/-- FN of an IMM instruction, SZ of a MEM one, CND of a BRN one. -/
def iSel (w : Nat) : Nat := bits w 35 32
/-- The sources of a BRN instruction. -/
def brA (w : Nat) : Nat := bits w 51 44
def brB (w : Nat) : Nat := bits w 43 36
/-- IMM or OFF, sign-extended. -/
def iImm (w : Nat) : Int := ofBits 32 (bits w 31 0)

/-- Opcodes of the control stream and of cohort code (R141, R148). -/
def controlOps : List Nat :=
  [0x00, 0x01, 0x02, 0x03, 0x04, 0x05, 0x06, 0x10, 0x11, 0x12, 0x13, 0x14, 0x15, 0x16, 0x18, 0x19, 0x1A, 0x1B, 0x1C, 0x1D,
   0x1E, 0x1F, 0x80, 0x81, 0x82, 0x83, 0x90, 0x91, 0x92, 0x93, 0x94, 0x95, 0xA0, 0xA1, 0xA2, 0xA3]
def cohortOps : List Nat :=
  [0x30, 0x31, 0x32, 0x33, 0x40, 0x41, 0x42, 0x50, 0x51, 0x60, 0x61, 0x62, 0x63, 0x64, 0x70, 0x71, 0x72, 0x73, 0x74]

/-- Opcodes of the REG format, whose MOD[3:0] is reserved. -/
def regOps : List Nat :=
  [0x00, 0x06, 0x12, 0x14, 0x15, 0x16, 0x18, 0x19, 0x1A, 0x1B, 0x1C, 0x1D, 0x1E, 0x1F, 0x30, 0x32, 0x33, 0x40, 0x41, 0x42,
   0x50, 0x51, 0x64, 0x70, 0x71, 0x72, 0x74]

/-- Are the reserved bits 0, and the guard where the instruction takes none (R147)? -/
def reservedOk (w : Nat) : Bool :=
  let o := bits w 63 56
  let guarded := cohortOps.contains o && o != 0x73
  (guarded || bits w 55 52 == 0) && (!(regOps.contains o) || bits w 3 0 == 0) &&
    (!([0x80, 0x81, 0x82, 0x83].contains o) || bits w 10 0 == 0)

/-- Exception codes (R166). -/
def excIllegal : Nat := 1
def excLsRange : Nat := 2
def excAlign : Nat := 3
def excFormat : Nat := 4
def excShape : Nat := 5
def excObject : Nat := 6
def excDmaArg : Nat := 7

/-! ### Scalar registers -/

/-- A scalar register; s0 reads 0. -/
def Member.sget (y : Member) (n : Nat) : Word := if n = 0 then 0#64 else mapGet 0#64 y.s n

/-- Write a scalar register; a write to s0 is ignored. -/
def Dev.sput (d : Dev) (l m n : Nat) (v : Word) : Dev :=
  if n = 0 then d else d.modMember l m (fun y => { y with s := mapSet 0#64 y.s n v })

/-- Add an offset modulo 2^64. -/
def addOff (a : Word) (o : Int) : Nat := (a + BitVec.ofInt 64 o).toNat

/-! ### Issue -/

/-- What an instruction does: an exception; a wait, after which it is tried again; retirement with the next instruction or a
jump; an effect that ends or suspends the stream. -/
inductive Act where
  | exc (code : Nat)
  | stay (d : Dev)
  | go (d : Dev)
  | jump (pc : Nat) (d : Dev)
  | done (d : Dev)

/-- Retire a control-stream instruction. -/
def Dev.retire (bt : Nat) (d : Dev) (l m pc : Nat) : Dev :=
  d.modMember l m (fun y => { y with pc, progress := bt, wait := match y.wait with
    | .time => .none
    | .cmds => .none
    | w => w })

/-- May a member's control thread try its instruction? -/
def MWait.tries : MWait → Bool
  | .none => true
  | .time => true
  | .cmds => true
  | _ => false

/-- Carry out a control-stream instruction (R166). -/
def Dev.act (bt : Nat) (d : Dev) (l m pc : Nat) : Act → Dev
  | .exc code => d.failLaunch l .range (some (excRecord code 0 m 0xFFFF pc))
  | .stay d => d
  | .go d => d.retire bt l m ((pc + 8) % 2 ^ 64)
  | .jump t d => d.retire bt l m (t % 2 ^ 64)
  | .done d => d

/-- The control stream of a member tries the instruction word `w` at its pc, which must be what its sequencer cache holds
there. A row acts on words of its own opcode `op`; a word that no opcode of the stream names raises ILLEGAL (R141, R148). -/
def Dev.control (bt : Nat) (d : Dev) (op l m : Nat) (w : Word) (f : Launch → Member → Nat → Dev → Act) : Dev :=
  match d.launch? l, d.member? l m with
  | some x, some y =>
    if x.st = .running ∧ ¬y.ended ∧ y.wait.tries ∧ ¬(d.ce y.ce).stalled then
      match (d.sqParity bt y.ce l x.ctx y.pc true).2.sqFetch y.ce l m x.ctx y.pc with
      | (.data bs, d) =>
        let o := bits w.toNat 63 56
        if listNat bs 0 8 ≠ w.toNat then d
        else if controlOps.contains o then
          if o ≠ op then d
          else d.act bt l m y.pc (if reservedOk w.toNat then f x y w.toNat d else .exc excIllegal)
        else d.act bt l m y.pc (.exc excIllegal)
      | (.violation, d) => d.violation bt l
      | (_, d) => d
    else d
  | _, _ => d

/-- May a cohort try the word `w`: it is in Local Store at its pc, or lies in a line written since the VRUN, where the
instruction fetched is undefined (R139)? -/
def Dev.cohortWord (d : Dev) (y : Member) (pc : Nat) (w : Word) : Bool :=
  d.lsNat y pc 8 == w.toNat || (d.ce y.ce).wrote.contains ((y.lsBase * 4096 + pc) / 64)

/-- Is a cohort ready: it has not ended, and the barrier it waits at, if one, is open (R153)? -/
def Dev.cohortReady (d : Dev) (key : Nat) (q : Cohort) : Bool :=
  !q.ended && (!q.atBar || d.eng.cohorts.all (fun r => r.1 / 512 != key / 512 || r.1 == key || r.2.ended || decide (q.bars ≤ r.2.bars)))

/-- The CE and issue slot of a cohort (R92). -/
def Dev.slotOfCohort (d : Dev) (key : Nat) : Option (Nat × Nat) :=
  (mapFind? d.eng.members (key / 512)).map (fun y => (y.ce, y.slots.getD (key % 512) 0))

/-- Is it the cohort's turn: of the ready cohorts of its issue slot, has it waited longest since it last issued (R92)? -/
def Dev.slotTurn (d : Dev) (key : Nat) (q : Cohort) : Bool :=
  d.eng.cohorts.all (fun r => r.1 == key || d.slotOfCohort r.1 != d.slotOfCohort key || !d.cohortReady r.1 r.2 ||
    ((d.launch? (r.1 / 16384)).map (fun x => x.st) != some .running) || decide (q.since < r.2.since) ||
    (q.since == r.2.since && decide (key < r.1)))

/-- A cohort whose issue slot has its turn tries the instruction word `w`. -/
def Dev.cohort (bt : Nat) (d : Dev) (op l m c : Nat) (w : Word) (f : Launch → Member → Cohort → Nat → Dev → Act) : Dev :=
  match d.launch? l, d.member? l m, mapFind? d.eng.cohorts (cohortKey l m c) with
  | some x, some y, some q =>
    if x.st = .running ∧ ¬q.ended ∧ d.slotTurn (cohortKey l m c) q = true then
      let fail := fun (d : Dev) (code : Nat) => d.failLaunch l .range (some (excRecord code 1 m c q.pc))
      let o := bits w.toNat 63 56
      if x.lsSize < q.pc + 8 then fail d excLsRange
      else if ¬d.cohortWord y q.pc w then d
      else if cohortOps.contains o then
        if o ≠ op then d
        else if reservedOk w.toNat then
          let retire := fun (d : Dev) (pc : Nat) =>
            let d := d.modEng (fun z => { z with
              cohorts := mapModify z.cohorts (cohortKey l m c) (fun q => { q with pc, since := z.turn + 1 }), turn := z.turn + 1 })
            (d.modMember l m (fun y => { y with progress := bt })).fbump F.cePerfVecIssued y.ce 1
          match f x y q w.toNat d with
          | .exc code => fail d code
          | .stay d => d
          | .go d => retire d (q.pc + 8)
          | .jump t d => retire d t
          | .done d => d
        else fail d excIllegal
      else fail d excIllegal
    else d
  | _, _, _ => d

/-- A control-stream row: in cohort code its opcode is ILLEGAL (R141). -/
def Dev.controlRow (bt : Nat) (d : Dev) (op : Nat) (i : Issuer) (w : Word) (f : Nat → Nat → Launch → Member → Nat → Dev → Act) :
    Dev :=
  match i with
  | .control l m => d.control bt op l m w (f l m)
  | .cohort l m c => d.cohort bt op l m c w (fun _ _ _ _ d => .stay d)

/-- A cohort row: in the control stream its opcode is ILLEGAL (R141). -/
def Dev.cohortRow (bt : Nat) (d : Dev) (op : Nat) (i : Issuer) (w : Word)
    (f : Nat → Nat → Nat → Launch → Member → Cohort → Nat → Dev → Act) : Dev :=
  match i with
  | .control l m => d.control bt op l m w (fun _ _ _ d => .stay d)
  | .cohort l m c => d.cohort bt op l m c w (f l m c)

/-- Do all the register fields name s0 to s31 (R144)? -/
def sOk (fs : List Nat) : Bool := fs.all (fun n => decide (n < 32))

/-- Raise ILLEGAL unless a test holds. -/
def legal (ok : Bool) (a : Act) : Act := if ok then a else .exc excIllegal

/-! ### Scalar arithmetic (R149) -/

/-- `SOP` by FN, none for an FN the table does not list. -/
def scalarOp (fn : Nat) (a b : Word) : Option Word :=
  let sh := b.toNat % 64
  match fn with
  | 0x00 => some (a + b)
  | 0x01 => some (a - b)
  | 0x02 => some (a &&& b)
  | 0x03 => some (a ||| b)
  | 0x04 => some (a ^^^ b)
  | 0x05 => some (a <<< sh)
  | 0x06 => some (a >>> sh)
  | 0x07 => some (a.sshiftRight sh)
  | 0x08 => some (a * b)
  | 0x09 => some (BitVec.ofInt 64 ((a.toInt * b.toInt) / (2 : Int) ^ 64))
  | 0x0A => some (BitVec.ofNat 64 (a.toNat * b.toNat / 2 ^ 64))
  | 0x0B => some (if b = 0#64 then -1#64 else a.sdiv b)
  | 0x0C => some (if b = 0#64 then -1#64 else a / b)
  | 0x0D => some (if b = 0#64 then a else a.srem b)
  | 0x0E => some (if b = 0#64 then a else a % b)
  | 0x0F => some (if a.slt b then 1#64 else 0#64)
  | 0x10 => some (if a.ult b then 1#64 else 0#64)
  | 0x11 => some (if a.slt b then a else b)
  | 0x12 => some (if a.slt b then b else a)
  | 0x13 => some (if a.ult b then a else b)
  | 0x14 => some (if a.ult b then b else a)
  | _ => none

/-- `SOPI` by FN. -/
def scalarOpI (fn : Nat) (a : Word) (imm : Nat) : Option Word :=
  let b := BitVec.ofInt 64 (ofBits 32 imm)
  match fn with
  | 0 => scalarOp 0x00 a b
  | 1 => scalarOp 0x02 a b
  | 2 => scalarOp 0x03 a b
  | 3 => scalarOp 0x04 a b
  | 4 => scalarOp 0x05 a b
  | 5 => scalarOp 0x06 a b
  | 6 => scalarOp 0x07 a b
  | 7 => scalarOp 0x0F a b
  | 8 => some (BitVec.ofNat 64 (imm * 2 ^ 32 + a.toNat % 2 ^ 32))
  | _ => none

/-- `SBR` by CND. -/
def scalarCond (c : Nat) (a b : Word) : Option Bool :=
  match c with
  | 0 => some (a == b)
  | 1 => some (a != b)
  | 2 => some (a.slt b)
  | 3 => some (!a.slt b)
  | 4 => some (a.ult b)
  | 5 => some (!a.ult b)
  | 6 => some true
  | _ => none

/-- The size of a scalar access by SZ, and whether it is sign-extended (R150). -/
def scalarSize (store : Bool) (sz : Nat) : Option (Nat × Bool) :=
  match sz with
  | 0 => some (1, false)
  | 1 => some (2, false)
  | 2 => some (4, false)
  | 3 => some (8, false)
  | 4 => if store then none else some (1, true)
  | 5 => if store then none else some (2, true)
  | 6 => if store then none else some (4, true)
  | _ => none

/-- The register value of `n` bytes read. -/
def loadVal (n : Nat) (sign : Bool) (bs : List Byte) : Word :=
  if sign then BitVec.ofInt 64 (ofBits (8 * n) (leNat bs)) else BitVec.ofNat 64 (leNat bs)

/-- A SOP or SOPI that writes the result of an operation. -/
def Dev.putOp (d : Dev) (l m rd : Nat) : Option Word → Act
  | some v => .go (d.sput l m rd v)
  | none => .exc excIllegal

def Dev.sop (bt : Nat) (d : Dev) (i : Issuer) (w : Word) : Dev :=
  d.controlRow bt 0x00 i w (fun l m _ y w d =>
    legal (sOk [iD w, iA w, iB w]) (d.putOp l m (iD w) (scalarOp (iFN w) (y.sget (iA w)) (y.sget (iB w)))))

def Dev.sopi (bt : Nat) (d : Dev) (i : Issuer) (w : Word) : Dev :=
  d.controlRow bt 0x01 i w (fun l m _ y w d =>
    legal (sOk [iD w, iA w]) (d.putOp l m (iD w) (scalarOpI (iSel w) (y.sget (iA w)) (bits w 31 0))))

/-! ### Scalar memory (R102, R108, R150) -/

/-- A scalar access of the MEM format: register fields, SZ, alignment; then `f` with the size, the sign and the address. -/
def memForm (store : Bool) (y : Member) (w : Nat) (f : Nat → Bool → Nat → Act) : Act :=
  legal (sOk [iD w, iA w]) (match scalarSize store (iSel w) with
    | none => .exc excIllegal
    | some (n, sg) =>
      let a := addOff (y.sget (iA w)) (iImm w)
      if a % n ≠ 0 then .exc excAlign else f n sg a)

/-- What an access to global memory does with what it finds. -/
def Dev.answer (bt : Nat) (l : Nat) (r : SqAns × Dev) (f : List Byte → Dev → Act) : Act :=
  match r with
  | (.data bs, d) => f bs d
  | (.wait, d) => .stay d
  | (.violation, d) => .done (d.violation bt l)
  | (.poison, d) => .done (d.failLaunch l .dataPoison none)

def Dev.sld (bt : Nat) (d : Dev) (i : Issuer) (w : Word) (parity : Bool) : Dev :=
  d.controlRow bt 0x02 i w (fun l m x y w d =>
    memForm false y w (fun n sg a =>
      match d.sqHit bt y.ce l x.ctx a parity with
      | (false, d) => .done d
      | (true, d) => Dev.answer bt l (d.sqLoad y.ce l m x.ctx a n) (fun bs d => .go (d.sput l m (iD w) (loadVal n sg bs)))))

def Dev.sst (bt : Nat) (d : Dev) (i : Issuer) (w : Word) (parity : Bool) : Dev :=
  d.controlRow bt 0x03 i w (fun l m x y w d =>
    memForm true y w (fun n _ a =>
      match d.sqHit bt y.ce l x.ctx a parity with
      | (false, d) => .done d
      | (true, d) => Dev.answer bt l
          (d.sqStore bt y.ce l m x.ctx a (leBytes n (y.sget (iD w)).toNat) x.shadowOf.isSome) (fun _ d => .go d)))

def Dev.sldl (bt : Nat) (d : Dev) (i : Issuer) (w : Word) : Dev :=
  d.controlRow bt 0x04 i w (fun l m x y w d =>
    memForm false y w (fun n sg a =>
      if x.lsSize < a + n then .exc excLsRange else .go (d.sput l m (iD w) (loadVal n sg (d.lsRead y a n)))))

def Dev.sstl (bt : Nat) (d : Dev) (i : Issuer) (w : Word) : Dev :=
  d.controlRow bt 0x05 i w (fun _ _ x y w d =>
    memForm true y w (fun n _ a =>
      if x.lsSize < a + n then .exc excLsRange else .go (d.lsPut y a n (y.sget (iD w)).toNat)))

def Dev.samo (bt : Nat) (d : Dev) (i : Issuer) (w : Word) : Dev :=
  d.controlRow bt 0x06 i w (fun l m x y w d =>
    let n := if iFC w = 0 then 4 else 8
    let ava := (y.sget (iA w)).toNat
    let low := fun r => (y.sget r).toNat % 2 ^ (8 * n)
    legal (sOk [iD w, iA w, iB w] && decide (iFC w < 2) && decide (iFN w < 10) && (iFN w != 9 || sOk [iC w]))
      (if ava % n ≠ 0 then .exc excAlign
      else match d.sqWriteReady bt y.ce l m x.ctx ava with
        | (.data _, some p, d) =>
          let line := fun (s : SqcLine) => s.ctx == x.ctx && s.ava == ava / 64 * 64
          match d.sqcRecall bt y.ce (some l) line with
          | (false, d) => .done d
          | (true, d) =>
          let a := p.at_ ava % 2 ^ 48
          if d.poisoned a n then .done (d.failLaunch l .dataPoison none)
          else
            let old := memNat d.mem a n
            match amoOp (iFN w) n old (low (iB w)) (low (iC w)) with
            | some v =>
              let d := if x.shadowOf.isSome then d else (d.noteBoth l a n).memPut a (leBytes n v)
              .go (d.sput l m (iD w) (BitVec.ofNat 64 old))
            | none => .exc excIllegal
        | (.violation, _, d) => .done (d.violation bt l)
        | (_, _, d) => .stay d))

/-! ### Branches -/

def Dev.sbr (bt : Nat) (d : Dev) (i : Issuer) (w : Word) : Dev :=
  d.controlRow bt 0x10 i w (fun _ _ _ y w d =>
    legal (sOk [brA w, brB w]) (match scalarCond (iSel w) (y.sget (brA w)) (y.sget (brB w)) with
      | some true => .jump (addOff (BitVec.ofNat 64 y.pc) (8 * iImm w)) d
      | some false => .go d
      | none => .exc excIllegal))

def Dev.sjal (bt : Nat) (d : Dev) (i : Issuer) (w : Word) : Dev :=
  d.controlRow bt 0x11 i w (fun l m _ y w d =>
    legal (sOk [iD w])
      (.jump (addOff (BitVec.ofNat 64 y.pc) (8 * iImm w)) (d.sput l m (iD w) (BitVec.ofNat 64 (y.pc + 8)))))

def Dev.sjr (bt : Nat) (d : Dev) (i : Issuer) (w : Word) : Dev :=
  d.controlRow bt 0x12 i w (fun l m _ y w d =>
    legal (sOk [iD w, iA w])
      (let t := (y.sget (iA w)).toNat
       if t % 8 ≠ 0 then .exc excAlign else .jump t (d.sput l m (iD w) (BitVec.ofNat 64 (y.pc + 8)))))

/-! ### Cohorts (R139, R140) -/

/-- Have all cohorts of a member's current VRUN ended? -/
def Dev.cohortsDone (d : Dev) (l m : Nat) : Bool :=
  d.eng.cohorts.all (fun q => q.1 / 512 != memberKey l m || q.2.ended)

/-- The index of lane 0 of v register `r` of cohort `c`, in the CE's register file: the member's units hold its registers in order,
eight to a unit. -/
def vrfIndex (x : Launch) (y : Member) (c r : Nat) : Nat :=
  let n := (c * x.regs + r) * 32
  y.vrf.getD (n / 256) 0 * 256 + n % 256

/-- Start every cohort of a member: the uniform snapshot, v0 and predicates (R140, R142). -/
def Dev.startCohorts (d : Dev) (l m : Nat) (x : Launch) (y : Member) (at_ : Nat) : Dev :=
  let d := (List.range x.cohorts).foldl (fun d c =>
    let d := d.modEng (fun z => { z with cohorts := mapPut z.cohorts (cohortKey l m c) { pc := at_, since := z.turn } })
    let lanes := fun (v : Map Lane) =>
      (List.range 32).foldl (fun v i => mapSet 0#32 v (vrfIndex x y c 0 + i) (BitVec.ofNat 32 (c * 32 + i))) v
    d.modCe y.ce (fun e => { e with vrf := lanes e.vrf })) d
  let mine := fun (n : Nat) => decide (y.lsBase * 64 ≤ n) && decide (n < (y.lsBase + x.lsUnits) * 64)
  let d := d.modCe y.ce (fun e => { e with wrote := e.wrote.filter (fun n => !mine n) })
  d.modMember l m (fun y => { y with snap := y.s, ran := true })

def Dev.vrun (bt : Nat) (d : Dev) (i : Issuer) (w : Word) : Dev :=
  d.controlRow bt 0x13 i w (fun l m x y w d =>
    legal (sOk [iA w])
      (let a := addOff (y.sget (iA w)) (iImm w)
       if a % 8 ≠ 0 then .exc excAlign
       else if x.lsSize < a + 8 then .exc excLsRange
       else if d.cohortsDone l m then .go (d.startCohorts l m x y a)
       else .stay d))

def Dev.vwait (bt : Nat) (d : Dev) (i : Issuer) (w : Word) : Dev :=
  d.controlRow bt 0x14 i w (fun l m _ _ _ d => if d.cohortsDone l m then .go d else .stay d)

/-! ### Waits and order (R156, R157, R161, R164) -/

/-- Has a member commands that have not completed, on a queue with a ticket up to a bound, where given? -/
def Dev.cmdsLeft (d : Dev) (l m : Nat) (upTo : Option (Nat × Nat)) : Bool :=
  d.eng.cmds.any (fun c => c.2.l == l && c.2.m == m && (match upTo with
    | some (q, t) => c.2.q == q && decide (c.2.ticket ≤ t)
    | none => true))

/-- The member waits for its commands in flight. -/
def Dev.waitCmds (d : Dev) (l m : Nat) : Act := .stay (d.modMember l m (fun y => { y with wait := .cmds }))

/-- Go on after a write-back of dirty lines, unless a parity error on one has ended the context (R107). -/
def Dev.flushed (r : Bool × Dev) (f : Dev → Act) : Act := if r.1 then f r.2 else .done r.2

/-- Go on once every earlier command of the member is complete, with its context's dirty lines written back: release order
(R157, R159). -/
def Dev.released (bt : Nat) (d : Dev) (l m : Nat) (x : Launch) (y : Member) (f : Dev → Act) : Act :=
  if d.cmdsLeft l m none then d.waitCmds l m else Dev.flushed (d.sqcFlush bt y.ce l x.ctx) f

def Dev.gbar (bt : Nat) (d : Dev) (i : Issuer) (w : Word) : Dev :=
  d.controlRow bt 0x15 i w (fun l m x y _ d =>
    d.released bt l m x y (fun d => .done (d.modMember l m (fun y =>
      { y with gbars := y.gbars + 1, wait := .gbar, progress := bt }))))

/-- GBAR_COMPLETE (R161): members at their k-th barrier go on when every member has made its k-th or ended. -/
def Dev.gbarComplete (bt : Nat) (d : Dev) (l : Nat) : Dev :=
  let ms := d.membersOf l
  let ready := ms.filter (fun p => p.2.wait = .gbar && ms.all (fun q => q.2.ended || decide (p.2.gbars ≤ q.2.gbars)))
  ready.foldl (fun d p => (d.modMember l p.1 (fun y => { y with wait := .none })).retire bt l p.1 (p.2.pc + 8)) d

def Dev.endMember (bt : Nat) (d : Dev) (i : Issuer) (w : Word) : Dev :=
  d.controlRow bt 0x16 i w (fun l m _ _ _ d =>
    if d.cmdsLeft l m none then d.waitCmds l m
    else if d.cohortsDone l m then
      .done (d.modMember l m (fun y => { y with ended := true, wait := .none, progress := bt }))
    else .stay d)

def Dev.waitq (bt : Nat) (d : Dev) (i : Issuer) (w : Word) : Dev :=
  d.controlRow bt 0x18 i w (fun l m _ y w d =>
    legal (sOk [iA w] && decide (iFN w < 4))
      (let t := (y.sget (iA w)).toNat
       if mapGet 0 y.tickets (iFN w) < t then .exc excObject
       else if d.cmdsLeft l m (some (iFN w, t)) then d.waitCmds l m
       else .go d))

/-- TWAIT: the tensor instructions of the member have read their operands, or are complete. -/
def Dev.twait (bt : Nat) (d : Dev) (i : Issuer) (w : Word) : Dev :=
  d.controlRow bt 0x19 i w (fun _ _ x y w d =>
    legal (decide (iFN w < 2)) (.go (d.modCe y.ce (fun c => c.tensorDone (iFN w == 1)
      (fun a => decide (y.lsBase * 4096 ≤ a) && decide (a < y.lsBase * 4096 + x.lsSize))))))

def Dev.fence (bt : Nat) (d : Dev) (i : Issuer) (w : Word) : Dev :=
  d.controlRow bt 0x1A i w (fun l m x y w d =>
    legal (decide (0 < iFN w) && decide (iFN w < 4))
      (if d.cmdsLeft l m none then d.waitCmds l m
      else if bit (iFN w) 0 ∧ ¬d.cohortsDone l m then .stay d
      else if bit (iFN w) 1 then Dev.flushed (d.sqcFlush bt y.ce l x.ctx) (fun d => .go d)
      else .go d))

/-- CINV: the lines with a byte in the range; a range of no bytes has none. The home slices recall the range's lines too, which ends
their protection (R266, R275). -/
def Dev.cinv (bt : Nat) (d : Dev) (i : Issuer) (w : Word) : Dev :=
  d.controlRow bt 0x1B i w (fun l _ x y w d =>
    let lo := (y.sget (iA w)).toNat
    let n := (y.sget (iB w)).toNat
    let hit := fun (s : SqcLine) => s.ctx == x.ctx && (bit (iFN w) 0 || !s.insn) &&
      decide (0 < n) && decide (s.ava < lo + n) && decide (lo < s.ava + 64)
    legal (sOk [iA w, iB w] && decide (iFN w < 2)) (Dev.flushed (d.sqcRecall bt y.ce (some l) hit) (fun d =>
      .go ((d.rangeParts x.ctx lo n).foldl (fun d r => d.backInv r.1 r.2) d))))

/-- Set FSTAT bits of a launch (R126). -/
def Dev.fstatOr (d : Dev) (l : Nat) (low ovf inv : Bool) : Dev :=
  d.modLaunch l (fun x => { x with fstat := x.fstat ||| (b2n low + 2 * b2n ovf + 4 * b2n inv) })

/-- FSTAT: while read-outs or cohorts may still set its bits, what it reads as and what a clear leaves are free (NONDET). -/
def Dev.fstat (bt : Nat) (d : Dev) (i : Issuer) (w : Word) : Dev :=
  d.controlRow bt 0x1C i w (fun l m x y w d =>
    legal (sOk [iD w] && decide (iFN w < 2))
      (let open_ := d.readoutLeft x y || !d.cohortsDone l m
       let f := d.free
       let d := if open_ then d.took 2 else d
       let d := d.sput l m (iD w) (BitVec.ofNat 64 (if open_ then Config.freeNat f % 8 else x.fstat))
       .go (if iFN w = 1 then d.modLaunch l (fun x => { x with fstat := if open_ then Config.freeNat (f + 1) % 8 else 0 }) else d)))

def Dev.btrd (bt : Nat) (d : Dev) (i : Issuer) (w : Word) : Dev :=
  d.controlRow bt 0x1D i w (fun l m _ _ w d => legal (sOk [iD w]) (.go (d.sput l m (iD w) (BitVec.ofNat 64 bt))))

def Dev.btwait (bt : Nat) (d : Dev) (i : Issuer) (w : Word) : Dev :=
  d.controlRow bt 0x1E i w (fun l m _ y w d =>
    legal (sOk [iA w])
      (if (y.sget (iA w)).toNat ≤ bt then .go d else .stay (d.modMember l m (fun y => { y with wait := .time }))))

/-! ### Signals (R165, R235, R236, R347) -/

/-- What a signal-table entry names. -/
inductive Target where
  | ring (pair tag : Nat)
  | mailbox (hart file lg eiid dpa : Nat)
  deriving DecidableEq, Repr

/-- Read a signal-table entry of 128 bits; none where a post raises OBJECT. -/
def Dev.target (d : Dev) (a e : Nat) : Option Target :=
  match bits e 1 0 with
  | 1 =>
    let port := bits e 10 8
    let k := bits e 25 16
    if bits e 7 2 ≠ 0 ∨ bits e 15 11 ≠ 0 ∨ bits e 63 26 ≠ 0 ∨ 4 < port ∨ (port = 4 ∧ 256 ≤ k) then none
    else some (.ring (pairOf a port k) (bits e 127 64))
  | 2 =>
    let hart := bits e 15 8
    let lg := bits e 22 19
    let at_ := bits e 127 64
    if bits e 7 2 ≠ 0 ∨ bits e 23 23 ≠ 0 ∨ bits e 31 24 ≠ 0 ∨ bits e 63 48 ≠ 0 ∨ lg < 4 ∨ 12 < lg ∨ 96 ≤ hart ∨
        d.partOfHart hart ≠ a ∨ at_ % 64 ≠ 0 ∨ ¬d.isLocal a at_ ∨ bits e 47 32 = 0 ∨ 512 ≤ bits e 47 32 ∨
        ¬d.inTier (isDdr (at_ % 2 ^ 48)) a (at_ % 2 ^ 48) (64 + 32 * 2 ^ lg) then none
    else some (.mailbox hart (bits e 18 16) lg (bits e 47 32) (at_ % 2 ^ 48))
  | _ => none

/-- Room in a mailbox (R236). -/
def Dev.mailRoom (d : Dev) (dpa lg : Nat) : Bool :=
  decide ((2 ^ 64 + memNat d.mem dpa 8 - memNat d.mem (dpa + 8) 8) % 2 ^ 64 < 2 ^ lg)

/-- Write a mailbox entry, advance TAIL, and set the identity (R236). -/
def Dev.mailPut (bt : Nat) (d : Dev) (a c hart file lg eiid dpa : Nat) (x y : Word) : Dev :=
  let tail := memNat d.mem dpa 8
  let d := d.memPut (dpa + 64 + 32 * (tail % 2 ^ lg)) (leBytes 8 x.toNat ++ leBytes 8 y.toNat ++ leBytes 8 bt ++ leBytes 8 c)
  let d := d.memPut dpa (leBytes 8 (tail + 1))
  d.sendMsi a hart file eiid

/-- Does another member wait for room in the same mailbox, accepted before `order`? -/
def Dev.mailQueued (d : Dev) (dpa order : Nat) : Bool :=
  d.eng.members.any (fun y => match y.2.wait with
    | .mailbox e o _ _ => decide (bits e 127 64 % 2 ^ 48 = dpa) && decide (o < order)
    | _ => false)

/-- SIGNAL: release order, then the post. A post that waits suspends the member after the instruction. -/
def Dev.signal (bt : Nat) (d : Dev) (i : Issuer) (w : Word) : Dev :=
  d.controlRow bt 0x1F i w (fun l m x y w d =>
    legal (sOk [iA w, iB w, iC w] && decide (iFN w < 2))
      (d.released bt l m x y (fun d =>
        let c := d.ctx x.ctx
        let a := d.partOfCtx x.ctx
        let n := (y.sget (iC w)).toNat
        let va := y.sget (iA w)
        let vb := y.sget (iB w)
        let at_ := c.sigTable % 2 ^ 48 + 16 * n
        if c.sigCount ≤ n then .exc excObject
        else if d.poisoned at_ 16 then .done (d.failLaunch l .dataPoison none)
        else
          let e := memNat d.mem at_ 16
          match d.target a e, iFN w with
          | some (.ring k tag), 0 =>
            if (d.pair k).ctx ≠ x.ctx ∨ (d.pair k).st = .detached ∨ (d.pair k).admin then .exc excObject
            else if x.shadowOf.isSome then .go d
            else
              let wait := d.postWaits k
              let d := d.post k { tag, status := .ok, bt, result := va.toNat + vb.toNat * 2 ^ 64 }
                (if wait then some (l, m) else none)
              .go (if wait then d.modMember l m (fun y => { y with wait := .ring k }) else d)
          | some (.mailbox hart file lg eiid dpa), 1 =>
            if x.shadowOf.isSome then .go d
            else if d.mailRoom dpa lg ∧ ¬d.mailQueued dpa d.eng.order then
              .go (d.mailPut bt a x.ctx hart file lg eiid dpa va vb)
            else
              let o := d.eng.order
              let d := d.modEng (fun z => { z with order := o + 1 })
              .go (d.modMember l m (fun y => { y with wait := .mailbox e o va vb }))
          | _, _ => .exc excObject)))

/-- MAILBOX_ROOM: the oldest waiting post of a mailbox is made when there is room (R236). -/
def Dev.mailboxRoom (bt : Nat) (d : Dev) (l m : Nat) : Dev :=
  match d.launch? l, d.member? l m with
  | some x, some y => match y.wait with
    | .mailbox e o va vb =>
      let a := d.partOfCtx x.ctx
      match d.target a e with
      | some (.mailbox hart file lg eiid dpa) =>
        if d.mailRoom dpa lg ∧ ¬d.mailQueued dpa o then
          (d.mailPut bt a x.ctx hart file lg eiid dpa va vb).modMember l m (fun y => { y with wait := .none, progress := bt })
        else d
      | _ => d
    | _ => d
  | _, _ => d

/-! ### Meanings -/

def execSop (i : Issuer) (w : Word) : State → Host.Outcome State Fault Refusal := onDev (fun bt d => d.sop bt i w)
def execSopi (i : Issuer) (w : Word) : State → Host.Outcome State Fault Refusal := onDev (fun bt d => d.sopi bt i w)
def execSld (i : Issuer) (w : Word) (parity : Bool) : State → Host.Outcome State Fault Refusal :=
  onDev (fun bt d => d.sld bt i w parity)
def execSst (i : Issuer) (w : Word) (parity : Bool) : State → Host.Outcome State Fault Refusal :=
  onDev (fun bt d => d.sst bt i w parity)
def execSldl (i : Issuer) (w : Word) : State → Host.Outcome State Fault Refusal := onDev (fun bt d => d.sldl bt i w)
def execSstl (i : Issuer) (w : Word) : State → Host.Outcome State Fault Refusal := onDev (fun bt d => d.sstl bt i w)
def execSamo (i : Issuer) (w : Word) : State → Host.Outcome State Fault Refusal := onDev (fun bt d => d.samo bt i w)
def execSbr (i : Issuer) (w : Word) : State → Host.Outcome State Fault Refusal := onDev (fun bt d => d.sbr bt i w)
def execSjal (i : Issuer) (w : Word) : State → Host.Outcome State Fault Refusal := onDev (fun bt d => d.sjal bt i w)
def execSjr (i : Issuer) (w : Word) : State → Host.Outcome State Fault Refusal := onDev (fun bt d => d.sjr bt i w)
def execVrun (i : Issuer) (w : Word) : State → Host.Outcome State Fault Refusal := onDev (fun bt d => d.vrun bt i w)
def execVwait (i : Issuer) (w : Word) : State → Host.Outcome State Fault Refusal := onDev (fun bt d => d.vwait bt i w)
def execGbar (i : Issuer) (w : Word) : State → Host.Outcome State Fault Refusal := onDev (fun bt d => d.gbar bt i w)
def execGbarComplete (l : Nat) : State → Host.Outcome State Fault Refusal := onDev (fun bt d => d.gbarComplete bt l)
def execEndMember (i : Issuer) (w : Word) : State → Host.Outcome State Fault Refusal := onDev (fun bt d => d.endMember bt i w)
def execWaitq (i : Issuer) (w : Word) : State → Host.Outcome State Fault Refusal := onDev (fun bt d => d.waitq bt i w)
def execTwait (i : Issuer) (w : Word) : State → Host.Outcome State Fault Refusal := onDev (fun bt d => d.twait bt i w)
def execFence (i : Issuer) (w : Word) : State → Host.Outcome State Fault Refusal := onDev (fun bt d => d.fence bt i w)
def execCinv (i : Issuer) (w : Word) : State → Host.Outcome State Fault Refusal := onDev (fun bt d => d.cinv bt i w)
def execFstat (i : Issuer) (w : Word) : State → Host.Outcome State Fault Refusal := onDev (fun bt d => d.fstat bt i w)
def execBtrd (i : Issuer) (w : Word) : State → Host.Outcome State Fault Refusal := onDev (fun bt d => d.btrd bt i w)
def execBtwait (i : Issuer) (w : Word) : State → Host.Outcome State Fault Refusal := onDev (fun bt d => d.btwait bt i w)
def execSignal (i : Issuer) (w : Word) : State → Host.Outcome State Fault Refusal := onDev (fun bt d => d.signal bt i w)
def execMailboxRoom (l m : Nat) : State → Host.Outcome State Fault Refusal := onDev (fun bt d => d.mailboxRoom bt l m)

end Sys2Proof.Machine
end

