-- ==== Sys2Proof/Machine/Vector.lean ====
section
/-! DEFINITION. Cohort code (R144, R147, R151 to R153): vector integer and floating-point arithmetic, special functions,
conversions, Local Store accesses, barriers, votes, shuffles and branches. -/

namespace Sys2Proof.Machine

/-! ### Operands (R144, R147) -/

/-- The lanes of a cohort. -/
def lanes : List Nat := List.range 32

/-- A predicate register over the lanes; p0 reads 1. -/
def Cohort.pget (q : Cohort) (n : Nat) : BitVec 32 := if n = 0 then -1#32 else mapGet (-1#32) q.p n

/-- Does lane `i` execute the instruction: p[PG] xor PN? -/
def Cohort.active (q : Cohort) (w i : Nat) : Bool := bit (q.pget (bits w 55 53)).toNat i != bit w 52

/-- The lanes that execute. -/
def Cohort.lanesOn (q : Cohort) (w : Nat) : List Nat := lanes.filter (q.active w)

/-- A source field: a v register below the declared count, or a snapshot register. -/
def srcOk (x : Launch) (f : Nat) : Bool := decide (f < x.regs) || (decide (0x80 ≤ f) && decide (f < 0xA0))
/-- A v destination. -/
def dstOk (x : Launch) (f : Nat) : Bool := decide (f < x.regs)
/-- A predicate. -/
def predOk (f : Nat) : Bool := decide (f < 8)

/-- A v register of a lane. -/
def Dev.vget (d : Dev) (x : Launch) (y : Member) (c r i : Nat) : Lane := mapGet 0#32 (d.ce y.ce).vrf (vrfIndex x y c r + i)

/-- A source operand of a lane. -/
def Dev.vsrc (d : Dev) (x : Launch) (y : Member) (c f i : Nat) : Lane :=
  if f < 0x80 then d.vget x y c f i
  else if f = 0x80 then 0#32
  else (mapGet 0#64 y.snap (f - 0x80)).setWidth 32

/-- Write v register `r` in the lanes given. -/
def Dev.vput (d : Dev) (x : Launch) (y : Member) (c r : Nat) (is : List Nat) (f : Nat → Lane) : Dev :=
  let vals := is.map (fun i => (vrfIndex x y c r + i, f i))
  d.modCe y.ce (fun e => { e with vrf := vals.foldl (fun v p => mapSet 0#32 v p.1 p.2) e.vrf })

/-- Write predicate register `r` in the lanes given; a write to p0 is ignored. -/
def Dev.pput (d : Dev) (l m c r : Nat) (is : List Nat) (f : Nat → Bool) : Dev :=
  if r = 0 then d
  else d.modEng (fun z => { z with cohorts := mapModify z.cohorts (cohortKey l m c) (fun q =>
    let v := is.foldl (fun (v : BitVec 32) i => (v &&& ~~~(1#32 <<< i)) ||| (if f i then 1#32 <<< i else 0#32)) (q.pget r)
    { q with p := mapSet (-1#32) q.p r v }) })

/-! ### Integer (R131, R148) -/

/-- Clamp to 32-bit two's complement. -/
def sat32 (v : Int) : Lane := BitVec.ofInt 32 (max (-(2 : Int) ^ 31) (min ((2 : Int) ^ 31 - 1) v))

/-- `VIOP` by FN. Shifts use the low 5 bits of the amount, and SAT clamps as signed numbers (DEDUCED, log entry 23). -/
def laneOp (fn : Nat) (sat : Bool) (a b : Lane) : Option Lane :=
  let sh := b.toNat % 32
  match fn with
  | 0x00 => some (if sat then sat32 (a.toInt + b.toInt) else a + b)
  | 0x01 => some (if sat then sat32 (a.toInt - b.toInt) else a - b)
  | 0x02 => some (a &&& b)
  | 0x03 => some (a ||| b)
  | 0x04 => some (a ^^^ b)
  | 0x05 => some (a <<< sh)
  | 0x06 => some (a >>> sh)
  | 0x07 => some (a.sshiftRight sh)
  | 0x08 => some (a * b)
  | 0x09 => some (BitVec.ofInt 32 ((a.toInt * b.toInt) / (2 : Int) ^ 32))
  | 0x0A => some (BitVec.ofNat 32 (a.toNat * b.toNat / 2 ^ 32))
  | 0x0B => some (if a.slt b then a else b)
  | 0x0C => some (if a.slt b then b else a)
  | 0x0D => some (if a.ult b then a else b)
  | 0x0E => some (if a.ult b then b else a)
  | _ => none

/-- `VIOPI` by FN. -/
def laneOpI (fn : Nat) (a : Lane) (imm : Lane) : Option Lane :=
  match fn with
  | 0 => laneOp 0x00 false a imm
  | 1 => laneOp 0x02 false a imm
  | 2 => laneOp 0x03 false a imm
  | 3 => laneOp 0x04 false a imm
  | 4 => laneOp 0x05 false a imm
  | 5 => laneOp 0x06 false a imm
  | 6 => laneOp 0x07 false a imm
  | 7 => laneOp 0x08 false a imm
  | 8 => some imm
  | _ => none

/-- `VICMP` by FN. -/
def laneCmp (fn : Nat) (a b : Lane) : Option Bool :=
  match fn with
  | 0 => some (a == b)
  | 1 => some (a != b)
  | 2 => some (a.slt b)
  | 3 => some (a.sle b)
  | 4 => some (a.ult b)
  | 5 => some (a.ule b)
  | _ => none

/-- A lane-wise instruction that writes v[D]: ILLEGAL where `f` is undefined. -/
def Dev.laneWrite (d : Dev) (x : Launch) (y : Member) (q : Cohort) (c w : Nat) (f : Nat → Option Lane) : Act :=
  if lanes.any (fun i => (f i).isNone) then .exc excIllegal
  else .go (d.vput x y c (iD w) (q.lanesOn w) (fun i => (f i).getD 0#32))

/-- One that writes p[D]. -/
def Dev.lanePred (d : Dev) (l m : Nat) (q : Cohort) (c w : Nat) (f : Nat → Option Bool) : Act :=
  if lanes.any (fun i => (f i).isNone) then .exc excIllegal
  else .go (d.pput l m c (iD w) (q.lanesOn w) (fun i => (f i).getD false))

def Dev.viop (bt : Nat) (d : Dev) (i : Issuer) (w : Word) : Dev :=
  d.cohortRow bt 0x30 i w (fun _ _ c x y q w d =>
    legal (dstOk x (iD w) && srcOk x (iA w) && srcOk x (iB w)) (d.laneWrite x y q c w (fun i =>
      laneOp (iFN w) (bit w 4) (d.vsrc x y c (iA w) i) (d.vsrc x y c (iB w) i))))

def Dev.viopi (bt : Nat) (d : Dev) (i : Issuer) (w : Word) : Dev :=
  d.cohortRow bt 0x31 i w (fun _ _ c x y q w d =>
    legal (dstOk x (iD w) && (iSel w == 8 || srcOk x (iA w))) (d.laneWrite x y q c w (fun i =>
      laneOpI (iSel w) (d.vsrc x y c (iA w) i) (BitVec.ofNat 32 (bits w 31 0)))))

def Dev.vicmp (bt : Nat) (d : Dev) (i : Issuer) (w : Word) : Dev :=
  d.cohortRow bt 0x32 i w (fun l m c x y q w d =>
    legal (predOk (iD w) && srcOk x (iA w) && srcOk x (iB w)) (d.lanePred l m q c w (fun i =>
      laneCmp (iFN w) (d.vsrc x y c (iA w) i) (d.vsrc x y c (iB w) i))))

def Dev.vsel (bt : Nat) (d : Dev) (i : Issuer) (w : Word) : Dev :=
  d.cohortRow bt 0x33 i w (fun _ _ c x y q w d =>
    legal (dstOk x (iD w) && srcOk x (iA w) && srcOk x (iB w) && predOk (iC w)) (d.laneWrite x y q c w (fun i =>
      some (if bit (q.pget (iC w)).toNat i then d.vsrc x y c (iA w) i else d.vsrc x y c (iB w) i))))

/-! ### Floating point (R131, R133) -/

/-- The format FC names: FP32, BF16, FP16. -/
def vfFmt (fc : Nat) : Option Fmt :=
  match fc with
  | 0 => some fmtFp32
  | 1 => some fmtBf16
  | 2 => some fmtFp16
  | _ => none

/-- A lane's value in a format; FP16 and BF16 lie in the low 16 bits (R144). -/
def vfVal (f : Fmt) (v : Lane) : FVal := f.decode (v.toNat % 2 ^ (1 + f.eb + f.mb))

/-- `VFOP` by FN, with the inputs that its flags look at. -/
def vfOp (fn : Nat) (a b : FVal) : Option (FVal × List FVal) :=
  match fn with
  | 0 => some (a.add b, [a, b])
  | 1 => some (a.add b.negate, [a, b])
  | 2 => some (a.mul b, [a, b])
  | 3 => some (a.minNum b, [a, b])
  | 4 => some (a.maxNum b, [a, b])
  | 5 => some (if a.neg then a.negate else a, [a])
  | 6 => some (a.negate, [a])
  | _ => none

/-- Results with their OVERFLOW and INVALID, written in the active lanes; FSTAT collects the flags. -/
def Dev.laneFloat (d : Dev) (l : Nat) (x : Launch) (y : Member) (q : Cohort) (c w : Nat) (f : Nat → Option (Nat × Bool × Bool)) :
    Act :=
  if lanes.any (fun i => (f i).isNone) then .exc excIllegal
  else
    let on := q.lanesOn w
    let val := fun i => (f i).getD (0, false, false)
    let d := d.fstatOr l false (on.any (fun i => (val i).2.1)) (on.any (fun i => (val i).2.2))
    .go (d.vput x y c (iD w) on (fun i => BitVec.ofNat 32 (val i).1))

/-- Round a vector result, with its flags. -/
def vfRound (f : Fmt) (ins : List FVal) (v : FVal) : Nat × Bool × Bool :=
  let c := f.rne v
  (c, f.flags ins c)

def Dev.vfop (bt : Nat) (d : Dev) (i : Issuer) (w : Word) : Dev :=
  d.cohortRow bt 0x40 i w (fun l _ c x y q w d =>
    legal (dstOk x (iD w) && srcOk x (iA w) && (iFN w == 5 || iFN w == 6 || srcOk x (iB w)))
      (match vfFmt (iFC w) with
      | some f => d.laneFloat l x y q c w (fun i =>
          (vfOp (iFN w) (vfVal f (d.vsrc x y c (iA w) i)) (vfVal f (d.vsrc x y c (iB w) i))).map (fun r => vfRound f r.2 r.1))
      | none => .exc excIllegal))

def Dev.vfma (bt : Nat) (d : Dev) (i : Issuer) (w : Word) : Dev :=
  d.cohortRow bt 0x41 i w (fun l _ c x y q w d =>
    legal (dstOk x (iD w) && srcOk x (iA w) && srcOk x (iB w) && srcOk x (iC w))
      (match vfFmt (iFC w) with
      | some f => d.laneFloat l x y q c w (fun i =>
          let a := vfVal f (d.vsrc x y c (iA w) i)
          let b := vfVal f (d.vsrc x y c (iB w) i)
          let e := vfVal f (d.vsrc x y c (iC w) i)
          some (vfRound f [a, b, e] (a.fma b e)))
      | none => .exc excIllegal))

/-- `VFCMP` by FN: NaN compares unordered. -/
def vfCmp (fn : Nat) (a b : FVal) : Option Bool :=
  let un := a.isNan || b.isNan
  match fn with
  | 0 => some (a.eqv b)
  | 1 => some (!un && a.lt b)
  | 2 => some (!un && !b.lt a)
  | 3 => some un
  | _ => none

def Dev.vfcmp (bt : Nat) (d : Dev) (i : Issuer) (w : Word) : Dev :=
  d.cohortRow bt 0x42 i w (fun l m c x y q w d =>
    legal (predOk (iD w) && srcOk x (iA w) && srcOk x (iB w))
      (match vfFmt (iFC w) with
      | some f => d.lanePred l m q c w (fun i =>
          vfCmp (iFN w) (vfVal f (d.vsrc x y c (iA w) i)) (vfVal f (d.vsrc x y c (iB w) i)))
      | none => .exc excIllegal))

def Dev.vsf (bt : Nat) (d : Dev) (i : Issuer) (w : Word) : Dev :=
  d.cohortRow bt 0x50 i w (fun l _ c x y q w d =>
    legal (dstOk x (iD w) && srcOk x (iA w) && decide (iFN w < 7))
      (match vfFmt (iFC w) with
      | some f => d.laneFloat l x y q c w (fun i =>
          let a := vfVal f (d.vsrc x y c (iA w) i)
          let r := f.rne (specialFn (iFN w) a)
          some (r, specialFlags (iFN w) a f r))
      | none => .exc excIllegal))

/-! ### Conversions (R132) -/

/-- Formats that a vector conversion accepts (R110). -/
def convOk (f : Nat) : Bool := f != 0x6 && f != 0xD && f != 0xF

/-- Convert a value to format `fc`: the result's bits, OVERFLOW and INVALID. An integer rounds to nearest even or toward zero
whatever SR says (R132). `xs` is the scale of an MX element target. -/
def convert (fc : Nat) (rm : Rm) (rtz ovfInf : Bool) (xs : Nat) (v : FVal) : Nat × Bool × Bool :=
  if fmtMx fc then
    let e := v.scale (127 - (xs % 256 : Nat))
    let noNan := match fmtOf fc with
      | some f => f.nan.isNone
      | none => true
    (mxElem fc (if fc = 0xC then (if rtz then .rtz else .rne) else rm) e, false, v.isNan && noNan)
  else match fmtOf fc with
    | some f =>
      let r := f.round rm ovfInf v
      -- an infinite source is exact in a target that has infinities
      if v.isInf ∧ f.inf then (f.signBit v.neg + (2 ^ f.eb - 1) * 2 ^ f.mb, false, false) else (r.code, r.ovf, r.inv)
    | none =>
      let n := fmtBits fc
      let (i, o, iv) := roundInt (if rtz then .rtz else .rne) n v
      (toBits n i, o, iv)

/-- SR vector instructions that a thread has executed (R130). -/
def Dev.srCount (d : Dev) (l m c i : Nat) : Nat := mapGet 0 d.eng.srVec (cohortKey l m c * 32 + i)

def Dev.vcvt (bt : Nat) (d : Dev) (i : Issuer) (w : Word) : Dev :=
  d.cohortRow bt 0x51 i w (fun l m c x y q w d =>
    let fc := iFC w
    let sr := bit w 7
    legal (dstOk x (iD w) && srcOk x (iA w) && decide (iFN w < 16) &&
        (!(fmtMx fc) || (decide (0x80 ≤ iB w) && decide (iB w < 0xA0))))
      (if ¬(convOk fc ∧ convOk (iFN w)) then .exc excFormat
      else
        let one := fun i =>
          let r := srRandom (d.ctx x.ctx).seed x.seed m (c * 32 + i) (d.srCount l m c i) 0
          let v := elemVal (iFN w) ((d.vsrc x y c (iA w) i).toNat % 2 ^ fmtBits (iFN w))
          some (convert fc (if sr then .sr r else .rne) (bit w 5) (bit w 6) (d.vsrc x y c (iB w) 0).toNat v)
        match d.laneFloat l x y q c w one with
        | .go d =>
          let key := cohortKey l m c * 32
          let counts := (q.lanesOn w).foldl (fun s i => mapSet 0 s (key + i) (mapGet 0 s (key + i) + 1)) d.eng.srVec
          .go (if sr then (d.modEng (fun z => { z with srVec := counts })) else d)
        | a => a))

/-! ### Local Store (R151) -/

/-- The size of a vector access by SZ, and whether a load sign-extends. -/
def vecSize (sz : Nat) : Option (Nat × Bool) :=
  match sz with
  | 0 => some (1, false)
  | 1 => some (2, false)
  | 2 => some (4, false)
  | 4 => some (1, true)
  | 5 => some (2, true)
  | _ => none

/-- The exception of accesses of `n` bytes at the lanes' addresses, if one. -/
def accessExc (x : Launch) (n : Nat) (as : List Nat) : Option Nat :=
  match as.find? (fun a => a % n != 0 || decide (x.lsSize < a + n)) with
  | some a => some (if a % n ≠ 0 then excAlign else excLsRange)
  | none => none

/-- The address of a lane: its own, or lane 0's plus lane × size. -/
def Dev.vaddr (d : Dev) (x : Launch) (y : Member) (c w n : Nat) (together : Bool) (i : Nat) : Nat :=
  let a := d.vsrc x y c (iA w) (if together then 0 else i)
  ((a + BitVec.ofInt 32 (iImm w)).toNat + (if together then i * n else 0)) % 2 ^ 32

/-- VLD and VLDC. -/
def Dev.vecLoad (bt : Nat) (d : Dev) (op : Nat) (i : Issuer) (w : Word) (together : Bool) : Dev :=
  d.cohortRow bt op i w (fun _ _ c x y q w d =>
    legal (dstOk x (iD w) && srcOk x (iA w)) (match vecSize (iSel w) with
      | none => .exc excIllegal
      | some (n, sg) =>
        let on := q.lanesOn w
        let at_ := d.vaddr x y c w n together
        match accessExc x n (on.map at_) with
        | some e => .exc e
        | none => .go (d.vput x y c (iD w) on (fun i =>
            let v := d.lsNat y (at_ i) n
            if sg then BitVec.ofInt 32 (ofBits (8 * n) v) else BitVec.ofNat 32 v))))

/-- VST and VSTC: of lanes that write one byte the highest wins. -/
def Dev.vecStore (bt : Nat) (d : Dev) (op : Nat) (i : Issuer) (w : Word) (together : Bool) : Dev :=
  d.cohortRow bt op i w (fun _ _ c x y q w d =>
    legal (srcOk x (iD w) && srcOk x (iA w)) (match vecSize (iSel w) with
      | none => .exc excIllegal
      | some (n, _) =>
        let on := q.lanesOn w
        let at_ := d.vaddr x y c w n together
        match accessExc x n (on.map at_) with
        | some e => .exc e
        | none =>
          let vals := on.map (fun i => (at_ i, (d.vsrc x y c (iD w) i).toNat))
          .go (vals.foldl (fun d p => d.lsPut y p.1 n p.2) d)))

/-- `VLATOM` by FN. -/
def latomOp (fn : Nat) (old b : Lane) : Option Lane :=
  match fn with
  | 0 => some (old + b)
  | 1 => laneOp 0x0B false old b
  | 2 => laneOp 0x0C false old b
  | 3 => laneOp 0x0D false old b
  | 4 => laneOp 0x0E false old b
  | 5 => some b
  | _ => none

/-- VLATOM: threads are served in ascending lane order. -/
def Dev.vlatom (bt : Nat) (d : Dev) (i : Issuer) (w : Word) : Dev :=
  d.cohortRow bt 0x64 i w (fun _ _ c x y q w d =>
    legal (dstOk x (iD w) && srcOk x (iA w) && srcOk x (iB w) && decide (iFN w < 6))
      (let on := q.lanesOn w
       let at_ := fun i => (d.vsrc x y c (iA w) i).toNat
       match accessExc x 4 (on.map at_) with
       | some e => .exc e
       | none =>
         let ops := on.map (fun i => (i, at_ i, d.vsrc x y c (iB w) i))
         .go (ops.foldl (fun d p =>
           let old : Lane := BitVec.ofNat 32 (d.lsNat y p.2.1 4)
           let d := d.lsPut y p.2.1 4 ((latomOp (iFN w) old p.2.2).getD 0#32).toNat
           d.vput x y c (iD w) [p.1] (fun _ => old)) d)))

/-! ### Cohort control (R152, R153) -/

/-- Change a cohort. -/
def Dev.modCohort (d : Dev) (l m c : Nat) (f : Cohort → Cohort) : Dev :=
  d.modEng (fun z => { z with cohorts := mapModify z.cohorts (cohortKey l m c) f })

/-- BAR: the k-th waits until every cohort of the VRUN has executed its k-th or ended. A BAR or VEND whose guard holds in no
lane is not executed (DEDUCED, log entry 24). -/
def Dev.bar (bt : Nat) (d : Dev) (i : Issuer) (w : Word) : Dev :=
  d.cohortRow bt 0x70 i w (fun l m c _ _ q w d =>
    if (q.lanesOn w).isEmpty then .go d
    else
      let n := if q.atBar then q.bars else q.bars + 1
      let ready := d.eng.cohorts.all (fun r =>
        r.1 / 512 != memberKey l m || r.1 % 512 == c || r.2.ended || decide (n ≤ r.2.bars))
      let d := d.modCohort l m c (fun q => { q with bars := n, atBar := !ready })
      if ready then .go d else .stay d)

def Dev.vote (bt : Nat) (d : Dev) (i : Issuer) (w : Word) : Dev :=
  d.cohortRow bt 0x71 i w (fun l m c x y q w d =>
    let v := q.pget (iA w)
    legal (predOk (iA w)) (match iFN w with
      | 0 => legal (predOk (iD w)) (.go (d.pput l m c (iD w) (q.lanesOn w) (fun _ => v != 0#32)))
      | 1 => legal (predOk (iD w)) (.go (d.pput l m c (iD w) (q.lanesOn w) (fun _ => v == -1#32)))
      | 2 => legal (dstOk x (iD w)) (.go (d.vput x y c (iD w) (q.lanesOn w) (fun _ => v)))
      | _ => .exc excIllegal))

def Dev.vshfl (bt : Nat) (d : Dev) (i : Issuer) (w : Word) : Dev :=
  d.cohortRow bt 0x72 i w (fun _ _ c x y q w d =>
    legal (dstOk x (iD w) && srcOk x (iA w) && srcOk x (iB w)) (d.laneWrite x y q c w (fun i =>
      some (d.vsrc x y c (iA w) ((d.vsrc x y c (iB w) i).toNat % 32)))))

/-- `VBR` by CND, over p[A] of all 32 threads. -/
def vbrTaken (c : Nat) (v : BitVec 32) : Option Bool :=
  match c with
  | 6 => some true
  | 7 => some (v != 0#32)
  | 8 => some (v == -1#32)
  | 9 => some (v == 0#32)
  | _ => none

def Dev.vbr (bt : Nat) (d : Dev) (i : Issuer) (w : Word) : Dev :=
  d.cohortRow bt 0x73 i w (fun _ _ _ _ _ q w d =>
    legal (iSel w == 6 || predOk (brA w)) (match vbrTaken (iSel w) (q.pget (brA w)) with
      | some true => .jump ((BitVec.ofNat 32 q.pc + BitVec.ofInt 32 (8 * iImm w)).toNat) d
      | some false => .go d
      | none => .exc excIllegal))

def Dev.vend (bt : Nat) (d : Dev) (i : Issuer) (w : Word) : Dev :=
  d.cohortRow bt 0x74 i w (fun l m c _ _ q w d =>
    if (q.lanesOn w).isEmpty then .go d
    else .go (d.modCohort l m c (fun q => { q with ended := true })))

/-! ### Meanings -/

def execViop (i : Issuer) (w : Word) : State → Host.Outcome State Fault Refusal := onDev (fun bt d => d.viop bt i w)
def execViopi (i : Issuer) (w : Word) : State → Host.Outcome State Fault Refusal := onDev (fun bt d => d.viopi bt i w)
def execVicmp (i : Issuer) (w : Word) : State → Host.Outcome State Fault Refusal := onDev (fun bt d => d.vicmp bt i w)
def execVsel (i : Issuer) (w : Word) : State → Host.Outcome State Fault Refusal := onDev (fun bt d => d.vsel bt i w)
def execVfop (i : Issuer) (w : Word) : State → Host.Outcome State Fault Refusal := onDev (fun bt d => d.vfop bt i w)
def execVfma (i : Issuer) (w : Word) : State → Host.Outcome State Fault Refusal := onDev (fun bt d => d.vfma bt i w)
def execVfcmp (i : Issuer) (w : Word) : State → Host.Outcome State Fault Refusal := onDev (fun bt d => d.vfcmp bt i w)
def execVsf (i : Issuer) (w : Word) : State → Host.Outcome State Fault Refusal := onDev (fun bt d => d.vsf bt i w)
def execVcvt (i : Issuer) (w : Word) : State → Host.Outcome State Fault Refusal := onDev (fun bt d => d.vcvt bt i w)
def execVld (i : Issuer) (w : Word) : State → Host.Outcome State Fault Refusal := onDev (fun bt d => d.vecLoad bt 0x60 i w false)
def execVst (i : Issuer) (w : Word) : State → Host.Outcome State Fault Refusal := onDev (fun bt d => d.vecStore bt 0x61 i w false)
def execVldc (i : Issuer) (w : Word) : State → Host.Outcome State Fault Refusal := onDev (fun bt d => d.vecLoad bt 0x62 i w true)
def execVstc (i : Issuer) (w : Word) : State → Host.Outcome State Fault Refusal := onDev (fun bt d => d.vecStore bt 0x63 i w true)
def execVlatom (i : Issuer) (w : Word) : State → Host.Outcome State Fault Refusal := onDev (fun bt d => d.vlatom bt i w)
def execBar (i : Issuer) (w : Word) : State → Host.Outcome State Fault Refusal := onDev (fun bt d => d.bar bt i w)
def execVote (i : Issuer) (w : Word) : State → Host.Outcome State Fault Refusal := onDev (fun bt d => d.vote bt i w)
def execVshfl (i : Issuer) (w : Word) : State → Host.Outcome State Fault Refusal := onDev (fun bt d => d.vshfl bt i w)
def execVbr (i : Issuer) (w : Word) : State → Host.Outcome State Fault Refusal := onDev (fun bt d => d.vbr bt i w)
def execVend (i : Issuer) (w : Word) : State → Host.Outcome State Fault Refusal := onDev (fun bt d => d.vend bt i w)

end Sys2Proof.Machine
end

