-- ==== Sys2Proof/Machine/Tensor.lean ====
section
/-! DEFINITION. The tensor unit (R97, R117 to R119, R122 to R128, R145, R146, R154, R155): its ownership, tensor descriptors,
matrix multiply-accumulate, read-out and codebook loads. A tensor instruction computes when it issues; its operands stay in use and a
read-out's bytes stay out of Local Store until TWAIT (R152, R158). -/

namespace Sys2Proof.Machine

def iTD (w : Nat) : Nat := bits w 51 48
def iTA (w : Nat) : Nat := bits w 47 44
def iTB (w : Nat) : Nat := bits w 43 40
def iSR (w : Nat) : Nat := bits w 39 32
def iShift (w : Nat) : Int := ofBits 8 (bits w 31 24)
def iTFN (w : Nat) : Nat := bits w 23 16

/-! ### Ownership (R90, R97, R118) -/

/-- A launch acquires the tensor unit of its CE: the accumulators are clear, and codebook slots of another context are filled
with zeros. -/
def Ce.acquire (e : Ce) (l m ctx : Nat) : Ce :=
  let cb := (List.range 4).foldl
    (fun b s => if mapGet 0 e.cbCtx s = ctx + 1 then b else memZero b (32768 * s) 32768) e.cb
  { e with tensor := some (l, m), acc := [], mode := none, cb, cbCtx := recordUnits e.cbCtx (List.range 4) ctx }

/-- A tensor-issue instruction needs the tensor unit: it takes a free one, or waits for it (R97). -/
def Dev.withTensor (d : Dev) (l m : Nat) (x : Launch) (y : Member) (f : Dev → Act) : Act :=
  let e := d.ce y.ce
  if e.tensor = some (l, m) then f d
  else if e.tensor = none ∧ e.tensorWait = [] then f (d.setCe y.ce (e.acquire l m x.ctx))
  else .stay ((d.setCe y.ce { e with tensorWait := e.tensorWait ++ [(l, m)] }).modMember l m (fun y => { y with wait := .tensor }))

/-- TENSOR_UNIT_GRANT: the longest-waiting launch acquires the free unit. -/
def Dev.tensorGrant (bt : Nat) (d : Dev) (k : Nat) : Dev :=
  let e := d.ce k
  match e.tensor, e.tensorWait with
  | none, (l, m) :: ws => match d.launch? l with
    | some x => (d.setCe k ({ e with tensorWait := ws }.acquire l m x.ctx)).modMember l m
        (fun y => { y with wait := .none, progress := bt })
    | none => d.setCe k { e with tensorWait := ws }
  | _, _ => d

/-! ### Descriptors (R145, R146) -/

/-- The descriptor 64 bytes hold. -/
def tdescOf (v : Nat) : TDesc :=
  { data := bits v 31 0, scale := bits v 63 32, rows := bits v 79 64, cols := bits v 95 80, rowStride := bits v 127 96,
    scaleStride := bits v 159 128, fmt := bits v 163 160, cbSlot := bits v 165 164 }

/-- Bytes of a row of `n` elements. -/
def packedBytes (fmt n : Nat) : Nat := (n * fmtBits fmt + 7) / 8

/-- Storage rows: VQ-8/12 holds one row of codes for eight rows (R116). -/
def TDesc.storedRows (t : TDesc) : Nat := if t.fmt = 0xD then (t.rows + 7) / 8 else t.rows

/-- The checks of R146 in their order: the exception that applies. -/
def tdescExc (x : Launch) (v : Nat) : Option Nat :=
  let t := tdescOf v
  let al := if t.fmt = 0xF then 32 else 16
  if bits v 191 167 ≠ 0 ∨ bits v 511 192 ≠ 0 ∨ t.rows = 0 ∨ t.cols = 0 ∨ t.rowStride < packedBytes t.fmt t.cols then
    some excIllegal
  else if bit v 166 ≠ fmtScaled t.fmt then some excFormat
  else if t.cols * fmtBits t.fmt % 8 ≠ 0 ∨ (fmtBits t.fmt = 6 ∧ t.cols % 4 ≠ 0) then some excFormat
  else if t.data % al ≠ 0 ∨ t.rowStride % al ≠ 0 then some excAlign
  else if x.lsSize < t.data + (t.storedRows - 1) * t.rowStride + packedBytes t.fmt t.cols then some excLsRange
  else none

/-- A bound handle. -/
def Member.handle (y : Member) (t : Nat) : Option TDesc := mapFind? y.handles t

def Dev.tbind (bt : Nat) (d : Dev) (i : Issuer) (w : Word) : Dev :=
  d.controlRow bt 0x80 i w (fun l m x y w d =>
    let a := (y.sget (iSR w)).toNat
    legal (sOk [iSR w])
      (if a % 64 ≠ 0 then .exc excAlign
      else if x.lsSize < a + 64 then .exc excLsRange
      else
        let v := d.lsNat y a 64
        match tdescExc x v with
        | some e => .exc e
        | none => .go (d.modMember l m (fun y => { y with handles := mapPut y.handles (iTD w) (tdescOf v) }))))

/-! ### Operands -/

/-- Element `i` of a packed row that starts at `a`, of `n` bits. -/
def Dev.elemAt (d : Dev) (y : Member) (a n i : Nat) : Nat := d.lsNat y (a + i * n / 8) 5 / 2 ^ (i * n % 8) % 2 ^ n

/-- Element (r, c) of a tensor, as its code. -/
def Dev.code (d : Dev) (y : Member) (t : TDesc) (r c : Nat) : Nat := d.elemAt y (t.data + r * t.rowStride) (fmtBits t.fmt) c

/-- Weight (k, n) of a VQ-8/12 operand, as an E4M3 code (R116). -/
def Dev.vqCode (d : Dev) (y : Member) (t : TDesc) (k n : Nat) : Nat :=
  let c := d.code y t (k / 8) n
  (memRead (d.ce y.ce).cb (32768 * t.cbSlot + 8 * c + k % 8)).toNat

/-- A scale byte. -/
def Dev.scaleAt (d : Dev) (y : Member) (t : TDesc) (r c : Nat) : Nat := d.lsNat y (t.scale + r * t.scaleStride + c) 1

/-- A operand: element (m, k) and its scale (R115). A plain operand has 2^0, plain INT4 beside an MX format too, of which R115 does not
speak (DEDUCED, log entry 138). -/
def Dev.aVal (d : Dev) (y : Member) (t : TDesc) (m k : Nat) : FVal := elemVal t.fmt (d.code y t m k)
def Dev.aScale (d : Dev) (y : Member) (t : TDesc) (m j : Nat) : Nat := if fmtScaled t.fmt then d.scaleAt y t m j else 0x7F
/-- B operand: element (k, n) and its scale. -/
def Dev.bVal (d : Dev) (y : Member) (t : TDesc) (k n : Nat) : FVal :=
  if t.fmt = 0xD then elemVal 0x3 (d.vqCode y t k n) else elemVal t.fmt (d.code y t k n)
def Dev.bScale (d : Dev) (y : Member) (t : TDesc) (j n : Nat) : Nat :=
  if t.fmt = 0xD then d.scaleAt y t j (n / 8) else if fmtScaled t.fmt then d.scaleAt y t j n else 0x7F

/-- The exception of a scale array of `rows` rows of `n` bytes (R154, step 6). -/
def scaleExc (x : Launch) (t : TDesc) (rows n : Nat) : Option Nat :=
  if t.scaleStride < n then some excIllegal
  else if x.lsSize < t.scale + (rows - 1) * t.scaleStride + n then some excLsRange
  else none

/-! ### MMA (R94, R119, R122, R154) -/

/-- R154's checks in their order. A VQ-8/12 shape raises SHAPE, as R154 says, though R166's table lists it under FORMAT (DEDUCED, log
entry 137). -/
def mmaExc (x : Launch) (e : Ce) (ta tb : Option TDesc) : Option Nat :=
  match ta, tb with
  | some a, some b =>
    let fp := a.fmt == 0
    if ¬pairOk a.fmt b.fmt then some excFormat
    else if e.mode.any (fun f => f != fp) then some excFormat
    else if 128 < a.rows ∨ 128 < b.cols ∨ a.cols ≠ b.rows then some excShape
    else if (fmtScaled a.fmt || fmtScaled b.fmt) ∧ a.cols % 32 ≠ 0 then some excShape
    else if b.fmt = 0xD ∧ b.cols % 8 ≠ 0 then some excShape
    else
      let ea := if fmtScaled a.fmt then scaleExc x a a.rows (a.cols / 32) else none
      let eb := if fmtScaled b.fmt then scaleExc x b (b.rows / 32) (if b.fmt = 0xD then b.cols / 8 else b.cols) else none
      ea.or eb
  | _, _ => some excObject

/-- The term of a block of 32 along K (R119). -/
def Dev.blockTerm (d : Dev) (y : Member) (ta tb : TDesc) (m n j : Nat) : FVal :=
  let s := blockSum ((List.range 32).map (fun i => (d.aVal y ta m (32 * j + i)).mul (d.bVal y tb (32 * j + i) n)))
  match scaleExp (d.aScale y ta m j), scaleExp (d.bScale y tb j n) with
  | some p, some q => s.scale (p + q)
  | _, _ => .nan

/-- A cell after the MMA's terms for it. -/
def Dev.mmaCell (d : Dev) (y : Member) (ta tb : TDesc) (m n : Nat) (c : Cell) : Cell :=
  let K := ta.cols
  let step := fun (s k : Nat) => fmtFp32.rne ((d.aVal y ta m k).fma (d.bVal y tb k n) (fmtFp32.decode s))
  let c := if ta.fmt = 0 then { c with f32 := (List.range K).foldl step c.f32 }
    else if fmtScaled ta.fmt || fmtScaled tb.fmt then
      (List.range (K / 32)).foldl (fun (c : Cell) j => accTerm c (d.blockTerm y ta tb m n j)) c
    else (List.range K).foldl (fun c k => accTerm c ((d.aVal y ta m k).mul (d.bVal y tb k n))) c
  { c with used := true }

/-- Cells (0, 0) to (M - 1, N - 1). -/
def cellsOf (rows cols : Nat) : List (Nat × Nat) := (List.range rows).flatMap (fun r => (List.range cols).map (fun c => (r, c)))

/-- A cell's key. -/
def cellKey (r c : Nat) : Nat := r * 128 + c

/-- A cell of the array. -/
def Ce.cell (e : Ce) (r c : Nat) : Cell := mapGet {} e.acc (cellKey r c)

/-- Record the operands of an MMA in Local Store: the packed rows and the scale arrays (R158). -/
def Ce.operands (e : Ce) (y : Member) (ts : List TDesc) : Ce :=
  ts.foldl (fun e t =>
    let e := e.operand y none t.data ((t.storedRows - 1) * t.rowStride + packedBytes t.fmt t.cols)
    if fmtScaled t.fmt then e.operand y none t.scale (t.storedRows * t.scaleStride) else e) e

/-- ACLK cycles of an MMA's K steps (R94). -/
def mmaCycles (fmt k : Nat) : Nat :=
  match rateRow fmt with
  | 3 => (k + 1) / 2
  | 4 => 4 * k
  | 5 => 16 * k
  | _ => k

def Dev.mma (bt : Nat) (d : Dev) (i : Issuer) (w : Word) : Dev :=
  d.controlRow bt 0x81 i w (fun l m x y w d =>
    d.withTensor l m x y (fun d =>
      let e := d.ce y.ce
      match mmaExc x e (y.handle (iTA w)) (y.handle (iTB w)), y.handle (iTA w), y.handle (iTB w) with
      | none, some ta, some tb =>
        let acc := (cellsOf ta.rows tb.cols).foldl
          (fun a p => mapSet {} a (cellKey p.1 p.2) (d.mmaCell y ta tb p.1 p.2 (e.cell p.1 p.2))) e.acc
        .go ((d.setCe y.ce ({ e with acc, mode := some (ta.fmt == 0) }.operands y [ta, tb])).fbump F.cePerfTensorBusyCycles y.ce
          (mmaCycles ta.fmt ta.cols))
      | some c, _, _ => .exc c
      | none, _, _ => .exc excObject))

/-! ### Read-out (R123 to R128, R155) -/

/-- R155's checks. -/
def trdExc (x : Launch) (w : Nat) (td ta : Option TDesc) : Option Nat :=
  let src := bit w 11
  match td with
  | none => some excObject
  | some t =>
    if src ∧ ta = none then some excObject
    else if 128 < t.rows ∨ 128 < t.cols then some excShape
    else if ¬readoutOk t.fmt then some excFormat
    else if fmtMx t.fmt ∧ t.cols % 32 ≠ 0 then some excShape
    else if t.fmt = 0xF ∧ iShift w ≠ 0 then some excFormat
    else if src ∧ (ta.map (fun a => a.fmt)) ≠ some 0xF then some excFormat
    else if src ∧ (ta.map (fun a => (a.rows, a.cols))) ≠ some (t.rows, t.cols) then some excShape
    else if fmtMx t.fmt then scaleExc x t t.rows (t.cols / 32)
    else none

/-- The source of a read-out: a cell, or a WA32 record of handle TA (R128). -/
def Dev.readSource (d : Dev) (y : Member) (e : Ce) (rec? : Option TDesc) (r c : Nat) : Cell :=
  match rec? with
  | some t => recordCell (d.lsRead y (t.data + r * t.rowStride + 32 * c) 32)
  | none => e.cell r c

/-- Pack element codes of `n` bits into bytes (R111). -/
def packCodes (n : Nat) (cs : List Nat) : List Byte :=
  leBytes ((cs.length * n + 7) / 8) ((cs.zipIdx).foldl (fun v p => v + p.1 * 2 ^ (n * p.2)) 0)

/-- One row of a read-out: element bytes, scale bytes, OVERFLOW and INVALID. -/
def readRow (fmt : Nat) (fp32 : Bool) (shift : Int) (ovfInf : Bool) (cells : List Cell) (rms : List Rm) :
    List Byte × List Byte × Bool × Bool :=
  if fmt = 0xF then (cells.flatMap (fun c => recordBytes (if fp32 then fp32Record c else c)), [], false, false)
  else
    let vs := cells.map (fun c => cellValue fp32 c shift)
    if fmtMx fmt then
      let blocks := (List.range (cells.length / 32)).map (fun j =>
        mxBlock fmt ((rms.drop (32 * j)).take 32) ((vs.drop (32 * j)).take 32))
      -- a zero result is +0; a zero sum of FP32 mode keeps its sign (R123)
      let fix := fun (c : Nat × FVal) => match fmtOf fmt with
        | some f => if c.1 = f.signBit true ∧ ¬(fp32 ∧ c.2.isZero) then 0 else c.1
        | none => c.1
      (packCodes (fmtBits fmt) (((blocks.flatMap (fun b => b.2.1)).zip vs).map fix), blocks.map (fun b => BitVec.ofNat 8 b.1),
        blocks.any (fun b => b.2.2.1), blocks.any (fun b => b.2.2.2))
    else
      let rs := (vs.zip rms).map (fun p => readoutElem fmt p.2 ovfInf fp32 p.1)
      (packCodes (fmtBits fmt) (rs.map (fun r => r.code)), [], rs.any (fun r => r.ovf), rs.any (fun r => r.inv))

/-- Clear the cells read out; the array has no mode when every cell is clear (R122, R155). -/
def Ce.clearCells (e : Ce) (rows cols : Nat) : Ce :=
  let acc := (cellsOf rows cols).foldl (fun a p => mapErase a (cellKey p.1 p.2)) e.acc
  { e with acc, mode := if acc.any (fun p => p.2.used) then e.mode else none }

def Dev.trd (bt : Nat) (d : Dev) (i : Issuer) (w : Word) : Dev :=
  d.controlRow bt 0x82 i w (fun l m x y w d =>
    d.withTensor l m x y (fun d =>
      let e := d.ce y.ce
      match trdExc x w (y.handle (iTD w)) (y.handle (iTA w)), y.handle (iTD w) with
      | none, some t =>
        let src := bit w 11
        let rec? := if src then y.handle (iTA w) else none
        let fp32 := !src && e.mode == some true
        let sr := bit w 15 && t.fmt != 0xF
        let rm := fun r c => if sr then
          Rm.sr (srRandom (d.ctx x.ctx).seed x.seed m 0xFFFFFFFF y.srReads (r * 128 + c)) else Rm.rne
        let rows := (List.range t.rows).map (fun r =>
          let cells := (List.range t.cols).map (fun c => d.readSource y e rec? r c)
          (r, readRow t.fmt fp32 (iShift w) (bit w 14) cells ((List.range t.cols).map (rm r)), cells.any (fun c => c.low)))
        let d := rows.foldl (fun d p =>
          (d.lsReadout y (t.data + p.1 * t.rowStride) p.2.1.1).lsReadout y (t.scale + p.1 * t.scaleStride) p.2.1.2.1) d
        let d := d.fstatOr l (rows.any (fun p => p.2.2)) (rows.any (fun p => p.2.1.2.2.1)) (rows.any (fun p => p.2.1.2.2.2))
        let d := if bit w 13 ∧ ¬src then d.modCe y.ce (fun e => e.clearCells t.rows t.cols) else d
        let d := if bit w 12 then d.modCe y.ce (fun e => { e with tensor := none }) else d
        .go (if sr then d.modMember l m (fun y => { y with srReads := y.srReads + 1 }) else d)
      | some c, _ => .exc c
      | none, none => .exc excObject))

/-- CBLD (R117). -/
def Dev.cbld (bt : Nat) (d : Dev) (i : Issuer) (w : Word) : Dev :=
  d.controlRow bt 0x83 i w (fun l m x y w d =>
    let a := (y.sget (iSR w)).toNat
    legal (sOk [iSR w] && decide (iTFN w < 4))
      (d.withTensor l m x y (fun d =>
        if a % 64 ≠ 0 then .exc excAlign
        else if x.lsSize < a + 32768 then .exc excLsRange
        else
          let bs := d.lsRead y a 32768
          .go (d.modCe y.ce (fun e => { e with
            cb := memWriteBytes (memZero e.cb (32768 * iTFN w) 32768) (32768 * iTFN w) bs }.operand y (some (iTFN w)) a 32768)))))

/-! ### Meanings -/

def execTbind (i : Issuer) (w : Word) : State → Host.Outcome State Fault Refusal := onDev (fun bt d => d.tbind bt i w)
def execTensorUnitGrant (ce : Nat) : State → Host.Outcome State Fault Refusal := onDev (fun bt d => d.tensorGrant bt ce)
def execMma (i : Issuer) (w : Word) : State → Host.Outcome State Fault Refusal := onDev (fun bt d => d.mma bt i w)
def execTrd (i : Issuer) (w : Word) : State → Host.Outcome State Fault Refusal := onDev (fun bt d => d.trd bt i w)
def execCbld (i : Issuer) (w : Word) : State → Host.Outcome State Fault Refusal := onDev (fun bt d => d.cbld bt i w)

end Sys2Proof.Machine
end

