-- ==== Sys2Proof/Machine/Dma.lean ====
section
/-! DEFINITION. DMA commands (R156, R159, R160, R162, R163, R319): operand checks and issue, start order, the movement of their
bytes in this device and to other nodes, and completion. -/

namespace Sys2Proof.Machine

def iQ (w : Nat) : Nat := bits w 51 50
def iOrd (w : Nat) : Nat := bits w 49 48
def iSD (w : Nat) : Nat := bits w 47 40
def iSA (w : Nat) : Nat := bits w 39 32
def iSL (w : Nat) : Nat := bits w 31 24
def iSX (w : Nat) : Nat := bits w 23 16
def iST (w : Nat) : Nat := bits w 15 8
def iHint (w : Nat) : Nat := bits w 7 6
def iRb (w : Nat) : Bool := bit w 5
def iTwoD (w : Nat) : Bool := bit w 4

/-! ### Issue -/

/-- Are ORD and the hint allowed (R159, R160)? -/
def CmdOp.modsOk (o : CmdOp) (ord hint : Nat) : Bool :=
  match o with
  | .get => (ord == 0 || ord == 1)
  | .gather => (ord == 0 || ord == 1)
  | .kvg => (ord == 0 || ord == 1) && hint != 3
  | .put => (ord == 0 || ord == 2) && hint != 3
  | .scatter => (ord == 0 || ord == 2) && hint != 3
  | .red => (ord == 0 || ord == 2) && hint != 3
  | .fill => (ord == 0 || ord == 2) && hint != 3
  | .kva => ord == 0 && hint != 3
  | .lchk => ord == 0 && hint != 3
  | .xdisp => ord == 0 && hint != 3

/-- Register fields that must name s0 (R160, R164). -/
def CmdOp.zeroFields (o : CmdOp) (w : Nat) : List Nat :=
  match o with
  | .get => if iTwoD w then [] else [iSX w]
  | .put => if iTwoD w then [] else [iSX w]
  | .gather => [iSA w]
  | .scatter => [iSA w]
  | .red => [iSX w]
  | .fill => [iSD w]
  | .kvg => [iSA w, iSL w, iSX w]
  | .kva => [iSA w, iSL w, iSX w]
  | .lchk => [iSA w, iSL w, iSX w]
  | .xdisp => [iSA w, iSL w, iSX w]

/-- The exception of a list of extents (R160). -/
def Dev.listExc (d : Dev) (x : Launch) (y : Member) (at_ n total : Nat) : Option Nat :=
  if n = 0 ∨ 4096 < n then some excDmaArg
  else if at_ % 16 ≠ 0 then some excAlign
  else if x.lsSize < at_ + 16 * n then some excLsRange
  else
    let es := (List.range n).map (fun i => (d.lsNat y (at_ + 16 * i) 8, d.lsNat y (at_ + 16 * i + 8) 4, d.lsNat y (at_ + 16 * i + 12) 4))
    if es.any (fun e => e.2.2 != 0) then some excIllegal
    else if es.any (fun e => e.2.1 == 0 || decide (2 ^ 56 < e.1 + e.2.1)) then some excDmaArg
    else if x.lsSize < total + (es.map (fun e => e.2.1)).sum then some excLsRange
    else none

/-- The exception of a DMA command's operands (R160). -/
def Dev.dmaExc (d : Dev) (x : Launch) (y : Member) (o : CmdOp) (w : Nat) : Option Nat :=
  let sd := (y.sget (iSD w)).toNat
  let sa := (y.sget (iSA w)).toNat
  let sl := (y.sget (iSL w)).toNat
  let sx := (y.sget (iSX w)).toNat
  let rb := iRb w
  let rows := if iTwoD w then bits sx 47 32 else 1
  let stride := if iTwoD w then bits sx 31 0 else 0
  let top := if rb then d.rbSize (d.partOfCtx x.ctx) else 2 ^ 56
  match o with
  | .get | .put =>
    if sl = 0 ∨ rows = 0 ∨ x.lsSize < sl ∨ top < sa + (rows - 1) * stride + sl then some excDmaArg
    else if x.lsSize < sd + rows * sl then some excLsRange
    else none
  | .gather | .scatter => if rb then some excDmaArg else d.listExc x y sx sl sd
  | .red =>
    let el := if bits w 2 0 = 0 then 32 else 4
    if 1 < bits w 2 0 then some excFormat
    else if rb ∨ sl = 0 ∨ 2 ^ 56 < sa + sl then some excDmaArg
    else if sd % el ≠ 0 ∨ sa % el ≠ 0 then some excAlign
    else if sl % el ≠ 0 then some excDmaArg
    else if x.lsSize < sd + sl then some excLsRange
    else none
  | .fill =>
    if rb ∨ sl = 0 ∨ sl % 8 ≠ 0 ∨ 2 ^ 30 < sl ∨ 2 ^ 56 < sa + sl then some excDmaArg
    else if sa % 8 ≠ 0 then some excAlign
    else none
  | .kvg | .kva | .lchk | .xdisp => none

/-- Commands in flight on a transfer queue of a CE. -/
def Dev.tqBusy (d : Dev) (k q : Nat) : Nat :=
  (d.eng.cmds.filter (fun c => c.2.started && c.2.q == q && (match d.member? c.2.l c.2.m with
    | some y => y.ce == k
    | none => false))).length

/-- May a command start (R100, R159)? Earlier commands of its member on its queue have started; no earlier acquire is
outstanding; a release waits for every earlier command; at most 16 are in flight on the queue. -/
def Dev.mayStart (d : Dev) (n : Nat) (c : Cmd) (k : Nat) : Bool :=
  let mine := d.eng.cmds.filter (fun e => decide (e.1 < n) && e.2.l == c.l && e.2.m == c.m)
  mine.all (fun e => (e.2.q != c.q || e.2.started) && e.2.ord != 1 && c.ord != 2) && decide (d.tqBusy k c.q < 16)

/-- Start a command when it may: its bound runs from now (R411); a release writes back the context's dirty lines (R157). -/
def Dev.tryStart (bt : Nat) (d : Dev) (n : Nat) : Dev :=
  match mapFind? d.eng.cmds n with
  | some c => match d.launch? c.l, d.member? c.l c.m with
    | some x, some y =>
      if ¬c.started ∧ x.st = .running ∧ d.mayStart n c y.ce then
        match (if c.ord = 2 then d.sqcFlush bt y.ce c.l x.ctx else (true, d)) with
        | (false, d) => d
        | (true, d) => d.modEng (fun z => { z with cmds := mapPut z.cmds n { c with started := true, bt } })
      else d
    | _, _ => d
  | none => d

/-- Issue a DMA or Sequence Engine command: its checks, its ticket, its place on its queue. -/
def Dev.issueCmd (bt : Nat) (d : Dev) (opc : Nat) (o : CmdOp) (i : Issuer) (w : Word)
    (exc : Dev → Launch → Member → Nat → Option Nat) : Dev :=
  d.controlRow bt opc i w (fun l m x y w d =>
    legal (sOk [iSD w, iSA w, iSL w, iSX w, iST w] && o.modsOk (iOrd w) (iHint w) && (o.zeroFields w).all (fun r => r == 0))
      (match exc d x y w with
      | some e => .exc e
      | none =>
        let q := iQ w
        let t := mapGet 0 y.tickets q + 1
        let n := d.eng.nextCmd
        let shadowed := x.shadow.isSome || x.shadowOf.isSome || x.settle.isSome
        let c : Cmd := {
          l, m, q, ticket := t, op := o, ord := iOrd w, hint := iHint w, rb := iRb w, twoD := iTwoD w
          crc := bit w 3 || shadowed, ef := bits w 2 0, sd := (y.sget (iSD w)).toNat, sa := (y.sget (iSA w)).toNat
          sl := (y.sget (iSL w)).toNat, sx := (y.sget (iSX w)).toNat, started := false, bt }
        let d := d.modEng (fun z => { z with cmds := mapPut z.cmds n c, nextCmd := n + 1 })
        let d := d.modMember l m (fun y => { y with tickets := mapPut y.tickets q t })
        .go ((d.sput l m (iST w) (BitVec.ofNat 64 t)).tryStart bt n)))

/-! ### Moving the bytes -/

/-- How a command stands. -/
inductive Going where
  | more | moved | waits | ended
  deriving DecidableEq, Repr

/-- Move `n` bytes of a local piece of an extent at DPA `x`; a poisoned granule fails the command
(R163, R217, R272), and so does a write to a FAILED channel (R296). -/
def Dev.moveLocal (d : Dev) (n : Nat) (c : Cmd) (a ctx : Nat) (y : Member) (x ls off k : Nat) : Going × Dev :=
  match c.op with
  | .put | .scatter | .fill =>
    let d := (d.noteOut c.l x k).memPut x (d.cmdBytes y c ls off k)
    if d.deadIn x k then (.ended, d.failCmd n .dataPoison) else (.more, d.hinted a ctx c.hint x k)
  | .red =>
    if d.poisoned x k then (.ended, d.failCmd n .dataPoison)
    else (.more, ((d.noteBoth c.l x k).reduceAt (if c.ef = 0 then 32 else 4) k x (d.cmdBytes y c ls off k)).hinted a ctx c.hint x k)
  | _ =>
    if d.poisoned x k then (.ended, d.failCmd n .dataPoison)
    else
      let d := if c.hint = 3 then d.noteBoth c.l x k else d.noteIn c.l x k
      (.more, (d.lsWrite y (ls + off) (memReadBytes d.mem x k)).hinted a ctx c.hint x k)

/-- Send a piece of an extent to another node (R363): writes in segments, reads as requests of at most 1 MiB of the extent. `seg`
is the piece's offset in the command. -/
def Dev.moveRemote (bt : Nat) (d : Dev) (n : Nat) (c : Cmd) (a : Nat) (y : Member) (dpa ls off k total : Nat) : Going × Dev :=
  let node := dpa / 2 ^ 48
  let addr := dpa % 2 ^ 48
  let seg := if c.op = .fill then off else ls - c.sd + off
  if ¬d.reachable a node then (.ended, d.failCmd n .peerUnreachable)
  else
    let hdr := { bareHdr node [] with hint := c.hint, ef := c.ef, cmdId := n, cmdLen := total }
    if c.op.writes then
      let ps := (segments (k / 64 + 2) addr seg (d.cmdBytes y c ls off k)).map (fun s =>
        (if c.op = .red then opRed else opPut, { hdr with addr := s.1, segOff := s.2.1, payload := s.2.2 }))
      (.more, d.sendPkts bt a node ps (some n))
    else
      let d := d.modEng (fun z => { z with cmds := mapModify z.cmds n (fun c => { c with gets := c.gets ++ [(node, seg, k)] }) })
      (.more, d.sendPkts bt a node [(opGetReq, { hdr with addr, segOff := seg, cmdLen := k })] (some n))

/-- Move the extents of a command, page by page in ascending address order, until they are all moved, or it waits or ends. -/
def Dev.moveCmd (bt n : Nat) (x : Launch) (y : Member) (es : List (Nat × Nat × Nat)) (total : Nat) : Nat → Dev → Going × Dev
  | 0, d => (.waits, d)
  | fuel + 1, d =>
    match mapFind? d.eng.cmds n with
    | none => (.ended, d)
    | some c => match es[c.row]? with
      | none => (.moved, d)
      | some (ava, ls, len) =>
        let a := d.partOfCtx x.ctx
        let at_ := ava + c.off
        let shadow := x.shadowOf.isSome && c.op.writes
        let adv := fun (d : Dev) (k : Nat) =>
          d.modEng (fun z => { z with cmds := mapModify z.cmds n (fun c =>
            if c.off + k < len then { c with off := c.off + k } else { c with row := c.row + 1, off := 0 }) })
        if shadow then Dev.moveCmd bt n x y es total fuel (adv d (len - c.off))
        else if c.rb then
          if ¬d.rbOpen (y.ce / 26) a ava len then (.waits, d)
          else if ¬c.op.writes ∧ d.rbPoisoned a ava len then (.ended, d.failCmd n .dataPoison)
          else
            let d := if c.op.writes then d.rbPut a ava (d.cmdBytes y c ls 0 len)
              else d.lsWrite y ls (memReadBytes (d.rbMem a) ava len)
            Dev.moveCmd bt n x y es total fuel (adv d len)
        else match d.access bt (tlbCe y.ce) x.ctx at_ c.op.writes true x.faultable with
          | (.wait, d) => (.waits, d)
          | (.fault cause, d) => (.waits, d.cmdFault bt n c y.ce x.ctx at_ cause)
          | (.violation, d) => (.ended, d.violation bt c.l)
          | (.ok p, d) =>
            let page := min (len - c.off) (2 ^ p.lg - at_ % 2 ^ p.lg)
            -- a request that no Kiorn link carries has no answer (R270, R284)
            if d.isLocal a p.dpa ∧ ¬d.bytesOpen (y.ce / 26) (p.at_ at_ % 2 ^ 48) page then (.waits, d) else
            let (r, k, d) := if d.isLocal a p.dpa then
                let (r, d) := d.moveLocal n c a x.ctx y (p.at_ at_ % 2 ^ 48) ls c.off page
                (r, page, d)
              else
                let k := if c.op.writes then page else min page (2 ^ 20 - c.off % 2 ^ 20)
                let (r, d) := Dev.moveRemote bt d n c a y (p.at_ at_) ls c.off k total
                (r, k, d)
            match r with
            | .more => Dev.moveCmd bt n x y es total fuel (adv d k)
            | r => (r, d)

/-- The data of a command whose digest the queue takes: its bytes in Local Store, or the pattern of a FILL (R162). -/
def Dev.cmdData (d : Dev) (y : Member) (c : Cmd) : List Byte :=
  if c.op = .fill then d.cmdBytes y c 0 0 c.sl
  else d.lsRead y c.sd (((d.cmdExtents y c).map (fun e => e.2.2)).sum)

/-- A command has completed: its digest, its ticket, progress of its member (R156, R162, R410). -/
def Dev.retireCmd (bt : Nat) (d : Dev) (n : Nat) (data : List Byte) : Dev :=
  match mapFind? d.eng.cmds n with
  | some c =>
    let d := d.modEng (fun z => { z with cmds := mapErase z.cmds n })
    d.modMember c.l c.m (fun y => { y with
      progress := bt
      digest := if c.crc then mapSet 0#64 y.digest c.q (mapGet 0#64 y.digest c.q + crc64 data) else y.digest })
  | none => d

/-- COMMAND_COMPLETE of a DMA command: it starts if it may, goes on from where it stands, and completes when every byte is
accepted (R241, R363). -/
def Dev.dmaComplete (bt : Nat) (d : Dev) (n : Nat) : Dev :=
  let d := d.tryStart bt n
  match mapFind? d.eng.cmds n with
  | some c => match d.launch? c.l, d.member? c.l c.m with
    | some x, some y =>
      if ¬c.started ∨ c.fault then d
      else
        let es := d.sortedExtents y c
        let total := (es.map (fun e => e.2.2)).sum
        match Dev.moveCmd bt n x y es total (2 * es.length + total / 65536 + 2) d with
        | (.moved, d) => if d.cmdRemote (d.partOfCtx x.ctx) n then d else d.retireCmd bt n (d.cmdData y c)
        | (_, d) => d
    | _, _ => d
  | none => d

/-! ### Meanings -/

def execGet (i : Issuer) (w : Word) : State → Host.Outcome State Fault Refusal :=
  onDev (fun bt d => d.issueCmd bt 0x90 .get i w (fun d x y w => d.dmaExc x y .get w))
def execPut (i : Issuer) (w : Word) : State → Host.Outcome State Fault Refusal :=
  onDev (fun bt d => d.issueCmd bt 0x91 .put i w (fun d x y w => d.dmaExc x y .put w))
def execGather (i : Issuer) (w : Word) : State → Host.Outcome State Fault Refusal :=
  onDev (fun bt d => d.issueCmd bt 0x92 .gather i w (fun d x y w => d.dmaExc x y .gather w))
def execScatter (i : Issuer) (w : Word) : State → Host.Outcome State Fault Refusal :=
  onDev (fun bt d => d.issueCmd bt 0x93 .scatter i w (fun d x y w => d.dmaExc x y .scatter w))
def execRed (i : Issuer) (w : Word) : State → Host.Outcome State Fault Refusal :=
  onDev (fun bt d => d.issueCmd bt 0x94 .red i w (fun d x y w => d.dmaExc x y .red w))
def execFill (i : Issuer) (w : Word) : State → Host.Outcome State Fault Refusal :=
  onDev (fun bt d => d.issueCmd bt 0x95 .fill i w (fun d x y w => d.dmaExc x y .fill w))

end Sys2Proof.Machine
end

