-- ==== Sys2Proof/Machine/Layout.lean ====
section
/-! DEFINITION. The partition layout (R16, R17, R23, R24, R474), firmware's reports (R475), and the events of chapters 21 and 22 that no
other file holds. -/

namespace Sys2Proof.Machine

/-! ### Changing the layout -/

/-- Does every partition that a mask describes obey R16, and does one start at die 0 (R474)? -/
def layoutOk (mask : Nat) : Bool :=
  bit mask 0 && decide (mask < 256) && ((List.range 8).filter (partStarts mask)).all (fun a =>
    let n := partDies mask a
    [1, 2, 4, 8].contains n && a % n == 0)

/-- The layout that a mode sets. -/
def Dev.layoutOf (d : Dev) (mode : Nat) : Nat :=
  match mode with
  | 0 => 0x01
  | 1 => 0x11
  | 2 => 0x55
  | 3 => 0xFF
  | _ => d.fget F.prtLayoutNext 0

/-- Is the partition at die `a` of a layout a partition of another with the same dies? -/
def samePart (old new a : Nat) : Bool := partStarts old a && partStarts new a && partDies old a == partDies new a

/-- A set of partition numbers under the new layout: those of partitions that keep their dies move with them (R17, R23). -/
def renumber (old new bitsOld : Nat) : Nat :=
  ((List.range 8).filter (fun a => samePart old new a && bit bitsOld (partNum old a))).foldl (fun m a => m + 2 ^ partNum new a) 0

/-- The layout changes: what the affected dies held is gone, their carve-outs are zero (R280), their memory is being cleared (R24), and
numbers move with the partitions that keep their dies. Ports stay bound to those; firmware binds them to the new ones (log entry 44). Ring
links between partitions go idle (R15, R285); a reset of a partition that is gone ends with it (log entry 118). -/
def Dev.changeLayout (bt : Nat) (d : Dev) (new : Nat) : Dev :=
  let old := d.layout
  let gone := (List.range 8).filter (fun a => partStarts old a && !samePart old new a)
  let made := (List.range 8).filter (fun a => partStarts new a && !samePart old new a)
  let hit := fun (n : Nat) => gone.contains (partOf old n)
  let d := gone.foldl (fun d a =>
    let d := if d.parked a then (d.parkDomains a).foldl (fun d n => d.domainUp bt n) d else d
    let d := d.resetHarts a
    d.modSec (fun z => { z with
      osTables := mapErase z.osTables a, blocks := mapErase z.blocks a, osLoads := mapErase z.osLoads a })) d
  let d := d.setCtxs (d.ctxs.filter (fun c => !hit (c.1 / 512)))
  let d := d.modSeq (fun z => { z with
    slots := mapKeep z.slots (fun s _ => !hit (s / 2048))
    kvOwn := mapKeep z.kvOwn (fun i _ => !hit (i / kvPerDie))
    pools := mapKeep z.pools (fun k _ => !(if k < 64 then hit (k / 8) else hit ((k - 64) / 4))) })
  let d := (d.dropTier hit).modTier (fun z => { z with areas := z.areas.filter (fun r => !hit r.1) })
  let d := gone.foldl (fun d a => d.clearRb a) (d.setTours (mapKeep d.tours (fun a _ => !hit a)))
  let d := d.modRes (fun z => { z with
    clearing := made, parts := mapKeep z.parts (fun a _ => !hit a), episodes := mapKeep z.episodes (fun a _ => !hit a) })
  let d := ((d.fset F.prtLayoutCurrent 0 new).fset F.prtModeBusy 0 1).idleLinks
  let d := (List.range 4).foldl (fun d q =>
    (d.fset F.hptPortBindPartitions q (renumber old new (d.fget F.hptPortBindPartitions q))).fset F.secBootStatusOsWait q
      (renumber old new (d.fget F.secBootStatusOsWait q))) d
  let d := (d.fset F.pwrParkReq 0 (renumber old new (d.fget F.pwrParkReq 0))).fset F.pwrParkState 0
    (renumber old new (d.fget F.pwrParkState 0))
  made.foldl (fun d a => d.fset F.xlatFqCfgLog2Size a (fqLog2 (d.dies a))) d

/-- A write of `PRT.MODE` (R23, R474). -/
def Dev.modeWrite (bt : Nat) (d : Dev) (p : Party) (v : Word) : Dev :=
  let new := d.layoutOf (bits v.toNat 2 0)
  let old := d.layout
  let gone := (List.range 8).filter (fun a => partStarts old a && !samePart old new a)
  d.regWrite p .prtMode 0 v
    (verdict (gone.any (fun a => !d.partIdle a)) (d.fon F.prtModeBusy 0))
    (fun d => if new = old then d else d.changeLayout bt new)

/-- A write of `PRT.LAYOUT`: NEXT obeys R474. -/
def Dev.nextWrite (d : Dev) (p : Party) (v : Word) : Dev :=
  d.regWrite p .prtLayout 0 v (verdict (!layoutOk (d.fwould p v F.prtLayoutNext 0)) false) id

/-- LAYOUT_CLEAR_DONE: the HBM of the affected dies is wiped and their DDR zero-filled; the new partitions take contexts, and each waits
for its resident OS (R24, R404). -/
def Dev.layoutClearDone (d : Dev) : Dev :=
  if d.fon F.prtModeBusy 0 then
    let made := d.res.clearing
    let d := made.foldl (fun d a => (d.wipeHbm a).fillDdr a) d
    let d := d.modRes (fun z => { z with clearing := [] })
    made.foldl (fun d a => d.setOsWait a true) (d.fset F.prtModeBusy 0 0)
  else d

/-- Is a host pair of a port that belongs to the partition at die `a` attached (14_host_ports_rings.md: any state but DETACHED)? -/
def Dev.hostAttached (d : Dev) (q a : Nat) : Bool :=
  d.ring.pairs.any (fun x => x.2.st ≠ .detached && decide (x.1 < 4096) && x.1 / 1024 == q && d.pairPart x.1 == a)

/-- A write of `HPT.PORT_BIND`: unbinding a partition while one of the port's pairs is attached to it is refused with CONFLICT (R21, 14's
table of owners); a management port newly bound to a partition without a resident OS image shows its OS_WAIT (R404). -/
def Dev.bindWrite (d : Dev) (p : Party) (q : Nat) (v : Word) : Dev :=
  let new := d.fwould p v F.hptPortBindPartitions q
  d.regWrite p .hptPortBind q v
    (verdict false (d.parts.any (fun a => !bit new (partNum d.layout a) && d.hostAttached q a))) (fun d =>
    d.parts.foldl (fun d a =>
      let w := d.fget F.secBootStatusOsWait q
      let b := 2 ^ partNum d.layout a
      let wants := d.mgmtPort q && d.boundTo q a && d.sec.memReady && !d.res.clearing.contains a && !mapHas d.sec.osTables a
      d.fset F.secBootStatusOsWait q (if wants then w ||| b else w &&& (255 - b))) d)

/-! ### Reports (R475) -/

/-- The report of partition number `p`, of the partition at die `a` or of none. -/
def Dev.report (d : Dev) (p : Nat) (a : Option Nat) : Word :=
  let gen := (d.fget F.prtPartReportGen p + 1) % 65536 * 2 ^ 48
  match a with
  | some a =>
    let ces := ((d.partCes a).filter (fun k => (d.ce k).st = .active)).length
    let cores := ((List.range 96).filter (fun h => d.partOfHart h == a && (d.coreOf h).isSome)).length
    let ddr := ((List.range (2 * d.dies a)).filter (fun i =>
      let s := d.fget F.ddrcChStatusState (2 * a + i)
      s == 1 || s == 2)).length
    let hbm := ((List.range (128 * d.dies a)).filter (fun i => d.chanState (128 * a + i) != 2)).length
    BitVec.ofNat 64 (ces + cores * 2 ^ 8 + ddr * 2 ^ 15 + hbm * 2 ^ 20 + 2 ^ 31 + b2n (d.parked a) * 2 ^ 32 + gen)
  | none => BitVec.ofNat 64 gen

/-- FIRMWARE_REPORT_UPDATE: the report and the capacity registers of the partition at die `a`; reports of numbers that no partition has any
more lose VALID. The shadow areas that firmware has pinned, each a DPA and bytes in the partition's HBM, are those of the report (R32, R216). -/
def Dev.reportUpdate (bt : Nat) (d : Dev) (a : Nat) (areas : List (Nat × Nat)) : Dev :=
  if d.isPart a then
    let d := d.modTier (fun z => { z with areas := z.areas.filter (fun r => r.1 != a) ++
      (areas.filter (fun r => d.inHbm a r.1 r.2)).map (fun r => (a, r.1, r.2)) })
    let p := partNum d.layout a
    let c := d.capacity a
    let d := d.setReg .prtPartReport p (d.report p (some a))
    let d := ((d.setReg .prtCapMem a (BitVec.ofNat 64 (c.hbm + c.ddr * 2 ^ 32))).setReg .prtCapSeq a
      (BitVec.ofNat 64 (c.kv + c.slots * 2 ^ 32))).setReg .prtCapJrn a (BitVec.ofNat 64 c.journal)
    let d := (List.range 8).foldl (fun d n =>
      if d.parts.length ≤ n ∧ d.fon F.prtPartReportValid n then d.setReg .prtPartReport n (d.report n none) else d) d
    let d := d.tlogX bt 16 1 0 (some a) 0 0 0 0 []
    let d := d.msixPorts (fun q => d.boundTo q a)
    match mapFind? d.cpx.logNotify a with
    | some (h, e) => d.sendMsi a h 0 e
    | none => d
  else d

/-! ### Units (R312, R447, R499) -/

/-- WALKER_FAIL: the walker is castled to its group's spare, or its group runs a walker short; a map-out record keeps it so. -/
def Dev.walkerFail (bt : Nat) (d : Dev) (g w : Nat) : Dev :=
  if 9 ≤ g ∨ 16 ≤ w then d
  else
    let a := some (d.partOfDie (if g < 8 then g else w / 2))
    let d := d.histAdd bt 3 6 8 (16 * g + w)
    let d := (d.resLog bt 0x46 2 a 0xFFFF [0, 0, bt, 8]).resLog bt 0x47 2 a 0xFFFF [0, 0, bt, 8]
    d.walkerOut g

/-- DDR_BYTE_LANE_FAIL: a spare byte lane takes its place, recorded as a repair; with both in use the channel runs on SECDED alone, and a
SEV 4 entry tells the operator to replace the DIMM. -/
def Dev.byteLaneFail (bt : Nat) (d : Dev) (c corrected : Nat) (bad : List Nat) : Dev :=
  if 16 ≤ c ∨ d.fget F.ddrcChStatusState c = 0 then d
  else
    let a := some (d.partOfDie (c / 2))
    let bad := bad.filter (fun x => (d.ddrPlace x).map (fun p => p.1) == some c)
    let d := (d.fbump F.ddrcChEccCorrected c corrected).fbump F.ddrcChEccUncorr c bad.length
    let d := bad.foldl (fun d x => d.notePoison (x / 64)) d
    let d := d.histAdd bt 1 9 7 c
    let n := d.fget F.ddrcChStatusSpareLanes c
    if n < 2 then (d.fset F.ddrcChStatusSpareLanes c (n + 1)).histAdd bt 2 9 0 c
    else
      let d := d.histAdd bt 3 9 0 c
      let d := (d.resLog bt 0x46 2 a 0xFFFF [0, 0, bt, 7]).resLog bt 0x47 4 a 0xFFFF [0, 0, bt, 7]
      d.fset F.ddrcChStatusState c 2

/-- TRACE_TRIGGER_CLAIM: refused while PPS_EN is set (R499). -/
def Dev.traceClaim (d : Dev) (claim : Bool) : Dev :=
  if claim ∧ d.fon F.btmCtrlPpsEn 0 then d.refuse .btmCtrl 0 true
  else d.modTime (fun z => { z with traceTrigger := claim })

/-! ### Meanings -/

def execLayoutChange (p : Party) (v : Word) : State → Host.Outcome State Fault Refusal := onDev (fun bt d => d.modeWrite bt p v)
def execLayoutClearDone : State → Host.Outcome State Fault Refusal := onDev (fun _ d => d.layoutClearDone)
def execFirmwareReportUpdate (report : AreaReport) : State → Host.Outcome State Fault Refusal :=
  onDev (fun bt d => d.reportUpdate bt report.part report.areas)
def execWalkerFail (group walker : Nat) : State → Host.Outcome State Fault Refusal :=
  onDev (fun bt d => d.walkerFail bt group walker)
def execDdrByteLaneFail (ch corrected : Nat) (bad : List Nat) : State → Host.Outcome State Fault Refusal :=
  onDev (fun bt d => d.byteLaneFail bt ch corrected bad)
def execTraceTriggerClaim (claim : Bool) : State → Host.Outcome State Fault Refusal := onDev (fun _ d => d.traceClaim claim)

end Sys2Proof.Machine
end

