-- ==== Sys2Proof/Machine/RegSpace.lean ====
section
/-! DEFINITION. The register space (chapter 21): where each register lies (R468, R469, R472, R483), who reaches it (R471,
R473), what it reads as, and REGISTER_WRITE, COUNTER_CLEAR and LOCK, which write at an offset of the space. -/

namespace Sys2Proof.Machine

/-! ### Where the registers lie (R468, R469, R483) -/

/-- An entry of a block's placement order (R483): a register, or a group repeated `n` times at a stride (0: the group's size
rounded up to a power of two). -/
inductive Item where
  | one (r : RegName)
  | group (n stride : Nat) (rs : List RegName)
  deriving DecidableEq, Repr

/-- The stride of a group (R469). -/
def groupStride (stride len : Nat) : Nat :=
  if stride ≠ 0 then stride else ((List.range 12).map (fun k => 8 * 2 ^ k)).find? (fun s => decide (8 * len ≤ s)) |>.getD 0

/-- The register at an offset of a block instance, for the entries that follow `pos`: the register, its group index and the
group's count (0 and 1 outside a group). -/
def findIn (off : Nat) : Nat → List Item → Option (RegName × Nat × Nat)
  | _, [] => none
  | pos, .one r :: is => if off = pos then some (r, 0, 1) else findIn off (pos + 8) is
  | pos, .group n stride rs :: is =>
    let s := groupStride stride rs.length
    let start := (pos + s - 1) / s * s
    if start ≤ off ∧ off < start + n * s then
      if (off - start) % 8 = 0 then (rs[(off - start) % s / 8]?).map (fun r => (r, (off - start) / s, n)) else none
    else findIn off (start + n * s) is

def pairItems : List RegName := [.hptSqBase, .hptCqBase, .hptHeadWb, .hptCfg, .hptAttach, .hptStatus, .hptStat]
def itemsBtm : List Item :=
  [.one .btmNow, .one .btmCtrl, .one .btmStatus, .one .btmFreqAdj, .one .btmPtpCfg, .one .btmSrcFilt, .one .btmSrcStat,
    .one .btmTod, .one .btmPpsCfg, .one .btmCfgErr]
def itemsArb : List Item :=
  [.one .arbEwStat, .group 64 0 [.arbEwSlot, .arbEwNext], .group 4 0 [.arbPairStatus, .arbPairCtrl], .one .arbWdog,
    .one .arbEscLimit, .one .arbFastVec, .one .arbTlTail, .one .arbTlStat, .one .arbCfgErr]
def itemsEvc : List Item :=
  [.one .evcCtrl, .one .evcAge, .one .evcSet, .one .evcStat, .group 2048 0 [.evcSrcCfg, .evcSrcState], .one .evcCfgErr]
def itemsSec : List Item := [.one .secId, .one .secSerial, .one .secFwState, .one .secFwRemap, .one .secCfgErr]
def itemsMailbox : List Item := [.one .secBootSrc, .one .secBootLen, .one .secBootCmd, .one .secBootStatus]
def itemsPwr : List Item :=
  [.one .pwrCtrl, .one .pwrCap, .one .pwrEpoch, .one .pwrGrant, .one .pwrFloor, .one .pwrTherm, .one .pwrTelem, .one .pwrPark,
    .one .pwrDom0, .one .pwrDom1, .group 8 0 [.pwrDieClk], .one .pwrCfgErr]
def itemsRes : List Item :=
  [.one .resCtrl, .one .resEscCfg, .one .resResetReq, .one .resScrCfg, .one .resShadowCfg, .one .resHistCfg, .one .resCfgErr]
def itemsResPart : List Item :=
  [.one .resWdogCfg, .one .resTqCfg, .one .resPartStatus, .one .resHangStat, .one .resReplayStat, .one .resShadowStat,
    .one .resDigBase, .one .resDigCfg, .one .resPartCfgErr]
def itemsPrt : List Item := [.one .prtMode, .one .prtLayout, .group 8 0 [.prtPartReport], .one .prtCfgErr]
def itemsPrtPart : List Item :=
  [.one .prtPromCtrl, .one .prtPromAge, .group 4 0 [.prtPgpoolCfg, .prtPgpoolCap, .prtPgpoolStat], .one .prtPromQdepth,
    .one .prtPromStat0, .one .prtPromStat1, .one .prtPromStat2, .one .prtCapMem, .one .prtCapSeq, .one .prtCapJrn,
    .one .prtPartCfgErr]
def itemsHub : List Item := [.one .hubCoreIso, .group 104 0 [.hubCoreState, .hubCoreStat], .one .hubCfgErr]
def itemsKio : List Item := [.one .kioTimeout, .group 16 0 [.kioLinkStatus, .kioLinkCfg, .kioLinkErr], .one .kioCfgErr]
def itemsShc : List Item :=
  [.one .shcCtrl, .one .shcRetryCfg, .group 80 0 [.shcSliceStat0, .shcSliceStat1, .shcSliceStat2], .one .shcCfgErr]
def itemsShcPart : List Item := [.one .shcPartCfg, .one .shcPartStat]
def itemsDdrc : List Item := [.group 16 0 [.ddrcChStatus, .ddrcChEcc], .one .ddrcCfgErr]
def itemsIgf : List Item :=
  [.one .igfCtrl, .one .igfRetx, .group 8 0 [.igfPortStatus, .igfPortCfg, .igfPortStat], .one .igfCfgErr]
def itemsIgfPart : List Item :=
  [.one .igfNode, .one .igfDtSel, .one .igfDtData0, .one .igfDtData1, .one .igfPeerStat, .group 64 0 [.igfRt]]
def itemsIgfWin : List Item := [.group 64 0 [.igfWinBase, .igfWinCfg]]
def itemsPort : List Item := [.one .hptPortStatus, .one .hptPortCfg, .one .hptPortBind, .one .hptCfgErr]
def itemsPairs : List Item := [.group 1024 0 pairItems]
def itemsDevPairs : List Item := [.group 256 0 (pairItems ++ [.hptDb, .hptCqDb, .hptMsi])]
def itemsCe : List Item :=
  [.group 26 0x400 [.ceId, .ceState, .ceCtrl, .ceOcc, .ceSqcStat, .cePerfTensor, .cePerfVec, .ceCfgErr]]
def itemsDieMap : List Item := [.one .ceDieMap0, .one .ceDieMap1]
def itemsPool : List Item := [.group 8 0 [.seqePoolCfg, .seqePoolCap, .seqePoolStat]]
def itemsSeqe : List Item :=
  [.one .seqeCtrl, .one .seqeKvbtBase, .one .seqeStat0, .one .seqeStat1, .one .seqeStat2, .one .seqeKvcStat, .one .seqeEwStat] ++
    itemsPool ++ [.group 64 0 [.seqeEwSlot, .seqeEwNext], .one .seqeCfgErr]
def itemsHbmc : List Item :=
  [.group 1024 0 [.hbmcChStatus, .hbmcChEcc, .hbmcChSlot, .hbmcChScrub, .hbmcChTestCfg, .hbmcChTestPat, .hbmcChTestStat],
    .one .hbmcScrubCfg, .one .hbmcCfgErr]
def itemsHbmcPart : List Item :=
  [.one .hbmcIlCfg, .one .hbmcTourBase, .one .hbmcTourLen, .one .hbmcTourCmd, .one .hbmcTourPat, .one .hbmcTourResult,
    .one .hbmcTourStatus]
def itemsXlat : List Item :=
  [.one .xlatFqBase, .one .xlatFqCfg, .one .xlatFqHead, .one .xlatFqTail, .one .xlatFqResolve, .one .xlatFqStat,
    .one .xlatFqTimeout, .one .xlatFqMsi, .one .xlatInvReq, .one .xlatInvIssued, .one .xlatInvDone, .one .xlatWalkStat,
    .one .xlatTlbStat, .one .xlatCfgErr]

/-- What lies at an offset of the space: a register, with its instance; a page of an interrupt file (hart, file, offset in the
page), file 8 being the machine-level file; the Trouble Log window, with the byte offset in it; an assigned offset that
holds no register, with the CFG_ERR register of its block (R470, R478); or nothing. -/
inductive Place where
  | reg (r : RegName) (i : Nat)
  | imsic (hart file off : Nat)
  | tlog (off : Nat)
  | empty (err : RegName) (i : Nat)
  | unassigned
  deriving DecidableEq, Repr

/-- The register at an offset of block instance `b`, whose empty offsets belong to a CFG_ERR register. -/
def placeIn (items : List Item) (b off : Nat) (err : RegName × Nat) : Place :=
  match findIn off 0 items with
  | some (r, n, count) => .reg r (count * b + n)
  | none => .empty err.1 err.2

/-- An offset of the window of the partition at die `a` (R472). -/
def windowPlace (a off : Nat) : Place :=
  if off < 0x10000 then placeIn itemsPrtPart a off (.prtPartCfgErr, a)
  else if off < 0x20000 then placeIn itemsXlat a (off - 0x10000) (.xlatCfgErr, a)
  else if off < 0x30000 then placeIn itemsResPart a (off - 0x20000) (.resPartCfgErr, a)
  else if off < 0x40000 then placeIn itemsIgfWin a (off - 0x30000) (.igfCfgErr, 0)
  else if off < 0x100000 then placeIn itemsPool a (off - 0x40000) (.seqeCfgErr, a)
  else if off < 0x400000 then
    -- the group of 16-register stride ends at +0x10_8000, where CFG_ERR lies
    if off = 0x108000 then .reg .hptWinCfgErr a
    else placeIn itemsDevPairs (a + 16) (off - 0x100000) (.hptWinCfgErr, a)
  else .tlog (off - 0x400000)

/-- An offset of the Device Register Space (R468). -/
def spacePlace (layout off : Nat) : Place :=
  let part := fun (p : Nat) (items : List Item) (o : Nat) (err : RegName) =>
    match partAt layout p with
    | some a => placeIn items a o (err, 0)
    | none => .empty err 0
  if off < 0x10000 then placeIn itemsBtm 0 off (.btmCfgErr, 0)
  else if off < 0x20000 then placeIn itemsArb 0 (off - 0x10000) (.arbCfgErr, 0)
  else if off < 0x30000 then placeIn itemsEvc 0 (off - 0x20000) (.evcCfgErr, 0)
  else if off < 0x40000 then placeIn itemsSec 0 (off - 0x30000) (.secCfgErr, 0)
  else if off < 0x50000 then placeIn itemsPwr 0 (off - 0x40000) (.pwrCfgErr, 0)
  else if off < 0x60000 then placeIn itemsRes 0 (off - 0x50000) (.resCfgErr, 0)
  else if off < 0x70000 then placeIn itemsPrt 0 (off - 0x60000) (.prtCfgErr, 0)
  else if off < 0x80000 then placeIn itemsHub 0 (off - 0x70000) (.hubCfgErr, 0)
  else if off < 0x90000 then placeIn itemsKio 0 (off - 0x80000) (.kioCfgErr, 0)
  else if off < 0x98000 then placeIn itemsShc 0 (off - 0x90000) (.shcCfgErr, 0)
  else if off < 0xA0000 then part ((off - 0x98000) / 0x100) itemsShcPart (off % 0x100) .shcCfgErr
  else if off < 0xB0000 then placeIn itemsDdrc 0 (off - 0xA0000) (.ddrcCfgErr, 0)
  else if off < 0xB8000 then placeIn itemsIgf 0 (off - 0xB0000) (.igfCfgErr, 0)
  else if off < 0xC0000 then part ((off - 0xB8000) / 0x800) itemsIgfPart (off % 0x800) .igfCfgErr
  else if off < 0x100000 then .unassigned
  else if off < 0x180000 then
    let q := (off - 0x100000) / 0x20000
    let o := off % 0x20000
    if q < 4 then
      if o < 0x1000 then placeIn itemsPort q o (.hptCfgErr, q)
      else if o < 0x10000 then placeIn itemsMailbox q (o - 0x1000) (.hptCfgErr, q)
      else placeIn itemsPairs q (o - 0x10000) (.hptCfgErr, q)
    else .empty .hptCfgErr 0
  else if off < 0x200000 then .unassigned
  else if off < 0x280000 then
    let n := (off - 0x200000) / 0x10000
    let o := off % 0x10000
    if o < 0x8000 then placeIn itemsCe n o (.ceCfgErr, 26 * n + min 25 (o / 0x400))
    else placeIn itemsDieMap n (o - 0x8000) (.ceCfgErr, 26 * n)
  else if off < 0x300000 then
    let n := (off - 0x280000) / 0x10000
    placeIn itemsSeqe n (off % 0x10000) (.seqeCfgErr, n)
  else if off < 0x320000 then placeIn itemsHbmc 0 (off - 0x300000) (.hbmcCfgErr, 0)
  else if off < 0x340000 then part ((off - 0x320000) / 0x100) itemsHbmcPart (off % 0x100) .hbmcCfgErr
  else if off < 0x400000 then .unassigned
  else if off < 0x4400000 then
    match partAt layout ((off - 0x400000) / 0x800000) with
    | some a => windowPlace a ((off - 0x400000) % 0x800000)
    | none => .unassigned
  else if off < 0x4460000 then .imsic ((off - 0x4400000) / 0x1000) 8 (off % 0x1000)
  else if off < 0x4800000 then .unassigned
  else if off < 0x4B00000 then .imsic ((off - 0x4800000) / 0x8000) (off % 0x8000 / 0x1000) (off % 0x1000)
  else if off < 0x5000000 then .unassigned
  else if off < 0x5400000 then .tlog (off - 0x5000000)
  else .unassigned

/-- An offset of BAR0 of a port, without the MSI-X structures and the read-only subset (R329). -/
def barPlace (q off : Nat) : Place :=
  if off < 0x1000 then placeIn itemsPort q off (.hptCfgErr, q)
  else if off < 0x2000 then placeIn itemsMailbox q (off - 0x1000) (.hptCfgErr, q)
  else if off < 0x100000 then .empty .hptCfgErr q
  else if off < 0x110000 then placeIn itemsPairs q (off - 0x100000) (.hptCfgErr, q)
  else .empty .hptCfgErr q

/-! ### What registers read as -/

/-- The state code of a CE (R109). -/
def Dev.ceCode (d : Dev) (k : Nat) : Nat :=
  if !d.domOn (ceDomain k) then 5
  else match (d.ce k).st with
    | .active => 0
    | .withheld => 1
    | .spareFree => 2
    | .spareHeld => 3
    | .mappedOut => 4
    | .gated => 5

/-- The state code of a core (R237). -/
def Dev.coreCode (d : Dev) (k : Nat) : Nat :=
  if !d.domOn (coreDomain k) then 5
  else match (d.core k).st with
    | .running => 0
    | .stopped => 1
    | .spareFree => 2
    | .spareHeld => 3
    | .mappedOut => 4
    | .gated => 5

/-- The PHYS fields of a DIE_MAP register: 12 logical numbers from `n`. -/
def Dev.dieMap (d : Dev) (n : Nat) : Nat :=
  (List.range 12).foldl (fun v k => v + 2 ^ (5 * k) * (match d.ceOfLogical (n + k) with
    | some c => c % 26
    | none => 0x1F)) 0

/-- `PWR.DOM0` and `PWR.DOM1` from a domain (R450). -/
def Dev.domains (d : Dev) (first count : Nat) : Nat :=
  (List.range count).foldl (fun v i => if d.domOn (first + i) then v + 2 ^ i else v) 0

/-- `PRT.PROM_QDEPTH` of a partition. -/
def Dev.qdepth (bt : Nat) (d : Dev) (a : Nat) : Nat :=
  let moves := (d.tier.moves.map (fun m => m.2)).filter (fun m => m.part == a)
  let bg := moves.filter (fun m => m.cls = .background)
  let count := fun (c : MoveCls) =>
    min 65535 (((moves.filter (fun m => m.cls = c)).map (fun m => m.req) ++
      (d.tier.reqs.filter (fun r => r.cls = c && d.partOfCtx r.ctx == a)).map (fun r => r.id)).foldl listAdd []).length
  let sched := (d.tier.wins.filter (fun w => d.partOfCtx w.2.ctx == a)).foldl (fun n w =>
    n + (w.2.ents.filter (fun e => e.st = .waiting || e.st = .promoting || e.st = .late || e.st = .leaving)).length) 0
  let oldest := bg.foldl (fun n m => max n ((bt - m.since) / 1000000)) 0
  count .demand + min 65535 sched * 2 ^ 16 + count .background * 2 ^ 32 + min 65535 oldest * 2 ^ 48

/-- `RES.PART_STATUS` of a partition: the rung it is on, the context being replayed and the suspects left. -/
def Dev.partStatus (d : Dev) (a : Nat) : Nat :=
  let e := mapFind? d.res.episodes a
  let step := match mapFind? d.res.parts a with
    | some r => if r.held then 5 else 4
    | none => match e with
      | some e => if e.removing then 1 else if e.engine ≠ [] then 2 else 3
      | none => 0
  step + ((e.bind (fun e => e.current)).getD 0) * 2 ^ 3 + d.suspects a * 2 ^ 15

/-- A pool's STAT register. -/
def Dev.poolStat (d : Dev) (k : Nat) : Word :=
  BitVec.ofNat 64 ((d.pool k).free.length + (d.pool k).wiping + (d.pool k).lent.length * 2 ^ 32)

/-- The value a register reads as: a WO field reads zero (R6); a field that reports other state is taken from it; the rest is the
stored value. A read has no side effect (R470). -/
def Dev.readReg (bt : Nat) (d : Dev) (r : RegName) (i : Nat) : Word :=
  let ofNat := fun (n : Nat) => BitVec.ofNat 64 n
  let stored := (regFields r).foldl (fun w f => if f.acc = .wo then putBits w f.fld.hi f.fld.lo 0 else w) (d.reg r i)
  let put := fun (f : Fld) (v : Nat) (w : Word) => putBits w f.hi f.lo v
  let wheelStat := fun (w : Nat) (armed later : Fld) =>
    put armed (d.wheel w).length (put later ((d.wheel w).filter (fun e => e.lvl = .overflow)).length stored)
  match r with
  | .btmNow => ofNat bt
  | .btmStatus => put F.btmStatusSrcFault (max (d.fget F.btmStatusPtpFault 0) (d.fget F.btmStatusPpsFault 0)) stored
  | .seqeEwStat => wheelStat i F.seqeEwStatArmed F.seqeEwStatOverflow
  | .arbEwStat => wheelStat 8 F.arbEwStatArmed F.arbEwStatOverflow
  | .ceId => ofNat (i % 26 + i / 26 * 2 ^ 5 + ceGroup i * 2 ^ 8 + ((d.ce i).logical).getD 0xFF * 2 ^ 11)
  | .ceState =>
    let c := d.ce i
    ofNat (d.ceCode i + (if c.st = .spareHeld then c.rank else 0) * 2 ^ 3 + (c.threads.filter (fun t => t.isSome)).length * 2 ^ 5 +
      (if c.tensor.isSome then 2 ^ 8 + c.threads.idxOf c.tensor * 2 ^ 9 else 0))
  | .ceOcc => ofNat (d.ceCohorts i + d.ceRegKib i * 2 ^ 10 + d.ceLs i * 2 ^ 21)
  | .ceDieMap0 => ofNat (d.dieMap (24 * i))
  | .ceDieMap1 => ofNat (d.dieMap (24 * i + 12))
  | .seqePoolStat => d.poolStat i
  | .prtPgpoolStat => d.poolStat (64 + i)
  | .prtPromQdepth => ofNat (d.qdepth bt i)
  | .hubCoreState => ofNat (d.coreCode i + ((d.core i).logical).getD 0x7F * 2 ^ 3 + i / 8 * 2 ^ 10)
  | .shcPartStat => ofNat (d.rbSize i / 2 ^ 20 + d.keepLimit i * 2 ^ 32)
  | .shcSliceStat2 => put F.shcSliceStat2SpareWays (d.coh.ways.filter (fun w => w.1 == i)).length stored
  | .xlatFqStat => put F.xlatFqStatHeld (d.xlat.held.filter (fun h => h.part == i && h.id.isNone)).length stored
  | .hptStatus => d.pairStatus i
  | .igfDtData0 => ofNat (d.peer i (d.fget F.igfDtSelNode i)).word0
  | .igfDtData1 => ofNat (((d.peer i (d.fget F.igfDtSelNode i)).epoch).getD 0)
  | .igfPeerStat => put F.igfPeerStatInflight (d.inFlight i (d.fget F.igfDtSelNode i)).length stored
  | .evcSrcCfg => put F.evcSrcCfgBlock (Config.srcBlock i) (put F.evcSrcCfgUnit (Config.srcUnit i) stored)
  | .evcSrcState =>
    let x := d.evSrc i
    ofNat (b2n x.pending + min 255 x.count * 2 + b2n (d.srcActive i) * 2 ^ 9)
  | .resPartStatus => ofNat (d.partStatus i)
  | .pwrDom0 => ofNat (d.domains 0 64)
  | .pwrDom1 => ofNat (d.domains 64 48)
  | _ => stored

/-- The eight words of a Trouble Log entry (R383). -/
def TEntry.word (e : TEntry) (k : Nat) : Word :=
  match k with
  | 0 => BitVec.ofNat 64 e.seq
  | 1 => BitVec.ofNat 64 e.bt
  | 2 => BitVec.ofNat 64 (e.cls % 256 + e.code % 256 * 2 ^ 8 + e.sev % 16 * 2 ^ 16 + e.part % 16 * 2 ^ 20 + e.status % 256 * 2 ^ 24 +
      e.unit % 65536 * 2 ^ 32 + e.ctx % 4096 * 2 ^ 48)
  | 3 => BitVec.ofNat 64 e.addr
  | n => BitVec.ofNat 64 ((e.data[n - 4]?).getD 0)

/-- What a party reads at a place: the log as R384 filters it, zero where there is no register (R470) and at an interrupt file. -/
def Dev.placeRead (bt : Nat) (d : Dev) (p : Party) : Place → Word
  | .reg r i => d.readReg bt r i
  | .tlog off => (d.logRead p (off / 64)).word (off % 64 / 8)
  | .imsic _ _ _ => 0#64
  | .empty _ _ => 0#64
  | .unassigned => 0#64

/-- Does the read-only subset of BAR0 show a device offset (R473)? -/
def inSubset (o : Nat) : Bool :=
  (decide (o < 0x400000)) && (decide (o < 0x10000) || (decide (0x30000 ≤ o) && decide (o < 0x50000)) ||
    (decide (0x60000 ≤ o) && decide (o < 0x70000)) || (decide (0x80000 ≤ o) && decide (o < 0x90000)) ||
    (decide (0xA0000 ≤ o) && decide (o < 0xB8000)) || (decide (0x200000 ≤ o) && decide (o < 0x280000)) ||
    (decide (0x300000 ≤ o) && decide (o < 0x320000)))

/-- A host's read through BAR0 (R329, R473, R481). -/
def Dev.hostRead (bt : Nat) (d : Dev) (q off : Nat) : Word :=
  if d.res.warm.isSome ∧ off ≠ 0 ∧ ¬(0x1000 ≤ off ∧ off < 0x2000) then 0xFFFFFFFFFFFFFFFF#64
  else if 0x1000000 ≤ off ∧ off < 0x1008000 then mapGet 0#64 d.msix (4096 * q + (off - 0x1000000) / 8)
  else if off < 0x2000000 then d.placeRead bt (.host q) (barPlace q off)
  else if off < 0x2400000 then d.placeRead bt (.host q) (.tlog (off - 0x2000000))
  else if inSubset (off - 0x2400000) then d.placeRead bt (.host q) (spacePlace d.layout (off - 0x2400000))
  else 0#64

/-! ### Writes with rules of their own -/

/-- A write of `SEQE.CTRL`: ENABLE is not cleared while a slot of the die is not CLOSED. -/
def Dev.seqeCtrlWrite (d : Dev) (p : Party) (n : Nat) (v : Word) : Dev :=
  d.regWrite p .seqeCtrl n v
    (verdict false (!bit v.toNat 0 && d.fon F.seqeCtrlEnable n && d.seq.slots.any (fun s => s.1 / 2048 == n)))
    (fun d => if bit v.toNat 1 then
        [RegName.seqeStat0, .seqeStat1, .seqeStat2, .seqeKvcStat].foldl (fun d r => d.clearCounters r n) d
      else d)

/-- A write of `SEQE.KVBT_BASE`: the share lies in the die's own HBM (R170, R197), and does not move under an admitted context (R171). -/
def Dev.kvbtWrite (d : Dev) (p : Party) (n : Nat) (v : Word) : Dev :=
  let base := bits v.toNat 47 24 * 2 ^ 24
  d.regWrite p .seqeKvbtBase n v
    (verdict (!(decide ((d.localRegion n).base ≤ base) && decide (base + 2 ^ 24 ≤ (d.localRegion n).base + (d.localRegion n).size)))
      (d.admitted (d.partOfDie n))) id

/-- Does a pool hold or lend frames? -/
def Dev.poolBusy (d : Dev) (k : Nat) : Bool := !(d.pool k).free.isEmpty || (d.pool k).wiping != 0 || !(d.pool k).lent.isEmpty

/-- A write of a pool's CFG or CAP register; `k` is the pool, `a` its partition. VALID is not cleared while the pool holds or has lent
frames, the stack of CAP frame numbers of 4 bytes lies in the partition's HBM, and neither register changes while a context is admitted. -/
def Dev.poolWrite (d : Dev) (p : Party) (r : RegName) (i k a : Nat) (v : Word) : Dev :=
  let cfg := r = .seqePoolCfg || r = .prtPgpoolCfg
  d.regWrite p r i v
    (verdict
      ((r ≠ .prtPgpoolCfg && r ≠ .prtPgpoolCap && i / 8 ≠ a) ||
        (cfg && !bit v.toNat 0 && d.poolValid k && d.poolBusy k) ||
        (cfg && !d.inHbm a (bits v.toNat 47 12 * 4096) (max 4 (4 * d.poolCap k))))
      (d.admitted a)) id

/-- A write of `PRT.PROM_CTRL`. -/
def Dev.promCtrlWrite (d : Dev) (p : Party) (a : Nat) (v : Word) : Dev :=
  d.regWrite p .prtPromCtrl a v .ok (fun d => if bit v.toNat 1 then
      [RegName.prtPromStat0, .prtPromStat1, .prtPromStat2].foldl (fun d r => d.clearCounters r a) d
    else d)

/-- A write of `HUB.CORE_ISO`. -/
def Dev.coreIsoWrite (d : Dev) (p : Party) (v : Word) : Dev :=
  d.regWrite p .hubCoreIso 0 v .ok (fun d => if bit v.toNat 63 then
      (List.range 104).foldl (fun d k => d.clearCounters .hubCoreStat k) (d.clearCounters .hubCoreIso 0)
    else d)

/-- A write of `SHC.CTRL`. -/
def Dev.shcCtrlWrite (d : Dev) (p : Party) (v : Word) : Dev :=
  d.regWrite p .shcCtrl 0 v .ok (fun d => if bit v.toNat 0 then
      (List.range 80).foldl (fun d k =>
        ((d.clearCounters .shcSliceStat0 k).clearCounters .shcSliceStat1 k).clearCounters .shcSliceStat2 k) d
    else d)

/-- A write of `EVC.CTRL`. -/
def Dev.evcCtrlWrite (d : Dev) (p : Party) (v : Word) : Dev :=
  d.regWrite p .evcCtrl 0 v .ok (fun d => if bit v.toNat 0 then d.clearCounters .evcStat 0 else d)

/-- A write of `RES.CTRL`. -/
def Dev.resCtrlWrite (d : Dev) (p : Party) (v : Word) : Dev :=
  d.regWrite p .resCtrl 0 v .ok (fun d => if bit v.toNat 0 then
      (List.range 8).foldl (fun d a => (d.clearCounters .resHangStat a).clearCounters .resReplayStat a) d
    else d)

/-- A write of `XLAT.FQ_BASE` or `XLAT.FQ_CFG`: the queue lies in the partition's HBM, is at least as large as R321 asks, and is
fixed while a context is admitted. -/
def Dev.fqSetupWrite (d : Dev) (p : Party) (r : RegName) (a : Nat) (v : Word) : Dev :=
  d.regWrite p r a v
    (verdict
      (if r = .xlatFqBase then !d.inHbm a (bits v.toNat 47 12 * 4096) 4096 else decide (bits v.toNat 4 0 < fqLog2 (d.dies a)))
      (d.admitted a)) id

/-- A write of `XLAT.FQ_MSI` or `HPT.DRk_MSI` (R230): with EN set, the identity is 1 to 511, and a hart outside the partition is refused,
with CONFLICT in the Hub as well. A DRAINING pair refuses it with CONFLICT (R351). -/
def Dev.msiWrite (d : Dev) (p : Party) (r : RegName) (i a : Nat) (v : Word) : Dev :=
  let en := bit v.toNat 19
  let out := en && (decide (96 ≤ bits v.toNat 6 0) || d.partOfHart (bits v.toNat 6 0) != a)
  let noId := en && bits v.toNat 18 10 == 0
  let d := if out ∧ ¬noId then d.refuse .hubCfgErr 0 true else d
  d.regWrite p r i v (verdict noId (out || (r = .hptMsi && (d.pair i).st = .draining))) id

/-- A write of a register, by its own rules. -/
def Dev.writeReg (bt : Nat) (d : Dev) (p : Party) (r : RegName) (i : Nat) (v : Word) : Dev :=
  match r with
  | .btmCtrl => d.btmCtrlWrite bt p v
  | .btmStatus => d.btmStatusWrite p v
  | .btmFreqAdj => d.btmFreqAdjWrite p v
  | .seqeEwSlot => d.ewSlotWrite p (i / 64) (i % 64) v
  | .seqeEwNext => d.ewNextWrite bt p (i / 64) (i % 64) v
  | .arbEwSlot => d.ewSlotWrite p 8 i v
  | .arbEwNext => d.ewNextWrite bt p 8 i v
  | .arbPairCtrl => d.pairCtrlWrite bt p i v
  | .evcCtrl => d.evcCtrlWrite p v
  | .evcSrcCfg => d.evcCfgWrite p i v
  | .evcSet => d.evcSetWrite bt p v
  | .ceCtrl => d.ceCtrlWrite p i v
  | .seqeCtrl => d.seqeCtrlWrite p i v
  | .seqeKvbtBase => d.kvbtWrite p i v
  | .seqePoolCfg => d.poolWrite p r i i (d.partOfDie (i / 8)) v
  | .seqePoolCap => d.poolWrite p r i i (d.partOfDie (i / 8)) v
  | .prtPgpoolCfg => d.poolWrite p r i (64 + i) (i / 4) v
  | .prtPgpoolCap => d.poolWrite p r i (64 + i) (i / 4) v
  | .prtPromCtrl => d.promCtrlWrite p i v
  | .prtMode => d.modeWrite bt p v
  | .prtLayout => d.nextWrite p v
  | .hubCoreIso => d.coreIsoWrite p v
  | .shcCtrl => d.shcCtrlWrite p v
  | .shcPartCfg => d.partCfgWrite p i v
  | .hbmcChSlot => d.chSlotWrite p i v
  | .hbmcChTestCfg => d.testCfgWrite p i v
  | .hbmcIlCfg => d.ilCfgWrite p i v
  | .hbmcTourCmd => d.tourCmdWrite p i v
  | .xlatFqBase => d.fqSetupWrite p r i v
  | .xlatFqCfg => d.fqSetupWrite p r i v
  | .xlatFqHead => d.fqHeadWrite p i v
  | .xlatFqResolve => d.fqResolve bt p i v
  | .xlatFqMsi => d.msiWrite p r i i v
  | .xlatInvReq => d.invReq p i v
  | .hptPortBind => d.bindWrite p i v
  | .hptSqBase => d.pairRegWrite p r i v
  | .hptCqBase => d.pairRegWrite p r i v
  | .hptHeadWb => d.pairRegWrite p r i v
  | .hptCfg => d.pairRegWrite p r i v
  | .hptAttach => d.attachWrite bt p i v
  | .hptMsi => d.msiWrite p r i (pairWindow i) v
  | .hptDb => d.sqDoorbell i 0 8 v
  | .hptCqDb => d.cqDoorbell i 0 8 v
  | .igfRt => d.routeWrite p i v
  | .igfPortCfg => d.portCfgWrite p i v
  | .igfDtData0 => d.dtWrite p i v
  | .igfWinBase => d.winBaseWrite p i v
  | .igfWinCfg => d.winCfgWrite p i v
  | .secBootSrc => d.bootSrcWrite p i v
  | .secBootCmd => d.bootCmdWrite p i v none []
  | .resCtrl => d.resCtrlWrite p v
  | .resResetReq => d.resetReqWrite bt p v
  | .resScrCfg => d.scrCfgWrite bt p v
  | .resDigBase => d.digWrite p r i v
  | .resDigCfg => d.digWrite p r i v
  | .pwrCtrl => d.pwrCtrlWrite p v
  | .pwrCap => d.pwrCapWrite p v
  | .pwrEpoch => d.pwrEpochWrite p v
  | .pwrTherm => d.pwrThermWrite p v
  | .pwrPark => d.parkWrite bt p v
  | _ => d.regWrite p r i v .ok id

/-! ### A write at an offset, by the party that makes it (R470, R471, R481) -/

/-- A write that has reached its place: an identity written at offset 0 of an interrupt file becomes pending, the log is read-only, an
offset without a register refuses (R470). -/
def Dev.placeWrite (bt : Nat) (d : Dev) (p : Party) (v : Word) : Place → Dev
  | .reg r i => d.writeReg bt p r i v
  | .imsic h f off =>
    if off = 0 ∧ 0 < v.toNat ∧ v.toNat < 512 then d.sendMsi (d.partOfHart h) h f v.toNat else d
  | .tlog _ => d.refuse .arbCfgErr 0 false
  | .empty e i => d.setReg e i (d.reg e i ||| 1#64)
  | .unassigned => d

/-- Is the domain of a register in reset, so that it does not answer (R481)? -/
def Dev.inReset (d : Dev) : Place → Bool
  | .reg r i => (d.res.warm.isSome && regDomain r ≠ .power) ||
      d.res.parts.any (fun x => !x.2.held && inPartition x.1 r i)
  | .imsic _ _ _ => false
  | .tlog _ => false
  | .empty _ _ => false
  | .unassigned => false

/-- The last address of the Device Register Space's base (R468). -/
def regBase : Nat := 0xF00000000000

/-- Does a core reach a place at an offset: its partition's window, and the supervisor and guest files of its partition's harts
(R234, R471)? -/
def Dev.coreReaches (d : Dev) (h off : Nat) : Bool :=
  let base := 0x400000 + partNum d.layout (d.partOfHart h) * 0x800000
  (decide (base ≤ off) && decide (off < base + 0x800000)) ||
    (decide (0x4800000 ≤ off) && decide (off < 0x4B00000) && d.partOfHart ((off - 0x4800000) / 0x8000) == d.partOfHart h)

/-- Does the block of a place answer a core of the partition at die `a` not: the partition is parked, the domain gated or in reset
(R256)? -/
def Dev.deadPlace (d : Dev) (a : Nat) (x : Place) : Bool :=
  match x with
  | .reg r i => d.parked a || d.inReset x ||
      ((r == .seqePoolCfg || r == .seqePoolCap || r == .seqePoolStat) && !d.domOn (12 * (i / 8) + 7))
  | _ => false

/-- A core's access to the space, at an offset, before anything is sent (R234, R252, R254, R256): the buffer drains, a store that timed
out raises its fault on this access; an access that may not be made raises its access fault and is logged. Of an MSI write to a hart
of another partition, the write is also counted as dropped (R224; DEDUCED, log entry 123). -/
def Dev.spaceTrap (bt : Nat) (d : Dev) (h off cause : Nat) : Option Dev :=
  match (d.hart h).timedOut with
  | t :: _ => some (d.coreTrap h 7 t)
  | [] =>
    if off % 8 ≠ 0 ∨ d.coreReaches h off = false then
      let d := if off % 8 = 0 ∧ 0x4800000 ≤ off ∧ off < 0x4B00000 ∧ cause = 7 then d.fbump F.hubCoreIsoDropped 0 1 else d
      some ((d.tlog bt 1 43 (some (d.partOfHart h)) h (regBase + off)).coreTrap h cause (regBase + off))
    else none

/-- A core's store to the space: one to a block that does not answer stays unacknowledged (R255, R256). -/
def Dev.coreStore (bt : Nat) (d : Dev) (h off : Nat) (v : Word) : Dev :=
  if !d.runs h then d
  else match d.spaceTrap bt h off 7 with
    | some d => d
    | none =>
      let d := d.drainStores h
      let x := spacePlace d.layout off
      if d.deadPlace (d.partOfHart h) x then
        d.modHart h (fun y => { y with regStores := y.regStores ++ [⟨regBase + off, v.toNat, bt⟩] })
      else d.placeWrite bt (.core h) v x

/-- Stores outstanding to blocks that answer again are acknowledged, in order (R255). -/
def Dev.acknowledge (bt : Nat) (d : Dev) (h : Nat) : Dev :=
  (d.hart h).regStores.foldl (fun d s =>
    let x := spacePlace d.layout (s.addr - regBase)
    if d.deadPlace (d.partOfHart h) x then d
    else (d.modHart h (fun y => { y with regStores := y.regStores.erase s })).placeWrite bt (.core h) (BitVec.ofNat 64 s.value) x) d

/-- The core monitor's store: the machine-level interrupt files of its partition's harts (R471); any other raises a store access fault
and is logged (R234). -/
def Dev.monitorStore (bt : Nat) (d : Dev) (h off : Nat) (v : Word) : Dev :=
  if !d.runs h then d
  else if off % 8 = 0 ∧ 0x4400000 ≤ off ∧ off < 0x4460000 ∧ d.partOfHart ((off - 0x4400000) / 0x1000) = d.partOfHart h then
    d.placeWrite bt (.monitor h) v (spacePlace d.layout off)
  else (d.tlog bt 1 43 (some (d.partOfHart h)) h (regBase + off)).coreTrap h 7 (regBase + off)

/-- A host's write through BAR0 (R329, R473, R481): the MSI-X table, the port's registers, ring pairs and mailbox; a write in the
read-only subset is refused; during a chip warm reset only the mailbox and `HPT.PORT_STATUS` answer. -/
def Dev.hostStore (bt : Nat) (d : Dev) (q off : Nat) (v : Word) : Dev :=
  if 4 ≤ q ∨ !d.linkUp q ∨ off % 8 ≠ 0 ∨ 0x4000000 ≤ off then d
  else if d.res.warm.isSome ∧ off ≠ 0 ∧ ¬(0x1000 ≤ off ∧ off < 0x2000) then d
  else if 0x1000000 ≤ off ∧ off < 0x1008000 then
    d.setMsix (mapSet 0#64 d.msix (4096 * q + (off - 0x1000000) / 8) v)
  else if 0x1008000 ≤ off ∧ off < 0x1008100 then d
  else if off < 0x2000000 then d.placeWrite bt (.host q) v (barPlace q off)
  else d.refuse .hptCfgErr q false

/-- Firmware's write: from a pair that runs. An unassigned or misaligned offset is an access fault on the pair, whose handler is
firmware's own; a write to a register in reset waits until the reset ends (R470, R481). -/
def Dev.firmwareStore (bt : Nat) (d : Dev) (k off : Nat) (v : Word) : Dev :=
  let x := spacePlace d.layout off
  if 4 ≤ k ∨ d.fget F.arbPairStatusState k = pairStopped ∨ off % 8 ≠ 0 ∨ d.inReset x then d
  else d.placeWrite bt (.firmware k) v x

/-- REGISTER_WRITE, COUNTER_CLEAR and LOCK: a write at an offset of the Device Register Space; for a host, of BAR0. -/
def Dev.spaceWrite (bt : Nat) (d : Dev) (p : Party) (off : Nat) (v : Word) : Dev :=
  match p with
  | .firmware k => d.firmwareStore bt k off v
  | .core h => d.coreStore bt h off v
  | .monitor h => d.monitorStore bt h off v
  | .host q => d.hostStore bt q off v

/-- A load of the Device Register Space; none where it raises an access fault. -/
def Dev.spaceRead (bt : Nat) (d : Dev) (p : Party) (off : Nat) : Option Word :=
  let x := spacePlace d.layout off
  match p with
  | .firmware _ => if off % 8 = 0 ∧ x ≠ .unassigned then some (d.placeRead bt p x) else none
  | .core h => if off % 8 = 0 ∧ d.coreReaches h off = true then some (d.placeRead bt p x) else none
  | .monitor h =>
    if off % 8 = 0 ∧ 0x4400000 ≤ off ∧ off < 0x4460000 ∧ d.partOfHart ((off - 0x4400000) / 0x1000) = d.partOfHart h then
      some (d.placeRead bt p x) else none
  | .host q => if off % 8 = 0 ∧ off < 0x4000000 then some (d.hostRead bt q off) else none

/-! ### Meanings -/

def execRegisterWrite (p : Party) (off : Nat) (v : Word) : State → Host.Outcome State Fault Refusal :=
  onDev (fun bt d => d.spaceWrite bt p off v)
def execCounterClear (p : Party) (off : Nat) (v : Word) : State → Host.Outcome State Fault Refusal :=
  onDev (fun bt d => d.spaceWrite bt p off v)
def execLock (p : Party) (off : Nat) (v : Word) : State → Host.Outcome State Fault Refusal :=
  onDev (fun bt d => d.spaceWrite bt p off v)

end Sys2Proof.Machine
end

