-- ==== Sys2Proof/Machine/CoreCmd.lean ====
section
/-! DEFINITION. The commands of the resident cores that reach both memory and the register space: RDS, RDX and UPGRADE with the access
that needs the line (R225, R252, R259, R265), and CORE_FENCE (R254 to R256). -/

namespace Sys2Proof.Machine

/-! ### Register accesses of the cores (R252, R256, R259) -/

/-- A core's access to the Device Register Space: loads and stores of 64 bits only; an atomic raises a store access fault, any other
form its access fault, and each is logged. A load from a block that does not answer waits. -/
def Dev.coreRegister (bt : Nat) (d : Dev) (h : Nat) (x : CoreAcc) : Dev :=
  let off := x.addr % 2 ^ 48 - regBase
  let next := fun (d : Dev) (f : Hart → Hart) => d.modHart h (fun y => { f y with pc := y.pc + BitVec.ofNat 64 x.len })
  let fault := fun (d : Dev) (c : Nat) => match (d.hart h).timedOut with
    | t :: _ => d.coreTrap h 7 t
    | [] => (d.tlog bt 1 43 (some (d.partOfHart h)) h x.addr).coreTrap h c x.addr
  if x.op.atomic then fault d 7
  else match x.op with
    | .load 8 _ rd =>
      match d.spaceTrap bt h off 5 with
      | some d => d
      | none =>
        let d := d.drainStores h
        let place := spacePlace d.layout off
        if d.deadPlace (d.partOfHart h) place then
          d.modHart h (fun y => { y with regLoad := if y.regLoad.isSome then y.regLoad else some (regBase + off, bt) })
        else
          let v := d.placeRead bt (.core h) place
          next d (fun y => { y.xPut rd v with regLoad := none })
    | .store 8 rs =>
      match d.spaceTrap bt h off 7 with
      | some d => d
      | none => next (d.coreStore bt h off ((d.hart h).xGet rs)) id
    | _ => fault d x.op.cause

/-! ### RDS, RDX and UPGRADE -/

/-- A request of an agent for a line: a core's, with the access that needs it, is that access's own (R225), and goes to the register
space where its address lies there; while a load of the hart waits for a register, only that load goes on. -/
def Dev.agentReq (bt : Nat) (d : Dev) (g line : Nat) (kind : ReqKind) (acc : Option CoreAcc) : Dev :=
  match acc with
  | none => match kind with
    | .rds => d.rds bt g line none
    | .rdx => d.rdx bt g line none
    | .upgrade => d.upgrade bt g line none
  | some x =>
    let y := x.addr % 2 ^ 48
    if g < 96 ∧ d.runs g ∧ line = y / 64 ∧ x.op.reads = decide (kind = .rds) ∧ (d.hart g).regLoad.all (fun s => s.1 == y) then
      if regBase ≤ y then d.coreRegister bt g x else d.coreAccess bt g kind x
    else d

/-! ### Fences (R254 to R256) -/

/-- CORE_FENCE: the buffer drains. Register stores that timed out raise one store access fault on the fence, which is not
performed; else it waits for those outstanding that no block acknowledges, and passes when there is none. -/
def Dev.coreFence (bt : Nat) (d : Dev) (h : Nat) (err : Option (Nat × CoreErr)) : Dev :=
  if d.runs h then
    let d := match err with
      | some (x, e) => d.coreError bt h x e
      | none => d
    match (d.hart h).timedOut with
    | t :: _ => d.coreTrap h 7 t
    | [] =>
      let d := (d.drainStores h).acknowledge bt h
      if (d.hart h).regStores = [] then d.modHart h (fun x => { x with pc := x.pc + 4#64 }) else d
  else d

/-! ### Meanings -/

def execRds (agent : Nat) (req : LineReq) : State → Host.Outcome State Fault Refusal :=
  onDev (fun bt d => d.agentReq bt agent req.line .rds req.acc)
def execRdx (agent : Nat) (req : LineReq) : State → Host.Outcome State Fault Refusal :=
  onDev (fun bt d => d.agentReq bt agent req.line .rdx req.acc)
def execUpgrade (agent : Nat) (req : LineReq) : State → Host.Outcome State Fault Refusal :=
  onDev (fun bt d => d.agentReq bt agent req.line .upgrade req.acc)
def execCoreFence (hart : Nat) (err : Option (Nat × CoreErr)) : State → Host.Outcome State Fault Refusal :=
  onDev (fun bt d => d.coreFence bt hart err)

end Sys2Proof.Machine
end

