-- ==== Sys2Proof/Machine/SeCmd.lean ====
section
/-! DEFINITION. Sequence Engine commands of a launch (R186 to R194, R501): KVG, KVA, LCHK and XDISP, their held answers, and
the completion of every command. -/

namespace Sys2Proof.Machine

/-! ### Issue: the checks of R186 -/

/-- Fields of the KVG and KVA request block. -/
structure KvReq where
  count : Nat
  layer : Nat
  tree : Bool
  list : Nat
  dest : Nat
  destLen : Nat
  index : Nat
  subOff : Nat
  subLen : Nat
  deriving DecidableEq, Repr

/-- Read a KVG or KVA request block (R188, R190). -/
def Dev.kvReq (d : Dev) (y : Member) (b : Nat) : KvReq :=
  { count := d.lsNat y b 2, layer := d.lsNat y (b + 2) 1, tree := bit (d.lsNat y (b + 3) 1) 0, list := d.lsNat y (b + 4) 4
    dest := d.lsNat y (b + 8) 4, destLen := d.lsNat y (b + 0xC) 4, index := d.lsNat y (b + 0x10) 4
    subOff := d.lsNat y (b + 0x14) 2, subLen := d.lsNat y (b + 0x16) 2 }

/-- The next multiple of 16. -/
def up16 (n : Nat) : Nat := (n + 15) / 16 * 16

/-- The first exception of a list of checks. -/
def firstExc : List (Bool × Nat) → Option Nat
  | [] => none
  | (b, e) :: cs => if b then some e else firstExc cs

/-- May the context's commands name a slot (R39, R186)? -/
def Dev.slotFor (d : Dev) (c s : Nat) : Bool := (d.slot s).st ≠ .closed && (d.slot s).st ≠ .closing && (d.slot s).ctx == c

/-- The offset from SRC of each entry of a KVA list and the end of the data, entries from `at_` (R190). -/
def Dev.kvaOffs (d : Dev) (y : Member) (len : Nat) : Nat → Nat → Nat → List Nat
  | 0, _, off => [off]
  | n + 1, at_, off => up16 off :: d.kvaOffs y len n (at_ + 16) (up16 off + d.lsNat y (at_ + 8) 4 * len)

/-- Exceptions of KVG and KVA. -/
def Dev.kvExc (append : Bool) (d : Dev) (x : Launch) (y : Member) (w : Nat) : Option Nat :=
  let b := (y.sget (iSD w)).toNat
  let r := d.kvReq y b
  let out := fun (a n : Nat) => decide (x.lsSize < a + n)
  let es := (List.range r.count).map (fun i => r.list + 16 * i)
  (firstExc [(b % 64 != 0, excAlign), (out b 64, excLsRange),
      (decide (r.count = 0 ∨ 1024 < r.count ∨ r.subLen = 0 ∨ bits (d.lsNat y (b + 3) 1) 7 1 ≠ 0 ∨ d.lsNat y (b + 0x18) 40 ≠ 0) ||
        (append && r.tree), excIllegal),
      (decide (r.list % 16 ≠ 0 ∨ r.dest % 16 ≠ 0 ∨ r.index % 16 ≠ 0), excAlign),
      (out r.list (16 * r.count) || out r.dest r.destLen || out r.index (16 * r.count), excLsRange)]).or
    (firstExc [
      (if append then
        es.any (fun e => d.lsNat y (e + 2) 2 != 0 || d.lsNat y (e + 0xC) 4 != 0) ||
          decide (r.destLen < (d.kvaOffs y r.subLen r.count r.list 0).getLastD 0)
      else es.any (fun e => let n := d.lsNat y (e + 2) 2; if r.tree then n == 0 || decide (64 < n) else n != 0), excIllegal),
      (!append && r.tree && es.any (fun e => out (d.lsNat y (e + 0xC) 4) (d.lsNat y (e + 2) 2)), excLsRange),
      (es.any (fun e => !d.slotFor x.ctx (d.lsNat y e 2)), excObject)])

/-- Exceptions of LCHK (R192). -/
def Dev.lchkExc (d : Dev) (x : Launch) (y : Member) (w : Nat) : Option Nat :=
  let b := (y.sget (iSD w)).toNat
  let n := d.lsNat y b 2
  let list := d.lsNat y (b + 4) 4
  let out := fun (a n : Nat) => decide (x.lsSize < a + n)
  firstExc [(b % 64 != 0, excAlign), (out b 64, excLsRange),
    (decide (n = 0 ∨ 4096 < n ∨ d.lsNat y (b + 2) 2 ≠ 0 ∨ d.lsNat y (b + 0x10) 48 ≠ 0), excIllegal),
    (out list (2 * n) || out (d.lsNat y (b + 8) 4) (2 * n), excLsRange),
    ((List.range n).any (fun i => !d.slotFor x.ctx (d.lsNat y (list + 2 * i) 2)), excObject)]

/-- Fields of the XDISP request block. -/
structure XReq where
  tokens : Nat
  k : Nat
  rk : Nat
  list : Nat
  cand : Nat
  dest : Nat
  destLen : Nat
  dec : Nat
  model : Nat
  layer : Nat
  experts : Nat
  deriving DecidableEq, Repr

/-- Read an XDISP request block (R193). -/
def Dev.xReq (d : Dev) (y : Member) (b : Nat) : XReq :=
  { tokens := d.lsNat y b 2, k := d.lsNat y (b + 2) 1, rk := d.lsNat y (b + 3) 1, list := d.lsNat y (b + 4) 4
    cand := d.lsNat y (b + 8) 4, dest := d.lsNat y (b + 0xC) 4, destLen := d.lsNat y (b + 0x10) 4, dec := d.lsNat y (b + 0x14) 4
    model := d.lsNat y (b + 0x18) 2, layer := d.lsNat y (b + 0x1A) 2, experts := d.lsNat y (b + 0x1C) 2 }

/-- Exceptions of XDISP (R193). -/
def Dev.xdispExc (d : Dev) (x : Launch) (y : Member) (w : Nat) : Option Nat :=
  let b := (y.sget (iSD w)).toNat
  let r := d.xReq y b
  let out := fun (a n : Nat) => decide (x.lsSize < a + n)
  firstExc [(b % 64 != 0, excAlign), (out b 64, excLsRange),
    (decide (r.tokens = 0 ∨ 4096 < r.tokens ∨ r.k = 0 ∨ 8 < r.k ∨ r.rk < r.k ∨ 16 < r.rk ∨ r.experts = 0 ∨ 1024 < r.experts ∨
      r.destLen < 8 * (r.experts + r.tokens * r.k) ∨ d.lsNat y (b + 0x1E) 34 ≠ 0), excIllegal),
    (decide (r.dest % 16 ≠ 0 ∨ r.dec % 16 ≠ 0), excAlign),
    (out r.list (4 * r.tokens) || out r.cand (8 * r.rk * r.tokens) || out r.dest r.destLen || out r.dec (32 * r.tokens), excLsRange),
    ((List.range (r.rk * r.tokens)).any (fun i => d.lsNat y (r.cand + 8 * i + 2) 2 != 0), excIllegal),
    ((List.range r.tokens).any (fun i => !d.slotFor x.ctx (d.lsNat y (r.list + 4 * i) 2)), excObject)]

/-! ### The binding of a launch to a step (R501) -/

/-- How a sequence stands for a launch. -/
inductive Phase where
  | removed | fell | noStep | stepOpen
  deriving DecidableEq, Repr

/-- The launch whose journal header holds a run's binding and decisions: a shadow uses its original's (R437). -/
def Launch.home (x : Launch) (l : Nat) : Nat := x.shadowOf.getD l

/-- Bind a launch to the open step of a slot, if it is not yet bound. -/
def Dev.bindStep (d : Dev) (l s : Nat) : Dev :=
  match d.launch? l with
  | some x =>
    if (d.slot s).stepOpen ∧ ¬mapHas x.bound s then d.modLaunch l (fun x => { x with bound := mapPut x.bound s (d.slot s).serial })
    else d
  | none => d

/-- How a slot stands for a launch (R187, R501); `fell` is a bound step that a flag fall in Vanan mode ended. -/
def Dev.phase (d : Dev) (l s : Nat) : Phase :=
  let x := d.slot s
  match (d.launch? l).bind (fun y => mapFind? y.bound s) with
  | none => if x.st = .closed ∨ x.st = .closing then .removed else .noStep
  | some n =>
    if x.stepOpen ∧ x.serial = n then .stepOpen
    else if x.lastEnd = some (n, .flagFell) then .fell else .removed

/-- Change a command. -/
def Dev.modCmd (d : Dev) (n : Nat) (f : Cmd → Cmd) : Dev :=
  d.modEng (fun z => { z with cmds := mapModify z.cmds n f })

/-- A command ends the bound step of a slot for a fault of that sequence (R181, R187). -/
def Dev.cmdEndsStep (bt : Nat) (d : Dev) (n l s : Nat) (st : Status) : Dev :=
  let d := d.modCmd n (fun c => { c with fails := c.fails ++ [(s, st.code)] })
  if d.phase l s = .stepOpen then d.endStep bt s st 0 0 else d

/-- The status with which this command has ended the step of a slot. -/
def Cmd.failOf (c : Cmd) (s : Nat) : Option Nat := (c.fails.find? (fun f => f.1 == s)).map (fun f => f.2)

/-! ### Answers of LCHK and XDISP (R192 to R194) -/

/-- Outcome codes (R187). -/
def ocDone : Nat := 0
def ocShadow : Nat := 1
def ocRemoved : Nat := 2
def ocFailed : Nat := 3
def ocNoStep : Nat := 4
def ocNoRoom : Nat := 5
def ocBad : Nat := 6

/-- The answer to an index, if given. -/
def Cmd.answer? (c : Cmd) (i : Nat) : Option (List Nat) := (c.answers.find? (fun a => a.1 == i)).map (fun a => a.2)

/-- The answer that takes a token out of the lists, if one does: its first that is not DONE. Indices of XDISP are
8 · token + rank. -/
def Cmd.tokenOut (c : Cmd) (t : Nat) : Option (List Nat) :=
  (c.answers.find? (fun a => a.1 / 8 == t && a.2.headD 0 != ocDone)).map (fun a => a.2)

/-- The slot that an index of LCHK or XDISP names. -/
def Dev.idxSlot (d : Dev) (y : Member) (c : Cmd) (i : Nat) : Nat :=
  let list := d.lsNat y (c.sd + 4) 4
  if c.op = .lchk then d.lsNat y (list + 2 * i) 2 else d.lsNat y (list + 4 * (i / 8)) 2

/-- Expert number and score of candidate `j` of a token. -/
def Dev.xCand (d : Dev) (y : Member) (r : XReq) (t j : Nat) : Nat × Nat :=
  let a := r.cand + 8 * (r.rk * t + j)
  (d.lsNat y a 2, d.lsNat y (a + 4) 4)

/-- The recorded answer of an index: a shadow takes its original's, and a replay those of the run that it repeats, so that a flag that
falls meanwhile adds decisions only at points that run had not reached (R47, R81). -/
def Dev.recorded (d : Dev) (c : Cmd) (x : Launch) (i : Nat) : Option Decision :=
  match d.launch? (x.home c.l) with
  | some h => h.decisions.find? (fun e => e.member == c.m && e.queue == c.q && e.ticket == c.ticket && e.idx == i)
  | none => none

/-- A degrade decision raises the bound step's LEVEL and the launch's level, and is counted (R56, R75, R194). -/
def Dev.degraded (d : Dev) (l s level : Nat) : Dev :=
  let d := if d.phase l s = .stepOpen then d.modSlot s (fun x => { x with level := max x.level level }) else d
  let d := d.modLaunch l (fun x => { x with degrade := max x.degrade level })
  d.fbump (if level = 1 then F.seqeStat1Subst else F.seqeStat1Shadow) (s / 2048) 1

/-- The replacement of an expert (R193 case 6): the first candidate from K on that is resident and not already assigned to
the token. -/
def Dev.replacement (d : Dev) (y : Member) (c : Cmd) (ctx : Nat) (r : XReq) (t : Nat) : Option Nat :=
  let taken := c.answers.filterMap (fun a => if a.1 / 8 == t then some (d.xCand y r t (a.2.getD 2 0)).1 else none)
  ((List.range r.rk).drop r.k).find? (fun j =>
    let e := (d.xCand y r t j).1
    !taken.contains e && decide (d.expertResidency ctx r.model r.layer e = .resident))

/-- Decide an answer anew (R192, R193): the answer with its degrade level, or none while it is held. -/
def Dev.decideIdx (bt : Nat) (d : Dev) (n : Nat) (c : Cmd) (x : Launch) (y : Member) (i : Nat) : Option (Nat × List Nat) × Dev :=
  let s := d.idxSlot y c i
  let h := x.home c.l
  let rank := i % 8
  let r := d.xReq y c.sd
  let wasHeld := c.held.any (fun a => a.idx == i)
  match d.recorded c x i with
  | some e => (some (e.level, e.value), if x.shadowOf.isSome ∨ e.level = 0 then d else d.degraded c.l s e.level)
  | none =>
    if x.shadowOf.isSome then (none, d)
    else match c.failOf s with
      | some st => (some (0, [ocFailed, st]), d)
      | none => match d.phase h s with
        | .removed => (some (0, [ocRemoved, 0]), d)
        | .fell => (some (0, if wasHeld then [ocFailed, Status.flagFell.code] else [ocRemoved, 0]), d)
        | ph =>
          let res := if c.op = .lchk then d.layerResidency x.ctx (d.lsNat y (c.sd + 0xC) 2) (d.lsNat y (c.sd + 0xE) 2)
            else d.expertResidency x.ctx r.model r.layer (d.xCand y r (i / 8) rank).1
          let fallen := ph = .stepOpen && (d.slot s).fallen && !(d.ctx x.ctx).vanan
          let layer := (d.lsNat y (c.sd + 0xC) 2, d.lsNat y (c.sd + 0xE) 2)
          let shadow := fun (d : Dev) => (some (2, [ocShadow, 0]),
            (d.modSlot s (fun q => { q with shadows := listAdd q.shadows layer })).degraded c.l s 2)
          -- a layer that level 2 has replaced stays replaced for the rest of the step (R78)
          if c.op = .lchk ∧ ph = .stepOpen ∧ (d.slot s).shadows.contains layer = true ∧ res ≠ .failed then shadow d else
          match res with
          | .failed => (some (0, [ocFailed, Status.dataPoison.code]), d.cmdEndsStep bt n h s .dataPoison)
          | .resident => (some (0, [ocDone, 0, rank]), d)
          | .unnamed => (some (0, [ocDone, 0, rank]), d)
          | .absent =>
            if c.op = .lchk then
              if fallen ∧ 2 ≤ (d.slot s).ceil then shadow d else (none, d)
            else if fallen ∧ 1 ≤ (d.slot s).ceil then
              match d.replacement y c x.ctx r (i / 8) with
              | some j => (some (1, [ocDone, 0, j]), d.degraded c.l s 1)
              | none => (none, d)
            else (none, d)

/-- An answer is held (R192, R193). -/
def Cmd.hold (bt i s : Nat) (c : Cmd) : Cmd :=
  { c with held := c.held ++ [{ idx := i, slot := s }], heldSince := if c.held = [] then some bt else c.heldSince }

/-- An answer is held no longer; the time since the first does not count for the timeout (R411). -/
def Cmd.unhold (bt i : Nat) (c : Cmd) : Cmd :=
  let h := c.held.filter (fun a => a.idx != i)
  match (if h = [] then c.heldSince else none) with
  | some t => { c with held := h, heldSince := none, bt := c.bt + (bt - t) }
  | none => { c with held := h }

/-- Record an answer of an index with its launch (R81), for a replay or a shadow: one for each index. -/
def Dev.noteDecision (d : Dev) (c : Cmd) (i level : Nat) (v : List Nat) : Dev :=
  d.modLaunch c.l (fun x => { x with
    decisions := x.decisions.filter (fun f => !(f.member == c.m && f.queue == c.q && f.ticket == c.ticket && f.idx == i)) ++
      [{ member := c.m, queue := c.q, ticket := c.ticket, idx := i, level, value := v }] })

/-- Decide an index of a command if it is still open: the answer is given and recorded, or it is held (R47, R194). -/
def Dev.settleIdx (bt : Nat) (d : Dev) (n i : Nat) : Dev :=
  match mapFind? d.eng.cmds n with
  | some c => match d.launch? c.l, d.member? c.l c.m with
    | some x, some y =>
      let drop := fun (d : Dev) => d.modCmd n (Cmd.unhold bt i)
      if c.op ≠ .lchk ∧ c.op ≠ .xdisp then d
      else if (c.answer? i).isSome then drop d
      else if c.op = .xdisp ∧ (c.tokenOut (i / 8)).isSome then drop d
      else
        match d.decideIdx bt n c x y i with
        | (some (level, v), d) =>
          let d := (drop d).modCmd n (fun c => { c with answers := c.answers ++ [(i, v)] })
          if x.shadowOf.isNone then d.noteDecision c i level v else d
        | (none, d) =>
          if c.held.any (fun a => a.idx == i) then d
          else
            let s := d.idxSlot y c i
            let d := d.modCmd n (Cmd.hold bt i s)
            if x.shadowOf.isSome then d else d.fbump F.seqeStat2Held (s / 2048) 1
    | _, _ => d
  | none => d

/-- The indices of LCHK or XDISP; a BAD token has one (R193). -/
def Dev.cmdIdx (d : Dev) (y : Member) (c : Cmd) : List Nat :=
  if c.op = .lchk then List.range (d.lsNat y c.sd 2)
  else
    let r := d.xReq y c.sd
    (List.range r.tokens).flatMap (fun t => (List.range r.k).map (fun k => 8 * t + k))

/-- Is a token BAD (R193)? -/
def Dev.tokenBad (d : Dev) (y : Member) (r : XReq) (t : Nat) : Bool :=
  let es := (List.range r.rk).map (fun j => (d.xCand y r t j).1)
  es.any (fun e => decide (r.experts ≤ e)) || !decide ((es.take r.k).Nodup)

/-- Begin LCHK or XDISP once it has started: bind its sequences, and decide or hold every answer. -/
def Dev.beginAnswers (bt : Nat) (d : Dev) (n : Nat) : Dev :=
  match mapFind? d.eng.cmds n with
  | some c => match d.launch? c.l, d.member? c.l c.m with
    | some x, some y =>
      if c.started ∧ (c.op = .lchk ∨ c.op = .xdisp) ∧ c.answers = [] ∧ c.held = [] then
        let is := d.cmdIdx y c
        let d := is.foldl (fun d i => d.bindStep (x.home c.l) (d.idxSlot y c i)) d
        let bad := if c.op = .xdisp then (List.range (d.xReq y c.sd).tokens).filter (d.tokenBad y (d.xReq y c.sd)) else []
        let d := d.modCmd n (fun c => { c with answers := bad.map (fun t => (8 * t, [ocBad, 0])) })
        is.foldl (fun d i => d.settleIdx bt n i) d
      else d
    | _, _ => d
  | none => d

/-- Decide again the held answers of a slot, command by command (R192). -/
def Dev.redecide (bt : Nat) (d : Dev) (s : Nat) : Dev :=
  (d.eng.cmds.flatMap (fun c => (c.2.held.filter (fun a => a.slot == s)).map (fun a => (c.1, a.idx)))).foldl
    (fun d p => d.settleIdx bt p.1 p.2) d

/-- HELD_ANSWER_DECIDED: one held answer is decided again. -/
def Dev.heldDecided (bt : Nat) (d : Dev) (n i : Nat) : Dev :=
  match mapFind? d.eng.cmds n with
  | some c => if c.held.any (fun a => a.idx == i) then d.settleIdx bt n i else d
  | none => d

/-! ### Gather (R188, R189) -/

/-- One piece of gathered data. -/
inductive Piece where
  | bytes (bs : List Byte)
  | poison
  deriving DecidableEq, Repr

/-- The bytes of a position of a layer, with the effect of the hint; a position in no block is a free value. -/
def Dev.gatherPos (d : Dev) (l a c hint : Nat) (x : Slot) (layer p off n : Nat) : Piece × Dev :=
  match d.posDpa x layer p with
  | some q =>
    if d.poisoned (q + off) n then (.poison, d)
    else (.bytes (memReadBytes d.mem (q + off) n), (d.noteIn l (q + off) n).hinted a c hint (q + off) n)
  | none =>
    let k := d.free
    (.bytes ((List.range n).map (fun i => Config.freeByte (k + i))), d.took n)

/-- The bytes of several positions, in order. -/
def Dev.gatherAll (l a c hint : Nat) (x : Slot) (layer off n : Nat) : List Nat → Dev → Option (List Byte) × Dev
  | [], d => (some [], d)
  | p :: ps, d =>
    match d.gatherPos l a c hint x layer p off n with
    | (.poison, d) => (none, d)
    | (.bytes bs, d) => match Dev.gatherAll l a c hint x layer off n ps d with
      | (some r, d) => (some (bs ++ r), d)
      | (none, d) => (none, d)

/-- The ancestor masks of a tree (R189): each node's mask from its parent's. -/
def treeMasks : List Nat → List Nat → List Nat
  | [], ms => ms
  | p :: ps, ms => treeMasks ps (ms ++ [2 ^ ms.length + (if p = 0xFF then 0 else ms.getD p 0)])

/-- One entry of a KVG list: its index entry as (outcome, status, offset, count, masks) and the bytes placed. -/
def Dev.gatherEntry (bt : Nat) (d : Dev) (n : Nat) (c : Cmd) (x : Launch) (y : Member) (r : KvReq) (i end_ : Nat) :
    List Nat × List Byte × Dev :=
  let e := r.list + 16 * i
  let s := d.lsNat y e 2
  let h := x.home c.l
  let q := d.slot s
  let d := d.bindStep h s
  let a := d.partOfCtx x.ctx
  match c.failOf s with
  | some st => ([ocFailed, st, 0, 0, 0], [], d)
  | none => match d.phase h s with
    | .removed => ([ocRemoved, 0, 0, 0, 0], [], d)
    | .fell => ([ocRemoved, 0, 0, 0, 0], [], d)
    | ph =>
      let nodes := if r.tree then d.lsNat y (e + 2) 2 else 0
      let parents := (List.range nodes).map (fun k => d.lsNat y (d.lsNat y (e + 0xC) 4 + k) 1)
      let from_ := d.lsNat y (e + 4) 4
      let upTo := if d.lsNat y (e + 8) 4 = 0 then q.length else d.lsNat y (e + 8) 4
      let pend := if ph = .stepOpen then q.pending else 0
      let top := if ph = .stepOpen ∧ ¬q.tree then q.length + pend else q.length
      if q.layersM1 < r.layer ∨ q.layerBytes < r.subOff + r.subLen ∨ top < upTo ∨ upTo < from_ ∨ pend < nodes ∨
          parents.zipIdx.any (fun (p, k) => p != 0xFF && decide (k ≤ p)) then ([ocBad, 0, 0, 0, 0], [], d)
      else
        let off := up16 end_
        let ps := (List.range (upTo - from_)).map (fun k => from_ + k) ++ (List.range nodes).map (fun k => q.length + k)
        let size := ps.length * r.subLen
        if r.destLen < off + size + 8 * nodes then ([ocNoRoom, 0, 0, 0, 0], [], d)
        else match Dev.gatherAll c.l a x.ctx c.hint q r.layer r.subOff r.subLen ps d with
          | (none, d) => ([ocFailed, Status.dataPoison.code, 0, 0, 0], [], d.cmdEndsStep bt n h s .dataPoison)
          | (some bs, d) =>
            let masks := (treeMasks parents []).flatMap (leBytes 8)
            ([ocDone, 0, off, ps.length, if r.tree then off + size else 0], bs ++ masks, d)

/-- Entry-cache hits and misses of a walk, which the chapter does not fix (free values). -/
def Dev.kvcCount (d : Dev) (die : Nat) : Dev :=
  let k := d.free
  ((d.fbump F.seqeKvcStatHits die (Config.freeNat k)).fbump F.seqeKvcStatMisses die (Config.freeNat (k + 1))).took 2

/-- The 16 bytes of an index entry. -/
def indexBytes (v : List Nat) : List Byte :=
  leBytes 4 (v.getD 0 0 + v.getD 1 0 * 2 ^ 8) ++ leBytes 4 (v.getD 2 0) ++ leBytes 4 (v.getD 3 0) ++ leBytes 4 (v.getD 4 0)

/-- Gather the entries of a KVG list in order; `end_` is where the data placed so far ends, `acc` that data for the queue
digest. -/
def Dev.gatherList (bt n : Nat) (c : Cmd) (x : Launch) (y : Member) (r : KvReq) : List Nat → Nat → List Byte → Dev →
    List Byte × Dev
  | [], _, acc, d => (acc, d)
  | i :: is, end_, acc, d =>
    let c := (mapFind? d.eng.cmds n).getD c
    let (v, bs, d) := d.gatherEntry bt n c x y r i end_
    let d := (d.lsWrite y (r.index + 16 * i) (indexBytes v)).kvcCount (d.lsNat y (r.list + 16 * i) 2 / 2048 % 8)
    if v.headD 0 = ocDone then
      Dev.gatherList bt n c x y r is (v.getD 2 0 + bs.length) (acc ++ bs) (d.lsWrite y (r.dest + v.getD 2 0) bs)
    else Dev.gatherList bt n c x y r is end_ acc d

/-- Do the Kiorn links reach the blocks of the sequences that a command names (R284)? -/
def Dev.blocksOpen (d : Dev) (y : Member) (r : KvReq) : Bool :=
  (List.range r.count).all (fun i =>
    let s := d.lsNat y (r.list + 16 * i) 2
    let q := d.slot s
    q.span.all (fun b => match d.readFrame b with
      | some f => d.bytesOpen (s / 2048) f q.frameBytes
      | none => true))

/-! ### Append (R190, R182, R185) -/

/-- What taking a block for an append comes to. -/
inductive Block where
  | ready | waits | noQuota
  deriving DecidableEq, Repr

/-- Take a frame for block `i` of a slot, charged to its context: the pool and the frame. -/
def Dev.blockFrame (d : Dev) (s : Nat) : Option (Nat × Nat) × Dev :=
  let x := d.slot s
  match d.charge x.ctx false x.frameBytes with
  | none => (none, d)
  | some d1 => match d1.kvTake (s / 2048) (d.partOfSlot s) false x.cls with
    | (some pf, d2) => (some pf, d2)
    | (none, d2) => (none, d2.uncharge x.ctx false x.frameBytes)

/-- The block of an append: a FREE entry takes a frame, a DDR block is promoted at the demand class, a SHARED one copied. -/
def Dev.blockFor (bt : Nat) (d : Dev) (s i : Nat) : Block × Dev :=
  let x := d.slot s
  let e := d.kvGet i
  match kvState e with
  | .hbm => (.ready, d)
  | .free =>
    match d.chargeKv x.ctx 1 with
    | none => (.noQuota, d)
    | some d => match d.blockFrame s with
      | (some (k, f), d) =>
        let d := d.kvPut i (kvMake kvHbm (kvGen e) f 0)
        (.ready, (d.modSeq (fun z => { z with kvOwn := mapPut z.kvOwn i { ctx := x.ctx, pool := k, cls := x.cls } })))
      | (none, d) => (.noQuota, d.unchargeKv x.ctx 1)
  | .ddr =>
    match (d.blockMoves s).find? (fun m => m.2.obj == .block i s) with
    | some m => (.waits, d.modMove m.1 (fun m => { m with cls := .demand }))
    | none => match d.startBlocks bt s [i] true with
      | (some d, _) => (.waits, d)
      | (none, d) => (.noQuota, d)
  | .shared =>
    match d.blockFrame s with
    | (some (k, f), d) =>
      let d := d.kvPut i (kvFlags e kvCopying)
      let src := frameDpa (kvFrame (d.kvGet (kvOrigin e)))
      (.waits, d.addMove { part := d.partOfSlot s, die := d.dieOfHbm (frameDpa f), obj := .copy i s, up := true, cls := .demand
                           src, dst := some (frameDpa f), dpool := k, len := x.frameBytes, begun := true, since := bt
                           req := d.tier.nextMove })
    | (none, d) => (.noQuota, d)
  | _ => (.waits, d)

/-- All the blocks of an append, each taken or begun as far as it goes. -/
def Dev.blocksFor (bt s : Nat) : List Nat → Dev → Block × Dev
  | [], d => (.ready, d)
  | i :: is, d =>
    match d.blockFor bt s i with
    | (.noQuota, d) => (.noQuota, d)
    | (b, d) => match Dev.blocksFor bt s is d with
      | (.ready, d) => (b, d)
      | r => r

/-- The entries of a KVA list from index `i` on, until one waits; `none` while the command is not finished. -/
def Dev.appendList (bt n : Nat) (x : Launch) (y : Member) (r : KvReq) (offs : List Nat) : List Nat → Dev → Bool × Dev
  | [], d => (true, d)
  | i :: is, d =>
    match mapFind? d.eng.cmds n with
    | none => (false, d)
    | some c =>
      let e := r.list + 16 * i
      let s := d.lsNat y e 2
      let h := x.home c.l
      let d := d.bindStep h s
      let q := d.slot s
      let first := d.lsNat y (e + 4) 4
      let cnt := d.lsNat y (e + 8) 4
      let off := offs.getD i 0
      let put := fun (v : List Nat) (d : Dev) => d.modCmd n (fun c => { c with answers := c.answers ++ [(i, v)] })
      let go := fun (v : List Nat) (d : Dev) => Dev.appendList bt n x y r offs is (put v d)
      let waited := c.held.any (fun a => a.idx == i)
      if (c.answer? i).isSome then Dev.appendList bt n x y r offs is d
      else match c.failOf s with
        | some st => go [ocFailed, st, 0, 0, 0] d
        | none => match d.phase h s with
          | .noStep => go [ocNoStep, 0, 0, 0, 0] d
          | .stepOpen =>
            let top := if q.tree then min 64 (32 * q.spanLen - q.length) else 32 * q.spanLen - q.length
            if q.layersM1 < r.layer ∨ q.layerBytes < r.subOff + r.subLen ∨ top < first + cnt then go [ocBad, 0, 0, 0, 0] d
            else if x.shadowOf.isSome ∨ cnt = 0 then go [ocDone, 0, off, cnt, 0] d
            else
              let p0 := q.length + first
              let blocks := (List.range ((p0 + cnt - 1) / 32 + 1 - p0 / 32)).map (fun b => q.spanBase + p0 / 32 + b)
              match Dev.blocksFor bt s blocks d with
              | (.noQuota, d) => go [ocFailed, Status.quota.code, 0, 0, 0] (d.cmdEndsStep bt n h s .quota)
              | (.waits, d) =>
                (false, if waited then d else d.modCmd n (Cmd.hold bt i s))
              | (.ready, d) =>
                let d := (List.range cnt).foldl (fun d k => match d.posDpa q r.layer (p0 + k) with
                  | some a => (d.noteOut c.l (a + r.subOff) r.subLen).memPut (a + r.subOff) (d.lsRead y (r.dest + off + k * r.subLen) r.subLen)
                  | none => d) d
                let d := (d.modSlot s (fun q => { q with pending := max q.pending (first + cnt) })).kvcCount (s / 2048)
                go [ocDone, 0, off, cnt, 0] d
          | _ =>
            -- a promotion this append started has failed (R185), or the step has ended otherwise
            let bad := waited && (match (d.launch? h).bind (fun z => mapFind? z.bound s) with
              | some b => decide (q.lastEnd = some (b, .dataPoison))
              | none => false)
            go (if bad then [ocFailed, Status.dataPoison.code, 0, 0, 0] else [ocRemoved, 0, 0, 0, 0]) d

/-! ### Completion -/

/-- The 32 bytes of a token record (R193). -/
def Dev.tokenRecord (d : Dev) (y : Member) (c : Cmd) (r : XReq) (t : Nat) : List Byte :=
  match c.tokenOut t with
  | some v => leBytes 32 (v.getD 0 0 + v.getD 1 0 * 2 ^ 8)
  | none =>
    let js := (List.range r.k).map (fun k => ((c.answer? (8 * t + k)).getD []).getD 2 k)
    let mask := (js.zipIdx.map (fun (j, k) => if j = k then 0 else 2 ^ k)).sum
    leBytes 16 (mask * 2 ^ 16) ++ js.flatMap (fun j => leBytes 2 (d.xCand y r t j).1) ++ List.replicate (16 - 2 * r.k) 0#8

/-- The lists of XDISP (R193): the table of experts, then the assignments by expert, token and rank. START counts list
entries. -/
def Dev.expertLists (d : Dev) (y : Member) (c : Cmd) (r : XReq) : List Byte :=
  let all := (List.range r.tokens).flatMap (fun t =>
    if (c.tokenOut t).isSome then []
    else (List.range r.k).map (fun k =>
      let j := ((c.answer? (8 * t + k)).getD []).getD 2 k
      let ec := d.xCand y r t j
      (ec.1, t + k * 2 ^ 16 + ec.2 * 2 ^ 32)))
  let lists := (List.range r.experts).map (fun e => (all.filter (fun p => p.1 == e)).map (fun p => p.2))
  let table := lists.foldl (fun (acc : Nat × List Byte) l => (acc.1 + l.length, acc.2 ++ leBytes 8 (acc.1 + l.length * 2 ^ 32))) (0, [])
  table.2 ++ lists.flatMap (fun l => l.flatMap (leBytes 8))

/-- COMMAND_COMPLETE of a Sequence Engine command. -/
def Dev.seComplete (bt : Nat) (d : Dev) (n : Nat) : Dev :=
  let d := (d.tryStart bt n).beginAnswers bt n
  match mapFind? d.eng.cmds n with
  | some c => match d.launch? c.l, d.member? c.l c.m with
    | some x, some y =>
      if ¬c.started then d
      else match c.op with
        | .kvg =>
          let r := d.kvReq y c.sd
          if ¬d.blocksOpen y r then d else
          let (bs, d) := Dev.gatherList bt n c x y r (List.range r.count) 0 [] d
          d.retireCmd bt n bs
        | .kva =>
          let r := d.kvReq y c.sd
          let offs := d.kvaOffs y r.subLen r.count r.list 0
          if ¬d.blocksOpen y r then d else
          match Dev.appendList bt n x y r offs (List.range r.count) d with
          | (true, d) =>
            let c := (mapFind? d.eng.cmds n).getD c
            let vs := (List.range r.count).map (fun i => (c.answer? i).getD [])
            let d := vs.zipIdx.foldl (fun d (v, i) => d.lsWrite y (r.index + 16 * i) (indexBytes v)) d
            let data := vs.flatMap (fun v => if v.headD 1 = ocDone then d.lsRead y (r.dest + v.getD 2 0) (v.getD 3 0 * r.subLen) else [])
            d.retireCmd bt n data
          | (false, d) => d
        | .lchk =>
          if c.held ≠ [] then d
          else
            let bs := (List.range (d.lsNat y c.sd 2)).flatMap (fun i =>
              let v := (c.answer? i).getD []
              leBytes 2 (v.getD 0 0 + v.getD 1 0 * 2 ^ 8))
            (d.lsWrite y (d.lsNat y (c.sd + 8) 4) bs).retireCmd bt n []
        | .xdisp =>
          if c.held ≠ [] then d
          else
            let r := d.xReq y c.sd
            let lists := d.expertLists y c r
            let recs := (List.range r.tokens).flatMap (d.tokenRecord y c r)
            ((d.lsWrite y r.dest lists).lsWrite y r.dec recs).retireCmd bt n []
        | _ => d
    | _, _ => d
  | none => d

/-- COMMAND_COMPLETE (R241). -/
def Dev.commandComplete (bt : Nat) (d : Dev) (n : Nat) : Dev :=
  match mapFind? d.eng.cmds n with
  | some c => match c.op with
    | .kvg | .kva | .lchk | .xdisp => d.seComplete bt n
    | _ => d.dmaComplete bt n
  | none => d

/-! ### The end of a step (R180) -/

/-- Copy accepted tree nodes into place, all read before any is written (R180; DESIGN CHOICE, log entry 19). -/
def Dev.copyNodes (d : Dev) (x : Slot) (path : List Nat) : Dev :=
  let moves := (List.range (x.layersM1 + 1)).flatMap (fun l =>
    path.zipIdx.filterMap (fun (node, k) =>
      if node = k then none
      else match d.posDpa x l (x.length + node), d.posDpa x l (x.length + k) with
        | some a, some b => some (b, memReadBytes d.mem a x.layerBytes)
        | _, _ => none))
  moves.foldl (fun d m => d.memPut m.1 m.2) d

/-- Does a read of the accepted nodes meet poison? -/
def Dev.nodesPoisoned (d : Dev) (x : Slot) (path : List Nat) : Bool :=
  (List.range (x.layersM1 + 1)).any (fun l => path.zipIdx.any (fun (node, k) =>
    node != k && (match d.posDpa x l (x.length + node) with
      | some a => d.poisoned a x.layerBytes
      | none => false)))

/-- The blocks of the positions that a tree path is copied to (R180). -/
def Slot.pathBlocks (x : Slot) (path : List Nat) : List Nat :=
  (path.zipIdx.filterMap (fun (node, k) => if node = k then none else some (x.spanBase + (x.length + k) / 32))).foldl listAdd []

/-- Make a block writable for the copies of STEP_END as an append would, and at once (R174, R185; DESIGN CHOICE, log entry 126): a FREE
entry takes a frame, a SHARED one is copied, a DDR one promoted, and what is in flight for it ends. -/
def Dev.ownBlock (bt s i : Nat) : Nat → Dev → Option Dev
  | 0, d => some d
  | fuel + 1, d =>
    match d.blockFor bt s i with
    | (.noQuota, _) => none
    | (.ready, d) => some d
    | (.waits, d) =>
      match d.tier.moves.find? (fun m => m.2.obj == .block i s || m.2.obj == .copy i s) with
      | some (n, m) => match m.obj with
        | .copy _ _ => some (d.commitCopy bt n m i s)
        | _ => Dev.ownBlock bt s i fuel ((if m.begun then d else d.beginBlock i m.up).commitBlock bt n m i s)
      | none => some d

/-- Make several blocks writable, all or none. -/
def Dev.ownBlocks (bt s : Nat) : List Nat → Dev → Option Dev
  | [], d => some d
  | i :: is, d => (Dev.ownBlock bt s i 3 d).bind (Dev.ownBlocks bt s is)

/-- STEP_END (R180). A target block for which there is no charge or frame ends the step as a failed append does (R181; log entry 126). -/
def Dev.stepEnd (bt : Nat) (d : Dev) (k : Nat) : Dev :=
  d.seqReq bt k 3 true (fun r s d =>
    let x := d.slot s
    let acc := r.at_ 12 4
    let hasPath := bit (r.at_ 1 1) 3
    let path := (List.range acc).map (fun j => r.at_ (32 + j) 1)
    let okTree := hasPath && decide (acc ≤ 32) && path.all (fun n => decide (n < x.pending)) && decide path.Nodup
    let ends := fun (st : Status) (d : Dev) => (d.endStep bt s st 0 0).finish bt r st
    if x.stepOpen ∧ r.at_ 8 4 = x.stepNo ∧ acc ≤ x.pending ∧ (if x.tree then okTree else !hasPath) = true then
      if x.tree && d.nodesPoisoned x path then ends .dataPoison d
      else match (if x.tree then Dev.ownBlocks bt s (x.pathBlocks path) d else some d) with
        | none => ends .quota d
        | some d =>
          if ¬(d.slot s).stepOpen then d.finish bt r .dataPoison
          else
            let d := (if x.tree then d.copyNodes x path else d).modSlot s (fun x => { x with length := x.length + acc })
            (d.endStep bt s (if x.level = 0 then .ok else .okDegraded) (r.at_ 4 4) acc).finish bt r .ok
    else d.finish bt r .range)

/-! ### Meanings -/

def execStepEnd (pair : Nat) : State → Host.Outcome State Fault Refusal := onDev (fun bt d => d.stepEnd bt pair)

def execKvg (i : Issuer) (w : Word) : State → Host.Outcome State Fault Refusal :=
  onDev (fun bt d => d.issueCmd bt 0xA0 .kvg i w (Dev.kvExc false))
def execKva (i : Issuer) (w : Word) : State → Host.Outcome State Fault Refusal :=
  onDev (fun bt d => d.issueCmd bt 0xA1 .kva i w (Dev.kvExc true))
/-- LCHK and XDISP give the answers they can as soon as they start. -/
def execXdisp (i : Issuer) (w : Word) : State → Host.Outcome State Fault Refusal :=
  onDev (fun bt d => (d.issueCmd bt 0xA2 .xdisp i w Dev.xdispExc).beginAnswers bt d.eng.nextCmd)
def execLchk (i : Issuer) (w : Word) : State → Host.Outcome State Fault Refusal :=
  onDev (fun bt d => (d.issueCmd bt 0xA3 .lchk i w Dev.lchkExc).beginAnswers bt d.eng.nextCmd)
def execHeldAnswerDecided (c idx : Nat) : State → Host.Outcome State Fault Refusal := onDev (fun bt d => d.heldDecided bt c idx)
def execCommandComplete (c : Nat) : State → Host.Outcome State Fault Refusal := onDev (fun bt d => d.commandComplete bt c)

/-- A flag check decides the held answers of its sequence at once (R73, R192). -/
def execFlagCheck (slot : Nat) : State → Host.Outcome State Fault Refusal :=
  onDev (fun bt d => (d.flagCheck bt slot).redecide bt slot)

end Sys2Proof.Machine
end

