-- ==== Sys2Proof/Machine/Spdm.lean ====
section
/-! DEFINITION. Attestation (R405, R406): the measurements, and SPDM on the DOE of each port (connections 0 to 3) and over MCTP on I3C
(connection 4). Response and error codes and the order of requests are those of SPDM 1.3 (PRESUMED, log entry 43); a response's body
is the list of numbers it carries. -/

namespace Sys2Proof.Machine

/-! ### Measurements (R405) -/

/-- A number with a bit set for each unit listed. -/
def unitMask (us : List Nat) : Nat := (List.range 1024).foldl (fun m i => if us.contains i then m + 2 ^ i else m) 0

/-- The signed part of a Part Record (R390). -/
def partBytes (r : PartRecord) : List Byte :=
  let spares := (r.ceSpares.zipIdx.map (fun x => (x.1.1 + 32 * x.1.2) * 2 ^ (10 * x.2))).sum
  let cores := (r.coreSpares.zipIdx.map (fun x => x.1 * 2 ^ (7 * x.2))).sum
  leBytes 4 0x44435250 ++ leBytes 2 1 ++ leBytes 2 0 ++ digestBytes r.deviceId ++ leBytes 8 r.serial ++ leBytes 2 r.part ++
    leBytes 1 r.stepping ++ leBytes 1 r.blitzMax ++ leBytes 2 r.pciVid ++ leBytes 2 r.pciDid ++ leBytes 2 r.powerW ++
    leBytes 1 r.tjTripC ++ leBytes 5 0 ++ leBytes 10 spares ++ leBytes 7 cores ++ leBytes 7 0 ++ leBytes 26 (unitMask r.ceMapout) ++
    leBytes 13 (unitMask r.coreMapout) ++ leBytes 1 0 ++ leBytes 128 (unitMask r.hbmRetired) ++ r.vmin.flatMap (leBytes 2) ++
    leBytes 4 r.repairs.length ++ leBytes 204 0 ++ r.repairs.flatMap (fun x => leBytes 1 x.1 ++ leBytes 3 x.2.1 ++ leBytes 4 x.2.2)

/-- The signed part of an Owner Record (R392). -/
def ownerBytes (o : OwnerRecord) : List Byte :=
  leBytes 4 0x4443524F ++ leBytes 2 1 ++ leBytes 2 0 ++ leBytes 8 o.serial ++ digestBytes o.operatorKey ++ leBytes 1 o.mgmtPorts ++
    leBytes 63 0

/-- Do pairs run different images while a replacement is in progress (R402)? -/
def Dev.mixed (d : Dev) : Bool := d.fon F.secFwStateUpdating 0 && d.fget F.secFwRemapPair 0 != d.remapActive

/-- A measurement, as a number (R405). -/
def Dev.measurement (d : Dev) (i : Nat) : Nat :=
  if i = 1 then Config.romDigest.toNat
  else if i = 2 then (d.sec.part.map (fun r => (sha384 (partBytes r)).toNat)).getD 0
  else if i = 3 then (d.sec.owner.map (fun o => (sha384 (ownerBytes o)).toNat)).getD 0
  else if i = 4 then d.sec.meas4.toNat
  else if i = 5 then match d.firmware? with
    | some h => h.svn + h.stateVer * 2 ^ 32 + h.fwiMaj * 2 ^ 64 + h.fwiMinLo * 2 ^ 80 + h.fwiMinHi * 2 ^ 88
    | none => 0
  else if i = 6 then
    b2n d.safe + 2 * d.fget F.pwrCtrlBlitz 0 + 4 * ((d.reg .prtMode 0).toNat % 256) + 1024 * b2n d.sec.fromFlash
  else if i < 15 then match (partAt d.layout (i - 7)).bind (fun a => mapFind? d.sec.osTables a) with
    | some h => (sha384 (handoffBytes h)).toNat
    | none => 0
  else if i < 23 then match (partAt d.layout (i - 15)).bind (fun a => mapFind? d.sec.blocks a) with
    | some x => x.toNat
    | none => 0
  else d.sec.replaced + b2n d.mixed * 2 ^ 32

/-! ### Connections -/

/-- SPDM response codes and error codes. -/
def rspDigests : Nat := 0x01
def rspCertificate : Nat := 0x02
def rspChallengeAuth : Nat := 0x03
def rspVersion : Nat := 0x04
def rspChunkSendAck : Nat := 0x05
def rspChunk : Nat := 0x06
def rspMeasurements : Nat := 0x60
def rspCapabilities : Nat := 0x61
def rspAlgorithms : Nat := 0x63
def rspKeyExchange : Nat := 0x64
def rspFinish : Nat := 0x65
def rspVendorDefined : Nat := 0x7E
def rspError : Nat := 0x7F
def errInvalidRequest : Nat := 0x01
def errUnexpectedRequest : Nat := 0x04
def errUnspecified : Nat := 0x05
def errDecrypt : Nat := 0x06
def errLargeResponse : Nat := 0x0F

/-- A connection. -/
def Dev.conn (d : Dev) (c : Nat) : Spdm := mapGet {} d.sec.spdm c

/-- Set it. -/
def Dev.setConn (d : Dev) (c : Nat) (x : Spdm) : Dev := d.modSec (fun z => { z with spdm := mapSet {} z.spdm c x })

/-- A response. -/
def Dev.spdmAnswer (d : Dev) (c code : Nat) (body : List Nat) : Dev := d.emit (.spdm c code body)

/-- An ERROR response. -/
def Dev.spdmError (d : Dev) (c err : Nat) : Dev := d.spdmAnswer c rspError [err]

/-- SPDM is answered once firmware runs, and not during a chip warm reset; a request that comes before the stage it needs gets
UnexpectedRequest. -/
def Dev.spdmAsk (d : Dev) (c stage : Nat) (f : Dev → Dev) : Dev :=
  if 5 ≤ c ∨ d.sec.started = false ∨ d.res.warm.isSome then d
  else if (d.conn c).stage < stage then d.spdmError c errUnexpectedRequest
  else f d

/-- A request that needs a signature: a chip without an identity answers ERROR, code Unspecified (R394). -/
def Dev.signing (d : Dev) (c : Nat) (f : Dev → Dev) : Dev := if d.sec.identity.isNone then d.spdmError c errUnspecified else f d

/-- GET_VERSION, which begins a connection anew: 1.3 and 1.2. -/
def Dev.getVersion (d : Dev) (c : Nat) : Dev :=
  d.spdmAsk c 0 (fun d => (d.setConn c { stage := 1 }).spdmAnswer c rspVersion [0x13, 0x12])

/-- GET_CAPABILITIES. -/
def Dev.getCapabilities (d : Dev) (c : Nat) : Dev :=
  d.spdmAsk c 1 (fun d => (d.setConn c { d.conn c with stage := max 2 (d.conn c).stage }).spdmAnswer c rspCapabilities [0x13])

/-- NEGOTIATE_ALGORITHMS: of the algorithms offered (bit 0 RSAPSS_3072, 1 SHA-384, 2 secp384r1, 3 AES-256-GCM) those supported. -/
def Dev.negotiate (d : Dev) (c offered : Nat) : Dev :=
  d.spdmAsk c 2 (fun d => (d.setConn c { d.conn c with stage := 3 }).spdmAnswer c rspAlgorithms [offered % 16])

/-- GET_DIGESTS: the digest of the chain in slot 0 (R395). -/
def Dev.getDigests (d : Dev) (c : Nat) : Dev :=
  d.spdmAsk c 3 (fun d =>
    if d.sec.flashGone then d.spdmError c errUnspecified
    else d.spdmAnswer c rspDigests [1, (sha384 (Config.certChain false)).toNat])

/-- GET_CERTIFICATE: a portion of the chain in slot 0, with its length and what remains. -/
def Dev.getCertificate (d : Dev) (c slot offset length : Nat) : Dev :=
  d.spdmAsk c 3 (fun d =>
    let chain := Config.certChain false
    if slot ≠ 0 ∨ chain.length ≤ offset then d.spdmError c errInvalidRequest
    else if d.sec.flashGone then d.spdmError c errUnspecified
    else
      let part := (chain.drop offset).take length
      d.spdmAnswer c rspCertificate ([part.length, chain.length - offset - part.length] ++ part.map BitVec.toNat))

/-- CHALLENGE: the RSA signature over the message, which carries the digest of the chain, a nonce and the summary of all
measurements. -/
def Dev.challenge (d : Dev) (c slot : Nat) : Dev :=
  d.spdmAsk c 3 (fun d =>
    if slot ≠ 0 then d.spdmError c errInvalidRequest
    else d.signing c (fun d =>
      let nonce := Config.freeNat d.free
      let msg := [rspChallengeAuth, (sha384 (Config.certChain false)).toNat, nonce] ++ (List.range 23).map (fun i => d.measurement (i + 1))
      (((d.took 1).setConn c { d.conn c with signed := some msg }).spdmAnswer c rspChallengeAuth (msg ++ [(Config.rsaSign msg).toNat]))))

/-- GET_MEASUREMENTS: the number of measurements (index 0), one, or all (0xFF), with a signature if one is asked for. -/
def Dev.getMeasurements (d : Dev) (c index : Nat) (signed : Bool) : Dev :=
  d.spdmAsk c 3 (fun d =>
    if 23 < index ∧ index ≠ 0xFF then d.spdmError c errInvalidRequest
    else
      let body := if index = 0 then [23] else if index = 0xFF then (List.range 23).map (fun i => d.measurement (i + 1)) else [d.measurement index]
      if signed then d.signing c (fun d =>
        let msg := [rspMeasurements, index, Config.freeNat d.free] ++ body
        (((d.took 1).setConn c { d.conn c with signed := some msg }).spdmAnswer c rspMeasurements (msg ++ [(Config.rsaSign msg).toNat])))
      else (d.setConn c { d.conn c with signed := none }).spdmAnswer c rspMeasurements body)

/-- KEY_EXCHANGE: a session is in handshake; the responder's exchange data and its signature are free values. -/
def Dev.keyExchange (d : Dev) (c slot : Nat) : Dev :=
  d.spdmAsk c 3 (fun d =>
    if slot ≠ 0 then d.spdmError c errInvalidRequest
    else d.signing c (fun d =>
      let msg := [rspKeyExchange, Config.freeNat d.free]
      ((d.took 1).setConn c { d.conn c with session := 1 }).spdmAnswer c rspKeyExchange (msg ++ [(Config.rsaSign msg).toNat])))

/-- FINISH: the session is established if the verify data match. -/
def Dev.spdmFinish (d : Dev) (c : Nat) (ok : Bool) : Dev :=
  d.spdmAsk c 3 (fun d =>
    if (d.conn c).session ≠ 1 then d.spdmError c errUnexpectedRequest
    else if ok then (d.setConn c { d.conn c with session := 2 }).spdmAnswer c rspFinish []
    else (d.setConn c { d.conn c with session := 0 }).spdmError c errDecrypt)

/-- CHUNK_SEND: a chunk of a long request, in order. With the last one the request is whole; what it asks comes as a command of its own
(DESIGN CHOICE, log entry 43). -/
def Dev.chunkSend (d : Dev) (c seq : Nat) (last : Bool) (data : List Byte) : Dev :=
  d.spdmAsk c 3 (fun d =>
    let x := d.conn c
    if seq ≠ x.requestSeq then (d.setConn c { x with request := [], requestSeq := 0 }).spdmError c errInvalidRequest
    else
      let x := if last then { x with request := [], requestSeq := 0 } else { x with request := x.request ++ data, requestSeq := seq + 1 }
      (d.setConn c x).spdmAnswer c rspChunkSendAck [seq])

/-- A response that is returned in chunks: ERROR with code LargeResponse, then the chunks. -/
def Dev.largeAnswer (d : Dev) (c : Nat) (body : List Nat) : Dev :=
  (d.setConn c { d.conn c with reply := body, replySeq := 0 }).spdmError c errLargeResponse

/-- CHUNK_GET: the next chunk of a long response, with whether it is the last. -/
def Dev.chunkGet (d : Dev) (c seq : Nat) : Dev :=
  d.spdmAsk c 3 (fun d =>
    let x := d.conn c
    if x.reply = [] ∨ seq ≠ x.replySeq then d.spdmError c errInvalidRequest
    else
      let part := x.reply.take (Config.spdmChunk + 1)
      let rest := x.reply.drop (Config.spdmChunk + 1)
      (d.setConn c { x with reply := rest, replySeq := if rest = [] then 0 else seq + 1 }).spdmAnswer c rspChunk
        ([seq, b2n rest.isEmpty] ++ part))

/-- COSIGN: the SLH-DSA signature over the message that the RSA signature of the latest CHALLENGE_AUTH or MEASUREMENTS response of the
connection covered, in chunks (R406). -/
def Dev.cosign (d : Dev) (c : Nat) : Dev :=
  d.spdmAsk c 3 (fun d => match (d.conn c).signed with
    | some msg => d.signing c (fun d => d.largeAnswer c ((leBytes 16224 (Config.slhSign msg).toNat).map BitVec.toNat))
    | none => d.spdmError c errUnexpectedRequest)

/-- GET_SLH_CHAIN: the SLH certificate chain (R395, R406), in chunks. -/
def Dev.getSlhChain (d : Dev) (c : Nat) : Dev :=
  d.spdmAsk c 3 (fun d =>
    if d.sec.flashGone then d.spdmError c errUnspecified else d.largeAnswer c ((Config.certChain true).map BitVec.toNat))

/-- IDE_KM, in an established session of the port: the keys of its link stream (0) or of a selective stream (1 to 4) are activated or
taken back (R327, R405). -/
def Dev.ideKm (d : Dev) (q stream : Nat) (activate : Bool) : Dev :=
  if 4 ≤ q ∨ 5 ≤ stream then d
  else d.spdmAsk q 3 (fun d =>
    if (d.conn q).session ≠ 2 then d.spdmError q errUnexpectedRequest
    else if stream = 0 then d.fset F.hptPortStatusLinkIde q (b2n activate)
    else
      let m := d.fget F.hptPortStatusSelIde q
      let b := 2 ^ (stream - 1)
      d.fset F.hptPortStatusSelIde q (if activate then m ||| b else m &&& (15 - b)))

/-! ### Meanings -/

def execGetVersion (conn : Nat) : State → Host.Outcome State Fault Refusal := onDev (fun _ d => d.getVersion conn)
def execGetCapabilities (conn : Nat) : State → Host.Outcome State Fault Refusal := onDev (fun _ d => d.getCapabilities conn)
def execNegotiateAlgorithms (conn offered : Nat) : State → Host.Outcome State Fault Refusal :=
  onDev (fun _ d => d.negotiate conn offered)
def execGetDigests (conn : Nat) : State → Host.Outcome State Fault Refusal := onDev (fun _ d => d.getDigests conn)
def execGetCertificate (conn slot offset length : Nat) : State → Host.Outcome State Fault Refusal :=
  onDev (fun _ d => d.getCertificate conn slot offset length)
def execChallenge (conn slot : Nat) : State → Host.Outcome State Fault Refusal := onDev (fun _ d => d.challenge conn slot)
def execGetMeasurements (conn index : Nat) (signed : Bool) : State → Host.Outcome State Fault Refusal :=
  onDev (fun _ d => d.getMeasurements conn index signed)
def execKeyExchange (conn slot : Nat) : State → Host.Outcome State Fault Refusal := onDev (fun _ d => d.keyExchange conn slot)
def execFinish (conn : Nat) (ok : Bool) : State → Host.Outcome State Fault Refusal := onDev (fun _ d => d.spdmFinish conn ok)
def execChunkSend (conn seq : Nat) (last : Bool) (data : List Byte) : State → Host.Outcome State Fault Refusal :=
  onDev (fun _ d => d.chunkSend conn seq last data)
def execChunkGet (conn seq : Nat) : State → Host.Outcome State Fault Refusal := onDev (fun _ d => d.chunkGet conn seq)
def execCosign (conn : Nat) : State → Host.Outcome State Fault Refusal := onDev (fun _ d => d.cosign conn)
def execGetSlhChain (conn : Nat) : State → Host.Outcome State Fault Refusal := onDev (fun _ d => d.getSlhChain conn)
def execIdeKm (port stream : Nat) (activate : Bool) : State → Host.Outcome State Fault Refusal :=
  onDev (fun _ d => d.ideKm port stream activate)

end Sys2Proof.Machine
end

