-- ==== Sys2Proof/Machine/Dispatch.lean ====
section
/-! DEFINITION. What each command does: one arm per constructor of `Instr`, each a call of that command's meaning. -/

namespace Sys2Proof.Machine

/-- The effect of a command on everything but the queue of waiting commands. -/
def exec (i : Instr) (s : State) : Host.Outcome State Fault Refusal :=
  match i with
  | .ptpSample port offset => Sys2Proof.Machine.execPtpSample port offset s
  | .ppsEdge offset widthNs => Sys2Proof.Machine.execPpsEdge offset widthNs s
  | .sourceLost src => Sys2Proof.Machine.execSourceLost src s
  | .stepReq p v => Sys2Proof.Machine.execStepReq p v s
  | .todWrite v => Sys2Proof.Machine.execTodWrite v s
  | .coarseBucketCurrent wheel => Sys2Proof.Machine.execCoarseBucketCurrent wheel s
  | .ewSlotWrite p wheel n v => Sys2Proof.Machine.execEwSlotWrite p wheel n v s
  | .ewNextWrite p wheel n v => Sys2Proof.Machine.execEwNextWrite p wheel n v s
  | .firmwareTimer wheel n => Sys2Proof.Machine.execFirmwareTimer wheel n s
  | .flagCheck slot => Sys2Proof.Machine.execFlagCheck slot s
  | .level3Check slot => Sys2Proof.Machine.execLevel3Check slot s
  | .admitContext pair => Sys2Proof.Machine.execAdmitContext pair s
  | .contextClose pair => Sys2Proof.Machine.execContextClose pair s
  | .setQuota pair => Sys2Proof.Machine.execSetQuota pair s
  | .grant pair => Sys2Proof.Machine.execGrant pair s
  | .revoke pair => Sys2Proof.Machine.execRevoke pair s
  | .sqDoorbell pair offset size w => Sys2Proof.Machine.execSqDoorbell pair offset size w s
  | .cqDoorbell pair offset size w => Sys2Proof.Machine.execCqDoorbell pair offset size w s
  | .descFetch pair host => Sys2Proof.Machine.execDescFetch pair host s
  | .headerReread pair host => Sys2Proof.Machine.execHeaderReread pair host s
  | .launch pair => Sys2Proof.Machine.execLaunch pair s
  | .launchPlace l => Sys2Proof.Machine.execLaunchPlace l s
  | .launchComplete l => Sys2Proof.Machine.execLaunchComplete l s
  | .hostIn pair => Sys2Proof.Machine.execHostIn pair s
  | .hostOut pair => Sys2Proof.Machine.execHostOut pair s
  | .hostTransferComplete x host => Sys2Proof.Machine.execHostTransferComplete x host s
  | .completionRingRoom pair => Sys2Proof.Machine.execCompletionRingRoom pair s
  | .attachGo p pair v => Sys2Proof.Machine.execAttachGo p pair v s
  | .detach p pair v => Sys2Proof.Machine.execDetach p pair v s
  | .rearm p pair v => Sys2Proof.Machine.execRearm p pair v s
  | .linkDown port => Sys2Proof.Machine.execLinkDown port s
  | .hotReset port => Sys2Proof.Machine.execHotReset port s
  | .functionLevelReset port => Sys2Proof.Machine.execFunctionLevelReset port s
  | .busMasterEnableCleared port => Sys2Proof.Machine.execBusMasterEnableCleared port s
  | .completionTimeout x => Sys2Proof.Machine.execCompletionTimeout x s
  | .linkRetrain port width rate l0p => Sys2Proof.Machine.execLinkRetrain port width rate l0p s
  | .sop u w => Sys2Proof.Machine.execSop u w s
  | .sopi u w => Sys2Proof.Machine.execSopi u w s
  | .sld u w parity => Sys2Proof.Machine.execSld u w parity s
  | .sst u w parity => Sys2Proof.Machine.execSst u w parity s
  | .sldl u w => Sys2Proof.Machine.execSldl u w s
  | .sstl u w => Sys2Proof.Machine.execSstl u w s
  | .samo u w => Sys2Proof.Machine.execSamo u w s
  | .sbr u w => Sys2Proof.Machine.execSbr u w s
  | .sjal u w => Sys2Proof.Machine.execSjal u w s
  | .sjr u w => Sys2Proof.Machine.execSjr u w s
  | .sqcFillReturn fill => Sys2Proof.Machine.execSqcFillReturn fill s
  | .vrun u w => Sys2Proof.Machine.execVrun u w s
  | .vwait u w => Sys2Proof.Machine.execVwait u w s
  | .gbar u w => Sys2Proof.Machine.execGbar u w s
  | .gbarComplete l => Sys2Proof.Machine.execGbarComplete l s
  | .endMember u w => Sys2Proof.Machine.execEndMember u w s
  | .waitq u w => Sys2Proof.Machine.execWaitq u w s
  | .twait u w => Sys2Proof.Machine.execTwait u w s
  | .fence u w => Sys2Proof.Machine.execFence u w s
  | .cinv u w => Sys2Proof.Machine.execCinv u w s
  | .fstat u w => Sys2Proof.Machine.execFstat u w s
  | .btrd u w => Sys2Proof.Machine.execBtrd u w s
  | .btwait u w => Sys2Proof.Machine.execBtwait u w s
  | .signal u w => Sys2Proof.Machine.execSignal u w s
  | .mailboxRoom l m => Sys2Proof.Machine.execMailboxRoom l m s
  | .viop u w => Sys2Proof.Machine.execViop u w s
  | .viopi u w => Sys2Proof.Machine.execViopi u w s
  | .vicmp u w => Sys2Proof.Machine.execVicmp u w s
  | .vsel u w => Sys2Proof.Machine.execVsel u w s
  | .vfop u w => Sys2Proof.Machine.execVfop u w s
  | .vfma u w => Sys2Proof.Machine.execVfma u w s
  | .vfcmp u w => Sys2Proof.Machine.execVfcmp u w s
  | .vsf u w => Sys2Proof.Machine.execVsf u w s
  | .vcvt u w => Sys2Proof.Machine.execVcvt u w s
  | .vld u w => Sys2Proof.Machine.execVld u w s
  | .vst u w => Sys2Proof.Machine.execVst u w s
  | .vldc u w => Sys2Proof.Machine.execVldc u w s
  | .vstc u w => Sys2Proof.Machine.execVstc u w s
  | .vlatom u w => Sys2Proof.Machine.execVlatom u w s
  | .bar u w => Sys2Proof.Machine.execBar u w s
  | .vote u w => Sys2Proof.Machine.execVote u w s
  | .vshfl u w => Sys2Proof.Machine.execVshfl u w s
  | .vbr u w => Sys2Proof.Machine.execVbr u w s
  | .vend u w => Sys2Proof.Machine.execVend u w s
  | .tbind u w => Sys2Proof.Machine.execTbind u w s
  | .tensorUnitGrant ce => Sys2Proof.Machine.execTensorUnitGrant ce s
  | .mma u w => Sys2Proof.Machine.execMma u w s
  | .trd u w => Sys2Proof.Machine.execTrd u w s
  | .cbld u w => Sys2Proof.Machine.execCbld u w s
  | .get u w => Sys2Proof.Machine.execGet u w s
  | .put u w => Sys2Proof.Machine.execPut u w s
  | .gather u w => Sys2Proof.Machine.execGather u w s
  | .scatter u w => Sys2Proof.Machine.execScatter u w s
  | .red u w => Sys2Proof.Machine.execRed u w s
  | .fill u w => Sys2Proof.Machine.execFill u w s
  | .kvg u w => Sys2Proof.Machine.execKvg u w s
  | .kva u w => Sys2Proof.Machine.execKva u w s
  | .lchk u w => Sys2Proof.Machine.execLchk u w s
  | .xdisp u w => Sys2Proof.Machine.execXdisp u w s
  | .heldAnswerDecided c idx => Sys2Proof.Machine.execHeldAnswerDecided c idx s
  | .commandComplete c => Sys2Proof.Machine.execCommandComplete c s
  | .seqOpen pair => Sys2Proof.Machine.execSeqOpen pair s
  | .seqStep pair => Sys2Proof.Machine.execSeqStep pair s
  | .stepEnd pair => Sys2Proof.Machine.execStepEnd pair s
  | .adjourn pair => Sys2Proof.Machine.execAdjourn pair s
  | .resume pair => Sys2Proof.Machine.execResume pair s
  | .seqClose pair => Sys2Proof.Machine.execSeqClose pair s
  | .share pair => Sys2Proof.Machine.execShare pair s
  | .extend pair => Sys2Proof.Machine.execExtend pair s
  | .query pair => Sys2Proof.Machine.execQuery pair s
  | .poolGrow pair => Sys2Proof.Machine.execPoolGrow pair s
  | .poolShrink pair => Sys2Proof.Machine.execPoolShrink pair s
  | .heldRequestRelease slot => Sys2Proof.Machine.execHeldRequestRelease slot s
  | .kvMoveCommit mv => Sys2Proof.Machine.execKvMoveCommit mv s
  | .promote pair => Sys2Proof.Machine.execPromote pair s
  | .demote pair => Sys2Proof.Machine.execDemote pair s
  | .windowSet pair => Sys2Proof.Machine.execWindowSet pair s
  | .windowArm pair => Sys2Proof.Machine.execWindowArm pair s
  | .windowClear pair => Sys2Proof.Machine.execWindowClear pair s
  | .entryReset pair => Sys2Proof.Machine.execEntryReset pair s
  | .tierQuery pair => Sys2Proof.Machine.execTierQuery pair s
  | .moveHold pair => Sys2Proof.Machine.execMoveHold pair s
  | .moveRelease pair => Sys2Proof.Machine.execMoveRelease pair s
  | .pagePoolGrow pair => Sys2Proof.Machine.execPagePoolGrow pair s
  | .pagePoolShrink pair => Sys2Proof.Machine.execPagePoolShrink pair s
  | .windowPassStart a model => Sys2Proof.Machine.execWindowPassStart a model s
  | .windowEntryStart a model e => Sys2Proof.Machine.execWindowEntryStart a model e s
  | .windowEntryLeave a model e => Sys2Proof.Machine.execWindowEntryLeave a model e s
  | .promotionDeadline a model e => Sys2Proof.Machine.execPromotionDeadline a model e s
  | .moverBurst die => Sys2Proof.Machine.execMoverBurst die s
  | .starvationHorizon mv => Sys2Proof.Machine.execStarvationHorizon mv s
  | .moveCommit mv => Sys2Proof.Machine.execMoveCommit mv s
  | .wipeDone x => Sys2Proof.Machine.execWipeDone x s
  | .hartLost core => Sys2Proof.Machine.execHartLost core s
  | .fwiVersion call => Sys2Proof.Machine.execFwiVersion call s
  | .hartStart hart target entry opaqueArg => Sys2Proof.Machine.execHartStart hart target entry opaqueArg s
  | .hartStop hart => Sys2Proof.Machine.execHartStop hart s
  | .hartLostEntry hart entry => Sys2Proof.Machine.execHartLostEntry hart entry s
  | .logNotify hart target eiid => Sys2Proof.Machine.execLogNotify hart target eiid s
  | .clusterIdle hart cluster => Sys2Proof.Machine.execClusterIdle hart cluster s
  | .coreFence hart err => Sys2Proof.Machine.execCoreFence hart err s
  | .registerAccessTimeout hart addr load => Sys2Proof.Machine.execRegisterAccessTimeout hart addr load s
  | .rds agent req => Sys2Proof.Machine.execRds agent req s
  | .rdx agent req => Sys2Proof.Machine.execRdx agent req s
  | .upgrade agent req => Sys2Proof.Machine.execUpgrade agent req s
  | .fwds owner line => Sys2Proof.Machine.execFwds owner line s
  | .fwdx owner line => Sys2Proof.Machine.execFwdx owner line s
  | .eviction agent line => Sys2Proof.Machine.execEviction agent line s
  | .creditRetry req => Sys2Proof.Machine.execCreditRetry req s
  | .kiornRequestTimeout req => Sys2Proof.Machine.execKiornRequestTimeout req s
  | .sliceEccError slice line e => Sys2Proof.Machine.execSliceEccError slice line e s
  | .flitCrcFail link group => Sys2Proof.Machine.execFlitCrcFail link group s
  | .laneGroupRetrain link group laneFails => Sys2Proof.Machine.execLaneGroupRetrain link group laneFails s
  | .partCfgWrite p a v => Sys2Proof.Machine.execPartCfgWrite p a v s
  | .scrubWalk found => Sys2Proof.Machine.execScrubWalk found s
  | .hbmLaneRepair ch spareLeft => Sys2Proof.Machine.execHbmLaneRepair ch spareLeft s
  | .hbmRowRepair ch spareLeft => Sys2Proof.Machine.execHbmRowRepair ch spareLeft s
  | .hbmChannelFail ch => Sys2Proof.Machine.execHbmChannelFail ch s
  | .tourFillZero p a v => Sys2Proof.Machine.execTourFillZero p a v s
  | .tourFillPattern p a v => Sys2Proof.Machine.execTourFillPattern p a v s
  | .tourDigest p a v => Sys2Proof.Machine.execTourDigest p a v s
  | .tourDone a => Sys2Proof.Machine.execTourDone a s
  | .testStart p ch v => Sys2Proof.Machine.execTestStart p ch v s
  | .testStop p ch v => Sys2Proof.Machine.execTestStop p ch v s
  | .testDone ch errors firstFail => Sys2Proof.Machine.execTestDone ch errors firstFail s
  | .chSlotWrite p ch v => Sys2Proof.Machine.execChSlotWrite p ch v s
  | .ilCfgWrite p a v => Sys2Proof.Machine.execIlCfgWrite p a v s
  | .walk kind source ctx ava write => Sys2Proof.Machine.execWalk kind source ctx ava write s
  | .fqHeadWrite p a v => Sys2Proof.Machine.execFqHeadWrite p a v s
  | .retryFault p a v => Sys2Proof.Machine.execRetryFault p a v s
  | .failFault p a v => Sys2Proof.Machine.execFailFault p a v s
  | .faultTimeout a kind source => Sys2Proof.Machine.execFaultTimeout a kind source s
  | .invRange p a v => Sys2Proof.Machine.execInvRange p a v s
  | .invContext p a v => Sys2Proof.Machine.execInvContext p a v s
  | .invPartition p a v => Sys2Proof.Machine.execInvPartition p a v s
  | .invComplete a => Sys2Proof.Machine.execInvComplete a s
  | .igsurenLaneFail port lane lost => Sys2Proof.Machine.execIgsurenLaneFail port lane lost s
  | .fabricLinkRetry port working => Sys2Proof.Machine.execFabricLinkRetry port working s
  | .putPacket k => Sys2Proof.Machine.execPutPacket k s
  | .redPacket k => Sys2Proof.Machine.execRedPacket k s
  | .getReq k => Sys2Proof.Machine.execGetReq k s
  | .getResp k => Sys2Proof.Machine.execGetResp k s
  | .ackPacket k => Sys2Proof.Machine.execAckPacket k s
  | .nackPacket k => Sys2Proof.Machine.execNackPacket k s
  | .epochPacket k => Sys2Proof.Machine.execEpochPacket k s
  | .pwrPacket k => Sys2Proof.Machine.execPwrPacket k s
  | .laneMap k => Sys2Proof.Machine.execLaneMap k s
  | .ackTimer a node => Sys2Proof.Machine.execAckTimer a node s
  | .retransmitTimeout a node psn => Sys2Proof.Machine.execRetransmitTimeout a node psn s
  | .giveUp a node => Sys2Proof.Machine.execGiveUp a node s
  | .dtWrite p a v => Sys2Proof.Machine.execDtWrite p a v s
  | .lockstepMismatch k => Sys2Proof.Machine.execLockstepMismatch k s
  | .pairWatchdog k => Sys2Proof.Machine.execPairWatchdog k s
  | .kick p k v => Sys2Proof.Machine.execKick p k v s
  | .restart p k v => Sys2Proof.Machine.execRestart p k v s
  | .sourceEdge n => Sys2Proof.Machine.execSourceEdge n s
  | .evcSet p v => Sys2Proof.Machine.execEvcSet p v s
  | .eventDelivery k => Sys2Proof.Machine.execEventDelivery k s
  | .evcComplete k src => Sys2Proof.Machine.execEvcComplete k src s
  | .troubleLogWrite => Sys2Proof.Machine.execTroubleLogWrite s
  | .resetHoldExpiry a => Sys2Proof.Machine.execResetHoldExpiry a s
  | .coldStart pufOk identity => Sys2Proof.Machine.execColdStart pufOk identity s
  | .boot port v => Sys2Proof.Machine.execBoot port v s
  | .stage port v => Sys2Proof.Machine.execStage port v s
  | .osLoad port v table image => Sys2Proof.Machine.execOsLoad port v table image s
  | .imageVerified sig h => Sys2Proof.Machine.execImageVerified sig h s
  | .flashWaitExpiry => Sys2Proof.Machine.execFlashWaitExpiry s
  | .pairSwitch k => Sys2Proof.Machine.execPairSwitch k s
  | .getVersion conn => Sys2Proof.Machine.execGetVersion conn s
  | .getCapabilities conn => Sys2Proof.Machine.execGetCapabilities conn s
  | .negotiateAlgorithms conn offered => Sys2Proof.Machine.execNegotiateAlgorithms conn offered s
  | .getDigests conn => Sys2Proof.Machine.execGetDigests conn s
  | .getCertificate conn slot offset length => Sys2Proof.Machine.execGetCertificate conn slot offset length s
  | .challenge conn slot => Sys2Proof.Machine.execChallenge conn slot s
  | .getMeasurements conn index signed => Sys2Proof.Machine.execGetMeasurements conn index signed s
  | .keyExchange conn slot => Sys2Proof.Machine.execKeyExchange conn slot s
  | .finish conn ok => Sys2Proof.Machine.execFinish conn ok s
  | .chunkSend conn seq last data => Sys2Proof.Machine.execChunkSend conn seq last data s
  | .chunkGet conn seq => Sys2Proof.Machine.execChunkGet conn seq s
  | .cosign conn => Sys2Proof.Machine.execCosign conn s
  | .getSlhChain conn => Sys2Proof.Machine.execGetSlhChain conn s
  | .launchWatchdog l => Sys2Proof.Machine.execLaunchWatchdog l s
  | .noProgress l m => Sys2Proof.Machine.execNoProgress l m s
  | .tqTimeout c => Sys2Proof.Machine.execTqTimeout c s
  | .coreRetireWatchdog core entersM => Sys2Proof.Machine.execCoreRetireWatchdog core entersM s
  | .contextReset a => Sys2Proof.Machine.execContextReset a s
  | .replayStart a poisonedRec => Sys2Proof.Machine.execReplayStart a poisonedRec s
  | .ctxDeadline a => Sys2Proof.Machine.execCtxDeadline a s
  | .engineReset ce => Sys2Proof.Machine.execEngineReset ce s
  | .engDeadline a => Sys2Proof.Machine.execEngDeadline a s
  | .partitionReset a => Sys2Proof.Machine.execPartitionReset a s
  | .partitionResetDone a => Sys2Proof.Machine.execPartitionResetDone a s
  | .partDeadline a => Sys2Proof.Machine.execPartDeadline a s
  | .chipWarmReset imageDigest => Sys2Proof.Machine.execChipWarmReset imageDigest s
  | .warmDeadline => Sys2Proof.Machine.execWarmDeadline s
  | .powerCycle => Sys2Proof.Machine.execPowerCycle s
  | .screeningWindow ce => Sys2Proof.Machine.execScreeningWindow ce s
  | .screeningPhaseEnd ce r tempC => Sys2Proof.Machine.execScreeningPhaseEnd ce r tempC s
  | .screenWatchdog ce => Sys2Proof.Machine.execScreenWatchdog ce s
  | .shadowCompare l => Sys2Proof.Machine.execShadowCompare l s
  | .digestPass a e => Sys2Proof.Machine.execDigestPass a e s
  | .floorEnter => Sys2Proof.Machine.execFloorEnter s
  | .floorHoldEnd => Sys2Proof.Machine.execFloorHoldEnd s
  | .thermalStep die tempC => Sys2Proof.Machine.execThermalStep die tempC s
  | .thermTrip tempC => Sys2Proof.Machine.execThermTrip tempC s
  | .powerEpoch base links mem cores adies slackUs => Sys2Proof.Machine.execPowerEpoch base links mem cores adies slackUs s
  | .limiterSample pkgW => Sys2Proof.Machine.execLimiterSample pkgW s
  | .droop die us => Sys2Proof.Machine.execDroop die us s
  | .blitzStep die room => Sys2Proof.Machine.execBlitzStep die room s
  | .aclkStep die => Sys2Proof.Machine.execAclkStep die s
  | .park p v => Sys2Proof.Machine.execPark p v s
  | .unpark p v => Sys2Proof.Machine.execUnpark p v s
  | .domainPowerUp d => Sys2Proof.Machine.execDomainPowerUp d s
  | .withhold p ce v => Sys2Proof.Machine.execWithhold p ce v s
  | .layoutChange p v => Sys2Proof.Machine.execLayoutChange p v s
  | .layoutClearDone => Sys2Proof.Machine.execLayoutClearDone s
  | .firmwareReportUpdate report => Sys2Proof.Machine.execFirmwareReportUpdate report s
  | .counterClear p off v => Sys2Proof.Machine.execCounterClear p off v s
  | .lock p off v => Sys2Proof.Machine.execLock p off v s
  | .registerWrite p off v => Sys2Proof.Machine.execRegisterWrite p off v s
  | .i3cTimeout => Sys2Proof.Machine.execI3cTimeout s
  | .xspiTimeout => Sys2Proof.Machine.execXspiTimeout s
  | .pwrAlertRelease => Sys2Proof.Machine.execPwrAlertRelease s
  | .sysResetAsserted => Sys2Proof.Machine.execSysResetAsserted s
  | .powerRemoved => Sys2Proof.Machine.execPowerRemoved s
  | .portLinkTrained port width rate => Sys2Proof.Machine.execPortLinkTrained port width rate s
  | .walkerFail group walker => Sys2Proof.Machine.execWalkerFail group walker s
  | .ddrByteLaneFail ch corrected bad => Sys2Proof.Machine.execDdrByteLaneFail ch corrected bad s
  | .architecturalRegisterError core entersM => Sys2Proof.Machine.execArchitecturalRegisterError core entersM s
  | .sramUncorrectable k logEntry => Sys2Proof.Machine.execSramUncorrectable k logEntry s
  | .traceTriggerClaim claim => Sys2Proof.Machine.execTraceTriggerClaim claim s
  | .warmResetDone => Sys2Proof.Machine.execWarmResetDone s
  | .memoryInitDone ddr => Sys2Proof.Machine.execMemoryInitDone ddr s
  | .osImageChecked a => Sys2Proof.Machine.execOsImageChecked a s
  | .managementFlashWrite port w => Sys2Proof.Machine.execManagementFlashWrite port w s
  | .ideKm port stream activate => Sys2Proof.Machine.execIdeKm port stream activate s

end Sys2Proof.Machine
end

