-- ==== Sys2Proof/Safety.lean ====
section
/-! DEFINITION. What statements are made in terms of: runs of the machine, and when an engine instruction may issue. -/

namespace Sys2Proof.Machine

/-- The state after `n` steps, none of which stops. -/
def runSteps : Nat → State → Option State
  | 0, s => some s
  | n + 1, s => match step s with
    | .next t => runSteps n t
    | .fault _ => none
    | .refused _ => none

/-- Member `m` (`y`) of launch `l` (`x`) may issue word `w`, an instruction of opcode `op` in order, from its control stream: the
launch runs, the member neither waits nor has ended, its sequencer is not stalled, and the sequencer cache holds the word at the
member's pc in a line that no parity error has hit (R101, R107, R138, R147). -/
abbrev ControlAt (s : State) (l m : Nat) (x : Launch) (y : Member) (op : Nat) (w : Word) : Prop :=
  s.dev.launch? l = some x ∧ s.dev.member? l m = some y ∧ x.st = .running ∧ y.ended = false ∧ y.wait.tries = true ∧
    (s.dev.ce y.ce).stalled = false ∧
    (s.dev.sqcFind y.ce x.ctx y.pc true).map (fun q => (q.bad, listNat ((q.data.drop (y.pc % 64)).take 8) 0 8)) =
      some (false, w.toNat) ∧
    controlOps.contains op = true ∧ bits w.toNat 63 56 = op ∧ reservedOk w.toNat = true

/-- Cohort `c` (`q`) of member `m` may issue word `w`, an instruction of opcode `op` in order: its issue slot has its turn (R92), and the
word is in the member's Local Store at the cohort's pc (R139, R147). -/
abbrev CohortAt (s : State) (l m c : Nat) (x : Launch) (y : Member) (q : Cohort) (op : Nat) (w : Word) : Prop :=
  s.dev.launch? l = some x ∧ s.dev.member? l m = some y ∧ mapFind? s.dev.eng.cohorts (cohortKey l m c) = some q ∧
    x.st = .running ∧ q.ended = false ∧ s.dev.slotTurn (cohortKey l m c) q = true ∧ q.pc + 8 ≤ x.lsSize ∧ s.dev.lsNat y q.pc 8 = w.toNat ∧
    cohortOps.contains op = true ∧ bits w.toNat 63 56 = op ∧ reservedOk w.toNat = true

/-- No parity error has hit a line of the context in the sequencer cache of a CE (R107). -/
abbrev Dev.sqcSound (d : Dev) (k c : Nat) : Prop := ∀ q ∈ (d.ce k).sqc, q.ctx = c → q.bad = false

/-- A cohort instruction retires: the cohort goes on at `pc` and is the last of its slot to have issued (R92), its member has made progress,
and the engine counts it (R140, R410). -/
def Dev.cohortRetire (bt : Nat) (d : Dev) (l m c ce pc : Nat) : Dev :=
  ((d.modEng (fun z => { z with
    cohorts := mapModify z.cohorts (cohortKey l m c) (fun q => { q with pc, since := z.turn + 1 }), turn := z.turn + 1 })).modMember l m
    (fun y => { y with progress := bt })).fbump F.cePerfVecIssued ce 1

/-- The state once a control-stream instruction of member `m` (`y`) has left device `d`: the member goes on at its next instruction. -/
def State.goes (s : State) (l m : Nat) (y : Member) (d : Dev) : State := { s with dev := d.retire s.bt l m ((y.pc + 8) % 2 ^ 64) }

/-- The state once an instruction of cohort `c` (`q`) has left device `d`: the cohort goes on at its next instruction. -/
def State.cohortGoes (s : State) (l m c : Nat) (y : Member) (q : Cohort) (d : Dev) : State :=
  { s with dev := d.cohortRetire s.bt l m c y.ce (q.pc + 8) }

/-- The address a relative branch at `pc` goes to (R149). -/
def branchTarget (pc w : Nat) : Nat := addOff (BitVec.ofNat 64 pc) (8 * iImm w) % 2 ^ 64

/-- A command's register fields, ORD and hint are allowed, and the fields that must name s0 do (R144, R159, R160, R164). -/
def commandFields (o : CmdOp) (w : Nat) : Bool :=
  sOk [iSD w, iSA w, iSL w, iSX w, iST w] && o.modsOk (iOrd w) (iHint w) && (o.zeroFields w).all (fun r => r == 0)

/-- The device after member `m` (`y`) of launch `l` (`x`) has issued a command: its record with the next ticket of its queue, the
ticket in s[ST], and its start if it may (R100, R156, R159). -/
def Dev.issued (bt : Nat) (d : Dev) (l m : Nat) (x : Launch) (y : Member) (o : CmdOp) (w : Nat) : Dev :=
  let t := mapGet 0 y.tickets (iQ w) + 1
  let c : Cmd := {
    l, m, q := iQ w, ticket := t, op := o, ord := iOrd w, hint := iHint w, rb := iRb w, twoD := iTwoD w
    crc := bit w 3 || (x.shadow.isSome || x.shadowOf.isSome || x.settle.isSome), ef := bits w 2 0
    sd := (y.sget (iSD w)).toNat, sa := (y.sget (iSA w)).toNat, sl := (y.sget (iSL w)).toNat, sx := (y.sget (iSX w)).toNat
    started := false, bt }
  let d' := d.modEng (fun z => { z with cmds := mapPut z.cmds d.eng.nextCmd c, nextCmd := d.eng.nextCmd + 1 })
  ((d'.modMember l m (fun y => { y with tickets := mapPut y.tickets (iQ w) t })).sput l m (iST w) (BitVec.ofNat 64 t)).tryStart bt
    d.eng.nextCmd

/-- The request `r` at the head of pair `k`, of type `typ` and operation `op`, is of context `c`, which is not ending; `d` is the
device once it is taken (R339, R341, R37). -/
abbrev RequestAt (s : State) (k typ op : Nat) (r : Desc) (c : Nat) (d : Dev) : Prop :=
  s.dev.head? k typ op = some r ∧ d = s.dev.popDesc k ∧ c = d.descCtx r ∧ (d.ctx c).ending = false

/-- That request is a sequence request that names slot `sl`, which holds the sequence `x` of the context and is neither CLOSED nor
CLOSING (R39, R177). -/
abbrev SequenceAt (s : State) (k op : Nat) (r : Desc) (c sl : Nat) (x : Slot) (d : Dev) : Prop :=
  RequestAt s k 4 op r c d ∧ sl = r.at_ 2 2 ∧ x = d.slot sl ∧ d.slotOk c sl = true ∧ x.st ≠ .closed ∧ x.st ≠ .closing ∧ x.ctx = c

/-- The device once agent `g`'s request for the line of key `k` is with its home slice (R265). -/
def Dev.requested (bt : Nat) (d : Dev) (g k : Nat) (kind : ReqKind) : Dev :=
  d.modCoh (fun z => { z with reqs := mapPut z.reqs z.nextReq { agent := g, line := k, kind, bt }, nextReq := z.nextReq + 1 })

/-- The device once the home slice has supplied the data of request `n` for the line of key `k`; whether they were in the slice is a
free value (R264). -/
def Dev.supplied (d : Dev) (n k : Nat) : Dev :=
  ((d.fbump (if Config.freeBool d.free then F.shcSliceStat0Hits else F.shcSliceStat0Misses) (d.sliceOf k) 1).took 1).dropReq n

/-- Hart `h` runs and makes access `x` to cacheable memory that it may reach, at place `p`, in the line of directory key `k` (R225, R252);
no load of it waits for a register. -/
abbrev CoreAt (s : State) (h : Nat) (x : CoreAcc) (k : Nat) (p : CorePlace) : Prop :=
  h < 96 ∧ s.dev.runs h = true ∧ (s.dev.hart h).regLoad = none ∧ x.addr % 2 ^ 48 < regBase ∧ x.exc = none ∧ x.attr = .pma ∧
    k = coreLine (s.dev.partOfHart h) x.addr ∧ p = s.dev.corePlace (s.dev.partOfHart h) x.addr x.op.size ∧ p ≠ .none

/-- The device once wheel `w` has processed event `v`: it has left the wheel and is one of the wheel's events of this microsecond; one
processed more than 10 µs after the start of its bucket counts as late (R68). -/
def Dev.eventDone (bt : Nat) (d : Dev) (w : Nat) (v : Event) : Dev :=
  if v.bucket * 1000 + 10000 < bt then (d.processed bt w v.ev).fbump (ewLate w).1 (ewLate w).2 1 else d.processed bt w v.ev

/-- Packet `k` reaches the partition at die `a`, which takes it: its port lies in the partition, no reset drops packets, it is for the
partition's node, its source's epoch is the recorded one, and it carries the partition's own (R361, R366, R367). -/
abbrev PacketAt (s : State) (k : Packet) (a : Nat) : Prop :=
  k.port < 8 ∧ a = s.dev.partOfDie k.port ∧ s.dev.fabDeaf a = false ∧ k.dstNode = s.dev.nodeId a ∧
    (s.dev.peer a k.srcNode).epoch = some k.srcEpoch ∧ k.dstEpoch = s.dev.epoch a

/-- The device once a packet of the stream from node `k.srcNode` has had its effect: its PSN has arrived, and the 16th packet not yet
acknowledged sends an ACK (R361). -/
def Dev.accepted (bt : Nat) (d : Dev) (a : Nat) (k : Packet) : Dev :=
  let d := d.setPeer a k.srcNode ((d.peer a k.srcNode).arrive bt k.psn)
  if 16 ≤ (d.peer a k.srcNode).owed then d.sendAck a k.srcNode else d

end Sys2Proof.Machine
end

