-- ==== Sys2Proof/Certificates/Slice0/Obligations.lean ====
section
/-! DEFINITION. The statements for the provers: what every command does in every state that meets its conditions, what each leaves
unchanged (the whole next state is given), and what holds of the machine as a whole. -/

open Sys2Proof Sys2Proof.Machine

/-- A step takes the command at the front of the queue and runs it on the device with the rest of the queue; the queue is the model's own
(its order is that in which the commands reach the device). -/
def Obligations.FrontCommandRuns : Prop :=
  ∀ (s : State) (c : Instr) (rest : List Instr), s.pending = c :: rest → step s = exec c { s with pending := rest }

/-- R231: with no command waiting, a nanosecond of Board Time passes (the model's choice, log entry 1); a running hart whose supervisor
timer
is due at the new Board Time and enabled takes its interrupt, and never before its compare value; nothing else changes. -/
def Obligations.IdleTick : Prop :=
  (∀ (s : State), s.pending = [] → (∀ h ∈ s.dev.cpx.harts, s.dev.runs h.1 = true → h.2.timerTakes (s.bt + 1) = false) →
    step s = .next { s with bt := s.bt + 1 }) ∧
  (∀ (s : State) (h : Nat) (x : Hart), s.pending = [] → s.dev.cpx.harts = [(h, x)] → s.dev.runs h = true →
    x.timerTakes (s.bt + 1) = true →
    step s = .next { s with
      bt := s.bt + 1
      dev := (s.dev.drainStores h).modHart h (fun x => x.enter .hs (2 ^ 63 + 5) 0) }) ∧
  (∀ (bt : Nat) (x : Hart), x.timerTakes bt = true → (x.csrGet csrStimecmp).toNat ≤ bt)

/-- R5, R6: at power-on Board Time is 0, no command waits, memory lists nothing, and every register holds the reset values of its table's
fields; the fields named have the values that their tables give. -/
def Obligations.PowerOnState : Prop :=
  State.reset.bt = 0 ∧ State.reset.pending = [] ∧ State.reset.dev.mem = [] ∧ State.reset.dev.ctxs = [] ∧
  (∀ (r : RegName) (i : Nat), State.reset.dev.reg r i = regReset r) ∧
  (∀ (r : RegName) (f : FldDef) (i : Nat), f ∈ regFields r → State.reset.dev.fget f.fld i = f.reset) ∧
  State.reset.dev.layout = 0x01 ∧ State.reset.dev.fget F.btmCtrlHoldEn 0 = 1 ∧ State.reset.dev.fget F.evcAgeAgeUs 0 = 1000 ∧
  State.reset.dev.fget F.evcAgeFreshUs 0 = 10 ∧ State.reset.dev.fget F.arbEscLimitPartMax 0 = 4 ∧
  State.reset.dev.fget F.arbEscLimitWarmMax 0 = 2

/-- Every command of the table gives a next state in every state, and leaves the commands that wait behind it as they are: no command is
refused and none stops the device (a refused write, an exception and an error are effects). -/
def Obligations.EveryCommandCompletes : Prop :=
  (∀ (c : Instr) (s : State), ∃ t, exec c s = .next t ∧ t.pending = s.pending) ∧
  (∀ (s : State), ∃ t, runSteps s.pending.length s = some t ∧ t.pending = [])

/-- R58, R65: no step takes Board Time backward, whatever the state and the command, unless the step is one of the three that begin a new
power cycle, from which Board Time counts anew. -/
def Obligations.BoardTimeForward : Prop :=
  ∀ (s t : State) (T : Nat), T ≤ s.bt →
    (∀ c rest, s.pending = c :: rest → c ≠ .sysResetAsserted ∧ c ≠ .powerRemoved ∧ ∀ ok id, c ≠ .coldStart ok id) →
    step s = .next t → T ≤ t.bt

/-- R120: adding a term carries between V and W by 2^96 (2^192 in the model's unit, 2^-96) so that V stays in its window and the exact sum
grows by the term; flags are combined by OR; and a cell's state after a set of terms does not depend on the order in which they
arrive. -/
def Obligations.OrderFreeAccumulator : Prop :=
  (∀ (c : Cell) (t : Int), -accHalf ≤ c.v → c.v < accHalf → -accHalf < t → t < accHalf →
    (c.v + t ≥ accHalf → accAdd c t = { c with v := c.v + t - 2 ^ 192, w := c.w + 1 }) ∧
    (c.v + t < -accHalf → accAdd c t = { c with v := c.v + t + 2 ^ 192, w := c.w - 1 }) ∧
    (-accHalf ≤ c.v + t → c.v + t < accHalf → accAdd c t = { c with v := c.v + t }) ∧
    (accAdd c t).sum = c.sum + t ∧ -accHalf ≤ (accAdd c t).v ∧ (accAdd c t).v < accHalf) ∧
  (∀ (c : Cell) (t : FVal), (accTerm c t).nan = (c.nan || (accTerm {} t).nan) ∧ (accTerm c t).pinf = (c.pinf || (accTerm {} t).pinf) ∧
    (accTerm c t).ninf = (c.ninf || (accTerm {} t).ninf) ∧ (accTerm c t).ovf = (c.ovf || (accTerm {} t).ovf) ∧
    (accTerm c t).low = (c.low || (accTerm {} t).low)) ∧
  (∀ (c : Cell) (ts us : List FVal), -accHalf ≤ c.v → c.v < accHalf → ts.Perm us → ts.foldl accTerm c = us.foldl accTerm c)

/-- R290: within a region of C channels, offset x lies in unit u = x div 512, on the channel of index ((u mod C) + (f mod C)) mod C, where f
is the exclusive or of the three 10-bit fields of g = u div C, at local address g × 512 + x mod 512, plus Q − W in a wide region; and
the map is a bijection between the first n × C units and the first n units of each channel. -/
def Obligations.HbmInterleave : Prop :=
  (∀ (C x u g : Nat), u = x / 512 → g = u / C →
    interleave C x = ((u % C + (g % 1024 ^^^ (g / 2 ^ 10) % 1024 ^^^ (g / 2 ^ 20) % 1024) % C) % C, g * 512 + x % 512)) ∧
  (∀ (d : Dev) (x : Nat) (r : Region), d.regionOf x = some r →
    d.hbmPlace x = some (r.chans.getD (interleave r.chans.length (x - r.base)).1 0,
      (interleave r.chans.length (x - r.base)).2 + r.start)) ∧
  (∀ (d : Dev) (a : Nat), (d.localRegion a).start = 0 ∧ (d.wideRegion a).start = d.chanCap - d.wideBytes a ∧
    (d.localRegion a).chans = d.activeChans a 1 ∧ (d.wideRegion a).chans = d.activeChans a (d.dies a)) ∧
  (∀ (C n x : Nat), 0 < C → x < n * C * 512 → (interleave C x).1 < C ∧ (interleave C x).2 < n * 512) ∧
  (∀ (C x y : Nat), 0 < C → interleave C x = interleave C y → x = y) ∧
  (∀ (C n i l : Nat), i < C → l < n * 512 → ∃ x, x < n * C * 512 ∧ interleave C x = (i, l)) ∧
  interleave 128 0x123456A40 = (66, 0x2468A40)

/-- R16, R13, R14, R15: in every layout that `PRT.LAYOUT.NEXT` may hold, each die lies in one partition of 1, 2, 4 or 8 dies with
consecutive numbers, whose lowest die's number is a multiple of the die count; the four modes are the uniform layouts of the table. A
request between the Hub and a die crosses their own link alone; one between two dies goes over the ring the shorter way, at a distance of
four upward for an even home slice and downward for an odd one; and within a partition no link that joins two partitions is crossed. -/
def Obligations.Layouts : Prop :=
  (∀ (mask n a : Nat), layoutOk mask = true → n < 8 → a = partOf mask n →
    partStarts mask a = true ∧ partDies mask a ∈ [1, 2, 4, 8] ∧ a % partDies mask a = 0 ∧ a ≤ n ∧ n < a + partDies mask a ∧
    ∀ m < 8, partOf mask m = a ↔ a ≤ m ∧ m < a + partDies mask a) ∧
  (∀ (d : Dev) (mode count size p n : Nat), (mode, count, size) ∈ [(0, 1, 8), (1, 2, 4), (2, 4, 2), (3, 8, 1)] →
    p < count → n < 8 →
    partAt (d.layoutOf mode) p = some (size * p) ∧ partNum (d.layoutOf mode) (size * p) = p ∧
    (partOf (d.layoutOf mode) n = size * p ↔ size * p ≤ n ∧ n < size * (p + 1))) ∧
  (∀ mask src dst slice : Nat, layoutOk mask = true → src < 8 → dst < 8 → src ≠ dst →
    kiornWay hubNode dst slice = [dst] ∧ kiornWay src hubNode slice = [src] ∧
    (kiornWay src dst slice).length = min ((dst + 8 - src) % 8) ((src + 8 - dst) % 8) ∧
    (∀ l ∈ kiornWay src dst slice, 8 ≤ l ∧ l < 16 ∧ (partOf mask src = partOf mask dst →
      partOf mask (linkEnds l).1 = partOf mask src ∧ partOf mask (linkEnds l).2 = partOf mask src)) ∧
    ((dst + 8 - src) % 8 = 4 → (kiornWay src dst slice).head? = some (if slice % 2 = 0 then 8 + src else 8 + (src + 7) % 8)))

/-- R61 to R65: a sample that no check turns away disciplines Board Time; an outlier is counted and ends the run of accepted
samples; an edge without a valid second is counted on from the last, and a wrong second is rejected; a source lost while in
use and alone leaves HOLDOVER or FREERUN by HOLD_EN; an edge of a source not used clears VALID and is counted on; a step asked for by
firmware waits for the next accepted sample, and a write that disables the source in use makes Board Time fall to the other (R59); the tray
controller's write sets the second. -/
def Obligations.BoardTimeCommands : Prop :=
  -- PTP_SAMPLE, accepted and rejected
  (∀ (s : State) (port : Nat) (offset : Int),
    s.dev.btUsable 1 = true → bit (s.dev.fget F.btmCtrlPtpPorts 0) port = true → s.dev.btOutlier 1 offset = false →
    exec (.ptpSample port offset) s = .next { s with
      bt := ((s.dev.fset F.btmStatusPtpPort 0 port).btAccept s.bt 1 offset).1
      dev := ((s.dev.fset F.btmStatusPtpPort 0 port).btAccept s.bt 1 offset).2 }) ∧
  (∀ (s : State) (port : Nat) (offset : Int),
    s.dev.btUsable 1 = true → bit (s.dev.fget F.btmCtrlPtpPorts 0) port = true → s.dev.btOutlier 1 offset = true →
    exec (.ptpSample port offset) s = .next { s with dev := s.dev.btReject s.bt 1 }) ∧
  -- PPS_EDGE: an edge without a valid second is counted on from the last and disciplines; a wrong second is rejected (R61)
  (∀ (s : State) (offset : Int) (width : Nat),
    s.dev.time.traceTrigger = false → s.dev.fget F.btmPpsCfgGlitch 0 * 10 ≤ width → s.dev.btUsable 2 = true →
    s.dev.fget F.btmTodValid 0 = 0 → s.dev.fget F.btmStatusState 0 ≠ btLocked → s.dev.time.pps.est = none →
    exec (.ppsEdge offset width) s =
      let d := (s.dev.fset F.btmTodValid 0 0).modTime (fun t => { t with ppsSec := s.dev.time.ppsSec.map (· + 1) })
      .next { s with bt := (d.btAccept s.bt 2 offset).1, dev := (d.btAccept s.bt 2 offset).2 }) ∧
  (∀ (s : State) (offset : Int) (width sec : Nat),
    s.dev.time.traceTrigger = false → s.dev.fget F.btmPpsCfgGlitch 0 * 10 ≤ width → s.dev.btUsable 2 = true →
    s.dev.fget F.btmTodValid 0 = 1 → s.dev.time.ppsSec = some sec → s.dev.fget F.btmTodSec 0 ≠ sec + 1 →
    exec (.ppsEdge offset width) s =
      let d := (s.dev.fset F.btmTodValid 0 0).modTime (fun t => { t with ppsSec := some (sec + 1) })
      .next { s with dev := d.btReject s.bt 2 }) ∧
  (∀ (s : State) (offset : Int) (width : Nat),
    s.dev.time.traceTrigger = false → s.dev.fget F.btmPpsCfgGlitch 0 * 10 ≤ width → s.dev.btUsable 2 = false →
    s.dev.fget F.btmTodValid 0 = 0 →
    exec (.ppsEdge offset width) s = .next { s with
      dev := (s.dev.fset F.btmTodValid 0 0).modTime (fun t => { t with ppsSec := s.dev.time.ppsSec.map (· + 1) }) }) ∧
  -- SOURCE_LOST (R62)
  (∀ (s : State) (src : Nat), src = 1 ∨ src = 2 → s.dev.btSource = src → s.dev.btAlive s.bt src = false →
    s.dev.btAlive s.bt (3 - src) = false → s.dev.fon F.btmCtrlHoldEn 0 = true →
    exec (.sourceLost src) s = .next { s with
      dev := (((s.dev.setBtSrc src { s.dev.btSrc src with acc := 0 }).fset F.btmStatusState 0 btHoldover).fset
        F.btmStatusSource 0 3) }) ∧
  (∀ (s : State) (src : Nat), src = 1 ∨ src = 2 → s.dev.btSource = src → s.dev.btAlive s.bt src = false →
    s.dev.btAlive s.bt (3 - src) = false → s.dev.fon F.btmCtrlHoldEn 0 = false →
    exec (.sourceLost src) s = .next { s with
      dev := (((((s.dev.setBtSrc src { s.dev.btSrc src with acc := 0 }).fset F.btmStatusState 0 btFreerun).fset
        F.btmStatusSource 0 0).fset F.btmFreqAdjAdj 0 0).fset F.btmStatusErrBoundNs 0 0xFFFFFFFF) }) ∧
  -- STEP_REQ
  (∀ (s : State) (p : Party) (v : Word) (d : Dev), s.dev.writeOk p .btmCtrl 0 v = true → bit v.toNat 11 = true →
    bit v.toNat 12 = false → bit v.toNat 1 = false → s.dev.anyCtx = false →
    d = (s.dev.setReg .btmCtrl 0 (s.dev.afterWrite p .btmCtrl 0 v)).modTime (fun t => { t with stepReq := true }) →
    exec (.stepReq p v) s = .next { s with
      dev := if (d.btSource = 1 ∨ d.btSource = 2) ∧ d.btUsable d.btSource = false then d.btFall s.bt d.btSource else d }) ∧
  (∀ (s : State) (p : Party) (v : Word), bit v.toNat 11 = true → s.dev.anyCtx = true →
    exec (.stepReq p v) s = .next { s with dev := s.dev.refuse .btmCtrl 0 (bit v.toNat 1 && s.dev.time.traceTrigger) }) ∧
  -- TOD_WRITE
  (∀ (s : State) (v : Word), s.dev.writeOk (.firmware 0) .btmTod 0 v = true →
    ∃ w : Word, exec (.todWrite v) s = .next { s with dev := s.dev.setReg .btmTod 0 w } ∧
      bits w.toNat 39 0 = bits v.toNat 39 0 ∧ bits w.toNat 40 40 = bits v.toNat 40 40)

/-- R58, R63, R65: an accepted sample becomes its source's last, adds one to the source's run of accepted samples, ends its run of
rejected ones, leaves the other source's record but for a step's shift of its last sample, and never moves Board Time back. -/
def Obligations.AcceptedSampleRecorded : Prop :=
  ∀ (bt : Nat) (d : Dev) (src : Nat) (offset : Int), src = 1 ∨ src = 2 →
    bt ≤ (d.btAccept bt src offset).1 ∧ ((d.btAccept bt src offset).2.btSrc src).last = some (d.btAccept bt src offset).1 ∧
      ((d.btAccept bt src offset).2.btSrc src).acc = (d.btSrc src).acc + 1 ∧
      ((d.btAccept bt src offset).2.btSrc src).rej = 0 ∧
      (d.btAccept bt src offset).2.btSrc (3 - src) = { d.btSrc (3 - src) with
        last := (d.btSrc (3 - src)).last.map (· + ((d.btAccept bt src offset).1 - bt)) }

/-- R67 to R71, R83: a coarse bucket that becomes current gives its events to the fine level; a periodic slot is claimed, kept by
its owner, armed by its next firing time and released; a firmware timer that fires tells firmware. -/
def Obligations.WheelCommands : Prop :=
  -- COARSE_BUCKET_CURRENT (R67)
  (∀ (s : State) (w : Nat), exec (.coarseBucketCurrent w) s = .next { s with
    dev := s.dev.setWheel w ((s.dev.wheel w).map (Event.relevel s.bt)) }) ∧
  (∀ (bt : Nat) (e : Event), (e.relevel bt).ev = e.ev ∧ (e.relevel bt).due = e.due ∧ (e.relevel bt).order = e.order ∧
    (e.relevel bt).seq = e.seq ∧ (e.lvl = .coarse → e.due / 4096000 ≤ bt / 4096000 → (e.relevel bt).lvl = .fine) ∧
    (e.lvl = .overflow → e.due < bt + coarseHorizon → (e.relevel bt).lvl = .coarse)) ∧
  -- EW_SLOT_WRITE: a claim, a release, and a claim of another's slot
  (∀ (s : State) (p : Party) (w n : Nat) (v : Word), s.dev.writeOk p (ewSlotReg w) (ewInst w n) v = true →
    s.dev.slotOwner w n = 0 → bits v.toNat 3 0 ≠ 0 →
    exec (.ewSlotWrite p w n v) s = .next { s with
      dev := s.dev.setReg (ewSlotReg w) (ewInst w n) (s.dev.afterWrite p (ewSlotReg w) (ewInst w n) v) }) ∧
  (∀ (s : State) (p : Party) (w n : Nat), s.dev.writeOk p (ewSlotReg w) (ewInst w n) 0#64 = true →
    s.dev.slotOwner w n ≠ 0 →
    exec (.ewSlotWrite p w n 0#64) s = .next { s with
      dev := ((s.dev.setReg (ewSlotReg w) (ewInst w n) (s.dev.afterWrite p (ewSlotReg w) (ewInst w n) 0#64)).disarm w
        (.slot n)).setReg (ewNextReg w) (ewInst w n) 0#64 }) ∧
  (∀ (s : State) (p : Party) (w n : Nat) (v : Word), s.dev.writeOk p (ewSlotReg w) (ewInst w n) v = true →
    s.dev.slotOwner w n ≠ 0 → bits v.toNat 3 0 ≠ 0 → bits v.toNat 3 0 ≠ s.dev.slotOwner w n →
    exec (.ewSlotWrite p w n v) s = .next { s with dev := s.dev.refuse (ewSlotReg w) (ewInst w n) true }) ∧
  -- EW_NEXT_WRITE: refused while the slot is free, else it arms the slot's event
  (∀ (s : State) (p : Party) (w n : Nat) (v : Word), s.dev.slotOwner w n = 0 →
    exec (.ewNextWrite p w n v) s = .next { s with dev := s.dev.refuse (ewNextReg w) (ewInst w n) false }) ∧
  (∀ (s : State) (p : Party) (w n : Nat) (v : Word), s.dev.writeOk p (ewNextReg w) (ewInst w n) v = true →
    s.dev.slotOwner w n ≠ 0 →
    exec (.ewNextWrite p w n v) s = .next { s with
      dev := ((s.dev.setReg (ewNextReg w) (ewInst w n) (s.dev.afterWrite p (ewNextReg w) (ewInst w n) v)).disarm w
        (.slot n)).arm s.bt w (.slot n) (slotOrder (s.dev.slotOwner w n)) v.toNat }) ∧
  -- FIRMWARE_TIMER: a one-shot slot, in time (R68, R71)
  (∀ (s : State) (w n : Nat) (e : Event), wheelNext s.bt (s.dev.wheel w) = some e → e.ev = .slot n →
    s.bt ≤ e.bucket * 1000 + 10000 → s.dev.wheelCount s.bt w < 64 → s.dev.slotOwner w n = 6 → s.dev.slotPeriod w n = 0 →
    exec (.firmwareTimer w n) s = .next { s with dev := (s.dev.processed s.bt w (.slot n)).raise s.bt (wheelSource w) }) ∧
  (∀ (s : State) (w n : Nat) (e : Event), wheelNext s.bt (s.dev.wheel w) = some e → e.ev = .slot n →
    s.bt ≤ e.bucket * 1000 + 10000 → s.dev.wheelCount s.bt w < 64 → s.dev.slotOwner w n = 6 → s.dev.slotPeriod w n ≠ 0 →
    exec (.firmwareTimer w n) s =
      let next := (s.dev.reg (ewNextReg w) (ewInst w n)).toNat + s.dev.slotPeriod w n * 1000
      .next { s with dev := (((s.dev.processed s.bt w (.slot n)).setReg (ewNextReg w) (ewInst w n) (BitVec.ofNat 64 next)).arm s.bt w
        (.slot n) (slotOrder 6) next).raise s.bt (wheelSource w) }) ∧
  -- a wheel that has processed 64 events in this microsecond processes the next in a later one (R68)
  (∀ (s : State) (w n : Nat), 64 ≤ s.dev.wheelCount s.bt w → exec (.firmwareTimer w n) s = .next s)

/-- R68: an event never fires before its due time. Whatever the wheel holds, the event processed next is due, lies on the wheel's
fine level, and comes before every other event of the buckets that have begun, by bucket, then by R69's order, then by arming; and a
wheel processes at most 64 events in a microsecond. -/
def Obligations.EventsFireInOrder : Prop :=
  ∀ (bt : Nat) (l : List Event) (e : Event), wheelNext bt l = some e →
    e ∈ l ∧ e.due ≤ bt ∧ e.lvl = .fine ∧ (∀ x ∈ l, x.begun bt = true → x.before e = false) ∧
    ∀ (d f : Dev) (w : Nat) (ev : Ev), d.wheelCount bt w ≤ 64 → d.fire bt w ev = some f → f.wheelCount bt w ≤ 64

/-- R31, R36 to R38, R331, R344: a context request at the head of a device pair, in order and with the room it needs, has its
effect and completes with OK; a close of a context under reset or replay waits for the replay's end. -/
def Obligations.ContextRequests : Prop :=
  -- ADMIT
  (∀ (s : State) (k : Nat) (r : Desc) (d : Dev) (a c : Nat), s.dev.head? k 6 1 = some r →
    d = s.dev.popDesc k → a = pairWindow k → c = bits (r.at_ 2 2) 11 0 →
    d.partOfCtx c = a → (d.ctx c).live = false → r.at_ 8 8 % 2 ^ 20 = 0 → r.at_ 8 8 / 2 ^ 48 = d.fget F.igfNodeId a →
    d.inHbm a (r.at_ 8 8 % 2 ^ 48) (2 ^ 20) = true → 17 * (bits (r.at_ 1 1) 3 0 + 1) ≤ r.resv.journal →
    1 ≤ r.at_ 0x24 4 → r.at_ 0x24 4 ≤ 65536 → r.at_ 0x20 4 ≤ d.keepLimit a → d.canReserve a c r.resv = true →
    r.resv.hbm ≠ 0 →
    exec (.admitContext k) s = .next { s with
      dev := (d.setCtx c {
        st := .admitted, root := r.at_ 8 8, queues := bits (r.at_ 1 1) 3 0 + 1, res := r.resv, hbmB := 2 ^ 20
        keep := r.at_ 0x20 4, ceil := bits (r.at_ 1 1) 5 4, vanan := bit (r.at_ 1 1) 6, noReplay := bit (r.at_ 1 1) 7
        seed := r.at_ 0x28 8, sigTable := r.at_ 0x30 8, sigCount := r.at_ 0x24 4 }).finish s.bt r .ok }) ∧
  (∀ (s : State) (k : Nat) (r : Desc) (d : Dev) (a c : Nat), s.dev.head? k 6 1 = some r →
    d = s.dev.popDesc k → a = pairWindow k → c = bits (r.at_ 2 2) 11 0 →
    d.partOfCtx c = a → (d.ctx c).live = true →
    exec (.admitContext k) s = .next { s with dev := d.finish s.bt r .range }) ∧
  -- CLOSE
  (∀ (s : State) (k : Nat) (r : Desc) (d : Dev) (a c : Nat), s.dev.head? k 6 2 = some r →
    d = s.dev.popDesc k → a = pairWindow k → c = bits (r.at_ 2 2) 11 0 →
    d.partOfCtx c = a → (d.ctx c).st = .admitted →
    exec (.contextClose k) s = .next { s with
      dev := (d.releaseCtx s.bt c .closing .contextTerminated).finish s.bt r .ok }) ∧
  (∀ (s : State) (k : Nat) (r : Desc) (d : Dev) (a c : Nat), s.dev.head? k 6 2 = some r →
    d = s.dev.popDesc k → a = pairWindow k → c = bits (r.at_ 2 2) 11 0 →
    d.partOfCtx c = a → ((d.ctx c).st = .resetting ∨ (d.ctx c).st = .replaying) →
    exec (.contextClose k) s = .next { s with
      dev := (d.modCtx c (fun x => { x with closePending := true })).finish s.bt r .ok }) ∧
  -- SET_QUOTA
  (∀ (s : State) (k : Nat) (r : Desc) (d : Dev) (a c : Nat), s.dev.head? k 6 3 = some r →
    d = s.dev.popDesc k → a = pairWindow k → c = bits (r.at_ 2 2) 11 0 →
    d.partOfCtx c = a → (d.ctx c).live = true → (d.ctx c).ending = false → 17 * (d.ctx c).queues ≤ r.resv.journal →
    d.inUse c false ≤ 2 ^ 21 * r.resv.hbm → d.inUse c true ≤ 2 ^ 21 * r.resv.ddr → (d.ctx c).kvUse ≤ r.resv.kv →
    (d.ctx c).slotUse ≤ r.resv.slots →
    (d.ctx c).jrnUse ≤ r.resv.journal → r.at_ 0x20 4 ≤ d.keepLimit a → d.canReserve a c r.resv = true →
    exec (.setQuota k) s = .next { s with
      dev := (d.setCtx c { d.ctx c with res := r.resv, keep := r.at_ 0x20 4 }).finish s.bt r .ok }) ∧
  -- GRANT
  (∀ (s : State) (k : Nat) (r : Desc) (d : Dev) (a c : Nat), s.dev.head? k 6 4 = some r →
    d = s.dev.popDesc k → a = pairWindow k → c = bits (r.at_ 2 2) 11 0 →
    d.partOfCtx c = a → (d.ctx c).live = true → (d.ctx c).ending = false → d.boundTo (r.at_ 8 1) a = true →
    r.at_ 10 2 < 2 ^ (d.ctx c).queues →
    exec (.grant k) s = .next { s with
      dev := (d.modRing (fun z => { z with grants := z.grants ++ [{ port := r.at_ 8 1, ctx := c, qmask := r.at_ 10 2 }] })).finish
        s.bt r .ok }) ∧
  -- REVOKE of a grant under which no pair is attached
  (∀ (s : State) (k : Nat) (r : Desc) (d : Dev) (a c : Nat), s.dev.head? k 6 5 = some r →
    d = s.dev.popDesc k → a = pairWindow k → c = bits (r.at_ 2 2) 11 0 →
    d.partOfCtx c = a → d.ring.grants = [{ port := r.at_ 8 1, ctx := c, qmask := r.at_ 10 2 }] →
    (∀ p ∈ d.ring.pairs, d.underGrant p.1 (r.at_ 8 1) c (r.at_ 10 2) = false) → r.at_ 10 2 < 65536 →
    exec (.revoke k) s = .next { s with
      dev := (d.modRing (fun z => { z with
        grants := [], revokes := z.revokes ++ [{ pair := r.pair, tag := r.tag, pairs := [] }] })).finishRevokes s.bt })

/-- R330, R337 to R340, R345, R346: doorbells move TAIL and hand entries back, or are counted as ignored; a current header has its
descriptor copied and its head written, one that is not current is read again and stops the pair at the eighth re-read; a post that
waited is written when there is room. -/
def Obligations.RingCommands : Prop :=
  -- SQ_DOORBELL
  (∀ (s : State) (k : Nat) (w : Word), s.dev.doorbellOk k w = true → (s.dev.pair k).st = .attached →
    exec (.sqDoorbell k 0 8 w) s = .next { s with
      dev := s.dev.modPair k (fun p => { p with sqTail := bits w.toNat 15 0 % s.dev.sqSize k }) }) ∧
  (∀ (s : State) (k offset size : Nat) (w : Word),
    offset ≠ 0 ∨ size ≠ 8 ∨ s.dev.doorbellOk k w = false ∨ (s.dev.pair k).st ≠ .attached →
    exec (.sqDoorbell k offset size w) s = .next { s with dev := s.dev.fbump F.hptStatDbIgnored k 1 }) ∧
  -- CQ_DOORBELL
  (∀ (s : State) (k : Nat) (w : Word), s.dev.doorbellOk k w = true →
    (s.dev.pair k).st = .attached ∨ (s.dev.pair k).st = .draining →
    exec (.cqDoorbell k 0 8 w) s = .next { s with
      dev := s.dev.modPair k (fun p =>
        let n := s.dev.cqSize k
        let head := (p.cqTail + n - p.cqHeld % n) % n
        { p with cqHeld := p.cqHeld - min p.cqHeld ((bits w.toNat 15 0 % n + n - head) % n) }) }) ∧
  (∀ (s : State) (k offset size : Nat) (w : Word),
    offset ≠ 0 ∨ size ≠ 8 ∨ s.dev.doorbellOk k w = false ∨
      ((s.dev.pair k).st ≠ .attached ∧ (s.dev.pair k).st ≠ .draining) →
    exec (.cqDoorbell k offset size w) s = .next { s with dev := s.dev.fbump F.hptStatDbIgnored k 1 }) ∧
  -- DESC_FETCH of a current header whose slots are announced and whose checks pass, and of one that is not current
  (∀ (s : State) (k : Nat) (host : List Byte) (hdr n : Nat) (bs : List Byte) (x : Desc) (d : Dev),
    s.dev.mayFetch k = true → (s.dev.pair k).rereads = none → hdr = leNat ((s.dev.slotBytes k 1 host).take 8) →
    (s.dev.pair k).current hdr = true → n = bits hdr 7 4 + 1 → n ≤ s.dev.announced k → bs = s.dev.slotBytes k n host →
    x = { pair := s.dev.pairRef k, typ := bits hdr 3 0, nslot := n, tag := listNat bs 8 8, ts0 := bits hdr 63 34
          ts1 := listNat bs 16 8, ts2 := listNat bs 24 8, payload := (bs.drop 32).take (16 * bits hdr 17 12), bt := s.bt
          order := s.dev.eng.order } →
    d = ((s.dev.modEng (fun z => { z with order := z.order + 1 })).modPair k (fun p => { p with
      rereads := none, outst := p.outst + 1, sqHead := (p.sqHead + n) % s.dev.sqSize k
      sqPhase := if s.dev.sqSize k ≤ p.sqHead + n then !p.sqPhase else p.sqPhase
      sqSeq := (p.sqSeq + 1) % 2 ^ 16 })).headWriteBack k →
    d.fetchCheck k (bits hdr 11 9) (bits hdr 17 12) x = none →
    exec (.descFetch k host) s = .next { s with
      dev := d.modPair k (fun p => { p with fetched := p.fetched ++ [x] }) }) ∧
  (∀ (s : State) (k : Nat) (host : List Byte), s.dev.mayFetch k = true → (s.dev.pair k).rereads = none →
    (s.dev.pair k).current (leNat ((s.dev.slotBytes k 1 host).take 8)) = false →
    exec (.descFetch k host) s = .next { s with dev := s.dev.modPair k (fun p => { p with rereads := some 0 }) }) ∧
  -- HEADER_REREAD: one that still differs, below the eighth, and the eighth
  (∀ (s : State) (k : Nat) (host : List Byte) (n : Nat), s.dev.mayFetch k = true → (s.dev.pair k).rereads = some n →
    (s.dev.pair k).current (leNat ((s.dev.slotBytes k 1 host).take 8)) = false → n + 1 < 8 → k < 8192 →
    exec (.headerReread k host) s = .next { s with
      dev := (s.dev.fbump F.hptStatRereads k 1).modPair k (fun p => { p with rereads := some (n + 1) }) }) ∧
  (∀ (s : State) (k : Nat) (host : List Byte) (p : Pair), s.dev.mayFetch k = true → p = s.dev.pair k →
    p.rereads = some 7 → p.current (leNat ((s.dev.slotBytes k 1 host).take 8)) = false → k < 8192 →
    exec (.headerReread k host) s = .next { s with
      dev := ((s.dev.fbump F.hptStatRereads k 1).setPair k { p with rereads := none, st := .stopped }).putEntry k {
        tag := 2 ^ 64 - 1, status := .descNotReady, bt := s.bt
        result := p.sqHead + p.sqSeq * 2 ^ 16 + b2n p.sqPhase * 2 ^ 32 + p.gen * 2 ^ 48 } }) ∧
  -- COMPLETION_RING_ROOM
  (∀ (s : State) (k : Nat) (p : Post) (ps : List Post), (s.dev.pair k).posts = p :: ps → s.dev.cqRoom k = true →
    exec (.completionRingRoom k) s = .next { s with
      dev := (((((s.dev.modPair k (fun x => { x with posts := ps })).putEntry k p.entry).resumeMember s.bt p.launch).settle
        k).finishRevokes s.bt) }) ∧
  (∀ (s : State) (k : Nat), (s.dev.pair k).posts ≠ [] → s.dev.cqRoom k = false →
    exec (.completionRingRoom k) s = .next s)

/-- R327, R331, R332, R338, R348 to R351: a pair is attached with GEN 1 and empty rings under a grant and a version that both sides
speak, drains when it is detached, and is re-armed with the next GEN; a freeze event freezes the pairs of its port. -/
def Obligations.AttachCommands : Prop :=
  -- ATTACH_GO of a DETACHED pair: the write, then the attach
  (∀ (s : State) (p : Party) (k : Nat) (v : Word), s.dev.writeOk p .hptAttach k v = true → (s.dev.pair k).st = .detached →
    bits v.toNat 35 32 = 1 → s.dev.resetHeld k (bits v.toNat 11 0) = false →
    exec (.attachGo p k v) s = .next { s with
      dev := (s.dev.setReg .hptAttach k (s.dev.afterWrite p .hptAttach k v)).attachGo k }) ∧
  (∀ (d : Dev) (k c q top : Nat), c = d.fget F.hptAttachCtx k → q = d.fget F.hptAttachQueue k → d.granted k c q = true →
    pairIsHost k = true → d.topMinor k (d.fget F.hptAttachVerMaj k) c false = some top → (d.pair k).st = .detached →
    d.areaUsed (d.partOfCtx c) k + d.cqSize k ≤ 524288 * d.dies (d.partOfCtx c) →
    d.attachGo k = (d.modPair k (fun p => { p with
      attachErr := 0, ctx := c, queue := q, admin := false, area := d.cqSize k, verMaj := d.fget F.hptAttachVerMaj k
      verMin := min top (d.fget F.hptAttachVerMinMax k), go := true })).attachNow k) ∧
  (∀ (d : Dev) (k : Nat), (d.pair k).shadow = [] →
    d.attachNow k = d.modPair k (fun p => { p with
      st := .attached, gen := 1, sqHead := 0, sqPhase := true, sqSeq := 0, sqTail := 0, rereads := none, fetched := []
      outst := 0, cqTail := 0, cqPhase := true, cqHeld := 0, shadow := [], go := false, posts := [] })) ∧
  -- DETACH: the pair drains; with nothing outstanding it is DETACHED at once
  (∀ (s : State) (p : Party) (k : Nat) (v : Word), s.dev.writeOk p .hptAttach k v = true →
    (s.dev.pair k).st = .attached ∨ (s.dev.pair k).st = .stopped → bits v.toNat 35 32 = 2 →
    exec (.detach p k v) s = .next { s with
      dev := (((s.dev.setReg .hptAttach k (s.dev.afterWrite p .hptAttach k v)).modPair k
        (fun x => { x with st := .draining, rereads := none })).settle k).finishRevokes s.bt }) ∧
  (∀ (d : Dev) (k : Nat), (d.pair k).st = .draining → (d.pair k).outst = 0 → (d.pair k).posts = [] →
    d.settle k = d.modPair k (fun p => { p with
      st := .detached, admin := false, rereads := none, fetched := [], outst := 0, posts := [], shadow := [], area := 0
      go := false, inc := p.inc + 1 })) ∧
  -- REARM
  (∀ (s : State) (p : Party) (k : Nat) (v : Word), s.dev.writeOk p .hptAttach k v = true → (s.dev.pair k).st = .stopped →
    bits v.toNat 35 32 = 4 →
    exec (.rearm p k v) s = .next { s with
      dev := (s.dev.setReg .hptAttach k (s.dev.afterWrite p .hptAttach k v)).modPair k
        (fun x => { x with st := .attached, gen := (x.gen + 1) % 2 ^ 16 }) }) ∧
  (∀ (s : State) (p : Party) (k : Nat) (v : Word), bit v.toNat 34 = true → bit v.toNat 32 = false → (s.dev.pair k).st = .attached →
    exec (.rearm p k v) s = .next { s with dev := s.dev.refuse .hptAttach k false }) ∧
  -- HOT_RESET, FUNCTION_LEVEL_RESET and BUS_MASTER_ENABLE_CLEARED of a port with one idle pair
  (∀ (s : State) (q k : Nat) (c : Instr), c = .hotReset q ∨ c = .functionLevelReset q ∨ c = .busMasterEnableCleared q →
    s.dev.portPairs q = [k] → (s.dev.pair k).st ≠ .detached → (s.dev.pair k).fetched = [] → (s.dev.pair k).posts = [] →
    (∀ x ∈ s.dev.ring.xfers, x.2.port = q → x.2.inward = true ∧ x.2.data ≠ []) →
    exec c s = .next { s with
      dev := s.dev.modPair k (fun p => { p with st := .frozen, rereads := none, fetched := [], posts := [], go := false }) }) ∧
  -- LINK_DOWN of a port that neither claims the boot mailbox nor loads an OS
  (∀ (s : State) (q : Nat) (d : Dev), q < 4 →
    d = [F.hptPortStatusLink, F.hptPortStatusWidth, F.hptPortStatusRate, F.hptPortStatusL0pWidth, F.hptPortStatusLinkIde,
      F.hptPortStatusSelIde].foldl (fun d f => d.fset f q 0) s.dev →
    d.fon F.secBootStatusClaimed q = false → d.sec.osLoads = [] →
    exec (.linkDown q) s = .next { s with dev := d.freezePort s.bt q }) ∧
  -- LINK_RETRAIN, PORT_LINK_TRAINED
  (∀ (s : State) (q width rate l0p : Nat), q < 4 →
    exec (.linkRetrain q width rate l0p) s = .next { s with
      dev := (((s.dev.fset F.hptPortStatusWidth q width).fset F.hptPortStatusRate q rate).fset F.hptPortStatusL0pWidth q l0p) }) ∧
  (∀ (s : State) (q width rate : Nat), q < 4 → s.dev.sec.up = true → width = 1 ∨ width = 2 ∨ width = 4 ∨ width = 8 →
    exec (.portLinkTrained q width rate) s = .next { s with
      dev := ((((s.dev.fset F.hptPortStatusLink q 2).fset F.hptPortStatusWidth q width).fset F.hptPortStatusRate q rate).fset
        F.hptPortStatusL0pWidth q width) })

/-- R342, R343, R347, R349: a HOST_IN or HOST_OUT starts a transfer with the fields its descriptor gives; the oldest transfer of its
engine moves its bytes and completes with OK; one whose read of host memory times out tears its target and completes with
HOST_LOST. -/
def Obligations.HostTransferCommands : Prop :=
  (∀ (s : State) (k : Nat) (x : Desc) (d : Dev) (c : Nat), s.dev.head? k 2 0 = some x → d = s.dev.popDesc k →
    c = d.descCtx x → (d.ctx c).ending = false →
    exec (.hostIn k) s = .next { s with
      dev := d.modRing (fun z => { z with
        xfers := mapPut z.xfers z.nextXfer {
          inward := true, pair := x.pair, tag := x.tag, ctx := c
          port := if pairIsHost (pairNo x.pair) then pairPort (pairNo x.pair) else x.hostPort, len := x.len, iova := x.ts1
          ava := bits x.ts2 55 0, hint := bits x.ts2 57 56, data := x.payload.take x.len, notify := none
          engine := d.pickEngine (d.partOfCtx c) }
        nextXfer := z.nextXfer + 1 }) }) ∧
  (∀ (s : State) (k : Nat) (x : Desc) (d : Dev) (c : Nat), s.dev.head? k 3 0 = some x → d = s.dev.popDesc k →
    c = d.descCtx x → (d.ctx c).ending = false → x.payload = [] →
    exec (.hostOut k) s = .next { s with
      dev := d.modRing (fun z => { z with
        xfers := mapPut z.xfers z.nextXfer {
          inward := false, pair := x.pair, tag := x.tag, ctx := c
          port := if pairIsHost (pairNo x.pair) then pairPort (pairNo x.pair) else x.hostPort, len := x.len, iova := x.ts1
          ava := bits x.ts2 55 0, hint := bits x.ts2 57 56, data := [], notify := none
          engine := d.pickEngine (d.partOfCtx c) }
        nextXfer := z.nextXfer + 1 }) }) ∧
  (∀ (s : State) (k : Nat) (x : Desc), s.dev.head? k 2 0 = some x →
    ((s.dev.popDesc k).ctx ((s.dev.popDesc k).descCtx x)).ending = true →
    exec (.hostIn k) s = .next { s with dev := (s.dev.popDesc k).finish s.bt x .contextTerminated }) ∧
  (∀ (s : State) (x : Nat) (t : Xfer) (host : List Byte) (d : Dev), mapFind? s.dev.ring.xfers x = some t →
    s.dev.ring.xfers.any (fun y => y.2.engine == t.engine && decide (y.1 < x)) = false → t.fault = false →
    t.inward = true → t.data = [] → t.len ≤ host.length → t.notify = none →
    s.dev.xferPieces s.bt x host (t.len / 65536 + 3) = (some .ok, d) →
    exec (.hostTransferComplete x host) s = .next { s with dev := d.endXfer s.bt x .ok }) ∧
  (∀ (s : State) (x : Nat) (t : Xfer), mapFind? s.dev.ring.xfers x = some t → t.inward = true → t.data = [] →
    exec (.completionTimeout x) s = .next { s with dev := (s.dev.tear t.ctx t.ava t.len).endXfer s.bt x .hostLost })

/-- R141, R147 to R149, R166: a scalar instruction that may issue writes its result, or goes to its target, and the member goes on at
the next instruction; an opcode of cohort code raises ILLEGAL in the control stream. -/
def Obligations.ScalarInstructions : Prop :=
  (∀ (s : State) (l m : Nat) (x : Launch) (y : Member) (w v : Word), ControlAt s l m x y 0x00 w →
    iD w.toNat < 32 → iA w.toNat < 32 → iB w.toNat < 32 →
    scalarOp (iFN w.toNat) (y.sget (iA w.toNat)) (y.sget (iB w.toNat)) = some v →
    exec (.sop (.control l m) w) s = .next { s with
      dev := (s.dev.sput l m (iD w.toNat) v).retire s.bt l m ((y.pc + 8) % 2 ^ 64) }) ∧
  (∀ (s : State) (l m : Nat) (x : Launch) (y : Member) (w v : Word), ControlAt s l m x y 0x01 w →
    iD w.toNat < 32 → iA w.toNat < 32 → scalarOpI (iSel w.toNat) (y.sget (iA w.toNat)) (bits w.toNat 31 0) = some v →
    exec (.sopi (.control l m) w) s = .next { s with
      dev := (s.dev.sput l m (iD w.toNat) v).retire s.bt l m ((y.pc + 8) % 2 ^ 64) }) ∧
  (∀ (s : State) (l m : Nat) (x : Launch) (y : Member) (w : Word), ControlAt s l m x y 0x00 w →
    (32 ≤ iD w.toNat ∨ 32 ≤ iA w.toNat ∨ 32 ≤ iB w.toNat ∨ 0x15 ≤ iFN w.toNat) →
    exec (.sop (.control l m) w) s = .next { s with
      dev := s.dev.failLaunch l .range (some (excRecord excIllegal 0 m 0xFFFF y.pc)) }) ∧
  (∀ (s : State) (l m : Nat) (x : Launch) (y : Member) (w : Word) (taken : Bool), ControlAt s l m x y 0x10 w →
    brA w.toNat < 32 → brB w.toNat < 32 →
    scalarCond (iSel w.toNat) (y.sget (brA w.toNat)) (y.sget (brB w.toNat)) = some taken →
    exec (.sbr (.control l m) w) s = .next { s with
      dev := s.dev.retire s.bt l m (if taken then branchTarget y.pc w.toNat else (y.pc + 8) % 2 ^ 64) }) ∧
  (∀ (s : State) (l m : Nat) (x : Launch) (y : Member) (w : Word), ControlAt s l m x y 0x11 w → iD w.toNat < 32 →
    exec (.sjal (.control l m) w) s = .next { s with
      dev := (s.dev.sput l m (iD w.toNat) (BitVec.ofNat 64 (y.pc + 8))).retire s.bt l m (branchTarget y.pc w.toNat) }) ∧
  (∀ (s : State) (l m : Nat) (x : Launch) (y : Member) (w : Word), ControlAt s l m x y 0x12 w →
    iD w.toNat < 32 → iA w.toNat < 32 → (y.sget (iA w.toNat)).toNat % 8 = 0 →
    exec (.sjr (.control l m) w) s = .next { s with
      dev := (s.dev.sput l m (iD w.toNat) (BitVec.ofNat 64 (y.pc + 8))).retire s.bt l m (y.sget (iA w.toNat)).toNat }) ∧
  (∀ (s : State) (l m : Nat) (x : Launch) (y : Member) (w : Word), ControlAt s l m x y 0x12 w →
    iD w.toNat < 32 → iA w.toNat < 32 → (y.sget (iA w.toNat)).toNat % 8 ≠ 0 →
    exec (.sjr (.control l m) w) s = .next { s with
      dev := s.dev.failLaunch l .range (some (excRecord excAlign 0 m 0xFFFF y.pc)) })

/-- R142, R149: a write to s0 is ignored and it reads 0; a write to another scalar register of a member is read back, and leaves the
member's other scalar registers, the other members and everything but the engines as they were. -/
def Obligations.ScalarRegisterFrame : Prop :=
  ∀ (d : Dev) (l m n : Nat) (v : Word),
    (∀ y : Member, y.sget 0 = 0#64) ∧ d.sput l m 0 v = d ∧
    (∀ y, d.member? l m = some y → n ≠ 0 → ∃ z, (d.sput l m n v).member? l m = some z ∧ z.sget n = v ∧
      (∀ k, k ≠ n → z.sget k = y.sget k) ∧ z.pc = y.pc ∧ z.handles = y.handles ∧ z.tickets = y.tickets ∧ z.wait = y.wait) ∧
    (∀ l' m', memberKey l' m' ≠ memberKey l m → (d.sput l m n v).member? l' m' = d.member? l' m') ∧
    (d.sput l m n v).mem = d.mem ∧ (d.sput l m n v).eng.launches = d.eng.launches ∧ (d.sput l m n v).eng.ces = d.eng.ces ∧
    (d.sput l m n v).eng.cmds = d.eng.cmds ∧ (d.sput l m n v).regs = d.regs ∧ (d.sput l m n v).seq = d.seq ∧
    (d.sput l m n v).out = d.out

/-- R102, R103, R108, R148, R150: a scalar load that hits the sequencer cache, and loads and stores of Local Store in range, read and
write little-endian and the member goes on; outside Local Store they raise LS_RANGE, and misaligned ones ALIGN; a store through a
write-back line marks it dirty; an atomic on an aligned word answers the old value. -/
def Obligations.ScalarMemory : Prop :=
  (∀ (s : State) (l m : Nat) (x : Launch) (y : Member) (w : Word) (n a : Nat) (sg : Bool) (q : SqcLine),
    ControlAt s l m x y 0x02 w → iD w.toNat < 32 → iA w.toNat < 32 → scalarSize false (iSel w.toNat) = some (n, sg) →
    a = addOff (y.sget (iA w.toNat)) (iImm w.toNat) → a % n = 0 → s.dev.sqcFind y.ce x.ctx a false = some q → q.bad = false →
    s.dev.moving x.ctx a = false →
    exec (.sld (.control l m) w false) s = .next { s with
      dev := ((s.dev.noteIn l (q.dpa + a % 64) n).sput l m (iD w.toNat) (loadVal n sg ((q.data.drop (a % 64)).take n))).retire s.bt l m
        ((y.pc + 8) % 2 ^ 64) }) ∧
  (∀ (s : State) (l m : Nat) (x : Launch) (y : Member) (w : Word) (n a : Nat) (sg : Bool) (p : Page) (d : Dev),
    ControlAt s l m x y 0x03 w → iD w.toNat < 32 → iA w.toNat < 32 → scalarSize true (iSel w.toNat) = some (n, sg) →
    a = addOff (y.sget (iA w.toNat)) (iImm w.toNat) → a % n = 0 → x.shadowOf = none →
    (∀ q, s.dev.sqcFind y.ce x.ctx a false = some q → q.bad = false) →
    s.dev.sqWriteReady s.bt y.ce l m x.ctx a = (.data [], some p, d) → p.cp = 2 →
    exec (.sst (.control l m) w false) s = .next { s with
      dev := ((d.noteOut l (p.at_ a % 2 ^ 48) n).memPut (p.at_ a % 2 ^ 48) (leBytes n (y.sget (iD w.toNat)).toNat)).retire s.bt
        l m ((y.pc + 8) % 2 ^ 64) }) ∧
  (∀ (s : State) (l m : Nat) (x : Launch) (y : Member) (w : Word) (n a : Nat) (sg : Bool),
    ControlAt s l m x y 0x04 w → iD w.toNat < 32 → iA w.toNat < 32 → scalarSize false (iSel w.toNat) = some (n, sg) →
    a = addOff (y.sget (iA w.toNat)) (iImm w.toNat) → a % n = 0 → a + n ≤ x.lsSize →
    exec (.sldl (.control l m) w) s = .next { s with
      dev := (s.dev.sput l m (iD w.toNat) (loadVal n sg (s.dev.lsRead y a n))).retire s.bt l m ((y.pc + 8) % 2 ^ 64) }) ∧
  (∀ (s : State) (l m : Nat) (x : Launch) (y : Member) (w : Word) (n a : Nat) (sg : Bool),
    ControlAt s l m x y 0x05 w → iD w.toNat < 32 → iA w.toNat < 32 → scalarSize true (iSel w.toNat) = some (n, sg) →
    a = addOff (y.sget (iA w.toNat)) (iImm w.toNat) → a % n = 0 → a + n ≤ x.lsSize →
    exec (.sstl (.control l m) w) s = .next { s with
      dev := (s.dev.lsPut y a n (y.sget (iD w.toNat)).toNat).retire s.bt l m ((y.pc + 8) % 2 ^ 64) }) ∧
  (∀ (s : State) (l m : Nat) (x : Launch) (y : Member) (w : Word) (n a : Nat) (sg : Bool),
    ControlAt s l m x y 0x05 w → iD w.toNat < 32 → iA w.toNat < 32 → scalarSize true (iSel w.toNat) = some (n, sg) →
    a = addOff (y.sget (iA w.toNat)) (iImm w.toNat) → a % n = 0 → x.lsSize < a + n →
    exec (.sstl (.control l m) w) s = .next { s with
      dev := s.dev.failLaunch l .range (some (excRecord excLsRange 0 m 0xFFFF y.pc)) }) ∧
  (∀ (s : State) (l m : Nat) (x : Launch) (y : Member) (w : Word) (n a : Nat) (sg : Bool),
    ControlAt s l m x y 0x04 w → iD w.toNat < 32 → iA w.toNat < 32 → scalarSize false (iSel w.toNat) = some (n, sg) →
    a = addOff (y.sget (iA w.toNat)) (iImm w.toNat) → a % n ≠ 0 →
    exec (.sldl (.control l m) w) s = .next { s with
      dev := s.dev.failLaunch l .range (some (excRecord excAlign 0 m 0xFFFF y.pc)) }) ∧
  -- SAMO of eight bytes
  (∀ (s : State) (l m : Nat) (x : Launch) (y : Member) (w : Word) (a at_ v : Nat) (p : Page) (d e : Dev),
    ControlAt s l m x y 0x06 w → iD w.toNat < 32 → iA w.toNat < 32 → iB w.toNat < 32 → iC w.toNat < 32 →
    iFC w.toNat = 1 → iFN w.toNat < 10 → a = (y.sget (iA w.toNat)).toNat → a % 8 = 0 → x.shadowOf = none →
    s.dev.sqWriteReady s.bt y.ce l m x.ctx a = (.data [], some p, d) → at_ = p.at_ a % 2 ^ 48 →
    (∀ q ∈ (d.ce y.ce).sqc, q.ctx = x.ctx → q.ava = a / 64 * 64 → q.bad = false) →
    e = (d.sqcClean y.ce (fun q => q.ctx == x.ctx && q.ava == a / 64 * 64)).sqcDrop y.ce
      (fun q => q.ctx == x.ctx && q.ava == a / 64 * 64) →
    e.poisoned at_ 8 = false →
    amoOp (iFN w.toNat) 8 (memNat e.mem at_ 8) (y.sget (iB w.toNat)).toNat (y.sget (iC w.toNat)).toNat = some v →
    exec (.samo (.control l m) w) s = .next { s with
      dev := (((e.noteBoth l at_ 8).memPut at_ (leBytes 8 v)).sput l m (iD w.toNat)
        (BitVec.ofNat 64 (memNat e.mem at_ 8))).retire s.bt l m ((y.pc + 8) % 2 ^ 64) }) ∧
  -- SQC_FILL_RETURN of a miss that prefetches nothing
  (∀ (s : State) (k : Nat) (bad : List (Nat × Nat × Bool)) (q : SqcMiss) (y : Member) (p : Page) (d e : Dev),
    (s.dev.ce k).miss = some q → s.dev.member? q.launch q.member = some y →
    (s.dev.hitLines k bad).scalarPage k q.ctx q.ava = (some p, d) →
    d.migrating q.ctx p = false → d.bytesOpen (k / 26) (p.at_ q.ava % 2 ^ 48) 64 = true → q.prefetch = false →
    e = (d.modCe k (fun e => { e with miss := none, stalled := false })).modMember q.launch q.member
      (fun y => { y with wait := .none }) →
    e.poisoned (p.at_ q.ava % 2 ^ 48) 64 = false →
    exec (.sqcFillReturn ⟨k, bad⟩) s = .next { s with dev := e.sqcFill s.bt k (d.lineOf q.ctx p q.ava q.insn) })

/-- R126, R139, R140, R148, R156, R157, R161, R164: the waiting and ordering instructions of a member go on when what they wait for
is over, and otherwise leave the member at the same instruction; FSTAT, BTRD and CINV have their effect at once; a group barrier
lets its members go when each has reached it. -/
def Obligations.WaitInstructions : Prop :=
  -- VRUN and VWAIT
  (∀ (s : State) (l m : Nat) (x : Launch) (y : Member) (w : Word) (a : Nat), ControlAt s l m x y 0x13 w → iA w.toNat < 32 →
    a = addOff (y.sget (iA w.toNat)) (iImm w.toNat) → a % 8 = 0 → a + 8 ≤ x.lsSize → s.dev.cohortsDone l m = true →
    exec (.vrun (.control l m) w) s = .next { s with
      dev := (s.dev.startCohorts l m x y a).retire s.bt l m ((y.pc + 8) % 2 ^ 64) }) ∧
  (∀ (s : State) (l m : Nat) (x : Launch) (y : Member) (w : Word), ControlAt s l m x y 0x14 w →
    exec (.vwait (.control l m) w) s = .next { s with
      dev := if s.dev.cohortsDone l m then s.dev.retire s.bt l m ((y.pc + 8) % 2 ^ 64) else s.dev }) ∧
  -- GBAR: release order, then the wait; commands in flight are waited for first
  (∀ (s : State) (l m : Nat) (x : Launch) (y : Member) (w : Word), ControlAt s l m x y 0x15 w →
    s.dev.cmdsLeft l m none = false → s.dev.sqcSound y.ce x.ctx →
    exec (.gbar (.control l m) w) s = .next { s with
      dev := (s.dev.sqcClean y.ce (fun q => q.ctx == x.ctx && q.dirty)).modMember l m (fun y =>
        { y with gbars := y.gbars + 1, wait := .gbar, progress := s.bt }) }) ∧
  (∀ (s : State) (l m : Nat) (x : Launch) (y : Member) (w : Word), ControlAt s l m x y 0x15 w →
    s.dev.cmdsLeft l m none = true →
    exec (.gbar (.control l m) w) s = .next { s with dev := s.dev.modMember l m (fun y => { y with wait := .cmds }) }) ∧
  -- GBAR_COMPLETE of a launch of one member at its barrier
  (∀ (s : State) (l m : Nat) (y : Member), s.dev.membersOf l = [(m, y)] → y.wait = .gbar →
    exec (.gbarComplete l) s = .next { s with
      dev := (s.dev.modMember l m (fun y => { y with wait := .none })).retire s.bt l m (y.pc + 8) }) ∧
  -- END
  (∀ (s : State) (l m : Nat) (x : Launch) (y : Member) (w : Word), ControlAt s l m x y 0x16 w →
    s.dev.cmdsLeft l m none = false → s.dev.cohortsDone l m = true →
    exec (.endMember (.control l m) w) s = .next { s with
      dev := s.dev.modMember l m (fun y => { y with ended := true, wait := .none, progress := s.bt }) }) ∧
  -- WAITQ of a ticket that was given, and of one that was not
  (∀ (s : State) (l m : Nat) (x : Launch) (y : Member) (w : Word) (t : Nat), ControlAt s l m x y 0x18 w → iA w.toNat < 32 →
    iFN w.toNat < 4 → t = (y.sget (iA w.toNat)).toNat → t ≤ mapGet 0 y.tickets (iFN w.toNat) →
    s.dev.cmdsLeft l m (some (iFN w.toNat, t)) = false →
    exec (.waitq (.control l m) w) s = .next { s with dev := s.dev.retire s.bt l m ((y.pc + 8) % 2 ^ 64) }) ∧
  (∀ (s : State) (l m : Nat) (x : Launch) (y : Member) (w : Word) (t : Nat), ControlAt s l m x y 0x18 w → iA w.toNat < 32 →
    iFN w.toNat < 4 → t = (y.sget (iA w.toNat)).toNat → mapGet 0 y.tickets (iFN w.toNat) < t →
    exec (.waitq (.control l m) w) s = .next { s with
      dev := s.dev.failLaunch l .range (some (excRecord excObject 0 m 0xFFFF y.pc)) }) ∧
  -- TWAIT: operands are read and read-outs are in Local Store (R158)
  (∀ (s : State) (l m : Nat) (x : Launch) (y : Member) (w : Word), ControlAt s l m x y 0x19 w → iFN w.toNat < 2 →
    exec (.twait (.control l m) w) s = .next { s with
      dev := (s.dev.modCe y.ce (fun c => c.tensorDone (iFN w.toNat == 1)
        (fun a => decide (y.lsBase * 4096 ≤ a) && decide (a < y.lsBase * 4096 + x.lsSize)))).retire s.bt l m
          ((y.pc + 8) % 2 ^ 64) }) ∧
  (∀ (c : Ce) (f : Nat → Bool), (∀ r ∈ (c.tensorDone true f).tread, f r.1 = false) ∧ (∀ p ∈ (c.tensorDone true f).tpend, f p.1 = false) ∧
    (∀ r ∈ (c.tensorDone false f).tread, f r.1 = false) ∧ (c.tensorDone false f).tpend = c.tpend ∧
    (c.tensorDone false f).ls = c.ls) ∧
  -- FENCE
  (∀ (s : State) (l m : Nat) (x : Launch) (y : Member) (w : Word), ControlAt s l m x y 0x1A w → 0 < iFN w.toNat →
    iFN w.toNat < 4 → s.dev.cmdsLeft l m none = false → s.dev.cohortsDone l m = true → s.dev.sqcSound y.ce x.ctx →
    exec (.fence (.control l m) w) s = .next { s with
      dev := (if bit (iFN w.toNat) 1 then s.dev.sqcClean y.ce (fun q => q.ctx == x.ctx && q.dirty) else s.dev).retire s.bt l m ((y.pc + 8) % 2 ^ 64) }) ∧
  -- CINV
  (∀ (s : State) (l m lo n : Nat) (x : Launch) (y : Member) (w : Word) (hit : SqcLine → Bool) (d : Dev), ControlAt s l m x y 0x1B w →
    iA w.toNat < 32 → iB w.toNat < 32 → iFN w.toNat < 2 → s.dev.sqcSound y.ce x.ctx →
    lo = (y.sget (iA w.toNat)).toNat → n = (y.sget (iB w.toNat)).toNat →
    hit = (fun q => q.ctx == x.ctx && (bit (iFN w.toNat) 0 || !q.insn) && decide (0 < n) && decide (q.ava < lo + n) &&
      decide (lo < q.ava + 64)) → d = (s.dev.sqcClean y.ce hit).sqcDrop y.ce hit →
    exec (.cinv (.control l m) w) s = .next { s with
      dev := ((d.rangeParts x.ctx lo n).foldl (fun d r => d.backInv r.1 r.2) d).retire s.bt l m ((y.pc + 8) % 2 ^ 64) }) ∧
  -- FSTAT once every read-out is complete and every cohort has ended; before that the bits are free
  (∀ (s : State) (l m : Nat) (x : Launch) (y : Member) (w : Word), ControlAt s l m x y 0x1C w → iD w.toNat < 32 →
    iFN w.toNat < 2 → s.dev.readoutLeft x y = false → s.dev.cohortsDone l m = true →
    exec (.fstat (.control l m) w) s = .next { s with
      dev := (if iFN w.toNat = 1 then
          (s.dev.sput l m (iD w.toNat) (BitVec.ofNat 64 x.fstat)).modLaunch l (fun x => { x with fstat := 0 })
        else s.dev.sput l m (iD w.toNat) (BitVec.ofNat 64 x.fstat)).retire s.bt l m ((y.pc + 8) % 2 ^ 64) }) ∧
  (∀ (s : State) (l m : Nat) (x : Launch) (y : Member) (w : Word), ControlAt s l m x y 0x1C w → iD w.toNat < 32 →
    iFN w.toNat = 0 → (s.dev.readoutLeft x y = true ∨ s.dev.cohortsDone l m = false) →
    exec (.fstat (.control l m) w) s = .next { s with
      dev := ((s.dev.took 2).sput l m (iD w.toNat) (BitVec.ofNat 64 (Config.freeNat s.dev.free % 8))).retire s.bt l m
        ((y.pc + 8) % 2 ^ 64) }) ∧
  -- BTRD, BTWAIT
  (∀ (s : State) (l m : Nat) (x : Launch) (y : Member) (w : Word), ControlAt s l m x y 0x1D w → iD w.toNat < 32 →
    exec (.btrd (.control l m) w) s = .next { s with
      dev := (s.dev.sput l m (iD w.toNat) (BitVec.ofNat 64 s.bt)).retire s.bt l m ((y.pc + 8) % 2 ^ 64) }) ∧
  (∀ (s : State) (l m : Nat) (x : Launch) (y : Member) (w : Word), ControlAt s l m x y 0x1E w → iA w.toNat < 32 →
    exec (.btwait (.control l m) w) s = .next { s with
      dev := if (y.sget (iA w.toNat)).toNat ≤ s.bt then s.dev.retire s.bt l m ((y.pc + 8) % 2 ^ 64)
        else s.dev.modMember l m (fun y => { y with wait := .time }) })

/-- R165, R166, R235, R236, R347: a SIGNAL in release order posts its entry on the ring or writes its mailbox and goes on; an entry
beyond the signal table raises OBJECT; a post that waited for its mailbox is made when there is room. -/
def Obligations.SignalInstructions : Prop :=
  (∀ (s : State) (l m n k tag : Nat) (x : Launch) (y : Member) (w : Word) (d : Dev), ControlAt s l m x y 0x1F w →
    iA w.toNat < 32 → iB w.toNat < 32 → iC w.toNat < 32 → iFN w.toNat = 0 → s.dev.cmdsLeft l m none = false →
    s.dev.sqcSound y.ce x.ctx → d = s.dev.sqcClean y.ce (fun q => q.ctx == x.ctx && q.dirty) → n = (y.sget (iC w.toNat)).toNat →
    n < (d.ctx x.ctx).sigCount →
    d.poisoned ((d.ctx x.ctx).sigTable % 2 ^ 48 + 16 * n) 16 = false →
    d.target (d.partOfCtx x.ctx) (memNat d.mem ((d.ctx x.ctx).sigTable % 2 ^ 48 + 16 * n) 16) = some (.ring k tag) →
    (d.pair k).ctx = x.ctx → (d.pair k).st ≠ .detached → (d.pair k).admin = false → x.shadowOf = none →
    d.postWaits k = false →
    exec (.signal (.control l m) w) s = .next { s with
      dev := (d.post k { tag, status := .ok, bt := s.bt
                         result := (y.sget (iA w.toNat)).toNat + (y.sget (iB w.toNat)).toNat * 2 ^ 64 } none).retire s.bt l m
        ((y.pc + 8) % 2 ^ 64) }) ∧
  (∀ (s : State) (l m n hart file lg eiid dpa : Nat) (x : Launch) (y : Member) (w : Word) (d : Dev),
    ControlAt s l m x y 0x1F w → iA w.toNat < 32 → iB w.toNat < 32 → iC w.toNat < 32 → iFN w.toNat = 1 →
    s.dev.cmdsLeft l m none = false → s.dev.sqcSound y.ce x.ctx →
    d = s.dev.sqcClean y.ce (fun q => q.ctx == x.ctx && q.dirty) → n = (y.sget (iC w.toNat)).toNat →
    n < (d.ctx x.ctx).sigCount → d.poisoned ((d.ctx x.ctx).sigTable % 2 ^ 48 + 16 * n) 16 = false →
    d.target (d.partOfCtx x.ctx) (memNat d.mem ((d.ctx x.ctx).sigTable % 2 ^ 48 + 16 * n) 16) =
      some (.mailbox hart file lg eiid dpa) →
    x.shadowOf = none → d.mailRoom dpa lg = true → d.mailQueued dpa d.eng.order = false →
    exec (.signal (.control l m) w) s = .next { s with
      dev := (d.mailPut s.bt (d.partOfCtx x.ctx) x.ctx hart file lg eiid dpa (y.sget (iA w.toNat))
        (y.sget (iB w.toNat))).retire s.bt l m ((y.pc + 8) % 2 ^ 64) }) ∧
  (∀ (s : State) (l m : Nat) (x : Launch) (y : Member) (w : Word) (d : Dev), ControlAt s l m x y 0x1F w →
    iA w.toNat < 32 → iB w.toNat < 32 → iC w.toNat < 32 → iFN w.toNat < 2 → s.dev.cmdsLeft l m none = false →
    s.dev.sqcSound y.ce x.ctx → d = s.dev.sqcClean y.ce (fun q => q.ctx == x.ctx && q.dirty) →
    (d.ctx x.ctx).sigCount ≤ (y.sget (iC w.toNat)).toNat →
    exec (.signal (.control l m) w) s = .next { s with
      dev := s.dev.failLaunch l .range (some (excRecord excObject 0 m 0xFFFF y.pc)) }) ∧
  -- MAILBOX_ROOM
  (∀ (s : State) (l m e o hart file lg eiid dpa : Nat) (x : Launch) (y : Member) (va vb : Word),
    s.dev.launch? l = some x → s.dev.member? l m = some y → y.wait = .mailbox e o va vb →
    s.dev.target (s.dev.partOfCtx x.ctx) e = some (.mailbox hart file lg eiid dpa) → s.dev.mailRoom dpa lg = true →
    s.dev.mailQueued dpa o = false →
    exec (.mailboxRoom l m) s = .next { s with
      dev := (s.dev.mailPut s.bt (s.dev.partOfCtx x.ctx) x.ctx hart file lg eiid dpa va vb).modMember l m
        (fun y => { y with wait := .none, progress := s.bt }) })

/-- R31, R39 to R41, R176 to R178, R180 to R184: the requests that open, step, adjourn, resume, close, share and extend a sequence have
their effect and complete; a STEP behind an open one is held, and the ninth held request is refused. -/
def Obligations.SequenceRequests : Prop :=
  -- OPEN
  (∀ (s : State) (k c sl lb layers base len : Nat) (r : Desc) (d : Dev), RequestAt s k 4 1 r c d → sl = r.at_ 2 2 →
    lb = r.at_ 4 2 → layers = r.at_ 6 1 + 1 → base = r.at_ 8 3 → len = bits (r.at_ 8 8) 56 32 → d.slotOk c sl = true →
    (d.slot sl).st = .closed → lb % 64 = 0 → 64 ≤ lb → lb ≤ 65472 → layers * lb ≤ 65536 → len ≠ 0 →
    d.spanOk sl base len ((List.range len).map (fun i => base + i)) = true → (d.ctx c).slotUse < (d.ctx c).res.slots →
    exec (.seqOpen k) s = .next { s with
      dev := ((d.modCtx c (fun x => { x with slotUse := x.slotUse + 1 })).setSlot sl {
        st := .open, ctx := c, spanBase := base, spanLen := len, layerBytes := lb, layersM1 := layers - 1
        cls := classFor (32 * layers * lb) }).finish s.bt r .ok }) ∧
  (∀ (s : State) (k c sl lb layers base len : Nat) (r : Desc) (d : Dev), RequestAt s k 4 1 r c d → sl = r.at_ 2 2 →
    lb = r.at_ 4 2 → layers = r.at_ 6 1 + 1 → base = r.at_ 8 3 → len = bits (r.at_ 8 8) 56 32 → d.slotOk c sl = true →
    (d.slot sl).st = .closed → lb % 64 = 0 → 64 ≤ lb → lb ≤ 65472 → layers * lb ≤ 65536 → len ≠ 0 →
    d.spanOk sl base len ((List.range len).map (fun i => base + i)) = true → (d.ctx c).res.slots ≤ (d.ctx c).slotUse →
    exec (.seqOpen k) s = .next { s with dev := d.finish s.bt r .quota }) ∧
  -- STEP, taken at once, held, and refused
  (∀ (s : State) (k c sl : Nat) (r : Desc) (d : Dev) (x : Slot) (flag : Option Nat) (ceil : Nat),
    SequenceAt s k 2 r c sl x d → x.closeSeen = false → x.stepOpen = false → x.held = [] → x.st ≠ .adjourning →
    stepFlag r.bt (bits (r.at_ 1 1) 1 0) (r.at_ 8 8) = some flag → ceil = bits (r.at_ 1 1) 7 4 → ceil ≤ 3 → ceil ≤ (d.ctx c).ceil →
    exec (.seqStep k) s = .next { s with dev := d.openStep s.bt sl r flag ceil }) ∧
  (∀ (s : State) (k c sl : Nat) (r : Desc) (d : Dev) (x : Slot), SequenceAt s k 2 r c sl x d → x.closeSeen = false →
    x.stepOpen = true → x.held.length < 8 →
    exec (.seqStep k) s = .next { s with dev := d.setSlot sl { x with held := x.held ++ [r] } }) ∧
  (∀ (s : State) (k c sl : Nat) (r : Desc) (d : Dev) (x : Slot), SequenceAt s k 2 r c sl x d → x.closeSeen = false →
    x.stepOpen = true → x.held.length = 8 →
    exec (.seqStep k) s = .next { s with dev := d.finish s.bt r .range }) ∧
  -- STEP_END of the open step without a tree, and of another step
  (∀ (s : State) (k c sl : Nat) (r : Desc) (d : Dev) (x : Slot), SequenceAt s k 3 r c sl x d → x.stepOpen = true →
    r.at_ 8 4 = x.stepNo → r.at_ 12 4 ≤ x.pending → x.tree = false → bit (r.at_ 1 1) 3 = false →
    exec (.stepEnd k) s = .next { s with
      dev := ((d.modSlot sl (fun x => { x with length := x.length + r.at_ 12 4 })).endStep s.bt sl
        (if x.level = 0 then .ok else .okDegraded) (r.at_ 4 4) (r.at_ 12 4)).finish s.bt r .ok }) ∧
  (∀ (s : State) (k c sl : Nat) (r : Desc) (d : Dev) (x : Slot), SequenceAt s k 3 r c sl x d → r.at_ 8 4 ≠ x.stepNo →
    exec (.stepEnd k) s = .next { s with dev := d.finish s.bt r .range }) ∧
  -- ADJOURN and RESUME with nothing to move, ADJOURN that moves blocks
  (∀ (s : State) (k c sl : Nat) (r : Desc) (d : Dev) (x : Slot), SequenceAt s k 4 r c sl x d → r.at_ 0 1 = 4 →
    x.closeSeen = false → x.st = .open → x.stepOpen = false → x.after = none → x.held = [] → d.movable x = [] →
    exec (.adjourn k) s = .next { s with
      dev := (d.setSlot sl { x with st := .adjourned }).complete s.bt r.pair r.tag .ok }) ∧
  (∀ (s : State) (k c sl : Nat) (r : Desc) (d e e' : Dev) (x : Slot), SequenceAt s k 4 r c sl x d → r.at_ 0 1 = 4 →
    x.closeSeen = false → x.st = .open → x.stepOpen = false → x.after = none → x.held = [] → d.movable x ≠ [] →
    d.startBlocks s.bt sl (d.movable x) false = (some e, e') →
    exec (.adjourn k) s = .next { s with
      dev := e.modSlot sl (fun x => { x with st := .adjourning, waiters := [(r.pair, r.tag)], moved := 0 }) }) ∧
  (∀ (s : State) (k c sl : Nat) (r : Desc) (d : Dev) (x : Slot), SequenceAt s k 5 r c sl x d → r.at_ 0 1 = 5 →
    x.closeSeen = false → x.st = .adjourned → x.after = none → x.held = [] →
    (d.modSlot sl (fun x => { x with st := .open })).ddrBlocks ((d.modSlot sl (fun x => { x with st := .open })).slot sl) = [] →
    exec (.resume k) s = .next { s with
      dev := (d.modSlot sl (fun x => { x with st := .open })).complete s.bt r.pair r.tag .ok }) ∧
  -- CLOSE
  (∀ (s : State) (k c sl : Nat) (r : Desc) (d : Dev) (x : Slot), SequenceAt s k 6 r c sl x d → r.at_ 0 1 = 6 →
    x.closeSeen = false → x.st = .open → x.stepOpen = false → x.after = none → x.held = [] →
    exec (.seqClose k) s = .next { s with dev := (d.dropUnbegun sl).closeSlot s.bt sl (some (r.pair, r.tag)) }) ∧
  -- SHARE of no blocks beyond an empty sequence's span, and EXTEND
  (∀ (s : State) (k c sl src n : Nat) (r : Desc) (d e : Dev) (x y : Slot) (pairs : List (Nat × Nat)),
    SequenceAt s k 7 r c sl x d → x.closeSeen = false → x.after = none → x.held = [] → src = r.at_ 4 2 → y = d.slot src →
    n = bits (r.at_ 8 8) 24 0 →
    pairs = (List.range n).map (fun b => (x.spanBase + b,
      if kvShared (d.kvGet (y.spanBase + b)) then kvOrigin (d.kvGet (y.spanBase + b)) else y.spanBase + b)) →
    y.st ≠ .closed → y.st ≠ .closing → y.ctx = c → src ≠ sl → x.st = .open → x.length = 0 → x.stepOpen = false →
    n ≤ x.spanLen → n ≤ y.spanLen → (∀ p ∈ pairs, kvValid (d.kvGet p.1) = false ∧ kvBusy (d.kvGet p.1) = false) →
    (∀ b < n, kvValid (d.kvGet (y.spanBase + b)) = true) → r.at_ 16 4 ≤ y.length → r.at_ 16 4 ≤ 32 * n →
    (∀ p ∈ pairs, kvRefs (d.kvGet p.2) < 65535) → d.chargeKv c n = some e →
    exec (.share k) s = .next { s with
      dev := ((pairs.foldl (fun d p =>
          (d.kvPut p.1 (kvMake kvSharedF (kvGen (d.kvGet p.1)) (p.2 + kvGen (d.kvGet p.2) * 2 ^ 24) 0)).kvPut p.2
            (kvWithRefs (d.kvGet p.2) (kvRefs (d.kvGet p.2) + 1))) e).modSlot sl
        (fun x => { x with length := r.at_ 16 4 })).finish s.bt r .ok }) ∧
  (∀ (s : State) (k c sl n : Nat) (r : Desc) (d : Dev) (x : Slot), SequenceAt s k 8 r c sl x d → x.closeSeen = false →
    x.after = none → x.held = [] → n = bits (r.at_ 8 8) 24 0 → x.spanLen < n →
    d.spanOk sl x.spanBase n ((List.range (n - x.spanLen)).map (fun i => x.spanBase + x.spanLen + i)) = true →
    exec (.extend k) s = .next { s with dev := (d.setSlot sl { x with spanLen := n }).finish s.bt r .ok })

/-- R73 to R76, R174, R175, R177, R178, R181, R182: the flag check ends a Vanan step and marks another fallen; level 3 completes with the
draft; held requests take effect in order; queries, pools and the commits of block moves and copies. -/
def Obligations.SequenceEvents : Prop :=
  -- QUERY and POOL_SHRINK on a host ring, POOL_GROW
  (∀ (s : State) (k c : Nat) (r : Desc) (d : Dev), RequestAt s k 4 9 r c d → pairIsHost k = true → s.dev.descCtx r = c →
    (s.dev.ctx c).ending = false → s.dev.slotOk c (r.at_ 2 2) = true →
    (s.dev.slot (r.at_ 2 2)).st = .closed ∨ (s.dev.slot (r.at_ 2 2)).ctx = c →
    exec (.query k) s = .next { s with
      dev := (d.emit (.hostWrite (pairPort k) (r.at_ 8 8) (d.queryBytes (r.at_ 2 2)))).finish s.bt r .ok }) ∧
  (∀ (s : State) (k c p : Nat) (r : Desc) (d : Dev), RequestAt s k 4 0x11 r c d → pairIsHost k = true → s.dev.descCtx r = c →
    (s.dev.ctx c).ending = false → p = kvPool (d.partOfCtx c) (bits (r.at_ 1 1) 2 0) →
    s.dev.poolValid (kvPool (s.dev.partOfCtx c) (bits (r.at_ 1 1) 2 0)) = true →
    exec (.poolShrink k) s = .next { s with
      dev := ((d.poolShrink p (r.at_ 16 4)).2.emit (.hostWrite (pairPort k) (r.at_ 8 8)
        ((d.poolShrink p (r.at_ 16 4)).1.flatMap (leBytes 4)))).finish s.bt r .ok 0 (d.poolShrink p (r.at_ 16 4)).1.length }) ∧
  (∀ (s : State) (k c a p n : Nat) (r : Desc) (d : Dev), RequestAt s k 4 0x10 r c d → a = d.partOfCtx c →
    p = kvPool a (bits (r.at_ 1 1) 2 0) → n = r.at_ 16 4 → d.poolValid p = true → r.at_ 8 8 % d.poolFrame p = 0 →
    d.inTier (d.poolDdr p) a (r.at_ 8 8) (n * d.poolFrame p) = true → r.at_ 8 8 < 2 ^ 48 →
    (d.pool p).free.length + (d.pool p).wiping + n ≤ d.poolCap p →
    exec (.poolGrow k) s = .next { s with
      dev := (d.modPool p (fun q => { q with
        free := q.free ++ (List.range n).map (fun i => (r.at_ 8 8 + i * d.poolFrame p) / 2 ^ 16) })).finish s.bt r .ok }) ∧
  -- HELD_REQUEST_RELEASE
  (∀ (s : State) (sl : Nat) (r : Desc) (rs : List Desc), (s.dev.slot sl).held = r :: rs →
    (s.dev.slot sl).mustHold (r.at_ 0 1) = false →
    exec (.heldRequestRelease sl) s = .next { s with
      dev := (s.dev.setSlot sl { s.dev.slot sl with held := rs }).applyReq s.bt sl r }) ∧
  -- KV_MOVE_COMMIT of a block whose bursts are all made, and of a copy
  (∀ (s : State) (n i sl : Nat) (m : Move), mapFind? s.dev.tier.moves n = some m → m.obj = .block i sl → m.moved = m.len →
    m.begun = true →
    exec (.kvMoveCommit n) s = .next { s with
      dev := (s.dev.commitBlock s.bt n m i sl).settleCtx (s.dev.moveCtx m) }) ∧
  (∀ (s : State) (n i sl : Nat) (m : Move), mapFind? s.dev.tier.moves n = some m → m.obj = .copy i sl →
    exec (.kvMoveCommit n) s = .next { s with
      dev := (s.dev.commitCopy s.bt n m i sl).settleCtx (s.dev.moveCtx m) }) ∧
  -- FLAG_CHECK of an open step in Vanan mode, and of one with a draft
  (∀ (s : State) (sl : Nat) (d : Dev) (v : Event), wheelNext s.bt (s.dev.wheel (sl / 2048)) = some v → v.ev = .flag sl →
    s.dev.wheelCount s.bt (sl / 2048) < 64 → d = s.dev.eventDone s.bt (sl / 2048) v → (d.slot sl).stepOpen = true →
    (d.ctx (d.slot sl).ctx).vanan = true →
    exec (.flagCheck sl) s = .next { s with dev := (d.endStep s.bt sl .flagFell 0 0).redecide s.bt sl }) ∧
  (∀ (s : State) (sl u : Nat) (d : Dev) (v : Event), wheelNext s.bt (s.dev.wheel (sl / 2048)) = some v → v.ev = .flag sl →
    s.dev.wheelCount s.bt (sl / 2048) < 64 → d = s.dev.eventDone s.bt (sl / 2048) v → (d.slot sl).stepOpen = true →
    (d.ctx (d.slot sl).ctx).vanan = false → (d.slot sl).draft = some u →
    exec (.flagCheck sl) s = .next { s with
      dev := ((d.setSlot sl { d.slot sl with fallen := true }).arm s.bt (sl / 2048) (.level3 sl) 2
        (s.bt + (d.slot sl).l3 * 1000)).redecide s.bt sl }) ∧
  (∀ (s : State) (sl : Nat) (d : Dev) (v : Event), wheelNext s.bt (s.dev.wheel (sl / 2048)) = some v → v.ev = .flag sl →
    s.dev.wheelCount s.bt (sl / 2048) < 64 → d = s.dev.eventDone s.bt (sl / 2048) v → (d.slot sl).stepOpen = true →
    (d.ctx (d.slot sl).ctx).vanan = false → (d.slot sl).draft = none →
    exec (.flagCheck sl) s = .next { s with
      dev := (d.setSlot sl { d.slot sl with fallen := true }).redecide s.bt sl }) ∧
  -- LEVEL3_CHECK at and below the ceiling 3
  (∀ (s : State) (sl t : Nat) (d : Dev) (v : Event), wheelNext s.bt (s.dev.wheel (sl / 2048)) = some v → v.ev = .level3 sl →
    s.dev.wheelCount s.bt (sl / 2048) < 64 → d = s.dev.eventDone s.bt (sl / 2048) v → (d.slot sl).stepOpen = true →
    (d.slot sl).ceil = 3 → (d.slot sl).draft = some t →
    exec (.level3Check sl) s = .next { s with
      dev := (d.setSlot sl { d.slot sl with level := 3 }).endStep s.bt sl .okDegraded t 0 }) ∧
  (∀ (s : State) (sl : Nat) (d : Dev) (v : Event), wheelNext s.bt (s.dev.wheel (sl / 2048)) = some v → v.ev = .level3 sl →
    s.dev.wheelCount s.bt (sl / 2048) < 64 → d = s.dev.eventDone s.bt (sl / 2048) v → (d.slot sl).ceil ≠ 3 →
    exec (.level3Check sl) s = .next { s with dev := d })

/-- R29, R35, R42 to R46, R70, R105, R409, R437: a LAUNCH descriptor joins its queue in the order of fetch; a launch with its turn, its
journal entries, a wheel
entry and its compute engines is placed with its members' registers, payload and watchdog; one whose members have ended writes back its
dirty lines and completes, or holds its completion for the comparison with its shadow. -/
def Obligations.LaunchCommands : Prop :=
  (∀ (s : State) (k c q n : Nat) (r : Desc) (d : Dev), RequestAt s k 1 0 r c d → q = (d.pair k).queue → n = d.eng.nextLaunch →
    1 + r.nslot ≤ (d.ctx c).res.journal → s.dev.laterLaunch k = false →
    exec (.launch k) s = .next { s with
      dev := (d.setCtx c { d.ctx c with last := mapSet 0 (d.ctx c).last q (n + 1) }).modEng (fun z => { z with
        launches := mapPut z.launches n {
          ctx := c, queue := q, pair := r.pair, tag := r.tag, order := r.order, group := r.group, cohorts := r.cohorts
          regs := r.regs, lsUnits := r.lsUnits, nrs := bit r.ts0 27, faultable := bit r.ts0 28, concurrent := bit r.ts0 29
          kernel := bits r.ts1 49 0 * 64, ploff := r.ploff * 256, watchdogUs := r.watchdog, seed := bits r.ts2 63 32
          payload := r.payload, journal := 1 + r.nslot
          prev := if mapGet 0 (d.ctx c).last q = 0 then none else some (mapGet 0 (d.ctx c).last q - 1) }
        nextLaunch := n + 1 }) }) ∧
  (∀ (s : State) (k : Nat), s.dev.laterLaunch k = true → exec (.launch k) s = .next s) ∧
  (∀ (s : State) (k c : Nat) (r : Desc) (d : Dev), RequestAt s k 1 0 r c d → (d.ctx c).res.journal < 1 + r.nslot →
    s.dev.laterLaunch k = false →
    exec (.launch k) s = .next { s with dev := d.finish s.bt r .quota }) ∧
  -- LAUNCH_PLACE of a launch on one engine, not eligible for a shadow; its wheel is that of the engine's die
  (∀ (s : State) (l k : Nat) (x : Launch), s.dev.launch? l = some x → s.dev.res.cycle = false → s.dev.pow.tripped = false →
    s.dev.myTurn x = true → x.charged = false → (s.dev.ctx x.ctx).jrnUse + x.journal ≤ (s.dev.ctx x.ctx).res.journal →
    s.dev.choose x (s.dev.candidates x) = some [k] → s.dev.wheelUsed (k / 26) < wheelShared → x.nrs = true →
    exec (.launchPlace l) s = .next { s with
      dev := (((s.dev.modCtx x.ctx (fun c => { c with jrnUse := c.jrnUse + x.journal })).modLaunch l (fun x => { x with
        st := .running, start := s.bt, status := .ok, fstat := 0, exc := none, charged := true })).placeOn s.bt l x [k]) }) ∧
  (∀ (s : State) (l : Nat) (x : Launch), s.dev.launch? l = some x → s.dev.myTurn x = false →
    exec (.launchPlace l) s = .next s) ∧
  -- LAUNCH_COMPLETE
  (∀ (s : State) (l : Nat) (x : Launch), s.dev.launch? l = some x → s.dev.hasEnded l x = true →
    (∀ k ∈ s.dev.launchCes l, ∀ q ∈ (s.dev.ce k).sqc, q.ctx = x.ctx → q.bad = false) → x.shadowOf = none →
    x.shadow = none → x.settle = none → x.replay = false →
    exec (.launchComplete l) s = .next { s with
      dev := (((((s.dev.launchCes l).foldl (fun d k => d.sqcClean k (fun q => q.ctx == x.ctx && q.dirty)) s.dev).dropPosts l).forget
        s.bt l x.ctx).completeLaunch s.bt l x.final) }) ∧
  (∀ (s : State) (l : Nat) (x : Launch) (d : Dev), s.dev.launch? l = some x → s.dev.hasEnded l x = true →
    (∀ k ∈ s.dev.launchCes l, ∀ q ∈ (s.dev.ce k).sqc, q.ctx = x.ctx → q.bad = false) → x.replay = false → x.shadowOf = none →
    x.shadow ≠ none → d = (s.dev.launchCes l).foldl (fun d k => d.sqcClean k (fun q => q.ctx == x.ctx && q.dirty)) s.dev →
    exec (.launchComplete l) s = .next { s with
      dev := ((d.dropPosts l).forget s.bt l x.ctx).modLaunch l (fun x => { x with
        st := .done, digests := d.digestsOf l, oldCes := x.oldCes ++ s.dev.launchCes l }) })

/-- R131 to R133, R140, R144, R147, R148: a vector arithmetic instruction of a cohort writes its result in the lanes whose guard holds and
the cohort goes on; floating-point ones collect their flags in FSTAT; an opcode of the control stream, and an operation the table does
not list, raise ILLEGAL. -/
def Obligations.VectorArithmetic : Prop :=
  -- VIOP, VIOPI, VICMP, VSEL
  (∀ (s : State) (l m c : Nat) (x : Launch) (y : Member) (q : Cohort) (w : Word) (f : Nat → Lane),
    CohortAt s l m c x y q 0x30 w → dstOk x (iD w.toNat) = true → srcOk x (iA w.toNat) = true → srcOk x (iB w.toNat) = true →
    (∀ i, laneOp (iFN w.toNat) (bit w.toNat 4) (s.dev.vsrc x y c (iA w.toNat) i) (s.dev.vsrc x y c (iB w.toNat) i) = some (f i)) →
    exec (.viop (.cohort l m c) w) s = .next { s with
      dev := (s.dev.vput x y c (iD w.toNat) (q.lanesOn w.toNat) f).cohortRetire s.bt l m c y.ce (q.pc + 8) }) ∧
  (∀ (s : State) (l m c : Nat) (x : Launch) (y : Member) (q : Cohort) (w : Word), CohortAt s l m c x y q 0x30 w →
    0x0F ≤ iFN w.toNat →
    exec (.viop (.cohort l m c) w) s = .next { s with
      dev := s.dev.failLaunch l .range (some (excRecord excIllegal 1 m c q.pc)) }) ∧
  (∀ (s : State) (l m : Nat) (x : Launch) (y : Member) (w : Word), s.dev.launch? l = some x → s.dev.member? l m = some y →
    x.st = .running → y.ended = false → y.wait.tries = true → (s.dev.ce y.ce).stalled = false →
    (s.dev.sqcFind y.ce x.ctx y.pc true).map (fun q => (q.bad, listNat ((q.data.drop (y.pc % 64)).take 8) 0 8)) =
      some (false, w.toNat) →
    bits w.toNat 63 56 = 0x30 →
    exec (.viop (.control l m) w) s = .next { s with
      dev := s.dev.failLaunch l .range (some (excRecord excIllegal 0 m 0xFFFF y.pc)) }) ∧
  (∀ (s : State) (l m c : Nat) (x : Launch) (y : Member) (q : Cohort) (w : Word) (f : Nat → Lane),
    CohortAt s l m c x y q 0x31 w → dstOk x (iD w.toNat) = true → iSel w.toNat = 8 ∨ srcOk x (iA w.toNat) = true →
    (∀ i, laneOpI (iSel w.toNat) (s.dev.vsrc x y c (iA w.toNat) i) (BitVec.ofNat 32 (bits w.toNat 31 0)) = some (f i)) →
    exec (.viopi (.cohort l m c) w) s = .next { s with
      dev := (s.dev.vput x y c (iD w.toNat) (q.lanesOn w.toNat) f).cohortRetire s.bt l m c y.ce (q.pc + 8) }) ∧
  (∀ (s : State) (l m c : Nat) (x : Launch) (y : Member) (q : Cohort) (w : Word) (f : Nat → Bool),
    CohortAt s l m c x y q 0x32 w → iD w.toNat < 8 → srcOk x (iA w.toNat) = true → srcOk x (iB w.toNat) = true →
    (∀ i, laneCmp (iFN w.toNat) (s.dev.vsrc x y c (iA w.toNat) i) (s.dev.vsrc x y c (iB w.toNat) i) = some (f i)) →
    exec (.vicmp (.cohort l m c) w) s = .next { s with
      dev := (s.dev.pput l m c (iD w.toNat) (q.lanesOn w.toNat) f).cohortRetire s.bt l m c y.ce (q.pc + 8) }) ∧
  (∀ (s : State) (l m c : Nat) (x : Launch) (y : Member) (q : Cohort) (w : Word), CohortAt s l m c x y q 0x33 w →
    dstOk x (iD w.toNat) = true → srcOk x (iA w.toNat) = true → srcOk x (iB w.toNat) = true → iC w.toNat < 8 →
    exec (.vsel (.cohort l m c) w) s = .next { s with
      dev := (s.dev.vput x y c (iD w.toNat) (q.lanesOn w.toNat) (fun i =>
        if bit (q.pget (iC w.toNat)).toNat i then s.dev.vsrc x y c (iA w.toNat) i else s.dev.vsrc x y c (iB w.toNat) i)).cohortRetire
        s.bt l m c y.ce (q.pc + 8) }) ∧
  -- VFOP, VFMA, VFCMP, VSF, VCVT to an integer or float format without stochastic rounding
  (∀ (s : State) (l m c : Nat) (x : Launch) (y : Member) (q : Cohort) (w : Word) (f : Fmt) (r : Nat → Nat × Bool × Bool),
    CohortAt s l m c x y q 0x40 w → dstOk x (iD w.toNat) = true → srcOk x (iA w.toNat) = true →
    iFN w.toNat = 5 ∨ iFN w.toNat = 6 ∨ srcOk x (iB w.toNat) = true → vfFmt (iFC w.toNat) = some f →
    (∀ i, (vfOp (iFN w.toNat) (vfVal f (s.dev.vsrc x y c (iA w.toNat) i)) (vfVal f (s.dev.vsrc x y c (iB w.toNat) i))).map
      (fun v => vfRound f v.2 v.1) = some (r i)) →
    exec (.vfop (.cohort l m c) w) s = .next { s with
      dev := ((s.dev.fstatOr l false ((q.lanesOn w.toNat).any (fun i => (r i).2.1)) ((q.lanesOn w.toNat).any (fun i =>
        (r i).2.2))).vput x y c (iD w.toNat) (q.lanesOn w.toNat) (fun i => BitVec.ofNat 32 (r i).1)).cohortRetire
        s.bt l m c y.ce (q.pc + 8) }) ∧
  (∀ (s : State) (l m c : Nat) (x : Launch) (y : Member) (q : Cohort) (w : Word) (f : Fmt) (v : Nat → Nat → FVal)
    (r : Nat → Nat × Bool × Bool), CohortAt s l m c x y q 0x41 w → dstOk x (iD w.toNat) = true → srcOk x (iA w.toNat) = true →
    srcOk x (iB w.toNat) = true → srcOk x (iC w.toNat) = true → vfFmt (iFC w.toNat) = some f →
    v = (fun n i => vfVal f (s.dev.vsrc x y c n i)) →
    r = (fun i => vfRound f [v (iA w.toNat) i, v (iB w.toNat) i, v (iC w.toNat) i]
      ((v (iA w.toNat) i).fma (v (iB w.toNat) i) (v (iC w.toNat) i))) →
    exec (.vfma (.cohort l m c) w) s = .next { s with
      dev := ((s.dev.fstatOr l false ((q.lanesOn w.toNat).any (fun i => (r i).2.1)) ((q.lanesOn w.toNat).any (fun i =>
        (r i).2.2))).vput x y c (iD w.toNat) (q.lanesOn w.toNat) (fun i => BitVec.ofNat 32 (r i).1)).cohortRetire
        s.bt l m c y.ce (q.pc + 8) }) ∧
  (∀ (s : State) (l m c : Nat) (x : Launch) (y : Member) (q : Cohort) (w : Word) (g : Fmt) (f : Nat → Bool),
    CohortAt s l m c x y q 0x42 w → iD w.toNat < 8 → srcOk x (iA w.toNat) = true → srcOk x (iB w.toNat) = true →
    vfFmt (iFC w.toNat) = some g →
    (∀ i, vfCmp (iFN w.toNat) (vfVal g (s.dev.vsrc x y c (iA w.toNat) i)) (vfVal g (s.dev.vsrc x y c (iB w.toNat) i)) = some (f i)) →
    exec (.vfcmp (.cohort l m c) w) s = .next { s with
      dev := (s.dev.pput l m c (iD w.toNat) (q.lanesOn w.toNat) f).cohortRetire s.bt l m c y.ce (q.pc + 8) }) ∧
  (∀ (s : State) (l m c : Nat) (x : Launch) (y : Member) (q : Cohort) (w : Word) (f : Fmt) (v : Nat → FVal) (r : Nat → Nat),
    CohortAt s l m c x y q 0x50 w → dstOk x (iD w.toNat) = true → srcOk x (iA w.toNat) = true → iFN w.toNat < 7 →
    vfFmt (iFC w.toNat) = some f → v = (fun i => vfVal f (s.dev.vsrc x y c (iA w.toNat) i)) →
    r = (fun i => f.rne (specialFn (iFN w.toNat) (v i))) →
    exec (.vsf (.cohort l m c) w) s = .next { s with
      dev := ((s.dev.fstatOr l false
          ((q.lanesOn w.toNat).any (fun i => (specialFlags (iFN w.toNat) (v i) f (r i)).1))
          ((q.lanesOn w.toNat).any (fun i => (specialFlags (iFN w.toNat) (v i) f (r i)).2))).vput x y c (iD w.toNat)
        (q.lanesOn w.toNat) (fun i => BitVec.ofNat 32 (r i))).cohortRetire s.bt l m c y.ce (q.pc + 8) }) ∧
  (∀ (s : State) (l m c : Nat) (x : Launch) (y : Member) (q : Cohort) (w : Word) (r : Nat → Nat × Bool × Bool),
    CohortAt s l m c x y q 0x51 w → dstOk x (iD w.toNat) = true → srcOk x (iA w.toNat) = true → iFN w.toNat < 16 →
    fmtMx (iFC w.toNat) = false → convOk (iFC w.toNat) = true → convOk (iFN w.toNat) = true → bit w.toNat 7 = false →
    r = (fun i => convert (iFC w.toNat) .rne (bit w.toNat 5) (bit w.toNat 6) (s.dev.vsrc x y c (iB w.toNat) 0).toNat
      (elemVal (iFN w.toNat) ((s.dev.vsrc x y c (iA w.toNat) i).toNat % 2 ^ fmtBits (iFN w.toNat)))) →
    exec (.vcvt (.cohort l m c) w) s = .next { s with
      dev := ((s.dev.fstatOr l false ((q.lanesOn w.toNat).any (fun i => (r i).2.1)) ((q.lanesOn w.toNat).any (fun i =>
        (r i).2.2))).vput x y c (iD w.toNat) (q.lanesOn w.toNat) (fun i => BitVec.ofNat 32 (r i).1)).cohortRetire
        s.bt l m c y.ce (q.pc + 8) })

/-- R139, R147, R151 to R153: loads, stores and atomics of Local Store in range and aligned; a lane out of range raises LS_RANGE; votes,
shuffles, branches for the whole cohort, and the end of a cohort; a BAR waits until the other cohorts have arrived or ended. -/
def Obligations.VectorMemoryAndControl : Prop :=
  (∀ (s : State) (l m c n : Nat) (x : Launch) (y : Member) (q : Cohort) (w : Word) (sg : Bool), CohortAt s l m c x y q 0x60 w →
    dstOk x (iD w.toNat) = true → srcOk x (iA w.toNat) = true → vecSize (iSel w.toNat) = some (n, sg) →
    accessExc x n ((q.lanesOn w.toNat).map (s.dev.vaddr x y c w.toNat n false)) = none →
    exec (.vld (.cohort l m c) w) s = .next { s with
      dev := (s.dev.vput x y c (iD w.toNat) (q.lanesOn w.toNat) (fun i =>
        if sg then BitVec.ofInt 32 (ofBits (8 * n) (s.dev.lsNat y (s.dev.vaddr x y c w.toNat n false i) n))
        else BitVec.ofNat 32 (s.dev.lsNat y (s.dev.vaddr x y c w.toNat n false i) n))).cohortRetire s.bt l m c y.ce (q.pc + 8) }) ∧
  (∀ (s : State) (l m c n : Nat) (x : Launch) (y : Member) (q : Cohort) (w : Word) (sg : Bool), CohortAt s l m c x y q 0x62 w →
    dstOk x (iD w.toNat) = true → srcOk x (iA w.toNat) = true → vecSize (iSel w.toNat) = some (n, sg) →
    accessExc x n ((q.lanesOn w.toNat).map (s.dev.vaddr x y c w.toNat n true)) = none →
    exec (.vldc (.cohort l m c) w) s = .next { s with
      dev := (s.dev.vput x y c (iD w.toNat) (q.lanesOn w.toNat) (fun i =>
        if sg then BitVec.ofInt 32 (ofBits (8 * n) (s.dev.lsNat y (s.dev.vaddr x y c w.toNat n true i) n))
        else BitVec.ofNat 32 (s.dev.lsNat y (s.dev.vaddr x y c w.toNat n true i) n))).cohortRetire s.bt l m c y.ce (q.pc + 8) }) ∧
  (∀ (s : State) (l m c n : Nat) (x : Launch) (y : Member) (q : Cohort) (w : Word) (sg : Bool) (i : Nat) (rest : List Nat),
    CohortAt s l m c x y q 0x60 w → dstOk x (iD w.toNat) = true → srcOk x (iA w.toNat) = true →
    vecSize (iSel w.toNat) = some (n, sg) → q.lanesOn w.toNat = i :: rest →
    s.dev.vaddr x y c w.toNat n false i % n = 0 → x.lsSize < s.dev.vaddr x y c w.toNat n false i + n →
    exec (.vld (.cohort l m c) w) s = .next { s with
      dev := s.dev.failLaunch l .range (some (excRecord excLsRange 1 m c q.pc)) }) ∧
  (∀ (s : State) (l m c n : Nat) (x : Launch) (y : Member) (q : Cohort) (w : Word) (sg : Bool), CohortAt s l m c x y q 0x61 w →
    srcOk x (iD w.toNat) = true → srcOk x (iA w.toNat) = true → vecSize (iSel w.toNat) = some (n, sg) →
    accessExc x n ((q.lanesOn w.toNat).map (s.dev.vaddr x y c w.toNat n false)) = none →
    exec (.vst (.cohort l m c) w) s = .next { s with
      dev := (((q.lanesOn w.toNat).map (fun i => (s.dev.vaddr x y c w.toNat n false i, (s.dev.vsrc x y c (iD w.toNat) i).toNat))).foldl
        (fun d p => d.lsPut y p.1 n p.2) s.dev).cohortRetire s.bt l m c y.ce (q.pc + 8) }) ∧
  (∀ (s : State) (l m c n : Nat) (x : Launch) (y : Member) (q : Cohort) (w : Word) (sg : Bool), CohortAt s l m c x y q 0x63 w →
    srcOk x (iD w.toNat) = true → srcOk x (iA w.toNat) = true → vecSize (iSel w.toNat) = some (n, sg) →
    accessExc x n ((q.lanesOn w.toNat).map (s.dev.vaddr x y c w.toNat n true)) = none →
    exec (.vstc (.cohort l m c) w) s = .next { s with
      dev := (((q.lanesOn w.toNat).map (fun i => (s.dev.vaddr x y c w.toNat n true i, (s.dev.vsrc x y c (iD w.toNat) i).toNat))).foldl
        (fun d p => d.lsPut y p.1 n p.2) s.dev).cohortRetire s.bt l m c y.ce (q.pc + 8) }) ∧
  -- VLATOM: one lane after the other
  (∀ (s : State) (l m c : Nat) (x : Launch) (y : Member) (q : Cohort) (w : Word), CohortAt s l m c x y q 0x64 w →
    dstOk x (iD w.toNat) = true → srcOk x (iA w.toNat) = true → srcOk x (iB w.toNat) = true → iFN w.toNat < 6 →
    accessExc x 4 ((q.lanesOn w.toNat).map (fun i => (s.dev.vsrc x y c (iA w.toNat) i).toNat)) = none →
    exec (.vlatom (.cohort l m c) w) s = .next { s with
      dev := (((q.lanesOn w.toNat).map (fun i => (i, (s.dev.vsrc x y c (iA w.toNat) i).toNat, s.dev.vsrc x y c (iB w.toNat) i))).foldl
        (fun d p => (d.lsPut y p.2.1 4 ((latomOp (iFN w.toNat) (BitVec.ofNat 32 (d.lsNat y p.2.1 4)) p.2.2).getD 0#32).toNat).vput
          x y c (iD w.toNat) [p.1] (fun _ => BitVec.ofNat 32 (d.lsNat y p.2.1 4))) s.dev).cohortRetire s.bt l m c y.ce (q.pc + 8) }) ∧
  -- BAR, the last to arrive and an earlier one
  (∀ (s : State) (l m c : Nat) (x : Launch) (y : Member) (q : Cohort) (w : Word), CohortAt s l m c x y q 0x70 w →
    q.lanesOn w.toNat ≠ [] → q.atBar = false →
    (∀ r ∈ s.dev.eng.cohorts, r.1 / 512 = memberKey l m → r.1 % 512 ≠ c → r.2.ended = true ∨ q.bars + 1 ≤ r.2.bars) →
    exec (.bar (.cohort l m c) w) s = .next { s with
      dev := (s.dev.modCohort l m c (fun q' => { q' with bars := q.bars + 1, atBar := false })).cohortRetire s.bt l m c y.ce
        (q.pc + 8) }) ∧
  (∀ (s : State) (l m c : Nat) (x : Launch) (y : Member) (q : Cohort) (w : Word), CohortAt s l m c x y q 0x70 w →
    q.lanesOn w.toNat ≠ [] → q.atBar = false →
    (∃ r ∈ s.dev.eng.cohorts, r.1 / 512 = memberKey l m ∧ r.1 % 512 ≠ c ∧ r.2.ended = false ∧ r.2.bars < q.bars + 1) →
    exec (.bar (.cohort l m c) w) s = .next { s with
      dev := s.dev.modCohort l m c (fun q' => { q' with bars := q.bars + 1, atBar := true }) }) ∧
  -- VOTE
  (∀ (s : State) (l m c : Nat) (x : Launch) (y : Member) (q : Cohort) (w : Word), CohortAt s l m c x y q 0x71 w →
    iA w.toNat < 8 → iFN w.toNat < 2 → iD w.toNat < 8 →
    exec (.vote (.cohort l m c) w) s = .next { s with
      dev := (s.dev.pput l m c (iD w.toNat) (q.lanesOn w.toNat) (fun _ =>
        if iFN w.toNat = 0 then q.pget (iA w.toNat) != 0#32 else q.pget (iA w.toNat) == -1#32)).cohortRetire s.bt l m c y.ce
        (q.pc + 8) }) ∧
  (∀ (s : State) (l m c : Nat) (x : Launch) (y : Member) (q : Cohort) (w : Word), CohortAt s l m c x y q 0x71 w →
    iA w.toNat < 8 → iFN w.toNat = 2 → dstOk x (iD w.toNat) = true →
    exec (.vote (.cohort l m c) w) s = .next { s with
      dev := (s.dev.vput x y c (iD w.toNat) (q.lanesOn w.toNat) (fun _ => q.pget (iA w.toNat))).cohortRetire s.bt l m c y.ce
        (q.pc + 8) }) ∧
  -- VSHFL, VBR, VEND
  (∀ (s : State) (l m c : Nat) (x : Launch) (y : Member) (q : Cohort) (w : Word), CohortAt s l m c x y q 0x72 w →
    dstOk x (iD w.toNat) = true → srcOk x (iA w.toNat) = true → srcOk x (iB w.toNat) = true →
    exec (.vshfl (.cohort l m c) w) s = .next { s with
      dev := (s.dev.vput x y c (iD w.toNat) (q.lanesOn w.toNat) (fun i =>
        s.dev.vsrc x y c (iA w.toNat) ((s.dev.vsrc x y c (iB w.toNat) i).toNat % 32))).cohortRetire s.bt l m c y.ce (q.pc + 8) }) ∧
  (∀ (s : State) (l m c : Nat) (x : Launch) (y : Member) (q : Cohort) (w : Word) (taken : Bool), CohortAt s l m c x y q 0x73 w →
    iSel w.toNat = 6 ∨ brA w.toNat < 8 → vbrTaken (iSel w.toNat) (q.pget (brA w.toNat)) = some taken →
    exec (.vbr (.cohort l m c) w) s = .next { s with
      dev := s.dev.cohortRetire s.bt l m c y.ce (if taken then
        (BitVec.ofNat 32 q.pc + BitVec.ofInt 32 (8 * iImm w.toNat)).toNat else q.pc + 8) }) ∧
  (∀ (s : State) (l m c : Nat) (x : Launch) (y : Member) (q : Cohort) (w : Word), CohortAt s l m c x y q 0x74 w →
    q.lanesOn w.toNat ≠ [] →
    exec (.vend (.cohort l m c) w) s = .next { s with
      dev := (s.dev.modCohort l m c (fun q => { q with ended := true })).cohortRetire s.bt l m c y.ce (q.pc + 8) })

/-- R94, R97, R117 to R119, R122, R123, R126, R145, R146, R154, R155: a tensor descriptor that passes its checks is bound; a launch that
holds the tensor unit accumulates the product into cells (0, 0) to (M − 1, N − 1), reads them out row by row and loads codebooks; an
unbound handle raises OBJECT; the free unit goes to the launch that has waited longest. -/
def Obligations.TensorInstructions : Prop :=
  (∀ (s : State) (l m a : Nat) (x : Launch) (y : Member) (w : Word) (t : TDesc), ControlAt s l m x y 0x80 w → iSR w.toNat < 32 →
    a = (y.sget (iSR w.toNat)).toNat → a % 64 = 0 → a + 64 ≤ x.lsSize → tdescExc x (s.dev.lsNat y a 64) = none →
    t = tdescOf (s.dev.lsNat y a 64) →
    exec (.tbind (.control l m) w) s = .next { s with
      dev := (s.dev.modMember l m (fun z => { z with handles := mapPut z.handles (iTD w.toNat) t })).retire s.bt l m
        ((y.pc + 8) % 2 ^ 64) }) ∧
  (∀ (s : State) (l m a : Nat) (x : Launch) (y : Member) (w : Word), ControlAt s l m x y 0x80 w → iSR w.toNat < 32 →
    a = (y.sget (iSR w.toNat)).toNat → a % 64 ≠ 0 →
    exec (.tbind (.control l m) w) s = .next { s with
      dev := s.dev.failLaunch l .range (some (excRecord excAlign 0 m 0xFFFF y.pc)) }) ∧
  -- TENSOR_UNIT_GRANT
  (∀ (s : State) (k l m : Nat) (x : Launch) (ws : List (Nat × Nat)), (s.dev.ce k).tensor = none →
    (s.dev.ce k).tensorWait = (l, m) :: ws → s.dev.launch? l = some x →
    exec (.tensorUnitGrant k) s = .next { s with
      dev := (s.dev.setCe k ({ s.dev.ce k with tensorWait := ws }.acquire l m x.ctx)).modMember l m
        (fun y => { y with wait := .none, progress := s.bt }) }) ∧
  -- MMA
  (∀ (s : State) (l m : Nat) (x : Launch) (y : Member) (w : Word) (ta tb : TDesc) (e : Ce), ControlAt s l m x y 0x81 w →
    e = s.dev.ce y.ce → e.tensor = some (l, m) → y.handle (iTA w.toNat) = some ta → y.handle (iTB w.toNat) = some tb →
    mmaExc x e (some ta) (some tb) = none →
    exec (.mma (.control l m) w) s = .next { s with
      dev := ((s.dev.setCe y.ce (Ce.operands { e with
        acc := (cellsOf ta.rows tb.cols).foldl (fun a p => mapSet {} a (cellKey p.1 p.2)
          (s.dev.mmaCell y ta tb p.1 p.2 (e.cell p.1 p.2))) e.acc
        mode := some (ta.fmt == 0) } y [ta, tb])).fbump F.cePerfTensorBusyCycles y.ce (mmaCycles ta.fmt ta.cols)).retire s.bt l m
        ((y.pc + 8) % 2 ^ 64) }) ∧
  (∀ (s : State) (l m : Nat) (x : Launch) (y : Member) (w : Word), ControlAt s l m x y 0x81 w →
    (s.dev.ce y.ce).tensor = some (l, m) → y.handle (iTA w.toNat) = none →
    exec (.mma (.control l m) w) s = .next { s with
      dev := s.dev.failLaunch l .range (some (excRecord excObject 0 m 0xFFFF y.pc)) }) ∧
  -- TRD of the accumulators, RNE, with CLEAR and RELEASE or without
  (∀ (s : State) (l m : Nat) (x : Launch) (y : Member) (w : Word) (t : TDesc) (e : Ce) (d : Dev)
    (rows : List (Nat × (List Byte × List Byte × Bool × Bool) × Bool)), ControlAt s l m x y 0x82 w →
    e = s.dev.ce y.ce → e.tensor = some (l, m) → y.handle (iTD w.toNat) = some t → bit w.toNat 11 = false →
    bit w.toNat 15 = false → trdExc x w.toNat (some t) (y.handle (iTA w.toNat)) = none →
    rows = (List.range t.rows).map (fun r => (r,
      readRow t.fmt (e.mode == some true) (iShift w.toNat) (bit w.toNat 14) ((List.range t.cols).map (fun c => e.cell r c))
        ((List.range t.cols).map (fun _ => Rm.rne)), ((List.range t.cols).map (fun c => e.cell r c)).any (fun c => c.low))) →
    d = (rows.foldl (fun d p => (d.lsReadout y (t.data + p.1 * t.rowStride) p.2.1.1).lsReadout y (t.scale + p.1 * t.scaleStride)
      p.2.1.2.1) s.dev).fstatOr l (rows.any (fun p => p.2.2)) (rows.any (fun p => p.2.1.2.2.1)) (rows.any (fun p => p.2.1.2.2.2)) →
    exec (.trd (.control l m) w) s = .next { s with
      dev := (if bit w.toNat 12 then
          (if bit w.toNat 13 then d.modCe y.ce (fun e => e.clearCells t.rows t.cols) else d).modCe y.ce
            (fun e => { e with tensor := none })
        else if bit w.toNat 13 then d.modCe y.ce (fun e => e.clearCells t.rows t.cols) else d).retire s.bt l m
          ((y.pc + 8) % 2 ^ 64) }) ∧
  -- CBLD
  (∀ (s : State) (l m a n : Nat) (x : Launch) (y : Member) (w : Word), ControlAt s l m x y 0x83 w → iSR w.toNat < 32 →
    n = iTFN w.toNat → n < 4 → (s.dev.ce y.ce).tensor = some (l, m) → a = (y.sget (iSR w.toNat)).toNat → a % 64 = 0 →
    a + 32768 ≤ x.lsSize →
    exec (.cbld (.control l m) w) s = .next { s with
      dev := (s.dev.modCe y.ce (fun e => Ce.operand { e with
        cb := memWriteBytes (memZero e.cb (32768 * n) 32768) (32768 * n) (s.dev.lsRead y a 32768) } y (some n) a 32768)).retire s.bt l m
        ((y.pc + 8) % 2 ^ 64) })

/-- R100, R156, R159, R160, R164, R186, R192, R193: a DMA or Sequence Engine command whose fields and operands are in order takes its
ticket and its place on its queue, and the member goes on; LCHK and XDISP give at once the answers they can; operands out of order
raise their exception. -/
def Obligations.CommandIssue : Prop :=
  (∀ (s : State) (l m : Nat) (x : Launch) (y : Member) (w : Word),
    (ControlAt s l m x y 0x90 w → commandFields .get w.toNat = true → s.dev.dmaExc x y .get w.toNat = none →
      exec (.get (.control l m) w) s = .next { s with
        dev := (s.dev.issued s.bt l m x y .get w.toNat).retire s.bt l m ((y.pc + 8) % 2 ^ 64) }) ∧
    (ControlAt s l m x y 0x91 w → commandFields .put w.toNat = true → s.dev.dmaExc x y .put w.toNat = none →
      exec (.put (.control l m) w) s = .next { s with
        dev := (s.dev.issued s.bt l m x y .put w.toNat).retire s.bt l m ((y.pc + 8) % 2 ^ 64) }) ∧
    (ControlAt s l m x y 0x92 w → commandFields .gather w.toNat = true → s.dev.dmaExc x y .gather w.toNat = none →
      exec (.gather (.control l m) w) s = .next { s with
        dev := (s.dev.issued s.bt l m x y .gather w.toNat).retire s.bt l m ((y.pc + 8) % 2 ^ 64) }) ∧
    (ControlAt s l m x y 0x93 w → commandFields .scatter w.toNat = true → s.dev.dmaExc x y .scatter w.toNat = none →
      exec (.scatter (.control l m) w) s = .next { s with
        dev := (s.dev.issued s.bt l m x y .scatter w.toNat).retire s.bt l m ((y.pc + 8) % 2 ^ 64) }) ∧
    (ControlAt s l m x y 0x94 w → commandFields .red w.toNat = true → s.dev.dmaExc x y .red w.toNat = none →
      exec (.red (.control l m) w) s = .next { s with
        dev := (s.dev.issued s.bt l m x y .red w.toNat).retire s.bt l m ((y.pc + 8) % 2 ^ 64) }) ∧
    (ControlAt s l m x y 0x95 w → commandFields .fill w.toNat = true → s.dev.dmaExc x y .fill w.toNat = none →
      exec (.fill (.control l m) w) s = .next { s with
        dev := (s.dev.issued s.bt l m x y .fill w.toNat).retire s.bt l m ((y.pc + 8) % 2 ^ 64) }) ∧
    (ControlAt s l m x y 0xA0 w → commandFields .kvg w.toNat = true → Dev.kvExc false s.dev x y w.toNat = none →
      exec (.kvg (.control l m) w) s = .next { s with
        dev := (s.dev.issued s.bt l m x y .kvg w.toNat).retire s.bt l m ((y.pc + 8) % 2 ^ 64) }) ∧
    (ControlAt s l m x y 0xA1 w → commandFields .kva w.toNat = true → Dev.kvExc true s.dev x y w.toNat = none →
      exec (.kva (.control l m) w) s = .next { s with
        dev := (s.dev.issued s.bt l m x y .kva w.toNat).retire s.bt l m ((y.pc + 8) % 2 ^ 64) }) ∧
    (ControlAt s l m x y 0xA2 w → commandFields .xdisp w.toNat = true → s.dev.xdispExc x y w.toNat = none →
      exec (.xdisp (.control l m) w) s = .next { s with
        dev := ((s.dev.issued s.bt l m x y .xdisp w.toNat).retire s.bt l m ((y.pc + 8) % 2 ^ 64)).beginAnswers s.bt
          s.dev.eng.nextCmd }) ∧
    (ControlAt s l m x y 0xA3 w → commandFields .lchk w.toNat = true → s.dev.lchkExc x y w.toNat = none →
      exec (.lchk (.control l m) w) s = .next { s with
        dev := ((s.dev.issued s.bt l m x y .lchk w.toNat).retire s.bt l m ((y.pc + 8) % 2 ^ 64)).beginAnswers s.bt
          s.dev.eng.nextCmd }) ∧
    (∀ e, ControlAt s l m x y 0x90 w → commandFields .get w.toNat = true → s.dev.dmaExc x y .get w.toNat = some e →
      exec (.get (.control l m) w) s = .next { s with
        dev := s.dev.failLaunch l .range (some (excRecord e 0 m 0xFFFF y.pc)) }) ∧
    (ControlAt s l m x y 0x94 w → commandFields .red w.toNat = true → bits w.toNat 2 0 = 0 → iRb w.toNat = false →
      0 < (y.sget (iSL w.toNat)).toNat →
      (y.sget (iSA w.toNat)).toNat + (y.sget (iSL w.toNat)).toNat ≤ 2 ^ 56 → (y.sget (iSD w.toNat)).toNat % 32 = 0 →
      (y.sget (iSA w.toNat)).toNat % 32 = 0 → (y.sget (iSL w.toNat)).toNat % 32 ≠ 0 →
      exec (.red (.control l m) w) s = .next { s with
        dev := s.dev.failLaunch l .range (some (excRecord excDmaArg 0 m 0xFFFF y.pc)) }))

/-- R162, R163, R187, R188, R190, R192 to R194, R241: a command that has started and whose bytes are all moved retires with its digest;
a PUT of one page of local memory writes its bytes there; a walk retires once every entry is gathered or appended; LCHK and XDISP
retire with their records once no answer is held; a held answer whose layer has become resident is DONE. -/
def Obligations.CommandCompletion : Prop :=
  (∀ (s : State) (n : Nat) (c : Cmd) (x : Launch) (y : Member) (d : Dev), mapFind? s.dev.eng.cmds n = some c →
    c.op = .get ∨ c.op = .put ∨ c.op = .gather ∨ c.op = .scatter ∨ c.op = .red ∨ c.op = .fill →
    s.dev.launch? c.l = some x → s.dev.member? c.l c.m = some y → c.started = true → c.fault = false →
    Dev.moveCmd s.bt n x y (s.dev.sortedExtents y c) (((s.dev.sortedExtents y c).map (fun e => e.2.2)).sum)
      (2 * (s.dev.sortedExtents y c).length + ((s.dev.sortedExtents y c).map (fun e => e.2.2)).sum / 65536 + 2) s.dev = (.moved, d) →
    d.cmdRemote (d.partOfCtx x.ctx) n = false →
    exec (.commandComplete n) s = .next { s with dev := d.retireCmd s.bt n (d.cmdData y c) }) ∧
  (∀ (s : State) (n : Nat) (c : Cmd) (x : Launch) (y : Member) (p : Page) (d e f g : Dev), mapFind? s.dev.eng.cmds n = some c →
    c.op = .put → c.twoD = false → c.rb = false → c.row = 0 → c.off = 0 → c.started = true → c.fault = false →
    s.dev.launch? c.l = some x → s.dev.member? c.l c.m = some y → x.shadowOf = none →
    s.dev.access s.bt (tlbCe y.ce) x.ctx c.sa true true x.faultable = (.ok p, d) →
    d.isLocal (s.dev.partOfCtx x.ctx) p.dpa = true → c.sl ≤ 2 ^ p.lg - c.sa % 2 ^ p.lg →
    d.bytesOpen (y.ce / 26) (p.at_ c.sa % 2 ^ 48) c.sl = true →
    g = (d.noteOut c.l (p.at_ c.sa % 2 ^ 48) c.sl).memPut (p.at_ c.sa % 2 ^ 48) (d.lsRead y c.sd c.sl) →
    g.deadIn (p.at_ c.sa % 2 ^ 48) c.sl = false → f = g.hinted (s.dev.partOfCtx x.ctx) x.ctx c.hint (p.at_ c.sa % 2 ^ 48) c.sl →
    f.eng.cmds = s.dev.eng.cmds →
    e = f.modEng (fun z => { z with cmds := mapModify z.cmds n (fun c => { c with row := c.row + 1, off := 0 }) }) →
    e.cmdRemote (e.partOfCtx x.ctx) n = false →
    exec (.commandComplete n) s = .next { s with dev := e.retireCmd s.bt n (e.cmdData y c) }) ∧
  (∀ (s : State) (n : Nat) (c : Cmd) (x : Launch) (y : Member) (bs : List Byte) (d : Dev), mapFind? s.dev.eng.cmds n = some c →
    c.op = .kvg → c.started = true → s.dev.launch? c.l = some x → s.dev.member? c.l c.m = some y →
    s.dev.blocksOpen y (s.dev.kvReq y c.sd) = true →
    Dev.gatherList s.bt n c x y (s.dev.kvReq y c.sd) (List.range (s.dev.kvReq y c.sd).count) 0 [] s.dev = (bs, d) →
    exec (.commandComplete n) s = .next { s with dev := d.retireCmd s.bt n bs }) ∧
  (∀ (s : State) (n : Nat) (c c' : Cmd) (x : Launch) (y : Member) (r : KvReq) (vs : List (List Nat)) (d e : Dev),
    mapFind? s.dev.eng.cmds n = some c → c.op = .kva → c.started = true → s.dev.launch? c.l = some x →
    s.dev.member? c.l c.m = some y → r = s.dev.kvReq y c.sd → s.dev.blocksOpen y r = true →
    Dev.appendList s.bt n x y r (s.dev.kvaOffs y r.subLen r.count r.list 0) (List.range r.count) s.dev = (true, d) →
    mapFind? d.eng.cmds n = some c' → vs = (List.range r.count).map (fun i => (c'.answer? i).getD []) →
    e = vs.zipIdx.foldl (fun d p => d.lsWrite y (r.index + 16 * p.2) (indexBytes p.1)) d →
    exec (.commandComplete n) s = .next { s with
      dev := e.retireCmd s.bt n (vs.flatMap (fun v =>
        if v.headD 1 = ocDone then e.lsRead y (r.dest + v.getD 2 0) (v.getD 3 0 * r.subLen) else [])) }) ∧
  (∀ (s : State) (n : Nat) (c : Cmd) (x : Launch) (y : Member), mapFind? s.dev.eng.cmds n = some c →
    c.op = .lchk → c.started = true → s.dev.launch? c.l = some x → s.dev.member? c.l c.m = some y → c.answers ≠ [] → c.held = [] →
    exec (.commandComplete n) s = .next { s with
      dev := (s.dev.lsWrite y (s.dev.lsNat y (c.sd + 8) 4) ((List.range (s.dev.lsNat y c.sd 2)).flatMap (fun i =>
        leBytes 2 (((c.answer? i).getD []).getD 0 0 + ((c.answer? i).getD []).getD 1 0 * 2 ^ 8)))).retireCmd s.bt n [] }) ∧
  (∀ (s : State) (n : Nat) (c : Cmd) (x : Launch) (y : Member) (r : XReq), mapFind? s.dev.eng.cmds n = some c →
    c.op = .xdisp → c.started = true → s.dev.launch? c.l = some x → s.dev.member? c.l c.m = some y → c.answers ≠ [] → c.held = [] →
    r = s.dev.xReq y c.sd →
    exec (.commandComplete n) s = .next { s with
      dev := ((s.dev.lsWrite y r.dest (s.dev.expertLists y c r)).lsWrite y r.dec
        ((List.range r.tokens).flatMap (s.dev.tokenRecord y c r))).retireCmd s.bt n [] }) ∧
  -- HELD_ANSWER_DECIDED
  (∀ (s : State) (n i : Nat) (c : Cmd) (x : Launch) (y : Member), mapFind? s.dev.eng.cmds n = some c → c.op = .lchk →
    c.held.any (fun a => a.idx == i) = true → c.answer? i = none → s.dev.launch? c.l = some x → s.dev.member? c.l c.m = some y →
    x.shadowOf = none → x.shadow = none → s.dev.recorded c x i = none → c.failOf (s.dev.idxSlot y c i) = none →
    s.dev.phase c.l (s.dev.idxSlot y c i) = .stepOpen →
    (s.dev.lsNat y (c.sd + 0xC) 2, s.dev.lsNat y (c.sd + 0xE) 2) ∉ (s.dev.slot (s.dev.idxSlot y c i)).shadows →
    s.dev.layerResidency x.ctx (s.dev.lsNat y (c.sd + 0xC) 2) (s.dev.lsNat y (c.sd + 0xE) 2) = .resident →
    exec (.heldAnswerDecided n i) s = .next { s with
      dev := ((s.dev.modCmd n (Cmd.unhold s.bt i)).modCmd n (fun c => { c with
        answers := c.answers ++ [(i, [ocDone, 0, i % 8])] })).noteDecision c i 0 [ocDone, 0, i % 8] })

/-- R199, R201, R207 to R210, R220, R221, R223: a tier request of an enabled promotion engine has its effect: the moves of PROMOTE and
DEMOTE start for every page, a window is set, armed, cleared and an entry reset, a range is held and released, page pools grow and
shrink; while ENABLE is 0 the request completes with RANGE. -/
def Obligations.TierRequests : Prop :=
  -- PROMOTE and DEMOTE of pages none of which moves
  (∀ (s : State) (k c : Nat) (r : Desc) (d e e' : Dev) (ps : List Page), RequestAt s k 5 1 r c d →
    d.fon F.prtPromCtrlEnable (d.partOfCtx c) = true → rangeOk (r.at_ 8 8) (r.at_ 16 8) = true →
    d.pagesOf c (r.at_ 16 8 / 65536) (r.at_ 8 8) (r.at_ 16 8) = some ps → ps ≠ [] → bit (r.at_ 1 1) 0 = false →
    (∀ p ∈ ps, p.movable = true ∧ p.inDdr = true) → d.tier.moves = [] →
    Dev.startPages s.bt d.tier.nextMove c true .demand (d.modTier (fun z => { z with nextMove := d.tier.nextMove + 1 })) ps = (some e, e') →
    exec (.promote k) s = .next { s with
      dev := e.modTier (fun z => { z with reqs := z.reqs ++ [{ pair := r.pair, tag := r.tag, ctx := c, up := true, cls := .demand
                                                               left := ps.map (fun p => p.ava), id := d.tier.nextMove }] }) }) ∧
  (∀ (s : State) (k c : Nat) (r : Desc) (d e e' : Dev) (ps : List Page), RequestAt s k 5 2 r c d →
    d.fon F.prtPromCtrlEnable (d.partOfCtx c) = true → rangeOk (r.at_ 8 8) (r.at_ 16 8) = true →
    d.pagesOf c (r.at_ 16 8 / 65536) (r.at_ 8 8) (r.at_ 16 8) = some ps → ps ≠ [] →
    (∀ p ∈ ps, p.movable = true ∧ p.w = false ∧ p.inDdr = false) → d.tier.moves = [] →
    Dev.startPages s.bt d.tier.nextMove c false .background (d.modTier (fun z => { z with nextMove := d.tier.nextMove + 1 })) ps = (some e, e') →
    exec (.demote k) s = .next { s with
      dev := e.modTier (fun z => { z with reqs := z.reqs ++ [{ pair := r.pair, tag := r.tag, ctx := c, up := false, cls := .background
                                                               left := ps.map (fun p => p.ava), id := d.tier.nextMove }] }) }) ∧
  (∀ (s : State) (k c : Nat) (r : Desc) (d e : Dev) (ps : List Page), RequestAt s k 5 1 r c d →
    d.fon F.prtPromCtrlEnable (d.partOfCtx c) = true → rangeOk (r.at_ 8 8) (r.at_ 16 8) = true →
    d.pagesOf c (r.at_ 16 8 / 65536) (r.at_ 8 8) (r.at_ 16 8) = some ps → ps ≠ [] → bit (r.at_ 1 1) 0 = false →
    (∀ p ∈ ps, p.movable = true ∧ p.inDdr = true) → d.tier.moves = [] →
    Dev.startPages s.bt d.tier.nextMove c true .demand (d.modTier (fun z => { z with nextMove := d.tier.nextMove + 1 })) ps = (none, e) →
    exec (.promote k) s = .next { s with dev := e.finish s.bt r .quota }) ∧
  (∀ (s : State) (k c : Nat) (r : Desc) (d : Dev), RequestAt s k 5 1 r c d → d.fon F.prtPromCtrlEnable (d.partOfCtx c) = false →
    exec (.promote k) s = .next { s with dev := d.finish s.bt r .range }) ∧
  -- WINDOW_SET, WINDOW_ARM, WINDOW_CLEAR of a window with nothing in HBM or moving, ENTRY_RESET
  (∀ (s : State) (k c a : Nat) (r : Desc) (d e : Dev) (w : Win), RequestAt s k 5 3 r c d → a = d.partOfCtx c →
    d.fon F.prtPromCtrlEnable a = true → d.parseWindow c a (r.at_ 2 2) (r.at_ 8 8) = some w →
    d.charge c false w.budgetBytes = some e →
    exec (.windowSet k) s = .next { s with
      dev := (e.modTier (fun z => { z with wins := mapPut z.wins (winKey a (r.at_ 2 2)) w })).finish s.bt r .ok }) ∧
  (∀ (s : State) (k c a : Nat) (r : Desc) (d : Dev) (x : Win), RequestAt s k 5 4 r c d → a = d.partOfCtx c →
    d.fon F.prtPromCtrlEnable a = true → d.win? a (r.at_ 2 2) = some x → x.ctx = c → x.clearing = none →
    exec (.windowArm k) s = .next { s with
      dev := d.modWin (winKey a (r.at_ 2 2)) (fun x => { x with
        arms := x.arms ++ [{ pair := r.pair, tag := r.tag, base := if r.at_ 16 8 = 0 then s.bt else r.at_ 16 8 }] }) }) ∧
  (∀ (s : State) (k c a w : Nat) (r : Desc) (d : Dev) (x : Win), RequestAt s k 5 5 r c d → a = d.partOfCtx c →
    w = winKey a (r.at_ 2 2) → d.fon F.prtPromCtrlEnable a = true → d.win? a (r.at_ 2 2) = some x → x.ctx = c →
    x.clearing = none → x.arms = [] → (∀ y ∈ x.ents, y.st = .idle ∨ y.st = .failed) →
    exec (.windowClear k) s = .next { s with
      dev := ((d.disarmWin a (r.at_ 2 2) x.ents.length).modWin w (fun x => { x with
        base := none, next := none, arms := [], clearing := some (r.pair, r.tag) })).settleWin s.bt w }) ∧
  (∀ (s : State) (k c a : Nat) (r : Desc) (d : Dev) (x : Win) (y : WEnt) (ps : List Page), RequestAt s k 5 6 r c d →
    a = d.partOfCtx c → d.fon F.prtPromCtrlEnable a = true → d.win? a (r.at_ 2 2) = some x → x.ctx = c →
    x.ent? (r.at_ 4 4) = some y → y.st = .failed → d.pagesOf c (y.len / 65536) y.ava y.len = some ps →
    exec (.entryReset k) s = .next { s with
      dev := (d.modEnt (winKey a (r.at_ 2 2)) (r.at_ 4 4) (fun z => { z with
        st := if x.base.isSome then .waiting else .idle, started := false, pages := ps.map (windowPageOf y) })).finish s.bt r .ok }) ∧
  -- TIER_QUERY on a host ring
  (∀ (s : State) (k c : Nat) (r : Desc) (d : Dev) (x : Win), RequestAt s k 5 7 r c d → pairIsHost k = true →
    s.dev.descCtx r = c → (s.dev.ctx c).ending = false → s.dev.fon F.prtPromCtrlEnable (s.dev.partOfCtx c) = true →
    s.dev.win? (s.dev.partOfCtx c) (r.at_ 2 2) = some x → x.ctx = c → d.win? (d.partOfCtx c) (r.at_ 2 2) = some x →
    exec (.tierQuery k) s = .next { s with
      dev := (d.emit (.hostWrite (pairPort k) (r.at_ 8 8) ((x.ents.take (r.at_ 16 2)).map WEnt.stateByte))).finish s.bt r .ok }) ∧
  -- MOVE_HOLD and MOVE_RELEASE
  (∀ (s : State) (k c a : Nat) (r : Desc) (d : Dev), RequestAt s k 5 8 r c d → a = d.partOfCtx c →
    d.fon F.prtPromCtrlEnable a = true → rangeOk (r.at_ 8 8) (r.at_ 16 8) = true →
    (d.pagesOf c (r.at_ 16 8 / 65536) (r.at_ 8 8) (r.at_ 16 8)).isSome = true →
    (d.tier.holds.filter (fun h => d.partOfCtx h.ctx == a)).length < 16 → d.pageHeld c (r.at_ 8 8) (r.at_ 16 8) = false →
    exec (.moveHold k) s = .next { s with
      dev := Dev.settleHolds s.bt (d.modTier (fun z => { z with
        holds := z.holds ++ [{ ctx := c, ava := r.at_ 8 8, len := r.at_ 16 8, req := some (r.pair, r.tag) }] })) }) ∧
  (∀ (s : State) (k c : Nat) (r : Desc) (d : Dev) (h : Hold), RequestAt s k 5 9 r c d →
    d.fon F.prtPromCtrlEnable (d.partOfCtx c) = true →
    d.tier.holds.find? (fun h => h.ctx == c && h.ava == r.at_ 8 8 && h.len == r.at_ 16 8) = some h → h.req = none →
    exec (.moveRelease k) s = .next { s with
      dev := (d.modTier (fun z => { z with holds := z.holds.erase h })).finish s.bt r .ok }) ∧
  -- PAGE_POOL_GROW and PAGE_POOL_SHRINK on a host ring
  (∀ (s : State) (k c a p n : Nat) (r : Desc) (d : Dev), RequestAt s k 5 0x10 r c d → a = d.partOfCtx c →
    p = pagePool a (bits (r.at_ 1 1) 1 0) → n = r.at_ 16 4 → d.fon F.prtPromCtrlEnable a = true → d.poolValid p = true →
    r.at_ 8 8 % d.poolFrame p = 0 → d.inTier (d.poolDdr p) a (r.at_ 8 8) (n * d.poolFrame p) = true → r.at_ 8 8 < 2 ^ 48 →
    (d.pool p).free.length + (d.pool p).wiping + n ≤ d.poolCap p →
    exec (.pagePoolGrow k) s = .next { s with
      dev := ((d.modPool p (fun q => { q with
        free := q.free ++ (List.range n).map (fun i => (r.at_ 8 8 + i * d.poolFrame p) / 2 ^ 16) })).stockWindows a).finish s.bt r .ok }) ∧
  (∀ (s : State) (k c p : Nat) (r : Desc) (d : Dev), RequestAt s k 5 0x11 r c d → pairIsHost k = true → s.dev.descCtx r = c →
    (s.dev.ctx c).ending = false → s.dev.fon F.prtPromCtrlEnable (s.dev.partOfCtx c) = true →
    p = pagePool (d.partOfCtx c) (bits (r.at_ 1 1) 1 0) →
    exec (.pagePoolShrink k) s = .next { s with
      dev := ((d.poolShrink p (r.at_ 16 4)).2.emit (.hostWrite (pairPort k) (r.at_ 8 8)
        ((d.poolShrink p (r.at_ 16 4)).1.flatMap (leBytes 4)))).finish s.bt r .ok 0 (d.poolShrink p (r.at_ 16 4)).1.length })

/-- R198, R199, R204 to R206, R210 to R214, R217: a due pass starts and completes its ARM; an entry whose turn and START have come
moves up, a RESIDENT one whose LEAVE has come moves down, and one not resident at its deadline is LATE; a mover makes one burst of the
next move; a starved move becomes urgent; a move whose bursts are made commits; a wipe ends. -/
def Obligations.TierEvents : Prop :=
  (∀ (s : State) (a model : Nat) (x : Win) (q : WArm), s.dev.win? a model = some x → x.clearing = none →
    x.arms.find? (fun r => decide (r.base ≤ s.bt)) = some q →
    exec (.windowPassStart a model) s = .next { s with
      dev := ((s.dev.modWin (winKey a model) (fun x => { x with arms := x.arms.erase q })).startPass s.bt a model x q.base).complete
        s.bt q.pair q.tag .ok }) ∧
  (∀ (s : State) (a model b : Nat) (x : Win), s.dev.win? a model = some x → x.clearing = none → x.arms = [] → x.next = some b →
    exec (.windowPassStart a model) s = .next { s with
      dev := if b ≤ s.bt then s.dev.startPass s.bt a model x b else s.dev }) ∧
  (∀ (s : State) (a model e b : Nat) (x : Win) (y : WEnt), s.dev.win? a model = some x → x.ent? e = some y → x.base = some b →
    b + y.start * 1000 ≤ s.bt → x.clearing = none → s.dev.fon F.prtPromCtrlEnable a = true → x.fits e y.len = true →
    y.st = .waiting → x.first = some e →
    exec (.windowEntryStart a model e) s = .next { s with
      dev := ((s.dev.modEnt (winKey a model) e (fun y => { y with
        st := if y.st = .late then .late else .promoting, started := true })).entUp s.bt x.ctx (winKey a model) e
        y.pages).entArrived s.bt (winKey a model) e }) ∧
  (∀ (s : State) (a model e b : Nat) (x : Win) (y : WEnt), s.dev.win? a model = some x → x.ent? e = some y → x.base = some b →
    s.bt < b + y.start * 1000 →
    exec (.windowEntryStart a model e) s = .next s) ∧
  (∀ (s : State) (a model e b : Nat) (x : Win) (y : WEnt), s.dev.win? a model = some x → x.ent? e = some y → x.base = some b →
    y.st = .resident → y.leave ≠ 0xFFFFFFFF → b + y.leave * 1000 ≤ s.bt →
    exec (.windowEntryLeave a model e) s = .next { s with
      dev := (s.dev.modEnt (winKey a model) e (fun y => { y with st := .leaving, past := true, started := false })).entDown s.bt x.ctx
        (winKey a model) e y.pages }) ∧
  (∀ (s : State) (a model e : Nat) (d : Dev) (x : Win) (y : WEnt) (v : Event), wheelNext s.bt (s.dev.wheel a) = some v →
    v.ev = .promo a model e →
    s.dev.wheelCount s.bt a < 64 → d = s.dev.eventDone s.bt a v →
    d.win? a model = some x → x.ent? e = some y → y.st = .waiting ∨ y.st = .promoting →
    exec (.promotionDeadline a model e) s = .next { s with
      dev := (d.modEnt (winKey a model) e (fun y => { y with st := .late })).fbump F.prtPromStat1LateEntries a 1 }) ∧
  (∀ (s : State) (die n c ava leaf : Nat) (m : Move), s.dev.nextBurst die = some (n, m) → m.obj = .page c ava leaf →
    m.urgent = false → m.begun = true →
    exec (.moverBurst die) s = .next { s with
      dev := ((s.dev.fbump (if m.up then F.prtPromStat0UpBursts else F.prtPromStat0DownBursts) m.part 1).modMove n (fun m =>
        { m with begun := true, moved := min m.len (m.moved + 2 ^ 18) })).modTier (fun z => { z with
          moves := mapAll z.moves (fun _ x => if x.req = m.req then { x with since := s.bt, urgent := false } else x) }) }) ∧
  (∀ (s : State) (die : Nat), s.dev.nextBurst die = none → exec (.moverBurst die) s = .next s) ∧
  (∀ (s : State) (n : Nat) (m : Move), mapFind? s.dev.tier.moves n = some m → m.cls = .background → m.moved < m.len →
    m.since + s.dev.fget F.prtPromAgeHorizonUs m.part * 1000 < s.bt →
    exec (.starvationHorizon n) s = .next { s with dev := s.dev.modTier (fun z => { z with moves := mapAll z.moves (fun _ x =>
      if x.req = m.req ∧ x.cls = .background then { x with urgent := true } else x) }) }) ∧
  (∀ (s : State) (n c ava leaf : Nat) (m : Move), mapFind? s.dev.tier.moves n = some m → m.obj = .page c ava leaf →
    m.begun = true → m.moved = m.len →
    exec (.moveCommit n) s = .next { s with dev := s.dev.commitPage s.bt n m c ava leaf }) ∧
  (∀ (s : State) (x : Nat) (w : Wipe), mapFind? s.dev.tier.wipes x = some w → s.dev.wipeMay w.frame = true →
    s.dev.wipeMove x = none →
    exec (.wipeDone x) s = .next { s with dev := (s.dev.endWipe s.bt x w).stockWindows w.part })

/-- R224, R228, R234, R451: a call of the core monitor by a running hart in HS-mode puts its result into `a0` and goes on behind the
ECALL: VERSION returns FWI_VER and a function that R234 does not
define NOT_SUPPORTED, HART_START starts a stopped hart of the partition (at once, or when its cluster's domain has risen),
HART_LOST_ENTRY and LOG_NOTIFY register what they name, CLUSTER_IDLE gates an idle cluster and answers CONFLICT for one that is not, a
hart of another partition answers INVALID_PARAM, and HART_STOP stops the caller behind its store buffer. -/
def Obligations.MonitorCalls : Prop :=
  (∀ (s : State) (h : Nat), s.dev.runs h = true → (s.dev.hart h).mode = 1 →
    exec (.fwiVersion ⟨h, 1⟩) s = .next { s with
      dev := s.dev.callResult h (BitVec.ofNat 64 (mapGet 0 s.dev.cpx.fwiVer (s.dev.partOfHart h))) }) ∧
  (∀ (s : State) (h fn : Nat), s.dev.runs h = true → (s.dev.hart h).mode = 1 → fn = 0 ∨ 6 < fn →
    exec (.fwiVersion ⟨h, fn⟩) s = .next { s with dev := s.dev.callResult h (-3#64) }) ∧
  (∀ (s : State) (h t k : Nat) (entry opq : Word), s.dev.runs h = true → (s.dev.hart h).mode = 1 → t < 96 →
    s.dev.partOfHart t = s.dev.partOfHart h → s.dev.coreOf t = some k → (s.dev.core k).st = .stopped →
    s.dev.domOn (coreDomain k) = true →
    exec (.hartStart h t entry opq) s = .next { s with
      dev := (s.dev.startHart t entry (BitVec.ofNat 64 t) opq).callResult h 0#64 }) ∧
  (∀ (s : State) (h t k : Nat) (entry opq : Word), s.dev.runs h = true → (s.dev.hart h).mode = 1 → t < 96 →
    s.dev.partOfHart t = s.dev.partOfHart h → s.dev.coreOf t = some k → (s.dev.core k).st = .stopped →
    s.dev.domOn (coreDomain k) = false →
    exec (.hartStart h t entry opq) s = .next { s with
      dev := ((s.dev.modPow (fun z => { z with rising := listAdd z.rising (coreDomain k) })).modCpx
        (fun z => { z with starting := z.starting ++ [(t, entry, opq)] })).callResult h 0#64 }) ∧
  (∀ (s : State) (h t : Nat) (entry opq : Word), s.dev.runs h = true → (s.dev.hart h).mode = 1 →
    s.dev.partOfHart t ≠ s.dev.partOfHart h →
    exec (.hartStart h t entry opq) s = .next { s with dev := s.dev.callResult h (-1#64) }) ∧
  (∀ (s : State) (h k : Nat), s.dev.runs h = true → (s.dev.hart h).mode = 1 → s.dev.coreOf h = some k →
    ((s.dev.drainStores h).core k).st = .running →
    exec (.hartStop h) s = .next { s with
      dev := (s.dev.drainStores h).setCore k { (s.dev.drainStores h).core k with st := .stopped } }) ∧
  (∀ (s : State) (h : Nat) (entry : Word), s.dev.runs h = true → (s.dev.hart h).mode = 1 →
    exec (.hartLostEntry h entry) s = .next { s with
      dev := (s.dev.modCpx (fun z => { z with lostEntry := mapPut z.lostEntry (s.dev.partOfHart h) entry.toNat })).callResult h 0#64 }) ∧
  (∀ (s : State) (h t e : Nat), s.dev.runs h = true → (s.dev.hart h).mode = 1 → t < 96 → s.dev.partOfHart t = s.dev.partOfHart h →
    1 ≤ e → e ≤ 511 →
    exec (.logNotify h t e) s = .next { s with
      dev := (s.dev.modCpx (fun z => { z with logNotify := mapPut z.logNotify (s.dev.partOfHart h) (t, e) })).callResult h 0#64 }) ∧
  (∀ (s : State) (h t e : Nat), s.dev.runs h = true → (s.dev.hart h).mode = 1 → s.dev.partOfHart t ≠ s.dev.partOfHart h →
    exec (.logNotify h t e) s = .next { s with dev := s.dev.callResult h (-1#64) }) ∧
  (∀ (s : State) (h j : Nat), s.dev.runs h = true → (s.dev.hart h).mode = 1 → j < 13 → s.dev.clusterIdle j = true →
    exec (.clusterIdle h j) s = .next { s with
      dev := (s.dev.modPow (fun z => { z with off := listAdd z.off (96 + j), rising := listDel z.rising (96 + j) })).callResult h
        0#64 }) ∧
  (∀ (s : State) (h j : Nat), s.dev.runs h = true → (s.dev.hart h).mode = 1 → j < 13 → s.dev.clusterIdle j = false →
    exec (.clusterIdle h j) s = .next { s with dev := (s.dev.refuse .pwrPark 0 true).callResult h (-2#64) })

/-- R227, R228, R254 to R256, R412: a fence drains the store buffer and passes when no register store is outstanding, and a register
store that timed out raises a store access fault on it; a register load that times out raises a load access fault and a store is
dropped; a failing core that can enter M-mode is castled with its state, and one that cannot waits to be lost; a lost hart starts on
the spare at the registered entry with `a0` its number, or stays stopped without one, and the partition's boot hart is told. -/
def Obligations.CoreFailures : Prop :=
  (∀ (s : State) (h : Nat), s.dev.runs h = true → (s.dev.hart h).timedOut = [] → ((s.dev.drainStores h).hart h).regStores = [] →
    exec (.coreFence h none) s = .next { s with dev := (s.dev.drainStores h).modHart h (fun x => { x with pc := x.pc + 4#64 }) }) ∧
  (∀ (s : State) (h : Nat), s.dev.runs h = true → (s.dev.hart h).timedOut = [] → ((s.dev.drainStores h).hart h).regStores ≠ [] →
    (∀ r ∈ ((s.dev.drainStores h).hart h).regStores, (s.dev.drainStores h).deadPlace ((s.dev.drainStores h).partOfHart h)
      (spacePlace (s.dev.drainStores h).layout (r.addr - regBase)) = true) →
    exec (.coreFence h none) s = .next { s with dev := s.dev.drainStores h }) ∧
  (∀ (s : State) (h t : Nat) (l : List Nat), s.dev.runs h = true → (s.dev.hart h).timedOut = t :: l →
    exec (.coreFence h none) s = .next { s with
      dev := (s.dev.drainStores h).modHart h (fun x => x.trapped 7 t) }) ∧
  (∀ (s : State) (h a t : Nat), s.dev.runs h = true → (s.dev.hart h).regLoad = some (a, t) → t + 100000 ≤ s.bt →
    exec (.registerAccessTimeout h a true) s = .next { s with
      dev := (s.dev.tlogX s.bt 1 (Config.logCode 41).toNat (Config.logSev 41).val (some (s.dev.partOfHart h)) h 0 a 0 [1]).coreTrap h 5
        a }) ∧
  (∀ (s : State) (h a : Nat) (r : RegStore), s.dev.runs h = true →
    (s.dev.hart h).regStores.find? (fun s' => s'.addr == a && decide (s'.bt + 100000 ≤ s.bt)) = some r →
    exec (.registerAccessTimeout h a false) s = .next { s with
      dev := (s.dev.tlogX s.bt 1 (Config.logCode 41).toNat (Config.logSev 41).val (some (s.dev.partOfHart h)) h 0 a 0 [0]).modHart h
        (fun x => { x with regStores := x.regStores.erase r, timedOut := x.timedOut ++ [a] }) }) ∧
  (∀ (s : State) (k h : Nat) (d : Dev), (s.dev.core k).logical = some h → (s.dev.core k).st = .running →
    d = (s.dev.resLog s.bt 0x05 2 (some (s.dev.partOfHart h)) 0xFFFF [0, 0, s.bt, 0]).histAdd s.bt 1 2 10 k →
    exec (.architecturalRegisterError k true) s = .next { s with dev := d.castleCore s.bt k } ∧
    exec (.coreRetireWatchdog k true) s = .next { s with dev := d.castleCore s.bt k } ∧
    exec (.architecturalRegisterError k false) s = .next { s with
      dev := d.modCpx (fun z => { z with failing := listAdd z.failing k }) } ∧
    exec (.coreRetireWatchdog k false) s = .next { s with
      dev := d.modCpx (fun z => { z with failing := listAdd z.failing k }) }) ∧
  (∀ (s : State) (k h a j b e : Nat) (d0 d d' : Dev), (s.dev.core k).logical = some h → s.dev.cpx.failing.contains k = true →
    a = s.dev.partOfHart h → s.dev.bootHart a = some b → b ≠ h →
    d0 = s.dev.modCpx (fun z => { z with failing := listDel z.failing k }) →
    d = (d0.setHart h {}).setCore k { d0.core k with st := .stopped } →
    (d.tlog s.bt 1 40 (some a) h).moveCore s.bt k h = (some j, d') → mapFind? d'.cpx.lostEntry a = some e →
    exec (.hartLost k) s = .next { s with
      dev := (d'.startHart h (BitVec.ofNat 64 e) (BitVec.ofNat 64 h) 0#64).sendMsi a b 0 (Config.hartLostIdentity.val + 1) }) ∧
  (∀ (s : State) (k h a j b : Nat) (d0 d d' : Dev), (s.dev.core k).logical = some h → s.dev.cpx.failing.contains k = true →
    a = s.dev.partOfHart h → s.dev.bootHart a = some b → b ≠ h →
    d0 = s.dev.modCpx (fun z => { z with failing := listDel z.failing k }) →
    d = (d0.setHart h {}).setCore k { d0.core k with st := .stopped } →
    (d.tlog s.bt 1 40 (some a) h).moveCore s.bt k h = (some j, d') → mapFind? d'.cpx.lostEntry a = none →
    exec (.hartLost k) s = .next { s with dev := d'.sendMsi a b 0 (Config.hartLostIdentity.val + 1) }) ∧
  (∀ (s : State) (k h a b : Nat) (d0 d d' : Dev), (s.dev.core k).logical = some h → s.dev.cpx.failing.contains k = true →
    a = s.dev.partOfHart h → s.dev.bootHart a = some b → b ≠ h →
    d0 = s.dev.modCpx (fun z => { z with failing := listDel z.failing k }) →
    d = (d0.setHart h {}).setCore k { d0.core k with st := .stopped } →
    (d.tlog s.bt 1 40 (some a) h).moveCore s.bt k h = (none, d') →
    exec (.hartLost k) s = .next { s with dev := d'.sendMsi a b 0 (Config.hartLostIdentity.val + 1) })

/-- R263, R265 to R270: a read of a line nobody holds answers in E, one of a shared line takes F, one of an owned line goes to the
owner's queue or, without a credit, is refused to be tried again after its backoff; a write or an upgrade makes the requester the only
holder, in M; a write in E is silent; an owner that supplies a read keeps S and one that supplies a write loses the line; an eviction
writes M back, and a slice recalls every copy; a request without an answer in REQ_US is abandoned: a load takes its access fault, a
buffered store is dropped. A line outside the agent's partition traps. -/
def Obligations.CoherenceRequests : Prop :=
  -- RDS of a line for which no other request waits
  (∀ (s : State) (g line k : Nat), s.dev.lineOk g line = true → k = s.dev.lineKey g line → s.dev.homeOpen g k = true →
    (∀ p ∈ s.dev.coh.reqs, p.2.line ≠ k) → s.dev.dirEnt k = {} →
    exec (.rds g ⟨line, none⟩) s = .next { s with
      dev := ((s.dev.requested s.bt g k .rds).supplied s.dev.coh.nextReq k).modDir k (fun e => { e with
        owner := some g, mod := false }) }) ∧
  (∀ (s : State) (g line k : Nat), s.dev.lineOk g line = true → k = s.dev.lineKey g line → s.dev.homeOpen g k = true →
    (∀ p ∈ s.dev.coh.reqs, p.2.line ≠ k) → (s.dev.dirEnt k).owner = none → (s.dev.dirEnt k).fwd = none →
    (s.dev.dirEnt k).shar ≠ [] → g ∉ (s.dev.dirEnt k).shar →
    exec (.rds g ⟨line, none⟩) s = .next { s with
      dev := ((s.dev.requested s.bt g k .rds).supplied s.dev.coh.nextReq k).modDir k (fun e => { e with
        fwd := some g, shar := listDel e.shar g }) }) ∧
  (∀ (s : State) (g line k o : Nat) (d : Dev), s.dev.lineOk g line = true → k = s.dev.lineKey g line → s.dev.homeOpen g k = true →
    (∀ p ∈ s.dev.coh.reqs, p.2.line ≠ k) → (s.dev.dirEnt k).owner = some o → o ≠ g → o < 104 → (s.dev.dirEnt k).fwd = none →
    (s.dev.dirEnt k).shar = [] → d = s.dev.requested s.bt g k .rds →
    exec (.rds g ⟨line, none⟩) s = .next { s with
      dev := if d.mayForward o s.dev.coh.nextReq { agent := g, line := k, kind := .rds, bt := s.bt } then d.enqueue s.dev.coh.nextReq o
        else (d.modReq s.dev.coh.nextReq (fun r => { r with refused := r.refused + 1, last := s.bt })).fbump F.shcSliceStat1Nacks
          (d.sliceOf k) 1 }) ∧
  (∀ (s : State) (g line k : Nat) (d : Dev), s.dev.lineOk g line = false → k = s.dev.lineKey g line → s.dev.asked g k = false →
    s.dev.dirEnt k = {} → g < 96 → d = s.dev.tlog s.bt 4 50 (some (s.dev.partOfAgent g)) g (64 * line) → d.runs g = true →
    exec (.rds g ⟨line, none⟩) s = .next { s with dev := d.coreTrap g 5 (64 * line) }) ∧
  -- RDX and UPGRADE; a core's buffered stores to the line leave the buffer once it owns it
  (∀ (s : State) (g line k : Nat), s.dev.lineOk g line = true → k = s.dev.lineKey g line → s.dev.homeOpen g k = true →
    (∀ p ∈ s.dev.coh.reqs, p.2.line ≠ k) → (s.dev.dirEnt k).owner = none →
    exec (.rdx g ⟨line, none⟩) s = .next { s with
      dev := (((((s.dev.requested s.bt g k .rdx).supplied s.dev.coh.nextReq k).modDir k (fun e => { e with
        owner := some g, mod := true, fwd := none, shar := [] })).loseLine k (fun h => h != g)).lineGranted s.bt
          { agent := g, line := k, kind := .rdx, bt := s.bt }).settleLine s.bt k }) ∧
  (∀ (s : State) (g line k : Nat), k = s.dev.lineKey g line → (s.dev.dirEnt k).owner = some g →
    exec (.rdx g ⟨line, none⟩) s = .next { s with dev := s.dev.modDir k (fun e => { e with mod := true }) }) ∧
  (∀ (s : State) (g line k : Nat), s.dev.lineOk g line = true → k = s.dev.lineKey g line → s.dev.homeOpen g k = true →
    (∀ p ∈ s.dev.coh.reqs, p.2.line ≠ k) → (s.dev.dirEnt k).owner = none → g ∈ (s.dev.dirEnt k).shar →
    exec (.upgrade g ⟨line, none⟩) s = .next { s with
      dev := (((((s.dev.requested s.bt g k .upgrade).supplied s.dev.coh.nextReq k).modDir k (fun e => { e with
        owner := some g, mod := true, fwd := none, shar := [] })).loseLine k (fun h => h != g)).lineGranted s.bt
          { agent := g, line := k, kind := .upgrade, bt := s.bt }).settleLine s.bt k }) ∧
  -- a write behind a read that waits at the holder in F waits in the home slice's queue
  (∀ (s : State) (g line k n : Nat) (d : Dev) (r : CohReq), s.dev.lineOk g line = true → k = s.dev.lineKey g line →
    s.dev.homeOpen g k = true → s.dev.asked g k = false → (s.dev.dirEnt k).owner = none → n = s.dev.coh.nextReq →
    r = { agent := g, line := k, kind := .rdx, bt := s.bt } → d = s.dev.requested s.bt g k .rdx → d.atHolder k n = true →
    exec (.rdx g ⟨line, none⟩) s = .next { s with dev := (d.forward s.bt n (d.homeAgent k) r).settleLine s.bt k }) ∧
  -- FWDS and FWDX of the oldest forward at an owner
  (∀ (s : State) (o line k n : Nat) (r : CohReq), k = s.dev.lineKey o line → s.dev.oldestFwd o k true = some (n, r) →
    s.dev.homeOpen o k = true → (s.dev.dirEnt k).owner = some o →
    exec (.fwds o line) s = .next { s with
      dev := (((((s.dev.dropReq n).modDir k (fun e => { e with
        owner := none, mod := false, dirty := e.dirty || e.mod, fwd := some r.agent
        shar := listAdd (listDel e.shar r.agent) o })).lineGranted s.bt r).returnForwards s.bt o k).pump s.bt o).settleLine s.bt k }) ∧
  (∀ (s : State) (o line k n : Nat) (r : CohReq), k = s.dev.lineKey o line → s.dev.oldestFwd o k false = some (n, r) →
    s.dev.homeOpen o k = true → (s.dev.dirEnt k).owner = some o →
    exec (.fwdx o line) s = .next { s with
      dev := ((((((s.dev.dropReq n).modDir k (fun e => { e with
        owner := some r.agent, mod := true, fwd := none, shar := [] })).loseLine k (fun h => h != r.agent)).lineGranted s.bt
          r).returnForwards s.bt o k).pump s.bt o).settleLine s.bt k }) ∧
  -- EVICTION
  (∀ (s : State) (g line k : Nat), k = s.dev.lineKey g line → (s.dev.dirEnt k).owner = some g →
    exec (.eviction (some g) line) s = .next { s with
      dev := (((s.dev.loseLine k (fun h => h == g)).modDir k (fun e => { e with
        owner := none, mod := false, dirty := e.dirty || e.mod })).returnForwards s.bt g k).settleLine s.bt k }) ∧
  (∀ (s : State) (line : Nat), (s.dev.dirEnt line).keep = none → 64 * line < 0xE00000000000 → s.dev.streamFirst line = false →
    (s.dev.dirEnt line).owner = none → (s.dev.dirEnt line).fwd = none →
    exec (.eviction none line) s = .next { s with
      dev := ((s.dev.modCoh (fun z => { z with dir := mapErase z.dir line })).loseLine line (fun _ => true)).settleLine s.bt line }) ∧
  (∀ (s : State) (line : Nat), (s.dev.dirEnt line).keep.isSome = true ∨ s.dev.streamFirst line = true →
    exec (.eviction none line) s = .next s) ∧
  -- CREDIT_RETRY
  (∀ (s : State) (n o : Nat) (r : CohReq), mapFind? s.dev.coh.reqs n = some r → r.fwdTo = none → r.ret = false → 0 < r.refused →
    s.dev.homeOpen r.agent r.line = true → (s.dev.dirEnt r.line).owner = some o → o ≠ r.agent →
    exec (.creditRetry n) s = .next { s with
      dev := if r.last + (min 1024 (r.refused * s.dev.fget F.shcRetryCfgBackoff 0) * 5 + 11) / 12 ≤ s.bt then
          (if s.dev.mayForward o n r then s.dev.enqueue n o
          else (s.dev.modReq n (fun r => { r with refused := r.refused + 1, last := s.bt })).fbump F.shcSliceStat1Nacks
            (s.dev.sliceOf r.line) 1).settleLine s.bt r.line
        else s.dev }) ∧
  -- KIORN_REQUEST_TIMEOUT of a core's load and of its stores
  (∀ (s : State) (n x : Nat) (r : CohReq) (d : Dev), n < 2 ^ 32 → mapFind? s.dev.coh.reqs n = some r → r.fwdTo = none → r.acc = none →
    x = r.line % 2 ^ 48 * 64 → r.bt + s.dev.fget F.kioTimeoutReqUs 0 * 1000 ≤ s.bt → r.agent < 96 →
    d = ((s.dev.dropReq n).tlog s.bt 5 51 (some (s.dev.partOfAgent r.agent)) r.agent x).settleLine s.bt r.line → d.runs r.agent = true →
    exec (.kiornRequestTimeout n) s = .next { s with
      dev := if r.kind = .rds then d.coreTrap r.agent 5 x
        else d.modHart r.agent (fun h => { h with
          stores := h.stores.filter (fun q => coreLine (d.partOfHart r.agent) q.1 != r.line), timedOut := h.timedOut ++ [x] }) }) ∧
  (∀ (s : State) (n x : Nat) (r : CohReq) (y : CoreAcc) (d : Dev), n < 2 ^ 32 → mapFind? s.dev.coh.reqs n = some r → r.fwdTo = none →
    r.acc = some y → x = r.line % 2 ^ 48 * 64 → r.bt + s.dev.fget F.kioTimeoutReqUs 0 * 1000 ≤ s.bt → r.agent < 96 →
    d = ((s.dev.dropReq n).tlog s.bt 5 51 (some (s.dev.partOfAgent r.agent)) r.agent x).settleLine s.bt r.line → d.runs r.agent = true →
    exec (.kiornRequestTimeout n) s = .next { s with dev := d.coreTrap r.agent y.op.cause y.addr }) ∧
  -- an engine's command on its package's memory (number 2^32 + its own)
  (∀ (s : State) (n : Nat) (c : Cmd) (y : Member), 2 ^ 32 ≤ n → mapFind? s.dev.eng.cmds (n - 2 ^ 32) = some c →
    s.dev.member? c.l c.m = some y → s.dev.localCmd (n - 2 ^ 32) c = true → c.bt + s.dev.fget F.kioTimeoutReqUs 0 * 1000 ≤ s.bt →
    exec (.kiornRequestTimeout n) s = .next { s with
      dev := (s.dev.tlog s.bt 5 51 (some (s.dev.partOfDie (y.ce / 26))) (s.dev.ceUnit y.ce)).hang s.bt c.l c.m [y.ce] 0x04
        F.resHangStatKioAbandon })

/-- R278, R280 to R285: an ECC error of a slice is corrected and counted, poisons a dirty line, or recalls a line whose directory entry is
bad; a flit that fails its CRC is replayed and counted; a lane group with more errors than RETRAIN_ERR retrains, and one whose lane fails
takes its spare, or goes down; a write of `SHC.PART_CFG` outside its ranges is refused, and a new RB_WAYS empties the carve-out's lines. -/
def Obligations.SliceAndLinks : Prop :=
  (∀ (s : State) (n line : Nat), s.dev.atSlice n line = true →
    exec (.sliceEccError n line .corrected) s = .next { s with
      dev := (s.dev.fbump F.shcSliceStat2Corrected n 1).corrected s.bt 5 (wayUnit n line) }) ∧
  (∀ (s : State) (n line k : Nat) (d : Dev), s.dev.atSlice n line = true → k = s.dev.sliceKey n line →
    d = ((((s.dev.fbump F.shcSliceStat2Poisoned n 1).modDir k (fun e => { e with dirty := false })).tlog s.bt 4 52
      (s.dev.memOwner (64 * line)) n (64 * line)).notePoison k).histAdd s.bt 1 5 7 (wayUnit n line) →
    exec (.sliceEccError n line .dirtyData) s = .next { s with
      dev := if d.permanent s.bt 5 (wayUnit n line) then d.wayOut s.bt n line else d }) ∧
  (∀ (s : State) (n line k : Nat) (d : Dev), s.dev.atSlice n line = true → k = s.dev.sliceKey n line →
    (s.dev.dirEnt k).owner = none → (s.dev.dirEnt k).fwd = none →
    d = (((s.dev.modDir k (fun e => { e with owner := none, mod := false, fwd := none, shar := [], dirty := true })).loseLine k
      (fun _ => true)).settleLine s.bt k).histAdd s.bt 1 5 7 (wayUnit n line) →
    exec (.sliceEccError n line .directory) s = .next { s with
      dev := if d.permanent s.bt 5 (wayUnit n line) then d.wayOut s.bt n line else d }) ∧
  (∀ (s : State) (n line c r : Nat) (bad : Bool), s.dev.atSlice n line = true →
    exec (.sliceEccError n line (.transfer c r bad)) s = .next { s with dev := s.dev.hbmTransfer s.bt line c r bad }) ∧
  (∀ (s : State) (n line : Nat) (e : SliceErr), s.dev.atSlice n line = false →
    exec (.sliceEccError n line e) s = .next s) ∧
  (∀ (s : State) (link g : Nat), s.dev.groupUp link g = true →
    exec (.flitCrcFail link g) s = .next { s with
      dev := ((s.dev.fbump F.kioLinkErrReplays link 1).setLaneGrp link g { s.dev.laneGrp link g with
        errs := (s.dev.laneGrp link g).errs.filter (fun t => decide (s.bt < t + 1000000)) ++ [s.bt] }).corrected s.bt 4
          (16 * link + g) }) ∧
  (∀ (s : State) (link g : Nat) (rs : List Nat), s.dev.groupUp link g = true →
    s.dev.fget F.kioLinkCfgRetrainErr link < ((s.dev.laneGrp link g).errs.filter (fun t => decide (s.bt < t + 1000000))).length →
    rs = (s.dev.laneGrp link g).retrains.filter (fun t => decide (s.bt < t + 10 ^ 10)) ++ [s.bt] →
    rs.length ≤ s.dev.fget F.kioLinkCfgSwapAfter link →
    (s.dev.fbump F.kioLinkErrRetrains link 1).fget F.kioLinkCfgSwapAfter link = s.dev.fget F.kioLinkCfgSwapAfter link →
    exec (.laneGroupRetrain link g false) s = .next { s with
      dev := (s.dev.fbump F.kioLinkErrRetrains link 1).setLaneGrp link g { errs := [], retrains := rs } }) ∧
  (∀ (s : State) (link g : Nat) (d : Dev), s.dev.groupUp link g = true →
    s.dev.fget F.kioLinkCfgRetrainErr link < ((s.dev.laneGrp link g).errs.filter (fun t => decide (s.bt < t + 1000000))).length →
    d = ((s.dev.fbump F.kioLinkErrRetrains link 1).setLaneGrp link g {}).histAdd s.bt 1 4 9 (16 * link + g) →
    exec (.laneGroupRetrain link g true) s = .next { s with
      dev := if bit (d.fget F.kioLinkStatusSpareUsed link) g then d.groupDown s.bt link g
        else (d.fset F.kioLinkStatusSpareUsed link (d.fget F.kioLinkStatusSpareUsed link ||| 2 ^ g)).fbump F.kioLinkErrSwaps link
          1 }) ∧
  (∀ (s : State) (p : Party) (a : Nat) (v : Word), s.dev.writeOk p .shcPartCfg a v = true →
    12 < s.dev.fwould p v F.shcPartCfgRbWays a + s.dev.fwould p v F.shcPartCfgKeepWays a →
    exec (.partCfgWrite p a v) s = .next { s with
      dev := s.dev.refuse .shcPartCfg a (s.dev.ctxs.any (fun c => c.2.live && s.dev.partOfCtx c.1 == a)) }) ∧
  (∀ (s : State) (p : Party) (a rb : Nat) (v : Word) (d e : Dev), s.dev.writeOk p .shcPartCfg a v = true →
    rb = s.dev.fwould p v F.shcPartCfgRbWays a → rb + s.dev.fwould p v F.shcPartCfgKeepWays a ≤ 12 →
    s.dev.ctxs.any (fun c => c.2.live && s.dev.partOfCtx c.1 == a) = false → rb < s.dev.fget F.shcPartCfgRbWays a →
    d = s.dev.setReg .shcPartCfg a (s.dev.afterWrite p .shcPartCfg a v) → e = d.recallLines (fun k => k / 2 ^ 48 == a + 1) →
    exec (.partCfgWrite p a v) s = .next { s with dev := e.setRb a ((d.rbMem a).filter (fun c => decide (c.1 < d.rbSize a))) })

/-- R292 to R298, R302: a due scrub slot checks a step of rows on every channel that scrub owns; a repair uses a spare and is recorded,
or the channel is MARKED; a channel that fails is FAILED; claiming a channel's slot that another owner holds is refused with CONFLICT;
the test mode runs from START to STOP or its end and needs the slot's test owner; a new interleave leaves every byte of the partition's
HBM undefined and is refused while it holds contexts; a DDR byte lane that fails uses a spare lane. -/
def Obligations.MemoryMaintenance : Prop :=
  (∀ (s : State) (found : List (Nat × Nat × Nat × List Nat)) (n : Nat) (d : Dev), s.dev.slotDue s.bt 8 4 = some n →
    s.dev.fireSlot s.bt 8 n 4 = some d →
    exec (.scrubWalk found) s = .next { s with
      dev := ((List.range 1024).filter (fun c => d.fget F.hbmcChSlotOwner c == 1)).foldl
        (Dev.scrubChan s.bt found) d }) ∧
  (∀ (s : State) (found : List (Nat × Nat × Nat × List Nat)), s.dev.slotDue s.bt 8 4 = none → exec (.scrubWalk found) s = .next s) ∧
  (∀ (s : State) (c : Nat), c < 1024 → s.dev.chanState c ≠ 2 →
    exec (.hbmLaneRepair c true) s = .next { s with
      dev := (((s.dev.fbump F.hbmcChEccCrcRetry c 16).histAdd s.bt 1 7 9 c).fbump F.hbmcChStatusLanesUsed c 1).repaired s.bt 7 c }) ∧
  (∀ (s : State) (c : Nat), c < 1024 → s.dev.chanState c ≠ 2 →
    exec (.hbmLaneRepair c false) s = .next { s with
      dev := ((s.dev.fbump F.hbmcChEccCrcRetry c 16).histAdd s.bt 1 7 9 c).markChan s.bt c }) ∧
  (∀ (s : State) (c : Nat), c < 1024 → s.dev.chanState c ≠ 2 →
    exec (.hbmRowRepair c true) s = .next { s with dev := (s.dev.fbump F.hbmcChStatusRowsRepaired c 1).repaired s.bt 8 c }) ∧
  (∀ (s : State) (c : Nat), c < 1024 → s.dev.chanState c = 0 →
    exec (.hbmRowRepair c false) s = .next { s with
      dev := ((s.dev.fset F.hbmcChStatusState c 1).histAdd s.bt 3 10 0 c).tlog s.bt 6 60 (some (s.dev.partOfDie (c / 128))) c }) ∧
  (∀ (s : State) (c : Nat), c < 1024 → s.dev.chanState c ≠ 2 →
    exec (.hbmChannelFail c) s = .next { s with
      dev := (s.dev.fset F.hbmcChStatusState c 3).tlog s.bt 6 62 (some (s.dev.partOfDie (c / 128))) c }) ∧
  (∀ (s : State) (p : Party) (c : Nat) (v : Word), s.dev.writeOk p .hbmcChSlot c v = true → s.dev.fget F.hbmcChSlotOwner c = 0 →
    s.dev.fwould p v F.hbmcChSlotOwner c ≠ 3 →
    exec (.chSlotWrite p c v) s = .next { s with dev := s.dev.setReg .hbmcChSlot c (s.dev.afterWrite p .hbmcChSlot c v) }) ∧
  (∀ (s : State) (p : Party) (c : Nat) (v : Word), s.dev.writeOk p .hbmcChSlot c v = true → s.dev.fget F.hbmcChSlotOwner c ≠ 0 →
    s.dev.fwould p v F.hbmcChSlotOwner c ≠ 0 → s.dev.fwould p v F.hbmcChSlotOwner c ≠ s.dev.fget F.hbmcChSlotOwner c →
    exec (.chSlotWrite p c v) s = .next { s with dev := s.dev.refuse .hbmcChSlot c true }) ∧
  (∀ (s : State) (p : Party) (c : Nat) (v : Word) (d : Dev), s.dev.writeOk p .hbmcChTestCfg c v = true → bit v.toNat 5 = true →
    bit v.toNat 6 = false → s.dev.fget F.hbmcChSlotOwner c = 3 →
    d = s.dev.setReg .hbmcChTestCfg c (s.dev.afterWrite p .hbmcChTestCfg c v) →
    exec (.testStart p c v) s = .next { s with
      dev := (d.setReg .hbmcChTestStat c (BitVec.ofNat 64 (2 ^ 33))).scramble (d.inChan c) }) ∧
  (∀ (s : State) (p : Party) (c : Nat) (v : Word), s.dev.writeOk p .hbmcChTestCfg c v = true → bit v.toNat 5 = true →
    s.dev.fget F.hbmcChSlotOwner c ≠ 3 →
    exec (.testStart p c v) s = .next { s with dev := s.dev.refuse .hbmcChTestCfg c false }) ∧
  (∀ (s : State) (p : Party) (c : Nat) (v : Word) (d : Dev), s.dev.writeOk p .hbmcChTestCfg c v = true → bit v.toNat 5 = false →
    bit v.toNat 6 = true → d = s.dev.setReg .hbmcChTestCfg c (s.dev.afterWrite p .hbmcChTestCfg c v) →
    d.fon F.hbmcChTestStatRunning c = true →
    exec (.testStop p c v) s = .next { s with
      dev := ((((d.fset F.hbmcChTestStatRunning c 0).fset F.hbmcChTestStatDone c 1).fset F.hbmcChTestStatErrors c
        (Config.freeNat d.free)).fset F.hbmcChTestStatFirstFail c (Config.freeNat (d.free + 1))).took 2 }) ∧
  (∀ (s : State) (c n f : Nat), s.dev.fon F.hbmcChTestStatRunning c = true → 0 < n → n < 2 ^ 32 →
    exec (.testDone c n f) s = .next { s with
      dev := (((s.dev.fset F.hbmcChTestStatRunning c 0).fset F.hbmcChTestStatDone c 1).fset F.hbmcChTestStatErrors c n).fset
        F.hbmcChTestStatFirstFail c f }) ∧
  (∀ (s : State) (p : Party) (a : Nat) (v : Word), s.dev.writeOk p .hbmcIlCfg a v = true →
    s.dev.fwould p v F.hbmcIlCfgWideMib a * 2 ^ 20 + 16 * 2 ^ 20 ≤ s.dev.chanCap → 1 < s.dev.dies a → s.dev.admitted a = false →
    exec (.ilCfgWrite p a v) s = .next { s with
      dev := (s.dev.setReg .hbmcIlCfg a (s.dev.afterWrite p .hbmcIlCfg a v)).scramble
        ((s.dev.setReg .hbmcIlCfg a (s.dev.afterWrite p .hbmcIlCfg a v)).hbmAddr a) }) ∧
  (∀ (s : State) (p : Party) (a : Nat) (v : Word), s.dev.writeOk p .hbmcIlCfg a v = true → s.dev.admitted a = true →
    exec (.ilCfgWrite p a v) s = .next { s with dev := s.dev.refuse .hbmcIlCfg a true }) ∧
  (∀ (s : State) (c n : Nat) (d : Dev), c < 16 → s.dev.fget F.ddrcChStatusState c ≠ 0 →
    d = ((s.dev.fbump F.ddrcChEccCorrected c n).fbump F.ddrcChEccUncorr c 0).histAdd s.bt 1 9 7 c →
    d.fget F.ddrcChStatusSpareLanes c < 2 →
    exec (.ddrByteLaneFail c n []) s = .next { s with
      dev := (d.fset F.ddrcChStatusSpareLanes c (d.fget F.ddrcChStatusSpareLanes c + 1)).histAdd s.bt 2 9 0 c })

/-- R297, R299 to R301: GO of a Tour starts its job when no job of the partition runs, the range lies in its HBM and Tour owns every
channel of it, whichever of the three operations it asks for; it is refused otherwise, with CONFLICT for a slot Tour does not own. A fill
leaves zeros or the pattern in the range, a digest leaves the range's digest, and either shows the units done. -/
def Obligations.TourJobs : Prop :=
  (∀ (s : State) (p : Party) (a base len : Nat) (v : Word) (d : Dev), s.dev.writeOk p .hbmcTourCmd a v = true →
    base = s.dev.fget F.hbmcTourBaseAddr a * 512 → len = s.dev.fget F.hbmcTourLenUnits a * 512 → bit v.toNat 2 = true →
    bits v.toNat 1 0 ≠ 0 → mapHas s.dev.tours a = false → len ≠ 0 → s.dev.inHbm a base len = true →
    (∀ c ∈ s.dev.rangeChans base len, s.dev.fget F.hbmcChSlotOwner c = 2) →
    d = ((s.dev.setReg .hbmcTourCmd a (s.dev.afterWrite p .hbmcTourCmd a v)).fset F.hbmcTourStatusState a 1).fset
      F.hbmcTourStatusDoneUnits a 0 →
    ∀ t : Dev, t = d.setTours (mapPut d.tours a { op := bits v.toNat 1 0, base, len, pat := (d.reg .hbmcTourPat a).toNat }) →
    exec (.tourFillZero p a v) s = .next { s with dev := t } ∧ exec (.tourFillPattern p a v) s = .next { s with dev := t } ∧
      exec (.tourDigest p a v) s = .next { s with dev := t }) ∧
  (∀ (s : State) (p : Party) (a base len c : Nat) (v : Word), s.dev.writeOk p .hbmcTourCmd a v = true →
    base = s.dev.fget F.hbmcTourBaseAddr a * 512 → len = s.dev.fget F.hbmcTourLenUnits a * 512 → bit v.toNat 2 = true →
    bits v.toNat 1 0 ≠ 0 → mapHas s.dev.tours a = false → len ≠ 0 → s.dev.inHbm a base len = true →
    c ∈ s.dev.rangeChans base len → s.dev.fget F.hbmcChSlotOwner c ≠ 2 →
    exec (.tourFillZero p a v) s = .next { s with dev := s.dev.refuse .hbmcTourCmd a true }) ∧
  (∀ (s : State) (a : Nat) (j : TourJob) (d : Dev), mapFind? s.dev.tours a = some j → j.op ≠ 3 →
    d = (s.dev.setTours (mapErase s.dev.tours a)).fset F.hbmcTourStatusDoneUnits a (j.len / 512) →
    exec (.tourDone a) s = .next { s with
      dev := (d.tourFill j.base j.len (if j.op = 1 then 0 else j.pat)).fset F.hbmcTourStatusState a 2 }) ∧
  (∀ (s : State) (a : Nat) (j : TourJob) (d : Dev), mapFind? s.dev.tours a = some j → j.op = 3 →
    d = (s.dev.setTours (mapErase s.dev.tours a)).fset F.hbmcTourStatusDoneUnits a (j.len / 512) →
    exec (.tourDone a) s = .next { s with
      dev := (d.setReg .hbmcTourResult a (rangeDigest d.mem j.base (j.len / 512))).fset F.hbmcTourStatusState a
        (if d.poisoned j.base j.len then 3 else 2) })

/-- R312, R317 to R325: WALK fills the translation caches when the page is mapped, and an access that fails holds its source with a
fault record or ends the context; RETRY and FAIL end a held fault by their meaning, a resolve that matches none is counted, the
timeout fails it; a HEAD beyond TAIL is refused, and one that makes room posts the records that wait; a failing walker takes its
group's spare. -/
def Obligations.TranslationFaults : Prop :=
  (∀ (s : State) (e c ava x a : Nat) (t : Xfer) (p : Page) (d : Dev),
    s.dev.ring.xfers.find? (fun x => x.2.engine == e) = some (x, t) → t.ctx = c → t.inward = false → t.fault = false →
    t.ava + t.moved = ava → a = s.dev.partOfCtx c → tlbHit (s.dev.tlb (tlbHte e)) c ava = none → tlbHit (s.dev.tlb a) c ava = none →
    d = (s.dev.fbump F.xlatTlbStatL2Misses a 1).fbump F.xlatWalkStatWalks a 1 → d.walkTable c ava = .page p →
    d.isLocal (d.partOfCtx c) p.dpa = true →
    exec (.walk 1 e c ava false) s = .next { s with dev := (d.tlbAdd a c p).tlbAdd (tlbHte e) c p }) ∧
  (∀ (s : State) (e c ava x a : Nat) (t : Xfer) (d d' : Dev),
    s.dev.ring.xfers.find? (fun x => x.2.engine == e) = some (x, t) → t.ctx = c → t.inward = false → t.fault = false →
    t.ava + t.moved = ava → a = s.dev.partOfCtx c → tlbHit (s.dev.tlb (tlbHte e)) c ava = none → tlbHit (s.dev.tlb a) c ava = none →
    d = (s.dev.fbump F.xlatTlbStatL2Misses a 1).fbump F.xlatWalkStatWalks a 1 → d.walkTable c ava = .unmapped →
    d' = d.modRing (fun z => { z with xfers := mapPut z.xfers x { t with fault := true } }) →
    exec (.walk 1 e c ava false) s = .next { s with
      dev := d'.holdFault { part := d'.partOfCtx c, kind := 1, source := e, cause := 1, write := false, ctx := c, ava, bt := s.bt
                            id := none, cmd := some x } }) ∧
  (∀ (s : State) (source c ava n : Nat) (w : Bool) (q : Cmd) (l : Launch) (y : Member) (p : Page) (d : Dev),
    s.dev.cmdAt source c ava w = some (n, q) → s.dev.launch? q.l = some l → s.dev.member? q.l q.m = some y →
    s.dev.access s.bt (tlbCe y.ce) c ava w true l.faultable = (.ok p, d) →
    exec (.walk 0 source c ava w) s = .next { s with dev := d }) ∧
  (∀ (s : State) (source c ava n cause : Nat) (w : Bool) (q : Cmd) (l : Launch) (y : Member) (d : Dev),
    s.dev.cmdAt source c ava w = some (n, q) → s.dev.launch? q.l = some l → s.dev.member? q.l q.m = some y →
    s.dev.access s.bt (tlbCe y.ce) c ava w true l.faultable = (.fault cause, d) →
    d.holds (d.partOfCtx c) 0 (d.tqSource y.ce q.q) = false →
    exec (.walk 0 source c ava w) s = .next { s with
      dev := (d.modEng (fun z => { z with cmds := mapModify z.cmds n (fun c => { c with fault := true }) })).holdFault {
        part := d.partOfCtx c, kind := 0, source := d.tqSource y.ce q.q, cause, write := q.op.writes, ctx := c, ava, bt := s.bt
        id := none, cmd := some n } }) ∧
  -- RETRY, FAIL, a stale resolve, FAULT_TIMEOUT
  (∀ (s : State) (p : Party) (a n : Nat) (v : Word) (h : Held) (d : Dev), s.dev.writeOk p .xlatFqResolve a v = true →
    bits v.toNat 44 43 = 1 → d = s.dev.setReg .xlatFqResolve a (s.dev.afterWrite p .xlatFqResolve a v) →
    d.xlat.held.find? (fun h => h.part == a && h.kind == bits v.toNat 42 42 && h.source % 1024 == bits v.toNat 41 32 &&
      h.id == some (bits v.toNat 31 0)) = some h → h.kind = 0 → h.cmd = some n →
    exec (.retryFault p a v) s = .next { s with
      dev := (Dev.postFaults (d.modXlat (fun z => { z with held := z.held.erase h })) h.part).modEng (fun z => { z with
        cmds := mapModify z.cmds n (fun c => { c with fault := false, bt := c.bt + (s.bt - h.bt) }) }) }) ∧
  (∀ (s : State) (p : Party) (a n : Nat) (v : Word) (h : Held) (d : Dev), s.dev.writeOk p .xlatFqResolve a v = true →
    bits v.toNat 44 43 = 2 → d = s.dev.setReg .xlatFqResolve a (s.dev.afterWrite p .xlatFqResolve a v) →
    d.xlat.held.find? (fun h => h.part == a && h.kind == bits v.toNat 42 42 && h.source % 1024 == bits v.toNat 41 32 &&
      h.id == some (bits v.toNat 31 0)) = some h → h.kind = 0 → h.cmd = some n →
    exec (.failFault p a v) s = .next { s with
      dev := (Dev.postFaults (d.modXlat (fun z => { z with held := z.held.erase h })) h.part).failCmd n .pageFaultUnresolved }) ∧
  (∀ (s : State) (p : Party) (a : Nat) (v : Word) (d : Dev), s.dev.writeOk p .xlatFqResolve a v = true →
    bits v.toNat 44 43 = 1 → d = s.dev.setReg .xlatFqResolve a (s.dev.afterWrite p .xlatFqResolve a v) →
    d.xlat.held.find? (fun h => h.part == a && h.kind == bits v.toNat 42 42 && h.source % 1024 == bits v.toNat 41 32 &&
      h.id == some (bits v.toNat 31 0)) = none →
    exec (.retryFault p a v) s = .next { s with dev := d.fbump F.xlatFqStatStale a 1 }) ∧
  (∀ (s : State) (a kind source n : Nat) (h : Held),
    s.dev.xlat.held.find? (fun h => h.part == a && h.kind == kind && h.source == source) = some h → h.kind = 0 → h.cmd = some n →
    exec (.faultTimeout a kind source) s = .next { s with
      dev := if h.bt + s.dev.fget F.xlatFqTimeoutTimeoutMs a * 1000000 ≤ s.bt then
          (Dev.postFaults (s.dev.modXlat (fun z => { z with held := z.held.erase h })) h.part).failCmd n .pageFaultUnresolved
        else s.dev }) ∧
  -- the fault queue's HEAD
  (∀ (s : State) (p : Party) (a : Nat) (v : Word), s.dev.writeOk p .xlatFqHead a v = true →
    (2 ^ 32 + s.dev.fget F.xlatFqTailCount a - bits v.toNat 31 0) % 2 ^ 32 ≤ s.dev.fqSize a →
    exec (.fqHeadWrite p a v) s = .next { s with
      dev := Dev.postFaults (s.dev.setReg .xlatFqHead a (s.dev.afterWrite p .xlatFqHead a v)) a }) ∧
  (∀ (s : State) (p : Party) (a : Nat) (v : Word), s.dev.writeOk p .xlatFqHead a v = true →
    s.dev.fqSize a < (2 ^ 32 + s.dev.fget F.xlatFqTailCount a - bits v.toNat 31 0) % 2 ^ 32 →
    exec (.fqHeadWrite p a v) s = .next { s with dev := s.dev.refuse .xlatFqHead a false }) ∧
  (∀ (s : State) (g w : Nat) (a : Option Nat), g < 9 → w < 16 → a = some (s.dev.partOfDie (if g < 8 then g else w / 2)) →
    exec (.walkerFail g w) s = .next { s with
      dev := (((s.dev.histAdd s.bt 3 6 8 (16 * g + w)).resLog s.bt 0x46 2 a 0xFFFF [0, 0, s.bt, 8]).resLog s.bt 0x47 2 a 0xFFFF
        [0, 0, s.bt, 8]).walkerOut g })

/-- R313 to R315: an invalidation request, whichever its scope, takes the next token and waits its turn; the 65th outstanding one is
refused; when the oldest of a partition completes, every TLB of the partition has dropped what it covers, the sequencer caches have
written back and dropped theirs, the home slices have recalled the lines of the pages' frames (log entry 127), and INV_DONE shows its
token. -/
def Obligations.Invalidation : Prop :=
  (∀ (s : State) (p : Party) (a i : Nat) (v : Word) (t : Dev), s.dev.writeOk p .xlatInvReq a v = true →
    i = (s.dev.reg .xlatInvIssued a).toNat → i - (s.dev.reg .xlatInvDone a).toNat < 64 → bits v.toNat 13 12 ≠ 3 →
    (bits v.toNat 13 12 = 2 ∨ s.dev.partOfCtx (bits v.toNat 11 0) = a) →
    (bits v.toNat 13 12 = 0 → bits v.toNat 59 20 * 65536 % (2 ^ bits v.toNat 19 14 * 65536) = 0) →
    t = ((s.dev.setReg .xlatInvReq a (s.dev.afterWrite p .xlatInvReq a v)).setReg .xlatInvIssued a (BitVec.ofNat 64 (i + 1))).modXlat
      (fun z => { z with invs := z.invs ++ [{ part := a, token := i + 1, scope := bits v.toNat 13 12, ctx := bits v.toNat 11 0
                                              ava := bits v.toNat 59 20 * 65536, len := 2 ^ bits v.toNat 19 14 * 65536 }] }) →
    exec (.invRange p a v) s = .next { s with dev := t } ∧ exec (.invContext p a v) s = .next { s with dev := t } ∧
      exec (.invPartition p a v) s = .next { s with dev := t }) ∧
  (∀ (s : State) (p : Party) (a : Nat) (v : Word), s.dev.writeOk p .xlatInvReq a v = true →
    64 ≤ (s.dev.reg .xlatInvIssued a).toNat - (s.dev.reg .xlatInvDone a).toNat →
    exec (.invRange p a v) s = .next { s with dev := s.dev.refuse .xlatInvReq a false } ∧
      exec (.invContext p a v) s = .next { s with dev := s.dev.refuse .xlatInvReq a false } ∧
      exec (.invPartition p a v) s = .next { s with dev := s.dev.refuse .xlatInvReq a false }) ∧
  (∀ (s : State) (a : Nat) (i : Inval) (d d' e : Dev), s.dev.xlat.invs.find? (fun i => i.part == a) = some i →
    d = s.dev.modXlat (fun z => { z with invs := z.invs.erase i }) →
    d' = d.tlbDrop a (fun e => i.covers e.ctx e.page.ava e.page.lg) →
    e = (d'.partCes a).foldl (fun d k => (d.sqcRecall s.bt k none i.coversLine).2) d' →
    exec (.invComplete a) s = .next { s with
      dev := ((d.invFrames a i).foldl (fun d f => if isDdr f.1 then d else d.backInv f.1 f.2) e).setReg .xlatInvDone a
        (BitVec.ofNat 64 i.token) })

/-- R361 to R364, R366, R367, R271: a packet of the stream that a window grants writes, reduces or reads the partition's memory, once,
and its PSN is recorded; a duplicate is acknowledged and has no effect; one that no window grants is refused with NACK and counted; a
response fills Local Store; an ACK retires what has arrived; a NACK sends again, ends the context or fails the command; a packet for
another node is dropped, one with an old epoch of ours is answered with EPOCH, and a newer epoch of the source fails the commands in
flight to it and restarts both streams. -/
def Obligations.FabricPackets : Prop :=
  (∀ (s : State) (k : Packet) (a : Nat), PacketAt s k a → (s.dev.peer a k.srcNode).duplicate k.psn = false →
    s.dev.windowGrants a k.srcNode k.addr k.payload.length 57 = true →
    exec (.putPacket k) s = .next { s with dev := ((s.dev.memPut k.addr k.payload).hintedFrom a k k.payload.length).accepted s.bt a k }) ∧
  (∀ (s : State) (k : Packet) (a : Nat) (d : Dev), PacketAt s k a → (s.dev.peer a k.srcNode).duplicate k.psn = false →
    s.dev.windowGrants a k.srcNode k.addr k.payload.length 57 = false → d = s.dev.fbump F.igfPeerStatRefused a 1 →
    exec (.putPacket k) s = .next { s with
      dev := (d.setPeer a k.srcNode ((d.peer a k.srcNode).arrive s.bt k.psn)).sendBare a opNack k.srcNode (leBytes 4 k.psn ++ [1]) }) ∧
  (∀ (s : State) (k : Packet) (a : Nat), PacketAt s k a → (s.dev.peer a k.srcNode).duplicate k.psn = true →
    exec (.putPacket k) s = .next { s with dev := s.dev.sendAck a k.srcNode } ∧
    exec (.redPacket k) s = .next { s with dev := s.dev.sendAck a k.srcNode } ∧
    exec (.getReq k) s = .next { s with dev := s.dev.sendAck a k.srcNode } ∧
    exec (.getResp k) s = .next { s with dev := s.dev.sendAck a k.srcNode }) ∧
  (∀ (s : State) (k : Packet) (a : Nat), PacketAt s k a → (s.dev.peer a k.srcNode).duplicate k.psn = false →
    s.dev.windowGrants a k.srcNode k.addr k.payload.length 58 = true → s.dev.poisoned k.addr k.payload.length = false →
    exec (.redPacket k) s = .next { s with
      dev := ((s.dev.reduceAt (if k.ef = 0 then 32 else 4) k.payload.length k.addr k.payload).hintedFrom a k k.payload.length).accepted s.bt a k }) ∧
  (∀ (s : State) (k : Packet) (a : Nat), PacketAt s k a → (s.dev.peer a k.srcNode).duplicate k.psn = false →
    s.dev.windowGrants a k.srcNode k.addr k.cmdLen 56 = true → s.dev.poisoned k.addr k.cmdLen = false →
    exec (.getReq k) s = .next { s with
      dev := ((s.dev.hintedFrom a k k.cmdLen).sendPkts s.bt a k.srcNode ((segments (k.cmdLen / 64 + 2) k.addr k.segOff
        (memReadBytes s.dev.mem k.addr k.cmdLen)).map (fun q => (opGetResp, { bareHdr k.srcNode q.2.2 with
          addr := q.1, cmdId := k.cmdId, segOff := q.2.1, cmdLen := k.cmdLen }))) none).accepted s.bt a k }) ∧
  (∀ (s : State) (k : Packet) (a : Nat) (c : Cmd) (y : Member), PacketAt s k a → (s.dev.peer a k.srcNode).duplicate k.psn = false →
    mapFind? s.dev.eng.cmds k.cmdId = some c → s.dev.member? c.l c.m = some y →
    (∃ g ∈ c.gets, g.1 = k.srcNode ∧ g.2.1 ≤ k.segOff ∧ k.segOff + k.payload.length ≤ g.2.1 + g.2.2) →
    exec (.getResp k) s = .next { s with
      dev := ((s.dev.lsWrite y (c.sd + k.segOff) k.payload).modEng (fun z => { z with cmds := mapModify z.cmds k.cmdId (fun c => { c with
        gets := takeGet c.gets k.srcNode k.segOff k.payload.length }) })).accepted s.bt a k }) ∧
  (∀ (s : State) (k : Packet) (a cum map : Nat), PacketAt s k a → cum = listNat k.payload 0 4 → map = listNat k.payload 4 32 →
    exec (.ackPacket k) s = .next { s with
      dev := Dev.drain s.bt a k.srcNode (s.dev.peer a k.srcNode).waiting.length (s.dev.setPeer a k.srcNode {
        s.dev.peer a k.srcNode with
        unacked := mapKeep (s.dev.peer a k.srcNode).unacked (fun psn _ =>
          !(decide (2 ^ 31 ≤ (2 ^ 32 + psn - cum) % 2 ^ 32) ||
            (decide ((2 ^ 32 + psn - cum) % 2 ^ 32 < 256) && bit map ((2 ^ 32 + psn - cum) % 2 ^ 32)))) }) }) ∧
  (∀ (s : State) (k : Packet) (a psn n : Nat) (q : Sent) (c : Cmd) (d : Dev), PacketAt s k a → psn = listNat k.payload 0 4 →
    mapFind? (s.dev.peer a k.srcNode).unacked psn = some q → q.cmd = some n → mapFind? s.dev.eng.cmds n = some c →
    d = s.dev.setPeer a k.srcNode { s.dev.peer a k.srcNode with
      unacked := mapErase (s.dev.peer a k.srcNode).unacked psn } →
    (listNat k.payload 4 1 = 1 → exec (.nackPacket k) s = .next { s with dev := d.violation s.bt c.l }) ∧
    (listNat k.payload 4 1 = 2 → exec (.nackPacket k) s = .next { s with dev := d.failCmd n .dataPoison }) ∧
    (listNat k.payload 4 1 = 0 → q.retx < s.dev.fget F.igfRetxLimit 0 →
      exec (.nackPacket k) s = .next { s with dev := s.dev.resend s.bt a k.srcNode psn q })) ∧
  (∀ (s : State) (k : Packet) (a r : Nat) (d : Dev), k.port < 8 → a = s.dev.partOfDie k.port → s.dev.fabDeaf a = false →
    k.dstNode = s.dev.nodeId a → (s.dev.peer a k.srcNode).epoch = some r → k.srcEpoch ≠ r →
    (2 ^ 32 + k.srcEpoch - r) % 2 ^ 32 < 2 ^ 31 → d = s.dev.failNode a k.srcNode .peerReset →
    exec (.epochPacket k) s = .next { s with
      dev := (d.setPeer a k.srcNode { (d.peer a k.srcNode).restart with epoch := some k.srcEpoch }).fbump F.igfPeerStatEpochsSeen a
        1 }) ∧
  (∀ (s : State) (k : Packet), k.dstNode ≠ s.dev.nodeId (s.dev.partOfDie k.port) →
    exec (.putPacket k) s = .next s ∧ exec (.redPacket k) s = .next s ∧ exec (.getReq k) s = .next s ∧
    exec (.getResp k) s = .next s ∧ exec (.ackPacket k) s = .next s ∧ exec (.nackPacket k) s = .next s ∧
    exec (.epochPacket k) s = .next s) ∧
  (∀ (s : State) (k : Packet) (a : Nat), k.port < 8 → a = s.dev.partOfDie k.port → s.dev.fabDeaf a = false →
    k.dstNode = s.dev.nodeId a → (s.dev.peer a k.srcNode).epoch = some k.srcEpoch → k.dstEpoch ≠ s.dev.epoch a →
    exec (.putPacket k) s = .next { s with dev := s.dev.sendBare a opEpoch k.srcNode [] })

/-- R354 to R356, R358, R361, R362, R374: 2 µs after the first packet not acknowledged an ACK goes out; a packet without an ACK for
RTO_US is sent again, and after GIVEUP_MS its commands fail with PEER_UNREACHABLE; a destination entry is written unless commands to its
node are in flight; a lane that fails is replaced by the spare lane of its port, or the port restarts on a half; a DOWN port comes up in
the widest form its lanes allow; a lane map is taken over. -/
def Obligations.FabricMaintenance : Prop :=
  (∀ (s : State) (a n : Nat), 0 < (s.dev.peer a n).owed → (s.dev.peer a n).since + 2000 ≤ s.bt →
    exec (.ackTimer a n) s = .next { s with
      dev := (s.dev.setPeer a n { s.dev.peer a n with owed := 0 }).sendBare a opAck n (s.dev.peer a n).ackBytes }) ∧
  (∀ (s : State) (a n : Nat), s.bt < (s.dev.peer a n).since + 2000 → exec (.ackTimer a n) s = .next s) ∧
  (∀ (s : State) (a n psn q : Nat) (x : Sent) (d : Dev), mapFind? (s.dev.peer a n).unacked psn = some x →
    x.last + s.dev.fget F.igfRetxRtoUs 0 * 1000 ≤ s.bt → x.retx < s.dev.fget F.igfRetxLimit 0 → s.dev.spray a n = (some q, d) →
    exec (.retransmitTimeout a n psn) s = .next { s with
      dev := ((d.setPeer a n { d.peer a n with
        unacked := mapPut (d.peer a n).unacked psn { x with last := s.bt, retx := x.retx + 1 } }).fbump F.igfPortStatRetx q 1).emitPkt a
          x.op q { x.pkt with retx := true } }) ∧
  (∀ (s : State) (a n : Nat) (d : Dev), (∃ x ∈ (s.dev.peer a n).unacked,
      x.2.first + s.dev.fget F.igfRetxGiveupMs 0 * 1000000 ≤ s.bt) → d = s.dev.failNode a n .peerUnreachable →
    exec (.giveUp a n) s = .next { s with
      dev := (d.setPeer a n { d.peer a n with txPsn := 0, waiting := [], unacked := [] }).fbump F.igfPeerStatGiveups a 1 }) ∧
  (∀ (s : State) (p : Party) (a n : Nat) (v : Word) (d : Dev), s.dev.writeOk p .igfDtData0 a v = true → bit v.toNat 7 = false →
    bits v.toNat 10 8 = 0 → n = s.dev.fget F.igfDtSelNode a → bit v.toNat 0 = true → s.dev.inFlight a n = [] →
    d = (s.dev.setReg .igfDtData0 a (s.dev.afterWrite p .igfDtData0 a v)).setReg .igfDtData0 a 0#64 →
    exec (.dtWrite p a v) s = .next { s with
      dev := d.setPeer a n { d.peer a n with word0 := v.toNat, epoch := none } }) ∧
  (∀ (s : State) (p : Party) (a n : Nat) (v : Word), s.dev.writeOk p .igfDtData0 a v = true → bit v.toNat 7 = false →
    bits v.toNat 10 8 = 0 → n = s.dev.fget F.igfDtSelNode a → bit v.toNat 0 = true → bit (s.dev.peer a n).word0 0 = true →
    s.dev.inFlight a n ≠ [] →
    exec (.dtWrite p a v) s = .next { s with dev := s.dev.refuse .igfDtData0 a true }) ∧
  (∀ (s : State) (p l n : Nat) (d : Dev) (x : FabPort), p < 8 → l < 8 → d = s.dev.fbump F.igfPortStatFcsErr p n → x = s.dev.fabPort p →
    l ∉ x.failed → 8 ∉ x.failed → x.spareFor = none → bit (d.fget F.igfPortStatusLanes p) l = true →
    d.fget F.igfPortStatusLink p = 2 → d.fon F.igfPortCfgSpareEn p = true → d.fon F.igfPortStatusHalf p = false →
    exec (.igsurenLaneFail p l n) s = .next { s with
      dev := (((d.setFabPort p { x with failed := x.failed ++ [l], spareFor := some l }).setPort p 2 0 (List.range 8)).fbump
        F.igfPortStatSwaps p 1).histAdd s.bt 1 3 9 (16 * p + l) }) ∧
  (∀ (s : State) (p l n : Nat) (d : Dev) (x : FabPort), p < 8 → l < 8 → d = s.dev.fbump F.igfPortStatFcsErr p n → x = s.dev.fabPort p →
    l ∉ x.failed → bit (d.fget F.igfPortStatusLanes p) l = true → d.fget F.igfPortStatusLink p = 2 →
    d.fon F.igfPortCfgSpareEn p = false →
    exec (.igsurenLaneFail p l n) s = .next { s with
      dev := (d.setFabPort p { x with failed := x.failed ++ [l] }).restartPort s.bt p }) ∧
  (∀ (s : State) (p : Nat), s.dev.fget F.igfPortStatusLink p = 0 → s.dev.fon F.igfPortCfgSpareEn p = false →
    exec (.fabricLinkRetry p 255) s = .next { s with
      dev := ((s.dev.setFabPort p { failed := [8], spareFor := none }).setPort p 2 0 (List.range 8)).drainAll s.bt (s.dev.partOfDie p) }) ∧
  (∀ (s : State) (p w : Nat), s.dev.fget F.igfPortStatusLink p ≠ 0 → exec (.fabricLinkRetry p w) s = .next s) ∧
  (∀ (s : State) (k : Packet) (m : Nat), k.port < 8 → s.dev.portUp k.port = true → s.dev.fon F.igfPortCfgSpareEn k.port = true →
    m = listNat k.payload 0 2 % 512 →
    exec (.laneMap k) s = .next { s with
      dev := (s.dev.fset F.igfPortStatusLanes k.port m).fset F.igfPortStatusSpareUsed k.port (b2n (bit m 8)) })

/-- R371 to R373, R386, R403: a pair whose cores disagree, that did not kick in time, or that read an uncorrectable error stops: it is
STOPPED, its handlers are abandoned, the stop is logged, an update in progress is undone, and its sources go to the lowest running pair,
which is told; with no pair left a warm reset follows. A pair kicks itself only; a STOPPED pair restarts and runs. -/
def Obligations.ArbiterPairs : Prop :=
  (∀ (s : State) (k j : Nat) (d e : Dev), k < 4 → s.dev.fget F.arbPairStatusState k ≠ pairStopped →
    d = (s.dev.fbump F.arbPairStatusMismatches k 1).fset F.arbPairStatusState k pairStopped →
    e = ((d.abandonHandlers k).tlog s.bt 11 0 none k).abortUpdate s.bt → e.lowestPair (fun _ => true) = some j →
    exec (.lockstepMismatch k) s = .next { s with
      dev := ((e.redirect k j).fset F.evcSrcCfgPair (srcPairStopped k) j).raise s.bt (srcPairStopped k) }) ∧
  (∀ (s : State) (k : Nat) (d e : Dev), k < 4 → s.dev.fget F.arbPairStatusState k ≠ pairStopped →
    d = (s.dev.fbump F.arbPairStatusMismatches k 1).fset F.arbPairStatusState k pairStopped →
    e = ((d.abandonHandlers k).tlog s.bt 11 0 none k).abortUpdate s.bt → e.lowestPair (fun _ => true) = none →
    exec (.lockstepMismatch k) s = .next { s with dev := e.modRes (fun z => { z with warmPending := true }) }) ∧
  (∀ (s : State) (k : Nat) (d : Dev), k < 4 → s.dev.fget F.arbPairStatusState k ≠ pairStopped →
    (s.dev.arbPair k).lastKick + s.dev.fget F.arbWdogPeriodMs 0 * 1000000 ≤ s.bt →
    d = (s.dev.fbump F.arbPairStatusWdogMisses k 1).raise s.bt (srcPairWatchdog k) →
    exec (.pairWatchdog k) s = .next { s with dev := d.stopPair s.bt k }) ∧
  (∀ (s : State) (k : Nat), s.bt < (s.dev.arbPair k).lastKick + s.dev.fget F.arbWdogPeriodMs 0 * 1000000 →
    exec (.pairWatchdog k) s = .next s) ∧
  (∀ (s : State) (k : Nat), k < 4 → s.dev.fget F.arbPairStatusState k ≠ pairStopped →
    exec (.sramUncorrectable k none) s = .next { s with dev := s.dev.stopPair s.bt k }) ∧
  (∀ (s : State) (k i : Nat), mapHas s.dev.arb.tlRing i = true →
    exec (.sramUncorrectable k (some i)) s = .next { s with
      dev := s.dev.modArb (fun z => { z with tlRing := mapPut z.tlRing i {} }) }) ∧
  (∀ (s : State) (k : Nat) (v : Word) (d : Dev), s.dev.writeOk (.firmware k) .arbPairCtrl k v = true → bit v.toNat 0 = true →
    bit v.toNat 1 = false → d = s.dev.setReg .arbPairCtrl k (s.dev.afterWrite (.firmware k) .arbPairCtrl k v) →
    exec (.kick (.firmware k) k v) s = .next { s with dev := d.setArbPair k { d.arbPair k with lastKick := s.bt } }) ∧
  (∀ (s : State) (p : Party) (k : Nat) (v : Word), s.dev.writeOk p .arbPairCtrl k v = true → bit v.toNat 0 = true → p ≠ .firmware k →
    exec (.kick p k v) s = .next { s with dev := s.dev.refuse .arbPairCtrl k false }) ∧
  (∀ (s : State) (p : Party) (k : Nat) (v : Word) (d : Dev), s.dev.writeOk p .arbPairCtrl k v = true → bit v.toNat 0 = false →
    bit v.toNat 1 = true → s.dev.fget F.arbPairStatusState k = pairStopped →
    d = (s.dev.setReg .arbPairCtrl k (s.dev.afterWrite p .arbPairCtrl k v)).fset F.arbPairStatusState k pairRunning →
    exec (.restart p k v) s = .next { s with dev := d.setArbPair k { d.arbPair k with lastKick := s.bt } }) ∧
  (∀ (s : State) (p : Party) (k : Nat) (v : Word), s.dev.writeOk p .arbPairCtrl k v = true → bit v.toNat 1 = true →
    s.dev.fget F.arbPairStatusState k ≠ pairStopped →
    exec (.restart p k v) s = .next { s with dev := s.dev.refuse .arbPairCtrl k false })

/-- R376 to R381, R383, R385: an edge of a source makes it pending with the time of its first edge and counts it, for EVC.SET as for a
wire; a running pair takes the next source of R381's order, whose pending bit and counter clear, and its CSRs name it; a completion
ends the newest handler, and one that names another source is counted, logged and told to another pair; the log unit writes the oldest
queued entry with the next SEQ and notifies for severity 3 and above. -/
def Obligations.EventsAndLog : Prop :=
  (∀ (s : State) (n : Nat), n ≤ 1345 ∨ (1347 ≤ n ∧ n ≤ 1354) → exec (.sourceEdge n) s = .next { s with dev := s.dev.raise s.bt n }) ∧
  (∀ (s : State) (n : Nat), n = 1346 ∨ 1354 < n → exec (.sourceEdge n) s = .next s) ∧
  (∀ (s : State) (p : Party) (v : Word), s.dev.writeOk p .evcSet 0 v = true → bits v.toNat 10 0 < 1984 →
    exec (.evcSet p v) s = .next { s with
      dev := (s.dev.setReg .evcSet 0 (s.dev.afterWrite p .evcSet 0 v)).raise s.bt (bits v.toNat 10 0) }) ∧
  (∀ (s : State) (p : Party) (v : Word), s.dev.writeOk p .evcSet 0 v = true → 1984 ≤ bits v.toNat 10 0 →
    exec (.evcSet p v) s = .next { s with dev := s.dev.refuse .evcSet 0 false }) ∧
  (∀ (s : State) (k n : Nat) (x : EvSrc) (d e : Dev), s.dev.pairRuns k = true → s.dev.evcNext s.bt k = some n → x = s.dev.evSrc n →
    d = s.dev.setSrc n {} →
    e = (d.setArbPair k { d.arbPair k with
      handlers := { src := n, fast := s.dev.fon F.evcSrcCfgClass n, bt := x.first } :: (d.arbPair k).handlers
      evcsrc := BitVec.ofNat 64 (n + b2n (s.dev.fon F.evcSrcCfgClass n) * 2 ^ 12 + x.count * 2 ^ 16)
      evcbt := BitVec.ofNat 64 x.first }).fbump F.evcStatDelivered 0 1 →
    exec (.eventDelivery k) s = .next { s with dev := if s.dev.evcGroup s.bt n = 2 then e.fbump F.evcStatAged 0 1 else e }) ∧
  (∀ (s : State) (k : Nat), s.dev.pairRuns k = true → s.dev.evcNext s.bt k = none → exec (.eventDelivery k) s = .next s) ∧
  (∀ (s : State) (k n : Nat) (h : Handler) (hs : List Handler), k < 4 → s.dev.pairRuns k = true → (s.dev.arbPair k).handlers = h :: hs → h.src = n →
    exec (.evcComplete k n) s = .next { s with dev := s.dev.setArbPair k { s.dev.arbPair k with handlers := hs } }) ∧
  (∀ (s : State) (k n : Nat), s.dev.pairRuns k = false → exec (.evcComplete k n) s = .next s) ∧
  (∀ (s : State) (k n j : Nat) (h : Handler) (hs : List Handler) (d : Dev), k < 4 → s.dev.pairRuns k = true → (s.dev.arbPair k).handlers = h :: hs → h.src ≠ n →
    d = (s.dev.fbump F.evcStatOrderErr 0 1).tlog s.bt 11 1 none k → d.lowestPair (fun j => j != k) = some j →
    exec (.evcComplete k n) s = .next { s with
      dev := ((d.fset F.evcSrcCfgClass srcEvcOrder 0).fset F.evcSrcCfgPair srcEvcOrder j).raise s.bt srcEvcOrder }) ∧
  (∀ (s : State) (e : TEntry) (q : List TEntry) (n : Nat) (d : Dev), s.dev.arb.tlQueue = e :: q → n = s.dev.fget F.arbTlTailSeq 0 →
    mapHas s.dev.arb.tlRing (n % 65536) = false →
    d = (s.dev.modArb (fun z => { z with tlQueue := q, tlRing := mapPut z.tlRing (n % 65536) { e with seq := n } })).fset F.arbTlTailSeq 0
      (n + 1) →
    exec .troubleLogWrite s = .next { s with dev := if 3 ≤ e.sev then d.notify s.bt e.part else d }) ∧
  (∀ (s : State), s.dev.arb.tlQueue = [] → exec .troubleLogWrite s = .next s)

/-- R408 to R411, R413, R414, R418, R429, R439: a launch past its bound, a member without progress that does not wait in a way R410
allows, and
a local command that does not complete are hangs, counted and logged; in a partition of 4 or 8 dies every context with a launch on a
hung CE becomes a suspect and the hung CEs are withheld, in a smaller one the partition is reset; a hang of the CE that runs a replay
makes its context guilty, one of a shadow run discards the shadow and screens its spare. -/
def Obligations.HangDetection : Prop :=
  (∀ (s : State) (l : Nat) (d : Dev) (v : Event), wheelNext s.bt (s.dev.wheel (s.dev.launchWheel l)) = some v → v.ev = .watchdog l →
    s.dev.wheelCount s.bt (s.dev.launchWheel l) < 64 → d = s.dev.eventDone s.bt (s.dev.launchWheel l) v →
    exec (.launchWatchdog l) s = .next { s with dev := d.hang s.bt l 0 (d.launchCes l) 0x01 F.resHangStatBound }) ∧
  (∀ (s : State) (l : Nat), s.dev.fire s.bt (s.dev.launchWheel l) (.watchdog l) = none → exec (.launchWatchdog l) s = .next s) ∧
  (∀ (s : State) (l m : Nat) (x : Launch) (y : Member) (w : Nat), s.dev.launch? l = some x → s.dev.member? l m = some y →
    x.st = .running → y.ended = false → w = s.dev.fget F.resWdogCfgNoprogMs (s.dev.partOfCtx x.ctx) * 1000000 →
    y.progress + w ≤ s.bt → s.dev.waitsWell s.bt l m y w = false →
    exec (.noProgress l m) s = .next { s with dev := s.dev.hang s.bt l m (s.dev.launchCes l) 0x02 F.resHangStatNoprog }) ∧
  (∀ (s : State) (l m : Nat) (x : Launch) (y : Member), s.dev.launch? l = some x → s.dev.member? l m = some y →
    s.dev.waitsWell s.bt l m y (s.dev.fget F.resWdogCfgNoprogMs (s.dev.partOfCtx x.ctx) * 1000000) = true →
    exec (.noProgress l m) s = .next s) ∧
  (∀ (s : State) (n : Nat) (c : Cmd) (y : Member), mapFind? s.dev.eng.cmds n = some c → s.dev.member? c.l c.m = some y →
    s.dev.localCmd n c = true → c.bt + s.dev.fget F.resTqCfgLocalMs (s.dev.partOfDie (y.ce / 26)) * 1000000 ≤ s.bt →
    exec (.tqTimeout n) s = .next { s with dev := s.dev.hang s.bt c.l c.m [y.ce] 0x03 F.resHangStatTqTimeout }) ∧
  (∀ (s : State) (n : Nat) (c : Cmd), mapFind? s.dev.eng.cmds n = some c → s.dev.localCmd n c = false →
    exec (.tqTimeout n) s = .next s) ∧
  (∀ (bt l m k code a : Nat) (ces : List Nat) (cnt : Fld) (x : Launch) (d e : Dev), a = d.partOfDie (k / 26) →
    d.launch? l = some x → d.quiet a = false → x.shadowOf = none →
    e = (d.fbump cnt a 1).resLog bt code 2 (some a) (d.ceUnit k) [x.tag, resData1 m x.ctx (d.suspects a),
      ((d.member? l m).map (fun y => y.progress)).getD bt, rungData (d.fget F.resEscCfgCtxMs 0) 0x11] x.ctx →
    2 < d.dies a → (e.episode? a).bind (fun p => p.current) = none →
    d.hang bt l m (k :: ces) code cnt = (k :: ces).foldl (fun q k => q.holdCe a k) (e.suspend bt a
      (((k :: ces).flatMap (fun k => e.resident k)).filterMap (fun r => (e.launch? r.1).map (fun y => y.ctx))))) ∧
  (∀ (bt l m k code a : Nat) (ces : List Nat) (cnt : Fld) (x : Launch) (d e : Dev), a = d.partOfDie (k / 26) →
    d.launch? l = some x → d.quiet a = false → x.shadowOf = none →
    e = (d.fbump cnt a 1).resLog bt code 2 (some a) (d.ceUnit k) [x.tag, resData1 m x.ctx (d.suspects a),
      ((d.member? l m).map (fun y => y.progress)).getD bt, rungData (d.fget F.resEscCfgPartMs 0) 0x13] x.ctx →
    d.dies a ≤ 2 → (e.episode? a).bind (fun p => p.current) = none →
    d.hang bt l m (k :: ces) code cnt = e.askPartReset bt a) ∧
  (∀ (bt l m k code a c : Nat) (ces : List Nat) (cnt : Fld) (x : Launch) (d e : Dev), a = d.partOfDie (k / 26) →
    d.launch? l = some x → d.quiet a = false → x.shadowOf = none →
    e = (d.fbump cnt a 1).resLog bt code 2 (some a) (d.ceUnit k) [x.tag, resData1 m x.ctx (d.suspects a),
      ((d.member? l m).map (fun y => y.progress)).getD bt, rungData (d.fget F.resEscCfgCtxMs 0) 0x11] x.ctx →
    2 < d.dies a → (e.episode? a).bind (fun p => p.current) = some c → e.onAny (k :: ces) c = true →
    d.hang bt l m (k :: ces) code cnt = e.guilty bt a c) ∧
  (∀ (bt l m k code a o : Nat) (ces : List Nat) (cnt : Fld) (x : Launch) (d e : Dev), a = d.partOfDie (k / 26) →
    d.launch? l = some x → d.quiet a = false → x.shadowOf = some o →
    e = (d.fbump cnt a 1).resLog bt code 2 (some a) (d.ceUnit k) [x.tag, resData1 m x.ctx (d.suspects a),
      ((d.member? l m).map (fun y => y.progress)).getD bt, rungData (d.fget F.resEscCfgCtxMs 0) 0x11] x.ctx →
    2 < d.dies a → d.hang bt l m (k :: ces) code cnt = e.shadowHang bt o (k :: ces))

/-- R48, R415 to R422: a context reset removes every launch of every suspect; the next suspect is replayed, its removed launches queued
again, unless its policy is NOREPLAY, a removed launch has NRS set, or a journal record is poisoned; a missed deadline resets the CEs
that still hold suspect work; an engine reset clears the CE, removes its launches, makes their contexts suspects and gives its logical
number to a free spare at once, or leaves it waiting; a missed engine deadline resets the partition. -/
def Obligations.ContextReplay : Prop :=
  (∀ (s : State) (a : Nat) (e : Episode) (d d' : Dev), s.dev.episode? a = some e → e.removing = true → s.dev.quiet a = false →
    d = ((e.suspects ++ e.joined).flatMap (fun c => s.dev.startedOf c)).foldl (fun d l => d.resetLaunch s.bt l) s.dev →
    d' = (e.suspects ++ e.joined).foldl (fun d c => d.resetCaches c) d →
    exec (.contextReset a) s = .next { s with
      dev := (d'.setEpisode a { e with removing := false, suspects := e.suspects ++ e.joined, joined := [] }).endEpisode s.bt a }) ∧
  (∀ (s : State) (a : Nat), s.dev.episode? a = none → exec (.contextReset a) s = .next s) ∧
  (∀ (s : State) (a c : Nat) (rest : List Nat) (e : Episode) (d : Dev), s.dev.episode? a = some e → e.suspects = c :: rest →
    e.removing = false → e.engine = [] → e.current = none → s.dev.quiet a = false → (s.dev.ctx c).noReplay = false →
    (s.dev.removedOf c).any (fun l => l.2.nrs) = false →
    d = s.dev.modEng (fun z => { z with launches := mapAll z.launches (fun _ (l : Launch) =>
      if l.ctx = c ∧ l.st = LaunchSt.removed then { l with st := .queued, replay := true, degrade := 0 } else l) }) →
    ((d.modCtx c (fun x => { x with st := .replaying })).setEpisode a { e with suspects := rest, current := some c }).replayLeft c = true →
    exec (.replayStart a []) s = .next { s with
      dev := (d.modCtx c (fun x => { x with st := .replaying })).setEpisode a { e with suspects := rest, current := some c } }) ∧
  (∀ (s : State) (a c : Nat) (rest bad : List Nat) (e : Episode), s.dev.episode? a = some e → e.suspects = c :: rest →
    e.removing = false → e.engine = [] → e.current = none → s.dev.quiet a = false → (s.dev.ctx c).noReplay = true →
    exec (.replayStart a bad) s = .next { s with
      dev := ((s.dev.noReplay s.bt a c).giveUpRuns s.bt (s.dev.removedOf c)).readmit s.bt a c }) ∧
  (∀ (s : State) (a c : Nat) (rest bad : List Nat) (e : Episode), s.dev.episode? a = some e → e.suspects = c :: rest →
    e.removing = false → e.engine = [] → e.current = none → s.dev.quiet a = false → (s.dev.ctx c).noReplay = false →
    (s.dev.removedOf c).any (fun l => l.2.nrs) = true →
    exec (.replayStart a bad) s = .next { s with
      dev := ((s.dev.noReplay s.bt a c).terminate s.bt c none).endEpisode s.bt a }) ∧
  (∀ (s : State) (a : Nat) (e : Episode) (left : List Nat), s.dev.episode? a = some e → e.removing = true → e.engine = [] →
    left = ((e.suspects ++ e.joined).flatMap (fun c => (s.dev.startedOf c).flatMap (fun l => s.dev.launchCes l))).foldl listAdd [] →
    left ≠ [] → e.start + s.dev.fget F.resEscCfgCtxMs 0 * 1000000 ≤ s.bt →
    exec (.ctxDeadline a) s = .next { s with
      dev := (s.dev.setEpisode a { e with engine := left, engStart := some s.bt }).resLog s.bt 0x15 2 (some a) 0xFFFF
        [0, 0, e.start, rungData (s.dev.fget F.resEscCfgCtxMs 0) 0x11] }) ∧
  (∀ (s : State) (a : Nat), s.dev.episode? a = none → exec (.ctxDeadline a) s = .next s) ∧
  (∀ (s : State) (k a : Nat) (e : Episode) (d f : Dev), a = s.dev.partOfDie (k / 26) → s.dev.episode? a = some e →
    e.engine = [k] → e.current = none → s.dev.quiet a = false → s.dev.resident k = [] →
    d = (s.dev.fbump F.resReplayStatEngineResets a 1).resLog s.bt 0x11 2 (some a) (s.dev.ceUnit k)
      [0, 0, s.bt, rungData (s.dev.fget F.resEscCfgEngMs 0) 0x12] →
    d.resident k = [] →
    f = ((d.modCe k Ce.cleared).setTlb (16 + k) []).setEpisode a
      { e with engine := [], engStart := none, hung := listAdd e.hung k, cleared := listAdd e.cleared k } →
    ((d.modCe k Ce.cleared).setTlb (16 + k) []).episode? a = some e →
    (∀ (n j : Nat), (s.dev.ce k).logical = some n → f.safe = false → f.spareOf (k / 26) = some j →
      exec (.engineReset k) s = .next { s with
        dev := ((f.castle s.bt k j).modCe k (fun c => { c with st := .spareHeld, rank := 2 })).endEpisode s.bt a }) ∧
    (∀ (n j : Nat), (s.dev.ce k).logical = some n → f.claimSpare (k / 26) 2 k = .wakes j →
      exec (.engineReset k) s = .next { s with
        dev := (((((f.modCe k (fun c => { c with logical := none })).modRes
          (fun z => { z with waiting := z.waiting ++ [(n, k)] })).wake (ceDomain j)).modCe k
            (fun c => { c with st := .spareHeld, rank := 2 })).endEpisode s.bt a) }) ∧
    (∀ (n j : Nat) (c : SpareClaim), (s.dev.ce k).logical = some n → f.claimSpare (k / 26) 2 k = c →
      c = .waits j ∨ c = .refused ∨ c = .none →
      exec (.engineReset k) s = .next { s with
        dev := ((((f.modCe k (fun c => { c with logical := none })).modRes
          (fun z => { z with waiting := z.waiting ++ [(n, k)] })).resLog s.bt 0x31 2 (some a) n [0, 0, s.bt, 0]).modCe k
            (fun c => { c with st := .spareHeld, rank := 2 })).endEpisode s.bt a })) ∧
  (∀ (s : State) (a t : Nat) (e : Episode), s.dev.episode? a = some e → e.engine ≠ [] → e.engStart = some t →
    t + s.dev.fget F.resEscCfgEngMs 0 * 1000000 ≤ s.bt →
    exec (.engDeadline a) s = .next { s with
      dev := (s.dev.resLog s.bt 0x15 4 (some a) 0xFFFF [0, 0, t, rungData (s.dev.fget F.resEscCfgEngMs 0) 0x12]).askPartReset s.bt a }) ∧
  (∀ (s : State) (a : Nat), s.dev.episode? a = none → exec (.engDeadline a) s = .next s)

/-- R366, R375, R399, R421, R423 to R425: a partition reset that is not held runs its steps 1 to 4, then 5 and 6, after which the
partition's epoch rises; a held one runs once fewer than PART_MAX were counted in the last minute; a missed partition deadline asks for
a chip warm reset, which tells every port, logs, keeps what R399 lists, and becomes a power-cycle request when the device has had
WARM_MAX of them within the hour; the end of a warm reset starts the operating systems; a missed warm deadline asks for a power cycle,
which firmware records before it drives POWER_CYCLE_REQ_N. -/
def Obligations.ResetLadder : Prop :=
  (∀ (s : State) (a : Nat) (r : PartReset) (d e f : Dev), mapFind? s.dev.res.parts a = some r → r.held = false → r.wiped = false →
    d = ((s.dev.quiesce s.bt a).dropPart a).tlbDrop a (fun _ => true) →
    e = ((((d.partCes a).filter (fun k => !mapHas d.res.screens k)).foldl (fun d k => d.modCe k Ce.cleared) d).resetHarts a).fabReset a →
    f = (e.resetRegs (inPartition a) false).fset F.hbmcTourStatusState a 0 →
    exec (.partitionReset a) s = .next { s with
      dev := ((f.fset F.xlatFqTailCount a (f.fget F.xlatFqHeadCount a)).wipeHbm a).modRes
        (fun z => { z with parts := mapPut z.parts a { r with wiped := true } }) }) ∧
  (∀ (s : State) (a : Nat), mapFind? s.dev.res.parts a = none → exec (.partitionReset a) s = .next s) ∧
  (∀ (s : State) (a : Nat) (r : PartReset), mapFind? s.dev.res.parts a = some r → r.wiped = true →
    exec (.partitionResetDone a) s = .next { s with
      dev := (((s.dev.fillDdr a).startKept s.bt a).modRes (fun z => { z with parts := mapErase z.parts a })).announceEpoch a }) ∧
  (∀ (s : State) (a : Nat) (r : PartReset) (recent : List (Nat × Nat)) (d : Dev), mapFind? s.dev.res.parts a = some r → r.held = true →
    recent = s.dev.arb.partResets.filter (fun r => decide (s.bt < r.2 + 60 * 10 ^ 9)) →
    (recent.filter (fun r => r.1 == a)).length < s.dev.fget F.arbEscLimitPartMax 0 →
    d = (s.dev.modRes (fun z => { z with parts := mapPut z.parts a { start := s.bt } })).modArb
      (fun z => { z with partResets := recent ++ [(a, s.bt)] }) →
    exec (.resetHoldExpiry a) s = .next { s with
      dev := d.resLog s.bt 0x12 4 (some a) 0xFFFF [0, 0, s.bt, rungData (d.fget F.resEscCfgPartMs 0) 0x13] }) ∧
  (∀ (s : State) (a : Nat) (r : PartReset), mapFind? s.dev.res.parts a = some r → r.held = false → r.wiped = false →
    r.start + s.dev.fget F.resEscCfgPartMs 0 * 1000000 ≤ s.bt →
    exec (.partDeadline a) s = .next { s with
      dev := (s.dev.resLog s.bt 0x15 5 (some a) 0xFFFF [0, 0, r.start, rungData (s.dev.fget F.resEscCfgPartMs 0) 0x13]).modRes
        (fun z => { z with warmPending := true }) }) ∧
  (∀ (s : State) (a : Nat), mapFind? s.dev.res.parts a = none → exec (.partDeadline a) s = .next s) ∧
  (∀ (s : State) (h : BitVec 384) (recent : List Nat) (d e : Dev), s.dev.res.warmPending = true → s.dev.res.cycle = false →
    recent = s.dev.arb.warmResets.filter (fun t => decide (s.bt < t + 3600 * 10 ^ 9)) →
    d = s.dev.modArb (fun z => { z with warmResets := recent }) → recent.length < d.fget F.arbEscLimitWarmMax 0 →
    e = ((((d.msixPorts (fun _ => true)).resLog s.bt 0x13 5 none 0xFFFF
      [0, 0, s.bt, rungData (d.fget F.resEscCfgWarmMs 0) 0x14]).modArb
        (fun z => { z with warmResets := recent ++ [s.bt] })).warmClear s.bt) → h = e.sec.meas4 →
    exec (.chipWarmReset h) s = .next { s with dev := e.modRes (fun z => { z with warm := some s.bt }) }) ∧
  (∀ (s : State) (h : BitVec 384) (recent : List Nat) (d : Dev), s.dev.res.warmPending = true → s.dev.res.cycle = false →
    recent = s.dev.arb.warmResets.filter (fun t => decide (s.bt < t + 3600 * 10 ^ 9)) →
    d = s.dev.modArb (fun z => { z with warmResets := recent }) → d.fget F.arbEscLimitWarmMax 0 ≤ recent.length →
    exec (.chipWarmReset h) s = .next { s with
      dev := (d.resLog s.bt 0x17 5 none 0xFFFF [0, 0, s.bt, 0]).modRes
        (fun z => { z with warmPending := false, cycleReq := some 0x17 }) }) ∧
  (∀ (s : State) (t : Nat) (d : Dev), s.dev.res.warm = some t →
    d = (s.dev.modRes (fun z => { z with warm := none })).setBoot 5 0 (s.dev.modRes (fun z => { z with warm := none })).safe
      (s.dev.modRes (fun z => { z with warm := none })).sec.fromFlash →
    exec .warmResetDone s = .next { s with
      dev := d.parts.foldl (fun d a => (d.startKept s.bt a).announceEpoch a) d }) ∧
  (∀ (s : State), s.dev.res.warm = none → exec .warmResetDone s = .next s) ∧
  (∀ (s : State) (t : Nat), s.dev.res.warm = some t → t + s.dev.fget F.resEscCfgWarmMs 0 * 1000000 ≤ s.bt →
    s.dev.res.cycleReq = none →
    exec .warmDeadline s = .next { s with
      dev := (s.dev.resLog s.bt 0x15 5 none 0xFFFF [0, 0, t, rungData (s.dev.fget F.resEscCfgWarmMs 0) 0x14]).modRes
        (fun z => { z with cycleReq := some 0x15 }) }) ∧
  (∀ (s : State) (c : Nat), s.dev.res.cycleReq = some c →
    exec .powerCycle s = .next { s with
      dev := (((s.dev.histAdd s.bt 1 (11 + Config.powerCycleKind) 0 0 false (Config.powerCycleValue c)).resLog s.bt 0x14 5 none 0xFFFF
        [0, 0, s.bt, 0]).emit (.pin pinPowerCycle false)).modRes
          (fun z => { z with cycleReq := none, cycle := true, warmPending := false }) }) ∧
  (∀ (s : State), s.dev.res.cycleReq = none → exec .powerCycle s = .next s)

/-- R26, R432 to R434, R446, R447: at a slot of the Arbiter wheel for screening the CE whose turn it is goes out by planned castling,
waits for a spare that a lower rank gives back, is refused with CONFLICT when equal or higher ranks hold the spares, or is
screened where it stands if it is a free spare; a phase ends at its time, heating also at its temperature; the end of phase 4 gives
the verdict, PASS when both passes match, and a screening that hangs gives HANG; a verdict is logged and recorded, a CE that passes
becomes a free spare, one that fails is screened again at once. -/
def Obligations.Screening : Prop :=
  (∀ (s : State) (k n : Nat) (d : Dev), s.dev.slotDue s.bt 8 1 = some n → s.dev.fireSlot s.bt 8 n 1 = some d → k < 208 →
    d.fon F.resScrCfgEn 0 = true → d.quiet (d.partOfDie (k / 26)) = false → d.screensOn (k / 26) < d.fget F.resScrCfgPerDie 0 →
    d.screenDue s.bt k = true →
    ((d.ce k).st = .active → d.safe = false → (d.spareOf (k / 26)).isSome = true →
      exec (.screeningWindow k) s = .next { s with dev := d.castleOut s.bt k }) ∧
    ((d.ce k).st = .active → d.claimSpare (k / 26) 2 k = .refused →
      exec (.screeningWindow k) s = .next { s with dev := d.refuse .resCfgErr 0 true }) ∧
    (∀ j, (d.ce k).st = .active → d.claimSpare (k / 26) 2 k = .waits j →
      exec (.screeningWindow k) s = .next { s with dev := d.modRes (fun z => { z with toScreen := listAdd z.toScreen k }) }) ∧
    ((d.ce k).st = .spareFree → d.domOn (ceDomain k) = true → d.safe = false →
      exec (.screeningWindow k) s = .next { s with dev := d.beginScreen s.bt k false })) ∧
  (∀ (s : State) (k : Nat), s.dev.slotDue s.bt 8 1 = none → exec (.screeningWindow k) s = .next s) ∧
  (∀ (s : State) (k t : Nat) (r : PassResult) (x : Screen) (bad : Bool), mapFind? s.dev.res.screens k = some x →
    x.phase = 1 ∧ bad = x.bad ∨ x.phase = 2 ∧ bad = (r == .differs) ∨ x.phase = 3 ∧ bad = x.bad ∧ s.dev.fget F.resScrCfgTempC 0 ≤ t →
    x.since + phaseNs x.phase ≤ s.bt ∨ x.phase = 3 →
    exec (.screeningPhaseEnd k r t) s = .next { s with
      dev := s.dev.modRes (fun z => { z with screens := mapPut z.screens k { x with phase := x.phase + 1, since := s.bt, bad } }) }) ∧
  (∀ (s : State) (k t : Nat) (r : PassResult) (x : Screen), mapFind? s.dev.res.screens k = some x → x.phase ≠ 3 →
    s.bt < x.since + phaseNs x.phase → exec (.screeningPhaseEnd k r t) s = .next s) ∧
  (∀ (s : State) (k t : Nat) (r : PassResult) (x : Screen) (v : Nat), mapFind? s.dev.res.screens k = some x → x.phase = 4 →
    x.since + 24000000000 ≤ s.bt →
    (if x.bad then v = verdictNominal else if r = .differs then v = verdictCorner else v = verdictPass) →
    exec (.screeningPhaseEnd k r t) s = .next { s with dev := s.dev.verdictOf s.bt k x v }) ∧
  (∀ (s : State) (k n : Nat) (x : Screen) (d : Dev), s.dev.slotDue s.bt 8 2 = some n → s.dev.fireSlot s.bt 8 n 2 = some d →
    mapFind? d.res.screens k = some x →
    exec (.screenWatchdog k) s = .next { s with dev := d.verdictOf s.bt k x verdictHang }) ∧
  (∀ (s : State) (k : Nat), s.dev.slotDue s.bt 8 2 = none → exec (.screenWatchdog k) s = .next s) ∧
  (∀ (bt k : Nat) (d : Dev) (x : Screen), d.verdictOf bt k x verdictPass =
    (((d.resLog bt 0x40 0 (some (d.partOfDie (k / 26))) (d.ceUnit k) [0, 0, bt, 0]).histAdd bt 1 1 0 k).endScreen bt k).passed bt k) ∧
  (∀ (bt k v : Nat) (d e : Dev) (x : Screen), v = verdictNominal ∨ v = verdictHang → x.second = false →
    e = ((d.resLog bt 0x41 1 (some (d.partOfDie (k / 26))) (d.ceUnit k) [0, 0, bt, v]).histAdd bt 1 1 1 k).endScreen bt k →
    e.permanent bt 1 k = false → d.verdictOf bt k x v = e.beginScreen bt k true)

/-- R437 to R441: when both runs of a sampled launch have ended with equal digests the held completion is released and the spare
freed; with different digests the launch is replayed, and the replay settles which CE is screened or ends the launch with MISCOMPARE;
a digest pass writes RESULT and LAST_BT of the entry whose turn it is, unless a wipe is pending; a range in DDR is first read by its
die's mover at background class (R204). -/
def Obligations.ShadowAndDigests : Prop :=
  (∀ (s : State) (l h k : Nat) (x y : Launch) (ks : List Nat) (d : Dev), s.dev.launch? l = some x → x.st = .done → x.shadowOf = none →
    x.settle = none → x.shadow = some h → s.dev.launch? h = some y → y.st = .done → y.oldCes = ks ++ [k] →
    d = s.dev.fbump F.resShadowStatSampled (s.dev.partOfCtx x.ctx) 1 →
    (x.digests = y.digests →
    exec (.shadowCompare l) s = .next { s with dev := ((d.endShadow l h).freeSpares s.bt [k]).releaseRun s.bt l }) ∧
    (x.digests ≠ y.digests → exec (.shadowCompare l) s = .next { s with
      dev := d.modLaunch l (fun z => { z with
        st := .queued, settle := some (x.digests, y.digests), digests := [], oldCes := z.oldCes ++ [k], degrade := 0 }) })) ∧
  (∀ (s : State) (l h k0 k1 k2 : Nat) (ks o p : List Nat) (x : Launch) (d : Dev), s.dev.launch? l = some x → x.st = .done →
    x.shadowOf = none → x.settle = some (o, p) → x.oldCes = ks ++ [k0, k1, k2] → x.shadow = some h → d = s.dev.endShadow l h →
    (x.digests = o → exec (.shadowCompare l) s = .next { s with
      dev := ((((d.fbump F.resShadowStatSettled (s.dev.partOfCtx x.ctx) 1).resLog s.bt 0x43 1 (some (s.dev.partOfCtx x.ctx))
        ((d.fbump F.resShadowStatSettled (s.dev.partOfCtx x.ctx) 1).ceUnit k1) [x.tag, resData1 0 x.ctx 0, s.bt, 4]
        x.ctx).histAdd s.bt 1 1 4 k1).sendToScreen s.bt k1).releaseRun s.bt l }) ∧
    (x.digests ≠ o → x.digests = p → exec (.shadowCompare l) s = .next { s with
      dev := ((((d.fbump F.resShadowStatSettled (s.dev.partOfCtx x.ctx) 1).resLog s.bt 0x43 1 (some (s.dev.partOfCtx x.ctx))
        ((d.fbump F.resShadowStatSettled (s.dev.partOfCtx x.ctx) 1).ceUnit k0) [x.tag, resData1 0 x.ctx 0, s.bt, 3]
        x.ctx).wrongCe s.bt k0).freeSpares s.bt [k1]).releaseRun s.bt l }) ∧
    (x.digests ≠ o → x.digests ≠ p → exec (.shadowCompare l) s = .next { s with
      dev := (((x.outs.foldl (fun d r => d.memFree r.1 r.2) ((d.fbump F.resShadowStatMiscompares (s.dev.partOfCtx x.ctx) 1).resLog s.bt
        0x44 2 (some (s.dev.partOfCtx x.ctx)) ((d.fbump F.resShadowStatMiscompares (s.dev.partOfCtx x.ctx) 1).ceUnit k0)
        [x.tag, resData1 0 x.ctx 0, s.bt, 3] x.ctx)).wrongCe s.bt k1).wrongCe s.bt k0).completeLaunch s.bt l
          (x.final.first .miscompare) })) ∧
  (∀ (s : State) (l : Nat) (x : Launch), s.dev.launch? l = some x → x.st ≠ .done → exec (.shadowCompare l) s = .next s) ∧
  (∀ (s : State) (a e at_ w0 w1 r : Nat) (d : Dev), e < s.dev.fget F.resDigCfgCount a → e = mapGet 0 s.dev.res.digests a → e ≠ 0 →
    s.dev.quiet a = false → s.dev.tier.wipes.any (fun w => w.2.part == a) = false →
    at_ = s.dev.fget F.resDigBaseAddr a * 32 + 32 * e → w0 = memNat s.dev.mem at_ 8 → w1 = memNat s.dev.mem (at_ + 8) 8 →
    r = s.dev.digestResult a (bits w0 47 0) w0 w1 (memNat s.dev.mem (at_ + 16) 8) →
    s.dev.tier.moves.find? (fun m => m.2.obj == .digest a e) = none →
    512 * bits w1 31 0 = 0 ∨ s.dev.inDdr a (bits w0 47 0) (512 * bits w1 31 0) = false →
    d = (((s.dev.memPut (at_ + 8) (leBytes 8 (w1 - bits w1 34 32 * 2 ^ 32 + r * 2 ^ 32))).memPut (at_ + 24) (leBytes 8 s.bt)).modRes
      (fun z => { z with digests := mapSet 0 z.digests a ((e + 1) % s.dev.fget F.resDigCfgCount a) })) →
    exec (.digestPass a e) s = .next { s with
      dev := if r = 2 ∨ r = 3 then d.tlogX s.bt 13 0x45 3 (some a) 0xFFFF 0 (bits w0 47 0) 0 [0, 0, s.bt, r] else d }) ∧
  (∀ (s : State) (a e n base i : Nat) (d : Dev), e < s.dev.fget F.resDigCfgCount a → e = mapGet 0 s.dev.res.digests a → e ≠ 0 →
    s.dev.quiet a = false → s.dev.tier.wipes.any (fun w => w.2.part == a) = false →
    s.dev.tier.moves.find? (fun m => m.2.obj == .digest a e) = none → i = s.dev.fget F.resDigBaseAddr a * 32 + 32 * e →
    base = bits (memNat s.dev.mem i 8) 47 0 → n = 512 * bits (memNat s.dev.mem (i + 8) 8) 31 0 → n ≠ 0 → s.dev.inDdr a base n = true →
    d = s.dev.addMove { part := a, die := ((s.dev.ddrPlace base).map (fun p => p.1 / 2)).getD a, obj := .digest a e, up := true
                        cls := .background, src := base, dst := some base, len := n, since := s.bt, req := s.dev.tier.nextMove } →
    exec (.digestPass a e) s = .next { s with dev := d }) ∧
  (∀ (s : State) (a e : Nat), s.dev.tier.wipes.any (fun w => w.2.part == a) = true → exec (.digestPass a e) s = .next s) ∧
  (∀ (a base w0 w1 golden : Nat) (d : Dev), (bits w0 63 48 ≠ 0 ∨ bits w1 63 35 ≠ 0 ∨ bits w1 31 0 = 0 ∨ 2097152 < bits w1 31 0) →
    d.digestResult a base w0 w1 golden = 4)

/-- R455, R456, R458 to R463, R465: a power epoch applies a grant that has come, gives every die the highest state whose power fits its
share of what the other classes leave of the effective cap (one lower after an epoch of stretching), and records the powers; above the
cap every die stretches; a droop stretches one die; a step up goes one state toward the target; a die in Blitz rises with room and
falls back without; a PWR packet of the device's group is kept as a report or a grant. -/
def Obligations.PowerAndClocks : Prop :=
  (∀ (s : State) (b l m c a k n w no : Nat) (d e f : Dev), s.dev.slotDue s.bt 8 5 = some n → s.dev.fireSlot s.bt 8 n 5 = some d →
    e = (((d.modPow (fun z => { z with epochNo := (z.epochNo + 1) % 2 ^ 32 })).fset F.pwrTelemLinksW 0 l).fset F.pwrTelemMemW 0 m).fset
      F.pwrTelemComputeW 0 (c + a) → e.floor = false → e.pow.grant = some (w, no) →
    f = (((e.modPow (fun z => { z with grant := none })).fset F.pwrGrantCapW 0 w).fset F.pwrGrantEpochNo 0 no).fset F.pwrGrantMissed 0 0 →
    f.safe = false →
    exec (.powerEpoch b l m c a k) s = .next { s with
      dev := ((f.chooseStates s.bt b l m c).modPow (fun z => { z with stretched := z.overCap })).pwrReports s.bt k }) ∧
  (∀ (s : State) (b l m c a k n : Nat) (d e : Dev), s.dev.slotDue s.bt 8 5 = some n → s.dev.fireSlot s.bt 8 n 5 = some d →
    e = (((d.modPow (fun z => { z with epochNo := (z.epochNo + 1) % 2 ^ 32 })).fset F.pwrTelemLinksW 0 l).fset F.pwrTelemMemW 0 m).fset
      F.pwrTelemComputeW 0 (c + a) → e.floor = true →
    exec (.powerEpoch b l m c a k) s = .next { s with
      dev := (e.modPow (fun z => { z with stretched := z.overCap })).pwrReports s.bt k }) ∧
  (∀ (s : State) (b l m c a k : Nat), s.dev.slotDue s.bt 8 5 = none → exec (.powerEpoch b l m c a k) s = .next s) ∧
  (∀ (bt b l m c t : Nat) (d e : Dev),
    t = fitState (d.effCap - b - l - m - c) (allDies.filter d.dieActive).length →
    e = d.modPow (fun z => { z with capState := allDies.foldl (fun m n =>
      mapSet 0 m n (max (if d.pow.stretched then min 15 (t + 1) else t) (d.fget F.pwrDieClkCeil n))) z.capState }) →
    d.chooseStates bt b l m c = allDies.foldl (fun q n => q.clkDown bt n (!q.blitz)) e) ∧
  (∀ (w n k : Nat), fitState w n = k → k < 15 → modelHalfW k * n ≤ 2 * w ∧ ∀ j < k, 2 * w < modelHalfW j * n) ∧
  (∀ (s : State) (w : Nat) (d : Dev), s.dev.effCap < w →
    d = (s.dev.fset F.pwrTelemPkgW 0 w).modPow (fun z => { z with overCap := true }) →
    exec (.limiterSample w) s = .next { s with dev := allDies.foldl (fun d n => d.fbump F.pwrDieClkStretch n 1) d }) ∧
  (∀ (s : State) (w : Nat), w ≤ s.dev.effCap →
    exec (.limiterSample w) s = .next { s with
      dev := (s.dev.fset F.pwrTelemPkgW 0 w).modPow (fun z => { z with overCap := false, stretched := false }) }) ∧
  (∀ (s : State) (n us : Nat), n < 8 → exec (.droop n us) s = .next { s with dev := s.dev.fbump F.pwrDieClkStretch n us }) ∧
  (∀ (s : State) (n : Nat), n < 8 → s.dev.clkTarget n < s.dev.fget F.pwrDieClkState n →
    exec (.aclkStep n) s = .next { s with dev := s.dev.fset F.pwrDieClkState n (s.dev.fget F.pwrDieClkState n - 1) }) ∧
  (∀ (s : State) (n : Nat), s.dev.fget F.pwrDieClkState n ≤ s.dev.clkTarget n → exec (.aclkStep n) s = .next s) ∧
  (∀ (s : State) (n : Nat), n < 8 → s.dev.blitz = true → mapFind? s.dev.pow.blitzAt n = none → s.dev.fget F.pwrDieClkState n = 0 →
    mapGet 0 s.dev.pow.hot n = 0 → s.dev.fget F.pwrDieClkCeil n = 0 → s.dev.fget F.pwrDieClkBlitzStep n < s.dev.blitzTop →
    exec (.blitzStep n true) s = .next { s with
      dev := (s.dev.modPow (fun z => { z with blitzAt := mapPut z.blitzAt n s.bt })).fset F.pwrDieClkBlitzStep n
        (s.dev.fget F.pwrDieClkBlitzStep n + 1) }) ∧
  (∀ (s : State) (n : Nat), n < 8 → s.dev.blitz = true →
    exec (.blitzStep n false) s = .next { s with dev := s.dev.clkDown s.bt n true }) ∧
  (∀ (s : State) (n : Nat) (room : Bool), s.dev.blitz = false → exec (.blitzStep n room) s = .next s) ∧
  (∀ (s : State) (k : Packet) (a : Nat) (d : Dev), k.port < 8 → a = s.dev.partOfDie k.port → s.dev.fabDeaf a = false →
    k.dstNode = s.dev.nodeId a → s.dev.hearEpoch a k.srcNode k.srcEpoch = (true, d) → d.fon F.pwrEpochEn 0 = true →
    listNat k.payload 2 2 = d.fget F.pwrEpochGroup 0 →
    (listNat k.payload 0 1 = 1 → d.fon F.pwrEpochLeader 0 = true → exec (.pwrPacket k) s = .next { s with
      dev := d.modPow (fun z => { z with reports := mapPut z.reports k.srcNode (listNat k.payload 8 4) }) }) ∧
    (listNat k.payload 0 1 = 2 → exec (.pwrPacket k) s = .next { s with
      dev := d.modPow (fun z => { z with grant := some (listNat k.payload 14 2, listNat k.payload 4 4) }) }))

/-- R464 to R466: an assertion of PWR_ALERT_N puts every die into the Floor state, counted, logged and delivered; its release starts the
hold, after which the Floor state ends; a sensor at the throttle threshold lowers its die one state every 1 ms, one out of range is
discarded and logged; a trip asserts THERM_TRIP_N and is logged. -/
def Obligations.FloorAndThermal : Prop :=
  (∀ (s : State) (d e : Dev), s.dev.pow.alert = false → s.dev.sec.up = true →
    d = s.dev.modPow (fun z => { z with alert := true, released := none }) → d.floor = false →
    e = (((d.fset F.pwrFloorActive 0 1).fbump F.pwrFloorEntries 0 1).tlog s.bt 12 evFloor none).raise s.bt 1344 →
    exec .floorEnter s = .next { s with dev := allDies.foldl (fun d n => d.clkDown s.bt n true) e }) ∧
  (∀ (s : State), s.dev.pow.alert = true → exec .floorEnter s = .next { s with
    dev := s.dev.modPow (fun z => { z with alert := true, released := none }) }) ∧
  (∀ (n : Nat) (d : Dev), d.floor = true → d.clkTarget n = 15) ∧
  (∀ (s : State), s.dev.pow.alert = true →
    exec .pwrAlertRelease s = .next { s with dev := s.dev.modPow (fun z => { z with alert := false, released := some s.bt }) }) ∧
  (∀ (s : State), s.dev.pow.alert = false → exec .pwrAlertRelease s = .next s) ∧
  (∀ (s : State) (t : Nat) (d : Dev), s.dev.pow.released = some t → s.dev.floor = true →
    t + s.dev.fget F.pwrFloorHoldUs 0 * 1000 ≤ s.bt →
    d = (s.dev.fset F.pwrFloorActive 0 0).modPow (fun z => { z with released := none }) →
    exec .floorHoldEnd s = .next { s with dev := allDies.foldl (fun d n => d.clkDown s.bt n true) d }) ∧
  (∀ (s : State), s.dev.pow.released = none → exec .floorHoldEnd s = .next s) ∧
  (∀ (s : State) (n : Nat) (t : Int), n < 8 → t < -40 ∨ 150 < t →
    exec (.thermalStep n t) s = .next { s with dev := s.dev.tlog s.bt 12 evSensor (some (s.dev.partOfDie n)) n }) ∧
  (∀ (s : State) (n hot h : Nat) (t : Int) (d e f : Dev), n < 8 → -40 ≤ t → t ≤ 150 →
    d = s.dev.modPow (fun z => { z with temps := mapSet 0 z.temps n t.toNat }) →
    hot = allDies.foldl (fun m n => max m (mapGet 0 d.pow.temps n)) 0 →
    e = (d.fset F.pwrThermMaxC 0 hot).fset F.pwrThermPeakC 0 (max hot (d.fget F.pwrThermPeakC 0)) →
    e.safe = false → mapFind? e.pow.thermAt n = none → e.fget F.pwrDieClkBlitzStep n = 0 →
    (e.fget F.pwrThermThrottleC 0 ≤ t.toNat ∧ h = min 15 (max (mapGet 0 e.pow.hot n) (e.fget F.pwrDieClkState n) + 1) ∨
      t.toNat < e.fget F.pwrThermThrottleC 0 ∧ e.fget F.pwrThermThrottleC 0 < t.toNat + 3 ∧ h = mapGet 0 e.pow.hot n ∨
      t.toNat + 3 ≤ e.fget F.pwrThermThrottleC 0 ∧ h = mapGet 0 e.pow.hot n - 1) →
    f = e.modPow (fun z => { z with hot := mapSet 0 z.hot n h, thermAt := mapPut z.thermAt n s.bt }) →
    exec (.thermalStep n t) s = .next { s with dev := f.clkDown s.bt n (!f.blitz) }) ∧
  (∀ (s : State) (t : Int), s.dev.pow.tripped = false → (s.dev.fget F.pwrThermTripC 0 : Int) ≤ t →
    exec (.thermTrip t) s = .next { s with
      dev := ((s.dev.emit (.pin pinThermTrip false)).tlog s.bt 12 evTrip none 0).modPow (fun z => { z with tripped := true }) }) ∧
  (∀ (s : State) (t : Int), t < (s.dev.fget F.pwrThermTripC 0 : Int) → exec (.thermTrip t) s = .next s)

/-- R86, R451 to R453: a write of PARK.REQ parks an idle partition (its harts stop, its domains are gated) and is refused with CONFLICT
for one that is not; a bit that falls unparks it (its domains are powered, its slots CLOSED, its operating system restarted); a domain
that has risen releases what waits for it; WITHHOLD takes an active CE out of placement, and clearing it powers its group. -/
def Obligations.ParkingAndDomains : Prop :=
  (∀ (s : State) (p : Party) (v : Word) (n i a : Nat), s.dev.writeOk p .pwrPark 0 v = true → s.dev.fwould p v F.pwrParkReq 0 = n →
    (List.range 8).filter (fun i => bit n i && !bit (s.dev.fget F.pwrParkReq 0) i) = [i] →
    (List.range 8).filter (fun i => bit (s.dev.fget F.pwrParkReq 0) i && !bit n i) = [] → partAt s.dev.layout i = some a →
    (s.dev.parkConflict a = false → partAt (s.dev.setReg .pwrPark 0 (s.dev.afterWrite p .pwrPark 0 v)).layout i = some a →
      exec (.park p v) s = .next { s with dev := (s.dev.setReg .pwrPark 0 (s.dev.afterWrite p .pwrPark 0 v)).parkPart a }) ∧
    (s.dev.parkConflict a = true → exec (.park p v) s = .next { s with dev := s.dev.refuse .pwrPark 0 true })) ∧
  (∀ (s : State) (p : Party) (v : Word) (n i a : Nat), s.dev.writeOk p .pwrPark 0 v = true → s.dev.fwould p v F.pwrParkReq 0 = n →
    (List.range 8).filter (fun i => bit n i && !bit (s.dev.fget F.pwrParkReq 0) i) = [] →
    (List.range 8).filter (fun i => bit (s.dev.fget F.pwrParkReq 0) i && !bit n i) = [i] →
    partAt (s.dev.setReg .pwrPark 0 (s.dev.afterWrite p .pwrPark 0 v)).layout i = some a →
    exec (.unpark p v) s = .next { s with dev := (s.dev.setReg .pwrPark 0 (s.dev.afterWrite p .pwrPark 0 v)).unparkPart s.bt a }) ∧
  (∀ (d : Dev) (bt a : Nat) (q r t : Dev), q = (d.parkDomains a).foldl (fun d n => d.domainUp bt n) d →
    r = q.modSeq (fun z => { z with slots := mapKeep z.slots (fun s _ => q.partOfSlot s != a) }) →
    t = r.fset F.pwrParkState 0 (r.fget F.pwrParkState 0 &&& (255 - 2 ^ partNum r.layout a)) → t.quiet a = false →
    d.unparkPart bt a = t.restartOs bt a) ∧
  (∀ (s : State) (n : Nat), s.dev.pow.rising.contains n = true →
    exec (.domainPowerUp n) s = .next { s with dev := s.dev.domainUp s.bt n }) ∧
  (∀ (s : State) (n : Nat), s.dev.pow.rising.contains n = false → exec (.domainPowerUp n) s = .next s) ∧
  (∀ (s : State) (p : Party) (k : Nat) (v : Word), s.dev.writeOk p .ceCtrl k v = true → k < 208 → (s.dev.ce k).st = .active →
    s.dev.res.episodes.any (fun e => e.2.hung.contains k) = false → s.dev.fwould p v F.ceCtrlWithhold k = 1 → bit v.toNat 5 = false →
    exec (.withhold p k v) s = .next { s with
      dev := (s.dev.setReg .ceCtrl k (s.dev.afterWrite p .ceCtrl k v)).modCe k (fun c => { c with st := .withheld }) }) ∧
  (∀ (s : State) (p : Party) (k : Nat) (v : Word), s.dev.writeOk p .ceCtrl k v = true → k < 208 → (s.dev.ce k).st = .withheld →
    s.dev.fget F.ceCtrlWithhold k = 1 → s.dev.fwould p v F.ceCtrlWithhold k = 0 →
    s.dev.res.episodes.any (fun e => e.2.hung.contains k) = true →
    exec (.withhold p k v) s = .next { s with dev := s.dev.refuse .ceCtrl k true })

/-- R66, R366, R387, R390 to R392, R396 to R398, R401, R402, R494 to R496, R498: a cold start sets Board Time to 0, takes the valid Part
Record with what it maps out, or the Safe configuration without one, and verifies the flash image if there is one; a host's GO claims
the mailbox and starts a load; a valid image starts, another leaves RECOVERY; a staged image starts the replacement, pair by pair;
after 2 s without a GO the flash image starts; a loss of power or SYS_RESET_N leaves the flash. The epochs are free values. -/
def Obligations.StartUp : Prop :=
  (∀ (s : State) (id : BitVec 384) (r : PartRecord) (d e f g : Dev), s.dev.sec.up = false → s.dev.sec.flashGone = false →
    s.dev.sec.flash.part = some r → partValid r (some id) = true → s.dev.sec.flash.image.isSome = true →
    d = s.dev.modSec (fun z => { z with up := true, identity := some id, part := some r, owner := z.ownerInForce (some r) }) →
    e = ((List.range 8).foldl (fun q i => q.fset F.igfNodeEpoch i (Config.freeNat (d.free + i) % 2 ^ 32)) (d.took 8)).recordRegs (some r) →
    f = (e.setBoot 3 0 false false).modSec (fun z => { z with verifying := some 0 }) →
    g = (((f.assignCes (some r)).assignCores (some r)).applyRecords r).histAdd 0 4 0 0 0 → g.pow.alert = false →
    exec (.coldStart true id) s = .next { s with bt := 0, dev := g }) ∧
  (∀ (s : State) (id : BitVec 384) (d e f g : Dev), s.dev.sec.up = false →
    d = s.dev.modSec (fun z => { z with up := true, identity := none, part := none, owner := none }) →
    e = ((List.range 8).foldl (fun q i => q.fset F.igfNodeEpoch i (Config.freeNat (d.free + i) % 2 ^ 32)) (d.took 8)).recordRegs none →
    f = (e.setBoot 1 0 true false).modSec (fun z => { z with verifying := none }) →
    g = (f.assignCes none).assignCores none → g.pow.alert = false →
    (∀ r, s.dev.sec.flash.part = some r → partValid r none = false) →
    exec (.coldStart false id) s = .next { s with bt := 0, dev := g }) ∧
  (∀ (s : State) (p : Bool) (id : BitVec 384), s.dev.sec.up = true → exec (.coldStart p id) s = .next s) ∧
  (∀ (s : State) (q : Nat) (v : Word) (d : Dev), q < 4 → s.dev.linkUp q = true → s.dev.writeOk (.host q) .secBootCmd q v = true →
    bit v.toNat 0 = true → bits v.toNat 2 1 = 0 → bits v.toNat 10 8 = 0 → s.dev.mgmtPort q = true → s.dev.claimedElse q = false →
    17112 ≤ s.dev.fget F.secBootLenBytes q → s.dev.fget F.secBootLenBytes q ≤ 4211352 →
    s.dev.fget F.secBootStatusState q = 1 ∨ s.dev.fget F.secBootStatusState q = 4 →
    d = s.dev.setReg .secBootCmd q (s.dev.afterWrite (.host q) .secBootCmd q v) →
    exec (.boot q v) s = .next { s with
      dev := ((d.setBoot 2 0 d.safe false).fset F.secBootStatusClaimed q 1).modSec
        (fun z => { z with verifying := some 1, flashWait := none }) }) ∧
  (∀ (s : State) (q : Nat) (v : Word), q < 4 → s.dev.linkUp q = true → s.dev.writeOk (.host q) .secBootCmd q v = true →
    bit v.toNat 0 = true → bits v.toNat 2 1 = 0 → bits v.toNat 10 8 = 0 → s.dev.claimedElse q = true →
    exec (.boot q v) s = .next { s with dev := s.dev.refuse .secBootCmd q true }) ∧
  (∀ (s : State) (q : Nat) (v : Word) (d : Dev), q < 4 → s.dev.linkUp q = true → s.dev.writeOk (.host q) .secBootCmd q v = true →
    bit v.toNat 0 = true → bits v.toNat 2 1 = 1 → bits v.toNat 10 8 = 0 → s.dev.mgmtPort q = true → s.dev.claimedElse q = false →
    17112 ≤ s.dev.fget F.secBootLenBytes q → s.dev.fget F.secBootLenBytes q ≤ 4211352 → s.dev.fget F.secBootStatusState q = 5 →
    s.dev.fon F.secFwStateUpdating 0 = false → d = s.dev.setReg .secBootCmd q (s.dev.afterWrite (.host q) .secBootCmd q v) →
    exec (.stage q v) s = .next { s with
      dev := ((d.setBoot 6 0 d.safe d.sec.fromFlash).fset F.secBootStatusClaimed q 1).modSec (fun z => { z with verifying := some 2 }) }) ∧
  (∀ (s : State) (g : SigResult) (h : ImageHdr), s.dev.sec.verifying = some 1 → imageErr g h = 0 →
    exec (.imageVerified g h) s = .next { s with dev := s.dev.startFirmware s.bt h false }) ∧
  (∀ (s : State) (g : SigResult) (h : ImageHdr), s.dev.sec.verifying = some 1 → imageErr g h ≠ 0 →
    exec (.imageVerified g h) s = .next { s with dev := s.dev.recovery (imageErr g h) }) ∧
  (∀ (s : State) (g g' : SigResult) (h h' : ImageHdr), s.dev.sec.verifying = some 0 → s.dev.sec.flash.image = some (g', h') →
    imageErr g' h' = 0 → exec (.imageVerified g h) s = .next { s with
      dev := (s.dev.setBoot 1 0 s.dev.safe false).modSec (fun z => { z with verifying := none, flashWait := some s.bt }) }) ∧
  (∀ (s : State) (g : SigResult) (h : ImageHdr) (d : Dev), s.dev.sec.verifying = some 2 → imageErr g h = 0 → s.dev.replaceable h = true →
    d = ((s.dev.unclaim.setBoot 5 0 s.dev.safe s.dev.sec.fromFlash).modSec (fun z => { z with verifying := none })) →
    exec (.imageVerified g h) s = .next { s with
      dev := (d.modSec (fun z => { z with
        staged := true, banks := mapPut z.banks (1 - d.fget F.secFwStateActive 0) h })).fset F.secFwStateUpdating 0 1 }) ∧
  (∀ (s : State) (t : Nat) (g : SigResult) (h : ImageHdr), s.dev.sec.flashWait = some t → s.dev.sec.flash.image = some (g, h) →
    t + 2000000000 ≤ s.bt → s.dev.fget F.secBootStatusState 0 = 1 →
    exec .flashWaitExpiry s = .next { s with dev := s.dev.startFirmware s.bt h true }) ∧
  (∀ (s : State), s.dev.sec.flashWait = none → exec .flashWaitExpiry s = .next s) ∧
  (∀ (s : State) (k : Nat) (d : Dev), s.dev.fon F.secFwStateUpdating 0 = true → s.dev.sec.staged = true → s.dev.nextSwitch = some k →
    k ≠ 0 → d = (s.dev.fset F.secFwRemapPair 0 (s.dev.fget F.secFwRemapPair 0 ^^^ 2 ^ k)).abandonHandlers k →
    exec (.pairSwitch k) s = .next { s with dev := d.setArbPair k { lastKick := s.bt } }) ∧
  (∀ (s : State) (k : Nat), s.dev.fon F.secFwStateUpdating 0 = false → exec (.pairSwitch k) s = .next s) ∧
  (∀ (s : State) (q w r : Nat), q < 4 → s.dev.sec.up = true → w = 1 ∨ w = 2 ∨ w = 4 ∨ w = 8 →
    exec (.portLinkTrained q w r) s = .next { s with
      dev := (((s.dev.fset F.hptPortStatusLink q 2).fset F.hptPortStatusWidth q w).fset F.hptPortStatusRate q r).fset
        F.hptPortStatusL0pWidth q w }) ∧
  (∀ (s : State), exec .sysResetAsserted s = .next { s with bt := 0, dev := s.dev.lost }) ∧
  (∀ (s : State), exec .powerRemoved s = .next { s with bt := 0, dev := s.dev.lost }) ∧
  (∀ (s : State), exec .i3cTimeout s = .next s) ∧
  (∀ (s : State) (d : Dev), s.dev.sec.verifying ≠ some 0 → d = s.dev.tlog s.bt 15 73 none →
    exec .xspiTimeout s = .next { s with dev := d.modSec (fun z => { z with flashGone := true }) })

/-- R232, R387, R391, R398, R404: an OS load copies the image of a valid table to LOAD_OFF of the partition's DDR, and ends with ERR 10 for
one that is not; the checked image starts the partition's harts, and one that does not match is zero-filled with ERR 9; once memory is
trained each partition is wiped and its operating system starts or is waited for; a management port's flash write replaces a region
it may write, and a factory-only region refuses. -/
def Obligations.OperatingSystems : Prop :=
  (∀ (s : State) (q a : Nat) (v : Word) (t : Option Handoff) (m : List Byte), q < 4 → s.dev.linkUp q = true →
    s.dev.writeOk (.host q) .secBootCmd q v = true → bit v.toNat 0 = true → bits v.toNat 2 1 = 2 → s.dev.mgmtPort q = true →
    partAt s.dev.layout (bits v.toNat 10 8) = some a → s.dev.boundTo q a = true → mapHas s.dev.sec.osLoads a = false →
    s.dev.sec.osRuns.contains a = false → s.dev.fget F.secBootStatusState q = 5 → s.dev.sec.memReady = true → s.dev.quiet a = false →
    s.dev.res.clearing.contains a = false →
    partAt (s.dev.setReg .secBootCmd q (s.dev.afterWrite (.host q) .secBootCmd q v)).layout (bits v.toNat 10 8) = some a →
    exec (.osLoad q v t m) s = .next { s with
      dev := (s.dev.setReg .secBootCmd q (s.dev.afterWrite (.host q) .secBootCmd q v)).loadOs q a t m }) ∧
  (∀ (d : Dev) (q a n : Nat) (t : Handoff) (m : List Byte), n = d.fget F.secBootLenBytes q - 17176 → d.tableOk a n t = true → m.length = n →
    d.loadOs q a (some t) m =
      (d.modSec (fun z => { z with osLoads := mapPut z.osLoads a { port := q, table := t } })).memPut (osBase a t) m) ∧
  (∀ (d : Dev) (q a : Nat) (t : Handoff) (m : List Byte), d.tableOk a (d.fget F.secBootLenBytes q - 17176) t = false →
    d.loadOs q a (some t) m = (d.noOs a 10).fset F.secBootStatusErr q 10) ∧
  (∀ (d : Dev) (a n : Nat) (t : Handoff), d.tableOk a n t = true → t.sig = .valid ∧ t.imageSize = n ∧ t.loadOff % 2097152 = 0 ∧
    t.loadOff + n ≤ d.ddrSize a) ∧
  (∀ (s : State) (a ver : Nat) (o : OsLoad) (d : Dev), mapFind? s.dev.sec.osLoads a = some o →
    d = s.dev.modSec (fun z => { z with osLoads := mapErase z.osLoads a }) → d.fwiFor o.table = some ver →
    (d.imageOk a o.table = true → exec (.osImageChecked a) s = .next { s with
      dev := ((d.fset F.secBootStatusErr o.port 0).setOsWait a false).startOs s.bt a ver o.table }) ∧
    (d.imageOk a o.table = false → exec (.osImageChecked a) s = .next { s with
      dev := ((d.memClear (osBase a o.table) o.table.imageSize).noOs a 9).fset F.secBootStatusErr o.port 9 })) ∧
  (∀ (s : State) (a : Nat), mapFind? s.dev.sec.osLoads a = none → exec (.osImageChecked a) s = .next s) ∧
  (∀ (s : State) (d e : Dev), s.dev.sec.started = true → s.dev.sec.memReady = false →
    d = (List.range 16).foldl (fun d c => ((((d.fset F.ddrcChStatusState c 0).fset F.ddrcChStatusDimms c 0).fset
      F.ddrcChStatusKind c 0).fset F.ddrcChStatusGib c 0).fset F.ddrcChStatusMts c 0) s.dev →
    e = (d.modSec (fun z => { z with memReady := true })).fqDefaults →
    exec (.memoryInitDone []) s = .next { s with
      dev := (e.parts.foldl (fun d a => (d.wipeHbm a).fillDdr a) e).parts.foldl (fun d a => (d.restartOs s.bt a).announceEpoch a)
        (e.parts.foldl (fun d a => (d.wipeHbm a).fillDdr a) e) }) ∧
  (∀ (s : State) (l : List (Nat × Nat × Nat × Nat)), s.dev.sec.memReady = true → exec (.memoryInitDone l) s = .next s) ∧
  (∀ (s : State) (q : Nat) (r : OwnerRecord), q < 4 → s.dev.sec.started = true → s.dev.mgmtPort q = true → s.dev.sec.flashGone = false →
    exec (.managementFlashWrite q (.ownerRecord r)) s = .next { s with
      dev := s.dev.modSec (fun z => { z with flash := { s.dev.sec.flash with owner := some r } }) }) ∧
  (∀ (s : State) (q : Nat) (g : SigResult) (h : ImageHdr), q < 4 → s.dev.sec.started = true → s.dev.mgmtPort q = true →
    s.dev.sec.flashGone = false →
    exec (.managementFlashWrite q (.image g h)) s = .next { s with
      dev := s.dev.modSec (fun z => { z with flash := { s.dev.sec.flash with image := some (g, h) } }) }) ∧
  (∀ (s : State) (q : Nat) (r : PartRecord), q < 4 → s.dev.sec.started = true → s.dev.mgmtPort q = true → s.dev.sec.flashGone = false →
    s.dev.safe = false →
    exec (.managementFlashWrite q (.partRecord r)) s = .next { s with dev := s.dev.refuse .secCfgErr 0 false })

/-- R394, R405, R406: SPDM answers on a connection once firmware runs, outside a chip warm reset, and refuses a request that comes before
its
stage; the opening requests advance the stage; digests and certificates come from slot 0; a signature needs an identity and covers
the response's message; a session passes through handshake to established, where IDE keys are set. The codes of responses and errors
and the stages are those of SPDM 1.3, the model's choice (log entry 43). -/
def Obligations.Attestation : Prop :=
  (∀ (s : State) (c : Nat), c < 5 → s.dev.sec.started = true → s.dev.res.warm = none →
    exec (.getVersion c) s = .next { s with dev := (s.dev.setConn c { stage := 1 }).spdmAnswer c rspVersion [0x13, 0x12] }) ∧
  (∀ (s : State) (c : Nat), s.dev.sec.started = false → exec (.getVersion c) s = .next s) ∧
  (∀ (s : State) (c : Nat), c < 5 → s.dev.sec.started = true → s.dev.res.warm = none → 1 ≤ (s.dev.conn c).stage →
    exec (.getCapabilities c) s = .next { s with
      dev := (s.dev.setConn c { s.dev.conn c with stage := max 2 (s.dev.conn c).stage }).spdmAnswer c rspCapabilities [0x13] }) ∧
  (∀ (s : State) (c n : Nat), c < 5 → s.dev.sec.started = true → s.dev.res.warm = none → 2 ≤ (s.dev.conn c).stage →
    exec (.negotiateAlgorithms c n) s = .next { s with
      dev := (s.dev.setConn c { s.dev.conn c with stage := 3 }).spdmAnswer c rspAlgorithms [n % 16] }) ∧
  (∀ (s : State) (c n : Nat), c < 5 → s.dev.sec.started = true → s.dev.res.warm = none → (s.dev.conn c).stage < 2 →
    exec (.negotiateAlgorithms c n) s = .next { s with dev := s.dev.spdmError c errUnexpectedRequest }) ∧
  (∀ (s : State) (c : Nat), c < 5 → s.dev.sec.started = true → s.dev.res.warm = none → 3 ≤ (s.dev.conn c).stage →
    s.dev.sec.flashGone = false →
    exec (.getDigests c) s = .next { s with
      dev := s.dev.spdmAnswer c rspDigests [1, (sha384 (Config.certChain false)).toNat] }) ∧
  (∀ (s : State) (c o n : Nat) (p : List Byte), c < 5 → s.dev.sec.started = true → s.dev.res.warm = none → 3 ≤ (s.dev.conn c).stage →
    s.dev.sec.flashGone = false → p = ((Config.certChain false).drop o).take n →
    (o < (Config.certChain false).length → exec (.getCertificate c 0 o n) s = .next { s with
      dev := s.dev.spdmAnswer c rspCertificate ([p.length, (Config.certChain false).length - o - p.length] ++ p.map BitVec.toNat) }) ∧
    ((Config.certChain false).length ≤ o → exec (.getCertificate c 0 o n) s = .next { s with
      dev := s.dev.spdmError c errInvalidRequest })) ∧
  (∀ (s : State) (c : Nat) (m : List Nat), c < 5 → s.dev.sec.started = true → s.dev.res.warm = none → 3 ≤ (s.dev.conn c).stage →
    s.dev.sec.identity.isSome = true →
    m = [rspChallengeAuth, (sha384 (Config.certChain false)).toNat, Config.freeNat s.dev.free] ++
      (List.range 23).map (fun i => s.dev.measurement (i + 1)) →
    exec (.challenge c 0) s = .next { s with
      dev := ((s.dev.took 1).setConn c { s.dev.conn c with signed := some m }).spdmAnswer c rspChallengeAuth
        (m ++ [(Config.rsaSign m).toNat]) }) ∧
  (∀ (s : State) (c : Nat), c < 5 → s.dev.sec.started = true → s.dev.res.warm = none → 3 ≤ (s.dev.conn c).stage →
    s.dev.sec.identity = none → exec (.challenge c 0) s = .next { s with dev := s.dev.spdmError c errUnspecified }) ∧
  (∀ (s : State) (c i : Nat), c < 5 → s.dev.sec.started = true → s.dev.res.warm = none → 3 ≤ (s.dev.conn c).stage → 1 ≤ i → i ≤ 23 →
    exec (.getMeasurements c i false) s = .next { s with
      dev := (s.dev.setConn c { s.dev.conn c with signed := none }).spdmAnswer c rspMeasurements [s.dev.measurement i] }) ∧
  (∀ (s : State) (c i : Nat) (sg : Bool), c < 5 → s.dev.sec.started = true → s.dev.res.warm = none → 3 ≤ (s.dev.conn c).stage → 23 < i →
    i ≠ 0xFF → exec (.getMeasurements c i sg) s = .next { s with dev := s.dev.spdmError c errInvalidRequest }) ∧
  (∀ (s : State) (c : Nat) (m : List Nat), c < 5 → s.dev.sec.started = true → s.dev.res.warm = none → 3 ≤ (s.dev.conn c).stage →
    s.dev.sec.identity.isSome = true → m = [rspKeyExchange, Config.freeNat s.dev.free] →
    exec (.keyExchange c 0) s = .next { s with
      dev := ((s.dev.took 1).setConn c { s.dev.conn c with session := 1 }).spdmAnswer c rspKeyExchange (m ++ [(Config.rsaSign m).toNat]) }) ∧
  (∀ (s : State) (c : Nat), c < 5 → s.dev.sec.started = true → s.dev.res.warm = none → 3 ≤ (s.dev.conn c).stage →
    (s.dev.conn c).session = 1 →
    exec (.finish c true) s = .next { s with
      dev := (s.dev.setConn c { s.dev.conn c with session := 2 }).spdmAnswer c rspFinish [] } ∧
    exec (.finish c false) s = .next { s with
      dev := (s.dev.setConn c { s.dev.conn c with session := 0 }).spdmError c errDecrypt }) ∧
  (∀ (s : State) (c n : Nat) (b : List Byte), c < 5 → s.dev.sec.started = true → s.dev.res.warm = none → 3 ≤ (s.dev.conn c).stage →
    n = (s.dev.conn c).requestSeq →
    exec (.chunkSend c n false b) s = .next { s with
      dev := (s.dev.setConn c { s.dev.conn c with request := (s.dev.conn c).request ++ b, requestSeq := n + 1 }).spdmAnswer c
        rspChunkSendAck [n] }) ∧
  (∀ (s : State) (c n : Nat) (x : Spdm), c < 5 → s.dev.sec.started = true → s.dev.res.warm = none → x = s.dev.conn c → 3 ≤ x.stage →
    x.reply ≠ [] → n = x.replySeq →
    exec (.chunkGet c n) s = .next { s with
      dev := (s.dev.setConn c { x with
        reply := x.reply.drop (Config.spdmChunk + 1)
        replySeq := if x.reply.drop (Config.spdmChunk + 1) = [] then 0 else n + 1 }).spdmAnswer c rspChunk
          ([n, b2n (x.reply.drop (Config.spdmChunk + 1)).isEmpty] ++ x.reply.take (Config.spdmChunk + 1)) }) ∧
  (∀ (s : State) (c : Nat) (m : List Nat), c < 5 → s.dev.sec.started = true → s.dev.res.warm = none → 3 ≤ (s.dev.conn c).stage →
    s.dev.sec.identity.isSome = true → (s.dev.conn c).signed = some m →
    exec (.cosign c) s = .next { s with
      dev := s.dev.largeAnswer c ((leBytes 16224 (Config.slhSign m).toNat).map BitVec.toNat) }) ∧
  (∀ (s : State) (c : Nat), c < 5 → s.dev.sec.started = true → s.dev.res.warm = none → 3 ≤ (s.dev.conn c).stage →
    (s.dev.conn c).signed = none → exec (.cosign c) s = .next { s with dev := s.dev.spdmError c errUnexpectedRequest }) ∧
  (∀ (s : State) (c : Nat), c < 5 → s.dev.sec.started = true → s.dev.res.warm = none → 3 ≤ (s.dev.conn c).stage →
    s.dev.sec.flashGone = false →
    exec (.getSlhChain c) s = .next { s with dev := s.dev.largeAnswer c ((Config.certChain true).map BitVec.toNat) }) ∧
  (∀ (s : State) (q k : Nat), q < 4 → k < 5 → s.dev.sec.started = true → s.dev.res.warm = none → 3 ≤ (s.dev.conn q).stage →
    (s.dev.conn q).session = 2 → k ≠ 0 →
    exec (.ideKm q k true) s = .next { s with
      dev := s.dev.fset F.hptPortStatusSelIde q (s.dev.fget F.hptPortStatusSelIde q ||| 2 ^ (k - 1)) }) ∧
  (∀ (s : State) (q : Nat) (on : Bool), q < 4 → s.dev.sec.started = true → s.dev.res.warm = none → 3 ≤ (s.dev.conn q).stage →
    (s.dev.conn q).session = 2 →
    exec (.ideKm q 0 on) s = .next { s with dev := s.dev.fset F.hptPortStatusLinkIde q (b2n on) }) ∧
  (∀ (s : State) (q k : Nat) (on : Bool), q < 4 → k < 5 → s.dev.sec.started = true → s.dev.res.warm = none → 3 ≤ (s.dev.conn q).stage →
    (s.dev.conn q).session ≠ 2 → exec (.ideKm q k on) s = .next { s with dev := s.dev.spdmError q errUnexpectedRequest })

/-- R23, R24, R474, R475, R499: a write of `PRT.MODE` that sets another layout changes it and starts the clearing, is refused where an
affected partition is not idle, conflicts while a clearing runs, and does nothing where the layout stays; the clearing's end wipes the
affected dies' HBM and zero-fills their DDR; a report's update advances GEN, fills the report and the capacity registers, and is
logged and announced; a trace trigger is claimed unless PPS_EN is set. That new partitions start unbound is the model's choice (log
entry 44). -/
def Obligations.LayoutAndReports : Prop :=
  (∀ (s : State) (p : Party) (v : Word) (old new : Nat) (g : List Nat), s.dev.writeOk p .prtMode 0 v = true → old = s.dev.layout →
    new = s.dev.layoutOf (bits v.toNat 2 0) →
    g = (List.range 8).filter (fun a => partStarts old a && !samePart old new a) →
    ((∀ a ∈ g, s.dev.partIdle a = true) → s.dev.fon F.prtModeBusy 0 = false → new ≠ old →
      exec (.layoutChange p v) s = .next { s with
        dev := (s.dev.setReg .prtMode 0 (s.dev.afterWrite p .prtMode 0 v)).changeLayout s.bt new }) ∧
    (new = old → s.dev.fon F.prtModeBusy 0 = false →
      exec (.layoutChange p v) s = .next { s with dev := s.dev.setReg .prtMode 0 (s.dev.afterWrite p .prtMode 0 v) }) ∧
    (∀ a ∈ g, s.dev.partIdle a = false → s.dev.fon F.prtModeBusy 0 = false →
      exec (.layoutChange p v) s = .next { s with dev := s.dev.refuse .prtMode 0 false }) ∧
    (s.dev.fon F.prtModeBusy 0 = true →
      exec (.layoutChange p v) s = .next { s with dev := s.dev.refuse .prtMode 0 true })) ∧
  (∀ (bt new : Nat) (d : Dev), new < 256 →
    (d.changeLayout bt new).layout = new ∧ (d.changeLayout bt new).fon F.prtModeBusy 0 = true ∧
    (d.changeLayout bt new).res.clearing = (List.range 8).filter (fun a => partStarts new a && !samePart d.layout new a)) ∧
  (∀ (s : State) (d : Dev), s.dev.fon F.prtModeBusy 0 = true →
    d = (s.dev.res.clearing.foldl (fun d a => (d.wipeHbm a).fillDdr a) s.dev).modRes (fun z => { z with clearing := [] }) →
    exec .layoutClearDone s = .next { s with
      dev := s.dev.res.clearing.foldl (fun d a => d.setOsWait a true) (d.fset F.prtModeBusy 0 0) }) ∧
  (∀ (s : State), s.dev.fon F.prtModeBusy 0 = false → exec .layoutClearDone s = .next s) ∧
  (∀ (s : State) (a p : Nat) (areas : List (Nat × Nat)) (c : Resv) (z d e f : Dev), s.dev.isPart a = true →
    z = s.dev.modTier (fun t => { t with areas := t.areas.filter (fun r => r.1 != a) ++
      (areas.filter (fun r => s.dev.inHbm a r.1 r.2)).map (fun r => (a, r.1, r.2)) }) → p = partNum z.layout a → c = z.capacity a →
    d = (((z.setReg .prtPartReport p (z.report p (some a))).setReg .prtCapMem a (BitVec.ofNat 64 (c.hbm + c.ddr * 2 ^ 32))).setReg
      .prtCapSeq a (BitVec.ofNat 64 (c.kv + c.slots * 2 ^ 32))).setReg .prtCapJrn a (BitVec.ofNat 64 c.journal) →
    e = ((List.range 8).foldl (fun d n =>
      if d.parts.length ≤ n ∧ d.fon F.prtPartReportValid n then d.setReg .prtPartReport n (d.report n none) else d) d).tlogX
        s.bt 16 1 0 (some a) 0 0 0 0 [] →
    f = e.msixPorts (fun q => e.boundTo q a) →
    (mapFind? f.cpx.logNotify a = none → exec (.firmwareReportUpdate ⟨a, areas⟩) s = .next { s with dev := f }) ∧
    (∀ h i, mapFind? f.cpx.logNotify a = some (h, i) →
      exec (.firmwareReportUpdate ⟨a, areas⟩) s = .next { s with dev := f.sendMsi a h 0 i })) ∧
  (∀ (s : State) (a : Nat) (areas : List (Nat × Nat)), s.dev.isPart a = false → exec (.firmwareReportUpdate ⟨a, areas⟩) s = .next s) ∧
  (∀ (s : State) (claim : Bool), (claim = true → s.dev.fon F.btmCtrlPpsEn 0 = false) →
    exec (.traceTriggerClaim claim) s = .next { s with dev := s.dev.modTime (fun z => { z with traceTrigger := claim }) }) ∧
  (∀ (s : State), s.dev.fon F.btmCtrlPpsEn 0 = true →
    exec (.traceTriggerClaim true) s = .next { s with dev := s.dev.refuse .btmCtrl 0 true })

/-- R7, R234, R468 to R473, R477: a write at an offset reaches the register that the block base map and the index place there; a plain
register takes the value of R6 or refuses; CNT_CLR clears its counters, LOCK sets; an offset without a register refuses, a host's write
in the read-only subset refuses, a core's store out of its reach raises an access fault and is logged; an unassigned offset changes
nothing here (an access fault on the pair, whose handler is firmware's own). -/
def Obligations.RegisterAccess : Prop :=
  (∀ (s : State) (k off i : Nat) (r : RegName) (v : Word), k < 4 → s.dev.fget F.arbPairStatusState k ≠ pairStopped → off % 8 = 0 →
    spacePlace s.dev.layout off = .reg r i → s.dev.inReset (.reg r i) = false →
    exec (.registerWrite (.firmware k) off v) s = .next { s with dev := s.dev.writeReg s.bt (.firmware k) r i v }) ∧
  (∀ (bt i : Nat) (d : Dev) (p : Party) (r : RegName) (v : Word),
    r ∈ [RegName.arbWdog, .arbEscLimit, .evcAge, .resEscCfg, .kioTimeout, .shcRetryCfg, .prtPromAge, .hbmcScrubCfg, .xlatFqTimeout] →
    d.writeReg bt p r i v = if d.writeOk p r i v then d.setReg r i (d.afterWrite p r i v) else d.refuse r i false) ∧
  (∀ (s : State) (k : Nat), k < 4 → s.dev.fget F.arbPairStatusState k ≠ pairStopped → s.dev.inReset (.reg .evcCtrl 0) = false →
    exec (.counterClear (.firmware k) 0x20000 1#64) s = .next { s with
      dev := (s.dev.setReg .evcCtrl 0 (s.dev.afterWrite (.firmware k) .evcCtrl 0 1#64)).clearCounters .evcStat 0 }) ∧
  (∀ (s : State) (k : Nat) (d : Dev), k < 4 → s.dev.fget F.arbPairStatusState k ≠ pairStopped → s.dev.inReset (.reg .evcCtrl 0) = false →
    d = s.dev.setReg .evcCtrl 0 (s.dev.afterWrite (.firmware k) .evcCtrl 0 0x8000000000000000#64) →
    exec (.lock (.firmware k) 0x20000 0x8000000000000000#64) s = .next { s with dev := d } ∧ d.fon F.evcCtrlLock 0 = true) ∧
  (∀ (s : State) (k off i : Nat) (e : RegName) (v : Word), k < 4 → s.dev.fget F.arbPairStatusState k ≠ pairStopped → off % 8 = 0 →
    spacePlace s.dev.layout off = .empty e i →
    exec (.registerWrite (.firmware k) off v) s = .next { s with dev := s.dev.setReg e i (s.dev.reg e i ||| 1#64) }) ∧
  (∀ (s : State) (k off : Nat) (v : Word), spacePlace s.dev.layout off = .unassigned →
    exec (.registerWrite (.firmware k) off v) s = .next s) ∧
  (∀ (s : State) (q off : Nat) (v : Word), q < 4 → s.dev.linkUp q = true → off % 8 = 0 → s.dev.res.warm = none → 0x2000000 ≤ off →
    off < 0x4000000 → exec (.registerWrite (.host q) off v) s = .next { s with dev := s.dev.refuse .hptCfgErr q false }) ∧
  (∀ (s : State) (h off : Nat) (v : Word), s.dev.runs h = true → (s.dev.hart h).timedOut = [] → s.dev.coreReaches h off = false →
    off % 8 ≠ 0 ∨ off < 0x4800000 ∨ 0x4B00000 ≤ off →
    exec (.registerWrite (.core h) off v) s = .next { s with
      dev := (s.dev.tlog s.bt 1 43 (some (s.dev.partOfHart h)) h (0xF00000000000 + off)).coreTrap h 7 (0xF00000000000 + off) }) ∧
  -- an MSI to a hart of another partition is counted as dropped besides
  (∀ (s : State) (h off : Nat) (v : Word) (d : Dev), s.dev.runs h = true → (s.dev.hart h).timedOut = [] → s.dev.coreReaches h off = false →
    off % 8 = 0 → 0x4800000 ≤ off → off < 0x4B00000 → d = s.dev.fbump F.hubCoreIsoDropped 0 1 →
    exec (.registerWrite (.core h) off v) s = .next { s with
      dev := (d.tlog s.bt 1 43 (some (d.partOfHart h)) h (0xF00000000000 + off)).coreTrap h 7 (0xF00000000000 + off) }) ∧
  (∀ (layout : Nat), spacePlace layout 0x307090 = .reg .hbmcChSlot 450) ∧
  spacePlace 0xFF (0x400000 + 3 * 0x800000 + 0x10040) = .reg .xlatInvReq 3

/-- R6, R477: an accepted write leaves in every field what its access code says of the old and the written value, and a write that would
change a locked RWL field is refused. -/
def Obligations.RegisterFields : Prop :=
  (∀ (d : Dev) (p : Party) (r : RegName) (i : Nat) (v : Word) (f : FldDef), f ∈ regFields r → d.writeOk p r i v = true →
    (d.regWrite p r i v .ok id).fget f.fld i =
      fieldAfter (accFor p f) (d.fget f.fld i) (bits v.toNat f.fld.hi f.fld.lo)) ∧
  (∀ (d : Dev) (p : Party) (r : RegName) (i : Nat) (v : Word) (f : FldDef) (own : Verdict) (eff : Dev → Dev), f ∈ regFields r →
    accFor p f = .rwl → d.locked r i = true → bits v.toNat f.fld.hi f.fld.lo ≠ d.fget f.fld i →
    d.regWrite p r i v own eff = d.refuse r i (decide (own = .conflict)))

/-- R225, R226, R234, R242, R249, R252, R254 to R256, R259: a core's load of a line it holds reads memory with its own buffered stores
over it; a poisoned granule raises its access fault; a store enters the buffer and leaves it when the core owns the line; LR, SC, AMO and
`amocas.q` act on the owned line; a misaligned atomic and an address that the core may not reach trap. Of the Device Register Space a core
loads and stores 64 bits of what it reaches, and any other form raises an access fault. -/
def Obligations.CoreAccesses : Prop :=
  -- loads and fetches that hit
  (∀ (s : State) (h k n rd : Nat) (sg : Bool) (x : CoreAcc) (p : CorePlace), CoreAt s h x k p → x.op = .load n sg rd →
    (s.dev.dirEnt k).holds h = true → s.dev.placePoisoned (s.dev.partOfHart h) p n = false →
    exec (.rds h ⟨x.addr % 2 ^ 48 / 64, some x⟩) s = .next { s with
      dev := s.dev.modHart h (fun y => { y.xPut rd (loadWord n sg (leNat (s.dev.coreBytes h x.addr n p))) with
        pc := y.pc + BitVec.ofNat 64 x.len }) }) ∧
  (∀ (s : State) (h k vd : Nat) (x : CoreAcc) (p : CorePlace), CoreAt s h x k p → x.op = .pairLoad vd →
    (s.dev.dirEnt k).holds h = true → s.dev.placePoisoned (s.dev.partOfHart h) p 16 = false →
    exec (.rds h ⟨x.addr % 2 ^ 48 / 64, some x⟩) s = .next { s with
      dev := s.dev.modHart h (fun y => { y with
        v := mapSet 0#256 y.v vd (BitVec.ofNat 256 (((s.dev.hart h).vGet vd).toNat / 2 ^ 128 * 2 ^ 128 +
          leNat (s.dev.coreBytes h x.addr 16 p)))
        pc := y.pc + BitVec.ofNat 64 x.len }) }) ∧
  (∀ (s : State) (h k : Nat) (x : CoreAcc) (p : CorePlace), CoreAt s h x k p → x.op.reads = true → (s.dev.dirEnt k).holds h = true →
    s.dev.placePoisoned (s.dev.partOfHart h) p x.op.size = true →
    exec (.rds h ⟨x.addr % 2 ^ 48 / 64, some x⟩) s = .next { s with
      dev := (s.dev.tlog s.bt 1 44 (some (s.dev.partOfHart h)) h x.addr).coreTrap h x.op.cause x.addr }) ∧
  -- a load that misses asks for the line and waits
  (∀ (s : State) (h k : Nat) (x : CoreAcc) (p : CorePlace), CoreAt s h x k p → x.op.reads = true → (s.dev.dirEnt k).holds h = false →
    s.dev.asked h k = false →
    exec (.rds h ⟨x.addr % 2 ^ 48 / 64, some x⟩) s = .next { s with
      dev := s.dev.request s.bt h (x.addr % 2 ^ 48 / 64) .rds (some x) }) ∧
  -- stores: of a line in M or E, and of one that has been asked for
  (∀ (s : State) (h k : Nat) (x : CoreAcc) (p : CorePlace), CoreAt s h x k p → x.op.plainStore = true →
    (s.dev.dirEnt k).owner = some h →
    exec (.rdx h ⟨x.addr % 2 ^ 48 / 64, some x⟩) s = .next { s with
      dev := ((s.dev.bufferStore h x).modDir k (fun e => { e with mod := true })).drainLine h k }) ∧
  (∀ (s : State) (h k : Nat) (x : CoreAcc) (p : CorePlace), CoreAt s h x k p → x.op.plainStore = true →
    (s.dev.dirEnt k).owner ≠ some h → s.dev.asked h k = true →
    exec (.rdx h ⟨x.addr % 2 ^ 48 / 64, some x⟩) s = .next { s with dev := s.dev.bufferStore h x }) ∧
  -- atomics on an owned line
  (∀ (s : State) (h k n rd : Nat) (x : CoreAcc) (p : CorePlace) (d : Dev), CoreAt s h x k p → x.op = .lr n rd →
    (s.dev.dirEnt k).owner = some h → d = (s.dev.modDir k (fun e => { e with mod := true })).drainLine h k →
    d.corePlace (d.partOfHart h) x.addr n = p → d.placePoisoned (d.partOfHart h) p n = false →
    exec (.rdx h ⟨x.addr % 2 ^ 48 / 64, some x⟩) s = .next { s with
      dev := d.modHart h (fun y => { y.xPut rd (loadWord n true (leNat (d.coreBytes h x.addr n p))) with
        lr := some (coreLine (d.partOfHart h) x.addr), pc := y.pc + BitVec.ofNat 64 x.len }) }) ∧
  (∀ (s : State) (h k n rd rs : Nat) (x : CoreAcc) (p : CorePlace) (d : Dev), CoreAt s h x k p → x.op = .sc n rd rs →
    (s.dev.dirEnt k).owner = some h → d = (s.dev.modDir k (fun e => { e with mod := true })).drainLine h k →
    d.corePlace (d.partOfHart h) x.addr n = p → d.placePoisoned (d.partOfHart h) p n = false →
    exec (.rdx h ⟨x.addr % 2 ^ 48 / 64, some x⟩) s = .next { s with
      dev := if (d.hart h).lr = some (coreLine (d.partOfHart h) x.addr) then
          (d.corePut h x.addr (leBytes n ((d.hart h).xGet rs).toNat)).modHart h (fun y => { y.xPut rd 0#64 with
            lr := none, pc := y.pc + BitVec.ofNat 64 x.len })
        else d.modHart h (fun y => { y.xPut rd 1#64 with lr := none, pc := y.pc + BitVec.ofNat 64 x.len }) }) ∧
  (∀ (s : State) (h k fn n rd rs old v : Nat) (x : CoreAcc) (p : CorePlace) (d : Dev), CoreAt s h x k p → x.op = .amo fn n rd rs →
    (s.dev.dirEnt k).owner = some h → d = (s.dev.modDir k (fun e => { e with mod := true })).drainLine h k →
    d.corePlace (d.partOfHart h) x.addr n = p → d.placePoisoned (d.partOfHart h) p n = false → old = leNat (d.coreBytes h x.addr n p) →
    amoOp fn n old (((d.hart h).xGet rs).toNat % 2 ^ (8 * n)) (((d.hart h).xGet rd).toNat % 2 ^ (8 * n)) = some v →
    exec (.rdx h ⟨x.addr % 2 ^ 48 / 64, some x⟩) s = .next { s with
      dev := (d.corePut h x.addr (leBytes n v)).modHart h (fun y => { y.xPut rd (loadWord n true old) with
        pc := y.pc + BitVec.ofNat 64 x.len }) }) ∧
  (∀ (s : State) (h k rd rs old : Nat) (x : CoreAcc) (p : CorePlace) (d : Dev), CoreAt s h x k p → x.op = .casq rd rs →
    (s.dev.dirEnt k).owner = some h → d = (s.dev.modDir k (fun e => { e with mod := true })).drainLine h k →
    d.corePlace (d.partOfHart h) x.addr 16 = p → d.placePoisoned (d.partOfHart h) p 16 = false → old = leNat (d.coreBytes h x.addr 16 p) →
    exec (.rdx h ⟨x.addr % 2 ^ 48 / 64, some x⟩) s = .next { s with
      dev := (if old = (d.hart h).pairGet rd then d.corePut h x.addr (leBytes 16 ((d.hart h).pairGet rs)) else d).modHart h
        (fun y => { y.pairPut rd old with pc := y.pc + BitVec.ofNat 64 x.len }) }) ∧
  -- accesses that trap
  (∀ (s : State) (h : Nat) (x : CoreAcc), h < 96 → s.dev.runs h = true → (s.dev.hart h).regLoad = none →
    x.addr % 2 ^ 48 < regBase → x.op.atomic = true → x.addr % x.op.size ≠ 0 →
    exec (.rdx h ⟨x.addr % 2 ^ 48 / 64, some x⟩) s = .next { s with dev := s.dev.coreTrap h x.op.misaligned x.addr }) ∧
  (∀ (s : State) (h rd rs : Nat) (x : CoreAcc), h < 96 → s.dev.runs h = true → (s.dev.hart h).regLoad = none →
    x.addr % 2 ^ 48 < regBase → x.op = .casq rd rs → x.addr % 16 = 0 → x.attr ≠ .pma →
    exec (.rdx h ⟨x.addr % 2 ^ 48 / 64, some x⟩) s = .next { s with dev := s.dev.coreTrap h 7 x.addr }) ∧
  (∀ (s : State) (h : Nat) (x : CoreAcc), h < 96 → s.dev.runs h = true → (s.dev.hart h).regLoad = none →
    x.addr % 2 ^ 48 < regBase → x.exc = none → s.dev.corePlace (s.dev.partOfHart h) x.addr x.op.size = .none → x.op.reads = true →
    exec (.rds h ⟨x.addr % 2 ^ 48 / 64, some x⟩) s = .next { s with
      dev := (s.dev.tlog s.bt 1 43 (some (s.dev.partOfHart h)) h x.addr).coreTrap h x.op.cause x.addr }) ∧
  -- the Device Register Space
  (∀ (s : State) (h off rd : Nat) (sg : Bool) (x : CoreAcc), h < 96 → s.dev.runs h = true → (s.dev.hart h).regLoad = none →
    regBase ≤ x.addr % 2 ^ 48 → off = x.addr % 2 ^ 48 - regBase → x.op = .load 8 sg rd → (s.dev.hart h).timedOut = [] → off % 8 = 0 →
    s.dev.coreReaches h off = true → (s.dev.drainStores h).deadPlace ((s.dev.drainStores h).partOfHart h)
      (spacePlace (s.dev.drainStores h).layout off) = false →
    exec (.rds h ⟨x.addr % 2 ^ 48 / 64, some x⟩) s = .next { s with
      dev := (s.dev.drainStores h).modHart h (fun y => { y.xPut rd ((s.dev.drainStores h).placeRead s.bt (.core h)
        (spacePlace (s.dev.drainStores h).layout off)) with regLoad := none, pc := y.pc + BitVec.ofNat 64 x.len }) }) ∧
  (∀ (s : State) (h off rs : Nat) (x : CoreAcc), h < 96 → s.dev.runs h = true → (s.dev.hart h).regLoad = none →
    regBase ≤ x.addr % 2 ^ 48 → off = x.addr % 2 ^ 48 - regBase → x.op = .store 8 rs → (s.dev.hart h).timedOut = [] → off % 8 = 0 →
    s.dev.coreReaches h off = true →
    exec (.rdx h ⟨x.addr % 2 ^ 48 / 64, some x⟩) s = .next { s with
      dev := (s.dev.coreStore s.bt h off ((s.dev.hart h).xGet rs)).modHart h (fun y => { y with
        pc := y.pc + BitVec.ofNat 64 x.len }) }) ∧
  (∀ (s : State) (h : Nat) (x : CoreAcc), h < 96 → s.dev.runs h = true → (s.dev.hart h).regLoad = none → regBase ≤ x.addr % 2 ^ 48 →
    x.op.atomic = true → (s.dev.hart h).timedOut = [] →
    exec (.rdx h ⟨x.addr % 2 ^ 48 / 64, some x⟩) s = .next { s with
      dev := (s.dev.tlog s.bt 1 43 (some (s.dev.partOfHart h)) h x.addr).coreTrap h 7 x.addr })

/-- R141, R147 to R150, R154 to R161, R164, R165: every instruction of the control stream completes. Where launch `l` runs, its member `m`
neither waits nor has ended, its sequencer is not stalled, and the sequencer cache holds the word `w` at the member's pc in a sound
line, each instruction whose fields and operands are in order has its effect and the member goes on. -/
def Obligations.ControlStreamCompletes : Prop :=
  ∀ (s : State) (l m : Nat) (w : Word) (x : Launch) (y : Member) (q : SqcLine),
    s.dev.launch? l = some x → x.st = .running → s.dev.member? l m = some y → y.ended = false → y.wait = .none →
    (s.dev.ce y.ce).stalled = false → s.dev.sqcFind y.ce x.ctx y.pc true = some q → q.bad = false →
    listNat ((q.data.drop (y.pc % 64)).take 8) 0 8 = w.toNat → reservedOk w.toNat = true →
    -- SOP, SOPI
    (bits w.toNat 63 56 = 0x00 → iD w.toNat < 32 → iA w.toNat < 32 → iB w.toNat < 32 → iFN w.toNat < 0x15 →
      ∃ v, scalarOp (iFN w.toNat) (y.sget (iA w.toNat)) (y.sget (iB w.toNat)) = some v ∧
        exec (.sop (.control l m) w) s = .next (s.goes l m y (s.dev.sput l m (iD w.toNat) v))) ∧
    (bits w.toNat 63 56 = 0x01 → iD w.toNat < 32 → iA w.toNat < 32 → iSel w.toNat < 9 →
      ∃ v, scalarOpI (iSel w.toNat) (y.sget (iA w.toNat)) (bits w.toNat 31 0) = some v ∧
        exec (.sopi (.control l m) w) s = .next (s.goes l m y (s.dev.sput l m (iD w.toNat) v))) ∧
    -- SLD of a line in the sequencer cache; SST to a WT-NC page in HBM whose translation the CE holds
    (∀ n sg a g, bits w.toNat 63 56 = 0x02 → iD w.toNat < 32 → iA w.toNat < 32 → scalarSize false (iSel w.toNat) = some (n, sg) →
      a = addOff (y.sget (iA w.toNat)) (iImm w.toNat) → a % n = 0 → s.dev.sqcFind y.ce x.ctx a false = some g → g.bad = false →
      s.dev.moving x.ctx a = false →
      exec (.sld (.control l m) w false) s = .next (s.goes l m y ((s.dev.noteIn l (g.dpa + a % 64) n).sput l m (iD w.toNat)
        (loadVal n sg ((g.data.drop (a % 64)).take n))))) ∧
    (∀ n sg a p z, bits w.toNat 63 56 = 0x03 → iD w.toNat < 32 → iA w.toNat < 32 → scalarSize true (iSel w.toNat) = some (n, sg) →
      a = addOff (y.sget (iA w.toNat)) (iImm w.toNat) → a % n = 0 → x.shadowOf = none → s.dev.sqcSound y.ce x.ctx → a < 2 ^ 56 →
      tlbHit (s.dev.tlb (tlbCe y.ce)) x.ctx a = some p → s.dev.isLocal (s.dev.partOfCtx x.ctx) p.dpa = true → p.w = true →
      p.inDdr = false → p.cp = 2 → s.dev.pageMove x.ctx p = none → z = p.at_ a % 2 ^ 48 →
      exec (.sst (.control l m) w false) s = .next (s.goes l m y ((s.dev.noteOut l z n).memPut z
        (leBytes n (y.sget (iD w.toNat)).toNat)))) ∧
    -- SLDL, SSTL
    (∀ n sg a, bits w.toNat 63 56 = 0x04 → iD w.toNat < 32 → iA w.toNat < 32 → scalarSize false (iSel w.toNat) = some (n, sg) →
      a = addOff (y.sget (iA w.toNat)) (iImm w.toNat) → a % n = 0 → a + n ≤ x.lsSize →
      exec (.sldl (.control l m) w) s = .next (s.goes l m y (s.dev.sput l m (iD w.toNat) (loadVal n sg (s.dev.lsRead y a n))))) ∧
    (∀ n sg a, bits w.toNat 63 56 = 0x05 → iD w.toNat < 32 → iA w.toNat < 32 → scalarSize true (iSel w.toNat) = some (n, sg) →
      a = addOff (y.sget (iA w.toNat)) (iImm w.toNat) → a % n = 0 → a + n ≤ x.lsSize →
      exec (.sstl (.control l m) w) s = .next (s.goes l m y (s.dev.lsPut y a n (y.sget (iD w.toNat)).toNat))) ∧
    -- SAMO of eight bytes of a page in HBM whose translation the CE holds
    (∀ a p z d, bits w.toNat 63 56 = 0x06 → iD w.toNat < 32 → iA w.toNat < 32 → iB w.toNat < 32 → iC w.toNat < 32 →
      iFC w.toNat = 1 → iFN w.toNat < 10 → a = (y.sget (iA w.toNat)).toNat → a % 8 = 0 → x.shadowOf = none →
      s.dev.sqcSound y.ce x.ctx → a < 2 ^ 56 → tlbHit (s.dev.tlb (tlbCe y.ce)) x.ctx a = some p →
      s.dev.isLocal (s.dev.partOfCtx x.ctx) p.dpa = true → p.w = true → p.inDdr = false → s.dev.pageMove x.ctx p = none →
      z = p.at_ a % 2 ^ 48 → d = (s.dev.sqcClean y.ce (fun g => g.ctx == x.ctx && g.ava == a / 64 * 64)).sqcDrop y.ce
        (fun g => g.ctx == x.ctx && g.ava == a / 64 * 64) → d.poisoned z 8 = false →
      ∃ v, amoOp (iFN w.toNat) 8 (memNat d.mem z 8) (y.sget (iB w.toNat)).toNat (y.sget (iC w.toNat)).toNat = some v ∧
        exec (.samo (.control l m) w) s = .next (s.goes l m y (((d.noteBoth l z 8).memPut z (leBytes 8 v)).sput l m (iD w.toNat)
          (BitVec.ofNat 64 (memNat d.mem z 8))))) ∧
    -- SBR, SJAL, SJR
    (bits w.toNat 63 56 = 0x10 → brA w.toNat < 32 → brB w.toNat < 32 → iSel w.toNat < 7 →
      ∃ b, scalarCond (iSel w.toNat) (y.sget (brA w.toNat)) (y.sget (brB w.toNat)) = some b ∧
        exec (.sbr (.control l m) w) s = .next { s with
          dev := s.dev.retire s.bt l m (if b then branchTarget y.pc w.toNat else (y.pc + 8) % 2 ^ 64) }) ∧
    (bits w.toNat 63 56 = 0x11 → iD w.toNat < 32 →
      exec (.sjal (.control l m) w) s = .next { s with
        dev := (s.dev.sput l m (iD w.toNat) (BitVec.ofNat 64 (y.pc + 8))).retire s.bt l m (branchTarget y.pc w.toNat) }) ∧
    (bits w.toNat 63 56 = 0x12 → iD w.toNat < 32 → iA w.toNat < 32 → (y.sget (iA w.toNat)).toNat % 8 = 0 →
      exec (.sjr (.control l m) w) s = .next { s with
        dev := (s.dev.sput l m (iD w.toNat) (BitVec.ofNat 64 (y.pc + 8))).retire s.bt l m (y.sget (iA w.toNat)).toNat }) ∧
    -- VRUN, VWAIT, GBAR, END
    (∀ a, bits w.toNat 63 56 = 0x13 → iA w.toNat < 32 → a = addOff (y.sget (iA w.toNat)) (iImm w.toNat) → a % 8 = 0 →
      a + 8 ≤ x.lsSize → s.dev.cohortsDone l m = true →
      exec (.vrun (.control l m) w) s = .next (s.goes l m y (s.dev.startCohorts l m x y a))) ∧
    (bits w.toNat 63 56 = 0x14 → s.dev.cohortsDone l m = true →
      exec (.vwait (.control l m) w) s = .next (s.goes l m y s.dev)) ∧
    (bits w.toNat 63 56 = 0x15 → s.dev.cmdsLeft l m none = false → s.dev.sqcSound y.ce x.ctx →
      exec (.gbar (.control l m) w) s = .next { s with
        dev := (s.dev.sqcClean y.ce (fun g => g.ctx == x.ctx && g.dirty)).modMember l m (fun z =>
          { z with gbars := z.gbars + 1, wait := .gbar, progress := s.bt }) }) ∧
    (bits w.toNat 63 56 = 0x16 → s.dev.cmdsLeft l m none = false → s.dev.cohortsDone l m = true →
      exec (.endMember (.control l m) w) s = .next { s with
        dev := s.dev.modMember l m (fun z => { z with ended := true, wait := .none, progress := s.bt }) }) ∧
    -- WAITQ, TWAIT, FENCE, CINV
    (bits w.toNat 63 56 = 0x18 → iA w.toNat < 32 → iFN w.toNat < 4 →
      (y.sget (iA w.toNat)).toNat ≤ mapGet 0 y.tickets (iFN w.toNat) →
      s.dev.cmdsLeft l m (some (iFN w.toNat, (y.sget (iA w.toNat)).toNat)) = false →
      exec (.waitq (.control l m) w) s = .next (s.goes l m y s.dev)) ∧
    (bits w.toNat 63 56 = 0x19 → iFN w.toNat < 2 →
      exec (.twait (.control l m) w) s = .next (s.goes l m y (s.dev.modCe y.ce (fun c => c.tensorDone (iFN w.toNat == 1)
        (fun a => decide (y.lsBase * 4096 ≤ a) && decide (a < y.lsBase * 4096 + x.lsSize)))))) ∧
    (bits w.toNat 63 56 = 0x1A → 0 < iFN w.toNat → iFN w.toNat < 4 → s.dev.cmdsLeft l m none = false →
      s.dev.cohortsDone l m = true → s.dev.sqcSound y.ce x.ctx →
      exec (.fence (.control l m) w) s = .next (s.goes l m y (if bit (iFN w.toNat) 1 then
        s.dev.sqcClean y.ce (fun g => g.ctx == x.ctx && g.dirty) else s.dev))) ∧
    (∀ lo n hit d, bits w.toNat 63 56 = 0x1B → iA w.toNat < 32 → iB w.toNat < 32 → iFN w.toNat < 2 → s.dev.sqcSound y.ce x.ctx →
      lo = (y.sget (iA w.toNat)).toNat → n = (y.sget (iB w.toNat)).toNat →
      hit = (fun (g : SqcLine) => g.ctx == x.ctx && (bit (iFN w.toNat) 0 || !g.insn) && decide (0 < n) && decide (g.ava < lo + n) &&
        decide (lo < g.ava + 64)) → d = (s.dev.sqcClean y.ce hit).sqcDrop y.ce hit →
      exec (.cinv (.control l m) w) s = .next (s.goes l m y ((d.rangeParts x.ctx lo n).foldl (fun d r => d.backInv r.1 r.2) d))) ∧
    -- FSTAT, BTRD, BTWAIT
    (bits w.toNat 63 56 = 0x1C → iD w.toNat < 32 → iFN w.toNat = 0 → s.dev.readoutLeft x y = false → s.dev.cohortsDone l m = true →
      exec (.fstat (.control l m) w) s = .next (s.goes l m y (s.dev.sput l m (iD w.toNat) (BitVec.ofNat 64 x.fstat)))) ∧
    (bits w.toNat 63 56 = 0x1D → iD w.toNat < 32 →
      exec (.btrd (.control l m) w) s = .next (s.goes l m y (s.dev.sput l m (iD w.toNat) (BitVec.ofNat 64 s.bt)))) ∧
    (bits w.toNat 63 56 = 0x1E → iA w.toNat < 32 → (y.sget (iA w.toNat)).toNat ≤ s.bt →
      exec (.btwait (.control l m) w) s = .next (s.goes l m y s.dev)) ∧
    -- SIGNAL of a ring entry
    (∀ n k tag d, bits w.toNat 63 56 = 0x1F → iA w.toNat < 32 → iB w.toNat < 32 → iC w.toNat < 32 → iFN w.toNat = 0 →
      s.dev.cmdsLeft l m none = false → s.dev.sqcSound y.ce x.ctx → d = s.dev.sqcClean y.ce (fun g => g.ctx == x.ctx && g.dirty) →
      n = (y.sget (iC w.toNat)).toNat → n < (d.ctx x.ctx).sigCount →
      d.poisoned ((d.ctx x.ctx).sigTable % 2 ^ 48 + 16 * n) 16 = false →
      d.target (d.partOfCtx x.ctx) (memNat d.mem ((d.ctx x.ctx).sigTable % 2 ^ 48 + 16 * n) 16) = some (.ring k tag) →
      (d.pair k).ctx = x.ctx → (d.pair k).st ≠ .detached → (d.pair k).admin = false → x.shadowOf = none → d.postWaits k = false →
      exec (.signal (.control l m) w) s = .next (s.goes l m y (d.post k {
        tag, status := .ok, bt := s.bt
        result := (y.sget (iA w.toNat)).toNat + (y.sget (iB w.toNat)).toNat * 2 ^ 64 } none))) ∧
    -- TBIND; MMA, TRD and CBLD of the launch that holds the tensor unit
    (∀ a, bits w.toNat 63 56 = 0x80 → iSR w.toNat < 32 → a = (y.sget (iSR w.toNat)).toNat → a % 64 = 0 → a + 64 ≤ x.lsSize →
      tdescExc x (s.dev.lsNat y a 64) = none →
      exec (.tbind (.control l m) w) s = .next (s.goes l m y (s.dev.modMember l m (fun z => { z with
        handles := mapPut z.handles (iTD w.toNat) (tdescOf (s.dev.lsNat y a 64)) })))) ∧
    (∀ ta tb e, bits w.toNat 63 56 = 0x81 → e = s.dev.ce y.ce → e.tensor = some (l, m) → y.handle (iTA w.toNat) = some ta →
      y.handle (iTB w.toNat) = some tb → mmaExc x e (some ta) (some tb) = none →
      exec (.mma (.control l m) w) s = .next (s.goes l m y ((s.dev.setCe y.ce (Ce.operands { e with
        acc := (cellsOf ta.rows tb.cols).foldl (fun a p => mapSet {} a (cellKey p.1 p.2)
          (s.dev.mmaCell y ta tb p.1 p.2 (e.cell p.1 p.2))) e.acc
        mode := some (ta.fmt == 0) } y [ta, tb])).fbump F.cePerfTensorBusyCycles y.ce (mmaCycles ta.fmt ta.cols)))) ∧
    (∀ t e d rows, bits w.toNat 63 56 = 0x82 → e = s.dev.ce y.ce → e.tensor = some (l, m) → y.handle (iTD w.toNat) = some t →
      bit w.toNat 11 = false → bit w.toNat 12 = false → bit w.toNat 13 = false → bit w.toNat 15 = false →
      trdExc x w.toNat (some t) (y.handle (iTA w.toNat)) = none →
      rows = (List.range t.rows).map (fun r => (r,
        readRow t.fmt (e.mode == some true) (iShift w.toNat) (bit w.toNat 14) ((List.range t.cols).map (fun c => e.cell r c))
          ((List.range t.cols).map (fun _ => Rm.rne)), ((List.range t.cols).map (fun c => e.cell r c)).any (fun c => c.low))) →
      d = (rows.foldl (fun d p => (d.lsReadout y (t.data + p.1 * t.rowStride) p.2.1.1).lsReadout y (t.scale + p.1 * t.scaleStride)
        p.2.1.2.1) s.dev).fstatOr l (rows.any (fun p => p.2.2)) (rows.any (fun p => p.2.1.2.2.1)) (rows.any (fun p => p.2.1.2.2.2)) →
      exec (.trd (.control l m) w) s = .next (s.goes l m y d)) ∧
    (∀ a n, bits w.toNat 63 56 = 0x83 → iSR w.toNat < 32 → n = iTFN w.toNat → n < 4 → (s.dev.ce y.ce).tensor = some (l, m) →
      a = (y.sget (iSR w.toNat)).toNat → a % 64 = 0 → a + 32768 ≤ x.lsSize →
      exec (.cbld (.control l m) w) s = .next (s.goes l m y (s.dev.modCe y.ce (fun e => Ce.operand { e with
        cb := memWriteBytes (memZero e.cb (32768 * n) 32768) (32768 * n) (s.dev.lsRead y a 32768) } y (some n) a 32768)))) ∧
    -- GET and PUT of one row of global memory; GATHER and SCATTER of a list; RED; FILL
    (∀ sd sa sl, sd = (y.sget (iSD w.toNat)).toNat → sa = (y.sget (iSA w.toNat)).toNat → sl = (y.sget (iSL w.toNat)).toNat →
      0 < sl → sa + sl ≤ 2 ^ 56 → sd + sl ≤ x.lsSize → iTwoD w.toNat = false → iRb w.toNat = false →
      (bits w.toNat 63 56 = 0x90 → commandFields .get w.toNat = true →
        exec (.get (.control l m) w) s = .next (s.goes l m y (s.dev.issued s.bt l m x y .get w.toNat))) ∧
      (bits w.toNat 63 56 = 0x91 → commandFields .put w.toNat = true →
        exec (.put (.control l m) w) s = .next (s.goes l m y (s.dev.issued s.bt l m x y .put w.toNat)))) ∧
    (∀ at_ n, at_ = (y.sget (iSX w.toNat)).toNat → n = (y.sget (iSL w.toNat)).toNat → 0 < n → n ≤ 4096 → at_ % 16 = 0 →
      at_ + 16 * n ≤ x.lsSize → iRb w.toNat = false →
      (∀ i < n, s.dev.lsNat y (at_ + 16 * i + 12) 4 = 0 ∧ s.dev.lsNat y (at_ + 16 * i + 8) 4 ≠ 0 ∧
        s.dev.lsNat y (at_ + 16 * i) 8 + s.dev.lsNat y (at_ + 16 * i + 8) 4 ≤ 2 ^ 56) →
      (y.sget (iSD w.toNat)).toNat + ((List.range n).map (fun i => s.dev.lsNat y (at_ + 16 * i + 8) 4)).sum ≤ x.lsSize →
      (bits w.toNat 63 56 = 0x92 → commandFields .gather w.toNat = true →
        exec (.gather (.control l m) w) s = .next (s.goes l m y (s.dev.issued s.bt l m x y .gather w.toNat))) ∧
      (bits w.toNat 63 56 = 0x93 → commandFields .scatter w.toNat = true →
        exec (.scatter (.control l m) w) s = .next (s.goes l m y (s.dev.issued s.bt l m x y .scatter w.toNat)))) ∧
    (∀ sd sa sl el, bits w.toNat 63 56 = 0x94 → commandFields .red w.toNat = true → bits w.toNat 2 0 < 2 →
      el = (if bits w.toNat 2 0 = 0 then 32 else 4) → sd = (y.sget (iSD w.toNat)).toNat → sa = (y.sget (iSA w.toNat)).toNat →
      sl = (y.sget (iSL w.toNat)).toNat → iRb w.toNat = false → 0 < sl → sa + sl ≤ 2 ^ 56 → sd % el = 0 → sa % el = 0 → sl % el = 0 →
      sd + sl ≤ x.lsSize →
      exec (.red (.control l m) w) s = .next (s.goes l m y (s.dev.issued s.bt l m x y .red w.toNat))) ∧
    (∀ sa sl, bits w.toNat 63 56 = 0x95 → commandFields .fill w.toNat = true → sa = (y.sget (iSA w.toNat)).toNat →
      sl = (y.sget (iSL w.toNat)).toNat → iRb w.toNat = false → 0 < sl → sl ≤ 2 ^ 30 → sl % 8 = 0 → sa % 8 = 0 → sa + sl ≤ 2 ^ 56 →
      exec (.fill (.control l m) w) s = .next (s.goes l m y (s.dev.issued s.bt l m x y .fill w.toNat))) ∧
    -- KVG, KVA, XDISP, LCHK
    (bits w.toNat 63 56 = 0xA0 → commandFields .kvg w.toNat = true → Dev.kvExc false s.dev x y w.toNat = none →
      exec (.kvg (.control l m) w) s = .next (s.goes l m y (s.dev.issued s.bt l m x y .kvg w.toNat))) ∧
    (bits w.toNat 63 56 = 0xA1 → commandFields .kva w.toNat = true → Dev.kvExc true s.dev x y w.toNat = none →
      exec (.kva (.control l m) w) s = .next (s.goes l m y (s.dev.issued s.bt l m x y .kva w.toNat))) ∧
    (bits w.toNat 63 56 = 0xA2 → commandFields .xdisp w.toNat = true → s.dev.xdispExc x y w.toNat = none →
      exec (.xdisp (.control l m) w) s = .next { s with
        dev := (s.goes l m y (s.dev.issued s.bt l m x y .xdisp w.toNat)).dev.beginAnswers s.bt s.dev.eng.nextCmd }) ∧
    (bits w.toNat 63 56 = 0xA3 → commandFields .lchk w.toNat = true → s.dev.lchkExc x y w.toNat = none →
      exec (.lchk (.control l m) w) s = .next { s with
        dev := (s.goes l m y (s.dev.issued s.bt l m x y .lchk w.toNat)).dev.beginAnswers s.bt s.dev.eng.nextCmd })

/-- R92, R131 to R133, R139, R140, R144, R147, R148, R151 to R153: every instruction of a cohort completes. Where launch `l` runs, its
member `m` has cohort `c` whose issue slot has its turn and whose pc names the word `w` in Local Store, each instruction whose fields and
operands are in order has its effect and the cohort goes on. R97, R102, R126, R161, R188, R192, R194, R347: the events of a CE
complete: a sequencer miss is filled, a group barrier of one member lets it go, a mailbox with room takes the post that waited, the free
tensor unit goes to the launch that has waited longest, a held answer whose layer is resident is DONE, and LCHK and XDISP retire with
their records once no answer is held. -/
def Obligations.CohortsAndEventsComplete : Prop :=
  (∀ (s : State) (l m c : Nat) (w : Word) (x : Launch) (y : Member) (q : Cohort),
    s.dev.launch? l = some x → x.st = .running → s.dev.member? l m = some y → mapFind? s.dev.eng.cohorts (cohortKey l m c) = some q →
    q.ended = false → s.dev.slotTurn (cohortKey l m c) q = true → q.pc + 8 ≤ x.lsSize → s.dev.lsNat y q.pc 8 = w.toNat →
    reservedOk w.toNat = true →
    -- VIOP, VIOPI, VICMP, VSEL, VSHFL
    (bits w.toNat 63 56 = 0x30 → dstOk x (iD w.toNat) = true → srcOk x (iA w.toNat) = true → srcOk x (iB w.toNat) = true →
      iFN w.toNat < 0x0F → ∃ f : Nat → Lane, (∀ i, laneOp (iFN w.toNat) (bit w.toNat 4) (s.dev.vsrc x y c (iA w.toNat) i)
        (s.dev.vsrc x y c (iB w.toNat) i) = some (f i)) ∧
        exec (.viop (.cohort l m c) w) s = .next (s.cohortGoes l m c y q (s.dev.vput x y c (iD w.toNat) (q.lanesOn w.toNat) f))) ∧
    (bits w.toNat 63 56 = 0x31 → dstOk x (iD w.toNat) = true → srcOk x (iA w.toNat) = true → iSel w.toNat < 9 →
      ∃ f : Nat → Lane, (∀ i, laneOpI (iSel w.toNat) (s.dev.vsrc x y c (iA w.toNat) i) (BitVec.ofNat 32 (bits w.toNat 31 0)) = some (f i)) ∧
        exec (.viopi (.cohort l m c) w) s = .next (s.cohortGoes l m c y q (s.dev.vput x y c (iD w.toNat) (q.lanesOn w.toNat) f))) ∧
    (bits w.toNat 63 56 = 0x32 → iD w.toNat < 8 → srcOk x (iA w.toNat) = true → srcOk x (iB w.toNat) = true → iFN w.toNat < 6 →
      ∃ f : Nat → Bool, (∀ i, laneCmp (iFN w.toNat) (s.dev.vsrc x y c (iA w.toNat) i) (s.dev.vsrc x y c (iB w.toNat) i) = some (f i)) ∧
        exec (.vicmp (.cohort l m c) w) s = .next (s.cohortGoes l m c y q (s.dev.pput l m c (iD w.toNat) (q.lanesOn w.toNat) f))) ∧
    (bits w.toNat 63 56 = 0x33 → dstOk x (iD w.toNat) = true → srcOk x (iA w.toNat) = true → srcOk x (iB w.toNat) = true →
      iC w.toNat < 8 →
      exec (.vsel (.cohort l m c) w) s = .next (s.cohortGoes l m c y q (s.dev.vput x y c (iD w.toNat) (q.lanesOn w.toNat) (fun i =>
        if bit (q.pget (iC w.toNat)).toNat i then s.dev.vsrc x y c (iA w.toNat) i else s.dev.vsrc x y c (iB w.toNat) i)))) ∧
    (bits w.toNat 63 56 = 0x72 → dstOk x (iD w.toNat) = true → srcOk x (iA w.toNat) = true → srcOk x (iB w.toNat) = true →
      exec (.vshfl (.cohort l m c) w) s = .next (s.cohortGoes l m c y q (s.dev.vput x y c (iD w.toNat) (q.lanesOn w.toNat) (fun i =>
        s.dev.vsrc x y c (iA w.toNat) ((s.dev.vsrc x y c (iB w.toNat) i).toNat % 32))))) ∧
    -- VFOP, VFMA, VFCMP, VSF, VCVT
    (∀ f, bits w.toNat 63 56 = 0x40 → dstOk x (iD w.toNat) = true → srcOk x (iA w.toNat) = true → srcOk x (iB w.toNat) = true →
      iFN w.toNat < 7 → vfFmt (iFC w.toNat) = some f →
      ∃ r : Nat → Nat × Bool × Bool, (∀ i, (vfOp (iFN w.toNat) (vfVal f (s.dev.vsrc x y c (iA w.toNat) i))
        (vfVal f (s.dev.vsrc x y c (iB w.toNat) i))).map (fun v => vfRound f v.2 v.1) = some (r i)) ∧
        exec (.vfop (.cohort l m c) w) s = .next (s.cohortGoes l m c y q ((s.dev.fstatOr l false
          ((q.lanesOn w.toNat).any (fun i => (r i).2.1)) ((q.lanesOn w.toNat).any (fun i => (r i).2.2))).vput x y c (iD w.toNat)
          (q.lanesOn w.toNat) (fun i => BitVec.ofNat 32 (r i).1)))) ∧
    (∀ (f : Fmt) (v : Nat → Nat → FVal) (r : Nat → Nat × Bool × Bool), bits w.toNat 63 56 = 0x41 → dstOk x (iD w.toNat) = true →
      srcOk x (iA w.toNat) = true → srcOk x (iB w.toNat) = true → srcOk x (iC w.toNat) = true → vfFmt (iFC w.toNat) = some f →
      v = (fun n i => vfVal f (s.dev.vsrc x y c n i)) →
      r = (fun i => vfRound f [v (iA w.toNat) i, v (iB w.toNat) i, v (iC w.toNat) i]
        ((v (iA w.toNat) i).fma (v (iB w.toNat) i) (v (iC w.toNat) i))) →
      exec (.vfma (.cohort l m c) w) s = .next (s.cohortGoes l m c y q ((s.dev.fstatOr l false
        ((q.lanesOn w.toNat).any (fun i => (r i).2.1)) ((q.lanesOn w.toNat).any (fun i => (r i).2.2))).vput x y c (iD w.toNat)
        (q.lanesOn w.toNat) (fun i => BitVec.ofNat 32 (r i).1)))) ∧
    (∀ g, bits w.toNat 63 56 = 0x42 → iD w.toNat < 8 → srcOk x (iA w.toNat) = true → srcOk x (iB w.toNat) = true →
      vfFmt (iFC w.toNat) = some g → iFN w.toNat < 4 →
      ∃ f : Nat → Bool, (∀ i, vfCmp (iFN w.toNat) (vfVal g (s.dev.vsrc x y c (iA w.toNat) i)) (vfVal g (s.dev.vsrc x y c (iB w.toNat) i)) =
          some (f i)) ∧
        exec (.vfcmp (.cohort l m c) w) s = .next (s.cohortGoes l m c y q (s.dev.pput l m c (iD w.toNat) (q.lanesOn w.toNat) f))) ∧
    (∀ (f : Fmt) (v : Nat → FVal) (r : Nat → Nat), bits w.toNat 63 56 = 0x50 → dstOk x (iD w.toNat) = true →
      srcOk x (iA w.toNat) = true → iFN w.toNat < 7 → vfFmt (iFC w.toNat) = some f →
      v = (fun i => vfVal f (s.dev.vsrc x y c (iA w.toNat) i)) → r = (fun i => f.rne (specialFn (iFN w.toNat) (v i))) →
      exec (.vsf (.cohort l m c) w) s = .next (s.cohortGoes l m c y q ((s.dev.fstatOr l false
        ((q.lanesOn w.toNat).any (fun i => (specialFlags (iFN w.toNat) (v i) f (r i)).1))
        ((q.lanesOn w.toNat).any (fun i => (specialFlags (iFN w.toNat) (v i) f (r i)).2))).vput x y c (iD w.toNat)
        (q.lanesOn w.toNat) (fun i => BitVec.ofNat 32 (r i))))) ∧
    (∀ r : Nat → Nat × Bool × Bool, bits w.toNat 63 56 = 0x51 → dstOk x (iD w.toNat) = true → srcOk x (iA w.toNat) = true →
      iFN w.toNat < 16 → fmtMx (iFC w.toNat) = false → convOk (iFC w.toNat) = true → convOk (iFN w.toNat) = true →
      bit w.toNat 7 = false →
      r = (fun i => convert (iFC w.toNat) .rne (bit w.toNat 5) (bit w.toNat 6) (s.dev.vsrc x y c (iB w.toNat) 0).toNat
        (elemVal (iFN w.toNat) ((s.dev.vsrc x y c (iA w.toNat) i).toNat % 2 ^ fmtBits (iFN w.toNat)))) →
      exec (.vcvt (.cohort l m c) w) s = .next (s.cohortGoes l m c y q ((s.dev.fstatOr l false
        ((q.lanesOn w.toNat).any (fun i => (r i).2.1)) ((q.lanesOn w.toNat).any (fun i => (r i).2.2))).vput x y c (iD w.toNat)
        (q.lanesOn w.toNat) (fun i => BitVec.ofNat 32 (r i).1)))) ∧
    -- VLD and VLDC, VST and VSTC, VLATOM, each active lane aligned and within Local Store
    (∀ n sg tg, vecSize (iSel w.toNat) = some (n, sg) → dstOk x (iD w.toNat) = true → srcOk x (iA w.toNat) = true →
      (∀ i ∈ q.lanesOn w.toNat, s.dev.vaddr x y c w.toNat n tg i % n = 0 ∧ s.dev.vaddr x y c w.toNat n tg i + n ≤ x.lsSize) →
      bits w.toNat 63 56 = (if tg then 0x62 else 0x60) →
      exec (if tg then .vldc (.cohort l m c) w else .vld (.cohort l m c) w) s = .next (s.cohortGoes l m c y q
        (s.dev.vput x y c (iD w.toNat) (q.lanesOn w.toNat) (fun i =>
          if sg then BitVec.ofInt 32 (ofBits (8 * n) (s.dev.lsNat y (s.dev.vaddr x y c w.toNat n tg i) n))
          else BitVec.ofNat 32 (s.dev.lsNat y (s.dev.vaddr x y c w.toNat n tg i) n))))) ∧
    (∀ n sg tg, vecSize (iSel w.toNat) = some (n, sg) → srcOk x (iD w.toNat) = true → srcOk x (iA w.toNat) = true →
      (∀ i ∈ q.lanesOn w.toNat, s.dev.vaddr x y c w.toNat n tg i % n = 0 ∧ s.dev.vaddr x y c w.toNat n tg i + n ≤ x.lsSize) →
      bits w.toNat 63 56 = (if tg then 0x63 else 0x61) →
      exec (if tg then .vstc (.cohort l m c) w else .vst (.cohort l m c) w) s = .next (s.cohortGoes l m c y q
        (((q.lanesOn w.toNat).map (fun i => (s.dev.vaddr x y c w.toNat n tg i, (s.dev.vsrc x y c (iD w.toNat) i).toNat))).foldl
          (fun d p => d.lsPut y p.1 n p.2) s.dev))) ∧
    (bits w.toNat 63 56 = 0x64 → dstOk x (iD w.toNat) = true → srcOk x (iA w.toNat) = true → srcOk x (iB w.toNat) = true →
      iFN w.toNat < 6 → (∀ i ∈ q.lanesOn w.toNat, (s.dev.vsrc x y c (iA w.toNat) i).toNat % 4 = 0 ∧
        (s.dev.vsrc x y c (iA w.toNat) i).toNat + 4 ≤ x.lsSize) →
      exec (.vlatom (.cohort l m c) w) s = .next (s.cohortGoes l m c y q
        (((q.lanesOn w.toNat).map (fun i => (i, (s.dev.vsrc x y c (iA w.toNat) i).toNat, s.dev.vsrc x y c (iB w.toNat) i))).foldl
          (fun d p => (d.lsPut y p.2.1 4 ((latomOp (iFN w.toNat) (BitVec.ofNat 32 (d.lsNat y p.2.1 4)) p.2.2).getD 0#32).toNat).vput
            x y c (iD w.toNat) [p.1] (fun _ => BitVec.ofNat 32 (d.lsNat y p.2.1 4))) s.dev))) ∧
    -- BAR of the last to arrive, VOTE, VBR, VEND
    (bits w.toNat 63 56 = 0x70 → q.lanesOn w.toNat ≠ [] → q.atBar = false →
      (∀ r ∈ s.dev.eng.cohorts, r.1 / 512 = memberKey l m → r.1 % 512 ≠ c → r.2.ended = true ∨ q.bars + 1 ≤ r.2.bars) →
      exec (.bar (.cohort l m c) w) s = .next (s.cohortGoes l m c y q
        (s.dev.modCohort l m c (fun q' => { q' with bars := q.bars + 1, atBar := false })))) ∧
    (bits w.toNat 63 56 = 0x71 → iA w.toNat < 8 → iFN w.toNat < 2 → iD w.toNat < 8 →
      exec (.vote (.cohort l m c) w) s = .next (s.cohortGoes l m c y q (s.dev.pput l m c (iD w.toNat) (q.lanesOn w.toNat) (fun _ =>
        if iFN w.toNat = 0 then q.pget (iA w.toNat) != 0#32 else q.pget (iA w.toNat) == -1#32)))) ∧
    (bits w.toNat 63 56 = 0x73 → brA w.toNat < 8 → 6 ≤ iSel w.toNat → iSel w.toNat < 10 →
      ∃ b, vbrTaken (iSel w.toNat) (q.pget (brA w.toNat)) = some b ∧
        exec (.vbr (.cohort l m c) w) s = .next { s with
          dev := s.dev.cohortRetire s.bt l m c y.ce (if b then (BitVec.ofNat 32 q.pc + BitVec.ofInt 32 (8 * iImm w.toNat)).toNat else
            q.pc + 8) }) ∧
    (bits w.toNat 63 56 = 0x74 → q.lanesOn w.toNat ≠ [] →
      exec (.vend (.cohort l m c) w) s = .next (s.cohortGoes l m c y q
        (s.dev.modCohort l m c (fun q => { q with ended := true }))))) ∧
  -- the events of a CE
  (∀ (s : State) (k : Nat) (bad : List (Nat × Nat × Bool)) (q : SqcMiss) (y : Member) (p : Page) (d e : Dev),
    (s.dev.ce k).miss = some q → s.dev.member? q.launch q.member = some y → q.prefetch = false → q.ava < 2 ^ 56 →
    d = s.dev.hitLines k bad → tlbHit (d.tlb (tlbCe k)) q.ctx q.ava = some p → d.isLocal (d.partOfCtx q.ctx) p.dpa = true →
    d.pageMove q.ctx p = none → (∀ i < 16, d.linkDead i = false) →
    e = (d.modCe k (fun e => { e with miss := none, stalled := false })).modMember q.launch q.member
      (fun y => { y with wait := .none }) → e.poisoned (p.at_ q.ava % 2 ^ 48) 64 = false →
    exec (.sqcFillReturn ⟨k, bad⟩) s = .next { s with dev := e.sqcFill s.bt k (d.lineOf q.ctx p q.ava q.insn) }) ∧
  (∀ (s : State) (l m : Nat) (y : Member), s.dev.membersOf l = [(m, y)] → y.wait = .gbar →
    exec (.gbarComplete l) s = .next { s with
      dev := (s.dev.modMember l m (fun y => { y with wait := .none })).retire s.bt l m (y.pc + 8) }) ∧
  (∀ (s : State) (l m e o hart file lg eiid dpa : Nat) (x : Launch) (y : Member) (va vb : Word), s.dev.launch? l = some x →
    s.dev.member? l m = some y → y.wait = .mailbox e o va vb →
    s.dev.target (s.dev.partOfCtx x.ctx) e = some (.mailbox hart file lg eiid dpa) → s.dev.mailRoom dpa lg = true →
    s.dev.mailQueued dpa o = false →
    exec (.mailboxRoom l m) s = .next { s with
      dev := (s.dev.mailPut s.bt (s.dev.partOfCtx x.ctx) x.ctx hart file lg eiid dpa va vb).modMember l m
        (fun y => { y with wait := .none, progress := s.bt }) }) ∧
  (∀ (s : State) (k l m : Nat) (x : Launch) (ws : List (Nat × Nat)), (s.dev.ce k).tensor = none →
    (s.dev.ce k).tensorWait = (l, m) :: ws → s.dev.launch? l = some x →
    exec (.tensorUnitGrant k) s = .next { s with
      dev := (s.dev.setCe k ({ s.dev.ce k with tensorWait := ws }.acquire l m x.ctx)).modMember l m
        (fun y => { y with wait := .none, progress := s.bt }) }) ∧
  (∀ (s : State) (n i k : Nat) (c : Cmd) (x : Launch) (y : Member) (z : Slot), mapFind? s.dev.eng.cmds n = some c → c.op = .lchk →
    c.held.any (fun a => a.idx == i) = true → c.answer? i = none → c.fails = [] → s.dev.launch? c.l = some x →
    s.dev.member? c.l c.m = some y → x.shadowOf = none → x.shadow = none → k = s.dev.idxSlot y c i → s.dev.recorded c x i = none →
    s.dev.phase c.l k = .stepOpen → z = s.dev.slot k →
    (s.dev.lsNat y (c.sd + 0xC) 2, s.dev.lsNat y (c.sd + 0xE) 2) ∉ z.shadows →
    s.dev.layerResidency x.ctx (s.dev.lsNat y (c.sd + 0xC) 2) (s.dev.lsNat y (c.sd + 0xE) 2) = .resident →
    exec (.heldAnswerDecided n i) s = .next { s with
      dev := ((s.dev.modCmd n (Cmd.unhold s.bt i)).modCmd n (fun c => { c with
        answers := c.answers ++ [(i, [ocDone, 0, i % 8])] })).noteDecision c i 0 [ocDone, 0, i % 8] }) ∧
  (∀ (s : State) (n : Nat) (c : Cmd) (x : Launch) (y : Member), mapFind? s.dev.eng.cmds n = some c → c.started = true →
    s.dev.launch? c.l = some x → s.dev.member? c.l c.m = some y → c.answers ≠ [] → c.held = [] →
    (c.op = .lchk → exec (.commandComplete n) s = .next { s with
      dev := (s.dev.lsWrite y (s.dev.lsNat y (c.sd + 8) 4) ((List.range (s.dev.lsNat y c.sd 2)).flatMap (fun i =>
        leBytes 2 (((c.answer? i).getD []).getD 0 0 + ((c.answer? i).getD []).getD 1 0 * 2 ^ 8)))).retireCmd s.bt n [] }) ∧
    (c.op = .xdisp → exec (.commandComplete n) s = .next { s with
      dev := ((s.dev.lsWrite y (s.dev.xReq y c.sd).dest (s.dev.expertLists y c (s.dev.xReq y c.sd))).lsWrite y
        (s.dev.xReq y c.sd).dec ((List.range (s.dev.xReq y c.sd).tokens).flatMap (s.dev.tokenRecord y c
          (s.dev.xReq y c.sd)))).retireCmd s.bt n [] }))
end

