-- ==== Sys2Proof/Laws/Exec.lean ====
section
/-! SUPPORT. One equation per command: `exec` of it is a call of its meaning. -/

namespace Sys2Proof.Machine

@[simp] theorem exec_ptpSample {port} {offset} {s : State} : exec (.ptpSample port offset) s = execPtpSample port offset s := rfl
@[simp] theorem exec_ppsEdge {offset} {widthNs} {s : State} : exec (.ppsEdge offset widthNs) s = execPpsEdge offset widthNs s := rfl
@[simp] theorem exec_sourceLost {src} {s : State} : exec (.sourceLost src) s = execSourceLost src s := rfl
@[simp] theorem exec_stepReq {p} {v} {s : State} : exec (.stepReq p v) s = execStepReq p v s := rfl
@[simp] theorem exec_todWrite {v} {s : State} : exec (.todWrite v) s = execTodWrite v s := rfl
@[simp] theorem exec_coarseBucketCurrent {wheel} {s : State} : exec (.coarseBucketCurrent wheel) s = execCoarseBucketCurrent wheel s := rfl
@[simp] theorem exec_ewSlotWrite {p} {wheel} {n} {v} {s : State} : exec (.ewSlotWrite p wheel n v) s = execEwSlotWrite p wheel n v s := rfl
@[simp] theorem exec_ewNextWrite {p} {wheel} {n} {v} {s : State} : exec (.ewNextWrite p wheel n v) s = execEwNextWrite p wheel n v s := rfl
@[simp] theorem exec_firmwareTimer {wheel} {n} {s : State} : exec (.firmwareTimer wheel n) s = execFirmwareTimer wheel n s := rfl
@[simp] theorem exec_flagCheck {slot} {s : State} : exec (.flagCheck slot) s = execFlagCheck slot s := rfl
@[simp] theorem exec_level3Check {slot} {s : State} : exec (.level3Check slot) s = execLevel3Check slot s := rfl
@[simp] theorem exec_admitContext {pair} {s : State} : exec (.admitContext pair) s = execAdmitContext pair s := rfl
@[simp] theorem exec_contextClose {pair} {s : State} : exec (.contextClose pair) s = execContextClose pair s := rfl
@[simp] theorem exec_setQuota {pair} {s : State} : exec (.setQuota pair) s = execSetQuota pair s := rfl
@[simp] theorem exec_grant {pair} {s : State} : exec (.grant pair) s = execGrant pair s := rfl
@[simp] theorem exec_revoke {pair} {s : State} : exec (.revoke pair) s = execRevoke pair s := rfl
@[simp] theorem exec_sqDoorbell {pair} {offset} {size} {w} {s : State} : exec (.sqDoorbell pair offset size w) s = execSqDoorbell pair offset size w s := rfl
@[simp] theorem exec_cqDoorbell {pair} {offset} {size} {w} {s : State} : exec (.cqDoorbell pair offset size w) s = execCqDoorbell pair offset size w s := rfl
@[simp] theorem exec_descFetch {pair} {host} {s : State} : exec (.descFetch pair host) s = execDescFetch pair host s := rfl
@[simp] theorem exec_headerReread {pair} {host} {s : State} : exec (.headerReread pair host) s = execHeaderReread pair host s := rfl
@[simp] theorem exec_launch {pair} {s : State} : exec (.launch pair) s = execLaunch pair s := rfl
@[simp] theorem exec_launchPlace {l} {s : State} : exec (.launchPlace l) s = execLaunchPlace l s := rfl
@[simp] theorem exec_launchComplete {l} {s : State} : exec (.launchComplete l) s = execLaunchComplete l s := rfl
@[simp] theorem exec_hostIn {pair} {s : State} : exec (.hostIn pair) s = execHostIn pair s := rfl
@[simp] theorem exec_hostOut {pair} {s : State} : exec (.hostOut pair) s = execHostOut pair s := rfl
@[simp] theorem exec_hostTransferComplete {x} {host} {s : State} : exec (.hostTransferComplete x host) s = execHostTransferComplete x host s := rfl
@[simp] theorem exec_completionRingRoom {pair} {s : State} : exec (.completionRingRoom pair) s = execCompletionRingRoom pair s := rfl
@[simp] theorem exec_attachGo {p} {pair} {v} {s : State} : exec (.attachGo p pair v) s = execAttachGo p pair v s := rfl
@[simp] theorem exec_detach {p} {pair} {v} {s : State} : exec (.detach p pair v) s = execDetach p pair v s := rfl
@[simp] theorem exec_rearm {p} {pair} {v} {s : State} : exec (.rearm p pair v) s = execRearm p pair v s := rfl
@[simp] theorem exec_linkDown {port} {s : State} : exec (.linkDown port) s = execLinkDown port s := rfl
@[simp] theorem exec_hotReset {port} {s : State} : exec (.hotReset port) s = execHotReset port s := rfl
@[simp] theorem exec_functionLevelReset {port} {s : State} : exec (.functionLevelReset port) s = execFunctionLevelReset port s := rfl
@[simp] theorem exec_busMasterEnableCleared {port} {s : State} : exec (.busMasterEnableCleared port) s = execBusMasterEnableCleared port s := rfl
@[simp] theorem exec_completionTimeout {x} {s : State} : exec (.completionTimeout x) s = execCompletionTimeout x s := rfl
@[simp] theorem exec_linkRetrain {port} {width} {rate} {l0p} {s : State} : exec (.linkRetrain port width rate l0p) s = execLinkRetrain port width rate l0p s := rfl
@[simp] theorem exec_sop {u} {w} {s : State} : exec (.sop u w) s = execSop u w s := rfl
@[simp] theorem exec_sopi {u} {w} {s : State} : exec (.sopi u w) s = execSopi u w s := rfl
@[simp] theorem exec_sld {u} {w} {parity} {s : State} : exec (.sld u w parity) s = execSld u w parity s := rfl
@[simp] theorem exec_sst {u} {w} {parity} {s : State} : exec (.sst u w parity) s = execSst u w parity s := rfl
@[simp] theorem exec_sldl {u} {w} {s : State} : exec (.sldl u w) s = execSldl u w s := rfl
@[simp] theorem exec_sstl {u} {w} {s : State} : exec (.sstl u w) s = execSstl u w s := rfl
@[simp] theorem exec_samo {u} {w} {s : State} : exec (.samo u w) s = execSamo u w s := rfl
@[simp] theorem exec_sbr {u} {w} {s : State} : exec (.sbr u w) s = execSbr u w s := rfl
@[simp] theorem exec_sjal {u} {w} {s : State} : exec (.sjal u w) s = execSjal u w s := rfl
@[simp] theorem exec_sjr {u} {w} {s : State} : exec (.sjr u w) s = execSjr u w s := rfl
@[simp] theorem exec_sqcFillReturn {fill} {s : State} : exec (.sqcFillReturn fill) s = execSqcFillReturn fill s := rfl
@[simp] theorem exec_vrun {u} {w} {s : State} : exec (.vrun u w) s = execVrun u w s := rfl
@[simp] theorem exec_vwait {u} {w} {s : State} : exec (.vwait u w) s = execVwait u w s := rfl
@[simp] theorem exec_gbar {u} {w} {s : State} : exec (.gbar u w) s = execGbar u w s := rfl
@[simp] theorem exec_gbarComplete {l} {s : State} : exec (.gbarComplete l) s = execGbarComplete l s := rfl
@[simp] theorem exec_endMember {u} {w} {s : State} : exec (.endMember u w) s = execEndMember u w s := rfl
@[simp] theorem exec_waitq {u} {w} {s : State} : exec (.waitq u w) s = execWaitq u w s := rfl
@[simp] theorem exec_twait {u} {w} {s : State} : exec (.twait u w) s = execTwait u w s := rfl
@[simp] theorem exec_fence {u} {w} {s : State} : exec (.fence u w) s = execFence u w s := rfl
@[simp] theorem exec_cinv {u} {w} {s : State} : exec (.cinv u w) s = execCinv u w s := rfl
@[simp] theorem exec_fstat {u} {w} {s : State} : exec (.fstat u w) s = execFstat u w s := rfl
@[simp] theorem exec_btrd {u} {w} {s : State} : exec (.btrd u w) s = execBtrd u w s := rfl
@[simp] theorem exec_btwait {u} {w} {s : State} : exec (.btwait u w) s = execBtwait u w s := rfl
@[simp] theorem exec_signal {u} {w} {s : State} : exec (.signal u w) s = execSignal u w s := rfl
@[simp] theorem exec_mailboxRoom {l} {m} {s : State} : exec (.mailboxRoom l m) s = execMailboxRoom l m s := rfl
@[simp] theorem exec_viop {u} {w} {s : State} : exec (.viop u w) s = execViop u w s := rfl
@[simp] theorem exec_viopi {u} {w} {s : State} : exec (.viopi u w) s = execViopi u w s := rfl
@[simp] theorem exec_vicmp {u} {w} {s : State} : exec (.vicmp u w) s = execVicmp u w s := rfl
@[simp] theorem exec_vsel {u} {w} {s : State} : exec (.vsel u w) s = execVsel u w s := rfl
@[simp] theorem exec_vfop {u} {w} {s : State} : exec (.vfop u w) s = execVfop u w s := rfl
@[simp] theorem exec_vfma {u} {w} {s : State} : exec (.vfma u w) s = execVfma u w s := rfl
@[simp] theorem exec_vfcmp {u} {w} {s : State} : exec (.vfcmp u w) s = execVfcmp u w s := rfl
@[simp] theorem exec_vsf {u} {w} {s : State} : exec (.vsf u w) s = execVsf u w s := rfl
@[simp] theorem exec_vcvt {u} {w} {s : State} : exec (.vcvt u w) s = execVcvt u w s := rfl
@[simp] theorem exec_vld {u} {w} {s : State} : exec (.vld u w) s = execVld u w s := rfl
@[simp] theorem exec_vst {u} {w} {s : State} : exec (.vst u w) s = execVst u w s := rfl
@[simp] theorem exec_vldc {u} {w} {s : State} : exec (.vldc u w) s = execVldc u w s := rfl
@[simp] theorem exec_vstc {u} {w} {s : State} : exec (.vstc u w) s = execVstc u w s := rfl
@[simp] theorem exec_vlatom {u} {w} {s : State} : exec (.vlatom u w) s = execVlatom u w s := rfl
@[simp] theorem exec_bar {u} {w} {s : State} : exec (.bar u w) s = execBar u w s := rfl
@[simp] theorem exec_vote {u} {w} {s : State} : exec (.vote u w) s = execVote u w s := rfl
@[simp] theorem exec_vshfl {u} {w} {s : State} : exec (.vshfl u w) s = execVshfl u w s := rfl
@[simp] theorem exec_vbr {u} {w} {s : State} : exec (.vbr u w) s = execVbr u w s := rfl
@[simp] theorem exec_vend {u} {w} {s : State} : exec (.vend u w) s = execVend u w s := rfl
@[simp] theorem exec_tbind {u} {w} {s : State} : exec (.tbind u w) s = execTbind u w s := rfl
@[simp] theorem exec_tensorUnitGrant {ce} {s : State} : exec (.tensorUnitGrant ce) s = execTensorUnitGrant ce s := rfl
@[simp] theorem exec_mma {u} {w} {s : State} : exec (.mma u w) s = execMma u w s := rfl
@[simp] theorem exec_trd {u} {w} {s : State} : exec (.trd u w) s = execTrd u w s := rfl
@[simp] theorem exec_cbld {u} {w} {s : State} : exec (.cbld u w) s = execCbld u w s := rfl
@[simp] theorem exec_get {u} {w} {s : State} : exec (.get u w) s = execGet u w s := rfl
@[simp] theorem exec_put {u} {w} {s : State} : exec (.put u w) s = execPut u w s := rfl
@[simp] theorem exec_gather {u} {w} {s : State} : exec (.gather u w) s = execGather u w s := rfl
@[simp] theorem exec_scatter {u} {w} {s : State} : exec (.scatter u w) s = execScatter u w s := rfl
@[simp] theorem exec_red {u} {w} {s : State} : exec (.red u w) s = execRed u w s := rfl
@[simp] theorem exec_fill {u} {w} {s : State} : exec (.fill u w) s = execFill u w s := rfl
@[simp] theorem exec_kvg {u} {w} {s : State} : exec (.kvg u w) s = execKvg u w s := rfl
@[simp] theorem exec_kva {u} {w} {s : State} : exec (.kva u w) s = execKva u w s := rfl
@[simp] theorem exec_lchk {u} {w} {s : State} : exec (.lchk u w) s = execLchk u w s := rfl
@[simp] theorem exec_xdisp {u} {w} {s : State} : exec (.xdisp u w) s = execXdisp u w s := rfl
@[simp] theorem exec_heldAnswerDecided {c} {idx} {s : State} : exec (.heldAnswerDecided c idx) s = execHeldAnswerDecided c idx s := rfl
@[simp] theorem exec_commandComplete {c} {s : State} : exec (.commandComplete c) s = execCommandComplete c s := rfl
@[simp] theorem exec_seqOpen {pair} {s : State} : exec (.seqOpen pair) s = execSeqOpen pair s := rfl
@[simp] theorem exec_seqStep {pair} {s : State} : exec (.seqStep pair) s = execSeqStep pair s := rfl
@[simp] theorem exec_stepEnd {pair} {s : State} : exec (.stepEnd pair) s = execStepEnd pair s := rfl
@[simp] theorem exec_adjourn {pair} {s : State} : exec (.adjourn pair) s = execAdjourn pair s := rfl
@[simp] theorem exec_resume {pair} {s : State} : exec (.resume pair) s = execResume pair s := rfl
@[simp] theorem exec_seqClose {pair} {s : State} : exec (.seqClose pair) s = execSeqClose pair s := rfl
@[simp] theorem exec_share {pair} {s : State} : exec (.share pair) s = execShare pair s := rfl
@[simp] theorem exec_extend {pair} {s : State} : exec (.extend pair) s = execExtend pair s := rfl
@[simp] theorem exec_query {pair} {s : State} : exec (.query pair) s = execQuery pair s := rfl
@[simp] theorem exec_poolGrow {pair} {s : State} : exec (.poolGrow pair) s = execPoolGrow pair s := rfl
@[simp] theorem exec_poolShrink {pair} {s : State} : exec (.poolShrink pair) s = execPoolShrink pair s := rfl
@[simp] theorem exec_heldRequestRelease {slot} {s : State} : exec (.heldRequestRelease slot) s = execHeldRequestRelease slot s := rfl
@[simp] theorem exec_kvMoveCommit {mv} {s : State} : exec (.kvMoveCommit mv) s = execKvMoveCommit mv s := rfl
@[simp] theorem exec_promote {pair} {s : State} : exec (.promote pair) s = execPromote pair s := rfl
@[simp] theorem exec_demote {pair} {s : State} : exec (.demote pair) s = execDemote pair s := rfl
@[simp] theorem exec_windowSet {pair} {s : State} : exec (.windowSet pair) s = execWindowSet pair s := rfl
@[simp] theorem exec_windowArm {pair} {s : State} : exec (.windowArm pair) s = execWindowArm pair s := rfl
@[simp] theorem exec_windowClear {pair} {s : State} : exec (.windowClear pair) s = execWindowClear pair s := rfl
@[simp] theorem exec_entryReset {pair} {s : State} : exec (.entryReset pair) s = execEntryReset pair s := rfl
@[simp] theorem exec_tierQuery {pair} {s : State} : exec (.tierQuery pair) s = execTierQuery pair s := rfl
@[simp] theorem exec_moveHold {pair} {s : State} : exec (.moveHold pair) s = execMoveHold pair s := rfl
@[simp] theorem exec_moveRelease {pair} {s : State} : exec (.moveRelease pair) s = execMoveRelease pair s := rfl
@[simp] theorem exec_pagePoolGrow {pair} {s : State} : exec (.pagePoolGrow pair) s = execPagePoolGrow pair s := rfl
@[simp] theorem exec_pagePoolShrink {pair} {s : State} : exec (.pagePoolShrink pair) s = execPagePoolShrink pair s := rfl
@[simp] theorem exec_windowPassStart {a} {model} {s : State} : exec (.windowPassStart a model) s = execWindowPassStart a model s := rfl
@[simp] theorem exec_windowEntryStart {a} {model} {e} {s : State} : exec (.windowEntryStart a model e) s = execWindowEntryStart a model e s := rfl
@[simp] theorem exec_windowEntryLeave {a} {model} {e} {s : State} : exec (.windowEntryLeave a model e) s = execWindowEntryLeave a model e s := rfl
@[simp] theorem exec_promotionDeadline {a} {model} {e} {s : State} : exec (.promotionDeadline a model e) s = execPromotionDeadline a model e s := rfl
@[simp] theorem exec_moverBurst {die} {s : State} : exec (.moverBurst die) s = execMoverBurst die s := rfl
@[simp] theorem exec_starvationHorizon {mv} {s : State} : exec (.starvationHorizon mv) s = execStarvationHorizon mv s := rfl
@[simp] theorem exec_moveCommit {mv} {s : State} : exec (.moveCommit mv) s = execMoveCommit mv s := rfl
@[simp] theorem exec_wipeDone {x} {s : State} : exec (.wipeDone x) s = execWipeDone x s := rfl
@[simp] theorem exec_hartLost {core} {s : State} : exec (.hartLost core) s = execHartLost core s := rfl
@[simp] theorem exec_fwiVersion {call} {s : State} : exec (.fwiVersion call) s = execFwiVersion call s := rfl
@[simp] theorem exec_hartStart {hart} {target} {entry} {opaqueArg} {s : State} : exec (.hartStart hart target entry opaqueArg) s = execHartStart hart target entry opaqueArg s := rfl
@[simp] theorem exec_hartStop {hart} {s : State} : exec (.hartStop hart) s = execHartStop hart s := rfl
@[simp] theorem exec_hartLostEntry {hart} {entry} {s : State} : exec (.hartLostEntry hart entry) s = execHartLostEntry hart entry s := rfl
@[simp] theorem exec_logNotify {hart} {target} {eiid} {s : State} : exec (.logNotify hart target eiid) s = execLogNotify hart target eiid s := rfl
@[simp] theorem exec_clusterIdle {hart} {cluster} {s : State} : exec (.clusterIdle hart cluster) s = execClusterIdle hart cluster s := rfl
@[simp] theorem exec_coreFence {hart} {err} {s : State} : exec (.coreFence hart err) s = execCoreFence hart err s := rfl
@[simp] theorem exec_registerAccessTimeout {hart} {addr} {load} {s : State} : exec (.registerAccessTimeout hart addr load) s = execRegisterAccessTimeout hart addr load s := rfl
@[simp] theorem exec_rds {agent} {req} {s : State} : exec (.rds agent req) s = execRds agent req s := rfl
@[simp] theorem exec_rdx {agent} {req} {s : State} : exec (.rdx agent req) s = execRdx agent req s := rfl
@[simp] theorem exec_upgrade {agent} {req} {s : State} : exec (.upgrade agent req) s = execUpgrade agent req s := rfl
@[simp] theorem exec_fwds {owner} {line} {s : State} : exec (.fwds owner line) s = execFwds owner line s := rfl
@[simp] theorem exec_fwdx {owner} {line} {s : State} : exec (.fwdx owner line) s = execFwdx owner line s := rfl
@[simp] theorem exec_eviction {agent} {line} {s : State} : exec (.eviction agent line) s = execEviction agent line s := rfl
@[simp] theorem exec_creditRetry {req} {s : State} : exec (.creditRetry req) s = execCreditRetry req s := rfl
@[simp] theorem exec_kiornRequestTimeout {req} {s : State} : exec (.kiornRequestTimeout req) s = execKiornRequestTimeout req s := rfl
@[simp] theorem exec_sliceEccError {slice} {line} {e} {s : State} : exec (.sliceEccError slice line e) s = execSliceEccError slice line e s := rfl
@[simp] theorem exec_flitCrcFail {link} {group} {s : State} : exec (.flitCrcFail link group) s = execFlitCrcFail link group s := rfl
@[simp] theorem exec_laneGroupRetrain {link} {group} {laneFails} {s : State} : exec (.laneGroupRetrain link group laneFails) s = execLaneGroupRetrain link group laneFails s := rfl
@[simp] theorem exec_partCfgWrite {p} {a} {v} {s : State} : exec (.partCfgWrite p a v) s = execPartCfgWrite p a v s := rfl
@[simp] theorem exec_scrubWalk {found} {s : State} : exec (.scrubWalk found) s = execScrubWalk found s := rfl
@[simp] theorem exec_hbmLaneRepair {ch} {spareLeft} {s : State} : exec (.hbmLaneRepair ch spareLeft) s = execHbmLaneRepair ch spareLeft s := rfl
@[simp] theorem exec_hbmRowRepair {ch} {spareLeft} {s : State} : exec (.hbmRowRepair ch spareLeft) s = execHbmRowRepair ch spareLeft s := rfl
@[simp] theorem exec_hbmChannelFail {ch} {s : State} : exec (.hbmChannelFail ch) s = execHbmChannelFail ch s := rfl
@[simp] theorem exec_tourFillZero {p} {a} {v} {s : State} : exec (.tourFillZero p a v) s = execTourFillZero p a v s := rfl
@[simp] theorem exec_tourFillPattern {p} {a} {v} {s : State} : exec (.tourFillPattern p a v) s = execTourFillPattern p a v s := rfl
@[simp] theorem exec_tourDigest {p} {a} {v} {s : State} : exec (.tourDigest p a v) s = execTourDigest p a v s := rfl
@[simp] theorem exec_tourDone {a} {s : State} : exec (.tourDone a) s = execTourDone a s := rfl
@[simp] theorem exec_testStart {p} {ch} {v} {s : State} : exec (.testStart p ch v) s = execTestStart p ch v s := rfl
@[simp] theorem exec_testStop {p} {ch} {v} {s : State} : exec (.testStop p ch v) s = execTestStop p ch v s := rfl
@[simp] theorem exec_testDone {ch} {errors} {firstFail} {s : State} : exec (.testDone ch errors firstFail) s = execTestDone ch errors firstFail s := rfl
@[simp] theorem exec_chSlotWrite {p} {ch} {v} {s : State} : exec (.chSlotWrite p ch v) s = execChSlotWrite p ch v s := rfl
@[simp] theorem exec_ilCfgWrite {p} {a} {v} {s : State} : exec (.ilCfgWrite p a v) s = execIlCfgWrite p a v s := rfl
@[simp] theorem exec_walk {kind} {source} {ctx} {ava} {write} {s : State} : exec (.walk kind source ctx ava write) s = execWalk kind source ctx ava write s := rfl
@[simp] theorem exec_fqHeadWrite {p} {a} {v} {s : State} : exec (.fqHeadWrite p a v) s = execFqHeadWrite p a v s := rfl
@[simp] theorem exec_retryFault {p} {a} {v} {s : State} : exec (.retryFault p a v) s = execRetryFault p a v s := rfl
@[simp] theorem exec_failFault {p} {a} {v} {s : State} : exec (.failFault p a v) s = execFailFault p a v s := rfl
@[simp] theorem exec_faultTimeout {a} {kind} {source} {s : State} : exec (.faultTimeout a kind source) s = execFaultTimeout a kind source s := rfl
@[simp] theorem exec_invRange {p} {a} {v} {s : State} : exec (.invRange p a v) s = execInvRange p a v s := rfl
@[simp] theorem exec_invContext {p} {a} {v} {s : State} : exec (.invContext p a v) s = execInvContext p a v s := rfl
@[simp] theorem exec_invPartition {p} {a} {v} {s : State} : exec (.invPartition p a v) s = execInvPartition p a v s := rfl
@[simp] theorem exec_invComplete {a} {s : State} : exec (.invComplete a) s = execInvComplete a s := rfl
@[simp] theorem exec_igsurenLaneFail {port} {lane} {lost} {s : State} : exec (.igsurenLaneFail port lane lost) s = execIgsurenLaneFail port lane lost s := rfl
@[simp] theorem exec_fabricLinkRetry {port} {working} {s : State} : exec (.fabricLinkRetry port working) s = execFabricLinkRetry port working s := rfl
@[simp] theorem exec_putPacket {k} {s : State} : exec (.putPacket k) s = execPutPacket k s := rfl
@[simp] theorem exec_redPacket {k} {s : State} : exec (.redPacket k) s = execRedPacket k s := rfl
@[simp] theorem exec_getReq {k} {s : State} : exec (.getReq k) s = execGetReq k s := rfl
@[simp] theorem exec_getResp {k} {s : State} : exec (.getResp k) s = execGetResp k s := rfl
@[simp] theorem exec_ackPacket {k} {s : State} : exec (.ackPacket k) s = execAckPacket k s := rfl
@[simp] theorem exec_nackPacket {k} {s : State} : exec (.nackPacket k) s = execNackPacket k s := rfl
@[simp] theorem exec_epochPacket {k} {s : State} : exec (.epochPacket k) s = execEpochPacket k s := rfl
@[simp] theorem exec_pwrPacket {k} {s : State} : exec (.pwrPacket k) s = execPwrPacket k s := rfl
@[simp] theorem exec_laneMap {k} {s : State} : exec (.laneMap k) s = execLaneMap k s := rfl
@[simp] theorem exec_ackTimer {a} {node} {s : State} : exec (.ackTimer a node) s = execAckTimer a node s := rfl
@[simp] theorem exec_retransmitTimeout {a} {node} {psn} {s : State} : exec (.retransmitTimeout a node psn) s = execRetransmitTimeout a node psn s := rfl
@[simp] theorem exec_giveUp {a} {node} {s : State} : exec (.giveUp a node) s = execGiveUp a node s := rfl
@[simp] theorem exec_dtWrite {p} {a} {v} {s : State} : exec (.dtWrite p a v) s = execDtWrite p a v s := rfl
@[simp] theorem exec_lockstepMismatch {k} {s : State} : exec (.lockstepMismatch k) s = execLockstepMismatch k s := rfl
@[simp] theorem exec_pairWatchdog {k} {s : State} : exec (.pairWatchdog k) s = execPairWatchdog k s := rfl
@[simp] theorem exec_kick {p} {k} {v} {s : State} : exec (.kick p k v) s = execKick p k v s := rfl
@[simp] theorem exec_restart {p} {k} {v} {s : State} : exec (.restart p k v) s = execRestart p k v s := rfl
@[simp] theorem exec_sourceEdge {n} {s : State} : exec (.sourceEdge n) s = execSourceEdge n s := rfl
@[simp] theorem exec_evcSet {p} {v} {s : State} : exec (.evcSet p v) s = execEvcSet p v s := rfl
@[simp] theorem exec_eventDelivery {k} {s : State} : exec (.eventDelivery k) s = execEventDelivery k s := rfl
@[simp] theorem exec_evcComplete {k} {src} {s : State} : exec (.evcComplete k src) s = execEvcComplete k src s := rfl
@[simp] theorem exec_troubleLogWrite {s : State} : exec (.troubleLogWrite) s = execTroubleLogWrite s := rfl
@[simp] theorem exec_resetHoldExpiry {a} {s : State} : exec (.resetHoldExpiry a) s = execResetHoldExpiry a s := rfl
@[simp] theorem exec_coldStart {pufOk} {identity} {s : State} : exec (.coldStart pufOk identity) s = execColdStart pufOk identity s := rfl
@[simp] theorem exec_boot {port} {v} {s : State} : exec (.boot port v) s = execBoot port v s := rfl
@[simp] theorem exec_stage {port} {v} {s : State} : exec (.stage port v) s = execStage port v s := rfl
@[simp] theorem exec_osLoad {port} {v} {table} {image} {s : State} : exec (.osLoad port v table image) s = execOsLoad port v table image s := rfl
@[simp] theorem exec_imageVerified {sig} {h} {s : State} : exec (.imageVerified sig h) s = execImageVerified sig h s := rfl
@[simp] theorem exec_flashWaitExpiry {s : State} : exec (.flashWaitExpiry) s = execFlashWaitExpiry s := rfl
@[simp] theorem exec_pairSwitch {k} {s : State} : exec (.pairSwitch k) s = execPairSwitch k s := rfl
@[simp] theorem exec_getVersion {conn} {s : State} : exec (.getVersion conn) s = execGetVersion conn s := rfl
@[simp] theorem exec_getCapabilities {conn} {s : State} : exec (.getCapabilities conn) s = execGetCapabilities conn s := rfl
@[simp] theorem exec_negotiateAlgorithms {conn} {offered} {s : State} : exec (.negotiateAlgorithms conn offered) s = execNegotiateAlgorithms conn offered s := rfl
@[simp] theorem exec_getDigests {conn} {s : State} : exec (.getDigests conn) s = execGetDigests conn s := rfl
@[simp] theorem exec_getCertificate {conn} {slot} {offset} {length} {s : State} : exec (.getCertificate conn slot offset length) s = execGetCertificate conn slot offset length s := rfl
@[simp] theorem exec_challenge {conn} {slot} {s : State} : exec (.challenge conn slot) s = execChallenge conn slot s := rfl
@[simp] theorem exec_getMeasurements {conn} {index} {signed} {s : State} : exec (.getMeasurements conn index signed) s = execGetMeasurements conn index signed s := rfl
@[simp] theorem exec_keyExchange {conn} {slot} {s : State} : exec (.keyExchange conn slot) s = execKeyExchange conn slot s := rfl
@[simp] theorem exec_finish {conn} {ok} {s : State} : exec (.finish conn ok) s = execFinish conn ok s := rfl
@[simp] theorem exec_chunkSend {conn} {seq} {last} {data} {s : State} : exec (.chunkSend conn seq last data) s = execChunkSend conn seq last data s := rfl
@[simp] theorem exec_chunkGet {conn} {seq} {s : State} : exec (.chunkGet conn seq) s = execChunkGet conn seq s := rfl
@[simp] theorem exec_cosign {conn} {s : State} : exec (.cosign conn) s = execCosign conn s := rfl
@[simp] theorem exec_getSlhChain {conn} {s : State} : exec (.getSlhChain conn) s = execGetSlhChain conn s := rfl
@[simp] theorem exec_launchWatchdog {l} {s : State} : exec (.launchWatchdog l) s = execLaunchWatchdog l s := rfl
@[simp] theorem exec_noProgress {l} {m} {s : State} : exec (.noProgress l m) s = execNoProgress l m s := rfl
@[simp] theorem exec_tqTimeout {c} {s : State} : exec (.tqTimeout c) s = execTqTimeout c s := rfl
@[simp] theorem exec_coreRetireWatchdog {core} {entersM} {s : State} : exec (.coreRetireWatchdog core entersM) s = execCoreRetireWatchdog core entersM s := rfl
@[simp] theorem exec_contextReset {a} {s : State} : exec (.contextReset a) s = execContextReset a s := rfl
@[simp] theorem exec_replayStart {a} {poisonedRec} {s : State} : exec (.replayStart a poisonedRec) s = execReplayStart a poisonedRec s := rfl
@[simp] theorem exec_ctxDeadline {a} {s : State} : exec (.ctxDeadline a) s = execCtxDeadline a s := rfl
@[simp] theorem exec_engineReset {ce} {s : State} : exec (.engineReset ce) s = execEngineReset ce s := rfl
@[simp] theorem exec_engDeadline {a} {s : State} : exec (.engDeadline a) s = execEngDeadline a s := rfl
@[simp] theorem exec_partitionReset {a} {s : State} : exec (.partitionReset a) s = execPartitionReset a s := rfl
@[simp] theorem exec_partitionResetDone {a} {s : State} : exec (.partitionResetDone a) s = execPartitionResetDone a s := rfl
@[simp] theorem exec_partDeadline {a} {s : State} : exec (.partDeadline a) s = execPartDeadline a s := rfl
@[simp] theorem exec_chipWarmReset {imageDigest} {s : State} : exec (.chipWarmReset imageDigest) s = execChipWarmReset imageDigest s := rfl
@[simp] theorem exec_warmDeadline {s : State} : exec (.warmDeadline) s = execWarmDeadline s := rfl
@[simp] theorem exec_powerCycle {s : State} : exec (.powerCycle) s = execPowerCycle s := rfl
@[simp] theorem exec_screeningWindow {ce} {s : State} : exec (.screeningWindow ce) s = execScreeningWindow ce s := rfl
@[simp] theorem exec_screeningPhaseEnd {ce} {r} {tempC} {s : State} : exec (.screeningPhaseEnd ce r tempC) s = execScreeningPhaseEnd ce r tempC s := rfl
@[simp] theorem exec_screenWatchdog {ce} {s : State} : exec (.screenWatchdog ce) s = execScreenWatchdog ce s := rfl
@[simp] theorem exec_shadowCompare {l} {s : State} : exec (.shadowCompare l) s = execShadowCompare l s := rfl
@[simp] theorem exec_digestPass {a} {e} {s : State} : exec (.digestPass a e) s = execDigestPass a e s := rfl
@[simp] theorem exec_floorEnter {s : State} : exec (.floorEnter) s = execFloorEnter s := rfl
@[simp] theorem exec_floorHoldEnd {s : State} : exec (.floorHoldEnd) s = execFloorHoldEnd s := rfl
@[simp] theorem exec_thermalStep {die} {tempC} {s : State} : exec (.thermalStep die tempC) s = execThermalStep die tempC s := rfl
@[simp] theorem exec_thermTrip {tempC} {s : State} : exec (.thermTrip tempC) s = execThermTrip tempC s := rfl
@[simp] theorem exec_powerEpoch {base} {links} {mem} {cores} {adies} {slackUs} {s : State} : exec (.powerEpoch base links mem cores adies slackUs) s = execPowerEpoch base links mem cores adies slackUs s := rfl
@[simp] theorem exec_limiterSample {pkgW} {s : State} : exec (.limiterSample pkgW) s = execLimiterSample pkgW s := rfl
@[simp] theorem exec_droop {die} {us} {s : State} : exec (.droop die us) s = execDroop die us s := rfl
@[simp] theorem exec_blitzStep {die} {room} {s : State} : exec (.blitzStep die room) s = execBlitzStep die room s := rfl
@[simp] theorem exec_aclkStep {die} {s : State} : exec (.aclkStep die) s = execAclkStep die s := rfl
@[simp] theorem exec_park {p} {v} {s : State} : exec (.park p v) s = execPark p v s := rfl
@[simp] theorem exec_unpark {p} {v} {s : State} : exec (.unpark p v) s = execUnpark p v s := rfl
@[simp] theorem exec_domainPowerUp {d} {s : State} : exec (.domainPowerUp d) s = execDomainPowerUp d s := rfl
@[simp] theorem exec_withhold {p} {ce} {v} {s : State} : exec (.withhold p ce v) s = execWithhold p ce v s := rfl
@[simp] theorem exec_layoutChange {p} {v} {s : State} : exec (.layoutChange p v) s = execLayoutChange p v s := rfl
@[simp] theorem exec_layoutClearDone {s : State} : exec (.layoutClearDone) s = execLayoutClearDone s := rfl
@[simp] theorem exec_firmwareReportUpdate {report} {s : State} : exec (.firmwareReportUpdate report) s = execFirmwareReportUpdate report s := rfl
@[simp] theorem exec_counterClear {p} {off} {v} {s : State} : exec (.counterClear p off v) s = execCounterClear p off v s := rfl
@[simp] theorem exec_lock {p} {off} {v} {s : State} : exec (.lock p off v) s = execLock p off v s := rfl
@[simp] theorem exec_registerWrite {p} {off} {v} {s : State} : exec (.registerWrite p off v) s = execRegisterWrite p off v s := rfl
@[simp] theorem exec_i3cTimeout {s : State} : exec (.i3cTimeout) s = execI3cTimeout s := rfl
@[simp] theorem exec_xspiTimeout {s : State} : exec (.xspiTimeout) s = execXspiTimeout s := rfl
@[simp] theorem exec_pwrAlertRelease {s : State} : exec (.pwrAlertRelease) s = execPwrAlertRelease s := rfl
@[simp] theorem exec_sysResetAsserted {s : State} : exec (.sysResetAsserted) s = execSysResetAsserted s := rfl
@[simp] theorem exec_powerRemoved {s : State} : exec (.powerRemoved) s = execPowerRemoved s := rfl
@[simp] theorem exec_portLinkTrained {port} {width} {rate} {s : State} : exec (.portLinkTrained port width rate) s = execPortLinkTrained port width rate s := rfl
@[simp] theorem exec_walkerFail {group} {walker} {s : State} : exec (.walkerFail group walker) s = execWalkerFail group walker s := rfl
@[simp] theorem exec_ddrByteLaneFail {ch} {corrected} {bad} {s : State} : exec (.ddrByteLaneFail ch corrected bad) s = execDdrByteLaneFail ch corrected bad s := rfl
@[simp] theorem exec_architecturalRegisterError {core} {entersM} {s : State} : exec (.architecturalRegisterError core entersM) s = execArchitecturalRegisterError core entersM s := rfl
@[simp] theorem exec_sramUncorrectable {k} {logEntry} {s : State} : exec (.sramUncorrectable k logEntry) s = execSramUncorrectable k logEntry s := rfl
@[simp] theorem exec_traceTriggerClaim {claim} {s : State} : exec (.traceTriggerClaim claim) s = execTraceTriggerClaim claim s := rfl
@[simp] theorem exec_warmResetDone {s : State} : exec (.warmResetDone) s = execWarmResetDone s := rfl
@[simp] theorem exec_memoryInitDone {ddr} {s : State} : exec (.memoryInitDone ddr) s = execMemoryInitDone ddr s := rfl
@[simp] theorem exec_osImageChecked {a} {s : State} : exec (.osImageChecked a) s = execOsImageChecked a s := rfl
@[simp] theorem exec_managementFlashWrite {port} {w} {s : State} : exec (.managementFlashWrite port w) s = execManagementFlashWrite port w s := rfl
@[simp] theorem exec_ideKm {port} {stream} {activate} {s : State} : exec (.ideKm port stream activate) s = execIdeKm port stream activate s := rfl

end Sys2Proof.Machine
end

