-- ==== Sys2Proof/Laws/Map.lean ====
section
/-! SUPPORT. Laws of the tables of `Machine/Map.lean`: reading what was written, other keys, and the canonical forms that every
operation keeps. -/

namespace Sys2Proof.Machine

variable {α : Type}

@[simp] theorem mapFind?_nil (x : Nat) : mapFind? ([] : Map α) x = none := rfl

theorem mapFind?_cons (k : Nat) (v : α) (m : Map α) (x : Nat) :
    mapFind? ((k, v) :: m) x = if x = k then some v else mapFind? m x := rfl

@[simp] theorem mapFind?_put_same (m : Map α) (x : Nat) (v : α) : mapFind? (mapPut m x v) x = some v := by
  induction m with
  | nil => simp [mapPut, mapFind?_cons]
  | cons p m ih =>
    obtain ⟨k, w⟩ := p
    simp only [mapPut]
    split
    · simp [mapFind?_cons]
    · split
      · simp [mapFind?_cons]
      · simp_all [mapFind?_cons]

theorem mapFind?_put_ne (m : Map α) {x y : Nat} (v : α) (h : y ≠ x) : mapFind? (mapPut m x v) y = mapFind? m y := by
  induction m with
  | nil => simp [mapPut, mapFind?_cons, h]
  | cons p m ih =>
    obtain ⟨k, w⟩ := p
    simp only [mapPut]
    split
    · simp [mapFind?_cons, h]
    · split
      · rename_i hk
        subst hk
        simp [mapFind?_cons, h]
      · simp [mapFind?_cons, ih]

theorem mapFind?_filter_key (m : Map α) (f : Nat → Bool) (x : Nat) (h : f x = true) :
    mapFind? (m.filter (fun p => f p.1)) x = mapFind? m x := by
  induction m with
  | nil => rfl
  | cons p m ih =>
    obtain ⟨k, w⟩ := p
    by_cases hk : f k = true
    · simp [hk, mapFind?_cons, ih]
    · have hx : x ≠ k := fun e => hk (e ▸ h)
      simp [hk, mapFind?_cons, ih, hx]

theorem mapFind?_filter_none (m : Map α) (f : Nat → Bool) (x : Nat) (h : f x = false) :
    mapFind? (m.filter (fun p => f p.1)) x = none := by
  induction m with
  | nil => rfl
  | cons p m ih =>
    obtain ⟨k, w⟩ := p
    by_cases hk : f k = true
    · have hx : x ≠ k := fun e => by simp [e, hk] at h
      simp [hk, mapFind?_cons, ih, hx]
    · simp [hk, ih]

@[simp] theorem mapFind?_erase_same (m : Map α) (x : Nat) : mapFind? (mapErase m x) x = none :=
  mapFind?_filter_none m (fun k => k != x) x (by simp)

theorem mapFind?_erase_ne (m : Map α) {x y : Nat} (h : y ≠ x) : mapFind? (mapErase m x) y = mapFind? m y :=
  mapFind?_filter_key m (fun k => k != x) y (by simp [h])

@[simp] theorem mapGet_set_same [DecidableEq α] (d : α) (m : Map α) (x : Nat) (v : α) : mapGet d (mapSet d m x v) x = v := by
  unfold mapGet mapSet
  split
  · simp_all
  · simp

theorem mapGet_set_ne [DecidableEq α] (d : α) (m : Map α) {x y : Nat} (v : α) (h : y ≠ x) :
    mapGet d (mapSet d m x v) y = mapGet d m y := by
  unfold mapGet mapSet
  split
  · rw [mapFind?_erase_ne m h]
  · rw [mapFind?_put_ne m v h]

@[simp] theorem mapFind?_modify (m : Map α) (x : Nat) (f : α → α) (y : Nat) :
    mapFind? (mapModify m x f) y = if y = x then (mapFind? m y).map f else mapFind? m y := by
  induction m with
  | nil => simp [mapModify]
  | cons p m ih =>
    obtain ⟨k, w⟩ := p
    simp only [mapModify, List.map_cons] at ih ⊢
    by_cases hk : k = x
    · subst hk
      by_cases hy : y = k
      · subst hy
        simp [mapFind?_cons]
      · simp [mapFind?_cons, hy, ih]
    · by_cases hy : y = k
      · subst hy
        simp [mapFind?_cons, hk]
      · simp [mapFind?_cons, hk, hy, ih]

/-! ### Keys rise strictly -/

/-- Every key of a table lies above `k`. -/
def mapAbove (k : Nat) (m : Map α) : Prop := ∀ p ∈ m, k < p.1

theorem mapSorted_cons (p : Nat × α) (m : Map α) : mapSorted (p :: m) = true ↔ mapAbove p.1 m ∧ mapSorted m = true := by
  induction m generalizing p with
  | nil => simp [mapSorted, mapAbove]
  | cons q m ih =>
    simp only [mapSorted, Bool.and_eq_true, decide_eq_true_eq]
    constructor
    · rintro ⟨h, hs⟩
      refine ⟨fun r hr => ?_, hs⟩
      rcases List.mem_cons.mp hr with rfl | hr
      · exact h
      · exact Nat.lt_trans h (((ih q).mp hs).1 r hr)
    · rintro ⟨ha, hs⟩
      exact ⟨ha q (List.mem_cons_self ..), hs⟩

theorem mapAbove_put {m : Map α} {k x : Nat} (v : α) (h : mapAbove k m) (hx : k < x) : mapAbove k (mapPut m x v) := by
  induction m with
  | nil => simpa [mapPut, mapAbove] using hx
  | cons p m ih =>
    obtain ⟨j, w⟩ := p
    have hm : mapAbove k m := fun q hq => h q (List.mem_cons_of_mem _ hq)
    have hj : k < j := h (j, w) (List.mem_cons_self ..)
    simp only [mapPut]
    split
    · intro q hq
      rcases List.mem_cons.mp hq with rfl | hq
      · exact hx
      · exact h q hq
    · split
      · intro q hq
        rcases List.mem_cons.mp hq with rfl | hq
        · exact hx
        · exact hm q hq
      · intro q hq
        rcases List.mem_cons.mp hq with rfl | hq
        · exact hj
        · exact ih hm q hq

theorem mapSorted_put (m : Map α) (x : Nat) (v : α) (h : mapSorted m = true) : mapSorted (mapPut m x v) = true := by
  induction m with
  | nil => simp [mapPut, mapSorted]
  | cons p m ih =>
    obtain ⟨k, w⟩ := p
    obtain ⟨ha, hs⟩ := (mapSorted_cons _ _).mp h
    simp only [mapPut]
    split
    · rename_i hx
      refine (mapSorted_cons _ _).mpr ⟨fun q hq => ?_, h⟩
      rcases List.mem_cons.mp hq with rfl | hq
      · exact hx
      · exact Nat.lt_trans hx (ha q hq)
    · split
      · rename_i hx
        subst hx
        exact (mapSorted_cons _ _).mpr ⟨ha, hs⟩
      · rename_i h1 h2
        refine (mapSorted_cons _ _).mpr ⟨mapAbove_put v ha ?_, ih hs⟩
        simp only
        omega

theorem mapSorted_filter (m : Map α) (f : Nat × α → Bool) (h : mapSorted m = true) : mapSorted (m.filter f) = true := by
  induction m with
  | nil => rfl
  | cons p m ih =>
    obtain ⟨ha, hs⟩ := (mapSorted_cons _ _).mp h
    by_cases hp : f p = true
    · rw [List.filter_cons_of_pos hp]
      exact (mapSorted_cons _ _).mpr ⟨fun q hq => ha q (List.mem_of_mem_filter hq), ih hs⟩
    · rw [List.filter_cons_of_neg hp]
      exact ih hs

/-! ### Memory -/

theorem mem_put (m : Map α) (x : Nat) (v : α) (p : Nat × α) (h : p ∈ mapPut m x v) : p = (x, v) ∨ p ∈ m := by
  induction m with
  | nil => simpa [mapPut] using h
  | cons q m ih =>
    obtain ⟨k, w⟩ := q
    simp only [mapPut] at h
    split at h
    · rcases List.mem_cons.mp h with rfl | h
      · exact .inl rfl
      · exact .inr h
    · split at h
      · rcases List.mem_cons.mp h with rfl | h
        · exact .inl rfl
        · exact .inr (List.mem_cons_of_mem _ h)
      · rcases List.mem_cons.mp h with rfl | h
        · exact .inr (List.mem_cons_self ..)
        · exact (ih h).imp id (List.mem_cons_of_mem _)

theorem Memory.wf_iff (m : Memory) : m.wf = true ↔ mapSorted m = true ∧ ∀ p ∈ m, p.2 ≠ memDefault := by
  simp [Memory.wf, List.all_eq_true]

theorem Memory.wf_filter (m : Memory) (f : Host.Cell → Bool) (h : m.wf = true) : Memory.wf (m.filter f) = true := by
  obtain ⟨hs, hd⟩ := (Memory.wf_iff m).mp h
  exact (Memory.wf_iff _).mpr ⟨mapSorted_filter m f hs, fun p hp => hd p (List.mem_of_mem_filter hp)⟩

/-- A byte write keeps the canonical form. -/
theorem memWrite_wf (m : Memory) (a : Nat) (b : Byte) (h : m.wf = true) : (memWrite m a b).wf = true := by
  unfold memWrite mapSet
  split
  · exact Memory.wf_filter m _ h
  · rename_i hb
    obtain ⟨hs, hd⟩ := (Memory.wf_iff m).mp h
    refine (Memory.wf_iff _).mpr ⟨mapSorted_put m a b hs, fun p hp => ?_⟩
    rcases mem_put m a b p hp with rfl | hp
    · exact hb
    · exact hd p hp

theorem memWriteBytes_wf (bs : List Byte) (m : Memory) (a : Nat) (h : m.wf = true) : (memWriteBytes m a bs).wf = true := by
  induction bs generalizing m a with
  | nil => exact h
  | cons b bs ih => exact ih _ _ (memWrite_wf m a b h)

theorem memZero_wf (m : Memory) (a n : Nat) (h : m.wf = true) : (memZero m a n).wf = true := Memory.wf_filter m _ h

theorem memCopy_wf (m : Memory) (src dst n : Nat) (h : m.wf = true) : (memCopy m src dst n).wf = true := by
  unfold memCopy
  generalize m.filter _ = l
  have hz := memZero_wf m dst n h
  generalize memZero m dst n = t at hz
  induction l generalizing t with
  | nil => exact hz
  | cons p l ih => exact ih _ (memWrite_wf t _ _ hz)

theorem memPutNat_wf (m : Memory) (a n v : Nat) (h : m.wf = true) : (memPutNat m a n v).wf = true :=
  memWriteBytes_wf _ m a h

/-- A byte reads as it was written. -/
@[simp] theorem memRead_write_same (m : Memory) (a : Nat) (b : Byte) : memRead (memWrite m a b) a = b := mapGet_set_same ..

/-- A byte write leaves every other byte. -/
theorem memRead_write_ne (m : Memory) {a x : Nat} (b : Byte) (h : x ≠ a) : memRead (memWrite m a b) x = memRead m x :=
  mapGet_set_ne memDefault m b h

/-- Writing bytes leaves every byte outside them. -/
theorem memRead_writeBytes_out (bs : List Byte) (m : Memory) (a x : Nat) (h : x < a ∨ a + bs.length ≤ x) :
    memRead (memWriteBytes m a bs) x = memRead m x := by
  induction bs generalizing m a with
  | nil => rfl
  | cons b bs ih =>
    simp only [List.length_cons] at h
    rw [memWriteBytes, ih _ _ (by omega), memRead_write_ne _ _ (by omega)]

/-- Bytes read as they were written. -/
theorem memRead_writeBytes_in (bs : List Byte) (m : Memory) (a i : Nat) (h : i < bs.length) :
    memRead (memWriteBytes m a bs) (a + i) = bs[i] := by
  induction bs generalizing m a i with
  | nil => simp at h
  | cons b bs ih =>
    cases i with
    | zero =>
      rw [memWriteBytes, memRead_writeBytes_out _ _ _ _ (.inl (by omega))]
      simp
    | succ i =>
      have := ih (memWrite m a b) (a + 1) i (by simpa using h)
      rw [memWriteBytes]
      simpa [Nat.add_assoc, Nat.add_comm 1 i] using this

/-- Zeroed bytes read as 0, the others as before. -/
theorem memRead_zero (m : Memory) (a n x : Nat) :
    memRead (memZero m a n) x = if a ≤ x ∧ x < a + n then memDefault else memRead m x := by
  unfold memRead memZero mapGet
  by_cases h : x < a ∨ a + n ≤ x
  · rw [mapFind?_filter_key m (fun k => decide (k < a) || decide (a + n ≤ k)) x (by simpa using h)]
    rw [if_neg (by omega)]
  · rw [mapFind?_filter_none m (fun k => decide (k < a) || decide (a + n ≤ k)) x (by simpa using h)]
    rw [if_pos (by omega)]
    rfl

/-- Two canonical tables that list the same values are equal. -/
theorem mapSorted_ext (m n : Map α) (hm : mapSorted m = true) (hn : mapSorted n = true)
    (h : ∀ x, mapFind? m x = mapFind? n x) : m = n := by
  have none_below : ∀ (l : Map α) (x : Nat), mapAbove x l → mapFind? l x = none := by
    intro l x hx
    induction l with
    | nil => rfl
    | cons p l ih =>
      have h1 : x < p.1 := hx p (List.mem_cons_self ..)
      have h2 : x ≠ p.1 := by omega
      show mapFind? ((p.1, p.2) :: l) x = none
      rw [mapFind?_cons, if_neg h2]
      exact ih (fun q hq => hx q (List.mem_cons_of_mem _ hq))
  induction m generalizing n with
  | nil =>
    cases n with
    | nil => rfl
    | cons q n =>
      have hq := h q.1
      rw [show q :: n = (q.1, q.2) :: n from rfl, mapFind?_cons] at hq
      simp at hq
  | cons p m ih =>
    obtain ⟨k, v⟩ := p
    cases n with
    | nil => simpa [mapFind?_cons] using h k
    | cons q n =>
      obtain ⟨j, w⟩ := q
      obtain ⟨ham, hsm⟩ := (mapSorted_cons _ _).mp hm
      obtain ⟨han, hsn⟩ := (mapSorted_cons _ _).mp hn
      simp only at ham han
      have hk := h k
      have hj := h j
      simp only [mapFind?_cons, if_true] at hk hj
      have hkj : k = j := by
        by_contra hne
        rcases Nat.lt_or_gt_of_ne hne with hlt | hgt
        · have := none_below n k (fun q hq => Nat.lt_trans hlt (han q hq))
          rw [if_neg hne, this] at hk
          simp at hk
        · have := none_below m j (fun q hq => Nat.lt_trans hgt (ham q hq))
          rw [if_neg (Ne.symm hne), this] at hj
          simp at hj
      subst hkj
      simp only [if_true, Option.some.injEq] at hk
      subst hk
      congr 1
      refine ih n hsm hsn (fun x => ?_)
      by_cases hx : x = k
      · subst hx
        rw [none_below m x ham, none_below n x han]
      · have := h x
        simpa [mapFind?_cons, hx] using this

@[simp] theorem leBytes_length (n v : Nat) : (leBytes n v).length = n := by
  induction n generalizing v with
  | zero => rfl
  | succ n ih => simp [leBytes, ih]

end Sys2Proof.Machine
end

