-- ==== Sys2Proof/Laws/Regs.lean ====
section
/-! SUPPORT. Laws of registers and their fields (`Machine/Ops.lean`): a field reads as it was set, other fields and other registers
keep their values, and what a register write can do. -/

namespace Sys2Proof.Machine

/-! ### Bit fields -/

theorem testBit_bits (v hi lo j : Nat) : (bits v hi lo).testBit j = (decide (j < hi + 1 - lo) && v.testBit (lo + j)) := by
  unfold bits
  rw [Nat.testBit_mod_two_pow, Nat.testBit_div_two_pow, Nat.add_comm j lo]

theorem bits_lt (v hi lo : Nat) : bits v hi lo < 2 ^ (hi + 1 - lo) := Nat.mod_lt _ (Nat.two_pow_pos _)

theorem bits_whole (w : Word) : bits w.toNat 63 0 = w.toNat := by
  unfold bits
  simpa using Nat.mod_eq_of_lt w.isLt

theorem putBits_toNat (w : Word) (hi lo v : Nat) (h : lo ≤ hi) (h64 : hi < 64) :
    (putBits w hi lo v).toNat = w.toNat - bits w.toNat hi lo * 2 ^ lo + v % 2 ^ (hi + 1 - lo) * 2 ^ lo := by
  unfold putBits
  rw [Nat.mul_comm (2 ^ lo), Nat.mul_comm (2 ^ lo), BitVec.toNat_ofNat, Nat.mod_eq_of_lt]
  have hb : bits w.toNat hi lo * 2 ^ lo ≤ w.toNat := by
    unfold bits
    exact (Nat.mul_le_mul_right _ (Nat.mod_le _ _)).trans (Nat.div_mul_le_self _ _)
  have hw : w.toNat < 2 ^ 64 := w.isLt
  -- the bits above the field are a multiple of 2^(hi+1), those of the field and below fit under it
  have hsplit : w.toNat = w.toNat / 2 ^ (hi + 1) * 2 ^ (hi + 1) + w.toNat % 2 ^ (hi + 1) := (Nat.div_add_mod' _ _).symm
  have hpow : (2 : Nat) ^ (hi + 1) = 2 ^ (hi + 1 - lo) * 2 ^ lo := by rw [← Nat.pow_add]; congr 1; omega
  have hfield : bits w.toNat hi lo * 2 ^ lo + w.toNat % 2 ^ lo = w.toNat % 2 ^ (hi + 1) := by
    unfold bits
    rw [hpow, Nat.mul_comm (2 ^ (hi + 1 - lo)), Nat.mod_mul, Nat.mul_comm (2 ^ lo)]
    omega
  have hv : v % 2 ^ (hi + 1 - lo) * 2 ^ lo + w.toNat % 2 ^ lo < 2 ^ (hi + 1) := by
    have h1 : v % 2 ^ (hi + 1 - lo) + 1 ≤ 2 ^ (hi + 1 - lo) := Nat.mod_lt _ (Nat.two_pow_pos _)
    have h2 : w.toNat % 2 ^ lo < 2 ^ lo := Nat.mod_lt _ (Nat.two_pow_pos _)
    calc v % 2 ^ (hi + 1 - lo) * 2 ^ lo + w.toNat % 2 ^ lo
        < v % 2 ^ (hi + 1 - lo) * 2 ^ lo + 2 ^ lo := by omega
      _ = (v % 2 ^ (hi + 1 - lo) + 1) * 2 ^ lo := by ring
      _ ≤ 2 ^ (hi + 1 - lo) * 2 ^ lo := Nat.mul_le_mul_right _ h1
      _ = 2 ^ (hi + 1) := hpow.symm
  have hq : (w.toNat / 2 ^ (hi + 1) + 1) * 2 ^ (hi + 1) ≤ 2 ^ 64 := by
    have : (2 : Nat) ^ 64 = 2 ^ (64 - (hi + 1)) * 2 ^ (hi + 1) := by rw [← Nat.pow_add]; congr 1; omega
    rw [this]
    refine Nat.mul_le_mul_right _ ?_
    exact (Nat.div_lt_iff_lt_mul (Nat.two_pow_pos _)).mpr (by rw [← this]; exact hw)
  have : (w.toNat / 2 ^ (hi + 1) + 1) * 2 ^ (hi + 1) = w.toNat / 2 ^ (hi + 1) * 2 ^ (hi + 1) + 2 ^ (hi + 1) := by ring
  omega

theorem testBit_putBits (w : Word) (hi lo v i : Nat) (h : lo ≤ hi) (h64 : hi < 64) :
    (putBits w hi lo v).toNat.testBit i = if lo ≤ i ∧ i ≤ hi then v.testBit (i - lo) else w.toNat.testBit i := by
  rw [putBits_toNat w hi lo v h h64]
  have hpow : (2 : Nat) ^ (hi + 1) = 2 ^ (hi + 1 - lo) * 2 ^ lo := by rw [← Nat.pow_add]; congr 1; omega
  have hfield : bits w.toNat hi lo * 2 ^ lo + w.toNat % 2 ^ lo = w.toNat % 2 ^ (hi + 1) := by
    unfold bits
    rw [hpow, Nat.mul_comm (2 ^ (hi + 1 - lo)), Nat.mod_mul, Nat.mul_comm (2 ^ lo)]
    omega
  have hsplit : w.toNat = w.toNat / 2 ^ (hi + 1) * 2 ^ (hi + 1) + w.toNat % 2 ^ (hi + 1) := (Nat.div_add_mod' _ _).symm
  have key : w.toNat - bits w.toNat hi lo * 2 ^ lo + v % 2 ^ (hi + 1 - lo) * 2 ^ lo =
      2 ^ lo * (2 ^ (hi + 1 - lo) * (w.toNat / 2 ^ (hi + 1)) + v % 2 ^ (hi + 1 - lo)) + w.toNat % 2 ^ lo := by
    have e : 2 ^ lo * (2 ^ (hi + 1 - lo) * (w.toNat / 2 ^ (hi + 1)) + v % 2 ^ (hi + 1 - lo)) =
        w.toNat / 2 ^ (hi + 1) * 2 ^ (hi + 1) + v % 2 ^ (hi + 1 - lo) * 2 ^ lo := by rw [hpow]; ring
    rw [e]
    omega
  rw [key, Nat.testBit_two_pow_mul_add _ (Nat.mod_lt _ (Nat.two_pow_pos _))]
  by_cases hlo : i < lo
  · rw [if_pos hlo, if_neg (by omega), Nat.testBit_mod_two_pow]
    simp [hlo]
  · rw [if_neg hlo, Nat.testBit_two_pow_mul_add _ (Nat.mod_lt _ (Nat.two_pow_pos _))]
    by_cases hhi : i ≤ hi
    · rw [if_pos (show i - lo < hi + 1 - lo by omega), if_pos ⟨by omega, hhi⟩, Nat.testBit_mod_two_pow]
      simp [show i - lo < hi + 1 - lo by omega]
    · rw [if_neg (show ¬ i - lo < hi + 1 - lo by omega), if_neg (by omega), Nat.testBit_div_two_pow]
      congr 1
      omega

/-- A field reads as it was put. -/
theorem bits_putBits_same (w : Word) (hi lo v : Nat) (h : lo ≤ hi) (h64 : hi < 64) :
    bits (putBits w hi lo v).toNat hi lo = v % 2 ^ (hi + 1 - lo) := by
  refine Nat.eq_of_testBit_eq (fun j => ?_)
  rw [testBit_bits, testBit_putBits w hi lo v _ h h64, Nat.testBit_mod_two_pow]
  by_cases hj : j < hi + 1 - lo
  · rw [if_pos ⟨by omega, by omega⟩]
    simp [hj]
  · simp [hj]

/-- Putting a field leaves the fields beside it. -/
theorem bits_putBits_ne (w : Word) (hi lo v hi' lo' : Nat) (h : lo ≤ hi) (h64 : hi < 64) (hd : hi' < lo ∨ hi < lo') :
    bits (putBits w hi lo v).toNat hi' lo' = bits w.toNat hi' lo' := by
  refine Nat.eq_of_testBit_eq (fun j => ?_)
  rw [testBit_bits, testBit_bits, testBit_putBits w hi lo v _ h h64]
  by_cases hj : j < hi' + 1 - lo'
  · rw [if_neg (by omega)]
  · simp [hj]

/-! ### Registers -/

/-- Codes number the registers in the order of the index, from 1. -/
theorem RegName.code_eq (r : RegName) : r.code = r.ctorIdx + 1 := by cases r <;> rfl

theorem RegName.code_inj {r s : RegName} (h : r.code = s.code) : r = s := by
  rw [RegName.code_eq, RegName.code_eq, Nat.add_right_cancel_iff] at h
  rw [← RegName.ofNat_ctorIdx r, h, RegName.ofNat_ctorIdx]

theorem regKey_inj {r s : RegName} {i j : Nat} (hi : i < 2 ^ 24) (hj : j < 2 ^ 24) (h : regKey r i = regKey s j) :
    r = s ∧ i = j := by
  unfold regKey at h
  have hc : r.code = s.code := by omega
  exact ⟨RegName.code_inj hc, by omega⟩

@[simp] theorem Dev.reg_setReg_same (d : Dev) (r : RegName) (i : Nat) (v : Word) : (d.setReg r i v).reg r i = v := by
  simp [Dev.reg, Dev.setReg]

theorem Dev.reg_setReg_ne (d : Dev) {r s : RegName} {i j : Nat} (v : Word) (h : regKey s j ≠ regKey r i) :
    (d.setReg r i v).reg s j = d.reg s j := by
  unfold Dev.reg Dev.setReg
  simp only [mapGet, mapSet]
  split
  · rw [mapFind?_erase_ne _ h]
  · rw [mapFind?_put_ne _ _ h]

/-- Another register keeps its value. -/
theorem Dev.reg_setReg_other (d : Dev) {r s : RegName} {i j : Nat} (v : Word) (hi : i < 2 ^ 24) (hj : j < 2 ^ 24)
    (h : s ≠ r ∨ j ≠ i) : (d.setReg r i v).reg s j = d.reg s j :=
  d.reg_setReg_ne v (fun e => by
    obtain ⟨e1, e2⟩ := regKey_inj hj hi e
    rcases h with h | h <;> contradiction)

/-- A field reads as it was set, cut to its width. -/
theorem Dev.fget_fset_same (d : Dev) (f : Fld) (i v : Nat) (h : f.lo ≤ f.hi) (h64 : f.hi < 64) :
    (d.fset f i v).fget f i = v % 2 ^ (f.hi + 1 - f.lo) := by
  unfold Dev.fget Dev.fset
  rw [Dev.reg_setReg_same, bits_putBits_same _ _ _ _ h h64]

/-- Setting a field leaves the other fields of its register. -/
theorem Dev.fget_fset_beside (d : Dev) (f g : Fld) (i v : Nat) (hr : g.reg = f.reg) (h : f.lo ≤ f.hi) (h64 : f.hi < 64)
    (hd : g.hi < f.lo ∨ f.hi < g.lo) : (d.fset f i v).fget g i = d.fget g i := by
  unfold Dev.fget Dev.fset
  rw [hr, Dev.reg_setReg_same, bits_putBits_ne _ _ _ _ _ _ h h64 hd]

/-- Setting a field leaves other registers. -/
theorem Dev.reg_fset_other (d : Dev) (f : Fld) {s : RegName} {i j : Nat} (v : Nat) (hi : i < 2 ^ 24) (hj : j < 2 ^ 24)
    (h : s ≠ f.reg ∨ j ≠ i) : (d.fset f i v).reg s j = d.reg s j :=
  d.reg_setReg_other _ hi hj h

/-! ### What a register write does -/

/-- No register of the index has an RWO field. -/
@[simp] theorem Dev.noteRwo_eq (d : Dev) (r : RegName) (i : Nat) : d.noteRwo r i = d := by cases r <;> rfl

/-- A refused write sets CFG_ERR of the owning block, with CONFLICT when the write claimed an owned resource, and nothing else
(R7, R478). -/
theorem Dev.refuse_eq (d : Dev) (r : RegName) (i : Nat) (c : Bool) :
    d.refuse r i c = d.setReg (cfgErrOf r i).1 (cfgErrOf r i).2
      (d.reg (cfgErrOf r i).1 (cfgErrOf r i).2 ||| if c then 3#64 else 1#64) := rfl

/-- A write that passes R7 and the register's own rules leaves the value of R6, and has its effect. -/
theorem Dev.regWrite_ok (d : Dev) (p : Party) (r : RegName) (i : Nat) (v : Word) (eff : Dev → Dev)
    (h : d.writeOk p r i v = true) : d.regWrite p r i v .ok eff = eff (d.setReg r i (d.afterWrite p r i v)) := by
  simp [Dev.regWrite, h]

/-- What a register write can do: take effect, or be refused. -/
theorem Dev.regWrite_cases (d : Dev) (p : Party) (r : RegName) (i : Nat) (v : Word) (own : Verdict) (eff : Dev → Dev) :
    (d.writeOk p r i v = true ∧ own = .ok ∧ d.regWrite p r i v own eff = eff (d.setReg r i (d.afterWrite p r i v))) ∨
      (∃ c, d.regWrite p r i v own eff = d.refuse r i c) := by
  unfold Dev.regWrite
  split
  · rename_i h
    cases own with
    | ok => exact .inl ⟨h, rfl, by simp⟩
    | refuse => exact .inr ⟨false, rfl⟩
    | conflict => exact .inr ⟨true, rfl⟩
  · exact .inr ⟨_, rfl⟩

/-! ### The fields of a register together -/

/-- The fields of a register do not overlap. -/
theorem regFields_disjoint (r : RegName) : (regFields r).Pairwise (fun f g => f.fld.hi < g.fld.lo ∨ g.fld.hi < f.fld.lo) := by
  cases r <;> decide
/-- The fields of a register lie in it. -/
theorem regFields_in (r : RegName) : ∀ f ∈ regFields r, f.fld.lo ≤ f.fld.hi ∧ f.fld.hi < 64 ∧ f.fld.reg = r := by
  cases r <;> decide
/-- Setting fields leaves the bits beside them. -/
theorem bits_putAll_out (g : FldDef → Nat) (hi lo : Nat) (l : List FldDef) (w : Word)
    (hw : ∀ f ∈ l, f.fld.lo ≤ f.fld.hi ∧ f.fld.hi < 64) (hd : ∀ f ∈ l, hi < f.fld.lo ∨ f.fld.hi < lo) :
    bits (l.foldl (fun w x => putBits w x.fld.hi x.fld.lo (g x)) w).toNat hi lo = bits w.toNat hi lo := by
  induction l generalizing w with
  | nil => rfl
  | cons x l ih =>
    rw [List.foldl_cons, ih _ (fun f h => hw f (List.mem_cons_of_mem _ h)) (fun f h => hd f (List.mem_cons_of_mem _ h))]
    exact bits_putBits_ne _ _ _ _ _ _ (hw x (List.mem_cons_self ..)).1 (hw x (List.mem_cons_self ..)).2 (hd x (List.mem_cons_self ..))
/-- Setting fields that do not overlap leaves in each its value. -/
theorem bits_putAll_in (g : FldDef → Nat) (f : FldDef) (l : List FldDef) (w : Word) (hf : f ∈ l)
    (hw : ∀ f ∈ l, f.fld.lo ≤ f.fld.hi ∧ f.fld.hi < 64)
    (hd : l.Pairwise (fun f g => f.fld.hi < g.fld.lo ∨ g.fld.hi < f.fld.lo)) :
    bits (l.foldl (fun w x => putBits w x.fld.hi x.fld.lo (g x)) w).toNat f.fld.hi f.fld.lo = g f % 2 ^ (f.fld.hi + 1 - f.fld.lo) := by
  induction l generalizing w with
  | nil => simp at hf
  | cons x l ih =>
    rw [List.foldl_cons]
    rw [List.pairwise_cons] at hd
    by_cases h : f ∈ l
    · exact ih _ h (fun f h => hw f (List.mem_cons_of_mem _ h)) hd.2
    · have : f = x := by simpa [h] using hf
      subst this
      rw [bits_putAll_out g _ _ l _ (fun f h => hw f (List.mem_cons_of_mem _ h)) (fun y hy => hd.1 y hy)]
      exact bits_putBits_same _ _ _ _ (hw f (List.mem_cons_self ..)).1 (hw f (List.mem_cons_self ..)).2

/-- A write that its register's own verdict turns away is refused, with CONFLICT when it claims an owned resource. -/
theorem Dev.regWrite_turned (d : Dev) (p : Party) (r : RegName) (i : Nat) (v : Word) (own : Verdict) (eff : Dev → Dev)
    (h : own ≠ .ok) : d.regWrite p r i v own eff = d.refuse r i (decide (own = .conflict)) := by
  unfold Dev.regWrite
  split
  · cases own with
    | ok => exact absurd rfl h
    | refuse => rfl
    | conflict => rfl
  · rfl
@[simp] theorem Dev.regWrite_refuse (d : Dev) (p : Party) (r : RegName) (i : Nat) (v : Word) (eff : Dev → Dev) :
    d.regWrite p r i v .refuse eff = d.refuse r i false := Dev.regWrite_turned _ _ _ _ _ _ _ (by decide)
@[simp] theorem Dev.regWrite_conflict (d : Dev) (p : Party) (r : RegName) (i : Nat) (v : Word) (eff : Dev → Dev) :
    d.regWrite p r i v .conflict eff = d.refuse r i true := Dev.regWrite_turned _ _ _ _ _ _ _ (by decide)

@[simp] theorem verdict_ne_ok (c : Bool) : verdict true c ≠ .ok := by cases c <;> decide
@[simp] theorem verdict_is_conflict (t c : Bool) : decide (verdict t c = .conflict) = c := by cases t <;> cases c <;> rfl
@[simp] theorem verdict_ff : verdict false false = .ok := rfl
@[simp] theorem verdict_tf : verdict true false = .refuse := rfl
@[simp] theorem verdict_t (r : Bool) : verdict r true = .conflict := rfl

end Sys2Proof.Machine
end

