-- ==== Sys2Proof/Laws/State.lean ====
section
/-! SUPPORT. Laws of the named updates of the device: one lemma per field and update that leaves it, and what an update's own
table reads as afterwards. -/

namespace Sys2Proof.Machine

/-! ### modRing -/

@[simp] theorem Dev.regs_modRing (d : Dev) (m : RingSt → RingSt) : (d.modRing m).regs = d.regs := rfl
@[simp] theorem Dev.rwo_modRing (d : Dev) (m : RingSt → RingSt) : (d.modRing m).rwo = d.rwo := rfl
@[simp] theorem Dev.mem_modRing (d : Dev) (m : RingSt → RingSt) : (d.modRing m).mem = d.mem := rfl
@[simp] theorem Dev.poison_modRing (d : Dev) (m : RingSt → RingSt) : (d.modRing m).poison = d.poison := rfl
@[simp] theorem Dev.free_modRing (d : Dev) (m : RingSt → RingSt) : (d.modRing m).free = d.free := rfl
@[simp] theorem Dev.out_modRing (d : Dev) (m : RingSt → RingSt) : (d.modRing m).out = d.out := rfl
@[simp] theorem Dev.ctxs_modRing (d : Dev) (m : RingSt → RingSt) : (d.modRing m).ctxs = d.ctxs := rfl
@[simp] theorem Dev.time_modRing (d : Dev) (m : RingSt → RingSt) : (d.modRing m).time = d.time := rfl
@[simp] theorem Dev.arb_modRing (d : Dev) (m : RingSt → RingSt) : (d.modRing m).arb = d.arb := rfl
@[simp] theorem Dev.eng_modRing (d : Dev) (m : RingSt → RingSt) : (d.modRing m).eng = d.eng := rfl
@[simp] theorem Dev.seq_modRing (d : Dev) (m : RingSt → RingSt) : (d.modRing m).seq = d.seq := rfl
@[simp] theorem Dev.tier_modRing (d : Dev) (m : RingSt → RingSt) : (d.modRing m).tier = d.tier := rfl
@[simp] theorem Dev.cpx_modRing (d : Dev) (m : RingSt → RingSt) : (d.modRing m).cpx = d.cpx := rfl
@[simp] theorem Dev.coh_modRing (d : Dev) (m : RingSt → RingSt) : (d.modRing m).coh = d.coh := rfl
@[simp] theorem Dev.tours_modRing (d : Dev) (m : RingSt → RingSt) : (d.modRing m).tours = d.tours := rfl
@[simp] theorem Dev.xlat_modRing (d : Dev) (m : RingSt → RingSt) : (d.modRing m).xlat = d.xlat := rfl
@[simp] theorem Dev.fab_modRing (d : Dev) (m : RingSt → RingSt) : (d.modRing m).fab = d.fab := rfl
@[simp] theorem Dev.sec_modRing (d : Dev) (m : RingSt → RingSt) : (d.modRing m).sec = d.sec := rfl
@[simp] theorem Dev.res_modRing (d : Dev) (m : RingSt → RingSt) : (d.modRing m).res = d.res := rfl
@[simp] theorem Dev.pow_modRing (d : Dev) (m : RingSt → RingSt) : (d.modRing m).pow = d.pow := rfl
@[simp] theorem Dev.msix_modRing (d : Dev) (m : RingSt → RingSt) : (d.modRing m).msix = d.msix := rfl
@[simp] theorem Dev.ring_modRing_self (d : Dev) (m : RingSt → RingSt) : (d.modRing m).ring = m d.ring := rfl
@[simp] theorem Dev.reg_modRing (d : Dev) (m : RingSt → RingSt) (rn : RegName) (ri : Nat) : (d.modRing m).reg rn ri = d.reg rn ri := rfl
@[simp] theorem Dev.fget_modRing (d : Dev) (m : RingSt → RingSt) (rf : Fld) (ri : Nat) : (d.modRing m).fget rf ri = d.fget rf ri := rfl
@[simp] theorem Dev.fon_modRing (d : Dev) (m : RingSt → RingSt) (rf : Fld) (ri : Nat) : (d.modRing m).fon rf ri = d.fon rf ri := rfl

/-! ### modTime -/

@[simp] theorem Dev.regs_modTime (d : Dev) (m : TimeSt → TimeSt) : (d.modTime m).regs = d.regs := rfl
@[simp] theorem Dev.rwo_modTime (d : Dev) (m : TimeSt → TimeSt) : (d.modTime m).rwo = d.rwo := rfl
@[simp] theorem Dev.mem_modTime (d : Dev) (m : TimeSt → TimeSt) : (d.modTime m).mem = d.mem := rfl
@[simp] theorem Dev.poison_modTime (d : Dev) (m : TimeSt → TimeSt) : (d.modTime m).poison = d.poison := rfl
@[simp] theorem Dev.free_modTime (d : Dev) (m : TimeSt → TimeSt) : (d.modTime m).free = d.free := rfl
@[simp] theorem Dev.out_modTime (d : Dev) (m : TimeSt → TimeSt) : (d.modTime m).out = d.out := rfl
@[simp] theorem Dev.ctxs_modTime (d : Dev) (m : TimeSt → TimeSt) : (d.modTime m).ctxs = d.ctxs := rfl
@[simp] theorem Dev.ring_modTime (d : Dev) (m : TimeSt → TimeSt) : (d.modTime m).ring = d.ring := rfl
@[simp] theorem Dev.arb_modTime (d : Dev) (m : TimeSt → TimeSt) : (d.modTime m).arb = d.arb := rfl
@[simp] theorem Dev.eng_modTime (d : Dev) (m : TimeSt → TimeSt) : (d.modTime m).eng = d.eng := rfl
@[simp] theorem Dev.seq_modTime (d : Dev) (m : TimeSt → TimeSt) : (d.modTime m).seq = d.seq := rfl
@[simp] theorem Dev.tier_modTime (d : Dev) (m : TimeSt → TimeSt) : (d.modTime m).tier = d.tier := rfl
@[simp] theorem Dev.cpx_modTime (d : Dev) (m : TimeSt → TimeSt) : (d.modTime m).cpx = d.cpx := rfl
@[simp] theorem Dev.coh_modTime (d : Dev) (m : TimeSt → TimeSt) : (d.modTime m).coh = d.coh := rfl
@[simp] theorem Dev.tours_modTime (d : Dev) (m : TimeSt → TimeSt) : (d.modTime m).tours = d.tours := rfl
@[simp] theorem Dev.xlat_modTime (d : Dev) (m : TimeSt → TimeSt) : (d.modTime m).xlat = d.xlat := rfl
@[simp] theorem Dev.fab_modTime (d : Dev) (m : TimeSt → TimeSt) : (d.modTime m).fab = d.fab := rfl
@[simp] theorem Dev.sec_modTime (d : Dev) (m : TimeSt → TimeSt) : (d.modTime m).sec = d.sec := rfl
@[simp] theorem Dev.res_modTime (d : Dev) (m : TimeSt → TimeSt) : (d.modTime m).res = d.res := rfl
@[simp] theorem Dev.pow_modTime (d : Dev) (m : TimeSt → TimeSt) : (d.modTime m).pow = d.pow := rfl
@[simp] theorem Dev.msix_modTime (d : Dev) (m : TimeSt → TimeSt) : (d.modTime m).msix = d.msix := rfl
@[simp] theorem Dev.time_modTime_self (d : Dev) (m : TimeSt → TimeSt) : (d.modTime m).time = m d.time := rfl
@[simp] theorem Dev.reg_modTime (d : Dev) (m : TimeSt → TimeSt) (rn : RegName) (ri : Nat) : (d.modTime m).reg rn ri = d.reg rn ri := rfl
@[simp] theorem Dev.fget_modTime (d : Dev) (m : TimeSt → TimeSt) (rf : Fld) (ri : Nat) : (d.modTime m).fget rf ri = d.fget rf ri := rfl
@[simp] theorem Dev.fon_modTime (d : Dev) (m : TimeSt → TimeSt) (rf : Fld) (ri : Nat) : (d.modTime m).fon rf ri = d.fon rf ri := rfl

/-! ### modArb -/

@[simp] theorem Dev.regs_modArb (d : Dev) (m : ArbSt → ArbSt) : (d.modArb m).regs = d.regs := rfl
@[simp] theorem Dev.rwo_modArb (d : Dev) (m : ArbSt → ArbSt) : (d.modArb m).rwo = d.rwo := rfl
@[simp] theorem Dev.mem_modArb (d : Dev) (m : ArbSt → ArbSt) : (d.modArb m).mem = d.mem := rfl
@[simp] theorem Dev.poison_modArb (d : Dev) (m : ArbSt → ArbSt) : (d.modArb m).poison = d.poison := rfl
@[simp] theorem Dev.free_modArb (d : Dev) (m : ArbSt → ArbSt) : (d.modArb m).free = d.free := rfl
@[simp] theorem Dev.out_modArb (d : Dev) (m : ArbSt → ArbSt) : (d.modArb m).out = d.out := rfl
@[simp] theorem Dev.ctxs_modArb (d : Dev) (m : ArbSt → ArbSt) : (d.modArb m).ctxs = d.ctxs := rfl
@[simp] theorem Dev.ring_modArb (d : Dev) (m : ArbSt → ArbSt) : (d.modArb m).ring = d.ring := rfl
@[simp] theorem Dev.time_modArb (d : Dev) (m : ArbSt → ArbSt) : (d.modArb m).time = d.time := rfl
@[simp] theorem Dev.eng_modArb (d : Dev) (m : ArbSt → ArbSt) : (d.modArb m).eng = d.eng := rfl
@[simp] theorem Dev.seq_modArb (d : Dev) (m : ArbSt → ArbSt) : (d.modArb m).seq = d.seq := rfl
@[simp] theorem Dev.tier_modArb (d : Dev) (m : ArbSt → ArbSt) : (d.modArb m).tier = d.tier := rfl
@[simp] theorem Dev.cpx_modArb (d : Dev) (m : ArbSt → ArbSt) : (d.modArb m).cpx = d.cpx := rfl
@[simp] theorem Dev.coh_modArb (d : Dev) (m : ArbSt → ArbSt) : (d.modArb m).coh = d.coh := rfl
@[simp] theorem Dev.tours_modArb (d : Dev) (m : ArbSt → ArbSt) : (d.modArb m).tours = d.tours := rfl
@[simp] theorem Dev.xlat_modArb (d : Dev) (m : ArbSt → ArbSt) : (d.modArb m).xlat = d.xlat := rfl
@[simp] theorem Dev.fab_modArb (d : Dev) (m : ArbSt → ArbSt) : (d.modArb m).fab = d.fab := rfl
@[simp] theorem Dev.sec_modArb (d : Dev) (m : ArbSt → ArbSt) : (d.modArb m).sec = d.sec := rfl
@[simp] theorem Dev.res_modArb (d : Dev) (m : ArbSt → ArbSt) : (d.modArb m).res = d.res := rfl
@[simp] theorem Dev.pow_modArb (d : Dev) (m : ArbSt → ArbSt) : (d.modArb m).pow = d.pow := rfl
@[simp] theorem Dev.msix_modArb (d : Dev) (m : ArbSt → ArbSt) : (d.modArb m).msix = d.msix := rfl
@[simp] theorem Dev.arb_modArb_self (d : Dev) (m : ArbSt → ArbSt) : (d.modArb m).arb = m d.arb := rfl
@[simp] theorem Dev.reg_modArb (d : Dev) (m : ArbSt → ArbSt) (rn : RegName) (ri : Nat) : (d.modArb m).reg rn ri = d.reg rn ri := rfl
@[simp] theorem Dev.fget_modArb (d : Dev) (m : ArbSt → ArbSt) (rf : Fld) (ri : Nat) : (d.modArb m).fget rf ri = d.fget rf ri := rfl
@[simp] theorem Dev.fon_modArb (d : Dev) (m : ArbSt → ArbSt) (rf : Fld) (ri : Nat) : (d.modArb m).fon rf ri = d.fon rf ri := rfl

/-! ### modEng -/

@[simp] theorem Dev.regs_modEng (d : Dev) (m : EngSt → EngSt) : (d.modEng m).regs = d.regs := rfl
@[simp] theorem Dev.rwo_modEng (d : Dev) (m : EngSt → EngSt) : (d.modEng m).rwo = d.rwo := rfl
@[simp] theorem Dev.mem_modEng (d : Dev) (m : EngSt → EngSt) : (d.modEng m).mem = d.mem := rfl
@[simp] theorem Dev.poison_modEng (d : Dev) (m : EngSt → EngSt) : (d.modEng m).poison = d.poison := rfl
@[simp] theorem Dev.free_modEng (d : Dev) (m : EngSt → EngSt) : (d.modEng m).free = d.free := rfl
@[simp] theorem Dev.out_modEng (d : Dev) (m : EngSt → EngSt) : (d.modEng m).out = d.out := rfl
@[simp] theorem Dev.ctxs_modEng (d : Dev) (m : EngSt → EngSt) : (d.modEng m).ctxs = d.ctxs := rfl
@[simp] theorem Dev.ring_modEng (d : Dev) (m : EngSt → EngSt) : (d.modEng m).ring = d.ring := rfl
@[simp] theorem Dev.time_modEng (d : Dev) (m : EngSt → EngSt) : (d.modEng m).time = d.time := rfl
@[simp] theorem Dev.arb_modEng (d : Dev) (m : EngSt → EngSt) : (d.modEng m).arb = d.arb := rfl
@[simp] theorem Dev.seq_modEng (d : Dev) (m : EngSt → EngSt) : (d.modEng m).seq = d.seq := rfl
@[simp] theorem Dev.tier_modEng (d : Dev) (m : EngSt → EngSt) : (d.modEng m).tier = d.tier := rfl
@[simp] theorem Dev.cpx_modEng (d : Dev) (m : EngSt → EngSt) : (d.modEng m).cpx = d.cpx := rfl
@[simp] theorem Dev.coh_modEng (d : Dev) (m : EngSt → EngSt) : (d.modEng m).coh = d.coh := rfl
@[simp] theorem Dev.tours_modEng (d : Dev) (m : EngSt → EngSt) : (d.modEng m).tours = d.tours := rfl
@[simp] theorem Dev.xlat_modEng (d : Dev) (m : EngSt → EngSt) : (d.modEng m).xlat = d.xlat := rfl
@[simp] theorem Dev.fab_modEng (d : Dev) (m : EngSt → EngSt) : (d.modEng m).fab = d.fab := rfl
@[simp] theorem Dev.sec_modEng (d : Dev) (m : EngSt → EngSt) : (d.modEng m).sec = d.sec := rfl
@[simp] theorem Dev.res_modEng (d : Dev) (m : EngSt → EngSt) : (d.modEng m).res = d.res := rfl
@[simp] theorem Dev.pow_modEng (d : Dev) (m : EngSt → EngSt) : (d.modEng m).pow = d.pow := rfl
@[simp] theorem Dev.msix_modEng (d : Dev) (m : EngSt → EngSt) : (d.modEng m).msix = d.msix := rfl
@[simp] theorem Dev.eng_modEng_self (d : Dev) (m : EngSt → EngSt) : (d.modEng m).eng = m d.eng := rfl
@[simp] theorem Dev.reg_modEng (d : Dev) (m : EngSt → EngSt) (rn : RegName) (ri : Nat) : (d.modEng m).reg rn ri = d.reg rn ri := rfl
@[simp] theorem Dev.fget_modEng (d : Dev) (m : EngSt → EngSt) (rf : Fld) (ri : Nat) : (d.modEng m).fget rf ri = d.fget rf ri := rfl
@[simp] theorem Dev.fon_modEng (d : Dev) (m : EngSt → EngSt) (rf : Fld) (ri : Nat) : (d.modEng m).fon rf ri = d.fon rf ri := rfl

/-! ### modSeq -/

@[simp] theorem Dev.regs_modSeq (d : Dev) (m : SeqEng → SeqEng) : (d.modSeq m).regs = d.regs := rfl
@[simp] theorem Dev.rwo_modSeq (d : Dev) (m : SeqEng → SeqEng) : (d.modSeq m).rwo = d.rwo := rfl
@[simp] theorem Dev.mem_modSeq (d : Dev) (m : SeqEng → SeqEng) : (d.modSeq m).mem = d.mem := rfl
@[simp] theorem Dev.poison_modSeq (d : Dev) (m : SeqEng → SeqEng) : (d.modSeq m).poison = d.poison := rfl
@[simp] theorem Dev.free_modSeq (d : Dev) (m : SeqEng → SeqEng) : (d.modSeq m).free = d.free := rfl
@[simp] theorem Dev.out_modSeq (d : Dev) (m : SeqEng → SeqEng) : (d.modSeq m).out = d.out := rfl
@[simp] theorem Dev.ctxs_modSeq (d : Dev) (m : SeqEng → SeqEng) : (d.modSeq m).ctxs = d.ctxs := rfl
@[simp] theorem Dev.ring_modSeq (d : Dev) (m : SeqEng → SeqEng) : (d.modSeq m).ring = d.ring := rfl
@[simp] theorem Dev.time_modSeq (d : Dev) (m : SeqEng → SeqEng) : (d.modSeq m).time = d.time := rfl
@[simp] theorem Dev.arb_modSeq (d : Dev) (m : SeqEng → SeqEng) : (d.modSeq m).arb = d.arb := rfl
@[simp] theorem Dev.eng_modSeq (d : Dev) (m : SeqEng → SeqEng) : (d.modSeq m).eng = d.eng := rfl
@[simp] theorem Dev.tier_modSeq (d : Dev) (m : SeqEng → SeqEng) : (d.modSeq m).tier = d.tier := rfl
@[simp] theorem Dev.cpx_modSeq (d : Dev) (m : SeqEng → SeqEng) : (d.modSeq m).cpx = d.cpx := rfl
@[simp] theorem Dev.coh_modSeq (d : Dev) (m : SeqEng → SeqEng) : (d.modSeq m).coh = d.coh := rfl
@[simp] theorem Dev.tours_modSeq (d : Dev) (m : SeqEng → SeqEng) : (d.modSeq m).tours = d.tours := rfl
@[simp] theorem Dev.xlat_modSeq (d : Dev) (m : SeqEng → SeqEng) : (d.modSeq m).xlat = d.xlat := rfl
@[simp] theorem Dev.fab_modSeq (d : Dev) (m : SeqEng → SeqEng) : (d.modSeq m).fab = d.fab := rfl
@[simp] theorem Dev.sec_modSeq (d : Dev) (m : SeqEng → SeqEng) : (d.modSeq m).sec = d.sec := rfl
@[simp] theorem Dev.res_modSeq (d : Dev) (m : SeqEng → SeqEng) : (d.modSeq m).res = d.res := rfl
@[simp] theorem Dev.pow_modSeq (d : Dev) (m : SeqEng → SeqEng) : (d.modSeq m).pow = d.pow := rfl
@[simp] theorem Dev.msix_modSeq (d : Dev) (m : SeqEng → SeqEng) : (d.modSeq m).msix = d.msix := rfl
@[simp] theorem Dev.seq_modSeq_self (d : Dev) (m : SeqEng → SeqEng) : (d.modSeq m).seq = m d.seq := rfl
@[simp] theorem Dev.reg_modSeq (d : Dev) (m : SeqEng → SeqEng) (rn : RegName) (ri : Nat) : (d.modSeq m).reg rn ri = d.reg rn ri := rfl
@[simp] theorem Dev.fget_modSeq (d : Dev) (m : SeqEng → SeqEng) (rf : Fld) (ri : Nat) : (d.modSeq m).fget rf ri = d.fget rf ri := rfl
@[simp] theorem Dev.fon_modSeq (d : Dev) (m : SeqEng → SeqEng) (rf : Fld) (ri : Nat) : (d.modSeq m).fon rf ri = d.fon rf ri := rfl

/-! ### modTier -/

@[simp] theorem Dev.regs_modTier (d : Dev) (m : TierSt → TierSt) : (d.modTier m).regs = d.regs := rfl
@[simp] theorem Dev.rwo_modTier (d : Dev) (m : TierSt → TierSt) : (d.modTier m).rwo = d.rwo := rfl
@[simp] theorem Dev.mem_modTier (d : Dev) (m : TierSt → TierSt) : (d.modTier m).mem = d.mem := rfl
@[simp] theorem Dev.poison_modTier (d : Dev) (m : TierSt → TierSt) : (d.modTier m).poison = d.poison := rfl
@[simp] theorem Dev.free_modTier (d : Dev) (m : TierSt → TierSt) : (d.modTier m).free = d.free := rfl
@[simp] theorem Dev.out_modTier (d : Dev) (m : TierSt → TierSt) : (d.modTier m).out = d.out := rfl
@[simp] theorem Dev.ctxs_modTier (d : Dev) (m : TierSt → TierSt) : (d.modTier m).ctxs = d.ctxs := rfl
@[simp] theorem Dev.ring_modTier (d : Dev) (m : TierSt → TierSt) : (d.modTier m).ring = d.ring := rfl
@[simp] theorem Dev.time_modTier (d : Dev) (m : TierSt → TierSt) : (d.modTier m).time = d.time := rfl
@[simp] theorem Dev.arb_modTier (d : Dev) (m : TierSt → TierSt) : (d.modTier m).arb = d.arb := rfl
@[simp] theorem Dev.eng_modTier (d : Dev) (m : TierSt → TierSt) : (d.modTier m).eng = d.eng := rfl
@[simp] theorem Dev.seq_modTier (d : Dev) (m : TierSt → TierSt) : (d.modTier m).seq = d.seq := rfl
@[simp] theorem Dev.cpx_modTier (d : Dev) (m : TierSt → TierSt) : (d.modTier m).cpx = d.cpx := rfl
@[simp] theorem Dev.coh_modTier (d : Dev) (m : TierSt → TierSt) : (d.modTier m).coh = d.coh := rfl
@[simp] theorem Dev.tours_modTier (d : Dev) (m : TierSt → TierSt) : (d.modTier m).tours = d.tours := rfl
@[simp] theorem Dev.xlat_modTier (d : Dev) (m : TierSt → TierSt) : (d.modTier m).xlat = d.xlat := rfl
@[simp] theorem Dev.fab_modTier (d : Dev) (m : TierSt → TierSt) : (d.modTier m).fab = d.fab := rfl
@[simp] theorem Dev.sec_modTier (d : Dev) (m : TierSt → TierSt) : (d.modTier m).sec = d.sec := rfl
@[simp] theorem Dev.res_modTier (d : Dev) (m : TierSt → TierSt) : (d.modTier m).res = d.res := rfl
@[simp] theorem Dev.pow_modTier (d : Dev) (m : TierSt → TierSt) : (d.modTier m).pow = d.pow := rfl
@[simp] theorem Dev.msix_modTier (d : Dev) (m : TierSt → TierSt) : (d.modTier m).msix = d.msix := rfl
@[simp] theorem Dev.tier_modTier_self (d : Dev) (m : TierSt → TierSt) : (d.modTier m).tier = m d.tier := rfl
@[simp] theorem Dev.reg_modTier (d : Dev) (m : TierSt → TierSt) (rn : RegName) (ri : Nat) : (d.modTier m).reg rn ri = d.reg rn ri := rfl
@[simp] theorem Dev.fget_modTier (d : Dev) (m : TierSt → TierSt) (rf : Fld) (ri : Nat) : (d.modTier m).fget rf ri = d.fget rf ri := rfl
@[simp] theorem Dev.fon_modTier (d : Dev) (m : TierSt → TierSt) (rf : Fld) (ri : Nat) : (d.modTier m).fon rf ri = d.fon rf ri := rfl

/-! ### modCpx -/

@[simp] theorem Dev.regs_modCpx (d : Dev) (m : CoreCplx → CoreCplx) : (d.modCpx m).regs = d.regs := rfl
@[simp] theorem Dev.rwo_modCpx (d : Dev) (m : CoreCplx → CoreCplx) : (d.modCpx m).rwo = d.rwo := rfl
@[simp] theorem Dev.mem_modCpx (d : Dev) (m : CoreCplx → CoreCplx) : (d.modCpx m).mem = d.mem := rfl
@[simp] theorem Dev.poison_modCpx (d : Dev) (m : CoreCplx → CoreCplx) : (d.modCpx m).poison = d.poison := rfl
@[simp] theorem Dev.free_modCpx (d : Dev) (m : CoreCplx → CoreCplx) : (d.modCpx m).free = d.free := rfl
@[simp] theorem Dev.out_modCpx (d : Dev) (m : CoreCplx → CoreCplx) : (d.modCpx m).out = d.out := rfl
@[simp] theorem Dev.ctxs_modCpx (d : Dev) (m : CoreCplx → CoreCplx) : (d.modCpx m).ctxs = d.ctxs := rfl
@[simp] theorem Dev.ring_modCpx (d : Dev) (m : CoreCplx → CoreCplx) : (d.modCpx m).ring = d.ring := rfl
@[simp] theorem Dev.time_modCpx (d : Dev) (m : CoreCplx → CoreCplx) : (d.modCpx m).time = d.time := rfl
@[simp] theorem Dev.arb_modCpx (d : Dev) (m : CoreCplx → CoreCplx) : (d.modCpx m).arb = d.arb := rfl
@[simp] theorem Dev.eng_modCpx (d : Dev) (m : CoreCplx → CoreCplx) : (d.modCpx m).eng = d.eng := rfl
@[simp] theorem Dev.seq_modCpx (d : Dev) (m : CoreCplx → CoreCplx) : (d.modCpx m).seq = d.seq := rfl
@[simp] theorem Dev.tier_modCpx (d : Dev) (m : CoreCplx → CoreCplx) : (d.modCpx m).tier = d.tier := rfl
@[simp] theorem Dev.coh_modCpx (d : Dev) (m : CoreCplx → CoreCplx) : (d.modCpx m).coh = d.coh := rfl
@[simp] theorem Dev.tours_modCpx (d : Dev) (m : CoreCplx → CoreCplx) : (d.modCpx m).tours = d.tours := rfl
@[simp] theorem Dev.xlat_modCpx (d : Dev) (m : CoreCplx → CoreCplx) : (d.modCpx m).xlat = d.xlat := rfl
@[simp] theorem Dev.fab_modCpx (d : Dev) (m : CoreCplx → CoreCplx) : (d.modCpx m).fab = d.fab := rfl
@[simp] theorem Dev.sec_modCpx (d : Dev) (m : CoreCplx → CoreCplx) : (d.modCpx m).sec = d.sec := rfl
@[simp] theorem Dev.res_modCpx (d : Dev) (m : CoreCplx → CoreCplx) : (d.modCpx m).res = d.res := rfl
@[simp] theorem Dev.pow_modCpx (d : Dev) (m : CoreCplx → CoreCplx) : (d.modCpx m).pow = d.pow := rfl
@[simp] theorem Dev.msix_modCpx (d : Dev) (m : CoreCplx → CoreCplx) : (d.modCpx m).msix = d.msix := rfl
@[simp] theorem Dev.cpx_modCpx_self (d : Dev) (m : CoreCplx → CoreCplx) : (d.modCpx m).cpx = m d.cpx := rfl
@[simp] theorem Dev.reg_modCpx (d : Dev) (m : CoreCplx → CoreCplx) (rn : RegName) (ri : Nat) : (d.modCpx m).reg rn ri = d.reg rn ri := rfl
@[simp] theorem Dev.fget_modCpx (d : Dev) (m : CoreCplx → CoreCplx) (rf : Fld) (ri : Nat) : (d.modCpx m).fget rf ri = d.fget rf ri := rfl
@[simp] theorem Dev.fon_modCpx (d : Dev) (m : CoreCplx → CoreCplx) (rf : Fld) (ri : Nat) : (d.modCpx m).fon rf ri = d.fon rf ri := rfl

/-! ### modCoh -/

@[simp] theorem Dev.regs_modCoh (d : Dev) (m : CohSt → CohSt) : (d.modCoh m).regs = d.regs := rfl
@[simp] theorem Dev.rwo_modCoh (d : Dev) (m : CohSt → CohSt) : (d.modCoh m).rwo = d.rwo := rfl
@[simp] theorem Dev.mem_modCoh (d : Dev) (m : CohSt → CohSt) : (d.modCoh m).mem = d.mem := rfl
@[simp] theorem Dev.poison_modCoh (d : Dev) (m : CohSt → CohSt) : (d.modCoh m).poison = d.poison := rfl
@[simp] theorem Dev.free_modCoh (d : Dev) (m : CohSt → CohSt) : (d.modCoh m).free = d.free := rfl
@[simp] theorem Dev.out_modCoh (d : Dev) (m : CohSt → CohSt) : (d.modCoh m).out = d.out := rfl
@[simp] theorem Dev.ctxs_modCoh (d : Dev) (m : CohSt → CohSt) : (d.modCoh m).ctxs = d.ctxs := rfl
@[simp] theorem Dev.ring_modCoh (d : Dev) (m : CohSt → CohSt) : (d.modCoh m).ring = d.ring := rfl
@[simp] theorem Dev.time_modCoh (d : Dev) (m : CohSt → CohSt) : (d.modCoh m).time = d.time := rfl
@[simp] theorem Dev.arb_modCoh (d : Dev) (m : CohSt → CohSt) : (d.modCoh m).arb = d.arb := rfl
@[simp] theorem Dev.eng_modCoh (d : Dev) (m : CohSt → CohSt) : (d.modCoh m).eng = d.eng := rfl
@[simp] theorem Dev.seq_modCoh (d : Dev) (m : CohSt → CohSt) : (d.modCoh m).seq = d.seq := rfl
@[simp] theorem Dev.tier_modCoh (d : Dev) (m : CohSt → CohSt) : (d.modCoh m).tier = d.tier := rfl
@[simp] theorem Dev.cpx_modCoh (d : Dev) (m : CohSt → CohSt) : (d.modCoh m).cpx = d.cpx := rfl
@[simp] theorem Dev.tours_modCoh (d : Dev) (m : CohSt → CohSt) : (d.modCoh m).tours = d.tours := rfl
@[simp] theorem Dev.xlat_modCoh (d : Dev) (m : CohSt → CohSt) : (d.modCoh m).xlat = d.xlat := rfl
@[simp] theorem Dev.fab_modCoh (d : Dev) (m : CohSt → CohSt) : (d.modCoh m).fab = d.fab := rfl
@[simp] theorem Dev.sec_modCoh (d : Dev) (m : CohSt → CohSt) : (d.modCoh m).sec = d.sec := rfl
@[simp] theorem Dev.res_modCoh (d : Dev) (m : CohSt → CohSt) : (d.modCoh m).res = d.res := rfl
@[simp] theorem Dev.pow_modCoh (d : Dev) (m : CohSt → CohSt) : (d.modCoh m).pow = d.pow := rfl
@[simp] theorem Dev.msix_modCoh (d : Dev) (m : CohSt → CohSt) : (d.modCoh m).msix = d.msix := rfl
@[simp] theorem Dev.coh_modCoh_self (d : Dev) (m : CohSt → CohSt) : (d.modCoh m).coh = m d.coh := rfl
@[simp] theorem Dev.reg_modCoh (d : Dev) (m : CohSt → CohSt) (rn : RegName) (ri : Nat) : (d.modCoh m).reg rn ri = d.reg rn ri := rfl
@[simp] theorem Dev.fget_modCoh (d : Dev) (m : CohSt → CohSt) (rf : Fld) (ri : Nat) : (d.modCoh m).fget rf ri = d.fget rf ri := rfl
@[simp] theorem Dev.fon_modCoh (d : Dev) (m : CohSt → CohSt) (rf : Fld) (ri : Nat) : (d.modCoh m).fon rf ri = d.fon rf ri := rfl

/-! ### modXlat -/

@[simp] theorem Dev.regs_modXlat (d : Dev) (m : XlatSt → XlatSt) : (d.modXlat m).regs = d.regs := rfl
@[simp] theorem Dev.rwo_modXlat (d : Dev) (m : XlatSt → XlatSt) : (d.modXlat m).rwo = d.rwo := rfl
@[simp] theorem Dev.mem_modXlat (d : Dev) (m : XlatSt → XlatSt) : (d.modXlat m).mem = d.mem := rfl
@[simp] theorem Dev.poison_modXlat (d : Dev) (m : XlatSt → XlatSt) : (d.modXlat m).poison = d.poison := rfl
@[simp] theorem Dev.free_modXlat (d : Dev) (m : XlatSt → XlatSt) : (d.modXlat m).free = d.free := rfl
@[simp] theorem Dev.out_modXlat (d : Dev) (m : XlatSt → XlatSt) : (d.modXlat m).out = d.out := rfl
@[simp] theorem Dev.ctxs_modXlat (d : Dev) (m : XlatSt → XlatSt) : (d.modXlat m).ctxs = d.ctxs := rfl
@[simp] theorem Dev.ring_modXlat (d : Dev) (m : XlatSt → XlatSt) : (d.modXlat m).ring = d.ring := rfl
@[simp] theorem Dev.time_modXlat (d : Dev) (m : XlatSt → XlatSt) : (d.modXlat m).time = d.time := rfl
@[simp] theorem Dev.arb_modXlat (d : Dev) (m : XlatSt → XlatSt) : (d.modXlat m).arb = d.arb := rfl
@[simp] theorem Dev.eng_modXlat (d : Dev) (m : XlatSt → XlatSt) : (d.modXlat m).eng = d.eng := rfl
@[simp] theorem Dev.seq_modXlat (d : Dev) (m : XlatSt → XlatSt) : (d.modXlat m).seq = d.seq := rfl
@[simp] theorem Dev.tier_modXlat (d : Dev) (m : XlatSt → XlatSt) : (d.modXlat m).tier = d.tier := rfl
@[simp] theorem Dev.cpx_modXlat (d : Dev) (m : XlatSt → XlatSt) : (d.modXlat m).cpx = d.cpx := rfl
@[simp] theorem Dev.coh_modXlat (d : Dev) (m : XlatSt → XlatSt) : (d.modXlat m).coh = d.coh := rfl
@[simp] theorem Dev.tours_modXlat (d : Dev) (m : XlatSt → XlatSt) : (d.modXlat m).tours = d.tours := rfl
@[simp] theorem Dev.fab_modXlat (d : Dev) (m : XlatSt → XlatSt) : (d.modXlat m).fab = d.fab := rfl
@[simp] theorem Dev.sec_modXlat (d : Dev) (m : XlatSt → XlatSt) : (d.modXlat m).sec = d.sec := rfl
@[simp] theorem Dev.res_modXlat (d : Dev) (m : XlatSt → XlatSt) : (d.modXlat m).res = d.res := rfl
@[simp] theorem Dev.pow_modXlat (d : Dev) (m : XlatSt → XlatSt) : (d.modXlat m).pow = d.pow := rfl
@[simp] theorem Dev.msix_modXlat (d : Dev) (m : XlatSt → XlatSt) : (d.modXlat m).msix = d.msix := rfl
@[simp] theorem Dev.xlat_modXlat_self (d : Dev) (m : XlatSt → XlatSt) : (d.modXlat m).xlat = m d.xlat := rfl
@[simp] theorem Dev.reg_modXlat (d : Dev) (m : XlatSt → XlatSt) (rn : RegName) (ri : Nat) : (d.modXlat m).reg rn ri = d.reg rn ri := rfl
@[simp] theorem Dev.fget_modXlat (d : Dev) (m : XlatSt → XlatSt) (rf : Fld) (ri : Nat) : (d.modXlat m).fget rf ri = d.fget rf ri := rfl
@[simp] theorem Dev.fon_modXlat (d : Dev) (m : XlatSt → XlatSt) (rf : Fld) (ri : Nat) : (d.modXlat m).fon rf ri = d.fon rf ri := rfl

/-! ### modFab -/

@[simp] theorem Dev.regs_modFab (d : Dev) (m : FabSt → FabSt) : (d.modFab m).regs = d.regs := rfl
@[simp] theorem Dev.rwo_modFab (d : Dev) (m : FabSt → FabSt) : (d.modFab m).rwo = d.rwo := rfl
@[simp] theorem Dev.mem_modFab (d : Dev) (m : FabSt → FabSt) : (d.modFab m).mem = d.mem := rfl
@[simp] theorem Dev.poison_modFab (d : Dev) (m : FabSt → FabSt) : (d.modFab m).poison = d.poison := rfl
@[simp] theorem Dev.free_modFab (d : Dev) (m : FabSt → FabSt) : (d.modFab m).free = d.free := rfl
@[simp] theorem Dev.out_modFab (d : Dev) (m : FabSt → FabSt) : (d.modFab m).out = d.out := rfl
@[simp] theorem Dev.ctxs_modFab (d : Dev) (m : FabSt → FabSt) : (d.modFab m).ctxs = d.ctxs := rfl
@[simp] theorem Dev.ring_modFab (d : Dev) (m : FabSt → FabSt) : (d.modFab m).ring = d.ring := rfl
@[simp] theorem Dev.time_modFab (d : Dev) (m : FabSt → FabSt) : (d.modFab m).time = d.time := rfl
@[simp] theorem Dev.arb_modFab (d : Dev) (m : FabSt → FabSt) : (d.modFab m).arb = d.arb := rfl
@[simp] theorem Dev.eng_modFab (d : Dev) (m : FabSt → FabSt) : (d.modFab m).eng = d.eng := rfl
@[simp] theorem Dev.seq_modFab (d : Dev) (m : FabSt → FabSt) : (d.modFab m).seq = d.seq := rfl
@[simp] theorem Dev.tier_modFab (d : Dev) (m : FabSt → FabSt) : (d.modFab m).tier = d.tier := rfl
@[simp] theorem Dev.cpx_modFab (d : Dev) (m : FabSt → FabSt) : (d.modFab m).cpx = d.cpx := rfl
@[simp] theorem Dev.coh_modFab (d : Dev) (m : FabSt → FabSt) : (d.modFab m).coh = d.coh := rfl
@[simp] theorem Dev.tours_modFab (d : Dev) (m : FabSt → FabSt) : (d.modFab m).tours = d.tours := rfl
@[simp] theorem Dev.xlat_modFab (d : Dev) (m : FabSt → FabSt) : (d.modFab m).xlat = d.xlat := rfl
@[simp] theorem Dev.sec_modFab (d : Dev) (m : FabSt → FabSt) : (d.modFab m).sec = d.sec := rfl
@[simp] theorem Dev.res_modFab (d : Dev) (m : FabSt → FabSt) : (d.modFab m).res = d.res := rfl
@[simp] theorem Dev.pow_modFab (d : Dev) (m : FabSt → FabSt) : (d.modFab m).pow = d.pow := rfl
@[simp] theorem Dev.msix_modFab (d : Dev) (m : FabSt → FabSt) : (d.modFab m).msix = d.msix := rfl
@[simp] theorem Dev.fab_modFab_self (d : Dev) (m : FabSt → FabSt) : (d.modFab m).fab = m d.fab := rfl
@[simp] theorem Dev.reg_modFab (d : Dev) (m : FabSt → FabSt) (rn : RegName) (ri : Nat) : (d.modFab m).reg rn ri = d.reg rn ri := rfl
@[simp] theorem Dev.fget_modFab (d : Dev) (m : FabSt → FabSt) (rf : Fld) (ri : Nat) : (d.modFab m).fget rf ri = d.fget rf ri := rfl
@[simp] theorem Dev.fon_modFab (d : Dev) (m : FabSt → FabSt) (rf : Fld) (ri : Nat) : (d.modFab m).fon rf ri = d.fon rf ri := rfl

/-! ### modSec -/

@[simp] theorem Dev.regs_modSec (d : Dev) (m : SecSt → SecSt) : (d.modSec m).regs = d.regs := rfl
@[simp] theorem Dev.rwo_modSec (d : Dev) (m : SecSt → SecSt) : (d.modSec m).rwo = d.rwo := rfl
@[simp] theorem Dev.mem_modSec (d : Dev) (m : SecSt → SecSt) : (d.modSec m).mem = d.mem := rfl
@[simp] theorem Dev.poison_modSec (d : Dev) (m : SecSt → SecSt) : (d.modSec m).poison = d.poison := rfl
@[simp] theorem Dev.free_modSec (d : Dev) (m : SecSt → SecSt) : (d.modSec m).free = d.free := rfl
@[simp] theorem Dev.out_modSec (d : Dev) (m : SecSt → SecSt) : (d.modSec m).out = d.out := rfl
@[simp] theorem Dev.ctxs_modSec (d : Dev) (m : SecSt → SecSt) : (d.modSec m).ctxs = d.ctxs := rfl
@[simp] theorem Dev.ring_modSec (d : Dev) (m : SecSt → SecSt) : (d.modSec m).ring = d.ring := rfl
@[simp] theorem Dev.time_modSec (d : Dev) (m : SecSt → SecSt) : (d.modSec m).time = d.time := rfl
@[simp] theorem Dev.arb_modSec (d : Dev) (m : SecSt → SecSt) : (d.modSec m).arb = d.arb := rfl
@[simp] theorem Dev.eng_modSec (d : Dev) (m : SecSt → SecSt) : (d.modSec m).eng = d.eng := rfl
@[simp] theorem Dev.seq_modSec (d : Dev) (m : SecSt → SecSt) : (d.modSec m).seq = d.seq := rfl
@[simp] theorem Dev.tier_modSec (d : Dev) (m : SecSt → SecSt) : (d.modSec m).tier = d.tier := rfl
@[simp] theorem Dev.cpx_modSec (d : Dev) (m : SecSt → SecSt) : (d.modSec m).cpx = d.cpx := rfl
@[simp] theorem Dev.coh_modSec (d : Dev) (m : SecSt → SecSt) : (d.modSec m).coh = d.coh := rfl
@[simp] theorem Dev.tours_modSec (d : Dev) (m : SecSt → SecSt) : (d.modSec m).tours = d.tours := rfl
@[simp] theorem Dev.xlat_modSec (d : Dev) (m : SecSt → SecSt) : (d.modSec m).xlat = d.xlat := rfl
@[simp] theorem Dev.fab_modSec (d : Dev) (m : SecSt → SecSt) : (d.modSec m).fab = d.fab := rfl
@[simp] theorem Dev.res_modSec (d : Dev) (m : SecSt → SecSt) : (d.modSec m).res = d.res := rfl
@[simp] theorem Dev.pow_modSec (d : Dev) (m : SecSt → SecSt) : (d.modSec m).pow = d.pow := rfl
@[simp] theorem Dev.msix_modSec (d : Dev) (m : SecSt → SecSt) : (d.modSec m).msix = d.msix := rfl
@[simp] theorem Dev.sec_modSec_self (d : Dev) (m : SecSt → SecSt) : (d.modSec m).sec = m d.sec := rfl
@[simp] theorem Dev.reg_modSec (d : Dev) (m : SecSt → SecSt) (rn : RegName) (ri : Nat) : (d.modSec m).reg rn ri = d.reg rn ri := rfl
@[simp] theorem Dev.fget_modSec (d : Dev) (m : SecSt → SecSt) (rf : Fld) (ri : Nat) : (d.modSec m).fget rf ri = d.fget rf ri := rfl
@[simp] theorem Dev.fon_modSec (d : Dev) (m : SecSt → SecSt) (rf : Fld) (ri : Nat) : (d.modSec m).fon rf ri = d.fon rf ri := rfl

/-! ### modRes -/

@[simp] theorem Dev.regs_modRes (d : Dev) (m : ResSt → ResSt) : (d.modRes m).regs = d.regs := rfl
@[simp] theorem Dev.rwo_modRes (d : Dev) (m : ResSt → ResSt) : (d.modRes m).rwo = d.rwo := rfl
@[simp] theorem Dev.mem_modRes (d : Dev) (m : ResSt → ResSt) : (d.modRes m).mem = d.mem := rfl
@[simp] theorem Dev.poison_modRes (d : Dev) (m : ResSt → ResSt) : (d.modRes m).poison = d.poison := rfl
@[simp] theorem Dev.free_modRes (d : Dev) (m : ResSt → ResSt) : (d.modRes m).free = d.free := rfl
@[simp] theorem Dev.out_modRes (d : Dev) (m : ResSt → ResSt) : (d.modRes m).out = d.out := rfl
@[simp] theorem Dev.ctxs_modRes (d : Dev) (m : ResSt → ResSt) : (d.modRes m).ctxs = d.ctxs := rfl
@[simp] theorem Dev.ring_modRes (d : Dev) (m : ResSt → ResSt) : (d.modRes m).ring = d.ring := rfl
@[simp] theorem Dev.time_modRes (d : Dev) (m : ResSt → ResSt) : (d.modRes m).time = d.time := rfl
@[simp] theorem Dev.arb_modRes (d : Dev) (m : ResSt → ResSt) : (d.modRes m).arb = d.arb := rfl
@[simp] theorem Dev.eng_modRes (d : Dev) (m : ResSt → ResSt) : (d.modRes m).eng = d.eng := rfl
@[simp] theorem Dev.seq_modRes (d : Dev) (m : ResSt → ResSt) : (d.modRes m).seq = d.seq := rfl
@[simp] theorem Dev.tier_modRes (d : Dev) (m : ResSt → ResSt) : (d.modRes m).tier = d.tier := rfl
@[simp] theorem Dev.cpx_modRes (d : Dev) (m : ResSt → ResSt) : (d.modRes m).cpx = d.cpx := rfl
@[simp] theorem Dev.coh_modRes (d : Dev) (m : ResSt → ResSt) : (d.modRes m).coh = d.coh := rfl
@[simp] theorem Dev.tours_modRes (d : Dev) (m : ResSt → ResSt) : (d.modRes m).tours = d.tours := rfl
@[simp] theorem Dev.xlat_modRes (d : Dev) (m : ResSt → ResSt) : (d.modRes m).xlat = d.xlat := rfl
@[simp] theorem Dev.fab_modRes (d : Dev) (m : ResSt → ResSt) : (d.modRes m).fab = d.fab := rfl
@[simp] theorem Dev.sec_modRes (d : Dev) (m : ResSt → ResSt) : (d.modRes m).sec = d.sec := rfl
@[simp] theorem Dev.pow_modRes (d : Dev) (m : ResSt → ResSt) : (d.modRes m).pow = d.pow := rfl
@[simp] theorem Dev.msix_modRes (d : Dev) (m : ResSt → ResSt) : (d.modRes m).msix = d.msix := rfl
@[simp] theorem Dev.res_modRes_self (d : Dev) (m : ResSt → ResSt) : (d.modRes m).res = m d.res := rfl
@[simp] theorem Dev.reg_modRes (d : Dev) (m : ResSt → ResSt) (rn : RegName) (ri : Nat) : (d.modRes m).reg rn ri = d.reg rn ri := rfl
@[simp] theorem Dev.fget_modRes (d : Dev) (m : ResSt → ResSt) (rf : Fld) (ri : Nat) : (d.modRes m).fget rf ri = d.fget rf ri := rfl
@[simp] theorem Dev.fon_modRes (d : Dev) (m : ResSt → ResSt) (rf : Fld) (ri : Nat) : (d.modRes m).fon rf ri = d.fon rf ri := rfl

/-! ### modPow -/

@[simp] theorem Dev.regs_modPow (d : Dev) (m : PowSt → PowSt) : (d.modPow m).regs = d.regs := rfl
@[simp] theorem Dev.rwo_modPow (d : Dev) (m : PowSt → PowSt) : (d.modPow m).rwo = d.rwo := rfl
@[simp] theorem Dev.mem_modPow (d : Dev) (m : PowSt → PowSt) : (d.modPow m).mem = d.mem := rfl
@[simp] theorem Dev.poison_modPow (d : Dev) (m : PowSt → PowSt) : (d.modPow m).poison = d.poison := rfl
@[simp] theorem Dev.free_modPow (d : Dev) (m : PowSt → PowSt) : (d.modPow m).free = d.free := rfl
@[simp] theorem Dev.out_modPow (d : Dev) (m : PowSt → PowSt) : (d.modPow m).out = d.out := rfl
@[simp] theorem Dev.ctxs_modPow (d : Dev) (m : PowSt → PowSt) : (d.modPow m).ctxs = d.ctxs := rfl
@[simp] theorem Dev.ring_modPow (d : Dev) (m : PowSt → PowSt) : (d.modPow m).ring = d.ring := rfl
@[simp] theorem Dev.time_modPow (d : Dev) (m : PowSt → PowSt) : (d.modPow m).time = d.time := rfl
@[simp] theorem Dev.arb_modPow (d : Dev) (m : PowSt → PowSt) : (d.modPow m).arb = d.arb := rfl
@[simp] theorem Dev.eng_modPow (d : Dev) (m : PowSt → PowSt) : (d.modPow m).eng = d.eng := rfl
@[simp] theorem Dev.seq_modPow (d : Dev) (m : PowSt → PowSt) : (d.modPow m).seq = d.seq := rfl
@[simp] theorem Dev.tier_modPow (d : Dev) (m : PowSt → PowSt) : (d.modPow m).tier = d.tier := rfl
@[simp] theorem Dev.cpx_modPow (d : Dev) (m : PowSt → PowSt) : (d.modPow m).cpx = d.cpx := rfl
@[simp] theorem Dev.coh_modPow (d : Dev) (m : PowSt → PowSt) : (d.modPow m).coh = d.coh := rfl
@[simp] theorem Dev.tours_modPow (d : Dev) (m : PowSt → PowSt) : (d.modPow m).tours = d.tours := rfl
@[simp] theorem Dev.xlat_modPow (d : Dev) (m : PowSt → PowSt) : (d.modPow m).xlat = d.xlat := rfl
@[simp] theorem Dev.fab_modPow (d : Dev) (m : PowSt → PowSt) : (d.modPow m).fab = d.fab := rfl
@[simp] theorem Dev.sec_modPow (d : Dev) (m : PowSt → PowSt) : (d.modPow m).sec = d.sec := rfl
@[simp] theorem Dev.res_modPow (d : Dev) (m : PowSt → PowSt) : (d.modPow m).res = d.res := rfl
@[simp] theorem Dev.msix_modPow (d : Dev) (m : PowSt → PowSt) : (d.modPow m).msix = d.msix := rfl
@[simp] theorem Dev.pow_modPow_self (d : Dev) (m : PowSt → PowSt) : (d.modPow m).pow = m d.pow := rfl
@[simp] theorem Dev.reg_modPow (d : Dev) (m : PowSt → PowSt) (rn : RegName) (ri : Nat) : (d.modPow m).reg rn ri = d.reg rn ri := rfl
@[simp] theorem Dev.fget_modPow (d : Dev) (m : PowSt → PowSt) (rf : Fld) (ri : Nat) : (d.modPow m).fget rf ri = d.fget rf ri := rfl
@[simp] theorem Dev.fon_modPow (d : Dev) (m : PowSt → PowSt) (rf : Fld) (ri : Nat) : (d.modPow m).fon rf ri = d.fon rf ri := rfl

/-! ### setMem -/

@[simp] theorem Dev.regs_setMem (d : Dev) (x : Memory) : (d.setMem x).regs = d.regs := rfl
@[simp] theorem Dev.rwo_setMem (d : Dev) (x : Memory) : (d.setMem x).rwo = d.rwo := rfl
@[simp] theorem Dev.poison_setMem (d : Dev) (x : Memory) : (d.setMem x).poison = d.poison := rfl
@[simp] theorem Dev.free_setMem (d : Dev) (x : Memory) : (d.setMem x).free = d.free := rfl
@[simp] theorem Dev.out_setMem (d : Dev) (x : Memory) : (d.setMem x).out = d.out := rfl
@[simp] theorem Dev.ctxs_setMem (d : Dev) (x : Memory) : (d.setMem x).ctxs = d.ctxs := rfl
@[simp] theorem Dev.ring_setMem (d : Dev) (x : Memory) : (d.setMem x).ring = d.ring := rfl
@[simp] theorem Dev.time_setMem (d : Dev) (x : Memory) : (d.setMem x).time = d.time := rfl
@[simp] theorem Dev.arb_setMem (d : Dev) (x : Memory) : (d.setMem x).arb = d.arb := rfl
@[simp] theorem Dev.eng_setMem (d : Dev) (x : Memory) : (d.setMem x).eng = d.eng := rfl
@[simp] theorem Dev.seq_setMem (d : Dev) (x : Memory) : (d.setMem x).seq = d.seq := rfl
@[simp] theorem Dev.tier_setMem (d : Dev) (x : Memory) : (d.setMem x).tier = d.tier := rfl
@[simp] theorem Dev.cpx_setMem (d : Dev) (x : Memory) : (d.setMem x).cpx = d.cpx := rfl
@[simp] theorem Dev.coh_setMem (d : Dev) (x : Memory) : (d.setMem x).coh = d.coh := rfl
@[simp] theorem Dev.tours_setMem (d : Dev) (x : Memory) : (d.setMem x).tours = d.tours := rfl
@[simp] theorem Dev.xlat_setMem (d : Dev) (x : Memory) : (d.setMem x).xlat = d.xlat := rfl
@[simp] theorem Dev.fab_setMem (d : Dev) (x : Memory) : (d.setMem x).fab = d.fab := rfl
@[simp] theorem Dev.sec_setMem (d : Dev) (x : Memory) : (d.setMem x).sec = d.sec := rfl
@[simp] theorem Dev.res_setMem (d : Dev) (x : Memory) : (d.setMem x).res = d.res := rfl
@[simp] theorem Dev.pow_setMem (d : Dev) (x : Memory) : (d.setMem x).pow = d.pow := rfl
@[simp] theorem Dev.msix_setMem (d : Dev) (x : Memory) : (d.setMem x).msix = d.msix := rfl
@[simp] theorem Dev.mem_setMem_self (d : Dev) (x : Memory) : (d.setMem x).mem = x := rfl
@[simp] theorem Dev.reg_setMem (d : Dev) (x : Memory) (rn : RegName) (ri : Nat) : (d.setMem x).reg rn ri = d.reg rn ri := rfl
@[simp] theorem Dev.fget_setMem (d : Dev) (x : Memory) (rf : Fld) (ri : Nat) : (d.setMem x).fget rf ri = d.fget rf ri := rfl
@[simp] theorem Dev.fon_setMem (d : Dev) (x : Memory) (rf : Fld) (ri : Nat) : (d.setMem x).fon rf ri = d.fon rf ri := rfl

/-! ### setPoison -/

@[simp] theorem Dev.regs_setPoison (d : Dev) (x : List Nat) : (d.setPoison x).regs = d.regs := rfl
@[simp] theorem Dev.rwo_setPoison (d : Dev) (x : List Nat) : (d.setPoison x).rwo = d.rwo := rfl
@[simp] theorem Dev.mem_setPoison (d : Dev) (x : List Nat) : (d.setPoison x).mem = d.mem := rfl
@[simp] theorem Dev.free_setPoison (d : Dev) (x : List Nat) : (d.setPoison x).free = d.free := rfl
@[simp] theorem Dev.out_setPoison (d : Dev) (x : List Nat) : (d.setPoison x).out = d.out := rfl
@[simp] theorem Dev.ctxs_setPoison (d : Dev) (x : List Nat) : (d.setPoison x).ctxs = d.ctxs := rfl
@[simp] theorem Dev.ring_setPoison (d : Dev) (x : List Nat) : (d.setPoison x).ring = d.ring := rfl
@[simp] theorem Dev.time_setPoison (d : Dev) (x : List Nat) : (d.setPoison x).time = d.time := rfl
@[simp] theorem Dev.arb_setPoison (d : Dev) (x : List Nat) : (d.setPoison x).arb = d.arb := rfl
@[simp] theorem Dev.eng_setPoison (d : Dev) (x : List Nat) : (d.setPoison x).eng = d.eng := rfl
@[simp] theorem Dev.seq_setPoison (d : Dev) (x : List Nat) : (d.setPoison x).seq = d.seq := rfl
@[simp] theorem Dev.tier_setPoison (d : Dev) (x : List Nat) : (d.setPoison x).tier = d.tier := rfl
@[simp] theorem Dev.cpx_setPoison (d : Dev) (x : List Nat) : (d.setPoison x).cpx = d.cpx := rfl
@[simp] theorem Dev.coh_setPoison (d : Dev) (x : List Nat) : (d.setPoison x).coh = d.coh := rfl
@[simp] theorem Dev.tours_setPoison (d : Dev) (x : List Nat) : (d.setPoison x).tours = d.tours := rfl
@[simp] theorem Dev.xlat_setPoison (d : Dev) (x : List Nat) : (d.setPoison x).xlat = d.xlat := rfl
@[simp] theorem Dev.fab_setPoison (d : Dev) (x : List Nat) : (d.setPoison x).fab = d.fab := rfl
@[simp] theorem Dev.sec_setPoison (d : Dev) (x : List Nat) : (d.setPoison x).sec = d.sec := rfl
@[simp] theorem Dev.res_setPoison (d : Dev) (x : List Nat) : (d.setPoison x).res = d.res := rfl
@[simp] theorem Dev.pow_setPoison (d : Dev) (x : List Nat) : (d.setPoison x).pow = d.pow := rfl
@[simp] theorem Dev.msix_setPoison (d : Dev) (x : List Nat) : (d.setPoison x).msix = d.msix := rfl
@[simp] theorem Dev.poison_setPoison_self (d : Dev) (x : List Nat) : (d.setPoison x).poison = x := rfl
@[simp] theorem Dev.reg_setPoison (d : Dev) (x : List Nat) (rn : RegName) (ri : Nat) : (d.setPoison x).reg rn ri = d.reg rn ri := rfl
@[simp] theorem Dev.fget_setPoison (d : Dev) (x : List Nat) (rf : Fld) (ri : Nat) : (d.setPoison x).fget rf ri = d.fget rf ri := rfl
@[simp] theorem Dev.fon_setPoison (d : Dev) (x : List Nat) (rf : Fld) (ri : Nat) : (d.setPoison x).fon rf ri = d.fon rf ri := rfl

/-! ### setTours -/

@[simp] theorem Dev.regs_setTours (d : Dev) (x : Map TourJob) : (d.setTours x).regs = d.regs := rfl
@[simp] theorem Dev.rwo_setTours (d : Dev) (x : Map TourJob) : (d.setTours x).rwo = d.rwo := rfl
@[simp] theorem Dev.mem_setTours (d : Dev) (x : Map TourJob) : (d.setTours x).mem = d.mem := rfl
@[simp] theorem Dev.poison_setTours (d : Dev) (x : Map TourJob) : (d.setTours x).poison = d.poison := rfl
@[simp] theorem Dev.free_setTours (d : Dev) (x : Map TourJob) : (d.setTours x).free = d.free := rfl
@[simp] theorem Dev.out_setTours (d : Dev) (x : Map TourJob) : (d.setTours x).out = d.out := rfl
@[simp] theorem Dev.ctxs_setTours (d : Dev) (x : Map TourJob) : (d.setTours x).ctxs = d.ctxs := rfl
@[simp] theorem Dev.ring_setTours (d : Dev) (x : Map TourJob) : (d.setTours x).ring = d.ring := rfl
@[simp] theorem Dev.time_setTours (d : Dev) (x : Map TourJob) : (d.setTours x).time = d.time := rfl
@[simp] theorem Dev.arb_setTours (d : Dev) (x : Map TourJob) : (d.setTours x).arb = d.arb := rfl
@[simp] theorem Dev.eng_setTours (d : Dev) (x : Map TourJob) : (d.setTours x).eng = d.eng := rfl
@[simp] theorem Dev.seq_setTours (d : Dev) (x : Map TourJob) : (d.setTours x).seq = d.seq := rfl
@[simp] theorem Dev.tier_setTours (d : Dev) (x : Map TourJob) : (d.setTours x).tier = d.tier := rfl
@[simp] theorem Dev.cpx_setTours (d : Dev) (x : Map TourJob) : (d.setTours x).cpx = d.cpx := rfl
@[simp] theorem Dev.coh_setTours (d : Dev) (x : Map TourJob) : (d.setTours x).coh = d.coh := rfl
@[simp] theorem Dev.xlat_setTours (d : Dev) (x : Map TourJob) : (d.setTours x).xlat = d.xlat := rfl
@[simp] theorem Dev.fab_setTours (d : Dev) (x : Map TourJob) : (d.setTours x).fab = d.fab := rfl
@[simp] theorem Dev.sec_setTours (d : Dev) (x : Map TourJob) : (d.setTours x).sec = d.sec := rfl
@[simp] theorem Dev.res_setTours (d : Dev) (x : Map TourJob) : (d.setTours x).res = d.res := rfl
@[simp] theorem Dev.pow_setTours (d : Dev) (x : Map TourJob) : (d.setTours x).pow = d.pow := rfl
@[simp] theorem Dev.msix_setTours (d : Dev) (x : Map TourJob) : (d.setTours x).msix = d.msix := rfl
@[simp] theorem Dev.tours_setTours_self (d : Dev) (x : Map TourJob) : (d.setTours x).tours = x := rfl
@[simp] theorem Dev.reg_setTours (d : Dev) (x : Map TourJob) (rn : RegName) (ri : Nat) : (d.setTours x).reg rn ri = d.reg rn ri := rfl
@[simp] theorem Dev.fget_setTours (d : Dev) (x : Map TourJob) (rf : Fld) (ri : Nat) : (d.setTours x).fget rf ri = d.fget rf ri := rfl
@[simp] theorem Dev.fon_setTours (d : Dev) (x : Map TourJob) (rf : Fld) (ri : Nat) : (d.setTours x).fon rf ri = d.fon rf ri := rfl

/-! ### setCtxs -/

@[simp] theorem Dev.regs_setCtxs (d : Dev) (x : Map Ctx) : (d.setCtxs x).regs = d.regs := rfl
@[simp] theorem Dev.rwo_setCtxs (d : Dev) (x : Map Ctx) : (d.setCtxs x).rwo = d.rwo := rfl
@[simp] theorem Dev.mem_setCtxs (d : Dev) (x : Map Ctx) : (d.setCtxs x).mem = d.mem := rfl
@[simp] theorem Dev.poison_setCtxs (d : Dev) (x : Map Ctx) : (d.setCtxs x).poison = d.poison := rfl
@[simp] theorem Dev.free_setCtxs (d : Dev) (x : Map Ctx) : (d.setCtxs x).free = d.free := rfl
@[simp] theorem Dev.out_setCtxs (d : Dev) (x : Map Ctx) : (d.setCtxs x).out = d.out := rfl
@[simp] theorem Dev.ring_setCtxs (d : Dev) (x : Map Ctx) : (d.setCtxs x).ring = d.ring := rfl
@[simp] theorem Dev.time_setCtxs (d : Dev) (x : Map Ctx) : (d.setCtxs x).time = d.time := rfl
@[simp] theorem Dev.arb_setCtxs (d : Dev) (x : Map Ctx) : (d.setCtxs x).arb = d.arb := rfl
@[simp] theorem Dev.eng_setCtxs (d : Dev) (x : Map Ctx) : (d.setCtxs x).eng = d.eng := rfl
@[simp] theorem Dev.seq_setCtxs (d : Dev) (x : Map Ctx) : (d.setCtxs x).seq = d.seq := rfl
@[simp] theorem Dev.tier_setCtxs (d : Dev) (x : Map Ctx) : (d.setCtxs x).tier = d.tier := rfl
@[simp] theorem Dev.cpx_setCtxs (d : Dev) (x : Map Ctx) : (d.setCtxs x).cpx = d.cpx := rfl
@[simp] theorem Dev.coh_setCtxs (d : Dev) (x : Map Ctx) : (d.setCtxs x).coh = d.coh := rfl
@[simp] theorem Dev.tours_setCtxs (d : Dev) (x : Map Ctx) : (d.setCtxs x).tours = d.tours := rfl
@[simp] theorem Dev.xlat_setCtxs (d : Dev) (x : Map Ctx) : (d.setCtxs x).xlat = d.xlat := rfl
@[simp] theorem Dev.fab_setCtxs (d : Dev) (x : Map Ctx) : (d.setCtxs x).fab = d.fab := rfl
@[simp] theorem Dev.sec_setCtxs (d : Dev) (x : Map Ctx) : (d.setCtxs x).sec = d.sec := rfl
@[simp] theorem Dev.res_setCtxs (d : Dev) (x : Map Ctx) : (d.setCtxs x).res = d.res := rfl
@[simp] theorem Dev.pow_setCtxs (d : Dev) (x : Map Ctx) : (d.setCtxs x).pow = d.pow := rfl
@[simp] theorem Dev.msix_setCtxs (d : Dev) (x : Map Ctx) : (d.setCtxs x).msix = d.msix := rfl
@[simp] theorem Dev.ctxs_setCtxs_self (d : Dev) (x : Map Ctx) : (d.setCtxs x).ctxs = x := rfl
@[simp] theorem Dev.reg_setCtxs (d : Dev) (x : Map Ctx) (rn : RegName) (ri : Nat) : (d.setCtxs x).reg rn ri = d.reg rn ri := rfl
@[simp] theorem Dev.fget_setCtxs (d : Dev) (x : Map Ctx) (rf : Fld) (ri : Nat) : (d.setCtxs x).fget rf ri = d.fget rf ri := rfl
@[simp] theorem Dev.fon_setCtxs (d : Dev) (x : Map Ctx) (rf : Fld) (ri : Nat) : (d.setCtxs x).fon rf ri = d.fon rf ri := rfl

/-! ### setFree -/

@[simp] theorem Dev.regs_setFree (d : Dev) (x : Nat) : (d.setFree x).regs = d.regs := rfl
@[simp] theorem Dev.rwo_setFree (d : Dev) (x : Nat) : (d.setFree x).rwo = d.rwo := rfl
@[simp] theorem Dev.mem_setFree (d : Dev) (x : Nat) : (d.setFree x).mem = d.mem := rfl
@[simp] theorem Dev.poison_setFree (d : Dev) (x : Nat) : (d.setFree x).poison = d.poison := rfl
@[simp] theorem Dev.out_setFree (d : Dev) (x : Nat) : (d.setFree x).out = d.out := rfl
@[simp] theorem Dev.ctxs_setFree (d : Dev) (x : Nat) : (d.setFree x).ctxs = d.ctxs := rfl
@[simp] theorem Dev.ring_setFree (d : Dev) (x : Nat) : (d.setFree x).ring = d.ring := rfl
@[simp] theorem Dev.time_setFree (d : Dev) (x : Nat) : (d.setFree x).time = d.time := rfl
@[simp] theorem Dev.arb_setFree (d : Dev) (x : Nat) : (d.setFree x).arb = d.arb := rfl
@[simp] theorem Dev.eng_setFree (d : Dev) (x : Nat) : (d.setFree x).eng = d.eng := rfl
@[simp] theorem Dev.seq_setFree (d : Dev) (x : Nat) : (d.setFree x).seq = d.seq := rfl
@[simp] theorem Dev.tier_setFree (d : Dev) (x : Nat) : (d.setFree x).tier = d.tier := rfl
@[simp] theorem Dev.cpx_setFree (d : Dev) (x : Nat) : (d.setFree x).cpx = d.cpx := rfl
@[simp] theorem Dev.coh_setFree (d : Dev) (x : Nat) : (d.setFree x).coh = d.coh := rfl
@[simp] theorem Dev.tours_setFree (d : Dev) (x : Nat) : (d.setFree x).tours = d.tours := rfl
@[simp] theorem Dev.xlat_setFree (d : Dev) (x : Nat) : (d.setFree x).xlat = d.xlat := rfl
@[simp] theorem Dev.fab_setFree (d : Dev) (x : Nat) : (d.setFree x).fab = d.fab := rfl
@[simp] theorem Dev.sec_setFree (d : Dev) (x : Nat) : (d.setFree x).sec = d.sec := rfl
@[simp] theorem Dev.res_setFree (d : Dev) (x : Nat) : (d.setFree x).res = d.res := rfl
@[simp] theorem Dev.pow_setFree (d : Dev) (x : Nat) : (d.setFree x).pow = d.pow := rfl
@[simp] theorem Dev.msix_setFree (d : Dev) (x : Nat) : (d.setFree x).msix = d.msix := rfl
@[simp] theorem Dev.free_setFree_self (d : Dev) (x : Nat) : (d.setFree x).free = x := rfl
@[simp] theorem Dev.reg_setFree (d : Dev) (x : Nat) (rn : RegName) (ri : Nat) : (d.setFree x).reg rn ri = d.reg rn ri := rfl
@[simp] theorem Dev.fget_setFree (d : Dev) (x : Nat) (rf : Fld) (ri : Nat) : (d.setFree x).fget rf ri = d.fget rf ri := rfl
@[simp] theorem Dev.fon_setFree (d : Dev) (x : Nat) (rf : Fld) (ri : Nat) : (d.setFree x).fon rf ri = d.fon rf ri := rfl

/-! ### setMsix -/

@[simp] theorem Dev.regs_setMsix (d : Dev) (x : Map Word) : (d.setMsix x).regs = d.regs := rfl
@[simp] theorem Dev.rwo_setMsix (d : Dev) (x : Map Word) : (d.setMsix x).rwo = d.rwo := rfl
@[simp] theorem Dev.mem_setMsix (d : Dev) (x : Map Word) : (d.setMsix x).mem = d.mem := rfl
@[simp] theorem Dev.poison_setMsix (d : Dev) (x : Map Word) : (d.setMsix x).poison = d.poison := rfl
@[simp] theorem Dev.free_setMsix (d : Dev) (x : Map Word) : (d.setMsix x).free = d.free := rfl
@[simp] theorem Dev.out_setMsix (d : Dev) (x : Map Word) : (d.setMsix x).out = d.out := rfl
@[simp] theorem Dev.ctxs_setMsix (d : Dev) (x : Map Word) : (d.setMsix x).ctxs = d.ctxs := rfl
@[simp] theorem Dev.ring_setMsix (d : Dev) (x : Map Word) : (d.setMsix x).ring = d.ring := rfl
@[simp] theorem Dev.time_setMsix (d : Dev) (x : Map Word) : (d.setMsix x).time = d.time := rfl
@[simp] theorem Dev.arb_setMsix (d : Dev) (x : Map Word) : (d.setMsix x).arb = d.arb := rfl
@[simp] theorem Dev.eng_setMsix (d : Dev) (x : Map Word) : (d.setMsix x).eng = d.eng := rfl
@[simp] theorem Dev.seq_setMsix (d : Dev) (x : Map Word) : (d.setMsix x).seq = d.seq := rfl
@[simp] theorem Dev.tier_setMsix (d : Dev) (x : Map Word) : (d.setMsix x).tier = d.tier := rfl
@[simp] theorem Dev.cpx_setMsix (d : Dev) (x : Map Word) : (d.setMsix x).cpx = d.cpx := rfl
@[simp] theorem Dev.coh_setMsix (d : Dev) (x : Map Word) : (d.setMsix x).coh = d.coh := rfl
@[simp] theorem Dev.tours_setMsix (d : Dev) (x : Map Word) : (d.setMsix x).tours = d.tours := rfl
@[simp] theorem Dev.xlat_setMsix (d : Dev) (x : Map Word) : (d.setMsix x).xlat = d.xlat := rfl
@[simp] theorem Dev.fab_setMsix (d : Dev) (x : Map Word) : (d.setMsix x).fab = d.fab := rfl
@[simp] theorem Dev.sec_setMsix (d : Dev) (x : Map Word) : (d.setMsix x).sec = d.sec := rfl
@[simp] theorem Dev.res_setMsix (d : Dev) (x : Map Word) : (d.setMsix x).res = d.res := rfl
@[simp] theorem Dev.pow_setMsix (d : Dev) (x : Map Word) : (d.setMsix x).pow = d.pow := rfl
@[simp] theorem Dev.msix_setMsix_self (d : Dev) (x : Map Word) : (d.setMsix x).msix = x := rfl
@[simp] theorem Dev.reg_setMsix (d : Dev) (x : Map Word) (rn : RegName) (ri : Nat) : (d.setMsix x).reg rn ri = d.reg rn ri := rfl
@[simp] theorem Dev.fget_setMsix (d : Dev) (x : Map Word) (rf : Fld) (ri : Nat) : (d.setMsix x).fget rf ri = d.fget rf ri := rfl
@[simp] theorem Dev.fon_setMsix (d : Dev) (x : Map Word) (rf : Fld) (ri : Nat) : (d.setMsix x).fon rf ri = d.fon rf ri := rfl

/-! ### setReg -/

@[simp] theorem Dev.rwo_setReg (d : Dev) (r : RegName) (i : Nat) (v : Word) : (d.setReg r i v).rwo = d.rwo := rfl
@[simp] theorem Dev.mem_setReg (d : Dev) (r : RegName) (i : Nat) (v : Word) : (d.setReg r i v).mem = d.mem := rfl
@[simp] theorem Dev.poison_setReg (d : Dev) (r : RegName) (i : Nat) (v : Word) : (d.setReg r i v).poison = d.poison := rfl
@[simp] theorem Dev.free_setReg (d : Dev) (r : RegName) (i : Nat) (v : Word) : (d.setReg r i v).free = d.free := rfl
@[simp] theorem Dev.out_setReg (d : Dev) (r : RegName) (i : Nat) (v : Word) : (d.setReg r i v).out = d.out := rfl
@[simp] theorem Dev.ctxs_setReg (d : Dev) (r : RegName) (i : Nat) (v : Word) : (d.setReg r i v).ctxs = d.ctxs := rfl
@[simp] theorem Dev.ring_setReg (d : Dev) (r : RegName) (i : Nat) (v : Word) : (d.setReg r i v).ring = d.ring := rfl
@[simp] theorem Dev.time_setReg (d : Dev) (r : RegName) (i : Nat) (v : Word) : (d.setReg r i v).time = d.time := rfl
@[simp] theorem Dev.arb_setReg (d : Dev) (r : RegName) (i : Nat) (v : Word) : (d.setReg r i v).arb = d.arb := rfl
@[simp] theorem Dev.eng_setReg (d : Dev) (r : RegName) (i : Nat) (v : Word) : (d.setReg r i v).eng = d.eng := rfl
@[simp] theorem Dev.seq_setReg (d : Dev) (r : RegName) (i : Nat) (v : Word) : (d.setReg r i v).seq = d.seq := rfl
@[simp] theorem Dev.tier_setReg (d : Dev) (r : RegName) (i : Nat) (v : Word) : (d.setReg r i v).tier = d.tier := rfl
@[simp] theorem Dev.cpx_setReg (d : Dev) (r : RegName) (i : Nat) (v : Word) : (d.setReg r i v).cpx = d.cpx := rfl
@[simp] theorem Dev.coh_setReg (d : Dev) (r : RegName) (i : Nat) (v : Word) : (d.setReg r i v).coh = d.coh := rfl
@[simp] theorem Dev.tours_setReg (d : Dev) (r : RegName) (i : Nat) (v : Word) : (d.setReg r i v).tours = d.tours := rfl
@[simp] theorem Dev.xlat_setReg (d : Dev) (r : RegName) (i : Nat) (v : Word) : (d.setReg r i v).xlat = d.xlat := rfl
@[simp] theorem Dev.fab_setReg (d : Dev) (r : RegName) (i : Nat) (v : Word) : (d.setReg r i v).fab = d.fab := rfl
@[simp] theorem Dev.sec_setReg (d : Dev) (r : RegName) (i : Nat) (v : Word) : (d.setReg r i v).sec = d.sec := rfl
@[simp] theorem Dev.res_setReg (d : Dev) (r : RegName) (i : Nat) (v : Word) : (d.setReg r i v).res = d.res := rfl
@[simp] theorem Dev.pow_setReg (d : Dev) (r : RegName) (i : Nat) (v : Word) : (d.setReg r i v).pow = d.pow := rfl
@[simp] theorem Dev.msix_setReg (d : Dev) (r : RegName) (i : Nat) (v : Word) : (d.setReg r i v).msix = d.msix := rfl

/-! ### fset -/

@[simp] theorem Dev.rwo_fset (d : Dev) (f : Fld) (i v : Nat) : (d.fset f i v).rwo = d.rwo := rfl
@[simp] theorem Dev.mem_fset (d : Dev) (f : Fld) (i v : Nat) : (d.fset f i v).mem = d.mem := rfl
@[simp] theorem Dev.poison_fset (d : Dev) (f : Fld) (i v : Nat) : (d.fset f i v).poison = d.poison := rfl
@[simp] theorem Dev.free_fset (d : Dev) (f : Fld) (i v : Nat) : (d.fset f i v).free = d.free := rfl
@[simp] theorem Dev.out_fset (d : Dev) (f : Fld) (i v : Nat) : (d.fset f i v).out = d.out := rfl
@[simp] theorem Dev.ctxs_fset (d : Dev) (f : Fld) (i v : Nat) : (d.fset f i v).ctxs = d.ctxs := rfl
@[simp] theorem Dev.ring_fset (d : Dev) (f : Fld) (i v : Nat) : (d.fset f i v).ring = d.ring := rfl
@[simp] theorem Dev.time_fset (d : Dev) (f : Fld) (i v : Nat) : (d.fset f i v).time = d.time := rfl
@[simp] theorem Dev.arb_fset (d : Dev) (f : Fld) (i v : Nat) : (d.fset f i v).arb = d.arb := rfl
@[simp] theorem Dev.eng_fset (d : Dev) (f : Fld) (i v : Nat) : (d.fset f i v).eng = d.eng := rfl
@[simp] theorem Dev.seq_fset (d : Dev) (f : Fld) (i v : Nat) : (d.fset f i v).seq = d.seq := rfl
@[simp] theorem Dev.tier_fset (d : Dev) (f : Fld) (i v : Nat) : (d.fset f i v).tier = d.tier := rfl
@[simp] theorem Dev.cpx_fset (d : Dev) (f : Fld) (i v : Nat) : (d.fset f i v).cpx = d.cpx := rfl
@[simp] theorem Dev.coh_fset (d : Dev) (f : Fld) (i v : Nat) : (d.fset f i v).coh = d.coh := rfl
@[simp] theorem Dev.tours_fset (d : Dev) (f : Fld) (i v : Nat) : (d.fset f i v).tours = d.tours := rfl
@[simp] theorem Dev.xlat_fset (d : Dev) (f : Fld) (i v : Nat) : (d.fset f i v).xlat = d.xlat := rfl
@[simp] theorem Dev.fab_fset (d : Dev) (f : Fld) (i v : Nat) : (d.fset f i v).fab = d.fab := rfl
@[simp] theorem Dev.sec_fset (d : Dev) (f : Fld) (i v : Nat) : (d.fset f i v).sec = d.sec := rfl
@[simp] theorem Dev.res_fset (d : Dev) (f : Fld) (i v : Nat) : (d.fset f i v).res = d.res := rfl
@[simp] theorem Dev.pow_fset (d : Dev) (f : Fld) (i v : Nat) : (d.fset f i v).pow = d.pow := rfl
@[simp] theorem Dev.msix_fset (d : Dev) (f : Fld) (i v : Nat) : (d.fset f i v).msix = d.msix := rfl

/-! ### fbump -/

@[simp] theorem Dev.rwo_fbump (d : Dev) (f : Fld) (i n : Nat) : (d.fbump f i n).rwo = d.rwo := rfl
@[simp] theorem Dev.mem_fbump (d : Dev) (f : Fld) (i n : Nat) : (d.fbump f i n).mem = d.mem := rfl
@[simp] theorem Dev.poison_fbump (d : Dev) (f : Fld) (i n : Nat) : (d.fbump f i n).poison = d.poison := rfl
@[simp] theorem Dev.free_fbump (d : Dev) (f : Fld) (i n : Nat) : (d.fbump f i n).free = d.free := rfl
@[simp] theorem Dev.out_fbump (d : Dev) (f : Fld) (i n : Nat) : (d.fbump f i n).out = d.out := rfl
@[simp] theorem Dev.ctxs_fbump (d : Dev) (f : Fld) (i n : Nat) : (d.fbump f i n).ctxs = d.ctxs := rfl
@[simp] theorem Dev.ring_fbump (d : Dev) (f : Fld) (i n : Nat) : (d.fbump f i n).ring = d.ring := rfl
@[simp] theorem Dev.time_fbump (d : Dev) (f : Fld) (i n : Nat) : (d.fbump f i n).time = d.time := rfl
@[simp] theorem Dev.arb_fbump (d : Dev) (f : Fld) (i n : Nat) : (d.fbump f i n).arb = d.arb := rfl
@[simp] theorem Dev.eng_fbump (d : Dev) (f : Fld) (i n : Nat) : (d.fbump f i n).eng = d.eng := rfl
@[simp] theorem Dev.seq_fbump (d : Dev) (f : Fld) (i n : Nat) : (d.fbump f i n).seq = d.seq := rfl
@[simp] theorem Dev.tier_fbump (d : Dev) (f : Fld) (i n : Nat) : (d.fbump f i n).tier = d.tier := rfl
@[simp] theorem Dev.cpx_fbump (d : Dev) (f : Fld) (i n : Nat) : (d.fbump f i n).cpx = d.cpx := rfl
@[simp] theorem Dev.coh_fbump (d : Dev) (f : Fld) (i n : Nat) : (d.fbump f i n).coh = d.coh := rfl
@[simp] theorem Dev.tours_fbump (d : Dev) (f : Fld) (i n : Nat) : (d.fbump f i n).tours = d.tours := rfl
@[simp] theorem Dev.xlat_fbump (d : Dev) (f : Fld) (i n : Nat) : (d.fbump f i n).xlat = d.xlat := rfl
@[simp] theorem Dev.fab_fbump (d : Dev) (f : Fld) (i n : Nat) : (d.fbump f i n).fab = d.fab := rfl
@[simp] theorem Dev.sec_fbump (d : Dev) (f : Fld) (i n : Nat) : (d.fbump f i n).sec = d.sec := rfl
@[simp] theorem Dev.res_fbump (d : Dev) (f : Fld) (i n : Nat) : (d.fbump f i n).res = d.res := rfl
@[simp] theorem Dev.pow_fbump (d : Dev) (f : Fld) (i n : Nat) : (d.fbump f i n).pow = d.pow := rfl
@[simp] theorem Dev.msix_fbump (d : Dev) (f : Fld) (i n : Nat) : (d.fbump f i n).msix = d.msix := rfl

/-! ### refuse -/

@[simp] theorem Dev.rwo_refuse (d : Dev) (r : RegName) (i : Nat) (c : Bool) : (d.refuse r i c).rwo = d.rwo := rfl
@[simp] theorem Dev.mem_refuse (d : Dev) (r : RegName) (i : Nat) (c : Bool) : (d.refuse r i c).mem = d.mem := rfl
@[simp] theorem Dev.poison_refuse (d : Dev) (r : RegName) (i : Nat) (c : Bool) : (d.refuse r i c).poison = d.poison := rfl
@[simp] theorem Dev.free_refuse (d : Dev) (r : RegName) (i : Nat) (c : Bool) : (d.refuse r i c).free = d.free := rfl
@[simp] theorem Dev.out_refuse (d : Dev) (r : RegName) (i : Nat) (c : Bool) : (d.refuse r i c).out = d.out := rfl
@[simp] theorem Dev.ctxs_refuse (d : Dev) (r : RegName) (i : Nat) (c : Bool) : (d.refuse r i c).ctxs = d.ctxs := rfl
@[simp] theorem Dev.ring_refuse (d : Dev) (r : RegName) (i : Nat) (c : Bool) : (d.refuse r i c).ring = d.ring := rfl
@[simp] theorem Dev.time_refuse (d : Dev) (r : RegName) (i : Nat) (c : Bool) : (d.refuse r i c).time = d.time := rfl
@[simp] theorem Dev.arb_refuse (d : Dev) (r : RegName) (i : Nat) (c : Bool) : (d.refuse r i c).arb = d.arb := rfl
@[simp] theorem Dev.eng_refuse (d : Dev) (r : RegName) (i : Nat) (c : Bool) : (d.refuse r i c).eng = d.eng := rfl
@[simp] theorem Dev.seq_refuse (d : Dev) (r : RegName) (i : Nat) (c : Bool) : (d.refuse r i c).seq = d.seq := rfl
@[simp] theorem Dev.tier_refuse (d : Dev) (r : RegName) (i : Nat) (c : Bool) : (d.refuse r i c).tier = d.tier := rfl
@[simp] theorem Dev.cpx_refuse (d : Dev) (r : RegName) (i : Nat) (c : Bool) : (d.refuse r i c).cpx = d.cpx := rfl
@[simp] theorem Dev.coh_refuse (d : Dev) (r : RegName) (i : Nat) (c : Bool) : (d.refuse r i c).coh = d.coh := rfl
@[simp] theorem Dev.tours_refuse (d : Dev) (r : RegName) (i : Nat) (c : Bool) : (d.refuse r i c).tours = d.tours := rfl
@[simp] theorem Dev.xlat_refuse (d : Dev) (r : RegName) (i : Nat) (c : Bool) : (d.refuse r i c).xlat = d.xlat := rfl
@[simp] theorem Dev.fab_refuse (d : Dev) (r : RegName) (i : Nat) (c : Bool) : (d.refuse r i c).fab = d.fab := rfl
@[simp] theorem Dev.sec_refuse (d : Dev) (r : RegName) (i : Nat) (c : Bool) : (d.refuse r i c).sec = d.sec := rfl
@[simp] theorem Dev.res_refuse (d : Dev) (r : RegName) (i : Nat) (c : Bool) : (d.refuse r i c).res = d.res := rfl
@[simp] theorem Dev.pow_refuse (d : Dev) (r : RegName) (i : Nat) (c : Bool) : (d.refuse r i c).pow = d.pow := rfl
@[simp] theorem Dev.msix_refuse (d : Dev) (r : RegName) (i : Nat) (c : Bool) : (d.refuse r i c).msix = d.msix := rfl

/-! ### took -/

@[simp] theorem Dev.regs_took (d : Dev) (n : Nat) : (d.took n).regs = d.regs := rfl
@[simp] theorem Dev.rwo_took (d : Dev) (n : Nat) : (d.took n).rwo = d.rwo := rfl
@[simp] theorem Dev.mem_took (d : Dev) (n : Nat) : (d.took n).mem = d.mem := rfl
@[simp] theorem Dev.poison_took (d : Dev) (n : Nat) : (d.took n).poison = d.poison := rfl
@[simp] theorem Dev.out_took (d : Dev) (n : Nat) : (d.took n).out = d.out := rfl
@[simp] theorem Dev.ctxs_took (d : Dev) (n : Nat) : (d.took n).ctxs = d.ctxs := rfl
@[simp] theorem Dev.ring_took (d : Dev) (n : Nat) : (d.took n).ring = d.ring := rfl
@[simp] theorem Dev.time_took (d : Dev) (n : Nat) : (d.took n).time = d.time := rfl
@[simp] theorem Dev.arb_took (d : Dev) (n : Nat) : (d.took n).arb = d.arb := rfl
@[simp] theorem Dev.eng_took (d : Dev) (n : Nat) : (d.took n).eng = d.eng := rfl
@[simp] theorem Dev.seq_took (d : Dev) (n : Nat) : (d.took n).seq = d.seq := rfl
@[simp] theorem Dev.tier_took (d : Dev) (n : Nat) : (d.took n).tier = d.tier := rfl
@[simp] theorem Dev.cpx_took (d : Dev) (n : Nat) : (d.took n).cpx = d.cpx := rfl
@[simp] theorem Dev.coh_took (d : Dev) (n : Nat) : (d.took n).coh = d.coh := rfl
@[simp] theorem Dev.tours_took (d : Dev) (n : Nat) : (d.took n).tours = d.tours := rfl
@[simp] theorem Dev.xlat_took (d : Dev) (n : Nat) : (d.took n).xlat = d.xlat := rfl
@[simp] theorem Dev.fab_took (d : Dev) (n : Nat) : (d.took n).fab = d.fab := rfl
@[simp] theorem Dev.sec_took (d : Dev) (n : Nat) : (d.took n).sec = d.sec := rfl
@[simp] theorem Dev.res_took (d : Dev) (n : Nat) : (d.took n).res = d.res := rfl
@[simp] theorem Dev.pow_took (d : Dev) (n : Nat) : (d.took n).pow = d.pow := rfl
@[simp] theorem Dev.msix_took (d : Dev) (n : Nat) : (d.took n).msix = d.msix := rfl
@[simp] theorem Dev.reg_took (d : Dev) (n : Nat) (rn : RegName) (ri : Nat) : (d.took n).reg rn ri = d.reg rn ri := rfl
@[simp] theorem Dev.fget_took (d : Dev) (n : Nat) (rf : Fld) (ri : Nat) : (d.took n).fget rf ri = d.fget rf ri := rfl
@[simp] theorem Dev.fon_took (d : Dev) (n : Nat) (rf : Fld) (ri : Nat) : (d.took n).fon rf ri = d.fon rf ri := rfl

/-! ### notePoison -/

@[simp] theorem Dev.regs_notePoison (d : Dev) (g : Nat) : (d.notePoison g).regs = d.regs := rfl
@[simp] theorem Dev.rwo_notePoison (d : Dev) (g : Nat) : (d.notePoison g).rwo = d.rwo := rfl
@[simp] theorem Dev.mem_notePoison (d : Dev) (g : Nat) : (d.notePoison g).mem = d.mem := rfl
@[simp] theorem Dev.free_notePoison (d : Dev) (g : Nat) : (d.notePoison g).free = d.free := rfl
@[simp] theorem Dev.out_notePoison (d : Dev) (g : Nat) : (d.notePoison g).out = d.out := rfl
@[simp] theorem Dev.ctxs_notePoison (d : Dev) (g : Nat) : (d.notePoison g).ctxs = d.ctxs := rfl
@[simp] theorem Dev.ring_notePoison (d : Dev) (g : Nat) : (d.notePoison g).ring = d.ring := rfl
@[simp] theorem Dev.time_notePoison (d : Dev) (g : Nat) : (d.notePoison g).time = d.time := rfl
@[simp] theorem Dev.arb_notePoison (d : Dev) (g : Nat) : (d.notePoison g).arb = d.arb := rfl
@[simp] theorem Dev.eng_notePoison (d : Dev) (g : Nat) : (d.notePoison g).eng = d.eng := rfl
@[simp] theorem Dev.seq_notePoison (d : Dev) (g : Nat) : (d.notePoison g).seq = d.seq := rfl
@[simp] theorem Dev.tier_notePoison (d : Dev) (g : Nat) : (d.notePoison g).tier = d.tier := rfl
@[simp] theorem Dev.cpx_notePoison (d : Dev) (g : Nat) : (d.notePoison g).cpx = d.cpx := rfl
@[simp] theorem Dev.coh_notePoison (d : Dev) (g : Nat) : (d.notePoison g).coh = d.coh := rfl
@[simp] theorem Dev.tours_notePoison (d : Dev) (g : Nat) : (d.notePoison g).tours = d.tours := rfl
@[simp] theorem Dev.xlat_notePoison (d : Dev) (g : Nat) : (d.notePoison g).xlat = d.xlat := rfl
@[simp] theorem Dev.fab_notePoison (d : Dev) (g : Nat) : (d.notePoison g).fab = d.fab := rfl
@[simp] theorem Dev.sec_notePoison (d : Dev) (g : Nat) : (d.notePoison g).sec = d.sec := rfl
@[simp] theorem Dev.res_notePoison (d : Dev) (g : Nat) : (d.notePoison g).res = d.res := rfl
@[simp] theorem Dev.pow_notePoison (d : Dev) (g : Nat) : (d.notePoison g).pow = d.pow := rfl
@[simp] theorem Dev.msix_notePoison (d : Dev) (g : Nat) : (d.notePoison g).msix = d.msix := rfl
@[simp] theorem Dev.reg_notePoison (d : Dev) (g : Nat) (rn : RegName) (ri : Nat) : (d.notePoison g).reg rn ri = d.reg rn ri := rfl
@[simp] theorem Dev.fget_notePoison (d : Dev) (g : Nat) (rf : Fld) (ri : Nat) : (d.notePoison g).fget rf ri = d.fget rf ri := rfl
@[simp] theorem Dev.fon_notePoison (d : Dev) (g : Nat) (rf : Fld) (ri : Nat) : (d.notePoison g).fon rf ri = d.fon rf ri := rfl

/-! ### setCtx -/

@[simp] theorem Dev.regs_setCtx (d : Dev) (c : Nat) (x : Ctx) : (d.setCtx c x).regs = d.regs := rfl
@[simp] theorem Dev.rwo_setCtx (d : Dev) (c : Nat) (x : Ctx) : (d.setCtx c x).rwo = d.rwo := rfl
@[simp] theorem Dev.mem_setCtx (d : Dev) (c : Nat) (x : Ctx) : (d.setCtx c x).mem = d.mem := rfl
@[simp] theorem Dev.poison_setCtx (d : Dev) (c : Nat) (x : Ctx) : (d.setCtx c x).poison = d.poison := rfl
@[simp] theorem Dev.free_setCtx (d : Dev) (c : Nat) (x : Ctx) : (d.setCtx c x).free = d.free := rfl
@[simp] theorem Dev.out_setCtx (d : Dev) (c : Nat) (x : Ctx) : (d.setCtx c x).out = d.out := rfl
@[simp] theorem Dev.ring_setCtx (d : Dev) (c : Nat) (x : Ctx) : (d.setCtx c x).ring = d.ring := rfl
@[simp] theorem Dev.time_setCtx (d : Dev) (c : Nat) (x : Ctx) : (d.setCtx c x).time = d.time := rfl
@[simp] theorem Dev.arb_setCtx (d : Dev) (c : Nat) (x : Ctx) : (d.setCtx c x).arb = d.arb := rfl
@[simp] theorem Dev.eng_setCtx (d : Dev) (c : Nat) (x : Ctx) : (d.setCtx c x).eng = d.eng := rfl
@[simp] theorem Dev.seq_setCtx (d : Dev) (c : Nat) (x : Ctx) : (d.setCtx c x).seq = d.seq := rfl
@[simp] theorem Dev.tier_setCtx (d : Dev) (c : Nat) (x : Ctx) : (d.setCtx c x).tier = d.tier := rfl
@[simp] theorem Dev.cpx_setCtx (d : Dev) (c : Nat) (x : Ctx) : (d.setCtx c x).cpx = d.cpx := rfl
@[simp] theorem Dev.coh_setCtx (d : Dev) (c : Nat) (x : Ctx) : (d.setCtx c x).coh = d.coh := rfl
@[simp] theorem Dev.tours_setCtx (d : Dev) (c : Nat) (x : Ctx) : (d.setCtx c x).tours = d.tours := rfl
@[simp] theorem Dev.xlat_setCtx (d : Dev) (c : Nat) (x : Ctx) : (d.setCtx c x).xlat = d.xlat := rfl
@[simp] theorem Dev.fab_setCtx (d : Dev) (c : Nat) (x : Ctx) : (d.setCtx c x).fab = d.fab := rfl
@[simp] theorem Dev.sec_setCtx (d : Dev) (c : Nat) (x : Ctx) : (d.setCtx c x).sec = d.sec := rfl
@[simp] theorem Dev.res_setCtx (d : Dev) (c : Nat) (x : Ctx) : (d.setCtx c x).res = d.res := rfl
@[simp] theorem Dev.pow_setCtx (d : Dev) (c : Nat) (x : Ctx) : (d.setCtx c x).pow = d.pow := rfl
@[simp] theorem Dev.msix_setCtx (d : Dev) (c : Nat) (x : Ctx) : (d.setCtx c x).msix = d.msix := rfl
@[simp] theorem Dev.reg_setCtx (d : Dev) (c : Nat) (x : Ctx) (rn : RegName) (ri : Nat) : (d.setCtx c x).reg rn ri = d.reg rn ri := rfl
@[simp] theorem Dev.fget_setCtx (d : Dev) (c : Nat) (x : Ctx) (rf : Fld) (ri : Nat) : (d.setCtx c x).fget rf ri = d.fget rf ri := rfl
@[simp] theorem Dev.fon_setCtx (d : Dev) (c : Nat) (x : Ctx) (rf : Fld) (ri : Nat) : (d.setCtx c x).fon rf ri = d.fon rf ri := rfl

/-! ### modCtx -/

@[simp] theorem Dev.regs_modCtx (d : Dev) (c : Nat) (f : Ctx → Ctx) : (d.modCtx c f).regs = d.regs := rfl
@[simp] theorem Dev.rwo_modCtx (d : Dev) (c : Nat) (f : Ctx → Ctx) : (d.modCtx c f).rwo = d.rwo := rfl
@[simp] theorem Dev.mem_modCtx (d : Dev) (c : Nat) (f : Ctx → Ctx) : (d.modCtx c f).mem = d.mem := rfl
@[simp] theorem Dev.poison_modCtx (d : Dev) (c : Nat) (f : Ctx → Ctx) : (d.modCtx c f).poison = d.poison := rfl
@[simp] theorem Dev.free_modCtx (d : Dev) (c : Nat) (f : Ctx → Ctx) : (d.modCtx c f).free = d.free := rfl
@[simp] theorem Dev.out_modCtx (d : Dev) (c : Nat) (f : Ctx → Ctx) : (d.modCtx c f).out = d.out := rfl
@[simp] theorem Dev.ring_modCtx (d : Dev) (c : Nat) (f : Ctx → Ctx) : (d.modCtx c f).ring = d.ring := rfl
@[simp] theorem Dev.time_modCtx (d : Dev) (c : Nat) (f : Ctx → Ctx) : (d.modCtx c f).time = d.time := rfl
@[simp] theorem Dev.arb_modCtx (d : Dev) (c : Nat) (f : Ctx → Ctx) : (d.modCtx c f).arb = d.arb := rfl
@[simp] theorem Dev.eng_modCtx (d : Dev) (c : Nat) (f : Ctx → Ctx) : (d.modCtx c f).eng = d.eng := rfl
@[simp] theorem Dev.seq_modCtx (d : Dev) (c : Nat) (f : Ctx → Ctx) : (d.modCtx c f).seq = d.seq := rfl
@[simp] theorem Dev.tier_modCtx (d : Dev) (c : Nat) (f : Ctx → Ctx) : (d.modCtx c f).tier = d.tier := rfl
@[simp] theorem Dev.cpx_modCtx (d : Dev) (c : Nat) (f : Ctx → Ctx) : (d.modCtx c f).cpx = d.cpx := rfl
@[simp] theorem Dev.coh_modCtx (d : Dev) (c : Nat) (f : Ctx → Ctx) : (d.modCtx c f).coh = d.coh := rfl
@[simp] theorem Dev.tours_modCtx (d : Dev) (c : Nat) (f : Ctx → Ctx) : (d.modCtx c f).tours = d.tours := rfl
@[simp] theorem Dev.xlat_modCtx (d : Dev) (c : Nat) (f : Ctx → Ctx) : (d.modCtx c f).xlat = d.xlat := rfl
@[simp] theorem Dev.fab_modCtx (d : Dev) (c : Nat) (f : Ctx → Ctx) : (d.modCtx c f).fab = d.fab := rfl
@[simp] theorem Dev.sec_modCtx (d : Dev) (c : Nat) (f : Ctx → Ctx) : (d.modCtx c f).sec = d.sec := rfl
@[simp] theorem Dev.res_modCtx (d : Dev) (c : Nat) (f : Ctx → Ctx) : (d.modCtx c f).res = d.res := rfl
@[simp] theorem Dev.pow_modCtx (d : Dev) (c : Nat) (f : Ctx → Ctx) : (d.modCtx c f).pow = d.pow := rfl
@[simp] theorem Dev.msix_modCtx (d : Dev) (c : Nat) (f : Ctx → Ctx) : (d.modCtx c f).msix = d.msix := rfl
@[simp] theorem Dev.reg_modCtx (d : Dev) (c : Nat) (f : Ctx → Ctx) (rn : RegName) (ri : Nat) : (d.modCtx c f).reg rn ri = d.reg rn ri := rfl
@[simp] theorem Dev.fget_modCtx (d : Dev) (c : Nat) (f : Ctx → Ctx) (rf : Fld) (ri : Nat) : (d.modCtx c f).fget rf ri = d.fget rf ri := rfl
@[simp] theorem Dev.fon_modCtx (d : Dev) (c : Nat) (f : Ctx → Ctx) (rf : Fld) (ri : Nat) : (d.modCtx c f).fon rf ri = d.fon rf ri := rfl

/-! ### emit -/

@[simp] theorem Dev.regs_emit (d : Dev) (o : Out) : (d.emit o).regs = d.regs := rfl
@[simp] theorem Dev.rwo_emit (d : Dev) (o : Out) : (d.emit o).rwo = d.rwo := rfl
@[simp] theorem Dev.mem_emit (d : Dev) (o : Out) : (d.emit o).mem = d.mem := rfl
@[simp] theorem Dev.poison_emit (d : Dev) (o : Out) : (d.emit o).poison = d.poison := rfl
@[simp] theorem Dev.free_emit (d : Dev) (o : Out) : (d.emit o).free = d.free := rfl
@[simp] theorem Dev.ctxs_emit (d : Dev) (o : Out) : (d.emit o).ctxs = d.ctxs := rfl
@[simp] theorem Dev.ring_emit (d : Dev) (o : Out) : (d.emit o).ring = d.ring := rfl
@[simp] theorem Dev.time_emit (d : Dev) (o : Out) : (d.emit o).time = d.time := rfl
@[simp] theorem Dev.arb_emit (d : Dev) (o : Out) : (d.emit o).arb = d.arb := rfl
@[simp] theorem Dev.eng_emit (d : Dev) (o : Out) : (d.emit o).eng = d.eng := rfl
@[simp] theorem Dev.seq_emit (d : Dev) (o : Out) : (d.emit o).seq = d.seq := rfl
@[simp] theorem Dev.tier_emit (d : Dev) (o : Out) : (d.emit o).tier = d.tier := rfl
@[simp] theorem Dev.cpx_emit (d : Dev) (o : Out) : (d.emit o).cpx = d.cpx := rfl
@[simp] theorem Dev.coh_emit (d : Dev) (o : Out) : (d.emit o).coh = d.coh := rfl
@[simp] theorem Dev.tours_emit (d : Dev) (o : Out) : (d.emit o).tours = d.tours := rfl
@[simp] theorem Dev.xlat_emit (d : Dev) (o : Out) : (d.emit o).xlat = d.xlat := rfl
@[simp] theorem Dev.fab_emit (d : Dev) (o : Out) : (d.emit o).fab = d.fab := rfl
@[simp] theorem Dev.sec_emit (d : Dev) (o : Out) : (d.emit o).sec = d.sec := rfl
@[simp] theorem Dev.res_emit (d : Dev) (o : Out) : (d.emit o).res = d.res := rfl
@[simp] theorem Dev.pow_emit (d : Dev) (o : Out) : (d.emit o).pow = d.pow := rfl
@[simp] theorem Dev.msix_emit (d : Dev) (o : Out) : (d.emit o).msix = d.msix := rfl
@[simp] theorem Dev.reg_emit (d : Dev) (o : Out) (rn : RegName) (ri : Nat) : (d.emit o).reg rn ri = d.reg rn ri := rfl
@[simp] theorem Dev.fget_emit (d : Dev) (o : Out) (rf : Fld) (ri : Nat) : (d.emit o).fget rf ri = d.fget rf ri := rfl
@[simp] theorem Dev.fon_emit (d : Dev) (o : Out) (rf : Fld) (ri : Nat) : (d.emit o).fon rf ri = d.fon rf ri := rfl

/-! ### setSrc -/

@[simp] theorem Dev.regs_setSrc (d : Dev) (n : Nat) (x : EvSrc) : (d.setSrc n x).regs = d.regs := rfl
@[simp] theorem Dev.rwo_setSrc (d : Dev) (n : Nat) (x : EvSrc) : (d.setSrc n x).rwo = d.rwo := rfl
@[simp] theorem Dev.mem_setSrc (d : Dev) (n : Nat) (x : EvSrc) : (d.setSrc n x).mem = d.mem := rfl
@[simp] theorem Dev.poison_setSrc (d : Dev) (n : Nat) (x : EvSrc) : (d.setSrc n x).poison = d.poison := rfl
@[simp] theorem Dev.free_setSrc (d : Dev) (n : Nat) (x : EvSrc) : (d.setSrc n x).free = d.free := rfl
@[simp] theorem Dev.out_setSrc (d : Dev) (n : Nat) (x : EvSrc) : (d.setSrc n x).out = d.out := rfl
@[simp] theorem Dev.ctxs_setSrc (d : Dev) (n : Nat) (x : EvSrc) : (d.setSrc n x).ctxs = d.ctxs := rfl
@[simp] theorem Dev.ring_setSrc (d : Dev) (n : Nat) (x : EvSrc) : (d.setSrc n x).ring = d.ring := rfl
@[simp] theorem Dev.time_setSrc (d : Dev) (n : Nat) (x : EvSrc) : (d.setSrc n x).time = d.time := rfl
@[simp] theorem Dev.eng_setSrc (d : Dev) (n : Nat) (x : EvSrc) : (d.setSrc n x).eng = d.eng := rfl
@[simp] theorem Dev.seq_setSrc (d : Dev) (n : Nat) (x : EvSrc) : (d.setSrc n x).seq = d.seq := rfl
@[simp] theorem Dev.tier_setSrc (d : Dev) (n : Nat) (x : EvSrc) : (d.setSrc n x).tier = d.tier := rfl
@[simp] theorem Dev.cpx_setSrc (d : Dev) (n : Nat) (x : EvSrc) : (d.setSrc n x).cpx = d.cpx := rfl
@[simp] theorem Dev.coh_setSrc (d : Dev) (n : Nat) (x : EvSrc) : (d.setSrc n x).coh = d.coh := rfl
@[simp] theorem Dev.tours_setSrc (d : Dev) (n : Nat) (x : EvSrc) : (d.setSrc n x).tours = d.tours := rfl
@[simp] theorem Dev.xlat_setSrc (d : Dev) (n : Nat) (x : EvSrc) : (d.setSrc n x).xlat = d.xlat := rfl
@[simp] theorem Dev.fab_setSrc (d : Dev) (n : Nat) (x : EvSrc) : (d.setSrc n x).fab = d.fab := rfl
@[simp] theorem Dev.sec_setSrc (d : Dev) (n : Nat) (x : EvSrc) : (d.setSrc n x).sec = d.sec := rfl
@[simp] theorem Dev.res_setSrc (d : Dev) (n : Nat) (x : EvSrc) : (d.setSrc n x).res = d.res := rfl
@[simp] theorem Dev.pow_setSrc (d : Dev) (n : Nat) (x : EvSrc) : (d.setSrc n x).pow = d.pow := rfl
@[simp] theorem Dev.msix_setSrc (d : Dev) (n : Nat) (x : EvSrc) : (d.setSrc n x).msix = d.msix := rfl
@[simp] theorem Dev.reg_setSrc (d : Dev) (n : Nat) (x : EvSrc) (rn : RegName) (ri : Nat) : (d.setSrc n x).reg rn ri = d.reg rn ri := rfl
@[simp] theorem Dev.fget_setSrc (d : Dev) (n : Nat) (x : EvSrc) (rf : Fld) (ri : Nat) : (d.setSrc n x).fget rf ri = d.fget rf ri := rfl
@[simp] theorem Dev.fon_setSrc (d : Dev) (n : Nat) (x : EvSrc) (rf : Fld) (ri : Nat) : (d.setSrc n x).fon rf ri = d.fon rf ri := rfl

/-! ### setArbPair -/

@[simp] theorem Dev.regs_setArbPair (d : Dev) (k : Nat) (x : ArbPair) : (d.setArbPair k x).regs = d.regs := rfl
@[simp] theorem Dev.rwo_setArbPair (d : Dev) (k : Nat) (x : ArbPair) : (d.setArbPair k x).rwo = d.rwo := rfl
@[simp] theorem Dev.mem_setArbPair (d : Dev) (k : Nat) (x : ArbPair) : (d.setArbPair k x).mem = d.mem := rfl
@[simp] theorem Dev.poison_setArbPair (d : Dev) (k : Nat) (x : ArbPair) : (d.setArbPair k x).poison = d.poison := rfl
@[simp] theorem Dev.free_setArbPair (d : Dev) (k : Nat) (x : ArbPair) : (d.setArbPair k x).free = d.free := rfl
@[simp] theorem Dev.out_setArbPair (d : Dev) (k : Nat) (x : ArbPair) : (d.setArbPair k x).out = d.out := rfl
@[simp] theorem Dev.ctxs_setArbPair (d : Dev) (k : Nat) (x : ArbPair) : (d.setArbPair k x).ctxs = d.ctxs := rfl
@[simp] theorem Dev.ring_setArbPair (d : Dev) (k : Nat) (x : ArbPair) : (d.setArbPair k x).ring = d.ring := rfl
@[simp] theorem Dev.time_setArbPair (d : Dev) (k : Nat) (x : ArbPair) : (d.setArbPair k x).time = d.time := rfl
@[simp] theorem Dev.eng_setArbPair (d : Dev) (k : Nat) (x : ArbPair) : (d.setArbPair k x).eng = d.eng := rfl
@[simp] theorem Dev.seq_setArbPair (d : Dev) (k : Nat) (x : ArbPair) : (d.setArbPair k x).seq = d.seq := rfl
@[simp] theorem Dev.tier_setArbPair (d : Dev) (k : Nat) (x : ArbPair) : (d.setArbPair k x).tier = d.tier := rfl
@[simp] theorem Dev.cpx_setArbPair (d : Dev) (k : Nat) (x : ArbPair) : (d.setArbPair k x).cpx = d.cpx := rfl
@[simp] theorem Dev.coh_setArbPair (d : Dev) (k : Nat) (x : ArbPair) : (d.setArbPair k x).coh = d.coh := rfl
@[simp] theorem Dev.tours_setArbPair (d : Dev) (k : Nat) (x : ArbPair) : (d.setArbPair k x).tours = d.tours := rfl
@[simp] theorem Dev.xlat_setArbPair (d : Dev) (k : Nat) (x : ArbPair) : (d.setArbPair k x).xlat = d.xlat := rfl
@[simp] theorem Dev.fab_setArbPair (d : Dev) (k : Nat) (x : ArbPair) : (d.setArbPair k x).fab = d.fab := rfl
@[simp] theorem Dev.sec_setArbPair (d : Dev) (k : Nat) (x : ArbPair) : (d.setArbPair k x).sec = d.sec := rfl
@[simp] theorem Dev.res_setArbPair (d : Dev) (k : Nat) (x : ArbPair) : (d.setArbPair k x).res = d.res := rfl
@[simp] theorem Dev.pow_setArbPair (d : Dev) (k : Nat) (x : ArbPair) : (d.setArbPair k x).pow = d.pow := rfl
@[simp] theorem Dev.msix_setArbPair (d : Dev) (k : Nat) (x : ArbPair) : (d.setArbPair k x).msix = d.msix := rfl
@[simp] theorem Dev.reg_setArbPair (d : Dev) (k : Nat) (x : ArbPair) (rn : RegName) (ri : Nat) : (d.setArbPair k x).reg rn ri = d.reg rn ri := rfl
@[simp] theorem Dev.fget_setArbPair (d : Dev) (k : Nat) (x : ArbPair) (rf : Fld) (ri : Nat) : (d.setArbPair k x).fget rf ri = d.fget rf ri := rfl
@[simp] theorem Dev.fon_setArbPair (d : Dev) (k : Nat) (x : ArbPair) (rf : Fld) (ri : Nat) : (d.setArbPair k x).fon rf ri = d.fon rf ri := rfl

/-! ### setPair -/

@[simp] theorem Dev.regs_setPair (d : Dev) (k : Nat) (p : Pair) : (d.setPair k p).regs = d.regs := rfl
@[simp] theorem Dev.rwo_setPair (d : Dev) (k : Nat) (p : Pair) : (d.setPair k p).rwo = d.rwo := rfl
@[simp] theorem Dev.mem_setPair (d : Dev) (k : Nat) (p : Pair) : (d.setPair k p).mem = d.mem := rfl
@[simp] theorem Dev.poison_setPair (d : Dev) (k : Nat) (p : Pair) : (d.setPair k p).poison = d.poison := rfl
@[simp] theorem Dev.free_setPair (d : Dev) (k : Nat) (p : Pair) : (d.setPair k p).free = d.free := rfl
@[simp] theorem Dev.out_setPair (d : Dev) (k : Nat) (p : Pair) : (d.setPair k p).out = d.out := rfl
@[simp] theorem Dev.ctxs_setPair (d : Dev) (k : Nat) (p : Pair) : (d.setPair k p).ctxs = d.ctxs := rfl
@[simp] theorem Dev.time_setPair (d : Dev) (k : Nat) (p : Pair) : (d.setPair k p).time = d.time := rfl
@[simp] theorem Dev.arb_setPair (d : Dev) (k : Nat) (p : Pair) : (d.setPair k p).arb = d.arb := rfl
@[simp] theorem Dev.eng_setPair (d : Dev) (k : Nat) (p : Pair) : (d.setPair k p).eng = d.eng := rfl
@[simp] theorem Dev.seq_setPair (d : Dev) (k : Nat) (p : Pair) : (d.setPair k p).seq = d.seq := rfl
@[simp] theorem Dev.tier_setPair (d : Dev) (k : Nat) (p : Pair) : (d.setPair k p).tier = d.tier := rfl
@[simp] theorem Dev.cpx_setPair (d : Dev) (k : Nat) (p : Pair) : (d.setPair k p).cpx = d.cpx := rfl
@[simp] theorem Dev.coh_setPair (d : Dev) (k : Nat) (p : Pair) : (d.setPair k p).coh = d.coh := rfl
@[simp] theorem Dev.tours_setPair (d : Dev) (k : Nat) (p : Pair) : (d.setPair k p).tours = d.tours := rfl
@[simp] theorem Dev.xlat_setPair (d : Dev) (k : Nat) (p : Pair) : (d.setPair k p).xlat = d.xlat := rfl
@[simp] theorem Dev.fab_setPair (d : Dev) (k : Nat) (p : Pair) : (d.setPair k p).fab = d.fab := rfl
@[simp] theorem Dev.sec_setPair (d : Dev) (k : Nat) (p : Pair) : (d.setPair k p).sec = d.sec := rfl
@[simp] theorem Dev.res_setPair (d : Dev) (k : Nat) (p : Pair) : (d.setPair k p).res = d.res := rfl
@[simp] theorem Dev.pow_setPair (d : Dev) (k : Nat) (p : Pair) : (d.setPair k p).pow = d.pow := rfl
@[simp] theorem Dev.msix_setPair (d : Dev) (k : Nat) (p : Pair) : (d.setPair k p).msix = d.msix := rfl
@[simp] theorem Dev.reg_setPair (d : Dev) (k : Nat) (p : Pair) (rn : RegName) (ri : Nat) : (d.setPair k p).reg rn ri = d.reg rn ri := rfl
@[simp] theorem Dev.fget_setPair (d : Dev) (k : Nat) (p : Pair) (rf : Fld) (ri : Nat) : (d.setPair k p).fget rf ri = d.fget rf ri := rfl
@[simp] theorem Dev.fon_setPair (d : Dev) (k : Nat) (p : Pair) (rf : Fld) (ri : Nat) : (d.setPair k p).fon rf ri = d.fon rf ri := rfl

/-! ### modPair -/

@[simp] theorem Dev.regs_modPair (d : Dev) (k : Nat) (f : Pair → Pair) : (d.modPair k f).regs = d.regs := rfl
@[simp] theorem Dev.rwo_modPair (d : Dev) (k : Nat) (f : Pair → Pair) : (d.modPair k f).rwo = d.rwo := rfl
@[simp] theorem Dev.mem_modPair (d : Dev) (k : Nat) (f : Pair → Pair) : (d.modPair k f).mem = d.mem := rfl
@[simp] theorem Dev.poison_modPair (d : Dev) (k : Nat) (f : Pair → Pair) : (d.modPair k f).poison = d.poison := rfl
@[simp] theorem Dev.free_modPair (d : Dev) (k : Nat) (f : Pair → Pair) : (d.modPair k f).free = d.free := rfl
@[simp] theorem Dev.out_modPair (d : Dev) (k : Nat) (f : Pair → Pair) : (d.modPair k f).out = d.out := rfl
@[simp] theorem Dev.ctxs_modPair (d : Dev) (k : Nat) (f : Pair → Pair) : (d.modPair k f).ctxs = d.ctxs := rfl
@[simp] theorem Dev.time_modPair (d : Dev) (k : Nat) (f : Pair → Pair) : (d.modPair k f).time = d.time := rfl
@[simp] theorem Dev.arb_modPair (d : Dev) (k : Nat) (f : Pair → Pair) : (d.modPair k f).arb = d.arb := rfl
@[simp] theorem Dev.eng_modPair (d : Dev) (k : Nat) (f : Pair → Pair) : (d.modPair k f).eng = d.eng := rfl
@[simp] theorem Dev.seq_modPair (d : Dev) (k : Nat) (f : Pair → Pair) : (d.modPair k f).seq = d.seq := rfl
@[simp] theorem Dev.tier_modPair (d : Dev) (k : Nat) (f : Pair → Pair) : (d.modPair k f).tier = d.tier := rfl
@[simp] theorem Dev.cpx_modPair (d : Dev) (k : Nat) (f : Pair → Pair) : (d.modPair k f).cpx = d.cpx := rfl
@[simp] theorem Dev.coh_modPair (d : Dev) (k : Nat) (f : Pair → Pair) : (d.modPair k f).coh = d.coh := rfl
@[simp] theorem Dev.tours_modPair (d : Dev) (k : Nat) (f : Pair → Pair) : (d.modPair k f).tours = d.tours := rfl
@[simp] theorem Dev.xlat_modPair (d : Dev) (k : Nat) (f : Pair → Pair) : (d.modPair k f).xlat = d.xlat := rfl
@[simp] theorem Dev.fab_modPair (d : Dev) (k : Nat) (f : Pair → Pair) : (d.modPair k f).fab = d.fab := rfl
@[simp] theorem Dev.sec_modPair (d : Dev) (k : Nat) (f : Pair → Pair) : (d.modPair k f).sec = d.sec := rfl
@[simp] theorem Dev.res_modPair (d : Dev) (k : Nat) (f : Pair → Pair) : (d.modPair k f).res = d.res := rfl
@[simp] theorem Dev.pow_modPair (d : Dev) (k : Nat) (f : Pair → Pair) : (d.modPair k f).pow = d.pow := rfl
@[simp] theorem Dev.msix_modPair (d : Dev) (k : Nat) (f : Pair → Pair) : (d.modPair k f).msix = d.msix := rfl
@[simp] theorem Dev.reg_modPair (d : Dev) (k : Nat) (f : Pair → Pair) (rn : RegName) (ri : Nat) : (d.modPair k f).reg rn ri = d.reg rn ri := rfl
@[simp] theorem Dev.fget_modPair (d : Dev) (k : Nat) (f : Pair → Pair) (rf : Fld) (ri : Nat) : (d.modPair k f).fget rf ri = d.fget rf ri := rfl
@[simp] theorem Dev.fon_modPair (d : Dev) (k : Nat) (f : Pair → Pair) (rf : Fld) (ri : Nat) : (d.modPair k f).fon rf ri = d.fon rf ri := rfl

/-! ### setWheel -/

@[simp] theorem Dev.regs_setWheel (d : Dev) (w : Nat) (l : List Event) : (d.setWheel w l).regs = d.regs := rfl
@[simp] theorem Dev.rwo_setWheel (d : Dev) (w : Nat) (l : List Event) : (d.setWheel w l).rwo = d.rwo := rfl
@[simp] theorem Dev.mem_setWheel (d : Dev) (w : Nat) (l : List Event) : (d.setWheel w l).mem = d.mem := rfl
@[simp] theorem Dev.poison_setWheel (d : Dev) (w : Nat) (l : List Event) : (d.setWheel w l).poison = d.poison := rfl
@[simp] theorem Dev.free_setWheel (d : Dev) (w : Nat) (l : List Event) : (d.setWheel w l).free = d.free := rfl
@[simp] theorem Dev.out_setWheel (d : Dev) (w : Nat) (l : List Event) : (d.setWheel w l).out = d.out := rfl
@[simp] theorem Dev.ctxs_setWheel (d : Dev) (w : Nat) (l : List Event) : (d.setWheel w l).ctxs = d.ctxs := rfl
@[simp] theorem Dev.ring_setWheel (d : Dev) (w : Nat) (l : List Event) : (d.setWheel w l).ring = d.ring := rfl
@[simp] theorem Dev.arb_setWheel (d : Dev) (w : Nat) (l : List Event) : (d.setWheel w l).arb = d.arb := rfl
@[simp] theorem Dev.eng_setWheel (d : Dev) (w : Nat) (l : List Event) : (d.setWheel w l).eng = d.eng := rfl
@[simp] theorem Dev.seq_setWheel (d : Dev) (w : Nat) (l : List Event) : (d.setWheel w l).seq = d.seq := rfl
@[simp] theorem Dev.tier_setWheel (d : Dev) (w : Nat) (l : List Event) : (d.setWheel w l).tier = d.tier := rfl
@[simp] theorem Dev.cpx_setWheel (d : Dev) (w : Nat) (l : List Event) : (d.setWheel w l).cpx = d.cpx := rfl
@[simp] theorem Dev.coh_setWheel (d : Dev) (w : Nat) (l : List Event) : (d.setWheel w l).coh = d.coh := rfl
@[simp] theorem Dev.tours_setWheel (d : Dev) (w : Nat) (l : List Event) : (d.setWheel w l).tours = d.tours := rfl
@[simp] theorem Dev.xlat_setWheel (d : Dev) (w : Nat) (l : List Event) : (d.setWheel w l).xlat = d.xlat := rfl
@[simp] theorem Dev.fab_setWheel (d : Dev) (w : Nat) (l : List Event) : (d.setWheel w l).fab = d.fab := rfl
@[simp] theorem Dev.sec_setWheel (d : Dev) (w : Nat) (l : List Event) : (d.setWheel w l).sec = d.sec := rfl
@[simp] theorem Dev.res_setWheel (d : Dev) (w : Nat) (l : List Event) : (d.setWheel w l).res = d.res := rfl
@[simp] theorem Dev.pow_setWheel (d : Dev) (w : Nat) (l : List Event) : (d.setWheel w l).pow = d.pow := rfl
@[simp] theorem Dev.msix_setWheel (d : Dev) (w : Nat) (l : List Event) : (d.setWheel w l).msix = d.msix := rfl
@[simp] theorem Dev.reg_setWheel (d : Dev) (w : Nat) (l : List Event) (rn : RegName) (ri : Nat) : (d.setWheel w l).reg rn ri = d.reg rn ri := rfl
@[simp] theorem Dev.fget_setWheel (d : Dev) (w : Nat) (l : List Event) (rf : Fld) (ri : Nat) : (d.setWheel w l).fget rf ri = d.fget rf ri := rfl
@[simp] theorem Dev.fon_setWheel (d : Dev) (w : Nat) (l : List Event) (rf : Fld) (ri : Nat) : (d.setWheel w l).fon rf ri = d.fon rf ri := rfl

/-! ### setCe -/

@[simp] theorem Dev.regs_setCe (d : Dev) (k : Nat) (c : Ce) : (d.setCe k c).regs = d.regs := rfl
@[simp] theorem Dev.rwo_setCe (d : Dev) (k : Nat) (c : Ce) : (d.setCe k c).rwo = d.rwo := rfl
@[simp] theorem Dev.mem_setCe (d : Dev) (k : Nat) (c : Ce) : (d.setCe k c).mem = d.mem := rfl
@[simp] theorem Dev.poison_setCe (d : Dev) (k : Nat) (c : Ce) : (d.setCe k c).poison = d.poison := rfl
@[simp] theorem Dev.free_setCe (d : Dev) (k : Nat) (c : Ce) : (d.setCe k c).free = d.free := rfl
@[simp] theorem Dev.out_setCe (d : Dev) (k : Nat) (c : Ce) : (d.setCe k c).out = d.out := rfl
@[simp] theorem Dev.ctxs_setCe (d : Dev) (k : Nat) (c : Ce) : (d.setCe k c).ctxs = d.ctxs := rfl
@[simp] theorem Dev.ring_setCe (d : Dev) (k : Nat) (c : Ce) : (d.setCe k c).ring = d.ring := rfl
@[simp] theorem Dev.time_setCe (d : Dev) (k : Nat) (c : Ce) : (d.setCe k c).time = d.time := rfl
@[simp] theorem Dev.arb_setCe (d : Dev) (k : Nat) (c : Ce) : (d.setCe k c).arb = d.arb := rfl
@[simp] theorem Dev.seq_setCe (d : Dev) (k : Nat) (c : Ce) : (d.setCe k c).seq = d.seq := rfl
@[simp] theorem Dev.tier_setCe (d : Dev) (k : Nat) (c : Ce) : (d.setCe k c).tier = d.tier := rfl
@[simp] theorem Dev.cpx_setCe (d : Dev) (k : Nat) (c : Ce) : (d.setCe k c).cpx = d.cpx := rfl
@[simp] theorem Dev.coh_setCe (d : Dev) (k : Nat) (c : Ce) : (d.setCe k c).coh = d.coh := rfl
@[simp] theorem Dev.tours_setCe (d : Dev) (k : Nat) (c : Ce) : (d.setCe k c).tours = d.tours := rfl
@[simp] theorem Dev.xlat_setCe (d : Dev) (k : Nat) (c : Ce) : (d.setCe k c).xlat = d.xlat := rfl
@[simp] theorem Dev.fab_setCe (d : Dev) (k : Nat) (c : Ce) : (d.setCe k c).fab = d.fab := rfl
@[simp] theorem Dev.sec_setCe (d : Dev) (k : Nat) (c : Ce) : (d.setCe k c).sec = d.sec := rfl
@[simp] theorem Dev.res_setCe (d : Dev) (k : Nat) (c : Ce) : (d.setCe k c).res = d.res := rfl
@[simp] theorem Dev.pow_setCe (d : Dev) (k : Nat) (c : Ce) : (d.setCe k c).pow = d.pow := rfl
@[simp] theorem Dev.msix_setCe (d : Dev) (k : Nat) (c : Ce) : (d.setCe k c).msix = d.msix := rfl
@[simp] theorem Dev.reg_setCe (d : Dev) (k : Nat) (c : Ce) (rn : RegName) (ri : Nat) : (d.setCe k c).reg rn ri = d.reg rn ri := rfl
@[simp] theorem Dev.fget_setCe (d : Dev) (k : Nat) (c : Ce) (rf : Fld) (ri : Nat) : (d.setCe k c).fget rf ri = d.fget rf ri := rfl
@[simp] theorem Dev.fon_setCe (d : Dev) (k : Nat) (c : Ce) (rf : Fld) (ri : Nat) : (d.setCe k c).fon rf ri = d.fon rf ri := rfl

/-! ### modCe -/

@[simp] theorem Dev.regs_modCe (d : Dev) (k : Nat) (f : Ce → Ce) : (d.modCe k f).regs = d.regs := rfl
@[simp] theorem Dev.rwo_modCe (d : Dev) (k : Nat) (f : Ce → Ce) : (d.modCe k f).rwo = d.rwo := rfl
@[simp] theorem Dev.mem_modCe (d : Dev) (k : Nat) (f : Ce → Ce) : (d.modCe k f).mem = d.mem := rfl
@[simp] theorem Dev.poison_modCe (d : Dev) (k : Nat) (f : Ce → Ce) : (d.modCe k f).poison = d.poison := rfl
@[simp] theorem Dev.free_modCe (d : Dev) (k : Nat) (f : Ce → Ce) : (d.modCe k f).free = d.free := rfl
@[simp] theorem Dev.out_modCe (d : Dev) (k : Nat) (f : Ce → Ce) : (d.modCe k f).out = d.out := rfl
@[simp] theorem Dev.ctxs_modCe (d : Dev) (k : Nat) (f : Ce → Ce) : (d.modCe k f).ctxs = d.ctxs := rfl
@[simp] theorem Dev.ring_modCe (d : Dev) (k : Nat) (f : Ce → Ce) : (d.modCe k f).ring = d.ring := rfl
@[simp] theorem Dev.time_modCe (d : Dev) (k : Nat) (f : Ce → Ce) : (d.modCe k f).time = d.time := rfl
@[simp] theorem Dev.arb_modCe (d : Dev) (k : Nat) (f : Ce → Ce) : (d.modCe k f).arb = d.arb := rfl
@[simp] theorem Dev.seq_modCe (d : Dev) (k : Nat) (f : Ce → Ce) : (d.modCe k f).seq = d.seq := rfl
@[simp] theorem Dev.tier_modCe (d : Dev) (k : Nat) (f : Ce → Ce) : (d.modCe k f).tier = d.tier := rfl
@[simp] theorem Dev.cpx_modCe (d : Dev) (k : Nat) (f : Ce → Ce) : (d.modCe k f).cpx = d.cpx := rfl
@[simp] theorem Dev.coh_modCe (d : Dev) (k : Nat) (f : Ce → Ce) : (d.modCe k f).coh = d.coh := rfl
@[simp] theorem Dev.tours_modCe (d : Dev) (k : Nat) (f : Ce → Ce) : (d.modCe k f).tours = d.tours := rfl
@[simp] theorem Dev.xlat_modCe (d : Dev) (k : Nat) (f : Ce → Ce) : (d.modCe k f).xlat = d.xlat := rfl
@[simp] theorem Dev.fab_modCe (d : Dev) (k : Nat) (f : Ce → Ce) : (d.modCe k f).fab = d.fab := rfl
@[simp] theorem Dev.sec_modCe (d : Dev) (k : Nat) (f : Ce → Ce) : (d.modCe k f).sec = d.sec := rfl
@[simp] theorem Dev.res_modCe (d : Dev) (k : Nat) (f : Ce → Ce) : (d.modCe k f).res = d.res := rfl
@[simp] theorem Dev.pow_modCe (d : Dev) (k : Nat) (f : Ce → Ce) : (d.modCe k f).pow = d.pow := rfl
@[simp] theorem Dev.msix_modCe (d : Dev) (k : Nat) (f : Ce → Ce) : (d.modCe k f).msix = d.msix := rfl
@[simp] theorem Dev.reg_modCe (d : Dev) (k : Nat) (f : Ce → Ce) (rn : RegName) (ri : Nat) : (d.modCe k f).reg rn ri = d.reg rn ri := rfl
@[simp] theorem Dev.fget_modCe (d : Dev) (k : Nat) (f : Ce → Ce) (rf : Fld) (ri : Nat) : (d.modCe k f).fget rf ri = d.fget rf ri := rfl
@[simp] theorem Dev.fon_modCe (d : Dev) (k : Nat) (f : Ce → Ce) (rf : Fld) (ri : Nat) : (d.modCe k f).fon rf ri = d.fon rf ri := rfl

/-! ### modLaunch -/

@[simp] theorem Dev.regs_modLaunch (d : Dev) (l : Nat) (f : Launch → Launch) : (d.modLaunch l f).regs = d.regs := rfl
@[simp] theorem Dev.rwo_modLaunch (d : Dev) (l : Nat) (f : Launch → Launch) : (d.modLaunch l f).rwo = d.rwo := rfl
@[simp] theorem Dev.mem_modLaunch (d : Dev) (l : Nat) (f : Launch → Launch) : (d.modLaunch l f).mem = d.mem := rfl
@[simp] theorem Dev.poison_modLaunch (d : Dev) (l : Nat) (f : Launch → Launch) : (d.modLaunch l f).poison = d.poison := rfl
@[simp] theorem Dev.free_modLaunch (d : Dev) (l : Nat) (f : Launch → Launch) : (d.modLaunch l f).free = d.free := rfl
@[simp] theorem Dev.out_modLaunch (d : Dev) (l : Nat) (f : Launch → Launch) : (d.modLaunch l f).out = d.out := rfl
@[simp] theorem Dev.ctxs_modLaunch (d : Dev) (l : Nat) (f : Launch → Launch) : (d.modLaunch l f).ctxs = d.ctxs := rfl
@[simp] theorem Dev.ring_modLaunch (d : Dev) (l : Nat) (f : Launch → Launch) : (d.modLaunch l f).ring = d.ring := rfl
@[simp] theorem Dev.time_modLaunch (d : Dev) (l : Nat) (f : Launch → Launch) : (d.modLaunch l f).time = d.time := rfl
@[simp] theorem Dev.arb_modLaunch (d : Dev) (l : Nat) (f : Launch → Launch) : (d.modLaunch l f).arb = d.arb := rfl
@[simp] theorem Dev.seq_modLaunch (d : Dev) (l : Nat) (f : Launch → Launch) : (d.modLaunch l f).seq = d.seq := rfl
@[simp] theorem Dev.tier_modLaunch (d : Dev) (l : Nat) (f : Launch → Launch) : (d.modLaunch l f).tier = d.tier := rfl
@[simp] theorem Dev.cpx_modLaunch (d : Dev) (l : Nat) (f : Launch → Launch) : (d.modLaunch l f).cpx = d.cpx := rfl
@[simp] theorem Dev.coh_modLaunch (d : Dev) (l : Nat) (f : Launch → Launch) : (d.modLaunch l f).coh = d.coh := rfl
@[simp] theorem Dev.tours_modLaunch (d : Dev) (l : Nat) (f : Launch → Launch) : (d.modLaunch l f).tours = d.tours := rfl
@[simp] theorem Dev.xlat_modLaunch (d : Dev) (l : Nat) (f : Launch → Launch) : (d.modLaunch l f).xlat = d.xlat := rfl
@[simp] theorem Dev.fab_modLaunch (d : Dev) (l : Nat) (f : Launch → Launch) : (d.modLaunch l f).fab = d.fab := rfl
@[simp] theorem Dev.sec_modLaunch (d : Dev) (l : Nat) (f : Launch → Launch) : (d.modLaunch l f).sec = d.sec := rfl
@[simp] theorem Dev.res_modLaunch (d : Dev) (l : Nat) (f : Launch → Launch) : (d.modLaunch l f).res = d.res := rfl
@[simp] theorem Dev.pow_modLaunch (d : Dev) (l : Nat) (f : Launch → Launch) : (d.modLaunch l f).pow = d.pow := rfl
@[simp] theorem Dev.msix_modLaunch (d : Dev) (l : Nat) (f : Launch → Launch) : (d.modLaunch l f).msix = d.msix := rfl
@[simp] theorem Dev.reg_modLaunch (d : Dev) (l : Nat) (f : Launch → Launch) (rn : RegName) (ri : Nat) : (d.modLaunch l f).reg rn ri = d.reg rn ri := rfl
@[simp] theorem Dev.fget_modLaunch (d : Dev) (l : Nat) (f : Launch → Launch) (rf : Fld) (ri : Nat) : (d.modLaunch l f).fget rf ri = d.fget rf ri := rfl
@[simp] theorem Dev.fon_modLaunch (d : Dev) (l : Nat) (f : Launch → Launch) (rf : Fld) (ri : Nat) : (d.modLaunch l f).fon rf ri = d.fon rf ri := rfl

/-! ### modMember -/

@[simp] theorem Dev.regs_modMember (d : Dev) (l m : Nat) (f : Member → Member) : (d.modMember l m f).regs = d.regs := rfl
@[simp] theorem Dev.rwo_modMember (d : Dev) (l m : Nat) (f : Member → Member) : (d.modMember l m f).rwo = d.rwo := rfl
@[simp] theorem Dev.mem_modMember (d : Dev) (l m : Nat) (f : Member → Member) : (d.modMember l m f).mem = d.mem := rfl
@[simp] theorem Dev.poison_modMember (d : Dev) (l m : Nat) (f : Member → Member) : (d.modMember l m f).poison = d.poison := rfl
@[simp] theorem Dev.free_modMember (d : Dev) (l m : Nat) (f : Member → Member) : (d.modMember l m f).free = d.free := rfl
@[simp] theorem Dev.out_modMember (d : Dev) (l m : Nat) (f : Member → Member) : (d.modMember l m f).out = d.out := rfl
@[simp] theorem Dev.ctxs_modMember (d : Dev) (l m : Nat) (f : Member → Member) : (d.modMember l m f).ctxs = d.ctxs := rfl
@[simp] theorem Dev.ring_modMember (d : Dev) (l m : Nat) (f : Member → Member) : (d.modMember l m f).ring = d.ring := rfl
@[simp] theorem Dev.time_modMember (d : Dev) (l m : Nat) (f : Member → Member) : (d.modMember l m f).time = d.time := rfl
@[simp] theorem Dev.arb_modMember (d : Dev) (l m : Nat) (f : Member → Member) : (d.modMember l m f).arb = d.arb := rfl
@[simp] theorem Dev.seq_modMember (d : Dev) (l m : Nat) (f : Member → Member) : (d.modMember l m f).seq = d.seq := rfl
@[simp] theorem Dev.tier_modMember (d : Dev) (l m : Nat) (f : Member → Member) : (d.modMember l m f).tier = d.tier := rfl
@[simp] theorem Dev.cpx_modMember (d : Dev) (l m : Nat) (f : Member → Member) : (d.modMember l m f).cpx = d.cpx := rfl
@[simp] theorem Dev.coh_modMember (d : Dev) (l m : Nat) (f : Member → Member) : (d.modMember l m f).coh = d.coh := rfl
@[simp] theorem Dev.tours_modMember (d : Dev) (l m : Nat) (f : Member → Member) : (d.modMember l m f).tours = d.tours := rfl
@[simp] theorem Dev.xlat_modMember (d : Dev) (l m : Nat) (f : Member → Member) : (d.modMember l m f).xlat = d.xlat := rfl
@[simp] theorem Dev.fab_modMember (d : Dev) (l m : Nat) (f : Member → Member) : (d.modMember l m f).fab = d.fab := rfl
@[simp] theorem Dev.sec_modMember (d : Dev) (l m : Nat) (f : Member → Member) : (d.modMember l m f).sec = d.sec := rfl
@[simp] theorem Dev.res_modMember (d : Dev) (l m : Nat) (f : Member → Member) : (d.modMember l m f).res = d.res := rfl
@[simp] theorem Dev.pow_modMember (d : Dev) (l m : Nat) (f : Member → Member) : (d.modMember l m f).pow = d.pow := rfl
@[simp] theorem Dev.msix_modMember (d : Dev) (l m : Nat) (f : Member → Member) : (d.modMember l m f).msix = d.msix := rfl
@[simp] theorem Dev.reg_modMember (d : Dev) (l m : Nat) (f : Member → Member) (rn : RegName) (ri : Nat) : (d.modMember l m f).reg rn ri = d.reg rn ri := rfl
@[simp] theorem Dev.fget_modMember (d : Dev) (l m : Nat) (f : Member → Member) (rf : Fld) (ri : Nat) : (d.modMember l m f).fget rf ri = d.fget rf ri := rfl
@[simp] theorem Dev.fon_modMember (d : Dev) (l m : Nat) (f : Member → Member) (rf : Fld) (ri : Nat) : (d.modMember l m f).fon rf ri = d.fon rf ri := rfl

/-! ### modCohort -/

@[simp] theorem Dev.regs_modCohort (d : Dev) (l m c : Nat) (f : Cohort → Cohort) : (d.modCohort l m c f).regs = d.regs := rfl
@[simp] theorem Dev.rwo_modCohort (d : Dev) (l m c : Nat) (f : Cohort → Cohort) : (d.modCohort l m c f).rwo = d.rwo := rfl
@[simp] theorem Dev.mem_modCohort (d : Dev) (l m c : Nat) (f : Cohort → Cohort) : (d.modCohort l m c f).mem = d.mem := rfl
@[simp] theorem Dev.poison_modCohort (d : Dev) (l m c : Nat) (f : Cohort → Cohort) : (d.modCohort l m c f).poison = d.poison := rfl
@[simp] theorem Dev.free_modCohort (d : Dev) (l m c : Nat) (f : Cohort → Cohort) : (d.modCohort l m c f).free = d.free := rfl
@[simp] theorem Dev.out_modCohort (d : Dev) (l m c : Nat) (f : Cohort → Cohort) : (d.modCohort l m c f).out = d.out := rfl
@[simp] theorem Dev.ctxs_modCohort (d : Dev) (l m c : Nat) (f : Cohort → Cohort) : (d.modCohort l m c f).ctxs = d.ctxs := rfl
@[simp] theorem Dev.ring_modCohort (d : Dev) (l m c : Nat) (f : Cohort → Cohort) : (d.modCohort l m c f).ring = d.ring := rfl
@[simp] theorem Dev.time_modCohort (d : Dev) (l m c : Nat) (f : Cohort → Cohort) : (d.modCohort l m c f).time = d.time := rfl
@[simp] theorem Dev.arb_modCohort (d : Dev) (l m c : Nat) (f : Cohort → Cohort) : (d.modCohort l m c f).arb = d.arb := rfl
@[simp] theorem Dev.seq_modCohort (d : Dev) (l m c : Nat) (f : Cohort → Cohort) : (d.modCohort l m c f).seq = d.seq := rfl
@[simp] theorem Dev.tier_modCohort (d : Dev) (l m c : Nat) (f : Cohort → Cohort) : (d.modCohort l m c f).tier = d.tier := rfl
@[simp] theorem Dev.cpx_modCohort (d : Dev) (l m c : Nat) (f : Cohort → Cohort) : (d.modCohort l m c f).cpx = d.cpx := rfl
@[simp] theorem Dev.coh_modCohort (d : Dev) (l m c : Nat) (f : Cohort → Cohort) : (d.modCohort l m c f).coh = d.coh := rfl
@[simp] theorem Dev.tours_modCohort (d : Dev) (l m c : Nat) (f : Cohort → Cohort) : (d.modCohort l m c f).tours = d.tours := rfl
@[simp] theorem Dev.xlat_modCohort (d : Dev) (l m c : Nat) (f : Cohort → Cohort) : (d.modCohort l m c f).xlat = d.xlat := rfl
@[simp] theorem Dev.fab_modCohort (d : Dev) (l m c : Nat) (f : Cohort → Cohort) : (d.modCohort l m c f).fab = d.fab := rfl
@[simp] theorem Dev.sec_modCohort (d : Dev) (l m c : Nat) (f : Cohort → Cohort) : (d.modCohort l m c f).sec = d.sec := rfl
@[simp] theorem Dev.res_modCohort (d : Dev) (l m c : Nat) (f : Cohort → Cohort) : (d.modCohort l m c f).res = d.res := rfl
@[simp] theorem Dev.pow_modCohort (d : Dev) (l m c : Nat) (f : Cohort → Cohort) : (d.modCohort l m c f).pow = d.pow := rfl
@[simp] theorem Dev.msix_modCohort (d : Dev) (l m c : Nat) (f : Cohort → Cohort) : (d.modCohort l m c f).msix = d.msix := rfl
@[simp] theorem Dev.reg_modCohort (d : Dev) (l m c : Nat) (f : Cohort → Cohort) (rn : RegName) (ri : Nat) : (d.modCohort l m c f).reg rn ri = d.reg rn ri := rfl
@[simp] theorem Dev.fget_modCohort (d : Dev) (l m c : Nat) (f : Cohort → Cohort) (rf : Fld) (ri : Nat) : (d.modCohort l m c f).fget rf ri = d.fget rf ri := rfl
@[simp] theorem Dev.fon_modCohort (d : Dev) (l m c : Nat) (f : Cohort → Cohort) (rf : Fld) (ri : Nat) : (d.modCohort l m c f).fon rf ri = d.fon rf ri := rfl

/-! ### modCmd -/

@[simp] theorem Dev.regs_modCmd (d : Dev) (n : Nat) (f : Cmd → Cmd) : (d.modCmd n f).regs = d.regs := rfl
@[simp] theorem Dev.rwo_modCmd (d : Dev) (n : Nat) (f : Cmd → Cmd) : (d.modCmd n f).rwo = d.rwo := rfl
@[simp] theorem Dev.mem_modCmd (d : Dev) (n : Nat) (f : Cmd → Cmd) : (d.modCmd n f).mem = d.mem := rfl
@[simp] theorem Dev.poison_modCmd (d : Dev) (n : Nat) (f : Cmd → Cmd) : (d.modCmd n f).poison = d.poison := rfl
@[simp] theorem Dev.free_modCmd (d : Dev) (n : Nat) (f : Cmd → Cmd) : (d.modCmd n f).free = d.free := rfl
@[simp] theorem Dev.out_modCmd (d : Dev) (n : Nat) (f : Cmd → Cmd) : (d.modCmd n f).out = d.out := rfl
@[simp] theorem Dev.ctxs_modCmd (d : Dev) (n : Nat) (f : Cmd → Cmd) : (d.modCmd n f).ctxs = d.ctxs := rfl
@[simp] theorem Dev.ring_modCmd (d : Dev) (n : Nat) (f : Cmd → Cmd) : (d.modCmd n f).ring = d.ring := rfl
@[simp] theorem Dev.time_modCmd (d : Dev) (n : Nat) (f : Cmd → Cmd) : (d.modCmd n f).time = d.time := rfl
@[simp] theorem Dev.arb_modCmd (d : Dev) (n : Nat) (f : Cmd → Cmd) : (d.modCmd n f).arb = d.arb := rfl
@[simp] theorem Dev.seq_modCmd (d : Dev) (n : Nat) (f : Cmd → Cmd) : (d.modCmd n f).seq = d.seq := rfl
@[simp] theorem Dev.tier_modCmd (d : Dev) (n : Nat) (f : Cmd → Cmd) : (d.modCmd n f).tier = d.tier := rfl
@[simp] theorem Dev.cpx_modCmd (d : Dev) (n : Nat) (f : Cmd → Cmd) : (d.modCmd n f).cpx = d.cpx := rfl
@[simp] theorem Dev.coh_modCmd (d : Dev) (n : Nat) (f : Cmd → Cmd) : (d.modCmd n f).coh = d.coh := rfl
@[simp] theorem Dev.tours_modCmd (d : Dev) (n : Nat) (f : Cmd → Cmd) : (d.modCmd n f).tours = d.tours := rfl
@[simp] theorem Dev.xlat_modCmd (d : Dev) (n : Nat) (f : Cmd → Cmd) : (d.modCmd n f).xlat = d.xlat := rfl
@[simp] theorem Dev.fab_modCmd (d : Dev) (n : Nat) (f : Cmd → Cmd) : (d.modCmd n f).fab = d.fab := rfl
@[simp] theorem Dev.sec_modCmd (d : Dev) (n : Nat) (f : Cmd → Cmd) : (d.modCmd n f).sec = d.sec := rfl
@[simp] theorem Dev.res_modCmd (d : Dev) (n : Nat) (f : Cmd → Cmd) : (d.modCmd n f).res = d.res := rfl
@[simp] theorem Dev.pow_modCmd (d : Dev) (n : Nat) (f : Cmd → Cmd) : (d.modCmd n f).pow = d.pow := rfl
@[simp] theorem Dev.msix_modCmd (d : Dev) (n : Nat) (f : Cmd → Cmd) : (d.modCmd n f).msix = d.msix := rfl
@[simp] theorem Dev.reg_modCmd (d : Dev) (n : Nat) (f : Cmd → Cmd) (rn : RegName) (ri : Nat) : (d.modCmd n f).reg rn ri = d.reg rn ri := rfl
@[simp] theorem Dev.fget_modCmd (d : Dev) (n : Nat) (f : Cmd → Cmd) (rf : Fld) (ri : Nat) : (d.modCmd n f).fget rf ri = d.fget rf ri := rfl
@[simp] theorem Dev.fon_modCmd (d : Dev) (n : Nat) (f : Cmd → Cmd) (rf : Fld) (ri : Nat) : (d.modCmd n f).fon rf ri = d.fon rf ri := rfl

/-! ### setSlot -/

@[simp] theorem Dev.regs_setSlot (d : Dev) (n : Nat) (x : Slot) : (d.setSlot n x).regs = d.regs := rfl
@[simp] theorem Dev.rwo_setSlot (d : Dev) (n : Nat) (x : Slot) : (d.setSlot n x).rwo = d.rwo := rfl
@[simp] theorem Dev.mem_setSlot (d : Dev) (n : Nat) (x : Slot) : (d.setSlot n x).mem = d.mem := rfl
@[simp] theorem Dev.poison_setSlot (d : Dev) (n : Nat) (x : Slot) : (d.setSlot n x).poison = d.poison := rfl
@[simp] theorem Dev.free_setSlot (d : Dev) (n : Nat) (x : Slot) : (d.setSlot n x).free = d.free := rfl
@[simp] theorem Dev.out_setSlot (d : Dev) (n : Nat) (x : Slot) : (d.setSlot n x).out = d.out := rfl
@[simp] theorem Dev.ctxs_setSlot (d : Dev) (n : Nat) (x : Slot) : (d.setSlot n x).ctxs = d.ctxs := rfl
@[simp] theorem Dev.ring_setSlot (d : Dev) (n : Nat) (x : Slot) : (d.setSlot n x).ring = d.ring := rfl
@[simp] theorem Dev.time_setSlot (d : Dev) (n : Nat) (x : Slot) : (d.setSlot n x).time = d.time := rfl
@[simp] theorem Dev.arb_setSlot (d : Dev) (n : Nat) (x : Slot) : (d.setSlot n x).arb = d.arb := rfl
@[simp] theorem Dev.eng_setSlot (d : Dev) (n : Nat) (x : Slot) : (d.setSlot n x).eng = d.eng := rfl
@[simp] theorem Dev.tier_setSlot (d : Dev) (n : Nat) (x : Slot) : (d.setSlot n x).tier = d.tier := rfl
@[simp] theorem Dev.cpx_setSlot (d : Dev) (n : Nat) (x : Slot) : (d.setSlot n x).cpx = d.cpx := rfl
@[simp] theorem Dev.coh_setSlot (d : Dev) (n : Nat) (x : Slot) : (d.setSlot n x).coh = d.coh := rfl
@[simp] theorem Dev.tours_setSlot (d : Dev) (n : Nat) (x : Slot) : (d.setSlot n x).tours = d.tours := rfl
@[simp] theorem Dev.xlat_setSlot (d : Dev) (n : Nat) (x : Slot) : (d.setSlot n x).xlat = d.xlat := rfl
@[simp] theorem Dev.fab_setSlot (d : Dev) (n : Nat) (x : Slot) : (d.setSlot n x).fab = d.fab := rfl
@[simp] theorem Dev.sec_setSlot (d : Dev) (n : Nat) (x : Slot) : (d.setSlot n x).sec = d.sec := rfl
@[simp] theorem Dev.res_setSlot (d : Dev) (n : Nat) (x : Slot) : (d.setSlot n x).res = d.res := rfl
@[simp] theorem Dev.pow_setSlot (d : Dev) (n : Nat) (x : Slot) : (d.setSlot n x).pow = d.pow := rfl
@[simp] theorem Dev.msix_setSlot (d : Dev) (n : Nat) (x : Slot) : (d.setSlot n x).msix = d.msix := rfl
@[simp] theorem Dev.reg_setSlot (d : Dev) (n : Nat) (x : Slot) (rn : RegName) (ri : Nat) : (d.setSlot n x).reg rn ri = d.reg rn ri := rfl
@[simp] theorem Dev.fget_setSlot (d : Dev) (n : Nat) (x : Slot) (rf : Fld) (ri : Nat) : (d.setSlot n x).fget rf ri = d.fget rf ri := rfl
@[simp] theorem Dev.fon_setSlot (d : Dev) (n : Nat) (x : Slot) (rf : Fld) (ri : Nat) : (d.setSlot n x).fon rf ri = d.fon rf ri := rfl

/-! ### modSlot -/

@[simp] theorem Dev.regs_modSlot (d : Dev) (n : Nat) (f : Slot → Slot) : (d.modSlot n f).regs = d.regs := rfl
@[simp] theorem Dev.rwo_modSlot (d : Dev) (n : Nat) (f : Slot → Slot) : (d.modSlot n f).rwo = d.rwo := rfl
@[simp] theorem Dev.mem_modSlot (d : Dev) (n : Nat) (f : Slot → Slot) : (d.modSlot n f).mem = d.mem := rfl
@[simp] theorem Dev.poison_modSlot (d : Dev) (n : Nat) (f : Slot → Slot) : (d.modSlot n f).poison = d.poison := rfl
@[simp] theorem Dev.free_modSlot (d : Dev) (n : Nat) (f : Slot → Slot) : (d.modSlot n f).free = d.free := rfl
@[simp] theorem Dev.out_modSlot (d : Dev) (n : Nat) (f : Slot → Slot) : (d.modSlot n f).out = d.out := rfl
@[simp] theorem Dev.ctxs_modSlot (d : Dev) (n : Nat) (f : Slot → Slot) : (d.modSlot n f).ctxs = d.ctxs := rfl
@[simp] theorem Dev.ring_modSlot (d : Dev) (n : Nat) (f : Slot → Slot) : (d.modSlot n f).ring = d.ring := rfl
@[simp] theorem Dev.time_modSlot (d : Dev) (n : Nat) (f : Slot → Slot) : (d.modSlot n f).time = d.time := rfl
@[simp] theorem Dev.arb_modSlot (d : Dev) (n : Nat) (f : Slot → Slot) : (d.modSlot n f).arb = d.arb := rfl
@[simp] theorem Dev.eng_modSlot (d : Dev) (n : Nat) (f : Slot → Slot) : (d.modSlot n f).eng = d.eng := rfl
@[simp] theorem Dev.tier_modSlot (d : Dev) (n : Nat) (f : Slot → Slot) : (d.modSlot n f).tier = d.tier := rfl
@[simp] theorem Dev.cpx_modSlot (d : Dev) (n : Nat) (f : Slot → Slot) : (d.modSlot n f).cpx = d.cpx := rfl
@[simp] theorem Dev.coh_modSlot (d : Dev) (n : Nat) (f : Slot → Slot) : (d.modSlot n f).coh = d.coh := rfl
@[simp] theorem Dev.tours_modSlot (d : Dev) (n : Nat) (f : Slot → Slot) : (d.modSlot n f).tours = d.tours := rfl
@[simp] theorem Dev.xlat_modSlot (d : Dev) (n : Nat) (f : Slot → Slot) : (d.modSlot n f).xlat = d.xlat := rfl
@[simp] theorem Dev.fab_modSlot (d : Dev) (n : Nat) (f : Slot → Slot) : (d.modSlot n f).fab = d.fab := rfl
@[simp] theorem Dev.sec_modSlot (d : Dev) (n : Nat) (f : Slot → Slot) : (d.modSlot n f).sec = d.sec := rfl
@[simp] theorem Dev.res_modSlot (d : Dev) (n : Nat) (f : Slot → Slot) : (d.modSlot n f).res = d.res := rfl
@[simp] theorem Dev.pow_modSlot (d : Dev) (n : Nat) (f : Slot → Slot) : (d.modSlot n f).pow = d.pow := rfl
@[simp] theorem Dev.msix_modSlot (d : Dev) (n : Nat) (f : Slot → Slot) : (d.modSlot n f).msix = d.msix := rfl
@[simp] theorem Dev.reg_modSlot (d : Dev) (n : Nat) (f : Slot → Slot) (rn : RegName) (ri : Nat) : (d.modSlot n f).reg rn ri = d.reg rn ri := rfl
@[simp] theorem Dev.fget_modSlot (d : Dev) (n : Nat) (f : Slot → Slot) (rf : Fld) (ri : Nat) : (d.modSlot n f).fget rf ri = d.fget rf ri := rfl
@[simp] theorem Dev.fon_modSlot (d : Dev) (n : Nat) (f : Slot → Slot) (rf : Fld) (ri : Nat) : (d.modSlot n f).fon rf ri = d.fon rf ri := rfl

/-! ### modPool -/

@[simp] theorem Dev.regs_modPool (d : Dev) (k : Nat) (f : Pool → Pool) : (d.modPool k f).regs = d.regs := rfl
@[simp] theorem Dev.rwo_modPool (d : Dev) (k : Nat) (f : Pool → Pool) : (d.modPool k f).rwo = d.rwo := rfl
@[simp] theorem Dev.mem_modPool (d : Dev) (k : Nat) (f : Pool → Pool) : (d.modPool k f).mem = d.mem := rfl
@[simp] theorem Dev.poison_modPool (d : Dev) (k : Nat) (f : Pool → Pool) : (d.modPool k f).poison = d.poison := rfl
@[simp] theorem Dev.free_modPool (d : Dev) (k : Nat) (f : Pool → Pool) : (d.modPool k f).free = d.free := rfl
@[simp] theorem Dev.out_modPool (d : Dev) (k : Nat) (f : Pool → Pool) : (d.modPool k f).out = d.out := rfl
@[simp] theorem Dev.ctxs_modPool (d : Dev) (k : Nat) (f : Pool → Pool) : (d.modPool k f).ctxs = d.ctxs := rfl
@[simp] theorem Dev.ring_modPool (d : Dev) (k : Nat) (f : Pool → Pool) : (d.modPool k f).ring = d.ring := rfl
@[simp] theorem Dev.time_modPool (d : Dev) (k : Nat) (f : Pool → Pool) : (d.modPool k f).time = d.time := rfl
@[simp] theorem Dev.arb_modPool (d : Dev) (k : Nat) (f : Pool → Pool) : (d.modPool k f).arb = d.arb := rfl
@[simp] theorem Dev.eng_modPool (d : Dev) (k : Nat) (f : Pool → Pool) : (d.modPool k f).eng = d.eng := rfl
@[simp] theorem Dev.tier_modPool (d : Dev) (k : Nat) (f : Pool → Pool) : (d.modPool k f).tier = d.tier := rfl
@[simp] theorem Dev.cpx_modPool (d : Dev) (k : Nat) (f : Pool → Pool) : (d.modPool k f).cpx = d.cpx := rfl
@[simp] theorem Dev.coh_modPool (d : Dev) (k : Nat) (f : Pool → Pool) : (d.modPool k f).coh = d.coh := rfl
@[simp] theorem Dev.tours_modPool (d : Dev) (k : Nat) (f : Pool → Pool) : (d.modPool k f).tours = d.tours := rfl
@[simp] theorem Dev.xlat_modPool (d : Dev) (k : Nat) (f : Pool → Pool) : (d.modPool k f).xlat = d.xlat := rfl
@[simp] theorem Dev.fab_modPool (d : Dev) (k : Nat) (f : Pool → Pool) : (d.modPool k f).fab = d.fab := rfl
@[simp] theorem Dev.sec_modPool (d : Dev) (k : Nat) (f : Pool → Pool) : (d.modPool k f).sec = d.sec := rfl
@[simp] theorem Dev.res_modPool (d : Dev) (k : Nat) (f : Pool → Pool) : (d.modPool k f).res = d.res := rfl
@[simp] theorem Dev.pow_modPool (d : Dev) (k : Nat) (f : Pool → Pool) : (d.modPool k f).pow = d.pow := rfl
@[simp] theorem Dev.msix_modPool (d : Dev) (k : Nat) (f : Pool → Pool) : (d.modPool k f).msix = d.msix := rfl
@[simp] theorem Dev.reg_modPool (d : Dev) (k : Nat) (f : Pool → Pool) (rn : RegName) (ri : Nat) : (d.modPool k f).reg rn ri = d.reg rn ri := rfl
@[simp] theorem Dev.fget_modPool (d : Dev) (k : Nat) (f : Pool → Pool) (rf : Fld) (ri : Nat) : (d.modPool k f).fget rf ri = d.fget rf ri := rfl
@[simp] theorem Dev.fon_modPool (d : Dev) (k : Nat) (f : Pool → Pool) (rf : Fld) (ri : Nat) : (d.modPool k f).fon rf ri = d.fon rf ri := rfl

/-! ### modWin -/

@[simp] theorem Dev.regs_modWin (d : Dev) (w : Nat) (f : Win → Win) : (d.modWin w f).regs = d.regs := rfl
@[simp] theorem Dev.rwo_modWin (d : Dev) (w : Nat) (f : Win → Win) : (d.modWin w f).rwo = d.rwo := rfl
@[simp] theorem Dev.mem_modWin (d : Dev) (w : Nat) (f : Win → Win) : (d.modWin w f).mem = d.mem := rfl
@[simp] theorem Dev.poison_modWin (d : Dev) (w : Nat) (f : Win → Win) : (d.modWin w f).poison = d.poison := rfl
@[simp] theorem Dev.free_modWin (d : Dev) (w : Nat) (f : Win → Win) : (d.modWin w f).free = d.free := rfl
@[simp] theorem Dev.out_modWin (d : Dev) (w : Nat) (f : Win → Win) : (d.modWin w f).out = d.out := rfl
@[simp] theorem Dev.ctxs_modWin (d : Dev) (w : Nat) (f : Win → Win) : (d.modWin w f).ctxs = d.ctxs := rfl
@[simp] theorem Dev.ring_modWin (d : Dev) (w : Nat) (f : Win → Win) : (d.modWin w f).ring = d.ring := rfl
@[simp] theorem Dev.time_modWin (d : Dev) (w : Nat) (f : Win → Win) : (d.modWin w f).time = d.time := rfl
@[simp] theorem Dev.arb_modWin (d : Dev) (w : Nat) (f : Win → Win) : (d.modWin w f).arb = d.arb := rfl
@[simp] theorem Dev.eng_modWin (d : Dev) (w : Nat) (f : Win → Win) : (d.modWin w f).eng = d.eng := rfl
@[simp] theorem Dev.seq_modWin (d : Dev) (w : Nat) (f : Win → Win) : (d.modWin w f).seq = d.seq := rfl
@[simp] theorem Dev.cpx_modWin (d : Dev) (w : Nat) (f : Win → Win) : (d.modWin w f).cpx = d.cpx := rfl
@[simp] theorem Dev.coh_modWin (d : Dev) (w : Nat) (f : Win → Win) : (d.modWin w f).coh = d.coh := rfl
@[simp] theorem Dev.tours_modWin (d : Dev) (w : Nat) (f : Win → Win) : (d.modWin w f).tours = d.tours := rfl
@[simp] theorem Dev.xlat_modWin (d : Dev) (w : Nat) (f : Win → Win) : (d.modWin w f).xlat = d.xlat := rfl
@[simp] theorem Dev.fab_modWin (d : Dev) (w : Nat) (f : Win → Win) : (d.modWin w f).fab = d.fab := rfl
@[simp] theorem Dev.sec_modWin (d : Dev) (w : Nat) (f : Win → Win) : (d.modWin w f).sec = d.sec := rfl
@[simp] theorem Dev.res_modWin (d : Dev) (w : Nat) (f : Win → Win) : (d.modWin w f).res = d.res := rfl
@[simp] theorem Dev.pow_modWin (d : Dev) (w : Nat) (f : Win → Win) : (d.modWin w f).pow = d.pow := rfl
@[simp] theorem Dev.msix_modWin (d : Dev) (w : Nat) (f : Win → Win) : (d.modWin w f).msix = d.msix := rfl
@[simp] theorem Dev.reg_modWin (d : Dev) (w : Nat) (f : Win → Win) (rn : RegName) (ri : Nat) : (d.modWin w f).reg rn ri = d.reg rn ri := rfl
@[simp] theorem Dev.fget_modWin (d : Dev) (w : Nat) (f : Win → Win) (rf : Fld) (ri : Nat) : (d.modWin w f).fget rf ri = d.fget rf ri := rfl
@[simp] theorem Dev.fon_modWin (d : Dev) (w : Nat) (f : Win → Win) (rf : Fld) (ri : Nat) : (d.modWin w f).fon rf ri = d.fon rf ri := rfl

/-! ### setCore -/

@[simp] theorem Dev.regs_setCore (d : Dev) (k : Nat) (c : Core) : (d.setCore k c).regs = d.regs := rfl
@[simp] theorem Dev.rwo_setCore (d : Dev) (k : Nat) (c : Core) : (d.setCore k c).rwo = d.rwo := rfl
@[simp] theorem Dev.mem_setCore (d : Dev) (k : Nat) (c : Core) : (d.setCore k c).mem = d.mem := rfl
@[simp] theorem Dev.poison_setCore (d : Dev) (k : Nat) (c : Core) : (d.setCore k c).poison = d.poison := rfl
@[simp] theorem Dev.free_setCore (d : Dev) (k : Nat) (c : Core) : (d.setCore k c).free = d.free := rfl
@[simp] theorem Dev.out_setCore (d : Dev) (k : Nat) (c : Core) : (d.setCore k c).out = d.out := rfl
@[simp] theorem Dev.ctxs_setCore (d : Dev) (k : Nat) (c : Core) : (d.setCore k c).ctxs = d.ctxs := rfl
@[simp] theorem Dev.ring_setCore (d : Dev) (k : Nat) (c : Core) : (d.setCore k c).ring = d.ring := rfl
@[simp] theorem Dev.time_setCore (d : Dev) (k : Nat) (c : Core) : (d.setCore k c).time = d.time := rfl
@[simp] theorem Dev.arb_setCore (d : Dev) (k : Nat) (c : Core) : (d.setCore k c).arb = d.arb := rfl
@[simp] theorem Dev.eng_setCore (d : Dev) (k : Nat) (c : Core) : (d.setCore k c).eng = d.eng := rfl
@[simp] theorem Dev.seq_setCore (d : Dev) (k : Nat) (c : Core) : (d.setCore k c).seq = d.seq := rfl
@[simp] theorem Dev.tier_setCore (d : Dev) (k : Nat) (c : Core) : (d.setCore k c).tier = d.tier := rfl
@[simp] theorem Dev.coh_setCore (d : Dev) (k : Nat) (c : Core) : (d.setCore k c).coh = d.coh := rfl
@[simp] theorem Dev.tours_setCore (d : Dev) (k : Nat) (c : Core) : (d.setCore k c).tours = d.tours := rfl
@[simp] theorem Dev.xlat_setCore (d : Dev) (k : Nat) (c : Core) : (d.setCore k c).xlat = d.xlat := rfl
@[simp] theorem Dev.fab_setCore (d : Dev) (k : Nat) (c : Core) : (d.setCore k c).fab = d.fab := rfl
@[simp] theorem Dev.sec_setCore (d : Dev) (k : Nat) (c : Core) : (d.setCore k c).sec = d.sec := rfl
@[simp] theorem Dev.res_setCore (d : Dev) (k : Nat) (c : Core) : (d.setCore k c).res = d.res := rfl
@[simp] theorem Dev.pow_setCore (d : Dev) (k : Nat) (c : Core) : (d.setCore k c).pow = d.pow := rfl
@[simp] theorem Dev.msix_setCore (d : Dev) (k : Nat) (c : Core) : (d.setCore k c).msix = d.msix := rfl
@[simp] theorem Dev.reg_setCore (d : Dev) (k : Nat) (c : Core) (rn : RegName) (ri : Nat) : (d.setCore k c).reg rn ri = d.reg rn ri := rfl
@[simp] theorem Dev.fget_setCore (d : Dev) (k : Nat) (c : Core) (rf : Fld) (ri : Nat) : (d.setCore k c).fget rf ri = d.fget rf ri := rfl
@[simp] theorem Dev.fon_setCore (d : Dev) (k : Nat) (c : Core) (rf : Fld) (ri : Nat) : (d.setCore k c).fon rf ri = d.fon rf ri := rfl

/-! ### setHart -/

@[simp] theorem Dev.regs_setHart (d : Dev) (h : Nat) (x : Hart) : (d.setHart h x).regs = d.regs := rfl
@[simp] theorem Dev.rwo_setHart (d : Dev) (h : Nat) (x : Hart) : (d.setHart h x).rwo = d.rwo := rfl
@[simp] theorem Dev.mem_setHart (d : Dev) (h : Nat) (x : Hart) : (d.setHart h x).mem = d.mem := rfl
@[simp] theorem Dev.poison_setHart (d : Dev) (h : Nat) (x : Hart) : (d.setHart h x).poison = d.poison := rfl
@[simp] theorem Dev.free_setHart (d : Dev) (h : Nat) (x : Hart) : (d.setHart h x).free = d.free := rfl
@[simp] theorem Dev.out_setHart (d : Dev) (h : Nat) (x : Hart) : (d.setHart h x).out = d.out := rfl
@[simp] theorem Dev.ctxs_setHart (d : Dev) (h : Nat) (x : Hart) : (d.setHart h x).ctxs = d.ctxs := rfl
@[simp] theorem Dev.ring_setHart (d : Dev) (h : Nat) (x : Hart) : (d.setHart h x).ring = d.ring := rfl
@[simp] theorem Dev.time_setHart (d : Dev) (h : Nat) (x : Hart) : (d.setHart h x).time = d.time := rfl
@[simp] theorem Dev.arb_setHart (d : Dev) (h : Nat) (x : Hart) : (d.setHart h x).arb = d.arb := rfl
@[simp] theorem Dev.eng_setHart (d : Dev) (h : Nat) (x : Hart) : (d.setHart h x).eng = d.eng := rfl
@[simp] theorem Dev.seq_setHart (d : Dev) (h : Nat) (x : Hart) : (d.setHart h x).seq = d.seq := rfl
@[simp] theorem Dev.tier_setHart (d : Dev) (h : Nat) (x : Hart) : (d.setHart h x).tier = d.tier := rfl
@[simp] theorem Dev.coh_setHart (d : Dev) (h : Nat) (x : Hart) : (d.setHart h x).coh = d.coh := rfl
@[simp] theorem Dev.tours_setHart (d : Dev) (h : Nat) (x : Hart) : (d.setHart h x).tours = d.tours := rfl
@[simp] theorem Dev.xlat_setHart (d : Dev) (h : Nat) (x : Hart) : (d.setHart h x).xlat = d.xlat := rfl
@[simp] theorem Dev.fab_setHart (d : Dev) (h : Nat) (x : Hart) : (d.setHart h x).fab = d.fab := rfl
@[simp] theorem Dev.sec_setHart (d : Dev) (h : Nat) (x : Hart) : (d.setHart h x).sec = d.sec := rfl
@[simp] theorem Dev.res_setHart (d : Dev) (h : Nat) (x : Hart) : (d.setHart h x).res = d.res := rfl
@[simp] theorem Dev.pow_setHart (d : Dev) (h : Nat) (x : Hart) : (d.setHart h x).pow = d.pow := rfl
@[simp] theorem Dev.msix_setHart (d : Dev) (h : Nat) (x : Hart) : (d.setHart h x).msix = d.msix := rfl
@[simp] theorem Dev.reg_setHart (d : Dev) (h : Nat) (x : Hart) (rn : RegName) (ri : Nat) : (d.setHart h x).reg rn ri = d.reg rn ri := rfl
@[simp] theorem Dev.fget_setHart (d : Dev) (h : Nat) (x : Hart) (rf : Fld) (ri : Nat) : (d.setHart h x).fget rf ri = d.fget rf ri := rfl
@[simp] theorem Dev.fon_setHart (d : Dev) (h : Nat) (x : Hart) (rf : Fld) (ri : Nat) : (d.setHart h x).fon rf ri = d.fon rf ri := rfl

/-! ### modHart -/

@[simp] theorem Dev.regs_modHart (d : Dev) (h : Nat) (f : Hart → Hart) : (d.modHart h f).regs = d.regs := rfl
@[simp] theorem Dev.rwo_modHart (d : Dev) (h : Nat) (f : Hart → Hart) : (d.modHart h f).rwo = d.rwo := rfl
@[simp] theorem Dev.mem_modHart (d : Dev) (h : Nat) (f : Hart → Hart) : (d.modHart h f).mem = d.mem := rfl
@[simp] theorem Dev.poison_modHart (d : Dev) (h : Nat) (f : Hart → Hart) : (d.modHart h f).poison = d.poison := rfl
@[simp] theorem Dev.free_modHart (d : Dev) (h : Nat) (f : Hart → Hart) : (d.modHart h f).free = d.free := rfl
@[simp] theorem Dev.out_modHart (d : Dev) (h : Nat) (f : Hart → Hart) : (d.modHart h f).out = d.out := rfl
@[simp] theorem Dev.ctxs_modHart (d : Dev) (h : Nat) (f : Hart → Hart) : (d.modHart h f).ctxs = d.ctxs := rfl
@[simp] theorem Dev.ring_modHart (d : Dev) (h : Nat) (f : Hart → Hart) : (d.modHart h f).ring = d.ring := rfl
@[simp] theorem Dev.time_modHart (d : Dev) (h : Nat) (f : Hart → Hart) : (d.modHart h f).time = d.time := rfl
@[simp] theorem Dev.arb_modHart (d : Dev) (h : Nat) (f : Hart → Hart) : (d.modHart h f).arb = d.arb := rfl
@[simp] theorem Dev.eng_modHart (d : Dev) (h : Nat) (f : Hart → Hart) : (d.modHart h f).eng = d.eng := rfl
@[simp] theorem Dev.seq_modHart (d : Dev) (h : Nat) (f : Hart → Hart) : (d.modHart h f).seq = d.seq := rfl
@[simp] theorem Dev.tier_modHart (d : Dev) (h : Nat) (f : Hart → Hart) : (d.modHart h f).tier = d.tier := rfl
@[simp] theorem Dev.coh_modHart (d : Dev) (h : Nat) (f : Hart → Hart) : (d.modHart h f).coh = d.coh := rfl
@[simp] theorem Dev.tours_modHart (d : Dev) (h : Nat) (f : Hart → Hart) : (d.modHart h f).tours = d.tours := rfl
@[simp] theorem Dev.xlat_modHart (d : Dev) (h : Nat) (f : Hart → Hart) : (d.modHart h f).xlat = d.xlat := rfl
@[simp] theorem Dev.fab_modHart (d : Dev) (h : Nat) (f : Hart → Hart) : (d.modHart h f).fab = d.fab := rfl
@[simp] theorem Dev.sec_modHart (d : Dev) (h : Nat) (f : Hart → Hart) : (d.modHart h f).sec = d.sec := rfl
@[simp] theorem Dev.res_modHart (d : Dev) (h : Nat) (f : Hart → Hart) : (d.modHart h f).res = d.res := rfl
@[simp] theorem Dev.pow_modHart (d : Dev) (h : Nat) (f : Hart → Hart) : (d.modHart h f).pow = d.pow := rfl
@[simp] theorem Dev.msix_modHart (d : Dev) (h : Nat) (f : Hart → Hart) : (d.modHart h f).msix = d.msix := rfl
@[simp] theorem Dev.reg_modHart (d : Dev) (h : Nat) (f : Hart → Hart) (rn : RegName) (ri : Nat) : (d.modHart h f).reg rn ri = d.reg rn ri := rfl
@[simp] theorem Dev.fget_modHart (d : Dev) (h : Nat) (f : Hart → Hart) (rf : Fld) (ri : Nat) : (d.modHart h f).fget rf ri = d.fget rf ri := rfl
@[simp] theorem Dev.fon_modHart (d : Dev) (h : Nat) (f : Hart → Hart) (rf : Fld) (ri : Nat) : (d.modHart h f).fon rf ri = d.fon rf ri := rfl

/-! ### modDir -/

@[simp] theorem Dev.regs_modDir (d : Dev) (k : Nat) (f : DirEnt → DirEnt) : (d.modDir k f).regs = d.regs := rfl
@[simp] theorem Dev.rwo_modDir (d : Dev) (k : Nat) (f : DirEnt → DirEnt) : (d.modDir k f).rwo = d.rwo := rfl
@[simp] theorem Dev.mem_modDir (d : Dev) (k : Nat) (f : DirEnt → DirEnt) : (d.modDir k f).mem = d.mem := rfl
@[simp] theorem Dev.poison_modDir (d : Dev) (k : Nat) (f : DirEnt → DirEnt) : (d.modDir k f).poison = d.poison := rfl
@[simp] theorem Dev.free_modDir (d : Dev) (k : Nat) (f : DirEnt → DirEnt) : (d.modDir k f).free = d.free := rfl
@[simp] theorem Dev.out_modDir (d : Dev) (k : Nat) (f : DirEnt → DirEnt) : (d.modDir k f).out = d.out := rfl
@[simp] theorem Dev.ctxs_modDir (d : Dev) (k : Nat) (f : DirEnt → DirEnt) : (d.modDir k f).ctxs = d.ctxs := rfl
@[simp] theorem Dev.ring_modDir (d : Dev) (k : Nat) (f : DirEnt → DirEnt) : (d.modDir k f).ring = d.ring := rfl
@[simp] theorem Dev.time_modDir (d : Dev) (k : Nat) (f : DirEnt → DirEnt) : (d.modDir k f).time = d.time := rfl
@[simp] theorem Dev.arb_modDir (d : Dev) (k : Nat) (f : DirEnt → DirEnt) : (d.modDir k f).arb = d.arb := rfl
@[simp] theorem Dev.eng_modDir (d : Dev) (k : Nat) (f : DirEnt → DirEnt) : (d.modDir k f).eng = d.eng := rfl
@[simp] theorem Dev.seq_modDir (d : Dev) (k : Nat) (f : DirEnt → DirEnt) : (d.modDir k f).seq = d.seq := rfl
@[simp] theorem Dev.tier_modDir (d : Dev) (k : Nat) (f : DirEnt → DirEnt) : (d.modDir k f).tier = d.tier := rfl
@[simp] theorem Dev.cpx_modDir (d : Dev) (k : Nat) (f : DirEnt → DirEnt) : (d.modDir k f).cpx = d.cpx := rfl
@[simp] theorem Dev.tours_modDir (d : Dev) (k : Nat) (f : DirEnt → DirEnt) : (d.modDir k f).tours = d.tours := rfl
@[simp] theorem Dev.xlat_modDir (d : Dev) (k : Nat) (f : DirEnt → DirEnt) : (d.modDir k f).xlat = d.xlat := rfl
@[simp] theorem Dev.fab_modDir (d : Dev) (k : Nat) (f : DirEnt → DirEnt) : (d.modDir k f).fab = d.fab := rfl
@[simp] theorem Dev.sec_modDir (d : Dev) (k : Nat) (f : DirEnt → DirEnt) : (d.modDir k f).sec = d.sec := rfl
@[simp] theorem Dev.res_modDir (d : Dev) (k : Nat) (f : DirEnt → DirEnt) : (d.modDir k f).res = d.res := rfl
@[simp] theorem Dev.pow_modDir (d : Dev) (k : Nat) (f : DirEnt → DirEnt) : (d.modDir k f).pow = d.pow := rfl
@[simp] theorem Dev.msix_modDir (d : Dev) (k : Nat) (f : DirEnt → DirEnt) : (d.modDir k f).msix = d.msix := rfl
@[simp] theorem Dev.reg_modDir (d : Dev) (k : Nat) (f : DirEnt → DirEnt) (rn : RegName) (ri : Nat) : (d.modDir k f).reg rn ri = d.reg rn ri := rfl
@[simp] theorem Dev.fget_modDir (d : Dev) (k : Nat) (f : DirEnt → DirEnt) (rf : Fld) (ri : Nat) : (d.modDir k f).fget rf ri = d.fget rf ri := rfl
@[simp] theorem Dev.fon_modDir (d : Dev) (k : Nat) (f : DirEnt → DirEnt) (rf : Fld) (ri : Nat) : (d.modDir k f).fon rf ri = d.fon rf ri := rfl

/-! ### setTlb -/

@[simp] theorem Dev.regs_setTlb (d : Dev) (u : Nat) (l : List TlbEntry) : (d.setTlb u l).regs = d.regs := rfl
@[simp] theorem Dev.rwo_setTlb (d : Dev) (u : Nat) (l : List TlbEntry) : (d.setTlb u l).rwo = d.rwo := rfl
@[simp] theorem Dev.mem_setTlb (d : Dev) (u : Nat) (l : List TlbEntry) : (d.setTlb u l).mem = d.mem := rfl
@[simp] theorem Dev.poison_setTlb (d : Dev) (u : Nat) (l : List TlbEntry) : (d.setTlb u l).poison = d.poison := rfl
@[simp] theorem Dev.free_setTlb (d : Dev) (u : Nat) (l : List TlbEntry) : (d.setTlb u l).free = d.free := rfl
@[simp] theorem Dev.out_setTlb (d : Dev) (u : Nat) (l : List TlbEntry) : (d.setTlb u l).out = d.out := rfl
@[simp] theorem Dev.ctxs_setTlb (d : Dev) (u : Nat) (l : List TlbEntry) : (d.setTlb u l).ctxs = d.ctxs := rfl
@[simp] theorem Dev.ring_setTlb (d : Dev) (u : Nat) (l : List TlbEntry) : (d.setTlb u l).ring = d.ring := rfl
@[simp] theorem Dev.time_setTlb (d : Dev) (u : Nat) (l : List TlbEntry) : (d.setTlb u l).time = d.time := rfl
@[simp] theorem Dev.arb_setTlb (d : Dev) (u : Nat) (l : List TlbEntry) : (d.setTlb u l).arb = d.arb := rfl
@[simp] theorem Dev.eng_setTlb (d : Dev) (u : Nat) (l : List TlbEntry) : (d.setTlb u l).eng = d.eng := rfl
@[simp] theorem Dev.seq_setTlb (d : Dev) (u : Nat) (l : List TlbEntry) : (d.setTlb u l).seq = d.seq := rfl
@[simp] theorem Dev.tier_setTlb (d : Dev) (u : Nat) (l : List TlbEntry) : (d.setTlb u l).tier = d.tier := rfl
@[simp] theorem Dev.cpx_setTlb (d : Dev) (u : Nat) (l : List TlbEntry) : (d.setTlb u l).cpx = d.cpx := rfl
@[simp] theorem Dev.coh_setTlb (d : Dev) (u : Nat) (l : List TlbEntry) : (d.setTlb u l).coh = d.coh := rfl
@[simp] theorem Dev.tours_setTlb (d : Dev) (u : Nat) (l : List TlbEntry) : (d.setTlb u l).tours = d.tours := rfl
@[simp] theorem Dev.fab_setTlb (d : Dev) (u : Nat) (l : List TlbEntry) : (d.setTlb u l).fab = d.fab := rfl
@[simp] theorem Dev.sec_setTlb (d : Dev) (u : Nat) (l : List TlbEntry) : (d.setTlb u l).sec = d.sec := rfl
@[simp] theorem Dev.res_setTlb (d : Dev) (u : Nat) (l : List TlbEntry) : (d.setTlb u l).res = d.res := rfl
@[simp] theorem Dev.pow_setTlb (d : Dev) (u : Nat) (l : List TlbEntry) : (d.setTlb u l).pow = d.pow := rfl
@[simp] theorem Dev.msix_setTlb (d : Dev) (u : Nat) (l : List TlbEntry) : (d.setTlb u l).msix = d.msix := rfl
@[simp] theorem Dev.reg_setTlb (d : Dev) (u : Nat) (l : List TlbEntry) (rn : RegName) (ri : Nat) : (d.setTlb u l).reg rn ri = d.reg rn ri := rfl
@[simp] theorem Dev.fget_setTlb (d : Dev) (u : Nat) (l : List TlbEntry) (rf : Fld) (ri : Nat) : (d.setTlb u l).fget rf ri = d.fget rf ri := rfl
@[simp] theorem Dev.fon_setTlb (d : Dev) (u : Nat) (l : List TlbEntry) (rf : Fld) (ri : Nat) : (d.setTlb u l).fon rf ri = d.fon rf ri := rfl

/-! ### setPeer -/

@[simp] theorem Dev.regs_setPeer (d : Dev) (a n : Nat) (p : Peer) : (d.setPeer a n p).regs = d.regs := rfl
@[simp] theorem Dev.rwo_setPeer (d : Dev) (a n : Nat) (p : Peer) : (d.setPeer a n p).rwo = d.rwo := rfl
@[simp] theorem Dev.mem_setPeer (d : Dev) (a n : Nat) (p : Peer) : (d.setPeer a n p).mem = d.mem := rfl
@[simp] theorem Dev.poison_setPeer (d : Dev) (a n : Nat) (p : Peer) : (d.setPeer a n p).poison = d.poison := rfl
@[simp] theorem Dev.free_setPeer (d : Dev) (a n : Nat) (p : Peer) : (d.setPeer a n p).free = d.free := rfl
@[simp] theorem Dev.out_setPeer (d : Dev) (a n : Nat) (p : Peer) : (d.setPeer a n p).out = d.out := rfl
@[simp] theorem Dev.ctxs_setPeer (d : Dev) (a n : Nat) (p : Peer) : (d.setPeer a n p).ctxs = d.ctxs := rfl
@[simp] theorem Dev.ring_setPeer (d : Dev) (a n : Nat) (p : Peer) : (d.setPeer a n p).ring = d.ring := rfl
@[simp] theorem Dev.time_setPeer (d : Dev) (a n : Nat) (p : Peer) : (d.setPeer a n p).time = d.time := rfl
@[simp] theorem Dev.arb_setPeer (d : Dev) (a n : Nat) (p : Peer) : (d.setPeer a n p).arb = d.arb := rfl
@[simp] theorem Dev.eng_setPeer (d : Dev) (a n : Nat) (p : Peer) : (d.setPeer a n p).eng = d.eng := rfl
@[simp] theorem Dev.seq_setPeer (d : Dev) (a n : Nat) (p : Peer) : (d.setPeer a n p).seq = d.seq := rfl
@[simp] theorem Dev.tier_setPeer (d : Dev) (a n : Nat) (p : Peer) : (d.setPeer a n p).tier = d.tier := rfl
@[simp] theorem Dev.cpx_setPeer (d : Dev) (a n : Nat) (p : Peer) : (d.setPeer a n p).cpx = d.cpx := rfl
@[simp] theorem Dev.coh_setPeer (d : Dev) (a n : Nat) (p : Peer) : (d.setPeer a n p).coh = d.coh := rfl
@[simp] theorem Dev.tours_setPeer (d : Dev) (a n : Nat) (p : Peer) : (d.setPeer a n p).tours = d.tours := rfl
@[simp] theorem Dev.xlat_setPeer (d : Dev) (a n : Nat) (p : Peer) : (d.setPeer a n p).xlat = d.xlat := rfl
@[simp] theorem Dev.sec_setPeer (d : Dev) (a n : Nat) (p : Peer) : (d.setPeer a n p).sec = d.sec := rfl
@[simp] theorem Dev.res_setPeer (d : Dev) (a n : Nat) (p : Peer) : (d.setPeer a n p).res = d.res := rfl
@[simp] theorem Dev.pow_setPeer (d : Dev) (a n : Nat) (p : Peer) : (d.setPeer a n p).pow = d.pow := rfl
@[simp] theorem Dev.msix_setPeer (d : Dev) (a n : Nat) (p : Peer) : (d.setPeer a n p).msix = d.msix := rfl
@[simp] theorem Dev.reg_setPeer (d : Dev) (a n : Nat) (p : Peer) (rn : RegName) (ri : Nat) : (d.setPeer a n p).reg rn ri = d.reg rn ri := rfl
@[simp] theorem Dev.fget_setPeer (d : Dev) (a n : Nat) (p : Peer) (rf : Fld) (ri : Nat) : (d.setPeer a n p).fget rf ri = d.fget rf ri := rfl
@[simp] theorem Dev.fon_setPeer (d : Dev) (a n : Nat) (p : Peer) (rf : Fld) (ri : Nat) : (d.setPeer a n p).fon rf ri = d.fon rf ri := rfl

/-! ### setFabPort -/

@[simp] theorem Dev.regs_setFabPort (d : Dev) (p : Nat) (x : FabPort) : (d.setFabPort p x).regs = d.regs := rfl
@[simp] theorem Dev.rwo_setFabPort (d : Dev) (p : Nat) (x : FabPort) : (d.setFabPort p x).rwo = d.rwo := rfl
@[simp] theorem Dev.mem_setFabPort (d : Dev) (p : Nat) (x : FabPort) : (d.setFabPort p x).mem = d.mem := rfl
@[simp] theorem Dev.poison_setFabPort (d : Dev) (p : Nat) (x : FabPort) : (d.setFabPort p x).poison = d.poison := rfl
@[simp] theorem Dev.free_setFabPort (d : Dev) (p : Nat) (x : FabPort) : (d.setFabPort p x).free = d.free := rfl
@[simp] theorem Dev.out_setFabPort (d : Dev) (p : Nat) (x : FabPort) : (d.setFabPort p x).out = d.out := rfl
@[simp] theorem Dev.ctxs_setFabPort (d : Dev) (p : Nat) (x : FabPort) : (d.setFabPort p x).ctxs = d.ctxs := rfl
@[simp] theorem Dev.ring_setFabPort (d : Dev) (p : Nat) (x : FabPort) : (d.setFabPort p x).ring = d.ring := rfl
@[simp] theorem Dev.time_setFabPort (d : Dev) (p : Nat) (x : FabPort) : (d.setFabPort p x).time = d.time := rfl
@[simp] theorem Dev.arb_setFabPort (d : Dev) (p : Nat) (x : FabPort) : (d.setFabPort p x).arb = d.arb := rfl
@[simp] theorem Dev.eng_setFabPort (d : Dev) (p : Nat) (x : FabPort) : (d.setFabPort p x).eng = d.eng := rfl
@[simp] theorem Dev.seq_setFabPort (d : Dev) (p : Nat) (x : FabPort) : (d.setFabPort p x).seq = d.seq := rfl
@[simp] theorem Dev.tier_setFabPort (d : Dev) (p : Nat) (x : FabPort) : (d.setFabPort p x).tier = d.tier := rfl
@[simp] theorem Dev.cpx_setFabPort (d : Dev) (p : Nat) (x : FabPort) : (d.setFabPort p x).cpx = d.cpx := rfl
@[simp] theorem Dev.coh_setFabPort (d : Dev) (p : Nat) (x : FabPort) : (d.setFabPort p x).coh = d.coh := rfl
@[simp] theorem Dev.tours_setFabPort (d : Dev) (p : Nat) (x : FabPort) : (d.setFabPort p x).tours = d.tours := rfl
@[simp] theorem Dev.xlat_setFabPort (d : Dev) (p : Nat) (x : FabPort) : (d.setFabPort p x).xlat = d.xlat := rfl
@[simp] theorem Dev.sec_setFabPort (d : Dev) (p : Nat) (x : FabPort) : (d.setFabPort p x).sec = d.sec := rfl
@[simp] theorem Dev.res_setFabPort (d : Dev) (p : Nat) (x : FabPort) : (d.setFabPort p x).res = d.res := rfl
@[simp] theorem Dev.pow_setFabPort (d : Dev) (p : Nat) (x : FabPort) : (d.setFabPort p x).pow = d.pow := rfl
@[simp] theorem Dev.msix_setFabPort (d : Dev) (p : Nat) (x : FabPort) : (d.setFabPort p x).msix = d.msix := rfl
@[simp] theorem Dev.reg_setFabPort (d : Dev) (p : Nat) (x : FabPort) (rn : RegName) (ri : Nat) : (d.setFabPort p x).reg rn ri = d.reg rn ri := rfl
@[simp] theorem Dev.fget_setFabPort (d : Dev) (p : Nat) (x : FabPort) (rf : Fld) (ri : Nat) : (d.setFabPort p x).fget rf ri = d.fget rf ri := rfl
@[simp] theorem Dev.fon_setFabPort (d : Dev) (p : Nat) (x : FabPort) (rf : Fld) (ri : Nat) : (d.setFabPort p x).fon rf ri = d.fon rf ri := rfl

/-! ### setConn -/

@[simp] theorem Dev.regs_setConn (d : Dev) (c : Nat) (x : Spdm) : (d.setConn c x).regs = d.regs := rfl
@[simp] theorem Dev.rwo_setConn (d : Dev) (c : Nat) (x : Spdm) : (d.setConn c x).rwo = d.rwo := rfl
@[simp] theorem Dev.mem_setConn (d : Dev) (c : Nat) (x : Spdm) : (d.setConn c x).mem = d.mem := rfl
@[simp] theorem Dev.poison_setConn (d : Dev) (c : Nat) (x : Spdm) : (d.setConn c x).poison = d.poison := rfl
@[simp] theorem Dev.free_setConn (d : Dev) (c : Nat) (x : Spdm) : (d.setConn c x).free = d.free := rfl
@[simp] theorem Dev.out_setConn (d : Dev) (c : Nat) (x : Spdm) : (d.setConn c x).out = d.out := rfl
@[simp] theorem Dev.ctxs_setConn (d : Dev) (c : Nat) (x : Spdm) : (d.setConn c x).ctxs = d.ctxs := rfl
@[simp] theorem Dev.ring_setConn (d : Dev) (c : Nat) (x : Spdm) : (d.setConn c x).ring = d.ring := rfl
@[simp] theorem Dev.time_setConn (d : Dev) (c : Nat) (x : Spdm) : (d.setConn c x).time = d.time := rfl
@[simp] theorem Dev.arb_setConn (d : Dev) (c : Nat) (x : Spdm) : (d.setConn c x).arb = d.arb := rfl
@[simp] theorem Dev.eng_setConn (d : Dev) (c : Nat) (x : Spdm) : (d.setConn c x).eng = d.eng := rfl
@[simp] theorem Dev.seq_setConn (d : Dev) (c : Nat) (x : Spdm) : (d.setConn c x).seq = d.seq := rfl
@[simp] theorem Dev.tier_setConn (d : Dev) (c : Nat) (x : Spdm) : (d.setConn c x).tier = d.tier := rfl
@[simp] theorem Dev.cpx_setConn (d : Dev) (c : Nat) (x : Spdm) : (d.setConn c x).cpx = d.cpx := rfl
@[simp] theorem Dev.coh_setConn (d : Dev) (c : Nat) (x : Spdm) : (d.setConn c x).coh = d.coh := rfl
@[simp] theorem Dev.tours_setConn (d : Dev) (c : Nat) (x : Spdm) : (d.setConn c x).tours = d.tours := rfl
@[simp] theorem Dev.xlat_setConn (d : Dev) (c : Nat) (x : Spdm) : (d.setConn c x).xlat = d.xlat := rfl
@[simp] theorem Dev.fab_setConn (d : Dev) (c : Nat) (x : Spdm) : (d.setConn c x).fab = d.fab := rfl
@[simp] theorem Dev.res_setConn (d : Dev) (c : Nat) (x : Spdm) : (d.setConn c x).res = d.res := rfl
@[simp] theorem Dev.pow_setConn (d : Dev) (c : Nat) (x : Spdm) : (d.setConn c x).pow = d.pow := rfl
@[simp] theorem Dev.msix_setConn (d : Dev) (c : Nat) (x : Spdm) : (d.setConn c x).msix = d.msix := rfl
@[simp] theorem Dev.reg_setConn (d : Dev) (c : Nat) (x : Spdm) (rn : RegName) (ri : Nat) : (d.setConn c x).reg rn ri = d.reg rn ri := rfl
@[simp] theorem Dev.fget_setConn (d : Dev) (c : Nat) (x : Spdm) (rf : Fld) (ri : Nat) : (d.setConn c x).fget rf ri = d.fget rf ri := rfl
@[simp] theorem Dev.fon_setConn (d : Dev) (c : Nat) (x : Spdm) (rf : Fld) (ri : Nat) : (d.setConn c x).fon rf ri = d.fon rf ri := rfl

/-! ### Tables that an update leaves -/

@[simp] theorem Dev.ctx_modRing (d : Dev) (m : RingSt → RingSt) (k1 : Nat) : (d.modRing m).ctx k1 = d.ctx k1 := by simp only [Dev.ctx, Dev.ctxs_modRing]
@[simp] theorem Dev.evSrc_modRing (d : Dev) (m : RingSt → RingSt) (k1 : Nat) : (d.modRing m).evSrc k1 = d.evSrc k1 := by simp only [Dev.evSrc, Dev.arb_modRing]
@[simp] theorem Dev.arbPair_modRing (d : Dev) (m : RingSt → RingSt) (k1 : Nat) : (d.modRing m).arbPair k1 = d.arbPair k1 := by simp only [Dev.arbPair, Dev.arb_modRing]
@[simp] theorem Dev.wheel_modRing (d : Dev) (m : RingSt → RingSt) (k1 : Nat) : (d.modRing m).wheel k1 = d.wheel k1 := by simp only [Dev.wheel, Dev.time_modRing]
@[simp] theorem Dev.ce_modRing (d : Dev) (m : RingSt → RingSt) (k1 : Nat) : (d.modRing m).ce k1 = d.ce k1 := by simp only [Dev.ce, Dev.eng_modRing]
@[simp] theorem Dev.launch?_modRing (d : Dev) (m : RingSt → RingSt) (k1 : Nat) : (d.modRing m).launch? k1 = d.launch? k1 := by simp only [Dev.launch?, Dev.eng_modRing]
@[simp] theorem Dev.member?_modRing (d : Dev) (m : RingSt → RingSt) (k1 k2 : Nat) : (d.modRing m).member? k1 k2 = d.member? k1 k2 := by simp only [Dev.member?, Dev.eng_modRing]
@[simp] theorem Dev.slot_modRing (d : Dev) (m : RingSt → RingSt) (k1 : Nat) : (d.modRing m).slot k1 = d.slot k1 := by simp only [Dev.slot, Dev.seq_modRing]
@[simp] theorem Dev.pool_modRing (d : Dev) (m : RingSt → RingSt) (k1 : Nat) : (d.modRing m).pool k1 = d.pool k1 := by simp only [Dev.pool, Dev.seq_modRing]
@[simp] theorem Dev.core_modRing (d : Dev) (m : RingSt → RingSt) (k1 : Nat) : (d.modRing m).core k1 = d.core k1 := by simp only [Dev.core, Dev.cpx_modRing]
@[simp] theorem Dev.hart_modRing (d : Dev) (m : RingSt → RingSt) (k1 : Nat) : (d.modRing m).hart k1 = d.hart k1 := by simp only [Dev.hart, Dev.cpx_modRing]
@[simp] theorem Dev.dirEnt_modRing (d : Dev) (m : RingSt → RingSt) (k1 : Nat) : (d.modRing m).dirEnt k1 = d.dirEnt k1 := by simp only [Dev.dirEnt, Dev.coh_modRing]
@[simp] theorem Dev.tlb_modRing (d : Dev) (m : RingSt → RingSt) (k1 : Nat) : (d.modRing m).tlb k1 = d.tlb k1 := by simp only [Dev.tlb, Dev.xlat_modRing]
@[simp] theorem Dev.peer_modRing (d : Dev) (m : RingSt → RingSt) (k1 k2 : Nat) : (d.modRing m).peer k1 k2 = d.peer k1 k2 := by simp only [Dev.peer, Dev.fab_modRing]
@[simp] theorem Dev.fabPort_modRing (d : Dev) (m : RingSt → RingSt) (k1 : Nat) : (d.modRing m).fabPort k1 = d.fabPort k1 := by simp only [Dev.fabPort, Dev.fab_modRing]
@[simp] theorem Dev.conn_modRing (d : Dev) (m : RingSt → RingSt) (k1 : Nat) : (d.modRing m).conn k1 = d.conn k1 := by simp only [Dev.conn, Dev.sec_modRing]
@[simp] theorem Dev.ctx_modTime (d : Dev) (m : TimeSt → TimeSt) (k1 : Nat) : (d.modTime m).ctx k1 = d.ctx k1 := by simp only [Dev.ctx, Dev.ctxs_modTime]
@[simp] theorem Dev.pair_modTime (d : Dev) (m : TimeSt → TimeSt) (k1 : Nat) : (d.modTime m).pair k1 = d.pair k1 := by simp only [Dev.pair, Dev.ring_modTime]
@[simp] theorem Dev.evSrc_modTime (d : Dev) (m : TimeSt → TimeSt) (k1 : Nat) : (d.modTime m).evSrc k1 = d.evSrc k1 := by simp only [Dev.evSrc, Dev.arb_modTime]
@[simp] theorem Dev.arbPair_modTime (d : Dev) (m : TimeSt → TimeSt) (k1 : Nat) : (d.modTime m).arbPair k1 = d.arbPair k1 := by simp only [Dev.arbPair, Dev.arb_modTime]
@[simp] theorem Dev.ce_modTime (d : Dev) (m : TimeSt → TimeSt) (k1 : Nat) : (d.modTime m).ce k1 = d.ce k1 := by simp only [Dev.ce, Dev.eng_modTime]
@[simp] theorem Dev.launch?_modTime (d : Dev) (m : TimeSt → TimeSt) (k1 : Nat) : (d.modTime m).launch? k1 = d.launch? k1 := by simp only [Dev.launch?, Dev.eng_modTime]
@[simp] theorem Dev.member?_modTime (d : Dev) (m : TimeSt → TimeSt) (k1 k2 : Nat) : (d.modTime m).member? k1 k2 = d.member? k1 k2 := by simp only [Dev.member?, Dev.eng_modTime]
@[simp] theorem Dev.slot_modTime (d : Dev) (m : TimeSt → TimeSt) (k1 : Nat) : (d.modTime m).slot k1 = d.slot k1 := by simp only [Dev.slot, Dev.seq_modTime]
@[simp] theorem Dev.pool_modTime (d : Dev) (m : TimeSt → TimeSt) (k1 : Nat) : (d.modTime m).pool k1 = d.pool k1 := by simp only [Dev.pool, Dev.seq_modTime]
@[simp] theorem Dev.core_modTime (d : Dev) (m : TimeSt → TimeSt) (k1 : Nat) : (d.modTime m).core k1 = d.core k1 := by simp only [Dev.core, Dev.cpx_modTime]
@[simp] theorem Dev.hart_modTime (d : Dev) (m : TimeSt → TimeSt) (k1 : Nat) : (d.modTime m).hart k1 = d.hart k1 := by simp only [Dev.hart, Dev.cpx_modTime]
@[simp] theorem Dev.dirEnt_modTime (d : Dev) (m : TimeSt → TimeSt) (k1 : Nat) : (d.modTime m).dirEnt k1 = d.dirEnt k1 := by simp only [Dev.dirEnt, Dev.coh_modTime]
@[simp] theorem Dev.tlb_modTime (d : Dev) (m : TimeSt → TimeSt) (k1 : Nat) : (d.modTime m).tlb k1 = d.tlb k1 := by simp only [Dev.tlb, Dev.xlat_modTime]
@[simp] theorem Dev.peer_modTime (d : Dev) (m : TimeSt → TimeSt) (k1 k2 : Nat) : (d.modTime m).peer k1 k2 = d.peer k1 k2 := by simp only [Dev.peer, Dev.fab_modTime]
@[simp] theorem Dev.fabPort_modTime (d : Dev) (m : TimeSt → TimeSt) (k1 : Nat) : (d.modTime m).fabPort k1 = d.fabPort k1 := by simp only [Dev.fabPort, Dev.fab_modTime]
@[simp] theorem Dev.conn_modTime (d : Dev) (m : TimeSt → TimeSt) (k1 : Nat) : (d.modTime m).conn k1 = d.conn k1 := by simp only [Dev.conn, Dev.sec_modTime]
@[simp] theorem Dev.ctx_modArb (d : Dev) (m : ArbSt → ArbSt) (k1 : Nat) : (d.modArb m).ctx k1 = d.ctx k1 := by simp only [Dev.ctx, Dev.ctxs_modArb]
@[simp] theorem Dev.pair_modArb (d : Dev) (m : ArbSt → ArbSt) (k1 : Nat) : (d.modArb m).pair k1 = d.pair k1 := by simp only [Dev.pair, Dev.ring_modArb]
@[simp] theorem Dev.wheel_modArb (d : Dev) (m : ArbSt → ArbSt) (k1 : Nat) : (d.modArb m).wheel k1 = d.wheel k1 := by simp only [Dev.wheel, Dev.time_modArb]
@[simp] theorem Dev.ce_modArb (d : Dev) (m : ArbSt → ArbSt) (k1 : Nat) : (d.modArb m).ce k1 = d.ce k1 := by simp only [Dev.ce, Dev.eng_modArb]
@[simp] theorem Dev.launch?_modArb (d : Dev) (m : ArbSt → ArbSt) (k1 : Nat) : (d.modArb m).launch? k1 = d.launch? k1 := by simp only [Dev.launch?, Dev.eng_modArb]
@[simp] theorem Dev.member?_modArb (d : Dev) (m : ArbSt → ArbSt) (k1 k2 : Nat) : (d.modArb m).member? k1 k2 = d.member? k1 k2 := by simp only [Dev.member?, Dev.eng_modArb]
@[simp] theorem Dev.slot_modArb (d : Dev) (m : ArbSt → ArbSt) (k1 : Nat) : (d.modArb m).slot k1 = d.slot k1 := by simp only [Dev.slot, Dev.seq_modArb]
@[simp] theorem Dev.pool_modArb (d : Dev) (m : ArbSt → ArbSt) (k1 : Nat) : (d.modArb m).pool k1 = d.pool k1 := by simp only [Dev.pool, Dev.seq_modArb]
@[simp] theorem Dev.core_modArb (d : Dev) (m : ArbSt → ArbSt) (k1 : Nat) : (d.modArb m).core k1 = d.core k1 := by simp only [Dev.core, Dev.cpx_modArb]
@[simp] theorem Dev.hart_modArb (d : Dev) (m : ArbSt → ArbSt) (k1 : Nat) : (d.modArb m).hart k1 = d.hart k1 := by simp only [Dev.hart, Dev.cpx_modArb]
@[simp] theorem Dev.dirEnt_modArb (d : Dev) (m : ArbSt → ArbSt) (k1 : Nat) : (d.modArb m).dirEnt k1 = d.dirEnt k1 := by simp only [Dev.dirEnt, Dev.coh_modArb]
@[simp] theorem Dev.tlb_modArb (d : Dev) (m : ArbSt → ArbSt) (k1 : Nat) : (d.modArb m).tlb k1 = d.tlb k1 := by simp only [Dev.tlb, Dev.xlat_modArb]
@[simp] theorem Dev.peer_modArb (d : Dev) (m : ArbSt → ArbSt) (k1 k2 : Nat) : (d.modArb m).peer k1 k2 = d.peer k1 k2 := by simp only [Dev.peer, Dev.fab_modArb]
@[simp] theorem Dev.fabPort_modArb (d : Dev) (m : ArbSt → ArbSt) (k1 : Nat) : (d.modArb m).fabPort k1 = d.fabPort k1 := by simp only [Dev.fabPort, Dev.fab_modArb]
@[simp] theorem Dev.conn_modArb (d : Dev) (m : ArbSt → ArbSt) (k1 : Nat) : (d.modArb m).conn k1 = d.conn k1 := by simp only [Dev.conn, Dev.sec_modArb]
@[simp] theorem Dev.ctx_modEng (d : Dev) (m : EngSt → EngSt) (k1 : Nat) : (d.modEng m).ctx k1 = d.ctx k1 := by simp only [Dev.ctx, Dev.ctxs_modEng]
@[simp] theorem Dev.pair_modEng (d : Dev) (m : EngSt → EngSt) (k1 : Nat) : (d.modEng m).pair k1 = d.pair k1 := by simp only [Dev.pair, Dev.ring_modEng]
@[simp] theorem Dev.evSrc_modEng (d : Dev) (m : EngSt → EngSt) (k1 : Nat) : (d.modEng m).evSrc k1 = d.evSrc k1 := by simp only [Dev.evSrc, Dev.arb_modEng]
@[simp] theorem Dev.arbPair_modEng (d : Dev) (m : EngSt → EngSt) (k1 : Nat) : (d.modEng m).arbPair k1 = d.arbPair k1 := by simp only [Dev.arbPair, Dev.arb_modEng]
@[simp] theorem Dev.wheel_modEng (d : Dev) (m : EngSt → EngSt) (k1 : Nat) : (d.modEng m).wheel k1 = d.wheel k1 := by simp only [Dev.wheel, Dev.time_modEng]
@[simp] theorem Dev.slot_modEng (d : Dev) (m : EngSt → EngSt) (k1 : Nat) : (d.modEng m).slot k1 = d.slot k1 := by simp only [Dev.slot, Dev.seq_modEng]
@[simp] theorem Dev.pool_modEng (d : Dev) (m : EngSt → EngSt) (k1 : Nat) : (d.modEng m).pool k1 = d.pool k1 := by simp only [Dev.pool, Dev.seq_modEng]
@[simp] theorem Dev.core_modEng (d : Dev) (m : EngSt → EngSt) (k1 : Nat) : (d.modEng m).core k1 = d.core k1 := by simp only [Dev.core, Dev.cpx_modEng]
@[simp] theorem Dev.hart_modEng (d : Dev) (m : EngSt → EngSt) (k1 : Nat) : (d.modEng m).hart k1 = d.hart k1 := by simp only [Dev.hart, Dev.cpx_modEng]
@[simp] theorem Dev.dirEnt_modEng (d : Dev) (m : EngSt → EngSt) (k1 : Nat) : (d.modEng m).dirEnt k1 = d.dirEnt k1 := by simp only [Dev.dirEnt, Dev.coh_modEng]
@[simp] theorem Dev.tlb_modEng (d : Dev) (m : EngSt → EngSt) (k1 : Nat) : (d.modEng m).tlb k1 = d.tlb k1 := by simp only [Dev.tlb, Dev.xlat_modEng]
@[simp] theorem Dev.peer_modEng (d : Dev) (m : EngSt → EngSt) (k1 k2 : Nat) : (d.modEng m).peer k1 k2 = d.peer k1 k2 := by simp only [Dev.peer, Dev.fab_modEng]
@[simp] theorem Dev.fabPort_modEng (d : Dev) (m : EngSt → EngSt) (k1 : Nat) : (d.modEng m).fabPort k1 = d.fabPort k1 := by simp only [Dev.fabPort, Dev.fab_modEng]
@[simp] theorem Dev.conn_modEng (d : Dev) (m : EngSt → EngSt) (k1 : Nat) : (d.modEng m).conn k1 = d.conn k1 := by simp only [Dev.conn, Dev.sec_modEng]
@[simp] theorem Dev.ctx_modSeq (d : Dev) (m : SeqEng → SeqEng) (k1 : Nat) : (d.modSeq m).ctx k1 = d.ctx k1 := by simp only [Dev.ctx, Dev.ctxs_modSeq]
@[simp] theorem Dev.pair_modSeq (d : Dev) (m : SeqEng → SeqEng) (k1 : Nat) : (d.modSeq m).pair k1 = d.pair k1 := by simp only [Dev.pair, Dev.ring_modSeq]
@[simp] theorem Dev.evSrc_modSeq (d : Dev) (m : SeqEng → SeqEng) (k1 : Nat) : (d.modSeq m).evSrc k1 = d.evSrc k1 := by simp only [Dev.evSrc, Dev.arb_modSeq]
@[simp] theorem Dev.arbPair_modSeq (d : Dev) (m : SeqEng → SeqEng) (k1 : Nat) : (d.modSeq m).arbPair k1 = d.arbPair k1 := by simp only [Dev.arbPair, Dev.arb_modSeq]
@[simp] theorem Dev.wheel_modSeq (d : Dev) (m : SeqEng → SeqEng) (k1 : Nat) : (d.modSeq m).wheel k1 = d.wheel k1 := by simp only [Dev.wheel, Dev.time_modSeq]
@[simp] theorem Dev.ce_modSeq (d : Dev) (m : SeqEng → SeqEng) (k1 : Nat) : (d.modSeq m).ce k1 = d.ce k1 := by simp only [Dev.ce, Dev.eng_modSeq]
@[simp] theorem Dev.launch?_modSeq (d : Dev) (m : SeqEng → SeqEng) (k1 : Nat) : (d.modSeq m).launch? k1 = d.launch? k1 := by simp only [Dev.launch?, Dev.eng_modSeq]
@[simp] theorem Dev.member?_modSeq (d : Dev) (m : SeqEng → SeqEng) (k1 k2 : Nat) : (d.modSeq m).member? k1 k2 = d.member? k1 k2 := by simp only [Dev.member?, Dev.eng_modSeq]
@[simp] theorem Dev.core_modSeq (d : Dev) (m : SeqEng → SeqEng) (k1 : Nat) : (d.modSeq m).core k1 = d.core k1 := by simp only [Dev.core, Dev.cpx_modSeq]
@[simp] theorem Dev.hart_modSeq (d : Dev) (m : SeqEng → SeqEng) (k1 : Nat) : (d.modSeq m).hart k1 = d.hart k1 := by simp only [Dev.hart, Dev.cpx_modSeq]
@[simp] theorem Dev.dirEnt_modSeq (d : Dev) (m : SeqEng → SeqEng) (k1 : Nat) : (d.modSeq m).dirEnt k1 = d.dirEnt k1 := by simp only [Dev.dirEnt, Dev.coh_modSeq]
@[simp] theorem Dev.tlb_modSeq (d : Dev) (m : SeqEng → SeqEng) (k1 : Nat) : (d.modSeq m).tlb k1 = d.tlb k1 := by simp only [Dev.tlb, Dev.xlat_modSeq]
@[simp] theorem Dev.peer_modSeq (d : Dev) (m : SeqEng → SeqEng) (k1 k2 : Nat) : (d.modSeq m).peer k1 k2 = d.peer k1 k2 := by simp only [Dev.peer, Dev.fab_modSeq]
@[simp] theorem Dev.fabPort_modSeq (d : Dev) (m : SeqEng → SeqEng) (k1 : Nat) : (d.modSeq m).fabPort k1 = d.fabPort k1 := by simp only [Dev.fabPort, Dev.fab_modSeq]
@[simp] theorem Dev.conn_modSeq (d : Dev) (m : SeqEng → SeqEng) (k1 : Nat) : (d.modSeq m).conn k1 = d.conn k1 := by simp only [Dev.conn, Dev.sec_modSeq]
@[simp] theorem Dev.ctx_modTier (d : Dev) (m : TierSt → TierSt) (k1 : Nat) : (d.modTier m).ctx k1 = d.ctx k1 := by simp only [Dev.ctx, Dev.ctxs_modTier]
@[simp] theorem Dev.pair_modTier (d : Dev) (m : TierSt → TierSt) (k1 : Nat) : (d.modTier m).pair k1 = d.pair k1 := by simp only [Dev.pair, Dev.ring_modTier]
@[simp] theorem Dev.evSrc_modTier (d : Dev) (m : TierSt → TierSt) (k1 : Nat) : (d.modTier m).evSrc k1 = d.evSrc k1 := by simp only [Dev.evSrc, Dev.arb_modTier]
@[simp] theorem Dev.arbPair_modTier (d : Dev) (m : TierSt → TierSt) (k1 : Nat) : (d.modTier m).arbPair k1 = d.arbPair k1 := by simp only [Dev.arbPair, Dev.arb_modTier]
@[simp] theorem Dev.wheel_modTier (d : Dev) (m : TierSt → TierSt) (k1 : Nat) : (d.modTier m).wheel k1 = d.wheel k1 := by simp only [Dev.wheel, Dev.time_modTier]
@[simp] theorem Dev.ce_modTier (d : Dev) (m : TierSt → TierSt) (k1 : Nat) : (d.modTier m).ce k1 = d.ce k1 := by simp only [Dev.ce, Dev.eng_modTier]
@[simp] theorem Dev.launch?_modTier (d : Dev) (m : TierSt → TierSt) (k1 : Nat) : (d.modTier m).launch? k1 = d.launch? k1 := by simp only [Dev.launch?, Dev.eng_modTier]
@[simp] theorem Dev.member?_modTier (d : Dev) (m : TierSt → TierSt) (k1 k2 : Nat) : (d.modTier m).member? k1 k2 = d.member? k1 k2 := by simp only [Dev.member?, Dev.eng_modTier]
@[simp] theorem Dev.slot_modTier (d : Dev) (m : TierSt → TierSt) (k1 : Nat) : (d.modTier m).slot k1 = d.slot k1 := by simp only [Dev.slot, Dev.seq_modTier]
@[simp] theorem Dev.pool_modTier (d : Dev) (m : TierSt → TierSt) (k1 : Nat) : (d.modTier m).pool k1 = d.pool k1 := by simp only [Dev.pool, Dev.seq_modTier]
@[simp] theorem Dev.core_modTier (d : Dev) (m : TierSt → TierSt) (k1 : Nat) : (d.modTier m).core k1 = d.core k1 := by simp only [Dev.core, Dev.cpx_modTier]
@[simp] theorem Dev.hart_modTier (d : Dev) (m : TierSt → TierSt) (k1 : Nat) : (d.modTier m).hart k1 = d.hart k1 := by simp only [Dev.hart, Dev.cpx_modTier]
@[simp] theorem Dev.dirEnt_modTier (d : Dev) (m : TierSt → TierSt) (k1 : Nat) : (d.modTier m).dirEnt k1 = d.dirEnt k1 := by simp only [Dev.dirEnt, Dev.coh_modTier]
@[simp] theorem Dev.tlb_modTier (d : Dev) (m : TierSt → TierSt) (k1 : Nat) : (d.modTier m).tlb k1 = d.tlb k1 := by simp only [Dev.tlb, Dev.xlat_modTier]
@[simp] theorem Dev.peer_modTier (d : Dev) (m : TierSt → TierSt) (k1 k2 : Nat) : (d.modTier m).peer k1 k2 = d.peer k1 k2 := by simp only [Dev.peer, Dev.fab_modTier]
@[simp] theorem Dev.fabPort_modTier (d : Dev) (m : TierSt → TierSt) (k1 : Nat) : (d.modTier m).fabPort k1 = d.fabPort k1 := by simp only [Dev.fabPort, Dev.fab_modTier]
@[simp] theorem Dev.conn_modTier (d : Dev) (m : TierSt → TierSt) (k1 : Nat) : (d.modTier m).conn k1 = d.conn k1 := by simp only [Dev.conn, Dev.sec_modTier]
@[simp] theorem Dev.ctx_modCpx (d : Dev) (m : CoreCplx → CoreCplx) (k1 : Nat) : (d.modCpx m).ctx k1 = d.ctx k1 := by simp only [Dev.ctx, Dev.ctxs_modCpx]
@[simp] theorem Dev.pair_modCpx (d : Dev) (m : CoreCplx → CoreCplx) (k1 : Nat) : (d.modCpx m).pair k1 = d.pair k1 := by simp only [Dev.pair, Dev.ring_modCpx]
@[simp] theorem Dev.evSrc_modCpx (d : Dev) (m : CoreCplx → CoreCplx) (k1 : Nat) : (d.modCpx m).evSrc k1 = d.evSrc k1 := by simp only [Dev.evSrc, Dev.arb_modCpx]
@[simp] theorem Dev.arbPair_modCpx (d : Dev) (m : CoreCplx → CoreCplx) (k1 : Nat) : (d.modCpx m).arbPair k1 = d.arbPair k1 := by simp only [Dev.arbPair, Dev.arb_modCpx]
@[simp] theorem Dev.wheel_modCpx (d : Dev) (m : CoreCplx → CoreCplx) (k1 : Nat) : (d.modCpx m).wheel k1 = d.wheel k1 := by simp only [Dev.wheel, Dev.time_modCpx]
@[simp] theorem Dev.ce_modCpx (d : Dev) (m : CoreCplx → CoreCplx) (k1 : Nat) : (d.modCpx m).ce k1 = d.ce k1 := by simp only [Dev.ce, Dev.eng_modCpx]
@[simp] theorem Dev.launch?_modCpx (d : Dev) (m : CoreCplx → CoreCplx) (k1 : Nat) : (d.modCpx m).launch? k1 = d.launch? k1 := by simp only [Dev.launch?, Dev.eng_modCpx]
@[simp] theorem Dev.member?_modCpx (d : Dev) (m : CoreCplx → CoreCplx) (k1 k2 : Nat) : (d.modCpx m).member? k1 k2 = d.member? k1 k2 := by simp only [Dev.member?, Dev.eng_modCpx]
@[simp] theorem Dev.slot_modCpx (d : Dev) (m : CoreCplx → CoreCplx) (k1 : Nat) : (d.modCpx m).slot k1 = d.slot k1 := by simp only [Dev.slot, Dev.seq_modCpx]
@[simp] theorem Dev.pool_modCpx (d : Dev) (m : CoreCplx → CoreCplx) (k1 : Nat) : (d.modCpx m).pool k1 = d.pool k1 := by simp only [Dev.pool, Dev.seq_modCpx]
@[simp] theorem Dev.dirEnt_modCpx (d : Dev) (m : CoreCplx → CoreCplx) (k1 : Nat) : (d.modCpx m).dirEnt k1 = d.dirEnt k1 := by simp only [Dev.dirEnt, Dev.coh_modCpx]
@[simp] theorem Dev.tlb_modCpx (d : Dev) (m : CoreCplx → CoreCplx) (k1 : Nat) : (d.modCpx m).tlb k1 = d.tlb k1 := by simp only [Dev.tlb, Dev.xlat_modCpx]
@[simp] theorem Dev.peer_modCpx (d : Dev) (m : CoreCplx → CoreCplx) (k1 k2 : Nat) : (d.modCpx m).peer k1 k2 = d.peer k1 k2 := by simp only [Dev.peer, Dev.fab_modCpx]
@[simp] theorem Dev.fabPort_modCpx (d : Dev) (m : CoreCplx → CoreCplx) (k1 : Nat) : (d.modCpx m).fabPort k1 = d.fabPort k1 := by simp only [Dev.fabPort, Dev.fab_modCpx]
@[simp] theorem Dev.conn_modCpx (d : Dev) (m : CoreCplx → CoreCplx) (k1 : Nat) : (d.modCpx m).conn k1 = d.conn k1 := by simp only [Dev.conn, Dev.sec_modCpx]
@[simp] theorem Dev.ctx_modCoh (d : Dev) (m : CohSt → CohSt) (k1 : Nat) : (d.modCoh m).ctx k1 = d.ctx k1 := by simp only [Dev.ctx, Dev.ctxs_modCoh]
@[simp] theorem Dev.pair_modCoh (d : Dev) (m : CohSt → CohSt) (k1 : Nat) : (d.modCoh m).pair k1 = d.pair k1 := by simp only [Dev.pair, Dev.ring_modCoh]
@[simp] theorem Dev.evSrc_modCoh (d : Dev) (m : CohSt → CohSt) (k1 : Nat) : (d.modCoh m).evSrc k1 = d.evSrc k1 := by simp only [Dev.evSrc, Dev.arb_modCoh]
@[simp] theorem Dev.arbPair_modCoh (d : Dev) (m : CohSt → CohSt) (k1 : Nat) : (d.modCoh m).arbPair k1 = d.arbPair k1 := by simp only [Dev.arbPair, Dev.arb_modCoh]
@[simp] theorem Dev.wheel_modCoh (d : Dev) (m : CohSt → CohSt) (k1 : Nat) : (d.modCoh m).wheel k1 = d.wheel k1 := by simp only [Dev.wheel, Dev.time_modCoh]
@[simp] theorem Dev.ce_modCoh (d : Dev) (m : CohSt → CohSt) (k1 : Nat) : (d.modCoh m).ce k1 = d.ce k1 := by simp only [Dev.ce, Dev.eng_modCoh]
@[simp] theorem Dev.launch?_modCoh (d : Dev) (m : CohSt → CohSt) (k1 : Nat) : (d.modCoh m).launch? k1 = d.launch? k1 := by simp only [Dev.launch?, Dev.eng_modCoh]
@[simp] theorem Dev.member?_modCoh (d : Dev) (m : CohSt → CohSt) (k1 k2 : Nat) : (d.modCoh m).member? k1 k2 = d.member? k1 k2 := by simp only [Dev.member?, Dev.eng_modCoh]
@[simp] theorem Dev.slot_modCoh (d : Dev) (m : CohSt → CohSt) (k1 : Nat) : (d.modCoh m).slot k1 = d.slot k1 := by simp only [Dev.slot, Dev.seq_modCoh]
@[simp] theorem Dev.pool_modCoh (d : Dev) (m : CohSt → CohSt) (k1 : Nat) : (d.modCoh m).pool k1 = d.pool k1 := by simp only [Dev.pool, Dev.seq_modCoh]
@[simp] theorem Dev.core_modCoh (d : Dev) (m : CohSt → CohSt) (k1 : Nat) : (d.modCoh m).core k1 = d.core k1 := by simp only [Dev.core, Dev.cpx_modCoh]
@[simp] theorem Dev.hart_modCoh (d : Dev) (m : CohSt → CohSt) (k1 : Nat) : (d.modCoh m).hart k1 = d.hart k1 := by simp only [Dev.hart, Dev.cpx_modCoh]
@[simp] theorem Dev.tlb_modCoh (d : Dev) (m : CohSt → CohSt) (k1 : Nat) : (d.modCoh m).tlb k1 = d.tlb k1 := by simp only [Dev.tlb, Dev.xlat_modCoh]
@[simp] theorem Dev.peer_modCoh (d : Dev) (m : CohSt → CohSt) (k1 k2 : Nat) : (d.modCoh m).peer k1 k2 = d.peer k1 k2 := by simp only [Dev.peer, Dev.fab_modCoh]
@[simp] theorem Dev.fabPort_modCoh (d : Dev) (m : CohSt → CohSt) (k1 : Nat) : (d.modCoh m).fabPort k1 = d.fabPort k1 := by simp only [Dev.fabPort, Dev.fab_modCoh]
@[simp] theorem Dev.conn_modCoh (d : Dev) (m : CohSt → CohSt) (k1 : Nat) : (d.modCoh m).conn k1 = d.conn k1 := by simp only [Dev.conn, Dev.sec_modCoh]
@[simp] theorem Dev.ctx_modXlat (d : Dev) (m : XlatSt → XlatSt) (k1 : Nat) : (d.modXlat m).ctx k1 = d.ctx k1 := by simp only [Dev.ctx, Dev.ctxs_modXlat]
@[simp] theorem Dev.pair_modXlat (d : Dev) (m : XlatSt → XlatSt) (k1 : Nat) : (d.modXlat m).pair k1 = d.pair k1 := by simp only [Dev.pair, Dev.ring_modXlat]
@[simp] theorem Dev.evSrc_modXlat (d : Dev) (m : XlatSt → XlatSt) (k1 : Nat) : (d.modXlat m).evSrc k1 = d.evSrc k1 := by simp only [Dev.evSrc, Dev.arb_modXlat]
@[simp] theorem Dev.arbPair_modXlat (d : Dev) (m : XlatSt → XlatSt) (k1 : Nat) : (d.modXlat m).arbPair k1 = d.arbPair k1 := by simp only [Dev.arbPair, Dev.arb_modXlat]
@[simp] theorem Dev.wheel_modXlat (d : Dev) (m : XlatSt → XlatSt) (k1 : Nat) : (d.modXlat m).wheel k1 = d.wheel k1 := by simp only [Dev.wheel, Dev.time_modXlat]
@[simp] theorem Dev.ce_modXlat (d : Dev) (m : XlatSt → XlatSt) (k1 : Nat) : (d.modXlat m).ce k1 = d.ce k1 := by simp only [Dev.ce, Dev.eng_modXlat]
@[simp] theorem Dev.launch?_modXlat (d : Dev) (m : XlatSt → XlatSt) (k1 : Nat) : (d.modXlat m).launch? k1 = d.launch? k1 := by simp only [Dev.launch?, Dev.eng_modXlat]
@[simp] theorem Dev.member?_modXlat (d : Dev) (m : XlatSt → XlatSt) (k1 k2 : Nat) : (d.modXlat m).member? k1 k2 = d.member? k1 k2 := by simp only [Dev.member?, Dev.eng_modXlat]
@[simp] theorem Dev.slot_modXlat (d : Dev) (m : XlatSt → XlatSt) (k1 : Nat) : (d.modXlat m).slot k1 = d.slot k1 := by simp only [Dev.slot, Dev.seq_modXlat]
@[simp] theorem Dev.pool_modXlat (d : Dev) (m : XlatSt → XlatSt) (k1 : Nat) : (d.modXlat m).pool k1 = d.pool k1 := by simp only [Dev.pool, Dev.seq_modXlat]
@[simp] theorem Dev.core_modXlat (d : Dev) (m : XlatSt → XlatSt) (k1 : Nat) : (d.modXlat m).core k1 = d.core k1 := by simp only [Dev.core, Dev.cpx_modXlat]
@[simp] theorem Dev.hart_modXlat (d : Dev) (m : XlatSt → XlatSt) (k1 : Nat) : (d.modXlat m).hart k1 = d.hart k1 := by simp only [Dev.hart, Dev.cpx_modXlat]
@[simp] theorem Dev.dirEnt_modXlat (d : Dev) (m : XlatSt → XlatSt) (k1 : Nat) : (d.modXlat m).dirEnt k1 = d.dirEnt k1 := by simp only [Dev.dirEnt, Dev.coh_modXlat]
@[simp] theorem Dev.peer_modXlat (d : Dev) (m : XlatSt → XlatSt) (k1 k2 : Nat) : (d.modXlat m).peer k1 k2 = d.peer k1 k2 := by simp only [Dev.peer, Dev.fab_modXlat]
@[simp] theorem Dev.fabPort_modXlat (d : Dev) (m : XlatSt → XlatSt) (k1 : Nat) : (d.modXlat m).fabPort k1 = d.fabPort k1 := by simp only [Dev.fabPort, Dev.fab_modXlat]
@[simp] theorem Dev.conn_modXlat (d : Dev) (m : XlatSt → XlatSt) (k1 : Nat) : (d.modXlat m).conn k1 = d.conn k1 := by simp only [Dev.conn, Dev.sec_modXlat]
@[simp] theorem Dev.ctx_modFab (d : Dev) (m : FabSt → FabSt) (k1 : Nat) : (d.modFab m).ctx k1 = d.ctx k1 := by simp only [Dev.ctx, Dev.ctxs_modFab]
@[simp] theorem Dev.pair_modFab (d : Dev) (m : FabSt → FabSt) (k1 : Nat) : (d.modFab m).pair k1 = d.pair k1 := by simp only [Dev.pair, Dev.ring_modFab]
@[simp] theorem Dev.evSrc_modFab (d : Dev) (m : FabSt → FabSt) (k1 : Nat) : (d.modFab m).evSrc k1 = d.evSrc k1 := by simp only [Dev.evSrc, Dev.arb_modFab]
@[simp] theorem Dev.arbPair_modFab (d : Dev) (m : FabSt → FabSt) (k1 : Nat) : (d.modFab m).arbPair k1 = d.arbPair k1 := by simp only [Dev.arbPair, Dev.arb_modFab]
@[simp] theorem Dev.wheel_modFab (d : Dev) (m : FabSt → FabSt) (k1 : Nat) : (d.modFab m).wheel k1 = d.wheel k1 := by simp only [Dev.wheel, Dev.time_modFab]
@[simp] theorem Dev.ce_modFab (d : Dev) (m : FabSt → FabSt) (k1 : Nat) : (d.modFab m).ce k1 = d.ce k1 := by simp only [Dev.ce, Dev.eng_modFab]
@[simp] theorem Dev.launch?_modFab (d : Dev) (m : FabSt → FabSt) (k1 : Nat) : (d.modFab m).launch? k1 = d.launch? k1 := by simp only [Dev.launch?, Dev.eng_modFab]
@[simp] theorem Dev.member?_modFab (d : Dev) (m : FabSt → FabSt) (k1 k2 : Nat) : (d.modFab m).member? k1 k2 = d.member? k1 k2 := by simp only [Dev.member?, Dev.eng_modFab]
@[simp] theorem Dev.slot_modFab (d : Dev) (m : FabSt → FabSt) (k1 : Nat) : (d.modFab m).slot k1 = d.slot k1 := by simp only [Dev.slot, Dev.seq_modFab]
@[simp] theorem Dev.pool_modFab (d : Dev) (m : FabSt → FabSt) (k1 : Nat) : (d.modFab m).pool k1 = d.pool k1 := by simp only [Dev.pool, Dev.seq_modFab]
@[simp] theorem Dev.core_modFab (d : Dev) (m : FabSt → FabSt) (k1 : Nat) : (d.modFab m).core k1 = d.core k1 := by simp only [Dev.core, Dev.cpx_modFab]
@[simp] theorem Dev.hart_modFab (d : Dev) (m : FabSt → FabSt) (k1 : Nat) : (d.modFab m).hart k1 = d.hart k1 := by simp only [Dev.hart, Dev.cpx_modFab]
@[simp] theorem Dev.dirEnt_modFab (d : Dev) (m : FabSt → FabSt) (k1 : Nat) : (d.modFab m).dirEnt k1 = d.dirEnt k1 := by simp only [Dev.dirEnt, Dev.coh_modFab]
@[simp] theorem Dev.tlb_modFab (d : Dev) (m : FabSt → FabSt) (k1 : Nat) : (d.modFab m).tlb k1 = d.tlb k1 := by simp only [Dev.tlb, Dev.xlat_modFab]
@[simp] theorem Dev.conn_modFab (d : Dev) (m : FabSt → FabSt) (k1 : Nat) : (d.modFab m).conn k1 = d.conn k1 := by simp only [Dev.conn, Dev.sec_modFab]
@[simp] theorem Dev.ctx_modSec (d : Dev) (m : SecSt → SecSt) (k1 : Nat) : (d.modSec m).ctx k1 = d.ctx k1 := by simp only [Dev.ctx, Dev.ctxs_modSec]
@[simp] theorem Dev.pair_modSec (d : Dev) (m : SecSt → SecSt) (k1 : Nat) : (d.modSec m).pair k1 = d.pair k1 := by simp only [Dev.pair, Dev.ring_modSec]
@[simp] theorem Dev.evSrc_modSec (d : Dev) (m : SecSt → SecSt) (k1 : Nat) : (d.modSec m).evSrc k1 = d.evSrc k1 := by simp only [Dev.evSrc, Dev.arb_modSec]
@[simp] theorem Dev.arbPair_modSec (d : Dev) (m : SecSt → SecSt) (k1 : Nat) : (d.modSec m).arbPair k1 = d.arbPair k1 := by simp only [Dev.arbPair, Dev.arb_modSec]
@[simp] theorem Dev.wheel_modSec (d : Dev) (m : SecSt → SecSt) (k1 : Nat) : (d.modSec m).wheel k1 = d.wheel k1 := by simp only [Dev.wheel, Dev.time_modSec]
@[simp] theorem Dev.ce_modSec (d : Dev) (m : SecSt → SecSt) (k1 : Nat) : (d.modSec m).ce k1 = d.ce k1 := by simp only [Dev.ce, Dev.eng_modSec]
@[simp] theorem Dev.launch?_modSec (d : Dev) (m : SecSt → SecSt) (k1 : Nat) : (d.modSec m).launch? k1 = d.launch? k1 := by simp only [Dev.launch?, Dev.eng_modSec]
@[simp] theorem Dev.member?_modSec (d : Dev) (m : SecSt → SecSt) (k1 k2 : Nat) : (d.modSec m).member? k1 k2 = d.member? k1 k2 := by simp only [Dev.member?, Dev.eng_modSec]
@[simp] theorem Dev.slot_modSec (d : Dev) (m : SecSt → SecSt) (k1 : Nat) : (d.modSec m).slot k1 = d.slot k1 := by simp only [Dev.slot, Dev.seq_modSec]
@[simp] theorem Dev.pool_modSec (d : Dev) (m : SecSt → SecSt) (k1 : Nat) : (d.modSec m).pool k1 = d.pool k1 := by simp only [Dev.pool, Dev.seq_modSec]
@[simp] theorem Dev.core_modSec (d : Dev) (m : SecSt → SecSt) (k1 : Nat) : (d.modSec m).core k1 = d.core k1 := by simp only [Dev.core, Dev.cpx_modSec]
@[simp] theorem Dev.hart_modSec (d : Dev) (m : SecSt → SecSt) (k1 : Nat) : (d.modSec m).hart k1 = d.hart k1 := by simp only [Dev.hart, Dev.cpx_modSec]
@[simp] theorem Dev.dirEnt_modSec (d : Dev) (m : SecSt → SecSt) (k1 : Nat) : (d.modSec m).dirEnt k1 = d.dirEnt k1 := by simp only [Dev.dirEnt, Dev.coh_modSec]
@[simp] theorem Dev.tlb_modSec (d : Dev) (m : SecSt → SecSt) (k1 : Nat) : (d.modSec m).tlb k1 = d.tlb k1 := by simp only [Dev.tlb, Dev.xlat_modSec]
@[simp] theorem Dev.peer_modSec (d : Dev) (m : SecSt → SecSt) (k1 k2 : Nat) : (d.modSec m).peer k1 k2 = d.peer k1 k2 := by simp only [Dev.peer, Dev.fab_modSec]
@[simp] theorem Dev.fabPort_modSec (d : Dev) (m : SecSt → SecSt) (k1 : Nat) : (d.modSec m).fabPort k1 = d.fabPort k1 := by simp only [Dev.fabPort, Dev.fab_modSec]
@[simp] theorem Dev.ctx_modRes (d : Dev) (m : ResSt → ResSt) (k1 : Nat) : (d.modRes m).ctx k1 = d.ctx k1 := by simp only [Dev.ctx, Dev.ctxs_modRes]
@[simp] theorem Dev.pair_modRes (d : Dev) (m : ResSt → ResSt) (k1 : Nat) : (d.modRes m).pair k1 = d.pair k1 := by simp only [Dev.pair, Dev.ring_modRes]
@[simp] theorem Dev.evSrc_modRes (d : Dev) (m : ResSt → ResSt) (k1 : Nat) : (d.modRes m).evSrc k1 = d.evSrc k1 := by simp only [Dev.evSrc, Dev.arb_modRes]
@[simp] theorem Dev.arbPair_modRes (d : Dev) (m : ResSt → ResSt) (k1 : Nat) : (d.modRes m).arbPair k1 = d.arbPair k1 := by simp only [Dev.arbPair, Dev.arb_modRes]
@[simp] theorem Dev.wheel_modRes (d : Dev) (m : ResSt → ResSt) (k1 : Nat) : (d.modRes m).wheel k1 = d.wheel k1 := by simp only [Dev.wheel, Dev.time_modRes]
@[simp] theorem Dev.ce_modRes (d : Dev) (m : ResSt → ResSt) (k1 : Nat) : (d.modRes m).ce k1 = d.ce k1 := by simp only [Dev.ce, Dev.eng_modRes]
@[simp] theorem Dev.launch?_modRes (d : Dev) (m : ResSt → ResSt) (k1 : Nat) : (d.modRes m).launch? k1 = d.launch? k1 := by simp only [Dev.launch?, Dev.eng_modRes]
@[simp] theorem Dev.member?_modRes (d : Dev) (m : ResSt → ResSt) (k1 k2 : Nat) : (d.modRes m).member? k1 k2 = d.member? k1 k2 := by simp only [Dev.member?, Dev.eng_modRes]
@[simp] theorem Dev.slot_modRes (d : Dev) (m : ResSt → ResSt) (k1 : Nat) : (d.modRes m).slot k1 = d.slot k1 := by simp only [Dev.slot, Dev.seq_modRes]
@[simp] theorem Dev.pool_modRes (d : Dev) (m : ResSt → ResSt) (k1 : Nat) : (d.modRes m).pool k1 = d.pool k1 := by simp only [Dev.pool, Dev.seq_modRes]
@[simp] theorem Dev.core_modRes (d : Dev) (m : ResSt → ResSt) (k1 : Nat) : (d.modRes m).core k1 = d.core k1 := by simp only [Dev.core, Dev.cpx_modRes]
@[simp] theorem Dev.hart_modRes (d : Dev) (m : ResSt → ResSt) (k1 : Nat) : (d.modRes m).hart k1 = d.hart k1 := by simp only [Dev.hart, Dev.cpx_modRes]
@[simp] theorem Dev.dirEnt_modRes (d : Dev) (m : ResSt → ResSt) (k1 : Nat) : (d.modRes m).dirEnt k1 = d.dirEnt k1 := by simp only [Dev.dirEnt, Dev.coh_modRes]
@[simp] theorem Dev.tlb_modRes (d : Dev) (m : ResSt → ResSt) (k1 : Nat) : (d.modRes m).tlb k1 = d.tlb k1 := by simp only [Dev.tlb, Dev.xlat_modRes]
@[simp] theorem Dev.peer_modRes (d : Dev) (m : ResSt → ResSt) (k1 k2 : Nat) : (d.modRes m).peer k1 k2 = d.peer k1 k2 := by simp only [Dev.peer, Dev.fab_modRes]
@[simp] theorem Dev.fabPort_modRes (d : Dev) (m : ResSt → ResSt) (k1 : Nat) : (d.modRes m).fabPort k1 = d.fabPort k1 := by simp only [Dev.fabPort, Dev.fab_modRes]
@[simp] theorem Dev.conn_modRes (d : Dev) (m : ResSt → ResSt) (k1 : Nat) : (d.modRes m).conn k1 = d.conn k1 := by simp only [Dev.conn, Dev.sec_modRes]
@[simp] theorem Dev.ctx_modPow (d : Dev) (m : PowSt → PowSt) (k1 : Nat) : (d.modPow m).ctx k1 = d.ctx k1 := by simp only [Dev.ctx, Dev.ctxs_modPow]
@[simp] theorem Dev.pair_modPow (d : Dev) (m : PowSt → PowSt) (k1 : Nat) : (d.modPow m).pair k1 = d.pair k1 := by simp only [Dev.pair, Dev.ring_modPow]
@[simp] theorem Dev.evSrc_modPow (d : Dev) (m : PowSt → PowSt) (k1 : Nat) : (d.modPow m).evSrc k1 = d.evSrc k1 := by simp only [Dev.evSrc, Dev.arb_modPow]
@[simp] theorem Dev.arbPair_modPow (d : Dev) (m : PowSt → PowSt) (k1 : Nat) : (d.modPow m).arbPair k1 = d.arbPair k1 := by simp only [Dev.arbPair, Dev.arb_modPow]
@[simp] theorem Dev.wheel_modPow (d : Dev) (m : PowSt → PowSt) (k1 : Nat) : (d.modPow m).wheel k1 = d.wheel k1 := by simp only [Dev.wheel, Dev.time_modPow]
@[simp] theorem Dev.ce_modPow (d : Dev) (m : PowSt → PowSt) (k1 : Nat) : (d.modPow m).ce k1 = d.ce k1 := by simp only [Dev.ce, Dev.eng_modPow]
@[simp] theorem Dev.launch?_modPow (d : Dev) (m : PowSt → PowSt) (k1 : Nat) : (d.modPow m).launch? k1 = d.launch? k1 := by simp only [Dev.launch?, Dev.eng_modPow]
@[simp] theorem Dev.member?_modPow (d : Dev) (m : PowSt → PowSt) (k1 k2 : Nat) : (d.modPow m).member? k1 k2 = d.member? k1 k2 := by simp only [Dev.member?, Dev.eng_modPow]
@[simp] theorem Dev.slot_modPow (d : Dev) (m : PowSt → PowSt) (k1 : Nat) : (d.modPow m).slot k1 = d.slot k1 := by simp only [Dev.slot, Dev.seq_modPow]
@[simp] theorem Dev.pool_modPow (d : Dev) (m : PowSt → PowSt) (k1 : Nat) : (d.modPow m).pool k1 = d.pool k1 := by simp only [Dev.pool, Dev.seq_modPow]
@[simp] theorem Dev.core_modPow (d : Dev) (m : PowSt → PowSt) (k1 : Nat) : (d.modPow m).core k1 = d.core k1 := by simp only [Dev.core, Dev.cpx_modPow]
@[simp] theorem Dev.hart_modPow (d : Dev) (m : PowSt → PowSt) (k1 : Nat) : (d.modPow m).hart k1 = d.hart k1 := by simp only [Dev.hart, Dev.cpx_modPow]
@[simp] theorem Dev.dirEnt_modPow (d : Dev) (m : PowSt → PowSt) (k1 : Nat) : (d.modPow m).dirEnt k1 = d.dirEnt k1 := by simp only [Dev.dirEnt, Dev.coh_modPow]
@[simp] theorem Dev.tlb_modPow (d : Dev) (m : PowSt → PowSt) (k1 : Nat) : (d.modPow m).tlb k1 = d.tlb k1 := by simp only [Dev.tlb, Dev.xlat_modPow]
@[simp] theorem Dev.peer_modPow (d : Dev) (m : PowSt → PowSt) (k1 k2 : Nat) : (d.modPow m).peer k1 k2 = d.peer k1 k2 := by simp only [Dev.peer, Dev.fab_modPow]
@[simp] theorem Dev.fabPort_modPow (d : Dev) (m : PowSt → PowSt) (k1 : Nat) : (d.modPow m).fabPort k1 = d.fabPort k1 := by simp only [Dev.fabPort, Dev.fab_modPow]
@[simp] theorem Dev.conn_modPow (d : Dev) (m : PowSt → PowSt) (k1 : Nat) : (d.modPow m).conn k1 = d.conn k1 := by simp only [Dev.conn, Dev.sec_modPow]
@[simp] theorem Dev.ctx_setMem (d : Dev) (x : Memory) (k1 : Nat) : (d.setMem x).ctx k1 = d.ctx k1 := by simp only [Dev.ctx, Dev.ctxs_setMem]
@[simp] theorem Dev.pair_setMem (d : Dev) (x : Memory) (k1 : Nat) : (d.setMem x).pair k1 = d.pair k1 := by simp only [Dev.pair, Dev.ring_setMem]
@[simp] theorem Dev.evSrc_setMem (d : Dev) (x : Memory) (k1 : Nat) : (d.setMem x).evSrc k1 = d.evSrc k1 := by simp only [Dev.evSrc, Dev.arb_setMem]
@[simp] theorem Dev.arbPair_setMem (d : Dev) (x : Memory) (k1 : Nat) : (d.setMem x).arbPair k1 = d.arbPair k1 := by simp only [Dev.arbPair, Dev.arb_setMem]
@[simp] theorem Dev.wheel_setMem (d : Dev) (x : Memory) (k1 : Nat) : (d.setMem x).wheel k1 = d.wheel k1 := by simp only [Dev.wheel, Dev.time_setMem]
@[simp] theorem Dev.ce_setMem (d : Dev) (x : Memory) (k1 : Nat) : (d.setMem x).ce k1 = d.ce k1 := by simp only [Dev.ce, Dev.eng_setMem]
@[simp] theorem Dev.launch?_setMem (d : Dev) (x : Memory) (k1 : Nat) : (d.setMem x).launch? k1 = d.launch? k1 := by simp only [Dev.launch?, Dev.eng_setMem]
@[simp] theorem Dev.member?_setMem (d : Dev) (x : Memory) (k1 k2 : Nat) : (d.setMem x).member? k1 k2 = d.member? k1 k2 := by simp only [Dev.member?, Dev.eng_setMem]
@[simp] theorem Dev.slot_setMem (d : Dev) (x : Memory) (k1 : Nat) : (d.setMem x).slot k1 = d.slot k1 := by simp only [Dev.slot, Dev.seq_setMem]
@[simp] theorem Dev.pool_setMem (d : Dev) (x : Memory) (k1 : Nat) : (d.setMem x).pool k1 = d.pool k1 := by simp only [Dev.pool, Dev.seq_setMem]
@[simp] theorem Dev.core_setMem (d : Dev) (x : Memory) (k1 : Nat) : (d.setMem x).core k1 = d.core k1 := by simp only [Dev.core, Dev.cpx_setMem]
@[simp] theorem Dev.hart_setMem (d : Dev) (x : Memory) (k1 : Nat) : (d.setMem x).hart k1 = d.hart k1 := by simp only [Dev.hart, Dev.cpx_setMem]
@[simp] theorem Dev.dirEnt_setMem (d : Dev) (x : Memory) (k1 : Nat) : (d.setMem x).dirEnt k1 = d.dirEnt k1 := by simp only [Dev.dirEnt, Dev.coh_setMem]
@[simp] theorem Dev.tlb_setMem (d : Dev) (x : Memory) (k1 : Nat) : (d.setMem x).tlb k1 = d.tlb k1 := by simp only [Dev.tlb, Dev.xlat_setMem]
@[simp] theorem Dev.peer_setMem (d : Dev) (x : Memory) (k1 k2 : Nat) : (d.setMem x).peer k1 k2 = d.peer k1 k2 := by simp only [Dev.peer, Dev.fab_setMem]
@[simp] theorem Dev.fabPort_setMem (d : Dev) (x : Memory) (k1 : Nat) : (d.setMem x).fabPort k1 = d.fabPort k1 := by simp only [Dev.fabPort, Dev.fab_setMem]
@[simp] theorem Dev.conn_setMem (d : Dev) (x : Memory) (k1 : Nat) : (d.setMem x).conn k1 = d.conn k1 := by simp only [Dev.conn, Dev.sec_setMem]
@[simp] theorem Dev.ctx_setPoison (d : Dev) (x : List Nat) (k1 : Nat) : (d.setPoison x).ctx k1 = d.ctx k1 := by simp only [Dev.ctx, Dev.ctxs_setPoison]
@[simp] theorem Dev.pair_setPoison (d : Dev) (x : List Nat) (k1 : Nat) : (d.setPoison x).pair k1 = d.pair k1 := by simp only [Dev.pair, Dev.ring_setPoison]
@[simp] theorem Dev.evSrc_setPoison (d : Dev) (x : List Nat) (k1 : Nat) : (d.setPoison x).evSrc k1 = d.evSrc k1 := by simp only [Dev.evSrc, Dev.arb_setPoison]
@[simp] theorem Dev.arbPair_setPoison (d : Dev) (x : List Nat) (k1 : Nat) : (d.setPoison x).arbPair k1 = d.arbPair k1 := by simp only [Dev.arbPair, Dev.arb_setPoison]
@[simp] theorem Dev.wheel_setPoison (d : Dev) (x : List Nat) (k1 : Nat) : (d.setPoison x).wheel k1 = d.wheel k1 := by simp only [Dev.wheel, Dev.time_setPoison]
@[simp] theorem Dev.ce_setPoison (d : Dev) (x : List Nat) (k1 : Nat) : (d.setPoison x).ce k1 = d.ce k1 := by simp only [Dev.ce, Dev.eng_setPoison]
@[simp] theorem Dev.launch?_setPoison (d : Dev) (x : List Nat) (k1 : Nat) : (d.setPoison x).launch? k1 = d.launch? k1 := by simp only [Dev.launch?, Dev.eng_setPoison]
@[simp] theorem Dev.member?_setPoison (d : Dev) (x : List Nat) (k1 k2 : Nat) : (d.setPoison x).member? k1 k2 = d.member? k1 k2 := by simp only [Dev.member?, Dev.eng_setPoison]
@[simp] theorem Dev.slot_setPoison (d : Dev) (x : List Nat) (k1 : Nat) : (d.setPoison x).slot k1 = d.slot k1 := by simp only [Dev.slot, Dev.seq_setPoison]
@[simp] theorem Dev.pool_setPoison (d : Dev) (x : List Nat) (k1 : Nat) : (d.setPoison x).pool k1 = d.pool k1 := by simp only [Dev.pool, Dev.seq_setPoison]
@[simp] theorem Dev.core_setPoison (d : Dev) (x : List Nat) (k1 : Nat) : (d.setPoison x).core k1 = d.core k1 := by simp only [Dev.core, Dev.cpx_setPoison]
@[simp] theorem Dev.hart_setPoison (d : Dev) (x : List Nat) (k1 : Nat) : (d.setPoison x).hart k1 = d.hart k1 := by simp only [Dev.hart, Dev.cpx_setPoison]
@[simp] theorem Dev.dirEnt_setPoison (d : Dev) (x : List Nat) (k1 : Nat) : (d.setPoison x).dirEnt k1 = d.dirEnt k1 := by simp only [Dev.dirEnt, Dev.coh_setPoison]
@[simp] theorem Dev.tlb_setPoison (d : Dev) (x : List Nat) (k1 : Nat) : (d.setPoison x).tlb k1 = d.tlb k1 := by simp only [Dev.tlb, Dev.xlat_setPoison]
@[simp] theorem Dev.peer_setPoison (d : Dev) (x : List Nat) (k1 k2 : Nat) : (d.setPoison x).peer k1 k2 = d.peer k1 k2 := by simp only [Dev.peer, Dev.fab_setPoison]
@[simp] theorem Dev.fabPort_setPoison (d : Dev) (x : List Nat) (k1 : Nat) : (d.setPoison x).fabPort k1 = d.fabPort k1 := by simp only [Dev.fabPort, Dev.fab_setPoison]
@[simp] theorem Dev.conn_setPoison (d : Dev) (x : List Nat) (k1 : Nat) : (d.setPoison x).conn k1 = d.conn k1 := by simp only [Dev.conn, Dev.sec_setPoison]
@[simp] theorem Dev.ctx_setTours (d : Dev) (x : Map TourJob) (k1 : Nat) : (d.setTours x).ctx k1 = d.ctx k1 := by simp only [Dev.ctx, Dev.ctxs_setTours]
@[simp] theorem Dev.pair_setTours (d : Dev) (x : Map TourJob) (k1 : Nat) : (d.setTours x).pair k1 = d.pair k1 := by simp only [Dev.pair, Dev.ring_setTours]
@[simp] theorem Dev.evSrc_setTours (d : Dev) (x : Map TourJob) (k1 : Nat) : (d.setTours x).evSrc k1 = d.evSrc k1 := by simp only [Dev.evSrc, Dev.arb_setTours]
@[simp] theorem Dev.arbPair_setTours (d : Dev) (x : Map TourJob) (k1 : Nat) : (d.setTours x).arbPair k1 = d.arbPair k1 := by simp only [Dev.arbPair, Dev.arb_setTours]
@[simp] theorem Dev.wheel_setTours (d : Dev) (x : Map TourJob) (k1 : Nat) : (d.setTours x).wheel k1 = d.wheel k1 := by simp only [Dev.wheel, Dev.time_setTours]
@[simp] theorem Dev.ce_setTours (d : Dev) (x : Map TourJob) (k1 : Nat) : (d.setTours x).ce k1 = d.ce k1 := by simp only [Dev.ce, Dev.eng_setTours]
@[simp] theorem Dev.launch?_setTours (d : Dev) (x : Map TourJob) (k1 : Nat) : (d.setTours x).launch? k1 = d.launch? k1 := by simp only [Dev.launch?, Dev.eng_setTours]
@[simp] theorem Dev.member?_setTours (d : Dev) (x : Map TourJob) (k1 k2 : Nat) : (d.setTours x).member? k1 k2 = d.member? k1 k2 := by simp only [Dev.member?, Dev.eng_setTours]
@[simp] theorem Dev.slot_setTours (d : Dev) (x : Map TourJob) (k1 : Nat) : (d.setTours x).slot k1 = d.slot k1 := by simp only [Dev.slot, Dev.seq_setTours]
@[simp] theorem Dev.pool_setTours (d : Dev) (x : Map TourJob) (k1 : Nat) : (d.setTours x).pool k1 = d.pool k1 := by simp only [Dev.pool, Dev.seq_setTours]
@[simp] theorem Dev.core_setTours (d : Dev) (x : Map TourJob) (k1 : Nat) : (d.setTours x).core k1 = d.core k1 := by simp only [Dev.core, Dev.cpx_setTours]
@[simp] theorem Dev.hart_setTours (d : Dev) (x : Map TourJob) (k1 : Nat) : (d.setTours x).hart k1 = d.hart k1 := by simp only [Dev.hart, Dev.cpx_setTours]
@[simp] theorem Dev.dirEnt_setTours (d : Dev) (x : Map TourJob) (k1 : Nat) : (d.setTours x).dirEnt k1 = d.dirEnt k1 := by simp only [Dev.dirEnt, Dev.coh_setTours]
@[simp] theorem Dev.tlb_setTours (d : Dev) (x : Map TourJob) (k1 : Nat) : (d.setTours x).tlb k1 = d.tlb k1 := by simp only [Dev.tlb, Dev.xlat_setTours]
@[simp] theorem Dev.peer_setTours (d : Dev) (x : Map TourJob) (k1 k2 : Nat) : (d.setTours x).peer k1 k2 = d.peer k1 k2 := by simp only [Dev.peer, Dev.fab_setTours]
@[simp] theorem Dev.fabPort_setTours (d : Dev) (x : Map TourJob) (k1 : Nat) : (d.setTours x).fabPort k1 = d.fabPort k1 := by simp only [Dev.fabPort, Dev.fab_setTours]
@[simp] theorem Dev.conn_setTours (d : Dev) (x : Map TourJob) (k1 : Nat) : (d.setTours x).conn k1 = d.conn k1 := by simp only [Dev.conn, Dev.sec_setTours]
@[simp] theorem Dev.pair_setCtxs (d : Dev) (x : Map Ctx) (k1 : Nat) : (d.setCtxs x).pair k1 = d.pair k1 := by simp only [Dev.pair, Dev.ring_setCtxs]
@[simp] theorem Dev.evSrc_setCtxs (d : Dev) (x : Map Ctx) (k1 : Nat) : (d.setCtxs x).evSrc k1 = d.evSrc k1 := by simp only [Dev.evSrc, Dev.arb_setCtxs]
@[simp] theorem Dev.arbPair_setCtxs (d : Dev) (x : Map Ctx) (k1 : Nat) : (d.setCtxs x).arbPair k1 = d.arbPair k1 := by simp only [Dev.arbPair, Dev.arb_setCtxs]
@[simp] theorem Dev.wheel_setCtxs (d : Dev) (x : Map Ctx) (k1 : Nat) : (d.setCtxs x).wheel k1 = d.wheel k1 := by simp only [Dev.wheel, Dev.time_setCtxs]
@[simp] theorem Dev.ce_setCtxs (d : Dev) (x : Map Ctx) (k1 : Nat) : (d.setCtxs x).ce k1 = d.ce k1 := by simp only [Dev.ce, Dev.eng_setCtxs]
@[simp] theorem Dev.launch?_setCtxs (d : Dev) (x : Map Ctx) (k1 : Nat) : (d.setCtxs x).launch? k1 = d.launch? k1 := by simp only [Dev.launch?, Dev.eng_setCtxs]
@[simp] theorem Dev.member?_setCtxs (d : Dev) (x : Map Ctx) (k1 k2 : Nat) : (d.setCtxs x).member? k1 k2 = d.member? k1 k2 := by simp only [Dev.member?, Dev.eng_setCtxs]
@[simp] theorem Dev.slot_setCtxs (d : Dev) (x : Map Ctx) (k1 : Nat) : (d.setCtxs x).slot k1 = d.slot k1 := by simp only [Dev.slot, Dev.seq_setCtxs]
@[simp] theorem Dev.pool_setCtxs (d : Dev) (x : Map Ctx) (k1 : Nat) : (d.setCtxs x).pool k1 = d.pool k1 := by simp only [Dev.pool, Dev.seq_setCtxs]
@[simp] theorem Dev.core_setCtxs (d : Dev) (x : Map Ctx) (k1 : Nat) : (d.setCtxs x).core k1 = d.core k1 := by simp only [Dev.core, Dev.cpx_setCtxs]
@[simp] theorem Dev.hart_setCtxs (d : Dev) (x : Map Ctx) (k1 : Nat) : (d.setCtxs x).hart k1 = d.hart k1 := by simp only [Dev.hart, Dev.cpx_setCtxs]
@[simp] theorem Dev.dirEnt_setCtxs (d : Dev) (x : Map Ctx) (k1 : Nat) : (d.setCtxs x).dirEnt k1 = d.dirEnt k1 := by simp only [Dev.dirEnt, Dev.coh_setCtxs]
@[simp] theorem Dev.tlb_setCtxs (d : Dev) (x : Map Ctx) (k1 : Nat) : (d.setCtxs x).tlb k1 = d.tlb k1 := by simp only [Dev.tlb, Dev.xlat_setCtxs]
@[simp] theorem Dev.peer_setCtxs (d : Dev) (x : Map Ctx) (k1 k2 : Nat) : (d.setCtxs x).peer k1 k2 = d.peer k1 k2 := by simp only [Dev.peer, Dev.fab_setCtxs]
@[simp] theorem Dev.fabPort_setCtxs (d : Dev) (x : Map Ctx) (k1 : Nat) : (d.setCtxs x).fabPort k1 = d.fabPort k1 := by simp only [Dev.fabPort, Dev.fab_setCtxs]
@[simp] theorem Dev.conn_setCtxs (d : Dev) (x : Map Ctx) (k1 : Nat) : (d.setCtxs x).conn k1 = d.conn k1 := by simp only [Dev.conn, Dev.sec_setCtxs]
@[simp] theorem Dev.ctx_setFree (d : Dev) (x : Nat) (k1 : Nat) : (d.setFree x).ctx k1 = d.ctx k1 := by simp only [Dev.ctx, Dev.ctxs_setFree]
@[simp] theorem Dev.pair_setFree (d : Dev) (x : Nat) (k1 : Nat) : (d.setFree x).pair k1 = d.pair k1 := by simp only [Dev.pair, Dev.ring_setFree]
@[simp] theorem Dev.evSrc_setFree (d : Dev) (x : Nat) (k1 : Nat) : (d.setFree x).evSrc k1 = d.evSrc k1 := by simp only [Dev.evSrc, Dev.arb_setFree]
@[simp] theorem Dev.arbPair_setFree (d : Dev) (x : Nat) (k1 : Nat) : (d.setFree x).arbPair k1 = d.arbPair k1 := by simp only [Dev.arbPair, Dev.arb_setFree]
@[simp] theorem Dev.wheel_setFree (d : Dev) (x : Nat) (k1 : Nat) : (d.setFree x).wheel k1 = d.wheel k1 := by simp only [Dev.wheel, Dev.time_setFree]
@[simp] theorem Dev.ce_setFree (d : Dev) (x : Nat) (k1 : Nat) : (d.setFree x).ce k1 = d.ce k1 := by simp only [Dev.ce, Dev.eng_setFree]
@[simp] theorem Dev.launch?_setFree (d : Dev) (x : Nat) (k1 : Nat) : (d.setFree x).launch? k1 = d.launch? k1 := by simp only [Dev.launch?, Dev.eng_setFree]
@[simp] theorem Dev.member?_setFree (d : Dev) (x : Nat) (k1 k2 : Nat) : (d.setFree x).member? k1 k2 = d.member? k1 k2 := by simp only [Dev.member?, Dev.eng_setFree]
@[simp] theorem Dev.slot_setFree (d : Dev) (x : Nat) (k1 : Nat) : (d.setFree x).slot k1 = d.slot k1 := by simp only [Dev.slot, Dev.seq_setFree]
@[simp] theorem Dev.pool_setFree (d : Dev) (x : Nat) (k1 : Nat) : (d.setFree x).pool k1 = d.pool k1 := by simp only [Dev.pool, Dev.seq_setFree]
@[simp] theorem Dev.core_setFree (d : Dev) (x : Nat) (k1 : Nat) : (d.setFree x).core k1 = d.core k1 := by simp only [Dev.core, Dev.cpx_setFree]
@[simp] theorem Dev.hart_setFree (d : Dev) (x : Nat) (k1 : Nat) : (d.setFree x).hart k1 = d.hart k1 := by simp only [Dev.hart, Dev.cpx_setFree]
@[simp] theorem Dev.dirEnt_setFree (d : Dev) (x : Nat) (k1 : Nat) : (d.setFree x).dirEnt k1 = d.dirEnt k1 := by simp only [Dev.dirEnt, Dev.coh_setFree]
@[simp] theorem Dev.tlb_setFree (d : Dev) (x : Nat) (k1 : Nat) : (d.setFree x).tlb k1 = d.tlb k1 := by simp only [Dev.tlb, Dev.xlat_setFree]
@[simp] theorem Dev.peer_setFree (d : Dev) (x : Nat) (k1 k2 : Nat) : (d.setFree x).peer k1 k2 = d.peer k1 k2 := by simp only [Dev.peer, Dev.fab_setFree]
@[simp] theorem Dev.fabPort_setFree (d : Dev) (x : Nat) (k1 : Nat) : (d.setFree x).fabPort k1 = d.fabPort k1 := by simp only [Dev.fabPort, Dev.fab_setFree]
@[simp] theorem Dev.conn_setFree (d : Dev) (x : Nat) (k1 : Nat) : (d.setFree x).conn k1 = d.conn k1 := by simp only [Dev.conn, Dev.sec_setFree]
@[simp] theorem Dev.ctx_setMsix (d : Dev) (x : Map Word) (k1 : Nat) : (d.setMsix x).ctx k1 = d.ctx k1 := by simp only [Dev.ctx, Dev.ctxs_setMsix]
@[simp] theorem Dev.pair_setMsix (d : Dev) (x : Map Word) (k1 : Nat) : (d.setMsix x).pair k1 = d.pair k1 := by simp only [Dev.pair, Dev.ring_setMsix]
@[simp] theorem Dev.evSrc_setMsix (d : Dev) (x : Map Word) (k1 : Nat) : (d.setMsix x).evSrc k1 = d.evSrc k1 := by simp only [Dev.evSrc, Dev.arb_setMsix]
@[simp] theorem Dev.arbPair_setMsix (d : Dev) (x : Map Word) (k1 : Nat) : (d.setMsix x).arbPair k1 = d.arbPair k1 := by simp only [Dev.arbPair, Dev.arb_setMsix]
@[simp] theorem Dev.wheel_setMsix (d : Dev) (x : Map Word) (k1 : Nat) : (d.setMsix x).wheel k1 = d.wheel k1 := by simp only [Dev.wheel, Dev.time_setMsix]
@[simp] theorem Dev.ce_setMsix (d : Dev) (x : Map Word) (k1 : Nat) : (d.setMsix x).ce k1 = d.ce k1 := by simp only [Dev.ce, Dev.eng_setMsix]
@[simp] theorem Dev.launch?_setMsix (d : Dev) (x : Map Word) (k1 : Nat) : (d.setMsix x).launch? k1 = d.launch? k1 := by simp only [Dev.launch?, Dev.eng_setMsix]
@[simp] theorem Dev.member?_setMsix (d : Dev) (x : Map Word) (k1 k2 : Nat) : (d.setMsix x).member? k1 k2 = d.member? k1 k2 := by simp only [Dev.member?, Dev.eng_setMsix]
@[simp] theorem Dev.slot_setMsix (d : Dev) (x : Map Word) (k1 : Nat) : (d.setMsix x).slot k1 = d.slot k1 := by simp only [Dev.slot, Dev.seq_setMsix]
@[simp] theorem Dev.pool_setMsix (d : Dev) (x : Map Word) (k1 : Nat) : (d.setMsix x).pool k1 = d.pool k1 := by simp only [Dev.pool, Dev.seq_setMsix]
@[simp] theorem Dev.core_setMsix (d : Dev) (x : Map Word) (k1 : Nat) : (d.setMsix x).core k1 = d.core k1 := by simp only [Dev.core, Dev.cpx_setMsix]
@[simp] theorem Dev.hart_setMsix (d : Dev) (x : Map Word) (k1 : Nat) : (d.setMsix x).hart k1 = d.hart k1 := by simp only [Dev.hart, Dev.cpx_setMsix]
@[simp] theorem Dev.dirEnt_setMsix (d : Dev) (x : Map Word) (k1 : Nat) : (d.setMsix x).dirEnt k1 = d.dirEnt k1 := by simp only [Dev.dirEnt, Dev.coh_setMsix]
@[simp] theorem Dev.tlb_setMsix (d : Dev) (x : Map Word) (k1 : Nat) : (d.setMsix x).tlb k1 = d.tlb k1 := by simp only [Dev.tlb, Dev.xlat_setMsix]
@[simp] theorem Dev.peer_setMsix (d : Dev) (x : Map Word) (k1 k2 : Nat) : (d.setMsix x).peer k1 k2 = d.peer k1 k2 := by simp only [Dev.peer, Dev.fab_setMsix]
@[simp] theorem Dev.fabPort_setMsix (d : Dev) (x : Map Word) (k1 : Nat) : (d.setMsix x).fabPort k1 = d.fabPort k1 := by simp only [Dev.fabPort, Dev.fab_setMsix]
@[simp] theorem Dev.conn_setMsix (d : Dev) (x : Map Word) (k1 : Nat) : (d.setMsix x).conn k1 = d.conn k1 := by simp only [Dev.conn, Dev.sec_setMsix]
@[simp] theorem Dev.ctx_setReg (d : Dev) (r : RegName) (i : Nat) (v : Word) (k1 : Nat) : (d.setReg r i v).ctx k1 = d.ctx k1 := by simp only [Dev.ctx, Dev.ctxs_setReg]
@[simp] theorem Dev.pair_setReg (d : Dev) (r : RegName) (i : Nat) (v : Word) (k1 : Nat) : (d.setReg r i v).pair k1 = d.pair k1 := by simp only [Dev.pair, Dev.ring_setReg]
@[simp] theorem Dev.evSrc_setReg (d : Dev) (r : RegName) (i : Nat) (v : Word) (k1 : Nat) : (d.setReg r i v).evSrc k1 = d.evSrc k1 := by simp only [Dev.evSrc, Dev.arb_setReg]
@[simp] theorem Dev.arbPair_setReg (d : Dev) (r : RegName) (i : Nat) (v : Word) (k1 : Nat) : (d.setReg r i v).arbPair k1 = d.arbPair k1 := by simp only [Dev.arbPair, Dev.arb_setReg]
@[simp] theorem Dev.wheel_setReg (d : Dev) (r : RegName) (i : Nat) (v : Word) (k1 : Nat) : (d.setReg r i v).wheel k1 = d.wheel k1 := by simp only [Dev.wheel, Dev.time_setReg]
@[simp] theorem Dev.ce_setReg (d : Dev) (r : RegName) (i : Nat) (v : Word) (k1 : Nat) : (d.setReg r i v).ce k1 = d.ce k1 := by simp only [Dev.ce, Dev.eng_setReg]
@[simp] theorem Dev.launch?_setReg (d : Dev) (r : RegName) (i : Nat) (v : Word) (k1 : Nat) : (d.setReg r i v).launch? k1 = d.launch? k1 := by simp only [Dev.launch?, Dev.eng_setReg]
@[simp] theorem Dev.member?_setReg (d : Dev) (r : RegName) (i : Nat) (v : Word) (k1 k2 : Nat) : (d.setReg r i v).member? k1 k2 = d.member? k1 k2 := by simp only [Dev.member?, Dev.eng_setReg]
@[simp] theorem Dev.slot_setReg (d : Dev) (r : RegName) (i : Nat) (v : Word) (k1 : Nat) : (d.setReg r i v).slot k1 = d.slot k1 := by simp only [Dev.slot, Dev.seq_setReg]
@[simp] theorem Dev.pool_setReg (d : Dev) (r : RegName) (i : Nat) (v : Word) (k1 : Nat) : (d.setReg r i v).pool k1 = d.pool k1 := by simp only [Dev.pool, Dev.seq_setReg]
@[simp] theorem Dev.core_setReg (d : Dev) (r : RegName) (i : Nat) (v : Word) (k1 : Nat) : (d.setReg r i v).core k1 = d.core k1 := by simp only [Dev.core, Dev.cpx_setReg]
@[simp] theorem Dev.hart_setReg (d : Dev) (r : RegName) (i : Nat) (v : Word) (k1 : Nat) : (d.setReg r i v).hart k1 = d.hart k1 := by simp only [Dev.hart, Dev.cpx_setReg]
@[simp] theorem Dev.dirEnt_setReg (d : Dev) (r : RegName) (i : Nat) (v : Word) (k1 : Nat) : (d.setReg r i v).dirEnt k1 = d.dirEnt k1 := by simp only [Dev.dirEnt, Dev.coh_setReg]
@[simp] theorem Dev.tlb_setReg (d : Dev) (r : RegName) (i : Nat) (v : Word) (k1 : Nat) : (d.setReg r i v).tlb k1 = d.tlb k1 := by simp only [Dev.tlb, Dev.xlat_setReg]
@[simp] theorem Dev.peer_setReg (d : Dev) (r : RegName) (i : Nat) (v : Word) (k1 k2 : Nat) : (d.setReg r i v).peer k1 k2 = d.peer k1 k2 := by simp only [Dev.peer, Dev.fab_setReg]
@[simp] theorem Dev.fabPort_setReg (d : Dev) (r : RegName) (i : Nat) (v : Word) (k1 : Nat) : (d.setReg r i v).fabPort k1 = d.fabPort k1 := by simp only [Dev.fabPort, Dev.fab_setReg]
@[simp] theorem Dev.conn_setReg (d : Dev) (r : RegName) (i : Nat) (v : Word) (k1 : Nat) : (d.setReg r i v).conn k1 = d.conn k1 := by simp only [Dev.conn, Dev.sec_setReg]
@[simp] theorem Dev.ctx_fset (d : Dev) (f : Fld) (i v : Nat) (k1 : Nat) : (d.fset f i v).ctx k1 = d.ctx k1 := by simp only [Dev.ctx, Dev.ctxs_fset]
@[simp] theorem Dev.pair_fset (d : Dev) (f : Fld) (i v : Nat) (k1 : Nat) : (d.fset f i v).pair k1 = d.pair k1 := by simp only [Dev.pair, Dev.ring_fset]
@[simp] theorem Dev.evSrc_fset (d : Dev) (f : Fld) (i v : Nat) (k1 : Nat) : (d.fset f i v).evSrc k1 = d.evSrc k1 := by simp only [Dev.evSrc, Dev.arb_fset]
@[simp] theorem Dev.arbPair_fset (d : Dev) (f : Fld) (i v : Nat) (k1 : Nat) : (d.fset f i v).arbPair k1 = d.arbPair k1 := by simp only [Dev.arbPair, Dev.arb_fset]
@[simp] theorem Dev.wheel_fset (d : Dev) (f : Fld) (i v : Nat) (k1 : Nat) : (d.fset f i v).wheel k1 = d.wheel k1 := by simp only [Dev.wheel, Dev.time_fset]
@[simp] theorem Dev.ce_fset (d : Dev) (f : Fld) (i v : Nat) (k1 : Nat) : (d.fset f i v).ce k1 = d.ce k1 := by simp only [Dev.ce, Dev.eng_fset]
@[simp] theorem Dev.launch?_fset (d : Dev) (f : Fld) (i v : Nat) (k1 : Nat) : (d.fset f i v).launch? k1 = d.launch? k1 := by simp only [Dev.launch?, Dev.eng_fset]
@[simp] theorem Dev.member?_fset (d : Dev) (f : Fld) (i v : Nat) (k1 k2 : Nat) : (d.fset f i v).member? k1 k2 = d.member? k1 k2 := by simp only [Dev.member?, Dev.eng_fset]
@[simp] theorem Dev.slot_fset (d : Dev) (f : Fld) (i v : Nat) (k1 : Nat) : (d.fset f i v).slot k1 = d.slot k1 := by simp only [Dev.slot, Dev.seq_fset]
@[simp] theorem Dev.pool_fset (d : Dev) (f : Fld) (i v : Nat) (k1 : Nat) : (d.fset f i v).pool k1 = d.pool k1 := by simp only [Dev.pool, Dev.seq_fset]
@[simp] theorem Dev.core_fset (d : Dev) (f : Fld) (i v : Nat) (k1 : Nat) : (d.fset f i v).core k1 = d.core k1 := by simp only [Dev.core, Dev.cpx_fset]
@[simp] theorem Dev.hart_fset (d : Dev) (f : Fld) (i v : Nat) (k1 : Nat) : (d.fset f i v).hart k1 = d.hart k1 := by simp only [Dev.hart, Dev.cpx_fset]
@[simp] theorem Dev.dirEnt_fset (d : Dev) (f : Fld) (i v : Nat) (k1 : Nat) : (d.fset f i v).dirEnt k1 = d.dirEnt k1 := by simp only [Dev.dirEnt, Dev.coh_fset]
@[simp] theorem Dev.tlb_fset (d : Dev) (f : Fld) (i v : Nat) (k1 : Nat) : (d.fset f i v).tlb k1 = d.tlb k1 := by simp only [Dev.tlb, Dev.xlat_fset]
@[simp] theorem Dev.peer_fset (d : Dev) (f : Fld) (i v : Nat) (k1 k2 : Nat) : (d.fset f i v).peer k1 k2 = d.peer k1 k2 := by simp only [Dev.peer, Dev.fab_fset]
@[simp] theorem Dev.fabPort_fset (d : Dev) (f : Fld) (i v : Nat) (k1 : Nat) : (d.fset f i v).fabPort k1 = d.fabPort k1 := by simp only [Dev.fabPort, Dev.fab_fset]
@[simp] theorem Dev.conn_fset (d : Dev) (f : Fld) (i v : Nat) (k1 : Nat) : (d.fset f i v).conn k1 = d.conn k1 := by simp only [Dev.conn, Dev.sec_fset]
@[simp] theorem Dev.ctx_fbump (d : Dev) (f : Fld) (i n : Nat) (k1 : Nat) : (d.fbump f i n).ctx k1 = d.ctx k1 := by simp only [Dev.ctx, Dev.ctxs_fbump]
@[simp] theorem Dev.pair_fbump (d : Dev) (f : Fld) (i n : Nat) (k1 : Nat) : (d.fbump f i n).pair k1 = d.pair k1 := by simp only [Dev.pair, Dev.ring_fbump]
@[simp] theorem Dev.evSrc_fbump (d : Dev) (f : Fld) (i n : Nat) (k1 : Nat) : (d.fbump f i n).evSrc k1 = d.evSrc k1 := by simp only [Dev.evSrc, Dev.arb_fbump]
@[simp] theorem Dev.arbPair_fbump (d : Dev) (f : Fld) (i n : Nat) (k1 : Nat) : (d.fbump f i n).arbPair k1 = d.arbPair k1 := by simp only [Dev.arbPair, Dev.arb_fbump]
@[simp] theorem Dev.wheel_fbump (d : Dev) (f : Fld) (i n : Nat) (k1 : Nat) : (d.fbump f i n).wheel k1 = d.wheel k1 := by simp only [Dev.wheel, Dev.time_fbump]
@[simp] theorem Dev.ce_fbump (d : Dev) (f : Fld) (i n : Nat) (k1 : Nat) : (d.fbump f i n).ce k1 = d.ce k1 := by simp only [Dev.ce, Dev.eng_fbump]
@[simp] theorem Dev.launch?_fbump (d : Dev) (f : Fld) (i n : Nat) (k1 : Nat) : (d.fbump f i n).launch? k1 = d.launch? k1 := by simp only [Dev.launch?, Dev.eng_fbump]
@[simp] theorem Dev.member?_fbump (d : Dev) (f : Fld) (i n : Nat) (k1 k2 : Nat) : (d.fbump f i n).member? k1 k2 = d.member? k1 k2 := by simp only [Dev.member?, Dev.eng_fbump]
@[simp] theorem Dev.slot_fbump (d : Dev) (f : Fld) (i n : Nat) (k1 : Nat) : (d.fbump f i n).slot k1 = d.slot k1 := by simp only [Dev.slot, Dev.seq_fbump]
@[simp] theorem Dev.pool_fbump (d : Dev) (f : Fld) (i n : Nat) (k1 : Nat) : (d.fbump f i n).pool k1 = d.pool k1 := by simp only [Dev.pool, Dev.seq_fbump]
@[simp] theorem Dev.core_fbump (d : Dev) (f : Fld) (i n : Nat) (k1 : Nat) : (d.fbump f i n).core k1 = d.core k1 := by simp only [Dev.core, Dev.cpx_fbump]
@[simp] theorem Dev.hart_fbump (d : Dev) (f : Fld) (i n : Nat) (k1 : Nat) : (d.fbump f i n).hart k1 = d.hart k1 := by simp only [Dev.hart, Dev.cpx_fbump]
@[simp] theorem Dev.dirEnt_fbump (d : Dev) (f : Fld) (i n : Nat) (k1 : Nat) : (d.fbump f i n).dirEnt k1 = d.dirEnt k1 := by simp only [Dev.dirEnt, Dev.coh_fbump]
@[simp] theorem Dev.tlb_fbump (d : Dev) (f : Fld) (i n : Nat) (k1 : Nat) : (d.fbump f i n).tlb k1 = d.tlb k1 := by simp only [Dev.tlb, Dev.xlat_fbump]
@[simp] theorem Dev.peer_fbump (d : Dev) (f : Fld) (i n : Nat) (k1 k2 : Nat) : (d.fbump f i n).peer k1 k2 = d.peer k1 k2 := by simp only [Dev.peer, Dev.fab_fbump]
@[simp] theorem Dev.fabPort_fbump (d : Dev) (f : Fld) (i n : Nat) (k1 : Nat) : (d.fbump f i n).fabPort k1 = d.fabPort k1 := by simp only [Dev.fabPort, Dev.fab_fbump]
@[simp] theorem Dev.conn_fbump (d : Dev) (f : Fld) (i n : Nat) (k1 : Nat) : (d.fbump f i n).conn k1 = d.conn k1 := by simp only [Dev.conn, Dev.sec_fbump]
@[simp] theorem Dev.ctx_refuse (d : Dev) (r : RegName) (i : Nat) (c : Bool) (k1 : Nat) : (d.refuse r i c).ctx k1 = d.ctx k1 := by simp only [Dev.ctx, Dev.ctxs_refuse]
@[simp] theorem Dev.pair_refuse (d : Dev) (r : RegName) (i : Nat) (c : Bool) (k1 : Nat) : (d.refuse r i c).pair k1 = d.pair k1 := by simp only [Dev.pair, Dev.ring_refuse]
@[simp] theorem Dev.evSrc_refuse (d : Dev) (r : RegName) (i : Nat) (c : Bool) (k1 : Nat) : (d.refuse r i c).evSrc k1 = d.evSrc k1 := by simp only [Dev.evSrc, Dev.arb_refuse]
@[simp] theorem Dev.arbPair_refuse (d : Dev) (r : RegName) (i : Nat) (c : Bool) (k1 : Nat) : (d.refuse r i c).arbPair k1 = d.arbPair k1 := by simp only [Dev.arbPair, Dev.arb_refuse]
@[simp] theorem Dev.wheel_refuse (d : Dev) (r : RegName) (i : Nat) (c : Bool) (k1 : Nat) : (d.refuse r i c).wheel k1 = d.wheel k1 := by simp only [Dev.wheel, Dev.time_refuse]
@[simp] theorem Dev.ce_refuse (d : Dev) (r : RegName) (i : Nat) (c : Bool) (k1 : Nat) : (d.refuse r i c).ce k1 = d.ce k1 := by simp only [Dev.ce, Dev.eng_refuse]
@[simp] theorem Dev.launch?_refuse (d : Dev) (r : RegName) (i : Nat) (c : Bool) (k1 : Nat) : (d.refuse r i c).launch? k1 = d.launch? k1 := by simp only [Dev.launch?, Dev.eng_refuse]
@[simp] theorem Dev.member?_refuse (d : Dev) (r : RegName) (i : Nat) (c : Bool) (k1 k2 : Nat) : (d.refuse r i c).member? k1 k2 = d.member? k1 k2 := by simp only [Dev.member?, Dev.eng_refuse]
@[simp] theorem Dev.slot_refuse (d : Dev) (r : RegName) (i : Nat) (c : Bool) (k1 : Nat) : (d.refuse r i c).slot k1 = d.slot k1 := by simp only [Dev.slot, Dev.seq_refuse]
@[simp] theorem Dev.pool_refuse (d : Dev) (r : RegName) (i : Nat) (c : Bool) (k1 : Nat) : (d.refuse r i c).pool k1 = d.pool k1 := by simp only [Dev.pool, Dev.seq_refuse]
@[simp] theorem Dev.core_refuse (d : Dev) (r : RegName) (i : Nat) (c : Bool) (k1 : Nat) : (d.refuse r i c).core k1 = d.core k1 := by simp only [Dev.core, Dev.cpx_refuse]
@[simp] theorem Dev.hart_refuse (d : Dev) (r : RegName) (i : Nat) (c : Bool) (k1 : Nat) : (d.refuse r i c).hart k1 = d.hart k1 := by simp only [Dev.hart, Dev.cpx_refuse]
@[simp] theorem Dev.dirEnt_refuse (d : Dev) (r : RegName) (i : Nat) (c : Bool) (k1 : Nat) : (d.refuse r i c).dirEnt k1 = d.dirEnt k1 := by simp only [Dev.dirEnt, Dev.coh_refuse]
@[simp] theorem Dev.tlb_refuse (d : Dev) (r : RegName) (i : Nat) (c : Bool) (k1 : Nat) : (d.refuse r i c).tlb k1 = d.tlb k1 := by simp only [Dev.tlb, Dev.xlat_refuse]
@[simp] theorem Dev.peer_refuse (d : Dev) (r : RegName) (i : Nat) (c : Bool) (k1 k2 : Nat) : (d.refuse r i c).peer k1 k2 = d.peer k1 k2 := by simp only [Dev.peer, Dev.fab_refuse]
@[simp] theorem Dev.fabPort_refuse (d : Dev) (r : RegName) (i : Nat) (c : Bool) (k1 : Nat) : (d.refuse r i c).fabPort k1 = d.fabPort k1 := by simp only [Dev.fabPort, Dev.fab_refuse]
@[simp] theorem Dev.conn_refuse (d : Dev) (r : RegName) (i : Nat) (c : Bool) (k1 : Nat) : (d.refuse r i c).conn k1 = d.conn k1 := by simp only [Dev.conn, Dev.sec_refuse]
@[simp] theorem Dev.ctx_took (d : Dev) (n : Nat) (k1 : Nat) : (d.took n).ctx k1 = d.ctx k1 := by simp only [Dev.ctx, Dev.ctxs_took]
@[simp] theorem Dev.pair_took (d : Dev) (n : Nat) (k1 : Nat) : (d.took n).pair k1 = d.pair k1 := by simp only [Dev.pair, Dev.ring_took]
@[simp] theorem Dev.evSrc_took (d : Dev) (n : Nat) (k1 : Nat) : (d.took n).evSrc k1 = d.evSrc k1 := by simp only [Dev.evSrc, Dev.arb_took]
@[simp] theorem Dev.arbPair_took (d : Dev) (n : Nat) (k1 : Nat) : (d.took n).arbPair k1 = d.arbPair k1 := by simp only [Dev.arbPair, Dev.arb_took]
@[simp] theorem Dev.wheel_took (d : Dev) (n : Nat) (k1 : Nat) : (d.took n).wheel k1 = d.wheel k1 := by simp only [Dev.wheel, Dev.time_took]
@[simp] theorem Dev.ce_took (d : Dev) (n : Nat) (k1 : Nat) : (d.took n).ce k1 = d.ce k1 := by simp only [Dev.ce, Dev.eng_took]
@[simp] theorem Dev.launch?_took (d : Dev) (n : Nat) (k1 : Nat) : (d.took n).launch? k1 = d.launch? k1 := by simp only [Dev.launch?, Dev.eng_took]
@[simp] theorem Dev.member?_took (d : Dev) (n : Nat) (k1 k2 : Nat) : (d.took n).member? k1 k2 = d.member? k1 k2 := by simp only [Dev.member?, Dev.eng_took]
@[simp] theorem Dev.slot_took (d : Dev) (n : Nat) (k1 : Nat) : (d.took n).slot k1 = d.slot k1 := by simp only [Dev.slot, Dev.seq_took]
@[simp] theorem Dev.pool_took (d : Dev) (n : Nat) (k1 : Nat) : (d.took n).pool k1 = d.pool k1 := by simp only [Dev.pool, Dev.seq_took]
@[simp] theorem Dev.core_took (d : Dev) (n : Nat) (k1 : Nat) : (d.took n).core k1 = d.core k1 := by simp only [Dev.core, Dev.cpx_took]
@[simp] theorem Dev.hart_took (d : Dev) (n : Nat) (k1 : Nat) : (d.took n).hart k1 = d.hart k1 := by simp only [Dev.hart, Dev.cpx_took]
@[simp] theorem Dev.dirEnt_took (d : Dev) (n : Nat) (k1 : Nat) : (d.took n).dirEnt k1 = d.dirEnt k1 := by simp only [Dev.dirEnt, Dev.coh_took]
@[simp] theorem Dev.tlb_took (d : Dev) (n : Nat) (k1 : Nat) : (d.took n).tlb k1 = d.tlb k1 := by simp only [Dev.tlb, Dev.xlat_took]
@[simp] theorem Dev.peer_took (d : Dev) (n : Nat) (k1 k2 : Nat) : (d.took n).peer k1 k2 = d.peer k1 k2 := by simp only [Dev.peer, Dev.fab_took]
@[simp] theorem Dev.fabPort_took (d : Dev) (n : Nat) (k1 : Nat) : (d.took n).fabPort k1 = d.fabPort k1 := by simp only [Dev.fabPort, Dev.fab_took]
@[simp] theorem Dev.conn_took (d : Dev) (n : Nat) (k1 : Nat) : (d.took n).conn k1 = d.conn k1 := by simp only [Dev.conn, Dev.sec_took]
@[simp] theorem Dev.ctx_notePoison (d : Dev) (g : Nat) (k1 : Nat) : (d.notePoison g).ctx k1 = d.ctx k1 := by simp only [Dev.ctx, Dev.ctxs_notePoison]
@[simp] theorem Dev.pair_notePoison (d : Dev) (g : Nat) (k1 : Nat) : (d.notePoison g).pair k1 = d.pair k1 := by simp only [Dev.pair, Dev.ring_notePoison]
@[simp] theorem Dev.evSrc_notePoison (d : Dev) (g : Nat) (k1 : Nat) : (d.notePoison g).evSrc k1 = d.evSrc k1 := by simp only [Dev.evSrc, Dev.arb_notePoison]
@[simp] theorem Dev.arbPair_notePoison (d : Dev) (g : Nat) (k1 : Nat) : (d.notePoison g).arbPair k1 = d.arbPair k1 := by simp only [Dev.arbPair, Dev.arb_notePoison]
@[simp] theorem Dev.wheel_notePoison (d : Dev) (g : Nat) (k1 : Nat) : (d.notePoison g).wheel k1 = d.wheel k1 := by simp only [Dev.wheel, Dev.time_notePoison]
@[simp] theorem Dev.ce_notePoison (d : Dev) (g : Nat) (k1 : Nat) : (d.notePoison g).ce k1 = d.ce k1 := by simp only [Dev.ce, Dev.eng_notePoison]
@[simp] theorem Dev.launch?_notePoison (d : Dev) (g : Nat) (k1 : Nat) : (d.notePoison g).launch? k1 = d.launch? k1 := by simp only [Dev.launch?, Dev.eng_notePoison]
@[simp] theorem Dev.member?_notePoison (d : Dev) (g : Nat) (k1 k2 : Nat) : (d.notePoison g).member? k1 k2 = d.member? k1 k2 := by simp only [Dev.member?, Dev.eng_notePoison]
@[simp] theorem Dev.slot_notePoison (d : Dev) (g : Nat) (k1 : Nat) : (d.notePoison g).slot k1 = d.slot k1 := by simp only [Dev.slot, Dev.seq_notePoison]
@[simp] theorem Dev.pool_notePoison (d : Dev) (g : Nat) (k1 : Nat) : (d.notePoison g).pool k1 = d.pool k1 := by simp only [Dev.pool, Dev.seq_notePoison]
@[simp] theorem Dev.core_notePoison (d : Dev) (g : Nat) (k1 : Nat) : (d.notePoison g).core k1 = d.core k1 := by simp only [Dev.core, Dev.cpx_notePoison]
@[simp] theorem Dev.hart_notePoison (d : Dev) (g : Nat) (k1 : Nat) : (d.notePoison g).hart k1 = d.hart k1 := by simp only [Dev.hart, Dev.cpx_notePoison]
@[simp] theorem Dev.dirEnt_notePoison (d : Dev) (g : Nat) (k1 : Nat) : (d.notePoison g).dirEnt k1 = d.dirEnt k1 := by simp only [Dev.dirEnt, Dev.coh_notePoison]
@[simp] theorem Dev.tlb_notePoison (d : Dev) (g : Nat) (k1 : Nat) : (d.notePoison g).tlb k1 = d.tlb k1 := by simp only [Dev.tlb, Dev.xlat_notePoison]
@[simp] theorem Dev.peer_notePoison (d : Dev) (g : Nat) (k1 k2 : Nat) : (d.notePoison g).peer k1 k2 = d.peer k1 k2 := by simp only [Dev.peer, Dev.fab_notePoison]
@[simp] theorem Dev.fabPort_notePoison (d : Dev) (g : Nat) (k1 : Nat) : (d.notePoison g).fabPort k1 = d.fabPort k1 := by simp only [Dev.fabPort, Dev.fab_notePoison]
@[simp] theorem Dev.conn_notePoison (d : Dev) (g : Nat) (k1 : Nat) : (d.notePoison g).conn k1 = d.conn k1 := by simp only [Dev.conn, Dev.sec_notePoison]
@[simp] theorem Dev.pair_setCtx (d : Dev) (c : Nat) (x : Ctx) (k1 : Nat) : (d.setCtx c x).pair k1 = d.pair k1 := by simp only [Dev.pair, Dev.ring_setCtx]
@[simp] theorem Dev.evSrc_setCtx (d : Dev) (c : Nat) (x : Ctx) (k1 : Nat) : (d.setCtx c x).evSrc k1 = d.evSrc k1 := by simp only [Dev.evSrc, Dev.arb_setCtx]
@[simp] theorem Dev.arbPair_setCtx (d : Dev) (c : Nat) (x : Ctx) (k1 : Nat) : (d.setCtx c x).arbPair k1 = d.arbPair k1 := by simp only [Dev.arbPair, Dev.arb_setCtx]
@[simp] theorem Dev.wheel_setCtx (d : Dev) (c : Nat) (x : Ctx) (k1 : Nat) : (d.setCtx c x).wheel k1 = d.wheel k1 := by simp only [Dev.wheel, Dev.time_setCtx]
@[simp] theorem Dev.ce_setCtx (d : Dev) (c : Nat) (x : Ctx) (k1 : Nat) : (d.setCtx c x).ce k1 = d.ce k1 := by simp only [Dev.ce, Dev.eng_setCtx]
@[simp] theorem Dev.launch?_setCtx (d : Dev) (c : Nat) (x : Ctx) (k1 : Nat) : (d.setCtx c x).launch? k1 = d.launch? k1 := by simp only [Dev.launch?, Dev.eng_setCtx]
@[simp] theorem Dev.member?_setCtx (d : Dev) (c : Nat) (x : Ctx) (k1 k2 : Nat) : (d.setCtx c x).member? k1 k2 = d.member? k1 k2 := by simp only [Dev.member?, Dev.eng_setCtx]
@[simp] theorem Dev.slot_setCtx (d : Dev) (c : Nat) (x : Ctx) (k1 : Nat) : (d.setCtx c x).slot k1 = d.slot k1 := by simp only [Dev.slot, Dev.seq_setCtx]
@[simp] theorem Dev.pool_setCtx (d : Dev) (c : Nat) (x : Ctx) (k1 : Nat) : (d.setCtx c x).pool k1 = d.pool k1 := by simp only [Dev.pool, Dev.seq_setCtx]
@[simp] theorem Dev.core_setCtx (d : Dev) (c : Nat) (x : Ctx) (k1 : Nat) : (d.setCtx c x).core k1 = d.core k1 := by simp only [Dev.core, Dev.cpx_setCtx]
@[simp] theorem Dev.hart_setCtx (d : Dev) (c : Nat) (x : Ctx) (k1 : Nat) : (d.setCtx c x).hart k1 = d.hart k1 := by simp only [Dev.hart, Dev.cpx_setCtx]
@[simp] theorem Dev.dirEnt_setCtx (d : Dev) (c : Nat) (x : Ctx) (k1 : Nat) : (d.setCtx c x).dirEnt k1 = d.dirEnt k1 := by simp only [Dev.dirEnt, Dev.coh_setCtx]
@[simp] theorem Dev.tlb_setCtx (d : Dev) (c : Nat) (x : Ctx) (k1 : Nat) : (d.setCtx c x).tlb k1 = d.tlb k1 := by simp only [Dev.tlb, Dev.xlat_setCtx]
@[simp] theorem Dev.peer_setCtx (d : Dev) (c : Nat) (x : Ctx) (k1 k2 : Nat) : (d.setCtx c x).peer k1 k2 = d.peer k1 k2 := by simp only [Dev.peer, Dev.fab_setCtx]
@[simp] theorem Dev.fabPort_setCtx (d : Dev) (c : Nat) (x : Ctx) (k1 : Nat) : (d.setCtx c x).fabPort k1 = d.fabPort k1 := by simp only [Dev.fabPort, Dev.fab_setCtx]
@[simp] theorem Dev.conn_setCtx (d : Dev) (c : Nat) (x : Ctx) (k1 : Nat) : (d.setCtx c x).conn k1 = d.conn k1 := by simp only [Dev.conn, Dev.sec_setCtx]
@[simp] theorem Dev.pair_modCtx (d : Dev) (c : Nat) (f : Ctx → Ctx) (k1 : Nat) : (d.modCtx c f).pair k1 = d.pair k1 := by simp only [Dev.pair, Dev.ring_modCtx]
@[simp] theorem Dev.evSrc_modCtx (d : Dev) (c : Nat) (f : Ctx → Ctx) (k1 : Nat) : (d.modCtx c f).evSrc k1 = d.evSrc k1 := by simp only [Dev.evSrc, Dev.arb_modCtx]
@[simp] theorem Dev.arbPair_modCtx (d : Dev) (c : Nat) (f : Ctx → Ctx) (k1 : Nat) : (d.modCtx c f).arbPair k1 = d.arbPair k1 := by simp only [Dev.arbPair, Dev.arb_modCtx]
@[simp] theorem Dev.wheel_modCtx (d : Dev) (c : Nat) (f : Ctx → Ctx) (k1 : Nat) : (d.modCtx c f).wheel k1 = d.wheel k1 := by simp only [Dev.wheel, Dev.time_modCtx]
@[simp] theorem Dev.ce_modCtx (d : Dev) (c : Nat) (f : Ctx → Ctx) (k1 : Nat) : (d.modCtx c f).ce k1 = d.ce k1 := by simp only [Dev.ce, Dev.eng_modCtx]
@[simp] theorem Dev.launch?_modCtx (d : Dev) (c : Nat) (f : Ctx → Ctx) (k1 : Nat) : (d.modCtx c f).launch? k1 = d.launch? k1 := by simp only [Dev.launch?, Dev.eng_modCtx]
@[simp] theorem Dev.member?_modCtx (d : Dev) (c : Nat) (f : Ctx → Ctx) (k1 k2 : Nat) : (d.modCtx c f).member? k1 k2 = d.member? k1 k2 := by simp only [Dev.member?, Dev.eng_modCtx]
@[simp] theorem Dev.slot_modCtx (d : Dev) (c : Nat) (f : Ctx → Ctx) (k1 : Nat) : (d.modCtx c f).slot k1 = d.slot k1 := by simp only [Dev.slot, Dev.seq_modCtx]
@[simp] theorem Dev.pool_modCtx (d : Dev) (c : Nat) (f : Ctx → Ctx) (k1 : Nat) : (d.modCtx c f).pool k1 = d.pool k1 := by simp only [Dev.pool, Dev.seq_modCtx]
@[simp] theorem Dev.core_modCtx (d : Dev) (c : Nat) (f : Ctx → Ctx) (k1 : Nat) : (d.modCtx c f).core k1 = d.core k1 := by simp only [Dev.core, Dev.cpx_modCtx]
@[simp] theorem Dev.hart_modCtx (d : Dev) (c : Nat) (f : Ctx → Ctx) (k1 : Nat) : (d.modCtx c f).hart k1 = d.hart k1 := by simp only [Dev.hart, Dev.cpx_modCtx]
@[simp] theorem Dev.dirEnt_modCtx (d : Dev) (c : Nat) (f : Ctx → Ctx) (k1 : Nat) : (d.modCtx c f).dirEnt k1 = d.dirEnt k1 := by simp only [Dev.dirEnt, Dev.coh_modCtx]
@[simp] theorem Dev.tlb_modCtx (d : Dev) (c : Nat) (f : Ctx → Ctx) (k1 : Nat) : (d.modCtx c f).tlb k1 = d.tlb k1 := by simp only [Dev.tlb, Dev.xlat_modCtx]
@[simp] theorem Dev.peer_modCtx (d : Dev) (c : Nat) (f : Ctx → Ctx) (k1 k2 : Nat) : (d.modCtx c f).peer k1 k2 = d.peer k1 k2 := by simp only [Dev.peer, Dev.fab_modCtx]
@[simp] theorem Dev.fabPort_modCtx (d : Dev) (c : Nat) (f : Ctx → Ctx) (k1 : Nat) : (d.modCtx c f).fabPort k1 = d.fabPort k1 := by simp only [Dev.fabPort, Dev.fab_modCtx]
@[simp] theorem Dev.conn_modCtx (d : Dev) (c : Nat) (f : Ctx → Ctx) (k1 : Nat) : (d.modCtx c f).conn k1 = d.conn k1 := by simp only [Dev.conn, Dev.sec_modCtx]
@[simp] theorem Dev.ctx_emit (d : Dev) (o : Out) (k1 : Nat) : (d.emit o).ctx k1 = d.ctx k1 := by simp only [Dev.ctx, Dev.ctxs_emit]
@[simp] theorem Dev.pair_emit (d : Dev) (o : Out) (k1 : Nat) : (d.emit o).pair k1 = d.pair k1 := by simp only [Dev.pair, Dev.ring_emit]
@[simp] theorem Dev.evSrc_emit (d : Dev) (o : Out) (k1 : Nat) : (d.emit o).evSrc k1 = d.evSrc k1 := by simp only [Dev.evSrc, Dev.arb_emit]
@[simp] theorem Dev.arbPair_emit (d : Dev) (o : Out) (k1 : Nat) : (d.emit o).arbPair k1 = d.arbPair k1 := by simp only [Dev.arbPair, Dev.arb_emit]
@[simp] theorem Dev.wheel_emit (d : Dev) (o : Out) (k1 : Nat) : (d.emit o).wheel k1 = d.wheel k1 := by simp only [Dev.wheel, Dev.time_emit]
@[simp] theorem Dev.ce_emit (d : Dev) (o : Out) (k1 : Nat) : (d.emit o).ce k1 = d.ce k1 := by simp only [Dev.ce, Dev.eng_emit]
@[simp] theorem Dev.launch?_emit (d : Dev) (o : Out) (k1 : Nat) : (d.emit o).launch? k1 = d.launch? k1 := by simp only [Dev.launch?, Dev.eng_emit]
@[simp] theorem Dev.member?_emit (d : Dev) (o : Out) (k1 k2 : Nat) : (d.emit o).member? k1 k2 = d.member? k1 k2 := by simp only [Dev.member?, Dev.eng_emit]
@[simp] theorem Dev.slot_emit (d : Dev) (o : Out) (k1 : Nat) : (d.emit o).slot k1 = d.slot k1 := by simp only [Dev.slot, Dev.seq_emit]
@[simp] theorem Dev.pool_emit (d : Dev) (o : Out) (k1 : Nat) : (d.emit o).pool k1 = d.pool k1 := by simp only [Dev.pool, Dev.seq_emit]
@[simp] theorem Dev.core_emit (d : Dev) (o : Out) (k1 : Nat) : (d.emit o).core k1 = d.core k1 := by simp only [Dev.core, Dev.cpx_emit]
@[simp] theorem Dev.hart_emit (d : Dev) (o : Out) (k1 : Nat) : (d.emit o).hart k1 = d.hart k1 := by simp only [Dev.hart, Dev.cpx_emit]
@[simp] theorem Dev.dirEnt_emit (d : Dev) (o : Out) (k1 : Nat) : (d.emit o).dirEnt k1 = d.dirEnt k1 := by simp only [Dev.dirEnt, Dev.coh_emit]
@[simp] theorem Dev.tlb_emit (d : Dev) (o : Out) (k1 : Nat) : (d.emit o).tlb k1 = d.tlb k1 := by simp only [Dev.tlb, Dev.xlat_emit]
@[simp] theorem Dev.peer_emit (d : Dev) (o : Out) (k1 k2 : Nat) : (d.emit o).peer k1 k2 = d.peer k1 k2 := by simp only [Dev.peer, Dev.fab_emit]
@[simp] theorem Dev.fabPort_emit (d : Dev) (o : Out) (k1 : Nat) : (d.emit o).fabPort k1 = d.fabPort k1 := by simp only [Dev.fabPort, Dev.fab_emit]
@[simp] theorem Dev.conn_emit (d : Dev) (o : Out) (k1 : Nat) : (d.emit o).conn k1 = d.conn k1 := by simp only [Dev.conn, Dev.sec_emit]
@[simp] theorem Dev.ctx_setSrc (d : Dev) (n : Nat) (x : EvSrc) (k1 : Nat) : (d.setSrc n x).ctx k1 = d.ctx k1 := by simp only [Dev.ctx, Dev.ctxs_setSrc]
@[simp] theorem Dev.pair_setSrc (d : Dev) (n : Nat) (x : EvSrc) (k1 : Nat) : (d.setSrc n x).pair k1 = d.pair k1 := by simp only [Dev.pair, Dev.ring_setSrc]
@[simp] theorem Dev.wheel_setSrc (d : Dev) (n : Nat) (x : EvSrc) (k1 : Nat) : (d.setSrc n x).wheel k1 = d.wheel k1 := by simp only [Dev.wheel, Dev.time_setSrc]
@[simp] theorem Dev.ce_setSrc (d : Dev) (n : Nat) (x : EvSrc) (k1 : Nat) : (d.setSrc n x).ce k1 = d.ce k1 := by simp only [Dev.ce, Dev.eng_setSrc]
@[simp] theorem Dev.launch?_setSrc (d : Dev) (n : Nat) (x : EvSrc) (k1 : Nat) : (d.setSrc n x).launch? k1 = d.launch? k1 := by simp only [Dev.launch?, Dev.eng_setSrc]
@[simp] theorem Dev.member?_setSrc (d : Dev) (n : Nat) (x : EvSrc) (k1 k2 : Nat) : (d.setSrc n x).member? k1 k2 = d.member? k1 k2 := by simp only [Dev.member?, Dev.eng_setSrc]
@[simp] theorem Dev.slot_setSrc (d : Dev) (n : Nat) (x : EvSrc) (k1 : Nat) : (d.setSrc n x).slot k1 = d.slot k1 := by simp only [Dev.slot, Dev.seq_setSrc]
@[simp] theorem Dev.pool_setSrc (d : Dev) (n : Nat) (x : EvSrc) (k1 : Nat) : (d.setSrc n x).pool k1 = d.pool k1 := by simp only [Dev.pool, Dev.seq_setSrc]
@[simp] theorem Dev.core_setSrc (d : Dev) (n : Nat) (x : EvSrc) (k1 : Nat) : (d.setSrc n x).core k1 = d.core k1 := by simp only [Dev.core, Dev.cpx_setSrc]
@[simp] theorem Dev.hart_setSrc (d : Dev) (n : Nat) (x : EvSrc) (k1 : Nat) : (d.setSrc n x).hart k1 = d.hart k1 := by simp only [Dev.hart, Dev.cpx_setSrc]
@[simp] theorem Dev.dirEnt_setSrc (d : Dev) (n : Nat) (x : EvSrc) (k1 : Nat) : (d.setSrc n x).dirEnt k1 = d.dirEnt k1 := by simp only [Dev.dirEnt, Dev.coh_setSrc]
@[simp] theorem Dev.tlb_setSrc (d : Dev) (n : Nat) (x : EvSrc) (k1 : Nat) : (d.setSrc n x).tlb k1 = d.tlb k1 := by simp only [Dev.tlb, Dev.xlat_setSrc]
@[simp] theorem Dev.peer_setSrc (d : Dev) (n : Nat) (x : EvSrc) (k1 k2 : Nat) : (d.setSrc n x).peer k1 k2 = d.peer k1 k2 := by simp only [Dev.peer, Dev.fab_setSrc]
@[simp] theorem Dev.fabPort_setSrc (d : Dev) (n : Nat) (x : EvSrc) (k1 : Nat) : (d.setSrc n x).fabPort k1 = d.fabPort k1 := by simp only [Dev.fabPort, Dev.fab_setSrc]
@[simp] theorem Dev.conn_setSrc (d : Dev) (n : Nat) (x : EvSrc) (k1 : Nat) : (d.setSrc n x).conn k1 = d.conn k1 := by simp only [Dev.conn, Dev.sec_setSrc]
@[simp] theorem Dev.ctx_setArbPair (d : Dev) (k : Nat) (x : ArbPair) (k1 : Nat) : (d.setArbPair k x).ctx k1 = d.ctx k1 := by simp only [Dev.ctx, Dev.ctxs_setArbPair]
@[simp] theorem Dev.pair_setArbPair (d : Dev) (k : Nat) (x : ArbPair) (k1 : Nat) : (d.setArbPair k x).pair k1 = d.pair k1 := by simp only [Dev.pair, Dev.ring_setArbPair]
@[simp] theorem Dev.wheel_setArbPair (d : Dev) (k : Nat) (x : ArbPair) (k1 : Nat) : (d.setArbPair k x).wheel k1 = d.wheel k1 := by simp only [Dev.wheel, Dev.time_setArbPair]
@[simp] theorem Dev.ce_setArbPair (d : Dev) (k : Nat) (x : ArbPair) (k1 : Nat) : (d.setArbPair k x).ce k1 = d.ce k1 := by simp only [Dev.ce, Dev.eng_setArbPair]
@[simp] theorem Dev.launch?_setArbPair (d : Dev) (k : Nat) (x : ArbPair) (k1 : Nat) : (d.setArbPair k x).launch? k1 = d.launch? k1 := by simp only [Dev.launch?, Dev.eng_setArbPair]
@[simp] theorem Dev.member?_setArbPair (d : Dev) (k : Nat) (x : ArbPair) (k1 k2 : Nat) : (d.setArbPair k x).member? k1 k2 = d.member? k1 k2 := by simp only [Dev.member?, Dev.eng_setArbPair]
@[simp] theorem Dev.slot_setArbPair (d : Dev) (k : Nat) (x : ArbPair) (k1 : Nat) : (d.setArbPair k x).slot k1 = d.slot k1 := by simp only [Dev.slot, Dev.seq_setArbPair]
@[simp] theorem Dev.pool_setArbPair (d : Dev) (k : Nat) (x : ArbPair) (k1 : Nat) : (d.setArbPair k x).pool k1 = d.pool k1 := by simp only [Dev.pool, Dev.seq_setArbPair]
@[simp] theorem Dev.core_setArbPair (d : Dev) (k : Nat) (x : ArbPair) (k1 : Nat) : (d.setArbPair k x).core k1 = d.core k1 := by simp only [Dev.core, Dev.cpx_setArbPair]
@[simp] theorem Dev.hart_setArbPair (d : Dev) (k : Nat) (x : ArbPair) (k1 : Nat) : (d.setArbPair k x).hart k1 = d.hart k1 := by simp only [Dev.hart, Dev.cpx_setArbPair]
@[simp] theorem Dev.dirEnt_setArbPair (d : Dev) (k : Nat) (x : ArbPair) (k1 : Nat) : (d.setArbPair k x).dirEnt k1 = d.dirEnt k1 := by simp only [Dev.dirEnt, Dev.coh_setArbPair]
@[simp] theorem Dev.tlb_setArbPair (d : Dev) (k : Nat) (x : ArbPair) (k1 : Nat) : (d.setArbPair k x).tlb k1 = d.tlb k1 := by simp only [Dev.tlb, Dev.xlat_setArbPair]
@[simp] theorem Dev.peer_setArbPair (d : Dev) (k : Nat) (x : ArbPair) (k1 k2 : Nat) : (d.setArbPair k x).peer k1 k2 = d.peer k1 k2 := by simp only [Dev.peer, Dev.fab_setArbPair]
@[simp] theorem Dev.fabPort_setArbPair (d : Dev) (k : Nat) (x : ArbPair) (k1 : Nat) : (d.setArbPair k x).fabPort k1 = d.fabPort k1 := by simp only [Dev.fabPort, Dev.fab_setArbPair]
@[simp] theorem Dev.conn_setArbPair (d : Dev) (k : Nat) (x : ArbPair) (k1 : Nat) : (d.setArbPair k x).conn k1 = d.conn k1 := by simp only [Dev.conn, Dev.sec_setArbPair]
@[simp] theorem Dev.ctx_setPair (d : Dev) (k : Nat) (p : Pair) (k1 : Nat) : (d.setPair k p).ctx k1 = d.ctx k1 := by simp only [Dev.ctx, Dev.ctxs_setPair]
@[simp] theorem Dev.evSrc_setPair (d : Dev) (k : Nat) (p : Pair) (k1 : Nat) : (d.setPair k p).evSrc k1 = d.evSrc k1 := by simp only [Dev.evSrc, Dev.arb_setPair]
@[simp] theorem Dev.arbPair_setPair (d : Dev) (k : Nat) (p : Pair) (k1 : Nat) : (d.setPair k p).arbPair k1 = d.arbPair k1 := by simp only [Dev.arbPair, Dev.arb_setPair]
@[simp] theorem Dev.wheel_setPair (d : Dev) (k : Nat) (p : Pair) (k1 : Nat) : (d.setPair k p).wheel k1 = d.wheel k1 := by simp only [Dev.wheel, Dev.time_setPair]
@[simp] theorem Dev.ce_setPair (d : Dev) (k : Nat) (p : Pair) (k1 : Nat) : (d.setPair k p).ce k1 = d.ce k1 := by simp only [Dev.ce, Dev.eng_setPair]
@[simp] theorem Dev.launch?_setPair (d : Dev) (k : Nat) (p : Pair) (k1 : Nat) : (d.setPair k p).launch? k1 = d.launch? k1 := by simp only [Dev.launch?, Dev.eng_setPair]
@[simp] theorem Dev.member?_setPair (d : Dev) (k : Nat) (p : Pair) (k1 k2 : Nat) : (d.setPair k p).member? k1 k2 = d.member? k1 k2 := by simp only [Dev.member?, Dev.eng_setPair]
@[simp] theorem Dev.slot_setPair (d : Dev) (k : Nat) (p : Pair) (k1 : Nat) : (d.setPair k p).slot k1 = d.slot k1 := by simp only [Dev.slot, Dev.seq_setPair]
@[simp] theorem Dev.pool_setPair (d : Dev) (k : Nat) (p : Pair) (k1 : Nat) : (d.setPair k p).pool k1 = d.pool k1 := by simp only [Dev.pool, Dev.seq_setPair]
@[simp] theorem Dev.core_setPair (d : Dev) (k : Nat) (p : Pair) (k1 : Nat) : (d.setPair k p).core k1 = d.core k1 := by simp only [Dev.core, Dev.cpx_setPair]
@[simp] theorem Dev.hart_setPair (d : Dev) (k : Nat) (p : Pair) (k1 : Nat) : (d.setPair k p).hart k1 = d.hart k1 := by simp only [Dev.hart, Dev.cpx_setPair]
@[simp] theorem Dev.dirEnt_setPair (d : Dev) (k : Nat) (p : Pair) (k1 : Nat) : (d.setPair k p).dirEnt k1 = d.dirEnt k1 := by simp only [Dev.dirEnt, Dev.coh_setPair]
@[simp] theorem Dev.tlb_setPair (d : Dev) (k : Nat) (p : Pair) (k1 : Nat) : (d.setPair k p).tlb k1 = d.tlb k1 := by simp only [Dev.tlb, Dev.xlat_setPair]
@[simp] theorem Dev.peer_setPair (d : Dev) (k : Nat) (p : Pair) (k1 k2 : Nat) : (d.setPair k p).peer k1 k2 = d.peer k1 k2 := by simp only [Dev.peer, Dev.fab_setPair]
@[simp] theorem Dev.fabPort_setPair (d : Dev) (k : Nat) (p : Pair) (k1 : Nat) : (d.setPair k p).fabPort k1 = d.fabPort k1 := by simp only [Dev.fabPort, Dev.fab_setPair]
@[simp] theorem Dev.conn_setPair (d : Dev) (k : Nat) (p : Pair) (k1 : Nat) : (d.setPair k p).conn k1 = d.conn k1 := by simp only [Dev.conn, Dev.sec_setPair]
@[simp] theorem Dev.ctx_modPair (d : Dev) (k : Nat) (f : Pair → Pair) (k1 : Nat) : (d.modPair k f).ctx k1 = d.ctx k1 := by simp only [Dev.ctx, Dev.ctxs_modPair]
@[simp] theorem Dev.evSrc_modPair (d : Dev) (k : Nat) (f : Pair → Pair) (k1 : Nat) : (d.modPair k f).evSrc k1 = d.evSrc k1 := by simp only [Dev.evSrc, Dev.arb_modPair]
@[simp] theorem Dev.arbPair_modPair (d : Dev) (k : Nat) (f : Pair → Pair) (k1 : Nat) : (d.modPair k f).arbPair k1 = d.arbPair k1 := by simp only [Dev.arbPair, Dev.arb_modPair]
@[simp] theorem Dev.wheel_modPair (d : Dev) (k : Nat) (f : Pair → Pair) (k1 : Nat) : (d.modPair k f).wheel k1 = d.wheel k1 := by simp only [Dev.wheel, Dev.time_modPair]
@[simp] theorem Dev.ce_modPair (d : Dev) (k : Nat) (f : Pair → Pair) (k1 : Nat) : (d.modPair k f).ce k1 = d.ce k1 := by simp only [Dev.ce, Dev.eng_modPair]
@[simp] theorem Dev.launch?_modPair (d : Dev) (k : Nat) (f : Pair → Pair) (k1 : Nat) : (d.modPair k f).launch? k1 = d.launch? k1 := by simp only [Dev.launch?, Dev.eng_modPair]
@[simp] theorem Dev.member?_modPair (d : Dev) (k : Nat) (f : Pair → Pair) (k1 k2 : Nat) : (d.modPair k f).member? k1 k2 = d.member? k1 k2 := by simp only [Dev.member?, Dev.eng_modPair]
@[simp] theorem Dev.slot_modPair (d : Dev) (k : Nat) (f : Pair → Pair) (k1 : Nat) : (d.modPair k f).slot k1 = d.slot k1 := by simp only [Dev.slot, Dev.seq_modPair]
@[simp] theorem Dev.pool_modPair (d : Dev) (k : Nat) (f : Pair → Pair) (k1 : Nat) : (d.modPair k f).pool k1 = d.pool k1 := by simp only [Dev.pool, Dev.seq_modPair]
@[simp] theorem Dev.core_modPair (d : Dev) (k : Nat) (f : Pair → Pair) (k1 : Nat) : (d.modPair k f).core k1 = d.core k1 := by simp only [Dev.core, Dev.cpx_modPair]
@[simp] theorem Dev.hart_modPair (d : Dev) (k : Nat) (f : Pair → Pair) (k1 : Nat) : (d.modPair k f).hart k1 = d.hart k1 := by simp only [Dev.hart, Dev.cpx_modPair]
@[simp] theorem Dev.dirEnt_modPair (d : Dev) (k : Nat) (f : Pair → Pair) (k1 : Nat) : (d.modPair k f).dirEnt k1 = d.dirEnt k1 := by simp only [Dev.dirEnt, Dev.coh_modPair]
@[simp] theorem Dev.tlb_modPair (d : Dev) (k : Nat) (f : Pair → Pair) (k1 : Nat) : (d.modPair k f).tlb k1 = d.tlb k1 := by simp only [Dev.tlb, Dev.xlat_modPair]
@[simp] theorem Dev.peer_modPair (d : Dev) (k : Nat) (f : Pair → Pair) (k1 k2 : Nat) : (d.modPair k f).peer k1 k2 = d.peer k1 k2 := by simp only [Dev.peer, Dev.fab_modPair]
@[simp] theorem Dev.fabPort_modPair (d : Dev) (k : Nat) (f : Pair → Pair) (k1 : Nat) : (d.modPair k f).fabPort k1 = d.fabPort k1 := by simp only [Dev.fabPort, Dev.fab_modPair]
@[simp] theorem Dev.conn_modPair (d : Dev) (k : Nat) (f : Pair → Pair) (k1 : Nat) : (d.modPair k f).conn k1 = d.conn k1 := by simp only [Dev.conn, Dev.sec_modPair]
@[simp] theorem Dev.ctx_setWheel (d : Dev) (w : Nat) (l : List Event) (k1 : Nat) : (d.setWheel w l).ctx k1 = d.ctx k1 := by simp only [Dev.ctx, Dev.ctxs_setWheel]
@[simp] theorem Dev.pair_setWheel (d : Dev) (w : Nat) (l : List Event) (k1 : Nat) : (d.setWheel w l).pair k1 = d.pair k1 := by simp only [Dev.pair, Dev.ring_setWheel]
@[simp] theorem Dev.evSrc_setWheel (d : Dev) (w : Nat) (l : List Event) (k1 : Nat) : (d.setWheel w l).evSrc k1 = d.evSrc k1 := by simp only [Dev.evSrc, Dev.arb_setWheel]
@[simp] theorem Dev.arbPair_setWheel (d : Dev) (w : Nat) (l : List Event) (k1 : Nat) : (d.setWheel w l).arbPair k1 = d.arbPair k1 := by simp only [Dev.arbPair, Dev.arb_setWheel]
@[simp] theorem Dev.ce_setWheel (d : Dev) (w : Nat) (l : List Event) (k1 : Nat) : (d.setWheel w l).ce k1 = d.ce k1 := by simp only [Dev.ce, Dev.eng_setWheel]
@[simp] theorem Dev.launch?_setWheel (d : Dev) (w : Nat) (l : List Event) (k1 : Nat) : (d.setWheel w l).launch? k1 = d.launch? k1 := by simp only [Dev.launch?, Dev.eng_setWheel]
@[simp] theorem Dev.member?_setWheel (d : Dev) (w : Nat) (l : List Event) (k1 k2 : Nat) : (d.setWheel w l).member? k1 k2 = d.member? k1 k2 := by simp only [Dev.member?, Dev.eng_setWheel]
@[simp] theorem Dev.slot_setWheel (d : Dev) (w : Nat) (l : List Event) (k1 : Nat) : (d.setWheel w l).slot k1 = d.slot k1 := by simp only [Dev.slot, Dev.seq_setWheel]
@[simp] theorem Dev.pool_setWheel (d : Dev) (w : Nat) (l : List Event) (k1 : Nat) : (d.setWheel w l).pool k1 = d.pool k1 := by simp only [Dev.pool, Dev.seq_setWheel]
@[simp] theorem Dev.core_setWheel (d : Dev) (w : Nat) (l : List Event) (k1 : Nat) : (d.setWheel w l).core k1 = d.core k1 := by simp only [Dev.core, Dev.cpx_setWheel]
@[simp] theorem Dev.hart_setWheel (d : Dev) (w : Nat) (l : List Event) (k1 : Nat) : (d.setWheel w l).hart k1 = d.hart k1 := by simp only [Dev.hart, Dev.cpx_setWheel]
@[simp] theorem Dev.dirEnt_setWheel (d : Dev) (w : Nat) (l : List Event) (k1 : Nat) : (d.setWheel w l).dirEnt k1 = d.dirEnt k1 := by simp only [Dev.dirEnt, Dev.coh_setWheel]
@[simp] theorem Dev.tlb_setWheel (d : Dev) (w : Nat) (l : List Event) (k1 : Nat) : (d.setWheel w l).tlb k1 = d.tlb k1 := by simp only [Dev.tlb, Dev.xlat_setWheel]
@[simp] theorem Dev.peer_setWheel (d : Dev) (w : Nat) (l : List Event) (k1 k2 : Nat) : (d.setWheel w l).peer k1 k2 = d.peer k1 k2 := by simp only [Dev.peer, Dev.fab_setWheel]
@[simp] theorem Dev.fabPort_setWheel (d : Dev) (w : Nat) (l : List Event) (k1 : Nat) : (d.setWheel w l).fabPort k1 = d.fabPort k1 := by simp only [Dev.fabPort, Dev.fab_setWheel]
@[simp] theorem Dev.conn_setWheel (d : Dev) (w : Nat) (l : List Event) (k1 : Nat) : (d.setWheel w l).conn k1 = d.conn k1 := by simp only [Dev.conn, Dev.sec_setWheel]
@[simp] theorem Dev.ctx_setCe (d : Dev) (k : Nat) (c : Ce) (k1 : Nat) : (d.setCe k c).ctx k1 = d.ctx k1 := by simp only [Dev.ctx, Dev.ctxs_setCe]
@[simp] theorem Dev.pair_setCe (d : Dev) (k : Nat) (c : Ce) (k1 : Nat) : (d.setCe k c).pair k1 = d.pair k1 := by simp only [Dev.pair, Dev.ring_setCe]
@[simp] theorem Dev.evSrc_setCe (d : Dev) (k : Nat) (c : Ce) (k1 : Nat) : (d.setCe k c).evSrc k1 = d.evSrc k1 := by simp only [Dev.evSrc, Dev.arb_setCe]
@[simp] theorem Dev.arbPair_setCe (d : Dev) (k : Nat) (c : Ce) (k1 : Nat) : (d.setCe k c).arbPair k1 = d.arbPair k1 := by simp only [Dev.arbPair, Dev.arb_setCe]
@[simp] theorem Dev.wheel_setCe (d : Dev) (k : Nat) (c : Ce) (k1 : Nat) : (d.setCe k c).wheel k1 = d.wheel k1 := by simp only [Dev.wheel, Dev.time_setCe]
@[simp] theorem Dev.slot_setCe (d : Dev) (k : Nat) (c : Ce) (k1 : Nat) : (d.setCe k c).slot k1 = d.slot k1 := by simp only [Dev.slot, Dev.seq_setCe]
@[simp] theorem Dev.pool_setCe (d : Dev) (k : Nat) (c : Ce) (k1 : Nat) : (d.setCe k c).pool k1 = d.pool k1 := by simp only [Dev.pool, Dev.seq_setCe]
@[simp] theorem Dev.core_setCe (d : Dev) (k : Nat) (c : Ce) (k1 : Nat) : (d.setCe k c).core k1 = d.core k1 := by simp only [Dev.core, Dev.cpx_setCe]
@[simp] theorem Dev.hart_setCe (d : Dev) (k : Nat) (c : Ce) (k1 : Nat) : (d.setCe k c).hart k1 = d.hart k1 := by simp only [Dev.hart, Dev.cpx_setCe]
@[simp] theorem Dev.dirEnt_setCe (d : Dev) (k : Nat) (c : Ce) (k1 : Nat) : (d.setCe k c).dirEnt k1 = d.dirEnt k1 := by simp only [Dev.dirEnt, Dev.coh_setCe]
@[simp] theorem Dev.tlb_setCe (d : Dev) (k : Nat) (c : Ce) (k1 : Nat) : (d.setCe k c).tlb k1 = d.tlb k1 := by simp only [Dev.tlb, Dev.xlat_setCe]
@[simp] theorem Dev.peer_setCe (d : Dev) (k : Nat) (c : Ce) (k1 k2 : Nat) : (d.setCe k c).peer k1 k2 = d.peer k1 k2 := by simp only [Dev.peer, Dev.fab_setCe]
@[simp] theorem Dev.fabPort_setCe (d : Dev) (k : Nat) (c : Ce) (k1 : Nat) : (d.setCe k c).fabPort k1 = d.fabPort k1 := by simp only [Dev.fabPort, Dev.fab_setCe]
@[simp] theorem Dev.conn_setCe (d : Dev) (k : Nat) (c : Ce) (k1 : Nat) : (d.setCe k c).conn k1 = d.conn k1 := by simp only [Dev.conn, Dev.sec_setCe]
@[simp] theorem Dev.ctx_modCe (d : Dev) (k : Nat) (f : Ce → Ce) (k1 : Nat) : (d.modCe k f).ctx k1 = d.ctx k1 := by simp only [Dev.ctx, Dev.ctxs_modCe]
@[simp] theorem Dev.pair_modCe (d : Dev) (k : Nat) (f : Ce → Ce) (k1 : Nat) : (d.modCe k f).pair k1 = d.pair k1 := by simp only [Dev.pair, Dev.ring_modCe]
@[simp] theorem Dev.evSrc_modCe (d : Dev) (k : Nat) (f : Ce → Ce) (k1 : Nat) : (d.modCe k f).evSrc k1 = d.evSrc k1 := by simp only [Dev.evSrc, Dev.arb_modCe]
@[simp] theorem Dev.arbPair_modCe (d : Dev) (k : Nat) (f : Ce → Ce) (k1 : Nat) : (d.modCe k f).arbPair k1 = d.arbPair k1 := by simp only [Dev.arbPair, Dev.arb_modCe]
@[simp] theorem Dev.wheel_modCe (d : Dev) (k : Nat) (f : Ce → Ce) (k1 : Nat) : (d.modCe k f).wheel k1 = d.wheel k1 := by simp only [Dev.wheel, Dev.time_modCe]
@[simp] theorem Dev.slot_modCe (d : Dev) (k : Nat) (f : Ce → Ce) (k1 : Nat) : (d.modCe k f).slot k1 = d.slot k1 := by simp only [Dev.slot, Dev.seq_modCe]
@[simp] theorem Dev.pool_modCe (d : Dev) (k : Nat) (f : Ce → Ce) (k1 : Nat) : (d.modCe k f).pool k1 = d.pool k1 := by simp only [Dev.pool, Dev.seq_modCe]
@[simp] theorem Dev.core_modCe (d : Dev) (k : Nat) (f : Ce → Ce) (k1 : Nat) : (d.modCe k f).core k1 = d.core k1 := by simp only [Dev.core, Dev.cpx_modCe]
@[simp] theorem Dev.hart_modCe (d : Dev) (k : Nat) (f : Ce → Ce) (k1 : Nat) : (d.modCe k f).hart k1 = d.hart k1 := by simp only [Dev.hart, Dev.cpx_modCe]
@[simp] theorem Dev.dirEnt_modCe (d : Dev) (k : Nat) (f : Ce → Ce) (k1 : Nat) : (d.modCe k f).dirEnt k1 = d.dirEnt k1 := by simp only [Dev.dirEnt, Dev.coh_modCe]
@[simp] theorem Dev.tlb_modCe (d : Dev) (k : Nat) (f : Ce → Ce) (k1 : Nat) : (d.modCe k f).tlb k1 = d.tlb k1 := by simp only [Dev.tlb, Dev.xlat_modCe]
@[simp] theorem Dev.peer_modCe (d : Dev) (k : Nat) (f : Ce → Ce) (k1 k2 : Nat) : (d.modCe k f).peer k1 k2 = d.peer k1 k2 := by simp only [Dev.peer, Dev.fab_modCe]
@[simp] theorem Dev.fabPort_modCe (d : Dev) (k : Nat) (f : Ce → Ce) (k1 : Nat) : (d.modCe k f).fabPort k1 = d.fabPort k1 := by simp only [Dev.fabPort, Dev.fab_modCe]
@[simp] theorem Dev.conn_modCe (d : Dev) (k : Nat) (f : Ce → Ce) (k1 : Nat) : (d.modCe k f).conn k1 = d.conn k1 := by simp only [Dev.conn, Dev.sec_modCe]
@[simp] theorem Dev.ctx_modLaunch (d : Dev) (l : Nat) (f : Launch → Launch) (k1 : Nat) : (d.modLaunch l f).ctx k1 = d.ctx k1 := by simp only [Dev.ctx, Dev.ctxs_modLaunch]
@[simp] theorem Dev.pair_modLaunch (d : Dev) (l : Nat) (f : Launch → Launch) (k1 : Nat) : (d.modLaunch l f).pair k1 = d.pair k1 := by simp only [Dev.pair, Dev.ring_modLaunch]
@[simp] theorem Dev.evSrc_modLaunch (d : Dev) (l : Nat) (f : Launch → Launch) (k1 : Nat) : (d.modLaunch l f).evSrc k1 = d.evSrc k1 := by simp only [Dev.evSrc, Dev.arb_modLaunch]
@[simp] theorem Dev.arbPair_modLaunch (d : Dev) (l : Nat) (f : Launch → Launch) (k1 : Nat) : (d.modLaunch l f).arbPair k1 = d.arbPair k1 := by simp only [Dev.arbPair, Dev.arb_modLaunch]
@[simp] theorem Dev.wheel_modLaunch (d : Dev) (l : Nat) (f : Launch → Launch) (k1 : Nat) : (d.modLaunch l f).wheel k1 = d.wheel k1 := by simp only [Dev.wheel, Dev.time_modLaunch]
@[simp] theorem Dev.slot_modLaunch (d : Dev) (l : Nat) (f : Launch → Launch) (k1 : Nat) : (d.modLaunch l f).slot k1 = d.slot k1 := by simp only [Dev.slot, Dev.seq_modLaunch]
@[simp] theorem Dev.pool_modLaunch (d : Dev) (l : Nat) (f : Launch → Launch) (k1 : Nat) : (d.modLaunch l f).pool k1 = d.pool k1 := by simp only [Dev.pool, Dev.seq_modLaunch]
@[simp] theorem Dev.core_modLaunch (d : Dev) (l : Nat) (f : Launch → Launch) (k1 : Nat) : (d.modLaunch l f).core k1 = d.core k1 := by simp only [Dev.core, Dev.cpx_modLaunch]
@[simp] theorem Dev.hart_modLaunch (d : Dev) (l : Nat) (f : Launch → Launch) (k1 : Nat) : (d.modLaunch l f).hart k1 = d.hart k1 := by simp only [Dev.hart, Dev.cpx_modLaunch]
@[simp] theorem Dev.dirEnt_modLaunch (d : Dev) (l : Nat) (f : Launch → Launch) (k1 : Nat) : (d.modLaunch l f).dirEnt k1 = d.dirEnt k1 := by simp only [Dev.dirEnt, Dev.coh_modLaunch]
@[simp] theorem Dev.tlb_modLaunch (d : Dev) (l : Nat) (f : Launch → Launch) (k1 : Nat) : (d.modLaunch l f).tlb k1 = d.tlb k1 := by simp only [Dev.tlb, Dev.xlat_modLaunch]
@[simp] theorem Dev.peer_modLaunch (d : Dev) (l : Nat) (f : Launch → Launch) (k1 k2 : Nat) : (d.modLaunch l f).peer k1 k2 = d.peer k1 k2 := by simp only [Dev.peer, Dev.fab_modLaunch]
@[simp] theorem Dev.fabPort_modLaunch (d : Dev) (l : Nat) (f : Launch → Launch) (k1 : Nat) : (d.modLaunch l f).fabPort k1 = d.fabPort k1 := by simp only [Dev.fabPort, Dev.fab_modLaunch]
@[simp] theorem Dev.conn_modLaunch (d : Dev) (l : Nat) (f : Launch → Launch) (k1 : Nat) : (d.modLaunch l f).conn k1 = d.conn k1 := by simp only [Dev.conn, Dev.sec_modLaunch]
@[simp] theorem Dev.ctx_modMember (d : Dev) (l m : Nat) (f : Member → Member) (k1 : Nat) : (d.modMember l m f).ctx k1 = d.ctx k1 := by simp only [Dev.ctx, Dev.ctxs_modMember]
@[simp] theorem Dev.pair_modMember (d : Dev) (l m : Nat) (f : Member → Member) (k1 : Nat) : (d.modMember l m f).pair k1 = d.pair k1 := by simp only [Dev.pair, Dev.ring_modMember]
@[simp] theorem Dev.evSrc_modMember (d : Dev) (l m : Nat) (f : Member → Member) (k1 : Nat) : (d.modMember l m f).evSrc k1 = d.evSrc k1 := by simp only [Dev.evSrc, Dev.arb_modMember]
@[simp] theorem Dev.arbPair_modMember (d : Dev) (l m : Nat) (f : Member → Member) (k1 : Nat) : (d.modMember l m f).arbPair k1 = d.arbPair k1 := by simp only [Dev.arbPair, Dev.arb_modMember]
@[simp] theorem Dev.wheel_modMember (d : Dev) (l m : Nat) (f : Member → Member) (k1 : Nat) : (d.modMember l m f).wheel k1 = d.wheel k1 := by simp only [Dev.wheel, Dev.time_modMember]
@[simp] theorem Dev.slot_modMember (d : Dev) (l m : Nat) (f : Member → Member) (k1 : Nat) : (d.modMember l m f).slot k1 = d.slot k1 := by simp only [Dev.slot, Dev.seq_modMember]
@[simp] theorem Dev.pool_modMember (d : Dev) (l m : Nat) (f : Member → Member) (k1 : Nat) : (d.modMember l m f).pool k1 = d.pool k1 := by simp only [Dev.pool, Dev.seq_modMember]
@[simp] theorem Dev.core_modMember (d : Dev) (l m : Nat) (f : Member → Member) (k1 : Nat) : (d.modMember l m f).core k1 = d.core k1 := by simp only [Dev.core, Dev.cpx_modMember]
@[simp] theorem Dev.hart_modMember (d : Dev) (l m : Nat) (f : Member → Member) (k1 : Nat) : (d.modMember l m f).hart k1 = d.hart k1 := by simp only [Dev.hart, Dev.cpx_modMember]
@[simp] theorem Dev.dirEnt_modMember (d : Dev) (l m : Nat) (f : Member → Member) (k1 : Nat) : (d.modMember l m f).dirEnt k1 = d.dirEnt k1 := by simp only [Dev.dirEnt, Dev.coh_modMember]
@[simp] theorem Dev.tlb_modMember (d : Dev) (l m : Nat) (f : Member → Member) (k1 : Nat) : (d.modMember l m f).tlb k1 = d.tlb k1 := by simp only [Dev.tlb, Dev.xlat_modMember]
@[simp] theorem Dev.peer_modMember (d : Dev) (l m : Nat) (f : Member → Member) (k1 k2 : Nat) : (d.modMember l m f).peer k1 k2 = d.peer k1 k2 := by simp only [Dev.peer, Dev.fab_modMember]
@[simp] theorem Dev.fabPort_modMember (d : Dev) (l m : Nat) (f : Member → Member) (k1 : Nat) : (d.modMember l m f).fabPort k1 = d.fabPort k1 := by simp only [Dev.fabPort, Dev.fab_modMember]
@[simp] theorem Dev.conn_modMember (d : Dev) (l m : Nat) (f : Member → Member) (k1 : Nat) : (d.modMember l m f).conn k1 = d.conn k1 := by simp only [Dev.conn, Dev.sec_modMember]
@[simp] theorem Dev.ctx_modCohort (d : Dev) (l m c : Nat) (f : Cohort → Cohort) (k1 : Nat) : (d.modCohort l m c f).ctx k1 = d.ctx k1 := by simp only [Dev.ctx, Dev.ctxs_modCohort]
@[simp] theorem Dev.pair_modCohort (d : Dev) (l m c : Nat) (f : Cohort → Cohort) (k1 : Nat) : (d.modCohort l m c f).pair k1 = d.pair k1 := by simp only [Dev.pair, Dev.ring_modCohort]
@[simp] theorem Dev.evSrc_modCohort (d : Dev) (l m c : Nat) (f : Cohort → Cohort) (k1 : Nat) : (d.modCohort l m c f).evSrc k1 = d.evSrc k1 := by simp only [Dev.evSrc, Dev.arb_modCohort]
@[simp] theorem Dev.arbPair_modCohort (d : Dev) (l m c : Nat) (f : Cohort → Cohort) (k1 : Nat) : (d.modCohort l m c f).arbPair k1 = d.arbPair k1 := by simp only [Dev.arbPair, Dev.arb_modCohort]
@[simp] theorem Dev.wheel_modCohort (d : Dev) (l m c : Nat) (f : Cohort → Cohort) (k1 : Nat) : (d.modCohort l m c f).wheel k1 = d.wheel k1 := by simp only [Dev.wheel, Dev.time_modCohort]
@[simp] theorem Dev.slot_modCohort (d : Dev) (l m c : Nat) (f : Cohort → Cohort) (k1 : Nat) : (d.modCohort l m c f).slot k1 = d.slot k1 := by simp only [Dev.slot, Dev.seq_modCohort]
@[simp] theorem Dev.pool_modCohort (d : Dev) (l m c : Nat) (f : Cohort → Cohort) (k1 : Nat) : (d.modCohort l m c f).pool k1 = d.pool k1 := by simp only [Dev.pool, Dev.seq_modCohort]
@[simp] theorem Dev.core_modCohort (d : Dev) (l m c : Nat) (f : Cohort → Cohort) (k1 : Nat) : (d.modCohort l m c f).core k1 = d.core k1 := by simp only [Dev.core, Dev.cpx_modCohort]
@[simp] theorem Dev.hart_modCohort (d : Dev) (l m c : Nat) (f : Cohort → Cohort) (k1 : Nat) : (d.modCohort l m c f).hart k1 = d.hart k1 := by simp only [Dev.hart, Dev.cpx_modCohort]
@[simp] theorem Dev.dirEnt_modCohort (d : Dev) (l m c : Nat) (f : Cohort → Cohort) (k1 : Nat) : (d.modCohort l m c f).dirEnt k1 = d.dirEnt k1 := by simp only [Dev.dirEnt, Dev.coh_modCohort]
@[simp] theorem Dev.tlb_modCohort (d : Dev) (l m c : Nat) (f : Cohort → Cohort) (k1 : Nat) : (d.modCohort l m c f).tlb k1 = d.tlb k1 := by simp only [Dev.tlb, Dev.xlat_modCohort]
@[simp] theorem Dev.peer_modCohort (d : Dev) (l m c : Nat) (f : Cohort → Cohort) (k1 k2 : Nat) : (d.modCohort l m c f).peer k1 k2 = d.peer k1 k2 := by simp only [Dev.peer, Dev.fab_modCohort]
@[simp] theorem Dev.fabPort_modCohort (d : Dev) (l m c : Nat) (f : Cohort → Cohort) (k1 : Nat) : (d.modCohort l m c f).fabPort k1 = d.fabPort k1 := by simp only [Dev.fabPort, Dev.fab_modCohort]
@[simp] theorem Dev.conn_modCohort (d : Dev) (l m c : Nat) (f : Cohort → Cohort) (k1 : Nat) : (d.modCohort l m c f).conn k1 = d.conn k1 := by simp only [Dev.conn, Dev.sec_modCohort]
@[simp] theorem Dev.ctx_modCmd (d : Dev) (n : Nat) (f : Cmd → Cmd) (k1 : Nat) : (d.modCmd n f).ctx k1 = d.ctx k1 := by simp only [Dev.ctx, Dev.ctxs_modCmd]
@[simp] theorem Dev.pair_modCmd (d : Dev) (n : Nat) (f : Cmd → Cmd) (k1 : Nat) : (d.modCmd n f).pair k1 = d.pair k1 := by simp only [Dev.pair, Dev.ring_modCmd]
@[simp] theorem Dev.evSrc_modCmd (d : Dev) (n : Nat) (f : Cmd → Cmd) (k1 : Nat) : (d.modCmd n f).evSrc k1 = d.evSrc k1 := by simp only [Dev.evSrc, Dev.arb_modCmd]
@[simp] theorem Dev.arbPair_modCmd (d : Dev) (n : Nat) (f : Cmd → Cmd) (k1 : Nat) : (d.modCmd n f).arbPair k1 = d.arbPair k1 := by simp only [Dev.arbPair, Dev.arb_modCmd]
@[simp] theorem Dev.wheel_modCmd (d : Dev) (n : Nat) (f : Cmd → Cmd) (k1 : Nat) : (d.modCmd n f).wheel k1 = d.wheel k1 := by simp only [Dev.wheel, Dev.time_modCmd]
@[simp] theorem Dev.slot_modCmd (d : Dev) (n : Nat) (f : Cmd → Cmd) (k1 : Nat) : (d.modCmd n f).slot k1 = d.slot k1 := by simp only [Dev.slot, Dev.seq_modCmd]
@[simp] theorem Dev.pool_modCmd (d : Dev) (n : Nat) (f : Cmd → Cmd) (k1 : Nat) : (d.modCmd n f).pool k1 = d.pool k1 := by simp only [Dev.pool, Dev.seq_modCmd]
@[simp] theorem Dev.core_modCmd (d : Dev) (n : Nat) (f : Cmd → Cmd) (k1 : Nat) : (d.modCmd n f).core k1 = d.core k1 := by simp only [Dev.core, Dev.cpx_modCmd]
@[simp] theorem Dev.hart_modCmd (d : Dev) (n : Nat) (f : Cmd → Cmd) (k1 : Nat) : (d.modCmd n f).hart k1 = d.hart k1 := by simp only [Dev.hart, Dev.cpx_modCmd]
@[simp] theorem Dev.dirEnt_modCmd (d : Dev) (n : Nat) (f : Cmd → Cmd) (k1 : Nat) : (d.modCmd n f).dirEnt k1 = d.dirEnt k1 := by simp only [Dev.dirEnt, Dev.coh_modCmd]
@[simp] theorem Dev.tlb_modCmd (d : Dev) (n : Nat) (f : Cmd → Cmd) (k1 : Nat) : (d.modCmd n f).tlb k1 = d.tlb k1 := by simp only [Dev.tlb, Dev.xlat_modCmd]
@[simp] theorem Dev.peer_modCmd (d : Dev) (n : Nat) (f : Cmd → Cmd) (k1 k2 : Nat) : (d.modCmd n f).peer k1 k2 = d.peer k1 k2 := by simp only [Dev.peer, Dev.fab_modCmd]
@[simp] theorem Dev.fabPort_modCmd (d : Dev) (n : Nat) (f : Cmd → Cmd) (k1 : Nat) : (d.modCmd n f).fabPort k1 = d.fabPort k1 := by simp only [Dev.fabPort, Dev.fab_modCmd]
@[simp] theorem Dev.conn_modCmd (d : Dev) (n : Nat) (f : Cmd → Cmd) (k1 : Nat) : (d.modCmd n f).conn k1 = d.conn k1 := by simp only [Dev.conn, Dev.sec_modCmd]
@[simp] theorem Dev.ctx_setSlot (d : Dev) (n : Nat) (x : Slot) (k1 : Nat) : (d.setSlot n x).ctx k1 = d.ctx k1 := by simp only [Dev.ctx, Dev.ctxs_setSlot]
@[simp] theorem Dev.pair_setSlot (d : Dev) (n : Nat) (x : Slot) (k1 : Nat) : (d.setSlot n x).pair k1 = d.pair k1 := by simp only [Dev.pair, Dev.ring_setSlot]
@[simp] theorem Dev.evSrc_setSlot (d : Dev) (n : Nat) (x : Slot) (k1 : Nat) : (d.setSlot n x).evSrc k1 = d.evSrc k1 := by simp only [Dev.evSrc, Dev.arb_setSlot]
@[simp] theorem Dev.arbPair_setSlot (d : Dev) (n : Nat) (x : Slot) (k1 : Nat) : (d.setSlot n x).arbPair k1 = d.arbPair k1 := by simp only [Dev.arbPair, Dev.arb_setSlot]
@[simp] theorem Dev.wheel_setSlot (d : Dev) (n : Nat) (x : Slot) (k1 : Nat) : (d.setSlot n x).wheel k1 = d.wheel k1 := by simp only [Dev.wheel, Dev.time_setSlot]
@[simp] theorem Dev.ce_setSlot (d : Dev) (n : Nat) (x : Slot) (k1 : Nat) : (d.setSlot n x).ce k1 = d.ce k1 := by simp only [Dev.ce, Dev.eng_setSlot]
@[simp] theorem Dev.launch?_setSlot (d : Dev) (n : Nat) (x : Slot) (k1 : Nat) : (d.setSlot n x).launch? k1 = d.launch? k1 := by simp only [Dev.launch?, Dev.eng_setSlot]
@[simp] theorem Dev.member?_setSlot (d : Dev) (n : Nat) (x : Slot) (k1 k2 : Nat) : (d.setSlot n x).member? k1 k2 = d.member? k1 k2 := by simp only [Dev.member?, Dev.eng_setSlot]
@[simp] theorem Dev.core_setSlot (d : Dev) (n : Nat) (x : Slot) (k1 : Nat) : (d.setSlot n x).core k1 = d.core k1 := by simp only [Dev.core, Dev.cpx_setSlot]
@[simp] theorem Dev.hart_setSlot (d : Dev) (n : Nat) (x : Slot) (k1 : Nat) : (d.setSlot n x).hart k1 = d.hart k1 := by simp only [Dev.hart, Dev.cpx_setSlot]
@[simp] theorem Dev.dirEnt_setSlot (d : Dev) (n : Nat) (x : Slot) (k1 : Nat) : (d.setSlot n x).dirEnt k1 = d.dirEnt k1 := by simp only [Dev.dirEnt, Dev.coh_setSlot]
@[simp] theorem Dev.tlb_setSlot (d : Dev) (n : Nat) (x : Slot) (k1 : Nat) : (d.setSlot n x).tlb k1 = d.tlb k1 := by simp only [Dev.tlb, Dev.xlat_setSlot]
@[simp] theorem Dev.peer_setSlot (d : Dev) (n : Nat) (x : Slot) (k1 k2 : Nat) : (d.setSlot n x).peer k1 k2 = d.peer k1 k2 := by simp only [Dev.peer, Dev.fab_setSlot]
@[simp] theorem Dev.fabPort_setSlot (d : Dev) (n : Nat) (x : Slot) (k1 : Nat) : (d.setSlot n x).fabPort k1 = d.fabPort k1 := by simp only [Dev.fabPort, Dev.fab_setSlot]
@[simp] theorem Dev.conn_setSlot (d : Dev) (n : Nat) (x : Slot) (k1 : Nat) : (d.setSlot n x).conn k1 = d.conn k1 := by simp only [Dev.conn, Dev.sec_setSlot]
@[simp] theorem Dev.ctx_modSlot (d : Dev) (n : Nat) (f : Slot → Slot) (k1 : Nat) : (d.modSlot n f).ctx k1 = d.ctx k1 := by simp only [Dev.ctx, Dev.ctxs_modSlot]
@[simp] theorem Dev.pair_modSlot (d : Dev) (n : Nat) (f : Slot → Slot) (k1 : Nat) : (d.modSlot n f).pair k1 = d.pair k1 := by simp only [Dev.pair, Dev.ring_modSlot]
@[simp] theorem Dev.evSrc_modSlot (d : Dev) (n : Nat) (f : Slot → Slot) (k1 : Nat) : (d.modSlot n f).evSrc k1 = d.evSrc k1 := by simp only [Dev.evSrc, Dev.arb_modSlot]
@[simp] theorem Dev.arbPair_modSlot (d : Dev) (n : Nat) (f : Slot → Slot) (k1 : Nat) : (d.modSlot n f).arbPair k1 = d.arbPair k1 := by simp only [Dev.arbPair, Dev.arb_modSlot]
@[simp] theorem Dev.wheel_modSlot (d : Dev) (n : Nat) (f : Slot → Slot) (k1 : Nat) : (d.modSlot n f).wheel k1 = d.wheel k1 := by simp only [Dev.wheel, Dev.time_modSlot]
@[simp] theorem Dev.ce_modSlot (d : Dev) (n : Nat) (f : Slot → Slot) (k1 : Nat) : (d.modSlot n f).ce k1 = d.ce k1 := by simp only [Dev.ce, Dev.eng_modSlot]
@[simp] theorem Dev.launch?_modSlot (d : Dev) (n : Nat) (f : Slot → Slot) (k1 : Nat) : (d.modSlot n f).launch? k1 = d.launch? k1 := by simp only [Dev.launch?, Dev.eng_modSlot]
@[simp] theorem Dev.member?_modSlot (d : Dev) (n : Nat) (f : Slot → Slot) (k1 k2 : Nat) : (d.modSlot n f).member? k1 k2 = d.member? k1 k2 := by simp only [Dev.member?, Dev.eng_modSlot]
@[simp] theorem Dev.core_modSlot (d : Dev) (n : Nat) (f : Slot → Slot) (k1 : Nat) : (d.modSlot n f).core k1 = d.core k1 := by simp only [Dev.core, Dev.cpx_modSlot]
@[simp] theorem Dev.hart_modSlot (d : Dev) (n : Nat) (f : Slot → Slot) (k1 : Nat) : (d.modSlot n f).hart k1 = d.hart k1 := by simp only [Dev.hart, Dev.cpx_modSlot]
@[simp] theorem Dev.dirEnt_modSlot (d : Dev) (n : Nat) (f : Slot → Slot) (k1 : Nat) : (d.modSlot n f).dirEnt k1 = d.dirEnt k1 := by simp only [Dev.dirEnt, Dev.coh_modSlot]
@[simp] theorem Dev.tlb_modSlot (d : Dev) (n : Nat) (f : Slot → Slot) (k1 : Nat) : (d.modSlot n f).tlb k1 = d.tlb k1 := by simp only [Dev.tlb, Dev.xlat_modSlot]
@[simp] theorem Dev.peer_modSlot (d : Dev) (n : Nat) (f : Slot → Slot) (k1 k2 : Nat) : (d.modSlot n f).peer k1 k2 = d.peer k1 k2 := by simp only [Dev.peer, Dev.fab_modSlot]
@[simp] theorem Dev.fabPort_modSlot (d : Dev) (n : Nat) (f : Slot → Slot) (k1 : Nat) : (d.modSlot n f).fabPort k1 = d.fabPort k1 := by simp only [Dev.fabPort, Dev.fab_modSlot]
@[simp] theorem Dev.conn_modSlot (d : Dev) (n : Nat) (f : Slot → Slot) (k1 : Nat) : (d.modSlot n f).conn k1 = d.conn k1 := by simp only [Dev.conn, Dev.sec_modSlot]
@[simp] theorem Dev.ctx_modPool (d : Dev) (k : Nat) (f : Pool → Pool) (k1 : Nat) : (d.modPool k f).ctx k1 = d.ctx k1 := by simp only [Dev.ctx, Dev.ctxs_modPool]
@[simp] theorem Dev.pair_modPool (d : Dev) (k : Nat) (f : Pool → Pool) (k1 : Nat) : (d.modPool k f).pair k1 = d.pair k1 := by simp only [Dev.pair, Dev.ring_modPool]
@[simp] theorem Dev.evSrc_modPool (d : Dev) (k : Nat) (f : Pool → Pool) (k1 : Nat) : (d.modPool k f).evSrc k1 = d.evSrc k1 := by simp only [Dev.evSrc, Dev.arb_modPool]
@[simp] theorem Dev.arbPair_modPool (d : Dev) (k : Nat) (f : Pool → Pool) (k1 : Nat) : (d.modPool k f).arbPair k1 = d.arbPair k1 := by simp only [Dev.arbPair, Dev.arb_modPool]
@[simp] theorem Dev.wheel_modPool (d : Dev) (k : Nat) (f : Pool → Pool) (k1 : Nat) : (d.modPool k f).wheel k1 = d.wheel k1 := by simp only [Dev.wheel, Dev.time_modPool]
@[simp] theorem Dev.ce_modPool (d : Dev) (k : Nat) (f : Pool → Pool) (k1 : Nat) : (d.modPool k f).ce k1 = d.ce k1 := by simp only [Dev.ce, Dev.eng_modPool]
@[simp] theorem Dev.launch?_modPool (d : Dev) (k : Nat) (f : Pool → Pool) (k1 : Nat) : (d.modPool k f).launch? k1 = d.launch? k1 := by simp only [Dev.launch?, Dev.eng_modPool]
@[simp] theorem Dev.member?_modPool (d : Dev) (k : Nat) (f : Pool → Pool) (k1 k2 : Nat) : (d.modPool k f).member? k1 k2 = d.member? k1 k2 := by simp only [Dev.member?, Dev.eng_modPool]
@[simp] theorem Dev.core_modPool (d : Dev) (k : Nat) (f : Pool → Pool) (k1 : Nat) : (d.modPool k f).core k1 = d.core k1 := by simp only [Dev.core, Dev.cpx_modPool]
@[simp] theorem Dev.hart_modPool (d : Dev) (k : Nat) (f : Pool → Pool) (k1 : Nat) : (d.modPool k f).hart k1 = d.hart k1 := by simp only [Dev.hart, Dev.cpx_modPool]
@[simp] theorem Dev.dirEnt_modPool (d : Dev) (k : Nat) (f : Pool → Pool) (k1 : Nat) : (d.modPool k f).dirEnt k1 = d.dirEnt k1 := by simp only [Dev.dirEnt, Dev.coh_modPool]
@[simp] theorem Dev.tlb_modPool (d : Dev) (k : Nat) (f : Pool → Pool) (k1 : Nat) : (d.modPool k f).tlb k1 = d.tlb k1 := by simp only [Dev.tlb, Dev.xlat_modPool]
@[simp] theorem Dev.peer_modPool (d : Dev) (k : Nat) (f : Pool → Pool) (k1 k2 : Nat) : (d.modPool k f).peer k1 k2 = d.peer k1 k2 := by simp only [Dev.peer, Dev.fab_modPool]
@[simp] theorem Dev.fabPort_modPool (d : Dev) (k : Nat) (f : Pool → Pool) (k1 : Nat) : (d.modPool k f).fabPort k1 = d.fabPort k1 := by simp only [Dev.fabPort, Dev.fab_modPool]
@[simp] theorem Dev.conn_modPool (d : Dev) (k : Nat) (f : Pool → Pool) (k1 : Nat) : (d.modPool k f).conn k1 = d.conn k1 := by simp only [Dev.conn, Dev.sec_modPool]
@[simp] theorem Dev.ctx_modWin (d : Dev) (w : Nat) (f : Win → Win) (k1 : Nat) : (d.modWin w f).ctx k1 = d.ctx k1 := by simp only [Dev.ctx, Dev.ctxs_modWin]
@[simp] theorem Dev.pair_modWin (d : Dev) (w : Nat) (f : Win → Win) (k1 : Nat) : (d.modWin w f).pair k1 = d.pair k1 := by simp only [Dev.pair, Dev.ring_modWin]
@[simp] theorem Dev.evSrc_modWin (d : Dev) (w : Nat) (f : Win → Win) (k1 : Nat) : (d.modWin w f).evSrc k1 = d.evSrc k1 := by simp only [Dev.evSrc, Dev.arb_modWin]
@[simp] theorem Dev.arbPair_modWin (d : Dev) (w : Nat) (f : Win → Win) (k1 : Nat) : (d.modWin w f).arbPair k1 = d.arbPair k1 := by simp only [Dev.arbPair, Dev.arb_modWin]
@[simp] theorem Dev.wheel_modWin (d : Dev) (w : Nat) (f : Win → Win) (k1 : Nat) : (d.modWin w f).wheel k1 = d.wheel k1 := by simp only [Dev.wheel, Dev.time_modWin]
@[simp] theorem Dev.ce_modWin (d : Dev) (w : Nat) (f : Win → Win) (k1 : Nat) : (d.modWin w f).ce k1 = d.ce k1 := by simp only [Dev.ce, Dev.eng_modWin]
@[simp] theorem Dev.launch?_modWin (d : Dev) (w : Nat) (f : Win → Win) (k1 : Nat) : (d.modWin w f).launch? k1 = d.launch? k1 := by simp only [Dev.launch?, Dev.eng_modWin]
@[simp] theorem Dev.member?_modWin (d : Dev) (w : Nat) (f : Win → Win) (k1 k2 : Nat) : (d.modWin w f).member? k1 k2 = d.member? k1 k2 := by simp only [Dev.member?, Dev.eng_modWin]
@[simp] theorem Dev.slot_modWin (d : Dev) (w : Nat) (f : Win → Win) (k1 : Nat) : (d.modWin w f).slot k1 = d.slot k1 := by simp only [Dev.slot, Dev.seq_modWin]
@[simp] theorem Dev.pool_modWin (d : Dev) (w : Nat) (f : Win → Win) (k1 : Nat) : (d.modWin w f).pool k1 = d.pool k1 := by simp only [Dev.pool, Dev.seq_modWin]
@[simp] theorem Dev.core_modWin (d : Dev) (w : Nat) (f : Win → Win) (k1 : Nat) : (d.modWin w f).core k1 = d.core k1 := by simp only [Dev.core, Dev.cpx_modWin]
@[simp] theorem Dev.hart_modWin (d : Dev) (w : Nat) (f : Win → Win) (k1 : Nat) : (d.modWin w f).hart k1 = d.hart k1 := by simp only [Dev.hart, Dev.cpx_modWin]
@[simp] theorem Dev.dirEnt_modWin (d : Dev) (w : Nat) (f : Win → Win) (k1 : Nat) : (d.modWin w f).dirEnt k1 = d.dirEnt k1 := by simp only [Dev.dirEnt, Dev.coh_modWin]
@[simp] theorem Dev.tlb_modWin (d : Dev) (w : Nat) (f : Win → Win) (k1 : Nat) : (d.modWin w f).tlb k1 = d.tlb k1 := by simp only [Dev.tlb, Dev.xlat_modWin]
@[simp] theorem Dev.peer_modWin (d : Dev) (w : Nat) (f : Win → Win) (k1 k2 : Nat) : (d.modWin w f).peer k1 k2 = d.peer k1 k2 := by simp only [Dev.peer, Dev.fab_modWin]
@[simp] theorem Dev.fabPort_modWin (d : Dev) (w : Nat) (f : Win → Win) (k1 : Nat) : (d.modWin w f).fabPort k1 = d.fabPort k1 := by simp only [Dev.fabPort, Dev.fab_modWin]
@[simp] theorem Dev.conn_modWin (d : Dev) (w : Nat) (f : Win → Win) (k1 : Nat) : (d.modWin w f).conn k1 = d.conn k1 := by simp only [Dev.conn, Dev.sec_modWin]
@[simp] theorem Dev.ctx_setCore (d : Dev) (k : Nat) (c : Core) (k1 : Nat) : (d.setCore k c).ctx k1 = d.ctx k1 := by simp only [Dev.ctx, Dev.ctxs_setCore]
@[simp] theorem Dev.pair_setCore (d : Dev) (k : Nat) (c : Core) (k1 : Nat) : (d.setCore k c).pair k1 = d.pair k1 := by simp only [Dev.pair, Dev.ring_setCore]
@[simp] theorem Dev.evSrc_setCore (d : Dev) (k : Nat) (c : Core) (k1 : Nat) : (d.setCore k c).evSrc k1 = d.evSrc k1 := by simp only [Dev.evSrc, Dev.arb_setCore]
@[simp] theorem Dev.arbPair_setCore (d : Dev) (k : Nat) (c : Core) (k1 : Nat) : (d.setCore k c).arbPair k1 = d.arbPair k1 := by simp only [Dev.arbPair, Dev.arb_setCore]
@[simp] theorem Dev.wheel_setCore (d : Dev) (k : Nat) (c : Core) (k1 : Nat) : (d.setCore k c).wheel k1 = d.wheel k1 := by simp only [Dev.wheel, Dev.time_setCore]
@[simp] theorem Dev.ce_setCore (d : Dev) (k : Nat) (c : Core) (k1 : Nat) : (d.setCore k c).ce k1 = d.ce k1 := by simp only [Dev.ce, Dev.eng_setCore]
@[simp] theorem Dev.launch?_setCore (d : Dev) (k : Nat) (c : Core) (k1 : Nat) : (d.setCore k c).launch? k1 = d.launch? k1 := by simp only [Dev.launch?, Dev.eng_setCore]
@[simp] theorem Dev.member?_setCore (d : Dev) (k : Nat) (c : Core) (k1 k2 : Nat) : (d.setCore k c).member? k1 k2 = d.member? k1 k2 := by simp only [Dev.member?, Dev.eng_setCore]
@[simp] theorem Dev.slot_setCore (d : Dev) (k : Nat) (c : Core) (k1 : Nat) : (d.setCore k c).slot k1 = d.slot k1 := by simp only [Dev.slot, Dev.seq_setCore]
@[simp] theorem Dev.pool_setCore (d : Dev) (k : Nat) (c : Core) (k1 : Nat) : (d.setCore k c).pool k1 = d.pool k1 := by simp only [Dev.pool, Dev.seq_setCore]
@[simp] theorem Dev.dirEnt_setCore (d : Dev) (k : Nat) (c : Core) (k1 : Nat) : (d.setCore k c).dirEnt k1 = d.dirEnt k1 := by simp only [Dev.dirEnt, Dev.coh_setCore]
@[simp] theorem Dev.tlb_setCore (d : Dev) (k : Nat) (c : Core) (k1 : Nat) : (d.setCore k c).tlb k1 = d.tlb k1 := by simp only [Dev.tlb, Dev.xlat_setCore]
@[simp] theorem Dev.peer_setCore (d : Dev) (k : Nat) (c : Core) (k1 k2 : Nat) : (d.setCore k c).peer k1 k2 = d.peer k1 k2 := by simp only [Dev.peer, Dev.fab_setCore]
@[simp] theorem Dev.fabPort_setCore (d : Dev) (k : Nat) (c : Core) (k1 : Nat) : (d.setCore k c).fabPort k1 = d.fabPort k1 := by simp only [Dev.fabPort, Dev.fab_setCore]
@[simp] theorem Dev.conn_setCore (d : Dev) (k : Nat) (c : Core) (k1 : Nat) : (d.setCore k c).conn k1 = d.conn k1 := by simp only [Dev.conn, Dev.sec_setCore]
@[simp] theorem Dev.ctx_setHart (d : Dev) (h : Nat) (x : Hart) (k1 : Nat) : (d.setHart h x).ctx k1 = d.ctx k1 := by simp only [Dev.ctx, Dev.ctxs_setHart]
@[simp] theorem Dev.pair_setHart (d : Dev) (h : Nat) (x : Hart) (k1 : Nat) : (d.setHart h x).pair k1 = d.pair k1 := by simp only [Dev.pair, Dev.ring_setHart]
@[simp] theorem Dev.evSrc_setHart (d : Dev) (h : Nat) (x : Hart) (k1 : Nat) : (d.setHart h x).evSrc k1 = d.evSrc k1 := by simp only [Dev.evSrc, Dev.arb_setHart]
@[simp] theorem Dev.arbPair_setHart (d : Dev) (h : Nat) (x : Hart) (k1 : Nat) : (d.setHart h x).arbPair k1 = d.arbPair k1 := by simp only [Dev.arbPair, Dev.arb_setHart]
@[simp] theorem Dev.wheel_setHart (d : Dev) (h : Nat) (x : Hart) (k1 : Nat) : (d.setHart h x).wheel k1 = d.wheel k1 := by simp only [Dev.wheel, Dev.time_setHart]
@[simp] theorem Dev.ce_setHart (d : Dev) (h : Nat) (x : Hart) (k1 : Nat) : (d.setHart h x).ce k1 = d.ce k1 := by simp only [Dev.ce, Dev.eng_setHart]
@[simp] theorem Dev.launch?_setHart (d : Dev) (h : Nat) (x : Hart) (k1 : Nat) : (d.setHart h x).launch? k1 = d.launch? k1 := by simp only [Dev.launch?, Dev.eng_setHart]
@[simp] theorem Dev.member?_setHart (d : Dev) (h : Nat) (x : Hart) (k1 k2 : Nat) : (d.setHart h x).member? k1 k2 = d.member? k1 k2 := by simp only [Dev.member?, Dev.eng_setHart]
@[simp] theorem Dev.slot_setHart (d : Dev) (h : Nat) (x : Hart) (k1 : Nat) : (d.setHart h x).slot k1 = d.slot k1 := by simp only [Dev.slot, Dev.seq_setHart]
@[simp] theorem Dev.pool_setHart (d : Dev) (h : Nat) (x : Hart) (k1 : Nat) : (d.setHart h x).pool k1 = d.pool k1 := by simp only [Dev.pool, Dev.seq_setHart]
@[simp] theorem Dev.dirEnt_setHart (d : Dev) (h : Nat) (x : Hart) (k1 : Nat) : (d.setHart h x).dirEnt k1 = d.dirEnt k1 := by simp only [Dev.dirEnt, Dev.coh_setHart]
@[simp] theorem Dev.tlb_setHart (d : Dev) (h : Nat) (x : Hart) (k1 : Nat) : (d.setHart h x).tlb k1 = d.tlb k1 := by simp only [Dev.tlb, Dev.xlat_setHart]
@[simp] theorem Dev.peer_setHart (d : Dev) (h : Nat) (x : Hart) (k1 k2 : Nat) : (d.setHart h x).peer k1 k2 = d.peer k1 k2 := by simp only [Dev.peer, Dev.fab_setHart]
@[simp] theorem Dev.fabPort_setHart (d : Dev) (h : Nat) (x : Hart) (k1 : Nat) : (d.setHart h x).fabPort k1 = d.fabPort k1 := by simp only [Dev.fabPort, Dev.fab_setHart]
@[simp] theorem Dev.conn_setHart (d : Dev) (h : Nat) (x : Hart) (k1 : Nat) : (d.setHart h x).conn k1 = d.conn k1 := by simp only [Dev.conn, Dev.sec_setHart]
@[simp] theorem Dev.ctx_modHart (d : Dev) (h : Nat) (f : Hart → Hart) (k1 : Nat) : (d.modHart h f).ctx k1 = d.ctx k1 := by simp only [Dev.ctx, Dev.ctxs_modHart]
@[simp] theorem Dev.pair_modHart (d : Dev) (h : Nat) (f : Hart → Hart) (k1 : Nat) : (d.modHart h f).pair k1 = d.pair k1 := by simp only [Dev.pair, Dev.ring_modHart]
@[simp] theorem Dev.evSrc_modHart (d : Dev) (h : Nat) (f : Hart → Hart) (k1 : Nat) : (d.modHart h f).evSrc k1 = d.evSrc k1 := by simp only [Dev.evSrc, Dev.arb_modHart]
@[simp] theorem Dev.arbPair_modHart (d : Dev) (h : Nat) (f : Hart → Hart) (k1 : Nat) : (d.modHart h f).arbPair k1 = d.arbPair k1 := by simp only [Dev.arbPair, Dev.arb_modHart]
@[simp] theorem Dev.wheel_modHart (d : Dev) (h : Nat) (f : Hart → Hart) (k1 : Nat) : (d.modHart h f).wheel k1 = d.wheel k1 := by simp only [Dev.wheel, Dev.time_modHart]
@[simp] theorem Dev.ce_modHart (d : Dev) (h : Nat) (f : Hart → Hart) (k1 : Nat) : (d.modHart h f).ce k1 = d.ce k1 := by simp only [Dev.ce, Dev.eng_modHart]
@[simp] theorem Dev.launch?_modHart (d : Dev) (h : Nat) (f : Hart → Hart) (k1 : Nat) : (d.modHart h f).launch? k1 = d.launch? k1 := by simp only [Dev.launch?, Dev.eng_modHart]
@[simp] theorem Dev.member?_modHart (d : Dev) (h : Nat) (f : Hart → Hart) (k1 k2 : Nat) : (d.modHart h f).member? k1 k2 = d.member? k1 k2 := by simp only [Dev.member?, Dev.eng_modHart]
@[simp] theorem Dev.slot_modHart (d : Dev) (h : Nat) (f : Hart → Hart) (k1 : Nat) : (d.modHart h f).slot k1 = d.slot k1 := by simp only [Dev.slot, Dev.seq_modHart]
@[simp] theorem Dev.pool_modHart (d : Dev) (h : Nat) (f : Hart → Hart) (k1 : Nat) : (d.modHart h f).pool k1 = d.pool k1 := by simp only [Dev.pool, Dev.seq_modHart]
@[simp] theorem Dev.dirEnt_modHart (d : Dev) (h : Nat) (f : Hart → Hart) (k1 : Nat) : (d.modHart h f).dirEnt k1 = d.dirEnt k1 := by simp only [Dev.dirEnt, Dev.coh_modHart]
@[simp] theorem Dev.tlb_modHart (d : Dev) (h : Nat) (f : Hart → Hart) (k1 : Nat) : (d.modHart h f).tlb k1 = d.tlb k1 := by simp only [Dev.tlb, Dev.xlat_modHart]
@[simp] theorem Dev.peer_modHart (d : Dev) (h : Nat) (f : Hart → Hart) (k1 k2 : Nat) : (d.modHart h f).peer k1 k2 = d.peer k1 k2 := by simp only [Dev.peer, Dev.fab_modHart]
@[simp] theorem Dev.fabPort_modHart (d : Dev) (h : Nat) (f : Hart → Hart) (k1 : Nat) : (d.modHart h f).fabPort k1 = d.fabPort k1 := by simp only [Dev.fabPort, Dev.fab_modHart]
@[simp] theorem Dev.conn_modHart (d : Dev) (h : Nat) (f : Hart → Hart) (k1 : Nat) : (d.modHart h f).conn k1 = d.conn k1 := by simp only [Dev.conn, Dev.sec_modHart]
@[simp] theorem Dev.ctx_modDir (d : Dev) (k : Nat) (f : DirEnt → DirEnt) (k1 : Nat) : (d.modDir k f).ctx k1 = d.ctx k1 := by simp only [Dev.ctx, Dev.ctxs_modDir]
@[simp] theorem Dev.pair_modDir (d : Dev) (k : Nat) (f : DirEnt → DirEnt) (k1 : Nat) : (d.modDir k f).pair k1 = d.pair k1 := by simp only [Dev.pair, Dev.ring_modDir]
@[simp] theorem Dev.evSrc_modDir (d : Dev) (k : Nat) (f : DirEnt → DirEnt) (k1 : Nat) : (d.modDir k f).evSrc k1 = d.evSrc k1 := by simp only [Dev.evSrc, Dev.arb_modDir]
@[simp] theorem Dev.arbPair_modDir (d : Dev) (k : Nat) (f : DirEnt → DirEnt) (k1 : Nat) : (d.modDir k f).arbPair k1 = d.arbPair k1 := by simp only [Dev.arbPair, Dev.arb_modDir]
@[simp] theorem Dev.wheel_modDir (d : Dev) (k : Nat) (f : DirEnt → DirEnt) (k1 : Nat) : (d.modDir k f).wheel k1 = d.wheel k1 := by simp only [Dev.wheel, Dev.time_modDir]
@[simp] theorem Dev.ce_modDir (d : Dev) (k : Nat) (f : DirEnt → DirEnt) (k1 : Nat) : (d.modDir k f).ce k1 = d.ce k1 := by simp only [Dev.ce, Dev.eng_modDir]
@[simp] theorem Dev.launch?_modDir (d : Dev) (k : Nat) (f : DirEnt → DirEnt) (k1 : Nat) : (d.modDir k f).launch? k1 = d.launch? k1 := by simp only [Dev.launch?, Dev.eng_modDir]
@[simp] theorem Dev.member?_modDir (d : Dev) (k : Nat) (f : DirEnt → DirEnt) (k1 k2 : Nat) : (d.modDir k f).member? k1 k2 = d.member? k1 k2 := by simp only [Dev.member?, Dev.eng_modDir]
@[simp] theorem Dev.slot_modDir (d : Dev) (k : Nat) (f : DirEnt → DirEnt) (k1 : Nat) : (d.modDir k f).slot k1 = d.slot k1 := by simp only [Dev.slot, Dev.seq_modDir]
@[simp] theorem Dev.pool_modDir (d : Dev) (k : Nat) (f : DirEnt → DirEnt) (k1 : Nat) : (d.modDir k f).pool k1 = d.pool k1 := by simp only [Dev.pool, Dev.seq_modDir]
@[simp] theorem Dev.core_modDir (d : Dev) (k : Nat) (f : DirEnt → DirEnt) (k1 : Nat) : (d.modDir k f).core k1 = d.core k1 := by simp only [Dev.core, Dev.cpx_modDir]
@[simp] theorem Dev.hart_modDir (d : Dev) (k : Nat) (f : DirEnt → DirEnt) (k1 : Nat) : (d.modDir k f).hart k1 = d.hart k1 := by simp only [Dev.hart, Dev.cpx_modDir]
@[simp] theorem Dev.tlb_modDir (d : Dev) (k : Nat) (f : DirEnt → DirEnt) (k1 : Nat) : (d.modDir k f).tlb k1 = d.tlb k1 := by simp only [Dev.tlb, Dev.xlat_modDir]
@[simp] theorem Dev.peer_modDir (d : Dev) (k : Nat) (f : DirEnt → DirEnt) (k1 k2 : Nat) : (d.modDir k f).peer k1 k2 = d.peer k1 k2 := by simp only [Dev.peer, Dev.fab_modDir]
@[simp] theorem Dev.fabPort_modDir (d : Dev) (k : Nat) (f : DirEnt → DirEnt) (k1 : Nat) : (d.modDir k f).fabPort k1 = d.fabPort k1 := by simp only [Dev.fabPort, Dev.fab_modDir]
@[simp] theorem Dev.conn_modDir (d : Dev) (k : Nat) (f : DirEnt → DirEnt) (k1 : Nat) : (d.modDir k f).conn k1 = d.conn k1 := by simp only [Dev.conn, Dev.sec_modDir]
@[simp] theorem Dev.ctx_setTlb (d : Dev) (u : Nat) (l : List TlbEntry) (k1 : Nat) : (d.setTlb u l).ctx k1 = d.ctx k1 := by simp only [Dev.ctx, Dev.ctxs_setTlb]
@[simp] theorem Dev.pair_setTlb (d : Dev) (u : Nat) (l : List TlbEntry) (k1 : Nat) : (d.setTlb u l).pair k1 = d.pair k1 := by simp only [Dev.pair, Dev.ring_setTlb]
@[simp] theorem Dev.evSrc_setTlb (d : Dev) (u : Nat) (l : List TlbEntry) (k1 : Nat) : (d.setTlb u l).evSrc k1 = d.evSrc k1 := by simp only [Dev.evSrc, Dev.arb_setTlb]
@[simp] theorem Dev.arbPair_setTlb (d : Dev) (u : Nat) (l : List TlbEntry) (k1 : Nat) : (d.setTlb u l).arbPair k1 = d.arbPair k1 := by simp only [Dev.arbPair, Dev.arb_setTlb]
@[simp] theorem Dev.wheel_setTlb (d : Dev) (u : Nat) (l : List TlbEntry) (k1 : Nat) : (d.setTlb u l).wheel k1 = d.wheel k1 := by simp only [Dev.wheel, Dev.time_setTlb]
@[simp] theorem Dev.ce_setTlb (d : Dev) (u : Nat) (l : List TlbEntry) (k1 : Nat) : (d.setTlb u l).ce k1 = d.ce k1 := by simp only [Dev.ce, Dev.eng_setTlb]
@[simp] theorem Dev.launch?_setTlb (d : Dev) (u : Nat) (l : List TlbEntry) (k1 : Nat) : (d.setTlb u l).launch? k1 = d.launch? k1 := by simp only [Dev.launch?, Dev.eng_setTlb]
@[simp] theorem Dev.member?_setTlb (d : Dev) (u : Nat) (l : List TlbEntry) (k1 k2 : Nat) : (d.setTlb u l).member? k1 k2 = d.member? k1 k2 := by simp only [Dev.member?, Dev.eng_setTlb]
@[simp] theorem Dev.slot_setTlb (d : Dev) (u : Nat) (l : List TlbEntry) (k1 : Nat) : (d.setTlb u l).slot k1 = d.slot k1 := by simp only [Dev.slot, Dev.seq_setTlb]
@[simp] theorem Dev.pool_setTlb (d : Dev) (u : Nat) (l : List TlbEntry) (k1 : Nat) : (d.setTlb u l).pool k1 = d.pool k1 := by simp only [Dev.pool, Dev.seq_setTlb]
@[simp] theorem Dev.core_setTlb (d : Dev) (u : Nat) (l : List TlbEntry) (k1 : Nat) : (d.setTlb u l).core k1 = d.core k1 := by simp only [Dev.core, Dev.cpx_setTlb]
@[simp] theorem Dev.hart_setTlb (d : Dev) (u : Nat) (l : List TlbEntry) (k1 : Nat) : (d.setTlb u l).hart k1 = d.hart k1 := by simp only [Dev.hart, Dev.cpx_setTlb]
@[simp] theorem Dev.dirEnt_setTlb (d : Dev) (u : Nat) (l : List TlbEntry) (k1 : Nat) : (d.setTlb u l).dirEnt k1 = d.dirEnt k1 := by simp only [Dev.dirEnt, Dev.coh_setTlb]
@[simp] theorem Dev.peer_setTlb (d : Dev) (u : Nat) (l : List TlbEntry) (k1 k2 : Nat) : (d.setTlb u l).peer k1 k2 = d.peer k1 k2 := by simp only [Dev.peer, Dev.fab_setTlb]
@[simp] theorem Dev.fabPort_setTlb (d : Dev) (u : Nat) (l : List TlbEntry) (k1 : Nat) : (d.setTlb u l).fabPort k1 = d.fabPort k1 := by simp only [Dev.fabPort, Dev.fab_setTlb]
@[simp] theorem Dev.conn_setTlb (d : Dev) (u : Nat) (l : List TlbEntry) (k1 : Nat) : (d.setTlb u l).conn k1 = d.conn k1 := by simp only [Dev.conn, Dev.sec_setTlb]
@[simp] theorem Dev.ctx_setPeer (d : Dev) (a n : Nat) (p : Peer) (k1 : Nat) : (d.setPeer a n p).ctx k1 = d.ctx k1 := by simp only [Dev.ctx, Dev.ctxs_setPeer]
@[simp] theorem Dev.pair_setPeer (d : Dev) (a n : Nat) (p : Peer) (k1 : Nat) : (d.setPeer a n p).pair k1 = d.pair k1 := by simp only [Dev.pair, Dev.ring_setPeer]
@[simp] theorem Dev.evSrc_setPeer (d : Dev) (a n : Nat) (p : Peer) (k1 : Nat) : (d.setPeer a n p).evSrc k1 = d.evSrc k1 := by simp only [Dev.evSrc, Dev.arb_setPeer]
@[simp] theorem Dev.arbPair_setPeer (d : Dev) (a n : Nat) (p : Peer) (k1 : Nat) : (d.setPeer a n p).arbPair k1 = d.arbPair k1 := by simp only [Dev.arbPair, Dev.arb_setPeer]
@[simp] theorem Dev.wheel_setPeer (d : Dev) (a n : Nat) (p : Peer) (k1 : Nat) : (d.setPeer a n p).wheel k1 = d.wheel k1 := by simp only [Dev.wheel, Dev.time_setPeer]
@[simp] theorem Dev.ce_setPeer (d : Dev) (a n : Nat) (p : Peer) (k1 : Nat) : (d.setPeer a n p).ce k1 = d.ce k1 := by simp only [Dev.ce, Dev.eng_setPeer]
@[simp] theorem Dev.launch?_setPeer (d : Dev) (a n : Nat) (p : Peer) (k1 : Nat) : (d.setPeer a n p).launch? k1 = d.launch? k1 := by simp only [Dev.launch?, Dev.eng_setPeer]
@[simp] theorem Dev.member?_setPeer (d : Dev) (a n : Nat) (p : Peer) (k1 k2 : Nat) : (d.setPeer a n p).member? k1 k2 = d.member? k1 k2 := by simp only [Dev.member?, Dev.eng_setPeer]
@[simp] theorem Dev.slot_setPeer (d : Dev) (a n : Nat) (p : Peer) (k1 : Nat) : (d.setPeer a n p).slot k1 = d.slot k1 := by simp only [Dev.slot, Dev.seq_setPeer]
@[simp] theorem Dev.pool_setPeer (d : Dev) (a n : Nat) (p : Peer) (k1 : Nat) : (d.setPeer a n p).pool k1 = d.pool k1 := by simp only [Dev.pool, Dev.seq_setPeer]
@[simp] theorem Dev.core_setPeer (d : Dev) (a n : Nat) (p : Peer) (k1 : Nat) : (d.setPeer a n p).core k1 = d.core k1 := by simp only [Dev.core, Dev.cpx_setPeer]
@[simp] theorem Dev.hart_setPeer (d : Dev) (a n : Nat) (p : Peer) (k1 : Nat) : (d.setPeer a n p).hart k1 = d.hart k1 := by simp only [Dev.hart, Dev.cpx_setPeer]
@[simp] theorem Dev.dirEnt_setPeer (d : Dev) (a n : Nat) (p : Peer) (k1 : Nat) : (d.setPeer a n p).dirEnt k1 = d.dirEnt k1 := by simp only [Dev.dirEnt, Dev.coh_setPeer]
@[simp] theorem Dev.tlb_setPeer (d : Dev) (a n : Nat) (p : Peer) (k1 : Nat) : (d.setPeer a n p).tlb k1 = d.tlb k1 := by simp only [Dev.tlb, Dev.xlat_setPeer]
@[simp] theorem Dev.conn_setPeer (d : Dev) (a n : Nat) (p : Peer) (k1 : Nat) : (d.setPeer a n p).conn k1 = d.conn k1 := by simp only [Dev.conn, Dev.sec_setPeer]
@[simp] theorem Dev.ctx_setFabPort (d : Dev) (p : Nat) (x : FabPort) (k1 : Nat) : (d.setFabPort p x).ctx k1 = d.ctx k1 := by simp only [Dev.ctx, Dev.ctxs_setFabPort]
@[simp] theorem Dev.pair_setFabPort (d : Dev) (p : Nat) (x : FabPort) (k1 : Nat) : (d.setFabPort p x).pair k1 = d.pair k1 := by simp only [Dev.pair, Dev.ring_setFabPort]
@[simp] theorem Dev.evSrc_setFabPort (d : Dev) (p : Nat) (x : FabPort) (k1 : Nat) : (d.setFabPort p x).evSrc k1 = d.evSrc k1 := by simp only [Dev.evSrc, Dev.arb_setFabPort]
@[simp] theorem Dev.arbPair_setFabPort (d : Dev) (p : Nat) (x : FabPort) (k1 : Nat) : (d.setFabPort p x).arbPair k1 = d.arbPair k1 := by simp only [Dev.arbPair, Dev.arb_setFabPort]
@[simp] theorem Dev.wheel_setFabPort (d : Dev) (p : Nat) (x : FabPort) (k1 : Nat) : (d.setFabPort p x).wheel k1 = d.wheel k1 := by simp only [Dev.wheel, Dev.time_setFabPort]
@[simp] theorem Dev.ce_setFabPort (d : Dev) (p : Nat) (x : FabPort) (k1 : Nat) : (d.setFabPort p x).ce k1 = d.ce k1 := by simp only [Dev.ce, Dev.eng_setFabPort]
@[simp] theorem Dev.launch?_setFabPort (d : Dev) (p : Nat) (x : FabPort) (k1 : Nat) : (d.setFabPort p x).launch? k1 = d.launch? k1 := by simp only [Dev.launch?, Dev.eng_setFabPort]
@[simp] theorem Dev.member?_setFabPort (d : Dev) (p : Nat) (x : FabPort) (k1 k2 : Nat) : (d.setFabPort p x).member? k1 k2 = d.member? k1 k2 := by simp only [Dev.member?, Dev.eng_setFabPort]
@[simp] theorem Dev.slot_setFabPort (d : Dev) (p : Nat) (x : FabPort) (k1 : Nat) : (d.setFabPort p x).slot k1 = d.slot k1 := by simp only [Dev.slot, Dev.seq_setFabPort]
@[simp] theorem Dev.pool_setFabPort (d : Dev) (p : Nat) (x : FabPort) (k1 : Nat) : (d.setFabPort p x).pool k1 = d.pool k1 := by simp only [Dev.pool, Dev.seq_setFabPort]
@[simp] theorem Dev.core_setFabPort (d : Dev) (p : Nat) (x : FabPort) (k1 : Nat) : (d.setFabPort p x).core k1 = d.core k1 := by simp only [Dev.core, Dev.cpx_setFabPort]
@[simp] theorem Dev.hart_setFabPort (d : Dev) (p : Nat) (x : FabPort) (k1 : Nat) : (d.setFabPort p x).hart k1 = d.hart k1 := by simp only [Dev.hart, Dev.cpx_setFabPort]
@[simp] theorem Dev.dirEnt_setFabPort (d : Dev) (p : Nat) (x : FabPort) (k1 : Nat) : (d.setFabPort p x).dirEnt k1 = d.dirEnt k1 := by simp only [Dev.dirEnt, Dev.coh_setFabPort]
@[simp] theorem Dev.tlb_setFabPort (d : Dev) (p : Nat) (x : FabPort) (k1 : Nat) : (d.setFabPort p x).tlb k1 = d.tlb k1 := by simp only [Dev.tlb, Dev.xlat_setFabPort]
@[simp] theorem Dev.conn_setFabPort (d : Dev) (p : Nat) (x : FabPort) (k1 : Nat) : (d.setFabPort p x).conn k1 = d.conn k1 := by simp only [Dev.conn, Dev.sec_setFabPort]
@[simp] theorem Dev.ctx_setConn (d : Dev) (c : Nat) (x : Spdm) (k1 : Nat) : (d.setConn c x).ctx k1 = d.ctx k1 := by simp only [Dev.ctx, Dev.ctxs_setConn]
@[simp] theorem Dev.pair_setConn (d : Dev) (c : Nat) (x : Spdm) (k1 : Nat) : (d.setConn c x).pair k1 = d.pair k1 := by simp only [Dev.pair, Dev.ring_setConn]
@[simp] theorem Dev.evSrc_setConn (d : Dev) (c : Nat) (x : Spdm) (k1 : Nat) : (d.setConn c x).evSrc k1 = d.evSrc k1 := by simp only [Dev.evSrc, Dev.arb_setConn]
@[simp] theorem Dev.arbPair_setConn (d : Dev) (c : Nat) (x : Spdm) (k1 : Nat) : (d.setConn c x).arbPair k1 = d.arbPair k1 := by simp only [Dev.arbPair, Dev.arb_setConn]
@[simp] theorem Dev.wheel_setConn (d : Dev) (c : Nat) (x : Spdm) (k1 : Nat) : (d.setConn c x).wheel k1 = d.wheel k1 := by simp only [Dev.wheel, Dev.time_setConn]
@[simp] theorem Dev.ce_setConn (d : Dev) (c : Nat) (x : Spdm) (k1 : Nat) : (d.setConn c x).ce k1 = d.ce k1 := by simp only [Dev.ce, Dev.eng_setConn]
@[simp] theorem Dev.launch?_setConn (d : Dev) (c : Nat) (x : Spdm) (k1 : Nat) : (d.setConn c x).launch? k1 = d.launch? k1 := by simp only [Dev.launch?, Dev.eng_setConn]
@[simp] theorem Dev.member?_setConn (d : Dev) (c : Nat) (x : Spdm) (k1 k2 : Nat) : (d.setConn c x).member? k1 k2 = d.member? k1 k2 := by simp only [Dev.member?, Dev.eng_setConn]
@[simp] theorem Dev.slot_setConn (d : Dev) (c : Nat) (x : Spdm) (k1 : Nat) : (d.setConn c x).slot k1 = d.slot k1 := by simp only [Dev.slot, Dev.seq_setConn]
@[simp] theorem Dev.pool_setConn (d : Dev) (c : Nat) (x : Spdm) (k1 : Nat) : (d.setConn c x).pool k1 = d.pool k1 := by simp only [Dev.pool, Dev.seq_setConn]
@[simp] theorem Dev.core_setConn (d : Dev) (c : Nat) (x : Spdm) (k1 : Nat) : (d.setConn c x).core k1 = d.core k1 := by simp only [Dev.core, Dev.cpx_setConn]
@[simp] theorem Dev.hart_setConn (d : Dev) (c : Nat) (x : Spdm) (k1 : Nat) : (d.setConn c x).hart k1 = d.hart k1 := by simp only [Dev.hart, Dev.cpx_setConn]
@[simp] theorem Dev.dirEnt_setConn (d : Dev) (c : Nat) (x : Spdm) (k1 : Nat) : (d.setConn c x).dirEnt k1 = d.dirEnt k1 := by simp only [Dev.dirEnt, Dev.coh_setConn]
@[simp] theorem Dev.tlb_setConn (d : Dev) (c : Nat) (x : Spdm) (k1 : Nat) : (d.setConn c x).tlb k1 = d.tlb k1 := by simp only [Dev.tlb, Dev.xlat_setConn]
@[simp] theorem Dev.peer_setConn (d : Dev) (c : Nat) (x : Spdm) (k1 k2 : Nat) : (d.setConn c x).peer k1 k2 = d.peer k1 k2 := by simp only [Dev.peer, Dev.fab_setConn]
@[simp] theorem Dev.fabPort_setConn (d : Dev) (c : Nat) (x : Spdm) (k1 : Nat) : (d.setConn c x).fabPort k1 = d.fabPort k1 := by simp only [Dev.fabPort, Dev.fab_setConn]

/-! ### Tables read back -/

@[simp] theorem Dev.ctx_setCtx_same (d : Dev) (c : Nat) (x : Ctx) : (d.setCtx c x).ctx c = x := by simp [Dev.ctx, Dev.setCtx]
theorem Dev.ctx_setCtx_ne (d : Dev) {c e : Nat} (x : Ctx) (h : e ≠ c) : (d.setCtx c x).ctx e = d.ctx e := by
  simp [Dev.ctx, Dev.setCtx, mapGet_set_ne _ _ _ h]
@[simp] theorem Dev.pair_setPair_same (d : Dev) (c : Nat) (x : Pair) : (d.setPair c x).pair c = x := by simp [Dev.pair, Dev.setPair]
theorem Dev.pair_setPair_ne (d : Dev) {c e : Nat} (x : Pair) (h : e ≠ c) : (d.setPair c x).pair e = d.pair e := by
  simp [Dev.pair, Dev.setPair, mapGet_set_ne _ _ _ h]
@[simp] theorem Dev.wheel_setWheel_same (d : Dev) (c : Nat) (x : List Event) : (d.setWheel c x).wheel c = x := by simp [Dev.wheel, Dev.setWheel]
theorem Dev.wheel_setWheel_ne (d : Dev) {c e : Nat} (x : List Event) (h : e ≠ c) : (d.setWheel c x).wheel e = d.wheel e := by
  simp [Dev.wheel, Dev.setWheel, mapGet_set_ne _ _ _ h]
@[simp] theorem Dev.ce_setCe_same (d : Dev) (c : Nat) (x : Ce) : (d.setCe c x).ce c = x := by simp [Dev.ce, Dev.setCe]
theorem Dev.ce_setCe_ne (d : Dev) {c e : Nat} (x : Ce) (h : e ≠ c) : (d.setCe c x).ce e = d.ce e := by
  simp only [Dev.ce, Dev.setCe, Dev.eng_modEng_self, mapGet, mapSet]
  split
  · rw [mapFind?_erase_ne _ h]
  · rw [mapFind?_put_ne _ _ h]
@[simp] theorem Dev.slot_setSlot_same (d : Dev) (c : Nat) (x : Slot) : (d.setSlot c x).slot c = x := by simp [Dev.slot, Dev.setSlot]
theorem Dev.slot_setSlot_ne (d : Dev) {c e : Nat} (x : Slot) (h : e ≠ c) : (d.setSlot c x).slot e = d.slot e := by
  simp [Dev.slot, Dev.setSlot, mapGet_set_ne _ _ _ h]
@[simp] theorem Dev.core_setCore_same (d : Dev) (c : Nat) (x : Core) : (d.setCore c x).core c = x := by simp [Dev.core, Dev.setCore]
theorem Dev.core_setCore_ne (d : Dev) {c e : Nat} (x : Core) (h : e ≠ c) : (d.setCore c x).core e = d.core e := by
  simp only [Dev.core, Dev.setCore, Dev.cpx_modCpx_self, mapGet, mapSet]
  split
  · rw [mapFind?_erase_ne _ h]
  · rw [mapFind?_put_ne _ _ h]
@[simp] theorem Dev.hart_setHart_same (d : Dev) (c : Nat) (x : Hart) : (d.setHart c x).hart c = x := by simp [Dev.hart, Dev.setHart]
theorem Dev.hart_setHart_ne (d : Dev) {c e : Nat} (x : Hart) (h : e ≠ c) : (d.setHart c x).hart e = d.hart e := by
  simp [Dev.hart, Dev.setHart, mapGet_set_ne _ _ _ h]
@[simp] theorem Dev.tlb_setTlb_same (d : Dev) (c : Nat) (x : List TlbEntry) : (d.setTlb c x).tlb c = x := by simp [Dev.tlb, Dev.setTlb]
theorem Dev.tlb_setTlb_ne (d : Dev) {c e : Nat} (x : List TlbEntry) (h : e ≠ c) : (d.setTlb c x).tlb e = d.tlb e := by
  simp [Dev.tlb, Dev.setTlb, mapGet_set_ne _ _ _ h]
@[simp] theorem Dev.fabPort_setFabPort_same (d : Dev) (c : Nat) (x : FabPort) : (d.setFabPort c x).fabPort c = x := by simp [Dev.fabPort, Dev.setFabPort]
theorem Dev.fabPort_setFabPort_ne (d : Dev) {c e : Nat} (x : FabPort) (h : e ≠ c) : (d.setFabPort c x).fabPort e = d.fabPort e := by
  simp [Dev.fabPort, Dev.setFabPort, mapGet_set_ne _ _ _ h]
@[simp] theorem Dev.conn_setConn_same (d : Dev) (c : Nat) (x : Spdm) : (d.setConn c x).conn c = x := by simp [Dev.conn, Dev.setConn]
theorem Dev.conn_setConn_ne (d : Dev) {c e : Nat} (x : Spdm) (h : e ≠ c) : (d.setConn c x).conn e = d.conn e := by
  simp [Dev.conn, Dev.setConn, mapGet_set_ne _ _ _ h]
@[simp] theorem Dev.arbPair_setArbPair_same (d : Dev) (c : Nat) (x : ArbPair) : (d.setArbPair c x).arbPair c = x := by simp [Dev.arbPair, Dev.setArbPair]
theorem Dev.arbPair_setArbPair_ne (d : Dev) {c e : Nat} (x : ArbPair) (h : e ≠ c) : (d.setArbPair c x).arbPair e = d.arbPair e := by
  simp [Dev.arbPair, Dev.setArbPair, mapGet_set_ne _ _ _ h]
@[simp] theorem Dev.evSrc_setSrc_same (d : Dev) (c : Nat) (x : EvSrc) : (d.setSrc c x).evSrc c = x := by simp [Dev.evSrc, Dev.setSrc]
theorem Dev.evSrc_setSrc_ne (d : Dev) {c e : Nat} (x : EvSrc) (h : e ≠ c) : (d.setSrc c x).evSrc e = d.evSrc e := by
  simp [Dev.evSrc, Dev.setSrc, mapGet_set_ne _ _ _ h]
@[simp] theorem Dev.pair_modPair_same (d : Dev) (c : Nat) (f : Pair → Pair) : (d.modPair c f).pair c = f (d.pair c) := by simp [Dev.modPair]
theorem Dev.pair_modPair_ne (d : Dev) {c e : Nat} (f : Pair → Pair) (h : e ≠ c) : (d.modPair c f).pair e = d.pair e := d.pair_setPair_ne _ h
@[simp] theorem Dev.ctx_modCtx_same (d : Dev) (c : Nat) (f : Ctx → Ctx) : (d.modCtx c f).ctx c = f (d.ctx c) := by simp [Dev.modCtx]
theorem Dev.ctx_modCtx_ne (d : Dev) {c e : Nat} (f : Ctx → Ctx) (h : e ≠ c) : (d.modCtx c f).ctx e = d.ctx e := d.ctx_setCtx_ne _ h
@[simp] theorem Dev.ce_modCe_same (d : Dev) (c : Nat) (f : Ce → Ce) : (d.modCe c f).ce c = f (d.ce c) := by simp [Dev.modCe]
theorem Dev.ce_modCe_ne (d : Dev) {c e : Nat} (f : Ce → Ce) (h : e ≠ c) : (d.modCe c f).ce e = d.ce e := d.ce_setCe_ne _ h
@[simp] theorem Dev.slot_modSlot_same (d : Dev) (c : Nat) (f : Slot → Slot) : (d.modSlot c f).slot c = f (d.slot c) := by simp [Dev.modSlot]
theorem Dev.slot_modSlot_ne (d : Dev) {c e : Nat} (f : Slot → Slot) (h : e ≠ c) : (d.modSlot c f).slot e = d.slot e := d.slot_setSlot_ne _ h
@[simp] theorem Dev.hart_modHart_same (d : Dev) (c : Nat) (f : Hart → Hart) : (d.modHart c f).hart c = f (d.hart c) := by simp [Dev.modHart]
theorem Dev.hart_modHart_ne (d : Dev) {c e : Nat} (f : Hart → Hart) (h : e ≠ c) : (d.modHart c f).hart e = d.hart e := d.hart_setHart_ne _ h

/-! ### Meanings -/

/-- A command of the device alone answers a next state, with Board Time and the queue as they were. -/
@[simp] theorem onDev_eq (f : Nat → Dev → Dev) (s : State) : onDev f s = .next { s with dev := f s.bt s.dev } := rfl

@[simp] theorem onTime_eq (f : Nat → Dev → Nat × Dev) (s : State) :
    onTime f s = .next { s with bt := (f s.bt s.dev).1, dev := (f s.bt s.dev).2 } := rfl

end Sys2Proof.Machine
end

