-- ==== Sys2Proof/Laws/Streams.lean ====
section
/-! SUPPORT. What the two instruction streams do with a word that may issue. -/

namespace Sys2Proof.Machine

/-- Where no parity error has hit a line that a test accepts, none is met (R107). -/
theorem Dev.badLines_none (bt : Nat) (d : Dev) (k : Nat) (l : Option Nat) (f : SqcLine → Bool)
    (h : ∀ q ∈ (d.ce k).sqc, f q = true → q.bad = false) : d.badLines bt k l f = (true, d) := by
  have : (d.ce k).sqc.filter (fun s => s.bad && f s) = [] := by
    rw [List.filter_eq_nil_iff]
    intro q hq hc
    simp only [Bool.and_eq_true] at hc
    rw [h q hq hc.2] at hc; exact absurd hc.1 (by decide)
  simp [Dev.badLines, this]

/-- Then dirty lines are written back (R157), -/
theorem Dev.sqcFlush_sound {d : Dev} {k c : Nat} (h : d.sqcSound k c) (bt l : Nat) :
    d.sqcFlush bt k l c = (true, d.sqcClean k (fun q => q.ctx == c && q.dirty)) := by
  have := Dev.badLines_none bt d k (some l) (fun q => q.ctx == c && q.dirty) (by
    intro q hq hc
    exact h q hq (by simp at hc; exact hc.1))
  simp only [Dev.sqcFlush, this]

/-- and lines of the context are written back and dropped. -/
theorem Dev.sqcRecall_sound {d : Dev} {k c : Nat} (h : d.sqcSound k c) (bt : Nat) (l : Option Nat) (f : SqcLine → Bool)
    (hf : ∀ q, f q = true → q.ctx = c) : d.sqcRecall bt k l f = (true, (d.sqcClean k f).sqcDrop k f) := by
  have := Dev.badLines_none bt d k l f (fun q hq hc => h q hq (hf q hc))
  simp only [Dev.sqcRecall, this]

/-- A control-stream instruction that may issue does what its row says. -/
theorem control_eq {s : State} {l m : Nat} {x : Launch} {y : Member} {op : Nat} {w : Word} (h : ControlAt s l m x y op w)
    (f : Launch → Member → Nat → Dev → Act) :
    s.dev.control s.bt op l m w f = s.dev.act s.bt l m y.pc (f x y w.toNat s.dev) := by
  obtain ⟨h1, h2, h3, h4, h5, h6, h7, h8, h9, h10⟩ := h
  obtain ⟨q, hq, h7⟩ := Option.map_eq_some_iff.mp h7
  obtain ⟨hb, h7⟩ := Prod.mk.inj h7
  unfold Dev.control
  simp only [h1, h2]
  rw [if_pos ⟨h3, by simp [h4], h5, by simp [h6]⟩]
  have hp : Dev.sqParity s.bt s.dev y.ce l x.ctx y.pc true = (true, s.dev) := by simp [Dev.sqParity, hq, hb]
  simp only [hp, Dev.sqFetch, hq, h7, h9, h8, h10]
  simp

/-- The same for a row, issued by a member's control stream. -/
theorem controlRow_eq {s : State} {l m : Nat} {x : Launch} {y : Member} {op : Nat} {w : Word} (h : ControlAt s l m x y op w)
    (f : Nat → Nat → Launch → Member → Nat → Dev → Act) :
    s.dev.controlRow s.bt op (.control l m) w f = s.dev.act s.bt l m y.pc (f l m x y w.toNat s.dev) := control_eq h _

/-- A cohort instruction that may issue does what its row says. -/
theorem cohortRow_eq {s : State} {l m c : Nat} {x : Launch} {y : Member} {q : Cohort} {op : Nat} {w : Word}
    (h : CohortAt s l m c x y q op w) (f : Nat → Nat → Nat → Launch → Member → Cohort → Nat → Dev → Act) :
    s.dev.cohortRow s.bt op (.cohort l m c) w f =
      match f l m c x y q w.toNat s.dev with
      | .exc code => s.dev.failLaunch l .range (some (excRecord code 1 m c q.pc))
      | .stay d => d
      | .go d => d.cohortRetire s.bt l m c y.ce (q.pc + 8)
      | .jump t d => d.cohortRetire s.bt l m c y.ce t
      | .done d => d := by
  obtain ⟨h1, h2, h3, h4, h5, ht, h6, h7, h8, h9, h10⟩ := h
  unfold Dev.cohortRow Dev.cohort
  simp only [h1, h2, h3]
  rw [if_pos ⟨h4, by simp [h5], ht⟩, if_neg (by omega)]
  simp only [Dev.cohortWord, h7, h8, h9, h10, beq_self_eq_true, Bool.true_or, not_true_eq_false, if_false, if_true, ne_eq]
  rfl

/-- A register number that the fields may name. -/
theorem legal_eq {b : Bool} (h : b = true) (a : Act) : legal b a = a := by simp [legal, h]

/-- A command whose fields and operands are in order is issued, and the member goes on. -/
theorem issueCmd_eq {s : State} {l m : Nat} {x : Launch} {y : Member} {op : Nat} {w : Word} (h : ControlAt s l m x y op w)
    (o : CmdOp) (exc : Dev → Launch → Member → Nat → Option Nat) (h1 : commandFields o w.toNat = true)
    (h2 : exc s.dev x y w.toNat = none) :
    s.dev.issueCmd s.bt op o (.control l m) w exc =
      (s.dev.issued s.bt l m x y o w.toNat).retire s.bt l m ((y.pc + 8) % 2 ^ 64) := by
  unfold Dev.issueCmd
  rw [controlRow_eq h]
  unfold commandFields at h1
  simp only [legal, h1, h2, if_true]
  rfl

/-- A command whose operands are not raises their exception. -/
theorem issueCmd_exc {s : State} {l m : Nat} {x : Launch} {y : Member} {op : Nat} {w : Word} (h : ControlAt s l m x y op w)
    (o : CmdOp) (exc : Dev → Launch → Member → Nat → Option Nat) (h1 : commandFields o w.toNat = true) {e : Nat}
    (h2 : exc s.dev x y w.toNat = some e) :
    s.dev.issueCmd s.bt op o (.control l m) w exc = s.dev.failLaunch l .range (some (excRecord e 0 m 0xFFFF y.pc)) := by
  unfold Dev.issueCmd
  rw [controlRow_eq h]
  unfold commandFields at h1
  simp only [legal, h1, h2, if_true]
  rfl

/-- A request of a type with operations names its operation. -/
theorem RequestAt.op {s : State} {k typ op : Nat} {r : Desc} {c : Nat} {d : Dev} (h : RequestAt s k typ op r c d)
    (ht : 4 ≤ typ) : r.at_ 0 1 = op := by
  have e := h.1
  unfold Dev.head? at e
  split at e
  · split at e
    · rename_i q
      cases e
      omega
    · cases e
  · cases e

/-- A request at the head of its pair is dispatched. -/
theorem dispatchCtx_eq {s : State} {k typ op : Nat} {r : Desc} {c : Nat} {d : Dev} (h : RequestAt s k typ op r c d)
    (f : Desc → Nat → Dev → Dev) : s.dev.dispatchCtx s.bt k typ op f = f r c d := by
  obtain ⟨h1, h2, h3, h4⟩ := h
  simp only [Dev.dispatchCtx, Dev.dispatch, h1, ← h2, ← h3, h4, Bool.false_eq_true, if_false]

/-- A request of an open sequence is dispatched, unless its close has been received. -/
theorem seqReq_eq {s : State} {k op : Nat} {r : Desc} {c sl : Nat} {x : Slot} {d : Dev} (h : SequenceAt s k op r c sl x d)
    (late : Bool) (hl : late = true ∨ x.closeSeen = false) (f : Desc → Nat → Dev → Dev) :
    s.dev.seqReq s.bt k op late f = f r sl d := by
  obtain ⟨h1, rfl, rfl, h4, h5, h6, h7⟩ := h
  unfold Dev.seqReq
  rw [dispatchCtx_eq h1]
  rw [if_pos ⟨h4, h5, h6, h7, hl.imp id (by simp)⟩]

end Sys2Proof.Machine
end

