-- ==== Sys2Proof/WellFormed.lean ====
section
/-! DEFINITION. Well-formed commands: operands that name a unit name one the spec gives the machine. A meaning is total
and does not rely on it. -/

namespace Sys2Proof

/-- Accelerator die or partition (by its lowest die): 0 to 7. -/
def dieOk (n : Nat) : Bool := decide (n < 8)
/-- Host port or Arbiter pair: 0 to 3. -/
def portOk (n : Nat) : Bool := decide (n < 4)
/-- Fabric port: 0 to 7. -/
def fabricOk (n : Nat) : Bool := decide (n < 8)
/-- Physical compute engine: 26 per die. -/
def ceOk (n : Nat) : Bool := decide (n < 208)
/-- Logical core. -/
def hartOk (n : Nat) : Bool := decide (n < 96)
/-- Physical core: 13 per die. -/
def coreOk (n : Nat) : Bool := decide (n < 104)
/-- Sequence slot: 2,048 per die. -/
def slotOk (n : Nat) : Bool := decide (n < 16384)
/-- Hardware context: 512 per die. -/
def ctxOk (n : Nat) : Bool := decide (n < 4096)
/-- HBM channel: 128 per die. -/
def channelOk (n : Nat) : Bool := decide (n < 1024)
/-- DDR channel. -/
def ddrOk (n : Nat) : Bool := decide (n < 16)
/-- Ring pair: 4 × 1,024 host pairs and 8 × 256 device pairs. -/
def pairNumOk (n : Nat) : Bool := decide (n < 6144)
/-- Event wheel: 0 to 7 of the Sequence Engines, 8 of the Arbiter. -/
def wheelOk (n : Nat) : Bool := decide (n < 9)
/-- Timer slot of a wheel. -/
def timerOk (n : Nat) : Bool := decide (n < 64)
/-- Event source of the event controller. -/
def sourceOk (n : Nat) : Bool := decide (n < 2048)
/-- Model of a partition. -/
def modelOk (n : Nat) : Bool := decide (n < 256)

/-- The unit a party names exists. -/
def Party.ok : Party → Bool
  | .firmware k => portOk k
  | .core h => hartOk h
  | .monitor h => hartOk h
  | .host q => portOk q

/-- The member and cohort an issuer names are in range: 32 members of a launch, 512 cohorts of a member. -/
def Issuer.ok : Issuer → Bool
  | .control _ m => decide (m < 32)
  | .cohort _ m c => decide (m < 32) && decide (c < 512)

/-- Well-formedness. -/
def Instr.wf : Instr → Bool
  | .ptpSample port _ => fabricOk port
  | .sourceLost src => src == 1 || src == 2
  | .stepReq p _ | .evcSet p _ | .park p _ | .unpark p _ | .layoutChange p _ | .counterClear p _ _ | .lock p _ _
  | .registerWrite p _ _ => p.ok
  | .coarseBucketCurrent w => wheelOk w
  | .ewSlotWrite p w n _ | .ewNextWrite p w n _ => p.ok && wheelOk w && timerOk n
  | .firmwareTimer w n => wheelOk w && timerOk n
  | .flagCheck s | .level3Check s | .heldRequestRelease s => slotOk s
  | .admitContext k | .contextClose k | .setQuota k | .grant k | .revoke k | .launch k | .hostIn k | .hostOut k
  | .completionRingRoom k | .seqOpen k | .seqStep k | .stepEnd k | .adjourn k | .resume k | .seqClose k | .share k
  | .extend k | .query k | .poolGrow k | .poolShrink k | .promote k | .demote k | .windowSet k | .windowArm k
  | .windowClear k | .entryReset k | .tierQuery k | .moveHold k | .moveRelease k | .pagePoolGrow k | .pagePoolShrink k
  | .descFetch k _ | .headerReread k _ | .sqDoorbell k _ _ _ | .cqDoorbell k _ _ _ => pairNumOk k
  | .attachGo p k _ | .detach p k _ | .rearm p k _ => p.ok && pairNumOk k
  | .linkDown q | .hotReset q | .functionLevelReset q | .busMasterEnableCleared q | .linkRetrain q _ _ _ | .boot q _
  | .stage q _ | .osLoad q _ _ _ | .portLinkTrained q _ _ | .managementFlashWrite q _ => portOk q
  | .ideKm q s _ => portOk q && decide (s < 5)
  | .sop i _ | .sopi i _ | .sld i _ _ | .sst i _ _ | .sldl i _ | .sstl i _ | .samo i _ | .sbr i _ | .sjal i _ | .sjr i _
  | .vrun i _ | .vwait i _ | .gbar i _ | .endMember i _ | .waitq i _ | .twait i _ | .fence i _ | .cinv i _ | .fstat i _
  | .btrd i _ | .btwait i _ | .signal i _ | .viop i _ | .viopi i _ | .vicmp i _ | .vsel i _ | .vfop i _ | .vfma i _
  | .vfcmp i _ | .vsf i _ | .vcvt i _ | .vld i _ | .vst i _ | .vldc i _ | .vstc i _ | .vlatom i _ | .bar i _ | .vote i _
  | .vshfl i _ | .vbr i _ | .vend i _ | .tbind i _ | .mma i _ | .trd i _ | .cbld i _ | .get i _ | .put i _ | .gather i _
  | .scatter i _ | .red i _ | .fill i _ | .kvg i _ | .kva i _ | .lchk i _ | .xdisp i _ => i.ok
  | .sqcFillReturn ⟨c, _⟩ | .tensorUnitGrant c | .engineReset c | .screeningWindow c | .screenWatchdog c
  | .screeningPhaseEnd c _ _ => ceOk c
  | .withhold p c _ => p.ok && ceOk c
  | .mailboxRoom _ m | .noProgress _ m => decide (m < 32)
  | .windowPassStart a m | .windowEntryStart a m _ | .windowEntryLeave a m _ | .promotionDeadline a m _ =>
    dieOk a && modelOk m
  | .moverBurst n | .aclkStep n | .thermalStep n _ | .droop n _ | .blitzStep n _ => dieOk n
  | .hartLost c | .coreRetireWatchdog c _ | .architecturalRegisterError c _ => coreOk c
  | .fwiVersion ⟨h, _⟩ | .hartStop h | .hartLostEntry h _ | .clusterIdle h _ | .coreFence h _
  | .registerAccessTimeout h _ _ => hartOk h
  | .hartStart h t _ _ | .logNotify h t _ => hartOk h && hartOk t
  | .rds g _ | .rdx g _ | .upgrade g _ | .fwds g _ | .fwdx g _ | .eviction (some g) _ => decide (g < 104)
  | .sliceEccError s _ _ => decide (s < 80)
  | .flitCrcFail k g | .laneGroupRetrain k g _ => dieOk k && decide (g < 16)
  | .partCfgWrite p a _ | .tourFillZero p a _ | .tourFillPattern p a _ | .tourDigest p a _ | .ilCfgWrite p a _
  | .fqHeadWrite p a _ | .retryFault p a _ | .failFault p a _ | .invRange p a _ | .invContext p a _
  | .invPartition p a _ | .dtWrite p a _ => p.ok && dieOk a
  | .hbmLaneRepair c _ | .hbmRowRepair c _ | .hbmChannelFail c | .testDone c _ _ => channelOk c
  | .testStart p c _ | .testStop p c _ | .chSlotWrite p c _ => p.ok && channelOk c
  | .ddrByteLaneFail c _ _ => ddrOk c
  | .tourDone a | .invComplete a | .resetHoldExpiry a | .contextReset a | .ctxDeadline a | .engDeadline a
  | .partitionReset a | .partDeadline a | .firmwareReportUpdate ⟨a, _⟩ | .faultTimeout a _ _ | .ackTimer a _ | .giveUp a _
  | .retransmitTimeout a _ _ | .replayStart a _ | .partitionResetDone a | .osImageChecked a | .digestPass a _ =>
    dieOk a
  | .walk k _ c _ _ => decide (k < 2) && ctxOk c
  | .igsurenLaneFail q l _ => fabricOk q && decide (l < 9)
  | .fabricLinkRetry q w => fabricOk q && decide (w < 512)
  | .putPacket k | .redPacket k | .getReq k | .getResp k | .ackPacket k | .nackPacket k | .epochPacket k | .pwrPacket k
  | .laneMap k => fabricOk k.port
  | .lockstepMismatch k | .pairWatchdog k | .eventDelivery k | .pairSwitch k | .evcComplete k _
  | .sramUncorrectable k _ => portOk k
  | .kick p k _ | .restart p k _ => p.ok && portOk k
  | .sourceEdge n => sourceOk n
  | .walkerFail g w => decide (g < 9) && decide (w < 16)
  | .domainPowerUp n => decide (n < 112)
  | .ppsEdge _ _ | .todWrite _ | .launchPlace _ | .launchComplete _ | .gbarComplete _ | .launchWatchdog _
  | .shadowCompare _ | .hostTransferComplete _ _ | .completionTimeout _ | .wipeDone _ | .heldAnswerDecided _ _
  | .commandComplete _ | .tqTimeout _ | .kvMoveCommit _ | .starvationHorizon _ | .moveCommit _ | .eviction none _
  | .creditRetry _ | .kiornRequestTimeout _ | .scrubWalk _ | .troubleLogWrite | .flashWaitExpiry | .warmDeadline
  | .powerCycle | .floorEnter | .floorHoldEnd | .layoutClearDone | .i3cTimeout | .xspiTimeout | .pwrAlertRelease
  | .sysResetAsserted | .powerRemoved | .coldStart _ _ | .imageVerified _ _ | .getVersion _ | .getCapabilities _
  | .negotiateAlgorithms _ _ | .getDigests _ | .getCertificate _ _ _ _ | .challenge _ _ | .getMeasurements _ _ _
  | .keyExchange _ _ | .finish _ _ | .chunkSend _ _ _ _ | .chunkGet _ _ | .cosign _ | .getSlhChain _
  | .chipWarmReset _ | .thermTrip _ | .powerEpoch _ _ _ _ _ _ | .limiterSample _ | .traceTriggerClaim _
  | .warmResetDone | .memoryInitDone _ => true

end Sys2Proof
end

