-- ==== Sys2Proof/Tests/Slice0.lean ====
section
/-! SUPPORT. Tests: the well-formedness checks refuse an ill-formed command each; and for every statement, states and operands that meet
its hypotheses, with a value the spec gives for the result. Proofs that the kernel evaluates are elaborated in order, for they share
definitions. -/

set_option Elab.async false

namespace Sys2Proof.Tests
open Sys2Proof Sys2Proof.Machine

def devAfter : Host.Outcome State Fault Refusal → Dev
  | .next t => t.dev
  | _ => {}
def btAfter : Host.Outcome State Fault Refusal → Nat
  | .next t => t.bt
  | _ => 0
def st (bt : Nat) (d : Dev) : State := { bt := bt, dev := d, pending := [] }
/-! ### Well-formedness: each check refuses an ill-formed command -/

theorem test_wf_units : ([.ptpSample 8 0, .sourceLost 3, .coarseBucketCurrent 9, .firmwareTimer 0 64, .flagCheck 16384, .launch 6144,
    .linkDown 4, .sqcFillReturn ⟨208, []⟩, .mailboxRoom 0 32, .windowPassStart 8 0, .windowPassStart 0 256, .moverBurst 8] : List Instr).all
      (fun c => !c.wf) = true := by decide +kernel
theorem test_wf_parties : ([.stepReq (.firmware 4) 0#64, .lock (.core 96) 0 0#64, .registerWrite (.host 4) 0 0#64, .park (.monitor 96) 0#64,
    .sop (.control 0 32) 0#64, .viop (.cohort 0 0 512) 0#64, .viop (.cohort 0 32 0) 0#64, .ewSlotWrite (.firmware 0) 9 0 0#64,
    .ewNextWrite (.firmware 0) 0 64 0#64, .withhold (.firmware 0) 208 0#64, .attachGo (.host 0) 6144 0#64] : List Instr).all
      (fun c => !c.wf) = true := by decide +kernel
theorem test_wf_memory : ([.hartLost 104, .fwiVersion ⟨96, 1⟩, .hartStart 0 96 0#64 0#64, .rds 104 ⟨0, none⟩, .eviction (some 104) 0, .hbmChannelFail 1024,
    .testStart (.firmware 0) 1024 0#64, .ddrByteLaneFail 16 0 [], .tourDone 8, .partCfgWrite (.firmware 0) 8 0#64] : List Instr).all
      (fun c => !c.wf) = true := by decide +kernel
theorem test_wf_rest : ([.igsurenLaneFail 0 9 0, .fabricLinkRetry 0 512, .putPacket { bareHdr 8 [] with port := 8 }, .lockstepMismatch 4, .kick (.firmware 0) 4 0#64,
    .sourceEdge 2048, .walkerFail 9 0, .domainPowerUp 112, .sliceEccError 80 0 .corrected, .flitCrcFail 0 16, .walk 2 0 0 0 false, .walk 0 0 4096 0 false,
    .ideKm 0 5 true] : List Instr).all (fun c => !c.wf) = true := by decide +kernel
theorem test_wf_good : ([.launch 6143, .ptpSample 7 0, .walk 1 0 4095 0 true] : List Instr).all Instr.wf = true := by decide +kernel

/-! ### The machine as a whole -/

theorem test_front : ({ bt := 3, dev := {}, pending := [.sourceLost 1, .floorEnter] } : State).pending = [.sourceLost 1] ++ [.floorEnter] ∧
    State.reset.pending = [] ∧ (runSteps 3 State.reset).map (fun s => s.bt) = some 3 := by decide +kernel
theorem test_forward : let s : State := { bt := 3, dev := {}, pending := [.ppsEdge (-5) 1000] }
    3 ≤ s.bt ∧ ∀ ok id, Instr.ppsEdge (-5) 1000 ≠ .coldStart ok id := by
  refine ⟨by decide, ?_⟩
  intro ok id h; cases h
theorem test_accumulator : -accHalf ≤ ({} : Cell).v ∧ ({} : Cell).v < accHalf ∧
    (([.fin false 1 94, .fin false 1 94] : List FVal).foldl accTerm {}).w = 1 ∧ (([.fin false 1 94, .fin false 1 94, .fin true 3 0] : List FVal).foldl accTerm {}).w = 0 ∧
    ([.fin false 1 94, .fin true 3 0] : List FVal).Perm [.fin true 3 0, .fin false 1 94] := by
  refine ⟨by decide, by decide, by decide +kernel, by decide +kernel, List.Perm.swap ..⟩
/-- The example of R290: index 66 at local address 0x2468A40; and the last byte of a region of 3 channels. -/
theorem test_interleave : interleave 128 0x123456A40 = (66, 0x2468A40) ∧ (0 < 3 ∧ 3 * 512 * 7 - 1 < 7 * 3 * 512) ∧
    (interleave 3 (3 * 512 * 7 - 1)).2 = 7 * 512 - 1 := by decide +kernel
theorem test_layouts : layoutOk 0x51 = true ∧ layoutOk 0x05 = false ∧ partAt 0x51 1 = some 4 ∧ partDies 0x51 0 = 4 ∧ kiornWay 1 5 3 = [8, 15, 14, 13] ∧
    kiornWay 3 1 0 = [10, 9] ∧ linkEnds 15 = (7, 0) := by decide +kernel
/-- A timer at 5 ns in user mode: at 4 ns it is due by the next tick, at 3 ns it is not. -/
def devTimer : Dev := ({} : Dev).modCpx (fun z => { z with
  cores := [(2, { st := .running, logical := some 2 })]
  harts := [(2, { mode := 0, csr := [(csrStimecmp, 5#64), (csrMie, 32#64)] })] })
theorem test_idle_timer : devTimer.runs 2 = true ∧ (devTimer.hart 2).timerTakes 5 = true ∧ (devTimer.hart 2).timerTakes 4 = false ∧
    ((devAfter (step { bt := 4, dev := devTimer, pending := [] })).hart 2).mode = 1 ∧
    ((devAfter (step { bt := 3, dev := devTimer, pending := [] })).hart 2).mode = 0 := by decide +kernel

/-! ### Board Time -/

/-- PTP enabled on port 3, its estimate at 0. -/
def devPtp : Dev := (({} : Dev).fset F.btmCtrlPtpEn 0 1).fset F.btmCtrlPtpPorts 0 8
theorem witness_ptpSample : devPtp.btUsable 1 = true ∧ bit (devPtp.fget F.btmCtrlPtpPorts 0) 3 = true ∧
    devPtp.btOutlier 1 40 = false := by decide +kernel
theorem test_ptpSample_outlier :
    let d := devPtp.modTime (fun t => { t with ptp := { est := some 0 } })
    d.btUsable 1 = true ∧ d.btOutlier 1 2000 = true ∧
    (devAfter (exec (.ptpSample 3 2000) (st 100 d))).fget F.btmSrcStatRejected 0 = 1 := by decide +kernel
/-- PPS enabled. -/
def devPps : Dev := ({} : Dev).fset F.btmCtrlPpsEn 0 1
theorem witness_ppsEdge :
    let d := devPps.modTime (fun t => { t with ppsSec := some 7 })
    d.time.traceTrigger = false ∧ d.fget F.btmPpsCfgGlitch 0 * 10 ≤ 50 ∧ d.btUsable 2 = true ∧ d.fget F.btmTodValid 0 = 0 ∧
    d.fget F.btmStatusState 0 ≠ btLocked ∧ d.time.pps.est = none := by decide +kernel
theorem test_ppsEdge_wrong_second :
    let d := ((devPps.modTime (fun t => { t with ppsSec := some 7 })).fset F.btmTodValid 0 1).fset F.btmTodSec 0 9
    d.btUsable 2 = true ∧ d.fget F.btmTodValid 0 = 1 ∧ d.fget F.btmTodSec 0 ≠ 8 ∧
    (devAfter (exec (.ppsEdge 9 50) (st 100 d))).fget F.btmSrcStatRejected 0 = 1 ∧
    (devAfter (exec (.ppsEdge 9 50) (st 100 d))).fget F.btmTodValid 0 = 0 := by decide +kernel
theorem test_sourceLost_holdover :
    let d := (devPtp.fset F.btmStatusSource 0 1).fset F.btmStatusState 0 btLocked
    d.btSource = 1 ∧ d.btAlive 3000000000 1 = false ∧ d.btAlive 3000000000 2 = false ∧ d.fon F.btmCtrlHoldEn 0 = true ∧
    (devAfter (exec (.sourceLost 1) (st 3000000000 d))).fget F.btmStatusState 0 = btHoldover := by decide +kernel
theorem test_sourceLost_freerun :
    let d := ((devPps.fset F.btmStatusSource 0 2).fset F.btmStatusState 0 btLocked).fset F.btmCtrlHoldEn 0 0
    d.btSource = 2 ∧ d.btAlive 3000000000 2 = false ∧ d.btAlive 3000000000 1 = false ∧ d.fon F.btmCtrlHoldEn 0 = false ∧
    (devAfter (exec (.sourceLost 2) (st 3000000000 d))).fget F.btmStatusState 0 = btFreerun ∧
    (devAfter (exec (.sourceLost 2) (st 3000000000 d))).fget F.btmStatusErrBoundNs 0 = 4294967295 := by decide +kernel
theorem test_stepReq : ({} : Dev).writeOk (.firmware 0) .btmCtrl 0 0x804#64 = true ∧ ({} : Dev).anyCtx = false ∧
    bit (0x804#64).toNat 11 = true ∧ bit (0x804#64).toNat 12 = false ∧ bit (0x804#64).toNat 1 = false ∧
    (devAfter (exec (.stepReq (.firmware 0) 0x804#64) (st 0 {}))).time.stepReq = true := by decide +kernel
theorem test_stepReq_admitted :
    let d := ({} : Dev).setCtx 1 { st := .admitted }
    bit (0x804#64).toNat 11 = true ∧ d.anyCtx = true ∧
    (devAfter (exec (.stepReq (.firmware 0) 0x804#64) (st 0 d))).fget F.btmCfgErrCfgErr 0 = 1 := by decide +kernel
theorem test_todWrite : ({} : Dev).writeOk (.firmware 0) .btmTod 0 0x10000000005#64 = true ∧
    (devAfter (exec (.todWrite 0x10000000005#64) (st 0 {}))).fget F.btmTodSec 0 = 5 := by decide +kernel
/-- Source 2 not enabled: the edge clears VALID and counts the second. -/
theorem test_ppsEdge_unused :
    let d := ({} : Dev).modTime (fun t => { t with ppsSec := some 7 })
    d.time.traceTrigger = false ∧ d.fget F.btmPpsCfgGlitch 0 * 10 ≤ 50 ∧ d.btUsable 2 = false ∧ d.fget F.btmTodValid 0 = 0 ∧
    (devAfter (exec (.ppsEdge 9 50) (st 100 d))).time.ppsSec = some 8 := by decide +kernel
/-- A write that disables the source in use. -/
theorem test_stepReq_disables :
    let d := (devPtp.fset F.btmStatusSource 0 1).fset F.btmStatusState 0 btLocked
    d.writeOk (.firmware 0) .btmCtrl 0 0x804#64 = true ∧
    (devAfter (exec (.stepReq (.firmware 0) 0x804#64) (st 0 d))).fget F.btmStatusState 0 = btHoldover := by decide +kernel

/-! ### Event wheels -/

theorem test_coarseBucketCurrent :
    let d := ({} : Dev).setWheel 2 [{ ev := .slot 1, order := 7, due := 8192500, bucket := 8192, lvl := .coarse, seq := 0 }]
    ((devAfter (exec (.coarseBucketCurrent 2) (st 8192000 d))).wheel 2).map (·.lvl) = [.fine] := by decide +kernel
theorem test_ewSlotWrite_claim : ({} : Dev).writeOk (.firmware 0) (ewSlotReg 8) (ewInst 8 63) 0x6406#64 = true ∧
    ({} : Dev).slotOwner 8 63 = 0 ∧ bits (0x6406#64).toNat 3 0 ≠ 0 ∧
    (devAfter (exec (.ewSlotWrite (.firmware 0) 8 63 0x6406#64) (st 0 {}))).slotPeriod 8 63 = 100 := by decide +kernel
/-- Slot 63 of the Arbiter's wheel, a firmware timer of 100 µs. -/
def devSlot : Dev := devAfter (exec (.ewSlotWrite (.firmware 0) 8 63 0x6406#64) (st 0 {}))
theorem test_ewSlotWrite_release : devSlot.writeOk (.firmware 0) (ewSlotReg 8) (ewInst 8 63) 0#64 = true ∧
    devSlot.slotOwner 8 63 ≠ 0 ∧ (devAfter (exec (.ewSlotWrite (.firmware 0) 8 63 0#64) (st 0 devSlot))).slotOwner 8 63 = 0 := by
  decide +kernel
theorem test_ewSlotWrite_conflict : devSlot.writeOk (.firmware 0) (ewSlotReg 8) (ewInst 8 63) 1#64 = true ∧
    devSlot.slotOwner 8 63 ≠ 0 ∧ bits (1#64).toNat 3 0 ≠ 0 ∧ bits (1#64).toNat 3 0 ≠ devSlot.slotOwner 8 63 ∧
    (devAfter (exec (.ewSlotWrite (.firmware 0) 8 63 1#64) (st 0 devSlot))).fget F.arbCfgErrConflict 0 = 1 := by decide +kernel
theorem test_ewNextWrite : devSlot.writeOk (.firmware 0) (ewNextReg 8) (ewInst 8 63) 5000#64 = true ∧
    devSlot.slotOwner 8 63 ≠ 0 ∧
    ((devAfter (exec (.ewNextWrite (.firmware 0) 8 63 5000#64) (st 0 devSlot))).wheel 8).map (·.due) = [5000] := by decide +kernel
theorem test_ewNextWrite_free : ({} : Dev).slotOwner 8 62 = 0 ∧
    (devAfter (exec (.ewNextWrite (.firmware 0) 8 62 5000#64) (st 0 {}))).fget F.arbCfgErrCfgErr 0 = 1 := by decide +kernel
/-- Its event armed for 5 µs. -/
def devArmed : Dev := devAfter (exec (.ewNextWrite (.firmware 0) 8 63 5000#64) (st 0 devSlot))
theorem test_firmwareTimer_periodic : (wheelNext 5000 (devArmed.wheel 8)).map (·.ev) = some (.slot 63) ∧
    (wheelNext 5000 (devArmed.wheel 8)).map (·.bucket) = some 5 ∧ devArmed.slotOwner 8 63 = 6 ∧
    devArmed.slotPeriod 8 63 ≠ 0 ∧ wheelNext 4999 (devArmed.wheel 8) = none ∧
    ((devAfter (exec (.firmwareTimer 8 63) (st 5000 devArmed))).wheel 8).map (·.due) = [105000] := by decide +kernel
theorem test_firmwareTimer_once :
    let d := devArmed.setReg (ewSlotReg 8) (ewInst 8 63) 6#64
    (wheelNext 5000 (d.wheel 8)).map (·.ev) = some (.slot 63) ∧ d.slotOwner 8 63 = 6 ∧ d.slotPeriod 8 63 = 0 ∧
    ((devAfter (exec (.firmwareTimer 8 63) (st 5000 d))).wheel 8) = [] := by decide +kernel

/-! ### Context requests -/

/-- The admin pair of the partition at die 0, with a CONTEXT request at its head. -/
def ctxDesc (op flags ctx journal : Nat) (rest : List Byte) : Desc :=
  { pair := 4096, typ := 6, nslot := 2, tag := 7, ts0 := 0, ts1 := 0, ts2 := 0
    payload := leBytes 1 op ++ leBytes 1 flags ++ leBytes 2 ctx ++ leBytes 4 journal ++ rest, bt := 0 }
def devAdmin (x : Desc) : Dev :=
  (({} : Dev).fset F.hptPortBindPartitions 2 1).setPair 4096 { st := .attached, admin := true, fetched := [x], outst := 1 }
/-- Root 0, 2 MiB of HBM, 1 entry of signal table. -/
def admitRest : List Byte := leBytes 8 0 ++ leBytes 4 4 ++ leBytes 4 0 ++ leBytes 4 0 ++ leBytes 4 0 ++ leBytes 4 0 ++ leBytes 4 1 ++ leBytes 8 5 ++ leBytes 8 0x40000
def admitDesc : Desc := ctxDesc 1 0x31 9 34 admitRest
theorem test_admit :
    let d := (devAdmin admitDesc).popDesc 4096
    (devAdmin admitDesc).head? 4096 6 1 = some admitDesc ∧ d.partOfCtx 9 = pairWindow 4096 ∧ (d.ctx 9).live = false ∧
    admitDesc.at_ 8 8 % 2 ^ 20 = 0 ∧ admitDesc.at_ 8 8 / 2 ^ 48 = d.fget F.igfNodeId 0 ∧
    d.inHbm 0 (admitDesc.at_ 8 8 % 2 ^ 48) (2 ^ 20) = true ∧ admitDesc.resv.journal = 34 ∧ admitDesc.at_ 0x24 4 = 1 ∧
    admitDesc.at_ 0x20 4 ≤ d.keepLimit 0 ∧ d.canReserve 0 9 admitDesc.resv = true ∧
    ((devAfter (exec (.admitContext 4096) (st 5 (devAdmin admitDesc)))).ctx 9).queues = 2 ∧
    ((devAfter (exec (.admitContext 4096) (st 5 (devAdmin admitDesc)))).ctx 9).ceil = 3 := by decide +kernel
def devLive (x : Desc) : Dev := (devAdmin x).setCtx 9 { st := .admitted, queues := 2, res := { hbm := 4, journal := 34 } }
theorem test_admit_live : (devLive admitDesc).head? 4096 6 1 = some admitDesc ∧
    (((devLive admitDesc).popDesc 4096).ctx 9).live = true ∧
    (devAfter (exec (.admitContext 4096) (st 5 (devLive admitDesc)))).out.map (fun o => match o with
      | .cqe _ _ _ e => e.status
      | _ => .ok) = [.range] := by decide +kernel
theorem test_contextClose :
    let x := ctxDesc 2 0 9 0 (leBytes 56 0)
    (devLive x).head? 4096 6 2 = some x ∧ (((devLive x).popDesc 4096).ctx 9).st = .admitted ∧
    ((devAfter (exec (.contextClose 4096) (st 5 (devLive x)))).ctx 9).st = .closing := by decide +kernel
theorem test_contextClose_replaying :
    let x := ctxDesc 2 0 9 0 (leBytes 56 0)
    let d := (devLive x).modCtx 9 (fun c => { c with st := .replaying })
    d.head? 4096 6 2 = some x ∧ ((d.popDesc 4096).ctx 9).st = .replaying ∧
    ((devAfter (exec (.contextClose 4096) (st 5 d))).ctx 9).closePending = true := by decide +kernel
theorem test_setQuota :
    let x := ctxDesc 3 0 9 40 (leBytes 8 0 ++ leBytes 4 8 ++ leBytes 44 0)
    let d := (devLive x).popDesc 4096
    (devLive x).head? 4096 6 3 = some x ∧ (d.ctx 9).live = true ∧ (d.ctx 9).ending = false ∧
    17 * (d.ctx 9).queues ≤ x.resv.journal ∧ d.canReserve 0 9 x.resv = true ∧
    ((devAfter (exec (.setQuota 4096) (st 5 (devLive x)))).ctx 9).res.hbm = 8 := by decide +kernel
theorem test_grant :
    let x := ctxDesc 4 0 9 0 (leBytes 2 2 ++ leBytes 2 3 ++ leBytes 52 0)
    let d := (devLive x).popDesc 4096
    (devLive x).head? 4096 6 4 = some x ∧ d.boundTo (x.at_ 8 1) 0 = true ∧ x.at_ 10 2 < 2 ^ (d.ctx 9).queues ∧
    (devAfter (exec (.grant 4096) (st 5 (devLive x)))).ring.grants = [{ port := 2, ctx := 9, qmask := 3 }] := by decide +kernel
theorem test_revoke :
    let x := ctxDesc 5 0 9 0 (leBytes 2 2 ++ leBytes 2 3 ++ leBytes 52 0)
    let d := (devLive x).modRing (fun z => { z with grants := [{ port := 2, ctx := 9, qmask := 3 }] })
    d.head? 4096 6 5 = some x ∧ (d.popDesc 4096).ring.grants = [{ port := x.at_ 8 1, ctx := 9, qmask := x.at_ 10 2 }] ∧
    ((d.popDesc 4096).ring.pairs.all (fun p => !(d.popDesc 4096).underGrant p.1 2 9 3)) = true ∧
    (devAfter (exec (.revoke 4096) (st 5 d))).ring.grants = [] ∧ (devAfter (exec (.revoke 4096) (st 5 d))).ring.revokes = [] := by
  decide +kernel

/-! ### Rings -/

/-- Host pair 5 of port 0 attached, with rings of 64 slots and entries. -/
def devRing : Dev := ((({} : Dev).fset F.hptCfgLog2Sq 5 6).fset F.hptCfgLog2Cq 5 6).setPair 5 { st := .attached, gen := 1, verMaj := 3, verMin := 2, ctx := 9 }
theorem test_sqDoorbell : devRing.doorbellOk 5 0x10003#64 = true ∧ (devRing.pair 5).st = .attached ∧
    ((devAfter (exec (.sqDoorbell 5 0 8 0x10003#64) (st 0 devRing))).pair 5).sqTail = 3 := by decide +kernel
theorem test_sqDoorbell_gen : devRing.doorbellOk 5 0x20003#64 = false ∧
    (devAfter (exec (.sqDoorbell 5 0 8 0x20003#64) (st 0 devRing))).fget F.hptStatDbIgnored 5 = 1 := by decide +kernel
theorem test_cqDoorbell :
    let d := devRing.modPair 5 (fun p => { p with cqTail := 2, cqPhase := false, cqHeld := 5 })
    d.doorbellOk 5 0x1003F#64 = true ∧ (d.pair 5).st = .attached ∧
    ((devAfter (exec (.cqDoorbell 5 0 8 0x1003F#64) (st 0 d))).pair 5).cqHeld = 3 := by decide +kernel
theorem test_cqDoorbell_offset :
    (devAfter (exec (.cqDoorbell 5 8 8 0x1003F#64) (st 0 devRing))).fget F.hptStatDbIgnored 5 = 1 := by decide +kernel
/-- A HOST_OUT descriptor of one slot: PHASE 1, SEQ 0, 64 bytes to IOVA 0x1000 from AVA 0x10000. -/
def slotOut : List Byte := leBytes 8 (3 + 2 ^ 8 + 64 * 2 ^ 34) ++ leBytes 8 77 ++ leBytes 8 0x1000 ++ leBytes 8 0x10000 ++ leBytes 32 0
def devAnnounced : Dev := devRing.modPair 5 (fun p => { p with sqTail := 1 })
theorem test_descFetch : devAnnounced.mayFetch 5 = true ∧ (devAnnounced.pair 5).rereads = none ∧
    (devAnnounced.pair 5).current (leNat ((devAnnounced.slotBytes 5 1 slotOut).take 8)) = true ∧ 1 ≤ devAnnounced.announced 5 ∧
    ((devAfter (exec (.descFetch 5 slotOut) (st 40 devAnnounced))).pair 5).fetched.map (fun x => (x.typ, x.tag, x.ts0, x.ts1, x.ts2)) =
      [(3, 77, 64, 0x1000, 0x10000)] := by decide +kernel
theorem test_descFetch_stale : (devAnnounced.pair 5).current (leNat ((devAnnounced.slotBytes 5 1 (leBytes 64 0)).take 8)) = false ∧
    ((devAfter (exec (.descFetch 5 (leBytes 64 0)) (st 40 devAnnounced))).pair 5).rereads = some 0 := by decide +kernel
theorem test_headerReread :
    let d := devAnnounced.modPair 5 (fun p => { p with rereads := some 6 })
    d.mayFetch 5 = true ∧ (d.pair 5).rereads = some 6 ∧
    ((devAfter (exec (.headerReread 5 (leBytes 64 0)) (st 40 d))).pair 5).rereads = some 7 := by decide +kernel
theorem test_headerReread_stops :
    let d := devAnnounced.modPair 5 (fun p => { p with rereads := some 7 })
    d.mayFetch 5 = true ∧ (d.pair 5).rereads = some 7 ∧
    ((devAfter (exec (.headerReread 5 (leBytes 64 0)) (st 40 d))).pair 5).st = .stopped ∧
    (devAfter (exec (.headerReread 5 (leBytes 64 0)) (st 40 d))).out.length = 1 := by decide +kernel
theorem test_completionRingRoom :
    let d := devRing.modPair 5 (fun p => { p with posts := [{ entry := { tag := 1, status := .ok, bt := 3 }, launch := none }], cqHeld := 63 })
    (d.pair 5).posts ≠ [] ∧ d.cqRoom 5 = true ∧
    ((devAfter (exec (.completionRingRoom 5) (st 40 d))).pair 5).posts = [] := by decide +kernel
theorem test_completionRingRoom_full :
    let d := devRing.modPair 5 (fun p => { p with posts := [{ entry := { tag := 1, status := .ok, bt := 3 }, launch := none }], cqHeld := 64 })
    (d.pair 5).posts ≠ [] ∧ d.cqRoom 5 = false ∧
    ((devAfter (exec (.completionRingRoom 5) (st 40 d))).pair 5).posts ≠ [] := by decide +kernel

/-- Host port 0 bound to partition P0 and context 9 admitted with 4 queues, all granted to the port. -/
def devGranted : Dev :=
  (((((({} : Dev).fset F.hptPortBindPartitions 0 1).setCtx 9 { st := .admitted, queues := 4 }).modRing (fun z => { z with
    grants := [{ port := 0, ctx := 9, qmask := 15 }] })).fset F.hptCfgLog2Sq 5 6).fset F.hptCfgLog2Cq 5 6)
/-- The ATTACH word for context 9, queue 3, version 3.1, with command bits. -/
def attachWord (cmd : Nat) : Word := BitVec.ofNat 64 (9 + 3 * 2 ^ 12 + 3 * 2 ^ 16 + 1 * 2 ^ 24 + cmd * 2 ^ 32)
def devAttached : Dev := devAfter (exec (.attachGo (.host 0) 5 (attachWord 1)) (st 0 devGranted))
theorem test_attachGo : devGranted.writeOk (.host 0) .hptAttach 5 (attachWord 1) = true ∧ (devGranted.pair 5).st = .detached ∧
    bits (attachWord 1).toNat 35 32 = 1 ∧ devGranted.resetHeld 5 9 = false ∧
    (devAttached.pair 5).st = .attached ∧ (devAttached.pair 5).queue = 3 ∧ (devAttached.pair 5).verMin = 1 := by decide +kernel
theorem test_attachGo_parts :
    let d := devGranted.setReg .hptAttach 5 (attachWord 0)
    d.fget F.hptAttachCtx 5 = 9 ∧ d.granted 5 9 3 = true ∧ d.topMinor 5 3 9 false = some 2 ∧ (d.pair 5).st = .detached ∧
    d.areaUsed (d.partOfCtx 9) 5 + d.cqSize 5 ≤ 524288 * d.dies (d.partOfCtx 9) ∧ (d.pair 5).shadow = [] := by decide +kernel
theorem test_detach : devAttached.writeOk (.host 0) .hptAttach 5 (attachWord 2) = true ∧ (devAttached.pair 5).st = .attached ∧
    bits (attachWord 2).toNat 35 32 = 2 ∧
    ((devAfter (exec (.detach (.host 0) 5 (attachWord 2)) (st 0 devAttached))).pair 5).st = .detached := by decide +kernel
theorem witness_settle :
    let d := devAttached.modPair 5 (fun x => { x with st := .draining })
    (d.pair 5).st = .draining ∧ (d.pair 5).outst = 0 ∧ (d.pair 5).posts = [] := by decide +kernel
theorem test_rearm :
    let d := devAttached.modPair 5 (fun p => { p with st := .stopped, gen := 65535 })
    d.writeOk (.host 0) .hptAttach 5 (attachWord 4) = true ∧ (d.pair 5).st = .stopped ∧ bits (attachWord 4).toNat 35 32 = 4 ∧
    ((devAfter (exec (.rearm (.host 0) 5 (attachWord 4)) (st 0 d))).pair 5).gen = 0 := by decide +kernel
theorem test_rearm_attached : bit (attachWord 4).toNat 34 = true ∧ bit (attachWord 4).toNat 32 = false ∧ (devAttached.pair 5).st = .attached ∧
    (devAfter (exec (.rearm (.host 0) 5 (attachWord 4)) (st 0 devAttached))).fget F.hptCfgErrCfgErr 0 = 1 := by decide +kernel
theorem test_freeze_events : devAttached.portPairs 0 = [5] ∧ (devAttached.pair 5).st ≠ .detached ∧
    (devAttached.pair 5).fetched = [] ∧ (devAttached.pair 5).posts = [] ∧ devAttached.ring.xfers = [] ∧
    ((devAfter (exec (.hotReset 0) (st 0 devAttached))).pair 5).st = .frozen ∧
    ((devAfter (exec (.functionLevelReset 0) (st 0 devAttached))).pair 5).st = .frozen ∧
    ((devAfter (exec (.busMasterEnableCleared 0) (st 0 devAttached))).pair 5).st = .frozen := by decide +kernel
theorem test_linkDown : devAttached.fon F.secBootStatusClaimed 0 = false ∧ devAttached.sec.osLoads = [] ∧
    ((devAfter (exec (.linkDown 0) (st 0 devAttached))).pair 5).st = .frozen := by decide +kernel
theorem test_portLinkTrained :
    let d := ({} : Dev).modSec (fun z => { z with up := true })
    d.sec.up = true ∧ (devAfter (exec (.portLinkTrained 3 8 5) (st 0 d))).fget F.hptPortStatusLink 3 = 2 ∧
    (devAfter (exec (.linkRetrain 3 2 5 1) (st 0 d))).fget F.hptPortStatusWidth 3 = 2 := by decide +kernel

/-! ### Host transfers -/

def descIn : Desc := { pair := 5, typ := 2, nslot := 1, tag := 7, ts0 := 64, ts1 := 0x1000, ts2 := 0x10000, payload := [], bt := 0 }
def devHead (x : Desc) : Dev := devAttached.modPair 5 (fun p => { p with fetched := [x], outst := 1 })
theorem test_hostIn : (devHead descIn).head? 5 2 0 = some descIn ∧
    (((devHead descIn).popDesc 5).ctx (((devHead descIn).popDesc 5).descCtx descIn)).ending = false ∧
    (devAfter (exec (.hostIn 5) (st 0 (devHead descIn)))).ring.xfers.map (fun x => (x.2.inward, x.2.ctx, x.2.iova)) =
      [(true, 9, 0x1000)] := by decide +kernel
theorem test_hostOut : (devHead { descIn with typ := 3 }).head? 5 3 0 = some { descIn with typ := 3 } ∧
    (devAfter (exec (.hostOut 5) (st 0 (devHead { descIn with typ := 3 })))).ring.xfers.map (fun x => (x.2.inward, x.2.ava)) =
      [(false, 0x10000)] := by decide +kernel
theorem test_hostIn_terminated :
    let d := (devHead descIn).modCtx 9 (fun c => { c with st := .terminating })
    d.head? 5 2 0 = some descIn ∧ ((d.popDesc 5).ctx ((d.popDesc 5).descCtx descIn)).ending = true ∧
    (devAfter (exec (.hostIn 5) (st 0 d))).out.length = 1 := by decide +kernel
/-- A transfer of no bytes left to move, and one of 64 bytes inward. -/
def devXfer (n : Nat) : Dev := devAfter (exec (.hostIn 5) (st 0 (devHead { descIn with ts0 := n })))
theorem test_hostTransferComplete :
    mapFind? (devXfer 0).ring.xfers 0 ≠ none ∧ ((devXfer 0).xferPieces 9 0 [] 3).1 = some .ok ∧
    (devAfter (exec (.hostTransferComplete 0 []) (st 9 (devXfer 0)))).ring.xfers = [] := by decide +kernel
theorem test_completionTimeout :
    (mapFind? (devXfer 64).ring.xfers 0).map (fun t => (t.inward, t.data.isEmpty)) = some (true, true) ∧
    (devAfter (exec (.completionTimeout 0) (st 9 (devXfer 64)))).out.map (fun o => match o with
      | .cqe _ _ _ e => e.status
      | _ => .ok) = [.hostLost] := by decide +kernel

/-! ### The control stream -/

/-- A word of the REG format. -/
def regWord (op d a b c fc fn : Nat) : Word :=
  BitVec.ofNat 64 (op * 2 ^ 56 + d * 2 ^ 44 + a * 2 ^ 36 + b * 2 ^ 28 + c * 2 ^ 20 + fc * 2 ^ 16 + fn * 2 ^ 8)
/-- A word of the IMM, MEM or BRN format. -/
def immWord (op d a sel imm : Nat) : Word := BitVec.ofNat 64 (op * 2 ^ 56 + d * 2 ^ 44 + a * 2 ^ 36 + sel * 2 ^ 32 + imm)
/-- Launch 0 of context 9 with one member on CE 0, at AVA 0x1000; its word lies in the sequencer cache. -/
def oneLaunch : Launch :=
  { ctx := 9, queue := 0, pair := 5, tag := 7, order := 0, group := 1, cohorts := 2, regs := 16, lsUnits := 4, nrs := false
    faultable := false, concurrent := false, kernel := 0x1000, ploff := 0, watchdogUs := 0, seed := 0, payload := []
    journal := 2, prev := none, st := .running, charged := true }
def oneMember : Member :=
  { ce := 0, thread := 0, lsBase := 0, pc := 0x1000, s := [(1, 0#64), (7, 100#64), (8, 0x2008#64), (9, 5#64)] }
def devEng (y : Member) (w : Word) : Dev :=
  ((({} : Dev).setCtx 9 { st := .admitted, queues := 1, res := { hbm := 4, journal := 34 }, jrnUse := 2, sigTable := 0x40000, sigCount := 4 }).modEng
    (fun z => { z with launches := [(0, oneLaunch)], nextLaunch := 1, members := [(0, y)] })).setCe 0 { ceInit 0 with
    threads := [some (0, 0), none, none, none]
    sqc := [{ ctx := 9, ava := 0x1000, insn := true, lg := 16, dirty := false, dpa := 0x1000, data := leBytes 8 w.toNat ++ leBytes 56 0 },
            { ctx := 9, ava := 0x2000, insn := false, lg := 16, dirty := false, dpa := 0x2000, data := leBytes 64 0xFE00 }] }
def stEng (w : Word) : State := st 50 (devEng oneMember w)
def scalarAfter (o : Host.Outcome State Fault Refusal) (n : Nat) : Option Word := ((devAfter o).member? 0 0).map (fun y => y.sget n)
def pcAfter (o : Host.Outcome State Fault Refusal) : Option Nat := ((devAfter o).member? 0 0).map (fun y => y.pc)

theorem test_sop_sub : ControlAt (stEng (regWord 0 31 7 9 0 0 1)) 0 0 oneLaunch oneMember 0 (regWord 0 31 7 9 0 0 1) ∧
    scalarAfter (exec (.sop (.control 0 0) (regWord 0 31 7 9 0 0 1)) (stEng (regWord 0 31 7 9 0 0 1))) 31 = some 95#64 ∧
    pcAfter (exec (.sop (.control 0 0) (regWord 0 31 7 9 0 0 1)) (stEng (regWord 0 31 7 9 0 0 1))) = some 0x1008 := by decide +kernel
theorem test_sop_illegal : ControlAt (stEng (regWord 0 1 7 9 0 0 0x15)) 0 0 oneLaunch oneMember 0 (regWord 0 1 7 9 0 0 0x15) ∧
    ((devAfter (exec (.sop (.control 0 0) (regWord 0 1 7 9 0 0 0x15)) (stEng (regWord 0 1 7 9 0 0 0x15)))).launch? 0).map
      (fun x => x.status) = some .range := by decide +kernel
theorem test_sopi_high : ControlAt (stEng (immWord 1 4 7 8 0xFFFFFFFF)) 0 0 oneLaunch oneMember 1 (immWord 1 4 7 8 0xFFFFFFFF) ∧
    scalarAfter (exec (.sopi (.control 0 0) (immWord 1 4 7 8 0xFFFFFFFF)) (stEng (immWord 1 4 7 8 0xFFFFFFFF))) 4 =
      some 0xFFFFFFFF00000064#64 := by decide +kernel
/-- `SBR` s7, s9 by CND 3 (signed greater or equal), back by 2 instructions: the BRN format has A in [51:44] and B in [43:36] (R141). -/
theorem test_sbr : ControlAt (stEng (immWord 0x10 7 9 3 0xFFFFFFFE)) 0 0 oneLaunch oneMember 0x10 (immWord 0x10 7 9 3 0xFFFFFFFE) ∧
    pcAfter (exec (.sbr (.control 0 0) (immWord 0x10 7 9 3 0xFFFFFFFE)) (stEng (immWord 0x10 7 9 3 0xFFFFFFFE))) = some 0xFF0 := by
  decide +kernel
/-- A control-stream word: `[63:56]` opcode with its launch and member in State, tried from `devEng` with the data line at 0x2000. -/
def ctl (w : Word) (i : Issuer → Word → Instr) : Host.Outcome State Fault Refusal := exec (i (.control 0 0) w) (stEng w)
theorem test_sjal : ControlAt (stEng (immWord 0x11 3 0 0 4)) 0 0 oneLaunch oneMember 0x11 (immWord 0x11 3 0 0 4) ∧
    scalarAfter (ctl (immWord 0x11 3 0 0 4) .sjal) 3 = some 0x1008#64 ∧ pcAfter (ctl (immWord 0x11 3 0 0 4) .sjal) = some 0x1020 := by
  decide +kernel
theorem test_sjr : ControlAt (stEng (regWord 0x12 3 8 0 0 0 0)) 0 0 oneLaunch oneMember 0x12 (regWord 0x12 3 8 0 0 0 0) ∧
    scalarAfter (ctl (regWord 0x12 3 8 0 0 0 0) .sjr) 3 = some 0x1008#64 ∧ pcAfter (ctl (regWord 0x12 3 8 0 0 0 0) .sjr) = some 0x2008 := by
  decide +kernel
theorem test_sjr_align : ControlAt (stEng (regWord 0x12 3 7 0 0 0 0)) 0 0 oneLaunch oneMember 0x12 (regWord 0x12 3 7 0 0 0 0) ∧
    (oneMember.sget 7).toNat % 8 = 4 ∧
    ((devAfter (ctl (regWord 0x12 3 7 0 0 0 0) .sjr)).launch? 0).map (fun x => x.status) = some .range := by decide +kernel
/-- `SLD` s4, s8 - 7 with SZ 4 (a signed byte): the line at 0x2000 holds 0xFE00 little-endian, so the byte at 0x2001 is 0xFE. -/
theorem test_sld : ControlAt (stEng (immWord 2 4 8 4 0xFFFFFFF9)) 0 0 oneLaunch oneMember 2 (immWord 2 4 8 4 0xFFFFFFF9) ∧
    ((stEng (immWord 2 4 8 4 0xFFFFFFF9)).dev.sqcFind 0 9 0x2001 false).isSome = true ∧
    scalarAfter (exec (.sld (.control 0 0) (immWord 2 4 8 4 0xFFFFFFF9) false) (stEng (immWord 2 4 8 4 0xFFFFFFF9))) 4 =
      some 0xFFFFFFFFFFFFFFFE#64 := by decide +kernel
/-- `SSTL` of s9 = 5 at Local Store offset 100 + 4, four bytes, and what `SLDL` then reads. -/
def devStl : Dev := devAfter (ctl (immWord 5 9 7 2 4) .sstl)
theorem test_sstl : ControlAt (stEng (immWord 5 9 7 2 4)) 0 0 oneLaunch oneMember 5 (immWord 5 9 7 2 4) ∧ 104 + 4 ≤ oneLaunch.lsSize ∧
    devStl.lsNat oneMember 104 4 = 5 ∧ devStl.lsNat oneMember 108 4 = 0 := by decide +kernel
theorem test_sstl_range : ControlAt (stEng (immWord 5 9 7 2 16280)) 0 0 oneLaunch oneMember 5 (immWord 5 9 7 2 16280) = false ∨
    oneLaunch.lsSize = 16384 ∧ ((devAfter (ctl (immWord 5 9 7 2 16284) .sstl)).launch? 0).map (fun x => x.status) = some .range := by
  decide +kernel
def stLdl : State := st 50 (devEng oneMember (immWord 4 4 7 2 4)) 
theorem test_sldl : ControlAt stLdl 0 0 oneLaunch oneMember 4 (immWord 4 4 7 2 4) ∧ 104 + 4 ≤ oneLaunch.lsSize ∧
    scalarAfter (exec (.sldl (.control 0 0) (immWord 4 4 7 2 4))
      { stLdl with dev := stLdl.dev.lsPut oneMember 104 4 0xFFFFFFF0 }) 4 = some 0xFFFFFFF0#64 := by decide +kernel
theorem test_sldl_align : ControlAt (stEng (immWord 4 4 7 2 1)) 0 0 oneLaunch oneMember 4 (immWord 4 4 7 2 1) ∧
    ((devAfter (ctl (immWord 4 4 7 2 1) .sldl)).launch? 0).map (fun x => x.status) = some .range := by decide +kernel
/-- The same with a page of context 9 at 0x40000 (64 KiB at the same DPA, writable, FIXED, uncached) in the CE's translation cache,
s10 = 0x40010 and s11 = 0x40018; memory holds 41 there. -/
def pageU : Page := { ava := 0x40000, lg := 16, dpa := 0x40000, w := true, pin := true, cp := 2, tier := 0, leaf := 0x100 }
def memMember : Member := { oneMember with s := [(7, 100#64), (9, 5#64), (10, 0x40010#64), (11, 41#64)] }
def devMem (w : Word) : Dev := ((devEng memMember w).setTlb (tlbCe 0) [{ ctx := 9, page := pageU }]).memPut 0x40010 (leBytes 8 41)
def sstWord : Word := immWord 3 9 10 3 8
theorem test_sst : ControlAt (st 50 (devMem sstWord)) 0 0 oneLaunch memMember 3 sstWord ∧ oneLaunch.shadowOf = none ∧
    ((devMem sstWord).sqWriteReady 50 0 0 0 9 0x40018).1 = .data [] ∧
    ((devMem sstWord).sqWriteReady 50 0 0 0 9 0x40018).2.1 = some pageU ∧
    memNat (devAfter (exec (.sst (.control 0 0) sstWord false) (st 50 (devMem sstWord)))).mem 0x40018 8 = 5 := by decide +kernel
/-- A compare and swap of s9 for s11 = 41 (FN 9, FC 1: eight bytes), which reads 41 and stores 5. -/
def samoWord : Word := regWord 6 4 10 9 11 1 9
def stSamo : State := st 50 (devMem samoWord)
theorem test_samo : ControlAt stSamo 0 0 oneLaunch memMember 6 samoWord ∧
    (stSamo.dev.sqWriteReady 50 0 0 0 9 0x40010).1 = .data [] ∧ stSamo.dev.poisoned 0x40010 8 = false ∧
    amoOp 9 8 41 5 41 = some 5 ∧
    memNat (devAfter (exec (.samo (.control 0 0) samoWord) stSamo)).mem 0x40010 8 = 5 ∧
    scalarAfter (exec (.samo (.control 0 0) samoWord) stSamo) 4 = some 41#64 := by decide +kernel
def stMiss : State := st 50 (((devMem 0).modCe 0 (fun e => { e with
  miss := some { ctx := 9, ava := 0x40000, insn := false, launch := 0, member := 0, prefetch := false } })).modMember 0 0
  (fun y => { y with wait := .miss }))
theorem test_sqcFillReturn : (stMiss.dev.ce 0).miss.isSome = true ∧ (stMiss.dev.scalarPage 0 9 0x40000).1 = some pageU ∧
    stMiss.dev.migrating 9 pageU = false ∧ stMiss.dev.poisoned 0x40000 64 = false ∧
    ((devAfter (exec (.sqcFillReturn ⟨0, []⟩) stMiss)).sqcFind 0 9 0x40010 false).map (fun q => leNat (q.data.drop 16)) = some 41 ∧
    ((devAfter (exec (.sqcFillReturn ⟨0, []⟩) stMiss)).member? 0 0).map (fun y => y.wait) = some .none := by decide +kernel

/-! ### Waits, order and signals -/

def at_ (op : Nat) (w : Word) : Prop := ControlAt (stEng w) 0 0 oneLaunch oneMember op w
theorem test_vrun : ControlAt (stEng (immWord 0x13 0 7 0 4)) 0 0 oneLaunch oneMember 0x13 (immWord 0x13 0 7 0 4) ∧
    (stEng 0).dev.cohortsDone 0 0 = true ∧
    (devAfter (ctl (immWord 0x13 0 7 0 4) .vrun)).eng.cohorts.map (fun q => (q.1, q.2.pc)) = [(0, 104), (1, 104)] := by decide +kernel
theorem test_vwait : ControlAt (stEng (regWord 0x14 0 0 0 0 0 0)) 0 0 oneLaunch oneMember 0x14 (regWord 0x14 0 0 0 0 0 0) ∧
    pcAfter (ctl (regWord 0x14 0 0 0 0 0 0) .vwait) = some 0x1008 := by decide +kernel
theorem test_gbar : ControlAt (stEng (regWord 0x15 0 0 0 0 0 0)) 0 0 oneLaunch oneMember 0x15 (regWord 0x15 0 0 0 0 0 0) ∧
    (stEng (regWord 0x15 0 0 0 0 0 0)).dev.cmdsLeft 0 0 none = false ∧
    ((devAfter (ctl (regWord 0x15 0 0 0 0 0 0) .gbar)).member? 0 0).map (fun y => y.wait) = some .gbar := by decide +kernel
/-- A command of the member in flight: a GET on queue 1. -/
def oneCmd : Cmd := { op := .get, l := 0, m := 0, q := 1, ticket := 4, ord := 0, hint := 0, rb := false, twoD := false, crc := false
                      ef := 0, sd := 0, sa := 0x40000, sl := 64, sx := 0, started := false, bt := 40 }
def stBusy (w : Word) : State := st 50 ((devEng oneMember w).modEng (fun z => { z with
  cmds := [(0, oneCmd)] }))
theorem test_gbar_waits : ControlAt (stBusy (regWord 0x15 0 0 0 0 0 0)) 0 0 oneLaunch oneMember 0x15 (regWord 0x15 0 0 0 0 0 0) ∧
    (stBusy 0).dev.cmdsLeft 0 0 none = true ∧
    ((devAfter (exec (.gbar (.control 0 0) (regWord 0x15 0 0 0 0 0 0)) (stBusy (regWord 0x15 0 0 0 0 0 0)))).member? 0 0).map
      (fun y => y.wait) = some .cmds := by decide +kernel
def stGbar : State := st 50 (devEng { oneMember with wait := .gbar } 0)
theorem test_gbarComplete : stGbar.dev.membersOf 0 = [(0, { oneMember with wait := .gbar })] ∧
    pcAfter (exec (.gbarComplete 0) stGbar) = some 0x1008 := by decide +kernel
theorem test_end : ControlAt (stEng (regWord 0x16 0 0 0 0 0 0)) 0 0 oneLaunch oneMember 0x16 (regWord 0x16 0 0 0 0 0 0) ∧
    (stEng 0).dev.cohortsDone 0 0 = true ∧
    ((devAfter (ctl (regWord 0x16 0 0 0 0 0 0) .endMember)).member? 0 0).map (fun y => y.ended) = some true := by decide +kernel
/-- The member's queue 1 has given ticket 5. -/
def stTicket (w : Word) : State := st 50 (devEng { oneMember with tickets := [(1, 5)] } w)
theorem test_waitq : ControlAt (stTicket (regWord 0x18 0 9 0 0 0 1)) 0 0 oneLaunch { oneMember with tickets := [(1, 5)] } 0x18
      (regWord 0x18 0 9 0 0 0 1) ∧ (stTicket 0).dev.cmdsLeft 0 0 (some (1, 5)) = false ∧
    pcAfter (exec (.waitq (.control 0 0) (regWord 0x18 0 9 0 0 0 1)) (stTicket (regWord 0x18 0 9 0 0 0 1))) = some 0x1008 := by
  decide +kernel
theorem test_waitq_object : ControlAt (stTicket (regWord 0x18 0 7 0 0 0 1)) 0 0 oneLaunch { oneMember with tickets := [(1, 5)] } 0x18
      (regWord 0x18 0 7 0 0 0 1) ∧ ((devAfter (exec (.waitq (.control 0 0) (regWord 0x18 0 7 0 0 0 1))
      (stTicket (regWord 0x18 0 7 0 0 0 1)))).launch? 0).map (fun x => x.status) = some .range := by decide +kernel
theorem test_twait : ControlAt (stEng (regWord 0x19 0 0 0 0 0 1)) 0 0 oneLaunch oneMember 0x19 (regWord 0x19 0 0 0 0 0 1) ∧
    pcAfter (ctl (regWord 0x19 0 0 0 0 0 1) .twait) = some 0x1008 := by decide +kernel
theorem test_fence : ControlAt (stEng (regWord 0x1A 0 0 0 0 0 3)) 0 0 oneLaunch oneMember 0x1A (regWord 0x1A 0 0 0 0 0 3) ∧
    pcAfter (ctl (regWord 0x1A 0 0 0 0 0 3) .fence) = some 0x1008 := by decide +kernel
/-- `CINV` of 5 bytes at 0x2008: the data line at 0x2000 goes, the instruction line stays. -/
theorem test_cinv : ControlAt (stEng (regWord 0x1B 0 8 9 0 0 0)) 0 0 oneLaunch oneMember 0x1B (regWord 0x1B 0 8 9 0 0 0) ∧
    ((devAfter (ctl (regWord 0x1B 0 8 9 0 0 0) .cinv)).ce 0).sqc.map (fun q => q.ava) = [0x1000] := by decide +kernel
def stFstat : State := st 50 ((devEng oneMember (regWord 0x1C 4 0 0 0 0 1)).modLaunch 0 (fun x => { x with fstat := 9 }))
theorem test_fstat : ControlAt stFstat 0 0 { oneLaunch with fstat := 9 } oneMember 0x1C (regWord 0x1C 4 0 0 0 0 1) ∧
    scalarAfter (exec (.fstat (.control 0 0) (regWord 0x1C 4 0 0 0 0 1)) stFstat) 4 = some 9#64 ∧
    ((devAfter (exec (.fstat (.control 0 0) (regWord 0x1C 4 0 0 0 0 1)) stFstat)).launch? 0).map (fun x => x.fstat) = some 0 := by
  decide +kernel
theorem test_btrd : ControlAt (stEng (regWord 0x1D 4 0 0 0 0 0)) 0 0 oneLaunch oneMember 0x1D (regWord 0x1D 4 0 0 0 0 0) ∧
    scalarAfter (ctl (regWord 0x1D 4 0 0 0 0 0) .btrd) 4 = some 50#64 := by decide +kernel
theorem test_btwait : ControlAt (stEng (regWord 0x1E 0 9 0 0 0 0)) 0 0 oneLaunch oneMember 0x1E (regWord 0x1E 0 9 0 0 0 0) ∧
    (oneMember.sget 9).toNat ≤ 50 ∧ pcAfter (ctl (regWord 0x1E 0 9 0 0 0 0) .btwait) = some 0x1008 := by decide +kernel

/-- A signal table at 0x40000: entry 0 is the ring of pair 5 with tag 3; entry 1 a mailbox of 2^4 entries at 0x50000, of hart 0 with
identity 9. SIGNAL with s9 = 5, s7 = 100 and the entry in s0 or s12 = 1; s9 = 5 is beyond the table. -/
def devSig (w : Word) : Dev :=
  (((devEng { oneMember with s := [(7, 100#64), (9, 5#64), (12, 1#64)] } w).setPair 5 { st := .attached, gen := 1, ctx := 9 }).fset
    F.hptCfgLog2Cq 5 6).memPut 0x40000
    (leBytes 8 (1 + 5 * 2 ^ 16) ++ leBytes 8 3 ++ leBytes 8 (2 + 4 * 2 ^ 19 + 9 * 2 ^ 32) ++ leBytes 8 0x50000)
def sigMember : Member := { oneMember with s := [(7, 100#64), (9, 5#64), (12, 1#64)] }
def stSig (w : Word) : State := st 50 (devSig w)
def ring0 : Word := regWord 0x1F 0 9 7 0 0 0
def mail1 : Word := regWord 0x1F 0 9 7 12 0 1
def beyond : Word := regWord 0x1F 0 9 7 9 0 0
theorem test_signal_ring : ControlAt (stSig ring0) 0 0 oneLaunch sigMember 0x1F ring0 ∧ (devSig ring0).cmdsLeft 0 0 none = false ∧
    (devSig ring0).target 0 (memNat (devSig ring0).mem 0x40000 16) = some (.ring 5 3) ∧
    (devSig ring0).postWaits 5 = false ∧
    (devAfter (exec (.signal (.control 0 0) ring0) (stSig ring0))).out.length = 1 ∧
    pcAfter (exec (.signal (.control 0 0) ring0) (stSig ring0)) = some 0x1008 := by decide +kernel
theorem test_signal_mail : ControlAt (stSig mail1) 0 0 oneLaunch sigMember 0x1F mail1 ∧
    (devSig mail1).target 0 (memNat (devSig mail1).mem 0x40010 16) = some (.mailbox 0 0 4 9 0x50000) ∧
    (devSig mail1).mailRoom 0x50000 4 = true ∧ (devSig mail1).mailQueued 0x50000 0 = false ∧
    (devSig mail1).eng.order = 0 ∧
    memNat (devAfter (exec (.signal (.control 0 0) mail1) (stSig mail1))).mem 0x50000 8 = 1 ∧
    memNat (devAfter (exec (.signal (.control 0 0) mail1) (stSig mail1))).mem 0x50048 8 = 100 := by decide +kernel
theorem test_signal_object : ControlAt (stSig beyond) 0 0 oneLaunch sigMember 0x1F beyond ∧
    ((devSig beyond).ctx 9).sigCount = 4 ∧
    ((devAfter (exec (.signal (.control 0 0) beyond) (stSig beyond))).launch? 0).map (fun x => x.status) = some .range := by
  decide +kernel
/-- The member waits for room in the mailbox of entry 1, which has room again. -/
def mailEntry : Nat := 2 + 4 * 2 ^ 19 + 9 * 2 ^ 32 + 0x50000 * 2 ^ 64
def stRoom : State := st 50 ((devSig 0).modMember 0 0 (fun y => { y with wait := .mailbox mailEntry 0 6#64 7#64 }))
theorem test_mailboxRoom : stRoom.dev.target 0 mailEntry = some (.mailbox 0 0 4 9 0x50000) ∧ stRoom.dev.mailRoom 0x50000 4 = true ∧
    stRoom.dev.mailQueued 0x50000 0 = false ∧
    memNat (devAfter (exec (.mailboxRoom 0 0) stRoom)).mem 0x50040 8 = 6 ∧
    ((devAfter (exec (.mailboxRoom 0 0) stRoom)).member? 0 0).map (fun y => y.wait) = some .none := by decide +kernel
/-- No parity error has hit the caches of the tests' engines (R107). -/
theorem witness_sqcSound : (devSig ring0).sqcSound 0 9 ∧ (devSig mail1).sqcSound 0 9 ∧ (stEng 0).dev.sqcSound 0 9 ∧
    (devMem samoWord).sqcSound 0 9 ∧ (stEng 0).dev.moving 9 0x2001 = false ∧ (stMiss.dev.scalarPage 0 9 0x40000).2.bytesOpen 0 0x40000 64 = true := by
  decide +kernel

/-! ### Sequences -/

/-- A request of a type with operations on host pair 5: ARG bytes from offset 2. -/
def reqDesc (typ op flags : Nat) (rest : List Byte) : Desc :=
  { pair := 5, typ, nslot := 2, tag := 7, ts0 := 0, ts1 := 0, ts2 := 0, payload := leBytes 1 op ++ leBytes 1 flags ++ rest, bt := 30 }
/-- Host pair 5 of context 9 with one request; the partition's units are enabled; slot 3 holds a sequence. -/
def devReq (r : Desc) : Dev :=
  (((({} : Dev).setPair 5 { st := .attached, gen := 1, ctx := 9, fetched := [r], outst := 1 }).fset F.seqeCtrlEnable 0 1).fset
    F.prtPromCtrlEnable 0 1).setCtx 9 { st := .admitted, queues := 1, ceil := 3, slotUse := 1, jrnUse := 2
                                        res := { hbm := 64, ddr := 64, kv := 16, slots := 2, journal := 34 } }
def oneSlot : Slot := { st := .open, ctx := 9, length := 40, stepNo := 6, pending := 4, spanBase := 16, spanLen := 4, layerBytes := 64, cls := 0 }
def devSeqSlot (x : Slot) (r : Desc) : Dev := ((devReq r).setSlot 3 x).fset F.hptCfgLog2Cq 5 6
def stSlot (x : Slot) (r : Desc) : State := st 50 (devSeqSlot x r)
/-- The device once the request is taken. -/
def taken (x : Slot) (r : Desc) : Dev := (devSeqSlot x r).popDesc 5
def slotAfter (o : Host.Outcome State Fault Refusal) (n : Nat) : Slot := (devAfter o).slot n
/-- The statuses of the completion entries written. -/
def statuses (o : Host.Outcome State Fault Refusal) : List Status := (devAfter o).out.filterMap (fun q => match q with
  | .cqe _ _ _ e => some e.status
  | _ => none)
/-- OPEN of slot 4: 64 bytes a layer, 2 layers, a span of 8 at 32. -/
def openDesc : Desc := reqDesc 4 1 0 (leBytes 2 4 ++ leBytes 2 64 ++ leBytes 2 1 ++ leBytes 4 32 ++ leBytes 4 8 ++ leBytes 48 0)
theorem test_seqOpen : RequestAt (stSlot oneSlot openDesc) 5 4 1 openDesc 9 (taken oneSlot openDesc) ∧
    (taken oneSlot openDesc).slotOk 9 4 = true ∧ openDesc.at_ 4 2 = 64 ∧ openDesc.at_ 6 1 = 1 ∧ openDesc.at_ 8 3 = 32 ∧
    bits (openDesc.at_ 8 8) 56 32 = 8 ∧ (taken oneSlot openDesc).spanOk 4 32 8 ((List.range 8).map (fun i => 32 + i)) = true ∧
    (slotAfter (exec (.seqOpen 5) (stSlot oneSlot openDesc)) 4).layersM1 = 1 ∧
    (slotAfter (exec (.seqOpen 5) (stSlot oneSlot openDesc)) 4).spanLen = 8 ∧
    ((devAfter (exec (.seqOpen 5) (stSlot oneSlot openDesc))).ctx 9).slotUse = 2 := by decide +kernel
theorem test_seqOpen_quota :
    let s := st 50 ((devSeqSlot oneSlot openDesc).modCtx 9 (fun x => { x with slotUse := 2 }))
    RequestAt s 5 4 1 openDesc 9 (s.dev.popDesc 5) ∧ statuses (exec (.seqOpen 5) s) = [.quota] := by decide +kernel
/-- STEP with FORM 2 and 500 ns, ceiling 2. -/
def stepDesc : Desc := reqDesc 4 2 0x22 (leBytes 2 3 ++ leBytes 4 0 ++ leBytes 8 500 ++ leBytes 48 0)
theorem test_seqStep : SequenceAt (stSlot oneSlot stepDesc) 5 2 stepDesc 9 3 oneSlot (taken oneSlot stepDesc) ∧
    oneSlot.closeSeen = false ∧ stepFlag 30 2 (stepDesc.at_ 8 8) = some (some 530) ∧ bits (stepDesc.at_ 1 1) 7 4 = 2 ∧
    (slotAfter (exec (.seqStep 5) (stSlot oneSlot stepDesc)) 3).stepOpen = true ∧
    (slotAfter (exec (.seqStep 5) (stSlot oneSlot stepDesc)) 3).stepNo = 7 ∧
    (slotAfter (exec (.seqStep 5) (stSlot oneSlot stepDesc)) 3).flag = some 530 := by decide +kernel
def stepping : Slot := { oneSlot with stepOpen := true, stepPair := 5, stepTag := 9 }
theorem test_seqStep_held : SequenceAt (stSlot stepping stepDesc) 5 2 stepDesc 9 3 stepping (taken stepping stepDesc) ∧
    stepping.closeSeen = false ∧
    (slotAfter (exec (.seqStep 5) (stSlot stepping stepDesc)) 3).held = [stepDesc] := by decide +kernel
def crowded : Slot := { stepping with held := List.replicate 8 stepDesc }
theorem test_seqStep_full : SequenceAt (stSlot crowded stepDesc) 5 2 stepDesc 9 3 crowded (taken crowded stepDesc) ∧
    crowded.closeSeen = false ∧ statuses (exec (.seqStep 5) (stSlot crowded stepDesc)) = [.range] := by decide +kernel
/-- STEP_END of step 6 that accepts 3 positions, token 77. -/
def endDesc (n : Nat) : Desc := reqDesc 4 3 0 (leBytes 2 3 ++ leBytes 4 77 ++ leBytes 4 n ++ leBytes 4 3 ++ leBytes 48 0)
theorem test_stepEnd : SequenceAt (stSlot stepping (endDesc 6)) 5 3 (endDesc 6) 9 3 stepping (taken stepping (endDesc 6)) ∧
    (endDesc 6).at_ 8 4 = 6 ∧ (endDesc 6).at_ 12 4 = 3 ∧ bit ((endDesc 6).at_ 1 1) 3 = false ∧
    (slotAfter (exec (.stepEnd 5) (stSlot stepping (endDesc 6))) 3).length = 43 ∧
    (slotAfter (exec (.stepEnd 5) (stSlot stepping (endDesc 6))) 3).stepOpen = false ∧
    statuses (exec (.stepEnd 5) (stSlot stepping (endDesc 6))) = [.ok, .ok] := by decide +kernel
theorem test_stepEnd_late : SequenceAt (stSlot stepping (endDesc 5)) 5 3 (endDesc 5) 9 3 stepping (taken stepping (endDesc 5)) ∧
    (endDesc 5).at_ 8 4 ≠ stepping.stepNo ∧ statuses (exec (.stepEnd 5) (stSlot stepping (endDesc 5))) = [.range] := by decide +kernel
def slotDesc (op : Nat) : Desc := reqDesc 4 op 0 (leBytes 2 3 ++ leBytes 60 0)
theorem test_adjourn : SequenceAt (stSlot oneSlot (slotDesc 4)) 5 4 (slotDesc 4) 9 3 oneSlot (taken oneSlot (slotDesc 4)) ∧
    (taken oneSlot (slotDesc 4)).movable oneSlot = [] ∧
    (slotAfter (exec (.adjourn 5) (stSlot oneSlot (slotDesc 4))) 3).st = .adjourned := by decide +kernel
/-- Entry 16 in HBM in frame 0x30, and a DDR pool (KV pool 0 of class 0) with frame 0x8000_0000 / 2^16 free. -/
def stAdjourn : State := st 50 ((((((devSeqSlot oneSlot (slotDesc 4)).fset F.seqePoolCfgValid 0 1).fset F.seqePoolCfgTier 0 1).modPool 0
  (fun p => { p with free := [0x80000000] })).kvPut 16 (kvMake kvHbm 0 0x30 0)))
theorem test_adjourn_moves : SequenceAt stAdjourn 5 4 (slotDesc 4) 9 3 oneSlot (stAdjourn.dev.popDesc 5) ∧
    (stAdjourn.dev.popDesc 5).movable oneSlot = [16] ∧
    ((stAdjourn.dev.popDesc 5).startBlocks 50 3 [16] false).1.isSome = true ∧
    (slotAfter (exec (.adjourn 5) stAdjourn) 3).st = .adjourning ∧
    (devAfter (exec (.adjourn 5) stAdjourn)).tier.moves.length = 1 := by decide +kernel
def adjournedSlot : Slot := { oneSlot with st := .adjourned }
theorem test_resume : SequenceAt (stSlot adjournedSlot (slotDesc 5)) 5 5 (slotDesc 5) 9 3 adjournedSlot (taken adjournedSlot (slotDesc 5)) ∧
    (taken adjournedSlot (slotDesc 5)).ddrBlocks oneSlot = [] ∧
    (slotAfter (exec (.resume 5) (stSlot adjournedSlot (slotDesc 5))) 3).st = .open := by decide +kernel
theorem test_seqClose : SequenceAt (stSlot oneSlot (slotDesc 6)) 5 6 (slotDesc 6) 9 3 oneSlot (taken oneSlot (slotDesc 6)) ∧
    (slotAfter (exec (.seqClose 5) (stSlot oneSlot (slotDesc 6))) 3).st = .closed ∧
    ((devAfter (exec (.seqClose 5) (stSlot oneSlot (slotDesc 6)))).ctx 9).slotUse = 0 := by decide +kernel
/-- SHARE of one block of slot 3 with the empty sequence of slot 4, LENGTH 20. -/
def emptySlot : Slot := { oneSlot with length := 0, spanBase := 32 }
def shareDesc : Desc := reqDesc 4 7 0 (leBytes 2 4 ++ leBytes 4 3 ++ leBytes 8 1 ++ leBytes 4 20 ++ leBytes 44 0)
def stShare : State := st 50 (((devSeqSlot oneSlot shareDesc).setSlot 4 emptySlot).kvPut 16 (kvMake kvHbm 0 0x30 0))
theorem test_share : SequenceAt stShare 5 7 shareDesc 9 4 emptySlot (stShare.dev.popDesc 5) ∧
    shareDesc.at_ 4 2 = 3 ∧ bits (shareDesc.at_ 8 8) 24 0 = 1 ∧ shareDesc.at_ 16 4 = 20 ∧
    kvValid (stShare.dev.kvGet 16) = true ∧ kvValid (stShare.dev.kvGet 32) = false ∧ kvBusy (stShare.dev.kvGet 32) = false ∧
    kvRefs (stShare.dev.kvGet 16) = 0 ∧ ((stShare.dev.popDesc 5).chargeKv 9 1).isSome = true ∧
    kvState ((devAfter (exec (.share 5) stShare)).kvGet 32) = .shared ∧
    kvRefs ((devAfter (exec (.share 5) stShare)).kvGet 16) = 1 ∧ (slotAfter (exec (.share 5) stShare) 4).length = 20 := by decide +kernel
def extendDesc : Desc := reqDesc 4 8 0 (leBytes 2 3 ++ leBytes 4 0 ++ leBytes 8 6 ++ leBytes 48 0)
theorem test_extend : SequenceAt (stSlot oneSlot extendDesc) 5 8 extendDesc 9 3 oneSlot (taken oneSlot extendDesc) ∧
    bits (extendDesc.at_ 8 8) 24 0 = 6 ∧ (taken oneSlot extendDesc).spanOk 3 16 6 [20, 21] = true ∧
    (slotAfter (exec (.extend 5) (stSlot oneSlot extendDesc)) 3).spanLen = 6 := by decide +kernel
theorem test_query : RequestAt (stSlot oneSlot (slotDesc 9)) 5 4 9 (slotDesc 9) 9 (taken oneSlot (slotDesc 9)) ∧
    pairIsHost 5 = true ∧ (devSeqSlot oneSlot (slotDesc 9)).descCtx (slotDesc 9) = 9 ∧
    (devSeqSlot oneSlot (slotDesc 9)).slotOk 9 3 = true ∧
    (devAfter (exec (.query 5) (stSlot oneSlot (slotDesc 9)))).out.head?.map (fun q => match q with
      | .hostWrite _ _ bs => leNat (bs.take 8)
      | _ => 0) = some (1 + 9 * 2 ^ 16 + 40 * 2 ^ 32) := by decide +kernel
/-- POOL_GROW of KV pool 0 by 2 frames at 64 KiB, and POOL_SHRINK by 1. -/
def growDesc (op n : Nat) : Desc := reqDesc 4 op 0 (leBytes 2 0 ++ leBytes 4 0 ++ leBytes 8 0x10000 ++ leBytes 4 n ++ leBytes 44 0)
def stPool (op n : Nat) : State := st 50 (((devSeqSlot oneSlot (growDesc op n)).fset F.seqePoolCfgValid 0 1).fset F.seqePoolCapCap 0 8)
theorem test_poolGrow : RequestAt (stPool 0x10 2) 5 4 0x10 (growDesc 0x10 2) 9 ((stPool 0x10 2).dev.popDesc 5) ∧
    (stPool 0x10 2).dev.poolValid 0 = true ∧ (stPool 0x10 2).dev.poolFrame 0 = 65536 ∧
    (stPool 0x10 2).dev.inTier false 0 0x10000 0x20000 = true ∧ (stPool 0x10 2).dev.poolCap 0 = 8 ∧
    ((devAfter (exec (.poolGrow 5) (stPool 0x10 2))).pool 0).free = [1, 2] := by decide +kernel
theorem test_poolShrink :
    let s := st 50 ((stPool 0x11 1).dev.modPool 0 (fun p => { p with free := [1, 2] }))
    RequestAt s 5 4 0x11 (growDesc 0x11 1) 9 (s.dev.popDesc 5) ∧ s.dev.descCtx (growDesc 0x11 1) = 9 ∧ s.dev.poolValid 0 = true ∧
    ((devAfter (exec (.poolShrink 5) s)).pool 0).free = [1] := by decide +kernel
theorem test_heldRequestRelease :
    let s := stSlot { oneSlot with held := [stepDesc] } (slotDesc 9)
    (s.dev.slot 3).held = [stepDesc] ∧ (s.dev.slot 3).mustHold 2 = false ∧
    (slotAfter (exec (.heldRequestRelease 3) s) 3).stepNo = 7 ∧ (slotAfter (exec (.heldRequestRelease 3) s) 3).held = [] := by decide +kernel
/-- A block of slot 3 that is being moved to the DDR frame, and a copy on write of entry 17 whose origin is entry 16. -/
def blockMove : Move := { part := 0, die := 0, obj := .block 16 3, up := false, cls := .background, src := 0x300000, dst := some 0x800000000000, len := 65536, moved := 65536, begun := true, since := 20 }
def stMoved : State := st 50 (((devSeqSlot { oneSlot with st := .adjourning, waiters := [(5, 8)] } (slotDesc 9)).kvPut 16 (kvMake kvDemoting 0 0x30 0)).modTier
  (fun z => { z with moves := [(0, blockMove)] }))
theorem test_kvMoveCommit : mapFind? stMoved.dev.tier.moves 0 = some blockMove ∧ blockMove.moved = blockMove.len ∧
    kvState ((devAfter (exec (.kvMoveCommit 0) stMoved)).kvGet 16) = .ddr ∧
    (slotAfter (exec (.kvMoveCommit 0) stMoved) 3).st = .adjourned := by decide +kernel
def copyMove : Move := { part := 0, die := 0, obj := .copy 17 3, up := true, cls := .demand, src := 0x300000, dst := some 0x400000, len := 65536, since := 20 }
def stCopied : State := st 50 (((devSeqSlot oneSlot (slotDesc 9)).kvPut 16 (kvMake kvHbm 0 0x30 1)).kvPut 17 (kvMake kvCopying 0 16 0) |>.modTier
  (fun z => { z with moves := [(0, copyMove)] }))
theorem test_kvMoveCommit_copy : mapFind? stCopied.dev.tier.moves 0 = some copyMove ∧
    kvState ((devAfter (exec (.kvMoveCommit 0) stCopied)).kvGet 17) = .hbm ∧
    kvFrame ((devAfter (exec (.kvMoveCommit 0) stCopied)).kvGet 17) = 0x40 := by decide +kernel
/-- An open step whose flag is at 40, on the wheel. -/
def stFlag (x : Slot) (ev : Ev) : State := st 50 ((devSeqSlot x (slotDesc 9)).arm 20 0 ev 2 40)
def flagged : Slot := { stepping with flag := some 40, ceil := 3 }
theorem test_flagCheck_vanan :
    let s := { stFlag flagged (.flag 3) with dev := (stFlag flagged (.flag 3)).dev.modCtx 9 (fun x => { x with vanan := true }) }
    (s.dev.fire 50 0 (.flag 3)).isSome = true ∧ (s.dev.ctx 9).vanan = true ∧
    (slotAfter (exec (.flagCheck 3) s) 3).stepOpen = false ∧ statuses (exec (.flagCheck 3) s) = [.flagFell] := by decide +kernel
theorem test_flagCheck : ((stFlag flagged (.flag 3)).dev.fire 50 0 (.flag 3)).isSome = true ∧
    (slotAfter (exec (.flagCheck 3) (stFlag flagged (.flag 3))) 3).fallen = true := by decide +kernel
def drafted : Slot := { flagged with draft := some 77, l3 := 2 }
theorem test_flagCheck_draft : ((stFlag drafted (.flag 3)).dev.fire 50 0 (.flag 3)).isSome = true ∧
    ((devAfter (exec (.flagCheck 3) (stFlag drafted (.flag 3)))).wheel 0).map (fun e => (e.ev, e.due)) = [(.level3 3, 2050)] := by decide +kernel
theorem test_level3Check : ((stFlag drafted (.level3 3)).dev.fire 50 0 (.level3 3)).isSome = true ∧
    statuses (exec (.level3Check 3) (stFlag drafted (.level3 3))) = [.okDegraded] := by decide +kernel
theorem test_level3Check_below : ((stFlag { drafted with ceil := 2 } (.level3 3)).dev.fire 50 0 (.level3 3)).isSome = true ∧
    (slotAfter (exec (.level3Check 3) (stFlag { drafted with ceil := 2 } (.level3 3))) 3).stepOpen = true := by decide +kernel

/-! ### Launches -/

/-- A LAUNCH descriptor: group 1, 2 cohorts, 16 registers, 4 units of Local Store, NRS, kernel 0x40000. -/
def launchDesc (nslot : Nat) : Desc :=
  { pair := 5, typ := 1, nslot, tag := 7, ts0 := 0 + 1 * 2 ^ 5 + 0 * 2 ^ 14 + 3 * 2 ^ 17 + 2 ^ 27, ts1 := 0x1000, ts2 := 0
    payload := leBytes 16 0xABCD, bt := 30 }
def stLaunch (n : Nat) : State := st 50 ((devReq (launchDesc n)).fset F.hptCfgLog2Cq 5 6)
theorem test_launch : RequestAt (stLaunch 1) 5 1 0 (launchDesc 1) 9 ((stLaunch 1).dev.popDesc 5) ∧
    ((devAfter (exec (.launch 5) (stLaunch 1))).launch? 0).map (fun x => [x.kernel, x.cohorts, x.regs, x.lsUnits, b2n x.nrs]) =
      some [0x40000, 2, 16, 4, 1] := by decide +kernel
theorem test_launch_quota :
    let s := { stLaunch 1 with dev := (stLaunch 1).dev.modCtx 9 (fun x => { x with res := {} }) }
    RequestAt s 5 1 0 (launchDesc 1) 9 (s.dev.popDesc 5) ∧ statuses (exec (.launch 5) s) = [.quota] := by decide +kernel
def waitingLaunch : Launch := { oneLaunch with st := .queued, charged := false, nrs := true, payload := leBytes 16 0xABCD }
def stPlace : State := st 50 (((stLaunch 1).dev.modCtx 9 (fun x => { x with jrnUse := 0 })).modEng (fun z => { z with launches := [(0, waitingLaunch)], nextLaunch := 1 }))
theorem test_launchPlace : stPlace.dev.launch? 0 = some waitingLaunch ∧ stPlace.dev.res.cycle = false ∧ stPlace.dev.pow.tripped = false ∧
    stPlace.dev.myTurn waitingLaunch = true ∧ stPlace.dev.choose waitingLaunch (stPlace.dev.candidates waitingLaunch) = some [0] ∧
    stPlace.dev.wheelUsed 0 < wheelShared ∧
    ((devAfter (exec (.launchPlace 0) stPlace)).member? 0 0).map (fun y => [BitVec.ofNat 64 y.pc, y.sget 4, y.sget 5, y.sget 6]) =
      some [0x1000#64, 16384#64, 2#64, 16#64] ∧
    ((devAfter (exec (.launchPlace 0) stPlace)).ctx 9).jrnUse = 2 := by decide +kernel
theorem test_launchPlace_behind :
    let s := { stPlace with dev := stPlace.dev.modEng (fun z => { z with launches := [(0, { waitingLaunch with st := .running }), (1, { waitingLaunch with order := 1, prev := some 0 })] }) }
    s.dev.launch? 1 = some { waitingLaunch with order := 1, prev := some 0 } ∧ s.dev.myTurn { waitingLaunch with order := 1, prev := some 0 } = false ∧
    (devAfter (exec (.launchPlace 1) s)).eng.members.length = 0 := by decide +kernel
def stEnded : State := st 50 (((devEng { oneMember with ended := true } 0).setPair 5 { st := .attached, gen := 1, ctx := 9, outst := 1 }).fset F.hptCfgLog2Cq 5 6)
theorem test_launchComplete : stEnded.dev.launch? 0 = some oneLaunch ∧ stEnded.dev.hasEnded 0 oneLaunch = true ∧
    statuses (exec (.launchComplete 0) stEnded) = [.ok] ∧
    ((devAfter (exec (.launchComplete 0) stEnded)).launch? 0) = none := by decide +kernel
theorem test_launchComplete_shadow :
    let s := { stEnded with dev := stEnded.dev.modLaunch 0 (fun x => { x with shadow := some 1 }) }
    s.dev.launch? 0 = some { oneLaunch with shadow := some 1 } ∧ s.dev.hasEnded 0 { oneLaunch with shadow := some 1 } = true ∧
    ((devAfter (exec (.launchComplete 0) s)).launch? 0).map (fun x => (x.st, x.oldCes)) = some (.done, [0]) := by decide +kernel

/-! ### Cohort code -/

/-- Cohort 0 at Local Store 0x100, where word `w` lies; p1 is 1 in lanes 0 to 15; v1 holds the lane number, v2 1000 and v3 four times
the lane number; Local Store byte 8 is 0x85; cohort 1 is at its first BAR. -/
def vecCohort : Cohort := { pc := 0x100, p := [(1, 0xFFFF#32)] }
def devVec (w : Word) : Dev :=
  ((((((devEng oneMember 0).modEng (fun z => { z with cohorts := [(0, vecCohort), (1, { pc := 0x200, bars := 1, atBar := true })] })).lsPut
    oneMember 0x100 8 w.toNat).vput oneLaunch oneMember 0 1 lanes (fun i => BitVec.ofNat 32 i)).vput oneLaunch oneMember 0 2 lanes
    (fun _ => 1000#32)).vput oneLaunch oneMember 0 3 lanes (fun i => BitVec.ofNat 32 (4 * i))).lsPut oneMember 8 1 0x85
def stVec (w : Word) : State := st 50 (devVec w)
def vecAt (op : Nat) (w : Word) : Bool := decide (CohortAt (stVec w) 0 0 0 oneLaunch oneMember vecCohort op w)
def vec (w : Word) (i : Issuer → Word → Instr) : Host.Outcome State Fault Refusal := exec (i (.cohort 0 0 0) w) (stVec w)
def laneAfter (o : Host.Outcome State Fault Refusal) (r i : Nat) : Nat := ((devAfter o).vget oneLaunch oneMember 0 r i).toNat
def cohortAfter (o : Host.Outcome State Fault Refusal) : Option Cohort := mapFind? (devAfter o).eng.cohorts 0
/-- The same word under guard p1, or its complement. -/
def guarded (w : Word) (pg pn : Nat) : Word := BitVec.ofNat 64 (w.toNat + pg * 2 ^ 53 + pn * 2 ^ 52)
/-- `VIOP` sub v4 ← v2 − v1 under p1, in lane 3 and in lane 20, which the guard leaves out. -/
theorem test_viop : vecAt 0x30 (guarded (regWord 0x30 4 2 1 0 0 1) 1 0) = true ∧
    laneAfter (vec (guarded (regWord 0x30 4 2 1 0 0 1) 1 0) .viop) 4 3 = 997 ∧
    laneAfter (vec (guarded (regWord 0x30 4 2 1 0 0 1) 1 0) .viop) 4 20 = 0 ∧
    (cohortAfter (vec (guarded (regWord 0x30 4 2 1 0 0 1) 1 0) .viop)).map (fun q => q.pc) = some 0x108 := by decide +kernel
theorem test_viop_illegal : vecAt 0x30 (regWord 0x30 4 2 1 0 0 0xF) = true ∧
    ((devAfter (vec (regWord 0x30 4 2 1 0 0 0xF) .viop)).launch? 0).map (fun x => x.status) = some .range := by decide +kernel
theorem test_viop_control : bits (regWord 0x30 4 2 1 0 0 1).toNat 63 56 = 0x30 ∧
    ((stEng (regWord 0x30 4 2 1 0 0 1)).dev.sqcFind 0 9 0x1000 true).isSome = true ∧
    ((devAfter (ctl (regWord 0x30 4 2 1 0 0 1) .viop)).launch? 0).map (fun x => x.status) = some .range := by decide +kernel
theorem test_viopi : vecAt 0x31 (immWord 0x31 4 1 7 0xFFFFFFFF) = true ∧
    laneAfter (vec (immWord 0x31 4 1 7 0xFFFFFFFF) .viopi) 4 2 = 0xFFFFFFFE := by decide +kernel
theorem test_vicmp : vecAt 0x32 (regWord 0x32 2 2 3 0 0 4) = true ∧
    (cohortAfter (vec (regWord 0x32 2 3 1 0 0 5) .vicmp)).map (fun q => q.pget 2) = some 1#32 := by decide +kernel
theorem test_vsel : vecAt 0x33 (regWord 0x33 4 2 1 1 0 0) = true ∧
    laneAfter (vec (regWord 0x33 4 2 1 1 0 0) .vsel) 4 15 = 1000 ∧ laneAfter (vec (regWord 0x33 4 2 1 1 0 0) .vsel) 4 16 = 16 := by decide +kernel
/-- `VFOP` on snapshot s0 and s9, `VFMA`: FP16 1.5 × 2 + 0.5 = 3.5, from values that `VIOPI` would have put there. -/
def devFp (w : Word) : Dev := ((devVec w).vput oneLaunch oneMember 0 5 lanes (fun _ => 0x3E00#32)).vput oneLaunch oneMember 0 6 lanes (fun _ => 0x4000#32)
def fp (w : Word) (i : Issuer → Word → Instr) : Host.Outcome State Fault Refusal := exec (i (.cohort 0 0 0) w) (st 50 (devFp w))
def fpAt (op : Nat) (w : Word) : Bool := decide (CohortAt (st 50 (devFp w)) 0 0 0 oneLaunch oneMember vecCohort op w)
theorem test_vfop : fpAt 0x40 (regWord 0x40 4 5 6 0 2 2) = true ∧ laneAfter (fp (regWord 0x40 4 5 6 0 2 2) .vfop) 4 0 = 0x4200 := by decide +kernel
theorem test_vfma : fpAt 0x41 (regWord 0x41 4 5 6 5 2 0) = true ∧ laneAfter (fp (regWord 0x41 4 5 6 5 2 0) .vfma) 4 0 = 0x4480 := by decide +kernel
theorem test_vfcmp : fpAt 0x42 (regWord 0x42 3 5 6 0 2 1) = true ∧
    (cohortAfter (fp (regWord 0x42 3 6 5 0 2 1) .vfcmp)).map (fun q => q.pget 3) = some 0#32 := by decide +kernel
theorem test_vsf : fpAt 0x50 (regWord 0x50 4 6 0 0 2 0) = true ∧ laneAfter (fp (regWord 0x50 4 6 0 0 2 0) .vsf) 4 0 = 0x3800 := by decide +kernel
/-- `VCVT` of FP16 (format 2) 1.5 to FP32 (format 0). -/
theorem test_vcvt : fpAt 0x51 (regWord 0x51 4 5 0 0 0 2) = true ∧ laneAfter (fp (regWord 0x51 4 5 0 0 0 2) .vcvt) 4 0 = 0x3FC00000 := by decide +kernel
/-- `VLD` of a signed byte at v3 + 0: lane 2 reads Local Store 8. -/
theorem test_vld : vecAt 0x60 (immWord 0x60 4 3 4 0) = true ∧ laneAfter (vec (immWord 0x60 4 3 4 0) .vld) 4 2 = 0xFFFFFF85 := by decide +kernel
theorem test_vldc : vecAt 0x62 (immWord 0x62 4 3 0 0) = true ∧ laneAfter (vec (immWord 0x62 4 3 0 0) .vldc) 4 8 = 0x85 := by decide +kernel
theorem test_vld_range : vecAt 0x60 (immWord 0x60 4 3 2 16384) = true ∧ vecCohort.lanesOn (immWord 0x60 4 3 2 16384).toNat = lanes ∧
    ((devAfter (vec (immWord 0x60 4 3 2 16384) .vld)).launch? 0).map (fun x => x.status) = some .range := by decide +kernel
theorem test_vst : vecAt 0x61 (immWord 0x61 1 2 0 24) = true ∧ (devAfter (vec (immWord 0x61 1 2 0 24) .vst)).lsNat oneMember 1024 1 = 31 := by decide +kernel
theorem test_vstc : vecAt 0x63 (immWord 0x63 1 3 1 64) = true ∧ (devAfter (vec (immWord 0x63 1 3 1 64) .vstc)).lsNat oneMember 74 2 = 5 := by decide +kernel
/-- `VLATOM` add of the lane number at address 1000 by all 32 lanes: 0 + 1 + … + 31 = 496; lane 3 sees 0 + 1 + 2. -/
theorem test_vlatom : vecAt 0x64 (regWord 0x64 4 2 1 0 0 0) = true ∧
    (devAfter (vec (regWord 0x64 4 2 1 0 0 0) .vlatom)).lsNat oneMember 1000 4 = 496 ∧
    laneAfter (vec (regWord 0x64 4 2 1 0 0 0) .vlatom) 4 3 = 3 := by decide +kernel
theorem test_bar : vecAt 0x70 (regWord 0x70 0 0 0 0 0 0) = true ∧
    (cohortAfter (vec (regWord 0x70 0 0 0 0 0 0) .bar)).map (fun q => (q.bars, q.pc)) = some (1, 0x108) := by decide +kernel
theorem test_bar_waits :
    let s := { stVec (regWord 0x70 0 0 0 0 0 0) with dev := (stVec (regWord 0x70 0 0 0 0 0 0)).dev.modEng (fun z => { z with cohorts := [(0, vecCohort), (1, { pc := 0x200 })] }) }
    CohortAt s 0 0 0 oneLaunch oneMember vecCohort 0x70 (regWord 0x70 0 0 0 0 0 0) ∧
    (cohortAfter (exec (.bar (.cohort 0 0 0) (regWord 0x70 0 0 0 0 0 0)) s)).map (fun q => (q.atBar, q.pc)) = some (true, 0x100) := by decide +kernel
theorem test_vote : vecAt 0x71 (regWord 0x71 2 1 0 0 0 1) = true ∧
    (cohortAfter (vec (regWord 0x71 2 1 0 0 0 1) .vote)).map (fun q => q.pget 2) = some 0#32 := by decide +kernel
theorem test_vote_ballot : vecAt 0x71 (regWord 0x71 4 1 0 0 0 2) = true ∧ laneAfter (vec (regWord 0x71 4 1 0 0 0 2) .vote) 4 9 = 0xFFFF := by decide +kernel
theorem test_vshfl : vecAt 0x72 (regWord 0x72 4 1 3 0 0 0) = true ∧ laneAfter (vec (regWord 0x72 4 1 3 0 0 0) .vshfl) 4 9 = 4 := by decide +kernel
/-- `VBR` any p1, back by one instruction: A in [51:44] (R147). -/
theorem test_vbr : vecAt 0x73 (immWord 0x73 1 0 7 0xFFFFFFFF) = true ∧
    (cohortAfter (vec (immWord 0x73 1 0 7 0xFFFFFFFF) .vbr)).map (fun q => q.pc) = some 0xF8 := by decide +kernel
theorem test_vend : vecAt 0x74 (regWord 0x74 0 0 0 0 0 0) = true ∧
    (cohortAfter (vec (regWord 0x74 0 0 0 0 0 0) .vend)).map (fun q => q.ended) = some true := by decide +kernel

/-! ### Tensor instructions; the words of MMA, TRD and GET are the worked encodings of R147 and of the chapter's example -/

/-- A descriptor of BF16: DATA, ROWS, COLS, ROW_STRIDE 16. -/
def tdescBytes (data rows cols fmt : Nat) : List Byte := leBytes 4 data ++ leBytes 4 0 ++ leBytes 2 rows ++ leBytes 2 cols ++ leBytes 4 16 ++
  leBytes 4 0 ++ leBytes 4 fmt ++ leBytes 40 0
def tA : TDesc := tdescOf (leNat (tdescBytes 0x200 1 2 1))
def tB : TDesc := tdescOf (leNat (tdescBytes 0x240 2 1 1))
def tD : TDesc := tdescOf (leNat (tdescBytes 0x280 1 1 0))
def tenMember : Member := { oneMember with handles := [(1, tA), (2, tB), (5, tD)], s := [(7, 100#64), (8, 0x100#64)] }
/-- A is (1.5, 2), B is (2, 4)ᵀ in BF16; the launch owns the tensor unit. -/
def devTen (w : Word) : Dev :=
  ((((devEng tenMember w).modCe 0 (fun e => { e with tensor := some (0, 0) })).lsWrite tenMember 0x200 (leBytes 2 0x3FC0 ++ leBytes 2 0x4000)).lsWrite
    tenMember 0x240 (leBytes 16 0x4000 ++ leBytes 2 0x4080)).lsWrite tenMember 0x100 (tdescBytes 0x300 3 4 1)
def stTen (w : Word) : State := st 50 (devTen w)
def tenWord (op td ta tb sr fn : Nat) : Word := BitVec.ofNat 64 (op * 2 ^ 56 + td * 2 ^ 48 + ta * 2 ^ 44 + tb * 2 ^ 40 + sr * 2 ^ 32 + fn * 2 ^ 16)
theorem test_tbind : ControlAt (stTen (tenWord 0x80 3 0 0 8 0)) 0 0 oneLaunch tenMember 0x80 (tenWord 0x80 3 0 0 8 0) ∧
    tdescExc oneLaunch ((stTen 0).dev.lsNat tenMember 0x100 64) = none ∧
    (((devAfter (exec (.tbind (.control 0 0) (tenWord 0x80 3 0 0 8 0)) (stTen (tenWord 0x80 3 0 0 8 0)))).member? 0 0).bind
      (fun y => y.handle 3)).map (fun t => [t.data, t.rows, t.cols, t.rowStride, t.fmt]) = some [0x300, 3, 4, 16, 1] := by decide +kernel
theorem test_tbind_align : ControlAt (stTen (tenWord 0x80 3 0 0 7 0)) 0 0 oneLaunch tenMember 0x80 (tenWord 0x80 3 0 0 7 0) ∧
    (tenMember.sget 7).toNat % 64 ≠ 0 ∧ ((devAfter (exec (.tbind (.control 0 0) (tenWord 0x80 3 0 0 7 0))
      (stTen (tenWord 0x80 3 0 0 7 0)))).launch? 0).map (fun x => x.status) = some .range := by decide +kernel
def stGrant : State := st 50 ((devEng { oneMember with wait := .tensor } 0).modCe 0 (fun e => { e with tensor := none, tensorWait := [(0, 0)] }))
theorem test_tensorUnitGrant : (stGrant.dev.ce 0).tensor = none ∧ (stGrant.dev.ce 0).tensorWait = [(0, 0)] ∧ stGrant.dev.launch? 0 = some oneLaunch ∧
    ((devAfter (exec (.tensorUnitGrant 0) stGrant)).ce 0).tensor = some (0, 0) ∧
    ((devAfter (exec (.tensorUnitGrant 0) stGrant)).member? 0 0).map (fun y => y.wait) = some .none := by decide +kernel
def mmaWord : Word := 0x8100120000000000
/-- 1.5 · 2 + 2 · 4 = 11, which TRD writes as FP32. -/
def stMma : State := stTen mmaWord
theorem test_mma : ControlAt stMma 0 0 oneLaunch tenMember 0x81 mmaWord ∧ (stMma.dev.ce 0).tensor = some (0, 0) ∧ iTA mmaWord.toNat = 1 ∧
    iTB mmaWord.toNat = 2 ∧ mmaExc oneLaunch (stMma.dev.ce 0) (some tA) (some tB) = none ∧
    (((devAfter (exec (.mma (.control 0 0) mmaWord) stMma)).ce 0).cell 0 0).used = true ∧
    (((devAfter (exec (.mma (.control 0 0) mmaWord) stMma)).ce 0).cell 0 1).used = false := by decide +kernel
theorem test_mma_object : ControlAt (stTen (tenWord 0x81 0 4 2 0 0)) 0 0 oneLaunch tenMember 0x81 (tenWord 0x81 0 4 2 0 0) ∧
    tenMember.handle 4 = none ∧ ((devAfter (exec (.mma (.control 0 0) (tenWord 0x81 0 4 2 0 0)) (stTen (tenWord 0x81 0 4 2 0 0)))).launch? 0).map
      (fun x => x.status) = some .range := by decide +kernel
def trdWord : Word := 0x8205000000003000
def stTrd : State := st 50 ((devAfter (exec (.mma (.control 0 0) mmaWord) stMma)).modCe 0 (fun e => { e with
  sqc := [{ ctx := 9, ava := 0x1000, insn := true, lg := 16, dirty := false, dpa := 0x1000, data := leBytes 8 0 ++ leBytes 8 trdWord.toNat }] }))
theorem test_trd : (stTrd.dev.member? 0 0).map (fun y => decide (ControlAt stTrd 0 0 oneLaunch y 0x82 trdWord ∧ y.handle 5 = some tD)) = some true ∧
    trdExc oneLaunch trdWord.toNat (some tD) none = none ∧ bit trdWord.toNat 11 = false ∧ bit trdWord.toNat 15 = false ∧
    ((devAfter (exec (.trd (.control 0 0) trdWord) stTrd)).ce 0).tpend.map (fun p => p.2) = leBytes 4 0x41300000 ∧
    ((devAfter (exec (.trd (.control 0 0) trdWord) stTrd)).ce 0).tensor = none ∧
    ((devAfter (exec (.trd (.control 0 0) trdWord) stTrd)).ce 0).acc = [] := by decide +kernel
def wideLaunch : Launch := { oneLaunch with lsUnits := 16 }
def stCbld : State := st 50 ((devTen (tenWord 0x83 0 0 0 8 2)).modLaunch 0 (fun _ => wideLaunch))
theorem test_cbld : ControlAt stCbld 0 0 wideLaunch tenMember 0x83 (tenWord 0x83 0 0 0 8 2) ∧ (stCbld.dev.ce 0).tensor = some (0, 0) ∧
    (tenMember.sget 8).toNat % 64 = 0 ∧ 0x100 + 32768 ≤ wideLaunch.lsSize ∧ iTFN (tenWord 0x83 0 0 0 8 2).toNat = 2 ∧
    pcAfter (exec (.cbld (.control 0 0) (tenWord 0x83 0 0 0 8 2)) stCbld) = some 0x1008 := by decide +kernel

/-! ### Commands -/

/-- s10 = 0x300, s11 = 0x40000, s12 = 64, s13 = 0x400 (a request block), s14 a misaligned length. -/
def cmdMember : Member := { oneMember with s := [(10, 0x300#64), (11, 0x40000#64), (12, 64#64), (13, 0x400#64), (14, 33#64), (15, 1#64)] }
/-- A gather list of one entry of 16 bytes at Local Store 0x500; a KVG or KVA block at 0x400 for one entry at 0x500 of slot 3. -/
def devCmd (w : Word) : Dev := ((((devEng cmdMember w).setTlb (tlbCe 0) [{ ctx := 9, page := pageU }]).setSlot 3
  { oneSlot with stepOpen := true, length := 0 }).memPut 0x40000 (leBytes 8 41)).lsWrite cmdMember 0x300 (leBytes 8 99)
def stCmd (w : Word) : State := st 50 (devCmd w)
def cmdOut (w : Word) (i : Issuer → Word → Instr) : Host.Outcome State Fault Refusal := exec (i (.control 0 0) w) (stCmd w)
def queued (o : Host.Outcome State Fault Refusal) : List (Nat × Nat × Bool) := (devAfter o).eng.cmds.map (fun c => (c.1, c.2.sl, c.2.started))
/-- `get q0` with SD s10, SA s11, SL s12, ticket in s20 and the Stream hint. -/
def getWord : Word := 0x90000A0B0C001440
theorem test_get : ControlAt (stCmd getWord) 0 0 oneLaunch cmdMember 0x90 getWord ∧ commandFields .get getWord.toNat = true ∧
    (stCmd getWord).dev.dmaExc oneLaunch cmdMember .get getWord.toNat = none ∧ queued (cmdOut getWord .get) = [(0, 64, true)] ∧
    scalarAfter (cmdOut getWord .get) 20 = some 1#64 := by decide +kernel
def queWord (op sd sa sl sx st md : Nat) : Word := BitVec.ofNat 64 (op * 2 ^ 56 + sd * 2 ^ 40 + sa * 2 ^ 32 + sl * 2 ^ 24 + sx * 2 ^ 16 + st * 2 ^ 8 + md)
def putWord : Word := queWord 0x91 10 11 12 0 20 0
theorem test_put : ControlAt (stCmd putWord) 0 0 oneLaunch cmdMember 0x91 putWord ∧ commandFields .put putWord.toNat = true ∧
    (stCmd putWord).dev.dmaExc oneLaunch cmdMember .put putWord.toNat = none ∧ queued (cmdOut putWord .put) = [(0, 64, true)] := by decide +kernel
/-- A list entry (AVA 0x40000, 16 bytes) at s11's Local Store place is needed: SX names s13 = 0x400. -/
def devList (w : Word) : Dev := (devCmd w).lsWrite cmdMember 0x400 (leBytes 8 0x40000 ++ leBytes 4 16 ++ leBytes 4 0)
def gatherWord : Word := queWord 0x92 10 0 15 13 20 0
def scatterWord : Word := queWord 0x93 10 0 15 13 20 0
theorem test_gather : ControlAt (st 50 (devList gatherWord)) 0 0 oneLaunch cmdMember 0x92 gatherWord ∧
    commandFields .gather gatherWord.toNat = true ∧ (devList gatherWord).dmaExc oneLaunch cmdMember .gather gatherWord.toNat = none ∧
    queued (exec (.gather (.control 0 0) gatherWord) (st 50 (devList gatherWord))) = [(0, 1, true)] := by decide +kernel
theorem test_scatter : ControlAt (st 50 (devList scatterWord)) 0 0 oneLaunch cmdMember 0x93 scatterWord ∧
    commandFields .scatter scatterWord.toNat = true ∧ (devList scatterWord).dmaExc oneLaunch cmdMember .scatter scatterWord.toNat = none ∧
    queued (exec (.scatter (.control 0 0) scatterWord) (st 50 (devList scatterWord))) = [(0, 1, true)] := by decide +kernel
def redWord (sl : Nat) : Word := queWord 0x94 10 11 sl 0 20 0
theorem test_red : ControlAt (stCmd (redWord 12)) 0 0 oneLaunch cmdMember 0x94 (redWord 12) ∧ commandFields .red (redWord 12).toNat = true ∧
    (stCmd (redWord 12)).dev.dmaExc oneLaunch cmdMember .red (redWord 12).toNat = none ∧ queued (cmdOut (redWord 12) .red) = [(0, 64, true)] := by decide +kernel
theorem test_red_length : ControlAt (stCmd (redWord 14)) 0 0 oneLaunch cmdMember 0x94 (redWord 14) ∧
    (cmdMember.sget 14).toNat % 32 = 1 ∧ ((devAfter (cmdOut (redWord 14) .red)).launch? 0).map (fun x => x.status) = some .range := by decide +kernel
def fillWord : Word := queWord 0x95 0 11 12 13 20 0
theorem test_fill : ControlAt (stCmd fillWord) 0 0 oneLaunch cmdMember 0x95 fillWord ∧ commandFields .fill fillWord.toNat = true ∧
    (stCmd fillWord).dev.dmaExc oneLaunch cmdMember .fill fillWord.toNat = none ∧ queued (cmdOut fillWord .fill) = [(0, 64, true)] := by decide +kernel
theorem test_get_range : ControlAt (stCmd (queWord 0x90 11 11 12 0 20 0)) 0 0 oneLaunch cmdMember 0x90 (queWord 0x90 11 11 12 0 20 0) ∧
    (stCmd 0).dev.dmaExc oneLaunch cmdMember .get (queWord 0x90 11 11 12 0 20 0).toNat = some excLsRange ∧
    ((devAfter (cmdOut (queWord 0x90 11 11 12 0 20 0) .get)).launch? 0).map (fun x => x.status) = some .range := by decide +kernel
/-- A KVG or KVA block at Local Store 0x400: one entry, list 0x500, destination 0x600 of 256 bytes, index 0x700, bytes 0 to 15 of
layer 0; the entry appends two positions of slot 3. -/
def kvBlock : List Byte := leBytes 2 1 ++ leBytes 1 0 ++ leBytes 1 0 ++ leBytes 4 0x500 ++ leBytes 4 0x600 ++ leBytes 4 256 ++ leBytes 4 0x700 ++
  leBytes 2 0 ++ leBytes 2 16 ++ leBytes 40 0
def devKv (w : Word) : Dev := ((devCmd w).lsWrite cmdMember 0x400 kvBlock).lsWrite cmdMember 0x500 (leBytes 2 3 ++ leBytes 2 0 ++ leBytes 4 0 ++ leBytes 4 2 ++ leBytes 4 0)
def seWord (op : Nat) : Word := queWord op 13 0 0 0 20 0
theorem test_kvg : ControlAt (st 50 (devKv (seWord 0xA0))) 0 0 oneLaunch cmdMember 0xA0 (seWord 0xA0) ∧
    commandFields .kvg (seWord 0xA0).toNat = true ∧ Dev.kvExc false (devKv (seWord 0xA0)) oneLaunch cmdMember (seWord 0xA0).toNat = none ∧
    queued (exec (.kvg (.control 0 0) (seWord 0xA0)) (st 50 (devKv (seWord 0xA0)))) = [(0, 0, true)] := by decide +kernel
theorem test_kva : ControlAt (st 50 (devKv (seWord 0xA1))) 0 0 oneLaunch cmdMember 0xA1 (seWord 0xA1) ∧
    commandFields .kva (seWord 0xA1).toNat = true ∧ Dev.kvExc true (devKv (seWord 0xA1)) oneLaunch cmdMember (seWord 0xA1).toNat = none ∧
    queued (exec (.kva (.control 0 0) (seWord 0xA1)) (st 50 (devKv (seWord 0xA1)))) = [(0, 0, true)] := by decide +kernel
/-- An LCHK block for slot 3 (list 0x500, results 0x600), and an XDISP block for one token of slot 3 with one candidate. -/
def lchkBlock : List Byte := leBytes 2 1 ++ leBytes 2 0 ++ leBytes 4 0x500 ++ leBytes 4 0x600 ++ leBytes 2 1 ++ leBytes 2 0 ++ leBytes 48 0
def xdispBlock : List Byte := leBytes 2 1 ++ leBytes 1 1 ++ leBytes 1 1 ++ leBytes 4 0x500 ++ leBytes 4 0x580 ++ leBytes 4 0x600 ++ leBytes 4 64 ++
  leBytes 4 0x700 ++ leBytes 2 1 ++ leBytes 2 0 ++ leBytes 2 4 ++ leBytes 34 0
def devSe (b : List Byte) (w : Word) : Dev := ((devCmd w).lsWrite cmdMember 0x400 b).lsWrite cmdMember 0x500 (leBytes 2 3 ++ leBytes 2 0)
theorem test_lchk : ControlAt (st 50 (devSe lchkBlock (seWord 0xA3))) 0 0 oneLaunch cmdMember 0xA3 (seWord 0xA3) ∧
    commandFields .lchk (seWord 0xA3).toNat = true ∧ (devSe lchkBlock (seWord 0xA3)).lchkExc oneLaunch cmdMember (seWord 0xA3).toNat = none ∧
    queued (exec (.lchk (.control 0 0) (seWord 0xA3)) (st 50 (devSe lchkBlock (seWord 0xA3)))) = [(0, 0, true)] := by decide +kernel
theorem test_xdisp : ControlAt (st 50 (devSe xdispBlock (seWord 0xA2))) 0 0 oneLaunch cmdMember 0xA2 (seWord 0xA2) ∧
    commandFields .xdisp (seWord 0xA2).toNat = true ∧ (devSe xdispBlock (seWord 0xA2)).xdispExc oneLaunch cmdMember (seWord 0xA2).toNat = none ∧
    queued (exec (.xdisp (.control 0 0) (seWord 0xA2)) (st 50 (devSe xdispBlock (seWord 0xA2)))) = [(0, 0, true)] := by decide +kernel

/-! ### Completion of commands -/

def putIssued : State := st 60 (devAfter (cmdOut putWord .put))
theorem test_commandComplete_put :
    (mapFind? putIssued.dev.eng.cmds 0).map (fun c => decide (c.op = .put ∧ c.twoD = false ∧ c.rb = false ∧ c.row = 0 ∧ c.off = 0 ∧
      c.started = true ∧ c.fault = false ∧ c.sl = 64)) = some true ∧
    (match (Dev.access 60 putIssued.dev (tlbCe 0) 9 0x40000 true true false).1 with
      | .ok p => decide (p = pageU)
      | _ => false) = true ∧
    (devAfter (exec (.commandComplete 0) putIssued)).eng.cmds = [] ∧
    memNat (devAfter (exec (.commandComplete 0) putIssued)).mem 0x40000 8 = 99 := by decide +kernel
def getIssued : State := st 60 (devAfter (cmdOut getWord .get))
theorem test_commandComplete_get : (devAfter (exec (.commandComplete 0) getIssued)).eng.cmds = [] ∧
    (devAfter (exec (.commandComplete 0) getIssued)).lsNat cmdMember 0x300 8 = 41 := by decide +kernel
/-- KVA with a KV pool of one HBM frame (0x100): two positions of 16 bytes are appended to the FREE entry 16. -/
def devAppend : Dev := ((((devKv (seWord 0xA1)).fset F.seqePoolCfgValid 0 1).modPool 0 (fun p => { p with free := [0x100] })).modCtx 9
  (fun x => { x with res := { x.res with kv := 4, hbm := 64 } })).lsWrite cmdMember 0x600 (leBytes 8 55)
def appendIssued : State := st 60 (devAfter (exec (.kva (.control 0 0) (seWord 0xA1)) (st 50 devAppend)))
theorem test_commandComplete_kva :
    (mapFind? appendIssued.dev.eng.cmds 0).map (fun c => decide (c.op = .kva ∧ c.started = true)) = some true ∧
    (Dev.appendList 60 0 oneLaunch cmdMember (appendIssued.dev.kvReq cmdMember 0x400)
      (appendIssued.dev.kvaOffs cmdMember 16 1 0x500 0) [0] appendIssued.dev).1 = true ∧
    (devAfter (exec (.commandComplete 0) appendIssued)).eng.cmds = [] ∧
    (slotAfter (exec (.commandComplete 0) appendIssued) 3).pending = 4 ∧
    memNat (devAfter (exec (.commandComplete 0) appendIssued)).mem 0x1000000 8 = 55 := by decide +kernel
/-- KVG of positions 0 and 1 of the sequence, whose block now lies in frame 0x100. -/
def devGather : Dev := ((((devKv (seWord 0xA0)).setSlot 3 { oneSlot with length := 2 }).kvPut 16 (kvMake kvHbm 0 0x100 0)).memPut 0x1000000 (leBytes 8 55))
def gatherIssued : State := st 60 (devAfter (exec (.kvg (.control 0 0) (seWord 0xA0)) (st 50 devGather)))
theorem test_commandComplete_kvg :
    (mapFind? gatherIssued.dev.eng.cmds 0).map (fun c => decide (c.op = .kvg ∧ c.started = true)) = some true ∧
    (devAfter (exec (.commandComplete 0) gatherIssued)).eng.cmds = [] ∧
    (devAfter (exec (.commandComplete 0) gatherIssued)).lsNat cmdMember 0x600 8 = 55 ∧
    (devAfter (exec (.commandComplete 0) gatherIssued)).lsNat cmdMember 0x708 4 = 2 := by decide +kernel
/-- LCHK of layer 0 of model 1, whose window entry is not yet RESIDENT, so that the answer is held; and after it is. XDISP of an
expert that no window names. -/
def devWin (e : EntSt) (b : List Byte) (w : Word) : Dev := (devSe b w).modTier (fun z => { z with wins := [(winKey 0 1,
  { ctx := 9, period := 1000, budget := 0, ents := [{ layer := 0, expert := 0xFFFF, ava := 0, len := 65536, start := 0, due := 0, leave := 0, st := e, pages := [] }] })] })
def lchkHeld : State := st 60 (devAfter (exec (.lchk (.control 0 0) (seWord 0xA3)) (st 50 (devWin .promoting lchkBlock (seWord 0xA3)))))
def lchkReady : State := st 60 (devAfter (exec (.lchk (.control 0 0) (seWord 0xA3)) (st 50 (devWin .resident lchkBlock (seWord 0xA3)))))
def xdispReady : State := st 60 (devAfter (exec (.xdisp (.control 0 0) (seWord 0xA2)) (st 50 (devSe xdispBlock (seWord 0xA2)))))
theorem test_commandComplete_lchk :
    (mapFind? lchkReady.dev.eng.cmds 0).map (fun c => decide (c.op = .lchk ∧ c.started = true ∧ c.answers ≠ [] ∧ c.held = [])) = some true ∧
    (devAfter (exec (.commandComplete 0) lchkReady)).eng.cmds = [] := by decide +kernel
theorem test_commandComplete_xdisp :
    (mapFind? xdispReady.dev.eng.cmds 0).map (fun c => decide (c.op = .xdisp ∧ c.started = true ∧ c.answers ≠ [] ∧ c.held = [])) = some true ∧
    (devAfter (exec (.commandComplete 0) xdispReady)).eng.cmds = [] ∧
    (devAfter (exec (.commandComplete 0) xdispReady)).lsNat cmdMember 0x604 4 = 1 := by decide +kernel
def lchkPromoted : State := { lchkHeld with dev := lchkHeld.dev.modTier (fun z => { z with wins := (devWin .resident [] 0).tier.wins }) }
theorem test_heldAnswerDecided :
    (mapFind? lchkPromoted.dev.eng.cmds 0).map (fun c => decide (c.op = .lchk ∧ c.held.any (fun a => a.idx == 0) = true ∧ c.answer? 0 = none ∧
      c.failOf (lchkPromoted.dev.idxSlot cmdMember c 0) = none ∧ lchkPromoted.dev.idxSlot cmdMember c 0 = 3)) = some true ∧
    lchkPromoted.dev.phase 0 3 = .stepOpen ∧ lchkPromoted.dev.layerResidency 9 1 0 = .resident ∧
    (mapFind? (devAfter (exec (.heldAnswerDecided 0 0) lchkPromoted)).eng.cmds 0).map (fun c => (c.answers, c.held.length)) =
      some ([(0, [0, 0, 0])], 0) := by decide +kernel

/-! ### Tiers -/

/-- A page table of context 9: AVA 0 a MOVABLE page in DDR, 0x1_0000 a MOVABLE page in HBM, 0x2_0000 a FIXED page in HBM that holds a
window's schedule, 0x3_0000 a WINDOWED page in DDR. -/
def ptMem : Memory :=
  let put := fun (x : Memory × Nat × Nat) => memWriteBytes x.1 x.2.1 (leBytes 8 x.2.2)
  let m := put ([], 0x100000, 0x200001)
  let m := put (m, 0x200000, 0x201001)
  let m := put (m, 0x201000, 0x202001)
  let m := put (m, 0x202000, 0x100000010047)
  let m := put (m, 0x202008, 0x300043)
  let m := put (m, 0x202010, 0x310007)
  let m := put (m, 0x202018, 0x100000020083)
  memWriteBytes m 0x310000 (leBytes 2 1 ++ leBytes 2 1 ++ leBytes 4 0 ++ leBytes 8 0 ++ leBytes 4 1 ++ leBytes 44 0 ++
    (leBytes 2 0 ++ leBytes 2 0xFFFF ++ leBytes 4 1 ++ leBytes 8 0x30000 ++ leBytes 4 0 ++ leBytes 4 100 ++ leBytes 4 0xFFFFFFFF ++ leBytes 4 0))
/-- The device with that table and the page pools of HBM and DDR, 64 KiB, each with one free frame. -/
def devPages (r : Desc) : Dev :=
  ((((((((((devReq r).fset F.ddrcChStatusState 0 1).fset F.ddrcChStatusState 1 1).fset F.ddrcChStatusGib 0 64).fset F.ddrcChStatusGib 1
    64).setMem ptMem).modCtx 9 (fun x => { x with root := 0x100000 })).fset
    F.prtPgpoolCfgValid 0 1).fset F.prtPgpoolCfgValid 2 1).modPool 64 (fun p => { p with free := [0x40] })).modPool 66 (fun p => { p with free := [0x10000004] })
def stPages (r : Desc) : State := st 50 (devPages r)
def pagesTaken (r : Desc) : Dev := (devPages r).popDesc 5
def rangeDesc (op ava len : Nat) : Desc := reqDesc 5 op 0 (leBytes 6 1 ++ leBytes 8 ava ++ leBytes 8 len ++ leBytes 40 0)
def pageDdr : Page := { ava := 0, lg := 16, dpa := 0x100000010000, w := true, pin := false, cp := 0, tier := 1, leaf := 0x202000 }
def pageHbm : Page := { ava := 0x10000, lg := 16, dpa := 0x300000, w := false, pin := false, cp := 0, tier := 1, leaf := 0x202008 }
theorem test_promote : let r := rangeDesc 1 0 0x10000
    RequestAt (stPages r) 5 5 1 r 9 (pagesTaken r) ∧ (pagesTaken r).fon F.prtPromCtrlEnable ((pagesTaken r).partOfCtx 9) = true ∧
    rangeOk (r.at_ 8 8) (r.at_ 16 8) = true ∧
    (pagesTaken r).pagesOf 9 (r.at_ 16 8 / 65536) (r.at_ 8 8) (r.at_ 16 8) = some [pageDdr] ∧ bit (r.at_ 1 1) 0 = false ∧
    pageDdr.movable = true ∧ pageDdr.inDdr = true ∧ (pagesTaken r).tier.moves = [] ∧
    (Dev.startPages 50 0 9 true .demand ((pagesTaken r).modTier (fun z => { z with nextMove := 1 })) [pageDdr]).1.isSome = true ∧
    (devAfter (exec (.promote 5) (stPages r))).tier.moves.map (fun m => (m.2.src, m.2.dst, m.2.up)) = [(0x100000010000, some 0x400000, true)] ∧
    (devAfter (exec (.promote 5) (stPages r))).tier.reqs.map (fun q => q.left) = [[0]] := by decide +kernel
theorem test_demote : let r := rangeDesc 2 0x10000 0x10000
    RequestAt (stPages r) 5 5 2 r 9 (pagesTaken r) ∧
    (pagesTaken r).pagesOf 9 (r.at_ 16 8 / 65536) (r.at_ 8 8) (r.at_ 16 8) = some [pageHbm] ∧
    pageHbm.movable = true ∧ pageHbm.w = false ∧ pageHbm.inDdr = false ∧ (pagesTaken r).tier.moves = [] ∧
    (Dev.startPages 50 0 9 false .background ((pagesTaken r).modTier (fun z => { z with nextMove := 1 })) [pageHbm]).1.isSome = true ∧
    (devAfter (exec (.demote 5) (stPages r))).tier.moves.map (fun m => (m.2.src, m.2.dst, m.2.up)) = [(0x300000, some 0x100000040000, false)] := by
  decide +kernel
theorem test_promote_quota : let r := rangeDesc 1 0 0x10000
    let s := st 50 ((devPages r).modPool 64 (fun p => { p with free := [] }))
    RequestAt s 5 5 1 r 9 (s.dev.popDesc 5) ∧ (Dev.startPages 50 0 9 true .demand ((s.dev.popDesc 5).modTier (fun z => { z with nextMove := 1 })) [pageDdr]).1 = none ∧
    statuses (exec (.promote 5) s) = [.quota] := by decide +kernel
theorem test_promote_disabled : let r := rangeDesc 1 0 0x10000
    let s := st 50 ((devPages r).fset F.prtPromCtrlEnable 0 0)
    RequestAt s 5 5 1 r 9 (s.dev.popDesc 5) ∧ (s.dev.popDesc 5).fon F.prtPromCtrlEnable ((s.dev.popDesc 5).partOfCtx 9) = false ∧
    statuses (exec (.promote 5) s) = [.range] := by decide +kernel
/-- A request on model 1. -/
def winDesc (op a0 a1 a2 : Nat) : Desc := reqDesc 5 op 0 (leBytes 2 1 ++ leBytes 4 a0 ++ leBytes 8 a1 ++ leBytes 8 a2 ++ leBytes 40 0)
theorem test_windowSet : let r := winDesc 3 0 0x20000 0
    RequestAt (stPages r) 5 5 3 r 9 (pagesTaken r) ∧
    ((pagesTaken r).parseWindow 9 ((pagesTaken r).partOfCtx 9) (r.at_ 2 2) (r.at_ 8 8)).isSome = true ∧
    ((pagesTaken r).charge 9 false (2 ^ 21)).isSome = true ∧
    statuses (exec (.windowSet 5) (stPages r)) = [.ok] ∧
    (devAfter (exec (.windowSet 5) (stPages r))).tier.wins.map (fun w => (w.1, w.2.budget, w.2.ents.map (fun e => (e.layer, e.due)))) =
      [(1, 1, [(0, 100)])] := by decide +kernel
/-- The window of model 1: one entry of one page, in a state; base 1000 if it runs. -/
def wpage (hbm : Option Nat) : WPage := { ava := 0x30000, lg := 16, leaf := 0x202018, ddr := 0x100000020000, hbm }
def went (e : EntSt) (leave : Nat) (hbm : Option Nat) : WEnt :=
  { layer := 0, expert := 0xFFFF, ava := 0x30000, len := 65536, start := 0, due := 100, leave, st := e, pages := [wpage hbm] }
def win1 (e : WEnt) (base next : Option Nat) (arms : List WArm) : Win := { ctx := 9, period := 2000000, budget := 1, ents := [e], base, next, arms }
def devWindow (r : Desc) (x : Win) : Dev := (devPages r).modTier (fun z => { z with wins := [(winKey 0 1, x)] })
def stWindow (bt : Nat) (r : Desc) (x : Win) : State := st bt (devWindow r x)
def entStates (o : Host.Outcome State Fault Refusal) : List EntSt := (devAfter o).tier.wins.flatMap (fun w => w.2.ents.map (fun e => e.st))
theorem test_windowArm : let r := winDesc 4 0 0 0
    let x := win1 (went .idle 0xFFFFFFFF none) none none []
    RequestAt (stWindow 50 r x) 5 5 4 r 9 ((devWindow r x).popDesc 5) ∧
    ((devWindow r x).popDesc 5).win? (((devWindow r x).popDesc 5).partOfCtx 9) (r.at_ 2 2) = some x ∧ x.clearing = none ∧
    (devAfter (exec (.windowArm 5) (stWindow 50 r x))).tier.wins.map (fun w => w.2.arms.map (fun a => a.base)) = [[50]] := by decide +kernel
theorem test_windowClear : let r := winDesc 5 0 0 0
    let x := win1 (went .failed 0xFFFFFFFF none) none none []
    RequestAt (stWindow 50 r x) 5 5 5 r 9 ((devWindow r x).popDesc 5) ∧
    ((devWindow r x).popDesc 5).win? (((devWindow r x).popDesc 5).partOfCtx 9) (r.at_ 2 2) = some x ∧ x.arms = [] ∧ x.clearing = none ∧
    (∀ y ∈ x.ents, y.st = .idle ∨ y.st = .failed) ∧
    statuses (exec (.windowClear 5) (stWindow 50 r x)) = [.ok] ∧ (devAfter (exec (.windowClear 5) (stWindow 50 r x))).tier.wins = [] := by
  decide +kernel
theorem test_entryReset : let r := winDesc 6 0 0 0
    let x := win1 (went .failed 0xFFFFFFFF none) (some 1000) none []
    RequestAt (stWindow 50 r x) 5 5 6 r 9 ((devWindow r x).popDesc 5) ∧
    ((devWindow r x).popDesc 5).win? (((devWindow r x).popDesc 5).partOfCtx 9) (r.at_ 2 2) = some x ∧
    (x.ent? (r.at_ 4 4)).map (fun y => (y.st, (((devWindow r x).popDesc 5).pagesOf 9 (y.len / 65536) y.ava y.len).isSome)) = some (.failed, true) ∧
    entStates (exec (.entryReset 5) (stWindow 50 r x)) = [.waiting] := by decide +kernel
theorem test_tierQuery : let r := winDesc 7 0 0x7000 1
    let x := win1 (went .resident 0xFFFFFFFF none) none none []
    RequestAt (stWindow 50 r x) 5 5 7 r 9 ((devWindow r x).popDesc 5) ∧ pairIsHost 5 = true ∧ (devWindow r x).descCtx r = 9 ∧
    ((devWindow r x).ctx 9).ending = false ∧ (devWindow r x).fon F.prtPromCtrlEnable ((devWindow r x).partOfCtx 9) = true ∧
    (devWindow r x).win? ((devWindow r x).partOfCtx 9) (r.at_ 2 2) = some x ∧
    ((devWindow r x).popDesc 5).win? (((devWindow r x).popDesc 5).partOfCtx 9) (r.at_ 2 2) = some x ∧
    Out.hostWrite (pairPort 5) 0x7000 [4] ∈ (devAfter (exec (.tierQuery 5) (stWindow 50 r x))).out := by decide +kernel
theorem test_moveHold : let r := rangeDesc 8 0x10000 0x10000
    RequestAt (stPages r) 5 5 8 r 9 (pagesTaken r) ∧ ((pagesTaken r).pagesOf 9 (r.at_ 16 8 / 65536) (r.at_ 8 8) (r.at_ 16 8)).isSome = true ∧
    (pagesTaken r).tier.holds = [] ∧ statuses (exec (.moveHold 5) (stPages r)) = [.ok] ∧
    (devAfter (exec (.moveHold 5) (stPages r))).tier.holds = [{ ctx := 9, ava := 0x10000, len := 0x10000, req := none }] := by decide +kernel
theorem test_moveRelease : let r := rangeDesc 9 0x10000 0x10000
    let h : Hold := { ctx := 9, ava := 0x10000, len := 0x10000, req := none }
    let d := (devPages r).modTier (fun z => { z with holds := [h] })
    RequestAt (st 50 d) 5 5 9 r 9 (d.popDesc 5) ∧
    (d.popDesc 5).tier.holds.find? (fun h => h.ctx == 9 && h.ava == r.at_ 8 8 && h.len == r.at_ 16 8) = some h ∧
    (devAfter (exec (.moveRelease 5) (st 50 d))).tier.holds = [] := by decide +kernel
theorem test_pagePoolGrow : let r := reqDesc 5 0x10 0 (leBytes 6 0 ++ leBytes 8 0x500000 ++ leBytes 4 2 ++ leBytes 44 0)
    let s := st 50 ((devPages r).fset F.prtPgpoolCapCap 0 10)
    let d := s.dev.popDesc 5
    RequestAt s 5 5 0x10 r 9 d ∧ d.partOfCtx 9 = 0 ∧ pagePool 0 (bits (r.at_ 1 1) 1 0) = 64 ∧ r.at_ 16 4 = 2 ∧ d.poolValid 64 = true ∧
    r.at_ 8 8 % d.poolFrame 64 = 0 ∧ d.inTier (d.poolDdr 64) 0 (r.at_ 8 8) (2 * d.poolFrame 64) = true ∧
    (d.pool 64).free.length + (d.pool 64).wiping + 2 ≤ d.poolCap 64 ∧
    ((devAfter (exec (.pagePoolGrow 5) s)).pool 64).free = [0x40, 0x50, 0x51] := by decide +kernel
theorem test_pagePoolShrink : let r := reqDesc 5 0x11 0 (leBytes 6 0 ++ leBytes 8 0x7000 ++ leBytes 4 1 ++ leBytes 44 0)
    RequestAt (stPages r) 5 5 0x11 r 9 (pagesTaken r) ∧ pairIsHost 5 = true ∧ (devPages r).descCtx r = 9 ∧ ((devPages r).ctx 9).ending = false ∧
    Out.hostWrite (pairPort 5) 0x7000 [0x40, 0, 0, 0] ∈ (devAfter (exec (.pagePoolShrink 5) (stPages r))).out ∧
    ((devAfter (exec (.pagePoolShrink 5) (stPages r))).pool 64).free = [] := by decide +kernel
def noDesc : Desc := reqDesc 5 0 0 []
theorem test_windowPassStart : let q : WArm := { pair := 5, tag := 7, base := 40 }
    let x := win1 (went .idle 0xFFFFFFFF none) none none [q]
    (devWindow noDesc x).win? 0 1 = some x ∧ x.clearing = none ∧ x.arms.find? (fun r => decide (r.base ≤ 50)) = some q ∧
    entStates (exec (.windowPassStart 0 1) (stWindow 50 noDesc x)) = [.waiting] ∧
    statuses (exec (.windowPassStart 0 1) (stWindow 50 noDesc x)) = [.ok] := by decide +kernel
theorem test_windowPassStart_periodic :
    let x := win1 (went .idle 0xFFFFFFFF none) (some 0) (some 2000000) []
    (devWindow noDesc x).win? 0 1 = some x ∧ x.clearing = none ∧ x.arms = [] ∧ x.next = some 2000000 ∧
    (devAfter (exec (.windowPassStart 0 1) (stWindow 2000000 noDesc x))).tier.wins.map (fun w => (w.2.base, w.2.next)) =
      [(some 2000000, some 4000000)] := by decide +kernel
theorem test_windowEntryStart :
    let x := win1 (went .waiting 0xFFFFFFFF none) (some 1000) none []
    (devWindow noDesc x).win? 0 1 = some x ∧ x.ent? 0 = some (went .waiting 0xFFFFFFFF none) ∧ x.clearing = none ∧ x.fits 0 65536 = true ∧
    x.first = some 0 ∧ (devWindow noDesc x).fon F.prtPromCtrlEnable 0 = true ∧
    entStates (exec (.windowEntryStart 0 1 0) (stWindow 5000 noDesc x)) = [.promoting] ∧
    (devAfter (exec (.windowEntryStart 0 1 0) (stWindow 5000 noDesc x))).tier.moves.map (fun m => (m.2.src, m.2.dst)) =
      [(0x100000020000, some 0x400000)] := by decide +kernel
theorem test_windowEntryLeave :
    let y := went .resident 200 (some 0x400000)
    let x := win1 y (some 1000) none []
    (devWindow noDesc x).win? 0 1 = some x ∧ x.ent? 0 = some y ∧ y.st = .resident ∧
    entStates (exec (.windowEntryLeave 0 1 0) (stWindow 201000 noDesc x)) = [.leaving] ∧
    (devAfter (exec (.windowEntryLeave 0 1 0) (stWindow 201000 noDesc x))).tier.moves.map (fun m => (m.2.src, m.2.dst)) =
      [(0x400000, some 0x100000020000)] := by decide +kernel
theorem test_promotionDeadline :
    let x := win1 (went .waiting 0xFFFFFFFF none) (some 1000) none []
    let s := st 102000 ((devWindow noDesc x).setWheel 0 [{ ev := .promo 0 1 0, order := 0, due := 101000, bucket := 101, lvl := .fine, seq := 0 }])
    (s.dev.fire 102000 0 (.promo 0 1 0)).isSome = true ∧ entStates (exec (.promotionDeadline 0 1 0) s) = [.late] ∧
    (devAfter (exec (.promotionDeadline 0 1 0) s)).fget F.prtPromStat1LateEntries 0 = 1 := by decide +kernel
/-- The move of the page at AVA 0x1_0000 from HBM to DDR, at some point. -/
def mover (n : Nat) (cls : MoveCls) : Move := { part := 0, die := 0, obj := .page 9 0x10000 0x202008, up := false, cls, src := 0x300000
                                                dst := some 0x100000040000, len := 65536, moved := n, begun := n != 0, since := 20, leafVal := 0x300043 }
def stMove (bt : Nat) (m : Move) : State := st bt ((devPages noDesc).modTier (fun z => { z with moves := [(0, m)], nextMove := 1 }))
theorem test_moverBurst : (stMove 50 (mover 4096 .background)).dev.nextBurst 0 = some (0, mover 4096 .background) ∧
    (mover 4096 .background).begun = true ∧ (mover 4096 .background).urgent = false ∧
    (devAfter (exec (.moverBurst 0) (stMove 50 (mover 4096 .background)))).tier.moves.map (fun m => (m.2.moved, m.2.since)) =
      [(65536, 50)] := by decide +kernel
theorem test_moverBurst_first :
    (devAfter (exec (.moverBurst 0) (stMove 50 (mover 0 .background)))).tier.moves.map (fun m => (m.2.moved, m.2.begun)) = [(65536, true)] := by
  decide +kernel
theorem test_moverBurst_none : (stPages noDesc).dev.nextBurst 0 = none := by decide +kernel
theorem test_starvationHorizon : (stPages noDesc).dev.fget F.prtPromAgeHorizonUs 0 * 1000 + 20 < 2 ^ 40 ∧
    (devAfter (exec (.starvationHorizon 0) (stMove (2 ^ 40) (mover 0 .background)))).tier.moves.map (fun m => m.2.urgent) = [true] := by decide +kernel
theorem test_moveCommit : (mover 65536 .background).begun = true ∧ (mover 65536 .background).moved = (mover 65536 .background).len ∧
    memNat (devAfter (exec (.moveCommit 0) (stMove 50 (mover 65536 .background)))).mem 0x202008 8 = 0x100000040043 ∧
    (devAfter (exec (.moveCommit 0) (stMove 50 (mover 65536 .background)))).tier.moves = [] ∧
    (devAfter (exec (.moveCommit 0) (stMove 50 (mover 65536 .background)))).tier.wipes.length = 1 := by decide +kernel
theorem test_wipeDone : let s := st 60 (devAfter (exec (.moveCommit 0) (stMove 50 (mover 65536 .background))))
    (mapFind? s.dev.tier.wipes 0).map (fun w => s.dev.wipeMay w.frame) = some true ∧ s.dev.wipeMove 0 = none ∧
    (devAfter (exec (.wipeDone 0) s)).tier.wipes = [] := by decide +kernel

/-! ### Resident cores -/

/-- Hart 2 runs on core 2; every other core is stopped. -/
def devHart : Dev := ({} : Dev).setCore 2 { st := .running, logical := some 2 }
def x10 (o : Host.Outcome State Fault Refusal) : Word × Word := (mapGet 0#64 ((devAfter o).hart 2).x 10, ((devAfter o).hart 2).pc)
def running (o : Host.Outcome State Fault Refusal) : List Nat := (List.range 8).filter (fun h => (devAfter o).runs h)
theorem test_fwiVersion : let d := devHart.modCpx (fun z => { z with fwiVer := [(0, 0x102)] })
    d.runs 2 = true ∧ (d.hart 2).mode = 1 ∧ x10 (exec (.fwiVersion ⟨2, 1⟩) (st 0 d)) = (0x102#64, 4#64) ∧ x10 (exec (.fwiVersion ⟨2, 7⟩) (st 0 d)) = (-3#64, 4#64) := by decide +kernel
theorem test_hartStart : devHart.partOfHart 3 = devHart.partOfHart 2 ∧ devHart.coreOf 3 = some 3 ∧ (devHart.core 3).st = .stopped ∧
    devHart.domOn (coreDomain 3) = true ∧ running (exec (.hartStart 2 3 0x4000#64 5#64) (st 0 devHart)) = [2, 3] ∧
    ((devAfter (exec (.hartStart 2 3 0x4000#64 5#64) (st 0 devHart))).hart 3).pc = 0x4000#64 := by decide +kernel
theorem test_hartStart_gated : let d := devHart.modPow (fun z => { z with off := [97] })
    d.coreOf 7 = some 8 ∧ (d.core 8).st = .stopped ∧ d.domOn (coreDomain 8) = false ∧
    running (exec (.hartStart 2 7 0x4000#64 5#64) (st 0 d)) = [2] ∧
    (devAfter (exec (.hartStart 2 7 0x4000#64 5#64) (st 0 d))).cpx.starting.length = 1 := by decide +kernel
theorem test_hartStart_foreign : let d := devHart.fset F.prtLayoutCurrent 0 0xFF
    d.partOfHart 95 ≠ d.partOfHart 2 ∧ x10 (exec (.hartStart 2 95 0#64 0#64) (st 0 d)) = (-1#64, 4#64) := by decide +kernel
theorem test_hartStop : devHart.coreOf 2 = some 2 ∧ ((devHart.drainStores 2).core 2).st = .running ∧
    running (exec (.hartStop 2) (st 0 devHart)) = [] := by decide +kernel
theorem test_hartLostEntry : (devAfter (exec (.hartLostEntry 2 0x5000#64) (st 0 devHart))).cpx.lostEntry = [(0, 0x5000)] := by decide +kernel
theorem test_logNotify : (devAfter (exec (.logNotify 2 3 511) (st 0 devHart))).cpx.logNotify = [(0, (3, 511))] := by decide +kernel
theorem test_clusterIdle : devHart.clusterIdle 12 = true ∧ x10 (exec (.clusterIdle 2 12) (st 0 devHart)) = (0#64, 4#64) ∧
    (devAfter (exec (.clusterIdle 2 12) (st 0 devHart))).pow.off = [108] := by decide +kernel
theorem test_clusterIdle_busy : devHart.clusterIdle 0 = false ∧ x10 (exec (.clusterIdle 2 0) (st 0 devHart)) = (-2#64, 4#64) := by
  decide +kernel
def withStore (r : List RegStore) (t : List Nat) : Dev := devHart.modHart 2 (fun x => { x with stores := [(0x40, [7])], regStores := r, timedOut := t })
theorem test_coreFence : (withStore [] []).runs 2 = true ∧ (((withStore [] []).drainStores 2).hart 2).regStores = [] ∧
    memRead (devAfter (exec (.coreFence 2 none) (st 0 (withStore [] [])))).mem 0x40 = 7 ∧
    ((devAfter (exec (.coreFence 2 none) (st 0 (withStore [] [])))).hart 2).pc = 4#64 := by decide +kernel
def oneRegStore : RegStore := { addr := 0x88, value := 1, bt := 5 }
/-- The register lies in the window of partition 0, which is parked. -/
def parkedStore : Dev := (withStore [{ oneRegStore with addr := regBase + 0x400088 }] []).fset F.pwrParkReq 0 1
theorem test_coreFence_waits : ((parkedStore.drainStores 2).hart 2).regStores.map (fun r =>
      (parkedStore.drainStores 2).deadPlace ((parkedStore.drainStores 2).partOfHart 2) (spacePlace (parkedStore.drainStores 2).layout (r.addr - regBase))) =
      [true] ∧ ((devAfter (exec (.coreFence 2 none) (st 0 parkedStore))).hart 2).pc = 0#64 := by decide +kernel
theorem test_coreFence_timedOut : ((withStore [] [0x88]).hart 2).timedOut = [0x88] ∧
    ((devAfter (exec (.coreFence 2 none) (st 0 (withStore [] [0x88])))).hart 2).trap = some (7, 0, 0x88) := by decide +kernel
theorem test_registerAccessTimeout_load : let d := (withStore [] []).modHart 2 (fun x => { x with regLoad := some (0x90, 5) })
    (d.hart 2).regLoad = some (0x90, 5) ∧
    ((devAfter (exec (.registerAccessTimeout 2 0x90 true) (st 100005 d))).hart 2).trap = some (5, 0, 0x90) := by decide +kernel
theorem test_registerAccessTimeout_store :
    ((withStore [oneRegStore] []).hart 2).regStores.find? (fun s => s.addr == 0x88 && decide (s.bt + 100000 ≤ 100005)) = some oneRegStore ∧
    ((devAfter (exec (.registerAccessTimeout 2 0x88 false) (st 100005 (withStore [oneRegStore] [])))).hart 2).timedOut = [0x88] := by
  decide +kernel
theorem test_architecturalRegisterError : (devHart.core 2).logical = some 2 ∧
    ((devAfter (exec (.architecturalRegisterError 2 true) (st 0 devHart))).core 7).logical = some 2 ∧
    (devAfter (exec (.coreRetireWatchdog 2 false) (st 0 devHart))).cpx.failing = [2] := by decide +kernel
/-- Hart 2 is lost; its partition has registered an entry or not. -/
def devFail (e : Map Nat) : Dev := devHart.modCpx (fun z => { z with failing := [2], lostEntry := e })
theorem test_hartLost : (devFail [(0, 0x6000)]).bootHart 0 = some 0 ∧
    ((devAfter (exec (.hartLost 2) (st 0 (devFail [(0, 0x6000)])))).hart 2).pc = 0x6000#64 ∧
    running (exec (.hartLost 2) (st 0 (devFail [(0, 0x6000)]))) = [2] ∧
    ((devAfter (exec (.hartLost 2) (st 0 (devFail [(0, 0x6000)])))).core 7).logical = some 2 ∧
    running (exec (.hartLost 2) (st 0 (devFail []))) = [] := by decide +kernel
def devNoSpare : Dev := (List.range 104).foldl
  (fun (d : Dev) k => if (d.core k).st = .spareFree then d.setCore k { d.core k with st := .mappedOut } else d) (devFail [(0, 0x6000)])
theorem test_hartLost_noSpare : let d := devNoSpare
    d.bootHart 0 = some 0 ∧ (d.core 2).logical = some 2 ∧ d.spareCore 2 = none ∧ running (exec (.hartLost 2) (st 0 d)) = [] ∧
    ((devAfter (exec (.hartLost 2) (st 0 d))).core 2).st = .mappedOut := by decide +kernel

/-! ### Shared cache and Kiorn -/

/-- Line 0x4000 of the partition with a directory entry. -/
def devDir (e : DirEnt) : Dev := devHart.modDir 0x4000 (fun _ => e)
def stDir (e : DirEnt) : State := st 10 (devDir e)
def dirAfter (o : Host.Outcome State Fault Refusal) : DirEnt := (devAfter o).dirEnt 0x4000
def holders (o : Host.Outcome State Fault Refusal) : Option Nat × Bool × Option Nat × List Nat :=
  ((dirAfter o).owner, (dirAfter o).mod, (dirAfter o).fwd, (dirAfter o).shar)
theorem test_rds : (devDir {}).lineOk 2 0x4000 = true ∧ (devDir {}).lineKey 2 0x4000 = 0x4000 ∧ (devDir {}).asked 2 0x4000 = false ∧
    (devDir {}).dirEnt 0x4000 = {} ∧ (devDir {}).homeOpen 2 0x4000 = true ∧ (devDir {}).coh.reqs = [] ∧ holders (exec (.rds 2 ⟨0x4000, none⟩) (stDir {})) = (some 2, false, none, []) := by decide +kernel
theorem test_rds_shared : (devDir { shar := [3] }).lineOk 2 0x4000 = true ∧
    holders (exec (.rds 2 ⟨0x4000, none⟩) (stDir { shar := [3] })) = (none, false, some 2, [3]) := by decide +kernel
def reqsAfter (o : Host.Outcome State Fault Refusal) : List (Nat × Option Nat × Nat) := (devAfter o).coh.reqs.map (fun p => (p.1, p.2.fwdTo, p.2.refused))
theorem test_rds_forward : (devDir { owner := some 3, mod := true }).asked 2 0x4000 = false ∧
    reqsAfter (exec (.rds 2 ⟨0x4000, none⟩) (stDir { owner := some 3, mod := true })) = [(0, some 3, 0)] := by decide +kernel
/-- All credits of owner 3 are taken. -/
def devFull : Dev := (devDir { owner := some 3, mod := true }).modCoh (fun z => { z with
  reqs := (List.range 8).map (fun i => (i, { agent := 10 + i, line := 0x4000, kind := .rds, fwdTo := some 3, bt := 0 })), nextReq := 8 })
theorem test_rds_refused : (devFull.requested 10 2 0x4000 .rds).mayForward 3 8 { agent := 2, line := 0x4000, kind := .rds, bt := 10 } = false ∧
    (reqsAfter (exec (.rds 2 ⟨0x4000, none⟩) (st 10 devFull))).getLast? = some (8, none, 1) := by decide +kernel
theorem test_rds_outside : (devDir {}).lineOk 2 0x7C00000000 = false ∧ (devDir {}).lineKey 2 0x7C00000000 = 0x7C00000000 ∧
    (devDir {}).dirEnt 0x7C00000000 = {} ∧
    ((devAfter (exec (.rds 2 ⟨0x7C00000000, none⟩) (stDir {}))).hart 2).trap = some (5, 0, 0x1F0000000000) := by decide +kernel
theorem test_rdx : (devDir { fwd := some 4, shar := [3, 5] }).lineOk 2 0x4000 = true ∧
    holders (exec (.rdx 2 ⟨0x4000, none⟩) (stDir { fwd := some 4, shar := [3, 5] })) = (some 2, true, none, []) := by decide +kernel
theorem test_upgrade : holders (exec (.upgrade 2 ⟨0x4000, none⟩) (stDir { fwd := some 4, shar := [2, 5] })) = (some 2, true, none, []) := by decide +kernel
/-- Owner 3 in M with a forwarded request of agent 2. -/
def devFwd (kind : ReqKind) : Dev := (devDir { owner := some 3, mod := true }).modCoh (fun z => { z with
  reqs := [(0, { agent := 2, line := 0x4000, kind, fwdTo := some 3, bt := 5 })], nextReq := 1 })
theorem test_fwds : ((devFwd .rds).oldestFwd 3 0x4000 true).isSome = true ∧
    holders (exec (.fwds 3 0x4000) (st 10 (devFwd .rds))) = (none, false, some 2, [3]) ∧
    (dirAfter (exec (.fwds 3 0x4000) (st 10 (devFwd .rds)))).dirty = true := by decide +kernel
theorem test_fwdx : ((devFwd .rdx).oldestFwd 3 0x4000 false).isSome = true ∧
    holders (exec (.fwdx 3 0x4000) (st 10 (devFwd .rdx))) = (some 2, true, none, []) := by decide +kernel
theorem test_eviction : holders (exec (.eviction (some 3) 0x4000) (stDir { owner := some 3, mod := true })) = (none, false, none, []) ∧
    (dirAfter (exec (.eviction (some 3) 0x4000) (stDir { owner := some 3, mod := true }))).dirty = true ∧
    (devAfter (exec (.eviction none 0x4000) (stDir { shar := [1] }))).coh.dir = [] := by decide +kernel
/-- A request of agent 2 that owner 3 has refused once, at 10. -/
def devRetry : Dev := (devDir { owner := some 3, mod := true }).modCoh (fun z => { z with
  reqs := [(0, { agent := 2, line := 0x4000, kind := .rds, refused := 1, last := 10, bt := 5 })], nextReq := 1 })
theorem test_creditRetry : reqsAfter (exec (.creditRetry 0) (st 2000 devRetry)) = [(0, some 3, 1)] ∧
    (devAfter (exec (.creditRetry 0) (st 10 devRetry))).coh.reqs = devRetry.coh.reqs := by decide +kernel
theorem test_kiornRequestTimeout :
    (((devRetry.dropReq 0).tlog (2 ^ 30) 5 51 (some 0) 2 (0x4000 * 64))).runs 2 = true ∧
    5 + devRetry.fget F.kioTimeoutReqUs 0 * 1000 ≤ 2 ^ 30 ∧
    ((devAfter (exec (.kiornRequestTimeout 0) (st (2 ^ 30) devRetry))).hart 2).trap = some (5, 0, 0x100000) := by decide +kernel
theorem test_sliceEccError : ∃ n, (devDir { dirty := true }).homeSlice (64 * 0x4000) = some n ∧
    (devAfter (exec (.sliceEccError n 0x4000 .corrected) (stDir { dirty := true }))).fget F.shcSliceStat2Corrected n = 1 ∧
    (devAfter (exec (.sliceEccError n 0x4000 .dirtyData) (stDir { dirty := true }))).poison = [0x4000] ∧
    holders (exec (.sliceEccError n 0x4000 .directory) (stDir { shar := [1, 2] })) = (none, false, none, []) :=
  ⟨((devDir { dirty := true }).homeSlice (64 * 0x4000)).getD 0, by decide +kernel⟩
theorem test_flitCrcFail : ({} : Dev).groupUp 3 1 = true ∧ ((devAfter (exec (.flitCrcFail 3 1) (st 10 {}))).laneGrp 3 1).errs = [10] ∧
    (devAfter (exec (.flitCrcFail 3 1) (st 10 {}))).fget F.kioLinkErrReplays 3 = 1 := by decide +kernel
/-- A lane group with one error more than RETRAIN_ERR. -/
def devErrs : Dev := ({} : Dev).setLaneGrp 3 1 { errs := List.replicate (({} : Dev).fget F.kioLinkCfgRetrainErr 3 + 1) 10, retrains := [] }
theorem test_laneGroupRetrain : devErrs.groupUp 3 1 = true ∧
    devErrs.fget F.kioLinkCfgRetrainErr 3 < ((devErrs.laneGrp 3 1).errs.filter (fun t => decide (20 < t + 1000000))).length ∧
    1 ≤ devErrs.fget F.kioLinkCfgSwapAfter 3 ∧
    (devErrs.fbump F.kioLinkErrRetrains 3 1).fget F.kioLinkCfgSwapAfter 3 = devErrs.fget F.kioLinkCfgSwapAfter 3 ∧
    ((devAfter (exec (.laneGroupRetrain 3 1 false) (st 20 devErrs))).laneGrp 3 1).retrains = [20] ∧
    (devAfter (exec (.laneGroupRetrain 3 1 true) (st 20 devErrs))).fget F.kioLinkStatusSpareUsed 3 = 2 := by decide +kernel
theorem test_partCfgWrite_refused : ({} : Dev).writeOk (.firmware 0) .shcPartCfg 0 0x88#64 = true ∧
    12 < ({} : Dev).fwould (.firmware 0) 0x88#64 F.shcPartCfgRbWays 0 + ({} : Dev).fwould (.firmware 0) 0x88#64 F.shcPartCfgKeepWays 0 ∧
    (devAfter (exec (.partCfgWrite (.firmware 0) 0 0x88#64) (st 0 {}))).fget F.shcCfgErrCfgErr 0 = 1 := by decide +kernel
def devRb : Dev := (({} : Dev).fset F.shcPartCfgRbWays 0 4).setRb 0 [(0, 7), (2 ^ 40, 9)]
theorem test_partCfgWrite : devRb.writeOk (.firmware 0) .shcPartCfg 0 2#64 = true ∧ devRb.fwould (.firmware 0) 2#64 F.shcPartCfgRbWays 0 = 2 ∧
    2 + devRb.fwould (.firmware 0) 2#64 F.shcPartCfgKeepWays 0 ≤ 12 ∧ devRb.fget F.shcPartCfgRbWays 0 = 4 ∧
    (devAfter (exec (.partCfgWrite (.firmware 0) 0 2#64) (st 0 devRb))).rbMem 0 = [(0, 7)] := by decide +kernel
theorem test_rdx_silent : (dirAfter (exec (.rdx 2 ⟨0x4000, none⟩) (stDir { owner := some 2 }))).mod = true := by decide +kernel

/-! ### HBM4 and DDR5 -/

theorem test_scrubWalk : let d := ((({} : Dev).fset F.arbEwSlotOwner 3 4).setWheel 8 [{ ev := .slot 3, order := 7, due := 5000, bucket := 5, lvl := .fine, seq := 0 }])
    d.slotDue 6000 8 4 = some 3 ∧ (d.fireSlot 6000 8 3 4).isSome = true := by decide +kernel
def devScrub : Dev := (({} : Dev).fset F.hbmcChSlotOwner 7 1).fset F.hbmcScrubCfgRows 0 16
theorem test_scrubStep : (devScrub.scrubStep 0 7 2 1 []).fget F.hbmcChScrubPtr 7 = 16 ∧
    (devScrub.scrubStep 0 7 2 1 []).fget F.hbmcChEccCorrected 7 = 2 := by decide +kernel
theorem test_hbmRepairs : ({} : Dev).chanState 7 = 0 ∧
    (devAfter (exec (.hbmLaneRepair 7 true) (st 0 {}))).fget F.hbmcChStatusLanesUsed 7 = 1 ∧
    (devAfter (exec (.hbmLaneRepair 7 false) (st 0 {}))).chanState 7 = 1 ∧
    (devAfter (exec (.hbmRowRepair 7 true) (st 0 {}))).fget F.hbmcChStatusRowsRepaired 7 = 1 ∧
    (devAfter (exec (.hbmRowRepair 7 false) (st 0 {}))).chanState 7 = 1 ∧
    (devAfter (exec (.hbmChannelFail 7) (st 0 {}))).chanState 7 = 3 := by decide +kernel
theorem test_chSlotWrite : ({} : Dev).writeOk (.firmware 0) .hbmcChSlot 7 0x1902#64 = true ∧
    ({} : Dev).fwould (.firmware 0) 0x1902#64 F.hbmcChSlotOwner 7 = 2 ∧
    (devAfter (exec (.chSlotWrite (.firmware 0) 7 0x1902#64) (st 0 {}))).fget F.hbmcChSlotOwner 7 = 2 := by decide +kernel
theorem test_chSlotWrite_conflict : devScrub.writeOk (.firmware 0) .hbmcChSlot 7 0x1902#64 = true ∧ devScrub.fget F.hbmcChSlotOwner 7 = 1 ∧
    devScrub.fwould (.firmware 0) 0x1902#64 F.hbmcChSlotOwner 7 = 2 ∧
    (devAfter (exec (.chSlotWrite (.firmware 0) 7 0x1902#64) (st 0 devScrub))).fget F.hbmcCfgErrConflict 0 = 1 := by decide +kernel
def devTest : Dev := ({} : Dev).fset F.hbmcChSlotOwner 7 3
theorem test_testStart : devTest.writeOk (.firmware 0) .hbmcChTestCfg 7 0x100000020#64 = true ∧ devTest.fget F.hbmcChSlotOwner 7 = 3 ∧
    (devAfter (exec (.testStart (.firmware 0) 7 0x100000020#64) (st 0 devTest))).fget F.hbmcChTestStatRunning 7 = 1 ∧
    (devAfter (exec (.testStart (.firmware 0) 7 0x100000020#64) (st 0 {}))).fget F.hbmcCfgErrCfgErr 0 = 1 := by decide +kernel
def devRuns : Dev := devAfter (exec (.testStart (.firmware 0) 7 0x100000020#64) (st 0 devTest))
theorem test_testStop : devRuns.writeOk (.firmware 0) .hbmcChTestCfg 7 0x100000040#64 = true ∧
    (devRuns.setReg .hbmcChTestCfg 7 (devRuns.afterWrite (.firmware 0) .hbmcChTestCfg 7 0x100000040#64)).fon F.hbmcChTestStatRunning 7 = true := by
  decide +kernel
theorem test_testDone : devRuns.fon F.hbmcChTestStatRunning 7 = true ∧
    (devAfter (exec (.testDone 7 3 0x99) (st 0 devRuns))).fget F.hbmcChTestStatErrors 7 = 3 ∧
    (devAfter (exec (.testDone 7 3 0x99) (st 0 devRuns))).fon F.hbmcChTestStatRunning 7 = false := by decide +kernel
/-- One partition of two dies at die 0. -/
def devTwo : Dev := ({} : Dev).fset F.prtLayoutCurrent 0 0x55
theorem test_ilCfgWrite : devTwo.writeOk (.firmware 0) .hbmcIlCfg 0 0x40#64 = true ∧ 1 < devTwo.dies 0 ∧ devTwo.admitted 0 = false ∧
    devTwo.fwould (.firmware 0) 0x40#64 F.hbmcIlCfgWideMib 0 = 64 ∧ 64 * 2 ^ 20 + 16 * 2 ^ 20 ≤ devTwo.chanCap ∧
    (devAfter (exec (.ilCfgWrite (.firmware 0) 0 0x40#64) (st 0 devTwo))).fget F.hbmcIlCfgWideMib 0 = 64 := by decide +kernel
theorem test_ilCfgWrite_admitted : let d := devTwo.setCtx 9 { st := .admitted }
    d.writeOk (.firmware 0) .hbmcIlCfg 0 0x40#64 = true ∧ d.admitted 0 = true ∧
    (devAfter (exec (.ilCfgWrite (.firmware 0) 0 0x40#64) (st 0 d))).fget F.hbmcCfgErrConflict 0 = 1 := by decide +kernel
theorem test_ddrByteLaneFail : let d := ({} : Dev).fset F.ddrcChStatusState 3 1
    d.fget F.ddrcChStatusState 3 ≠ 0 ∧
    (((d.fbump F.ddrcChEccCorrected 3 5).fbump F.ddrcChEccUncorr 3 0).histAdd 0 1 9 7 3).fget F.ddrcChStatusSpareLanes 3 < 2 ∧
    (devAfter (exec (.ddrByteLaneFail 3 5 []) (st 0 d))).fget F.ddrcChStatusSpareLanes 3 = 1 := by decide +kernel
/-- A Tour of one unit at 0x10_0000 with its channels claimed; memory holds a byte there. -/
def devTour : Dev := let d := ((({} : Dev).fset F.hbmcTourBaseAddr 0 0x800).fset F.hbmcTourLenUnits 0 1).setMem [(0x100004, 9)]
  (d.rangeChans 0x100000 512).foldl (fun d c => d.fset F.hbmcChSlotOwner c 2) d
theorem test_tour_go : devTour.writeOk (.firmware 0) .hbmcTourCmd 0 7#64 = true ∧ devTour.fget F.hbmcTourBaseAddr 0 * 512 = 0x100000 ∧
    devTour.fget F.hbmcTourLenUnits 0 * 512 = 512 ∧ mapHas devTour.tours 0 = false ∧ devTour.inHbm 0 0x100000 512 = true ∧
    (∀ c ∈ devTour.rangeChans 0x100000 512, devTour.fget F.hbmcChSlotOwner c = 2) ∧ (devTour.rangeChans 0x100000 512).length = 1 ∧
    (devAfter (exec (.tourFillZero (.firmware 0) 0 5#64) (st 0 devTour))).tours.length = 1 := by decide +kernel
theorem test_tour_conflict : let d := (({} : Dev).fset F.hbmcTourBaseAddr 0 0x800).fset F.hbmcTourLenUnits 0 1
    d.writeOk (.firmware 0) .hbmcTourCmd 0 5#64 = true ∧ d.inHbm 0 0x100000 512 = true ∧
    (∃ c ∈ d.rangeChans 0x100000 512, d.fget F.hbmcChSlotOwner c ≠ 2) ∧
    (devAfter (exec (.tourFillZero (.firmware 0) 0 5#64) (st 0 d))).fget F.hbmcCfgErrConflict 0 = 1 := by decide +kernel
def runTour (v : Word) : Dev := devAfter (exec (.tourDone 0) (st 0 (devAfter (exec (.tourFillZero (.firmware 0) 0 v) (st 0 devTour)))))
theorem test_tourDone_fill : (runTour 5#64).mem = [] ∧ (runTour 5#64).fget F.hbmcTourStatusState 0 = 2 ∧
    (runTour 5#64).fget F.hbmcTourStatusDoneUnits 0 = 1 := by decide +kernel
theorem test_tourDone_digest : (mapFind? (devAfter (exec (.tourDigest (.firmware 0) 0 7#64) (st 0 devTour))).tours 0).map (fun j => (j.op, j.len)) =
    some (3, 512) := by decide +kernel

/-! ### Translation -/

/-- A host transfer of context 9 outward from AVA 0x1_0000 (or from `ava`) on engine 3. -/
def devWalks (ava : Nat) : Dev := (devPages noDesc).modRing (fun z => { z with
  xfers := [(0, { engine := 3, port := 0, ctx := 9, inward := false, ava, iova := 0x9000, len := 64, pair := 5, tag := 7, hint := 0, data := [], notify := none })] })
theorem test_walk : let s := st 50 (devWalks 0x10000)
    tlbHit (s.dev.tlb (tlbHte 3)) 9 0x10000 = none ∧ tlbHit (s.dev.tlb 0) 9 0x10000 = none ∧ s.dev.partOfCtx 9 = 0 ∧
    ((s.dev.fbump F.xlatTlbStatL2Misses 0 1).fbump F.xlatWalkStatWalks 0 1).walkTable 9 0x10000 = .page pageHbm ∧
    s.dev.isLocal 0 pageHbm.dpa = true ∧
    tlbHit ((devAfter (exec (.walk 1 3 9 0x10000 false) s)).tlb (tlbHte 3)) 9 0x10040 = some pageHbm := by decide +kernel
theorem test_walk_unmapped : let s := st 50 (devWalks 0x90000)
    ((s.dev.fbump F.xlatTlbStatL2Misses 0 1).fbump F.xlatWalkStatWalks 0 1).walkTable 9 0x90000 = .unmapped ∧
    (devAfter (exec (.walk 1 3 9 0x90000 false) s)).xlat.held.map (fun h => (h.cause, h.source, h.ava)) = [(1, 3, 0x90000)] := by decide +kernel
/-- A fault of transfer queue 5 held for command 0, with its record. -/
def held0 : Held := { part := 0, kind := 0, source := 5, cause := 1, write := false, ctx := 9, ava := 0x90000, bt := 40, id := some 3, cmd := some 0 }
def devHeld : Dev := (devPages noDesc).modXlat (fun z => { z with held := [held0] })
def resolveWord (m : Nat) : Word := BitVec.ofNat 64 (3 + 5 * 2 ^ 32 + m * 2 ^ 43)
theorem test_resolve : devHeld.writeOk (.firmware 0) .xlatFqResolve 0 (resolveWord 1) = true ∧
    bits (resolveWord 1).toNat 44 43 = 1 ∧ bits (resolveWord 2).toNat 44 43 = 2 ∧
    devHeld.writeOk (.firmware 0) .xlatFqResolve 0 (resolveWord 2) = true ∧
    (devHeld.setReg .xlatFqResolve 0 0#64).xlat.held.find? (fun h => h.part == 0 && h.kind == bits (resolveWord 1).toNat 42 42 &&
      h.source % 1024 == bits (resolveWord 1).toNat 41 32 && h.id == some (bits (resolveWord 1).toNat 31 0)) = some held0 ∧
    (devAfter (exec (.retryFault (.firmware 0) 0 (resolveWord 1)) (st 50 devHeld))).xlat.held = [] ∧
    (devAfter (exec (.failFault (.firmware 0) 0 (resolveWord 2)) (st 50 devHeld))).xlat.held = [] := by decide +kernel
theorem test_resolve_stale : let v := BitVec.ofNat 64 (4 + 5 * 2 ^ 32 + 2 ^ 43)
    devHeld.writeOk (.firmware 0) .xlatFqResolve 0 v = true ∧
    (devAfter (exec (.retryFault (.firmware 0) 0 v) (st 50 devHeld))).fget F.xlatFqStatStale 0 = 1 := by decide +kernel
theorem test_faultTimeout : (devAfter (exec (.faultTimeout 0 0 5) (st (2 ^ 40) devHeld))).xlat.held = [] ∧
    40 + devHeld.fget F.xlatFqTimeoutTimeoutMs 0 * 1000000 ≤ 2 ^ 40 ∧
    (devAfter (exec (.faultTimeout 0 0 5) (st 50 devHeld))).xlat.held = [held0] := by decide +kernel
theorem test_fqHeadWrite : ({} : Dev).writeOk (.firmware 0) .xlatFqHead 0 0#64 = true ∧
    ({} : Dev).writeOk (.firmware 0) .xlatFqHead 0 1#64 = true ∧
    (devAfter (exec (.fqHeadWrite (.firmware 0) 0 0#64) (st 0 {}))).fget F.xlatCfgErrCfgErr 0 = 0 ∧
    (devAfter (exec (.fqHeadWrite (.firmware 0) 0 1#64) (st 0 {}))).fget F.xlatCfgErrCfgErr 0 = 1 := by decide +kernel
theorem test_walkerFail : (devAfter (exec (.walkerFail 2 5) (st 0 {}))).res.history.length = 1 := by decide +kernel
def invWord (scope : Nat) : Word := BitVec.ofNat 64 (9 + scope * 2 ^ 12 + 1 * 2 ^ 20)
/-- A TLB of the partition holds the page at AVA 0x1_0000. -/
def devTlb : Dev := (devPages noDesc).setTlb (tlbHte 3) [{ ctx := 9, page := pageHbm }]
theorem test_invRange : devTlb.writeOk (.firmware 0) .xlatInvReq 0 (invWord 0) = true ∧ bits (invWord 0).toNat 13 12 = 0 ∧
    devTlb.partOfCtx (bits (invWord 0).toNat 11 0) = 0 ∧ bits (invWord 0).toNat 59 20 * 65536 % (2 ^ bits (invWord 0).toNat 19 14 * 65536) = 0 ∧
    (devAfter (exec (.invRange (.firmware 0) 0 (invWord 0)) (st 0 devTlb))).xlat.invs.map (fun i => (i.token, i.ava, i.len)) = [(1, 65536, 65536)] ∧
    (devAfter (exec (.invContext (.firmware 0) 0 (invWord 1)) (st 0 devTlb))).xlat.invs.map (fun i => i.scope) = [1] ∧
    (devAfter (exec (.invPartition (.firmware 0) 0 (invWord 2)) (st 0 devTlb))).xlat.invs.map (fun i => i.scope) = [2] := by decide +kernel
theorem test_inv_refused : let d := devTlb.setReg .xlatInvIssued 0 64#64
    d.writeOk (.firmware 0) .xlatInvReq 0 (invWord 2) = true ∧ 64 ≤ (d.reg .xlatInvIssued 0).toNat - (d.reg .xlatInvDone 0).toNat ∧
    (devAfter (exec (.invPartition (.firmware 0) 0 (invWord 2)) (st 0 d))).fget F.xlatCfgErrCfgErr 0 = 1 := by decide +kernel
theorem test_invComplete : let i : Inval := { part := 0, token := 1, scope := 0, ctx := 9, ava := 65536, len := 65536 }
    let d := devTlb.modXlat (fun z => { z with invs := [i] })
    d.xlat.invs.find? (fun i => i.part == 0) = some i ∧ (d.tlbDrop 0 (fun e => i.covers e.ctx e.page.ava e.page.lg)).tlb (tlbHte 3) = [] := by
  decide +kernel

/-! ### Igsuren -/

/-- Node 20 is a peer with a route over port 0, which is UP; a window of the partition gives it reads, writes and reduces. -/
def devFab : Dev :=
  let d := ((({} : Dev).fset F.igfPortStatusLink 0 2).fset F.igfPortCfgSpareEn 0 1).fset F.igfPortStatusLanes 0 255
  let d := (d.fset F.igfRtPortMask 0 1).fset F.igfRtW 0 1
  let d := (d.fset F.igfWinBaseBase 0 0x10).setReg .igfWinCfg 0 (BitVec.ofNat 64 (0x1F + 15 * 2 ^ 56 + 20 * 2 ^ 32))
  d.setPeer 0 20 { word0 := 1, epoch := some 4 }
def pkt (psn : Nat) (bs : List Byte) : Packet := { bareHdr 0 bs with srcNode := 20, srcEpoch := 4, psn, addr := 0x100000 }
def sent (o : Host.Outcome State Fault Refusal) : List Nat := (devAfter o).out.filterMap (fun q => match q with
  | .packet op _ _ => some op
  | _ => none)
theorem test_putPacket : PacketAt (st 0 devFab) (pkt 0 [7, 8]) 0 ∧ (devFab.peer 0 20).duplicate 0 = false ∧
    devFab.windowGrants 0 20 0x100000 2 57 = true ∧ (devAfter (exec (.putPacket (pkt 0 [7, 8])) (st 0 devFab))).mem = [(0x100000, 7), (0x100001, 8)] ∧
    ((devAfter (exec (.putPacket (pkt 0 [7, 8])) (st 0 devFab))).peer 0 20).cum = 1 := by decide +kernel
theorem test_putPacket_refused : let k := { pkt 0 [7] with addr := 0x900000 }
    PacketAt (st 0 devFab) k 0 ∧ devFab.windowGrants 0 20 k.addr 1 57 = false ∧ sent (exec (.putPacket k) (st 0 devFab)) = [6] ∧
    (devAfter (exec (.putPacket k) (st 0 devFab))).mem = [] := by decide +kernel
/-- PSN 0 has arrived. -/
def devFab1 : Dev := devFab.setPeer 0 20 { word0 := 1, epoch := some 4, cum := 1 }
theorem test_duplicate : PacketAt (st 0 devFab1) (pkt 0 [7]) 0 ∧ (devFab1.peer 0 20).duplicate 0 = true ∧
    sent (exec (.redPacket (pkt 0 [7])) (st 0 devFab1)) = [5] ∧ (devAfter (exec (.putPacket (pkt 0 [7])) (st 0 devFab1))).mem = [] := by
  decide +kernel
theorem test_redPacket : let k := { pkt 0 [5, 0, 0, 0] with ef := 1 }
    PacketAt (st 0 devFab) k 0 ∧ devFab.windowGrants 0 20 0x100000 4 58 = true ∧ devFab.poisoned 0x100000 4 = false ∧
    memNat (devAfter (exec (.redPacket k) (st 0 (devFab.setMem [(0x100000, 3)])))).mem 0x100000 4 = 8 := by decide +kernel
theorem test_getReq : let k := { pkt 0 [] with cmdLen := 64, cmdId := 9 }
    PacketAt (st 0 devFab) k 0 ∧ devFab.windowGrants 0 20 0x100000 64 56 = true ∧ sent (exec (.getReq k) (st 0 devFab)) = [4] := by decide +kernel
/-- A command that waits for 4 bytes of node 20. -/
def devGet : Dev := { devEng oneMember 0#64 with fab := devFab.fab, regs := devFab.regs }.modEng (fun z => { z with
  cmds := [(9, { l := 0, m := 0, q := 0, ticket := 1, op := .get, ord := 0, hint := 0, rb := false, twoD := false, crc := false, ef := 0
                 sd := 0x700, sa := 0, sl := 0, sx := 0, started := true, bt := 0, gets := [(20, 0, 4)] })] })
theorem test_getResp : let k := { pkt 0 [1, 2, 3, 4] with cmdId := 9 }
    PacketAt (st 0 devGet) k 0 ∧ (mapFind? devGet.eng.cmds 9).isSome = true ∧ devGet.member? 0 0 = some oneMember ∧
    (devAfter (exec (.getResp k) (st 0 devGet))).lsNat oneMember 0x700 4 = 0x04030201 ∧
    (mapFind? (devAfter (exec (.getResp k) (st 0 devGet))).eng.cmds 9).map (fun c => c.gets) = some [] := by decide +kernel
/-- PSN 0 of ours, of command 9, is not acknowledged. -/
def devOut : Dev := devGet.setPeer 0 20 { word0 := 1, epoch := some 4, txPsn := 1
                                          unacked := [(0, { op := 1, pkt := bareHdr 20 [1], cmd := some 9, first := 10, last := 10 })] }
theorem test_ackPacket : let k := pkt 0 (leBytes 4 1 ++ leBytes 32 0)
    PacketAt (st 50 devOut) k 0 ∧ ((devAfter (exec (.ackPacket k) (st 50 devOut))).peer 0 20).unacked = [] := by decide +kernel
theorem test_nackPacket : let k := fun (r : Nat) => pkt 0 (leBytes 4 0 ++ leBytes 1 r)
    PacketAt (st 50 devOut) (k 1) 0 ∧ ((mapFind? (devOut.peer 0 20).unacked 0).bind (fun q => q.cmd)) = some 9 ∧ 0 < devOut.fget F.igfRetxLimit 0 ∧
    sent (exec (.nackPacket (k 0)) (st 50 devOut)) = [1] ∧ (devAfter (exec (.nackPacket (k 2)) (st 50 devOut))).eng.cmds = [] ∧
    ((devAfter (exec (.nackPacket (k 1)) (st 50 devOut))).peer 0 20).unacked = [] := by decide +kernel
theorem test_epochPacket : let k := { pkt 0 [] with srcEpoch := 5 }
    devOut.partOfDie 0 = 0 ∧ devOut.fabDeaf 0 = false ∧ (devOut.peer 0 20).epoch = some 4 ∧ (2 ^ 32 + 5 - 4) % 2 ^ 32 < 2 ^ 31 ∧
    ((devAfter (exec (.epochPacket k) (st 50 devOut))).peer 0 20).epoch = some 5 ∧
    ((devAfter (exec (.epochPacket k) (st 50 devOut))).peer 0 20).unacked = [] := by decide +kernel
theorem test_packet_dropped : let k := { pkt 0 [7] with dstNode := 3 }
    k.dstNode ≠ devFab.nodeId (devFab.partOfDie k.port) := by decide +kernel
theorem test_packet_oldEpoch : let k := { pkt 0 [7] with dstEpoch := 3 }
    k.dstEpoch ≠ devFab.epoch 0 ∧ sent (exec (.putPacket k) (st 0 devFab)) = [7] := by decide +kernel
theorem test_ackTimer : let d := devFab.setPeer 0 20 { word0 := 1, epoch := some 4, owed := 1, since := 5 }
    0 < (d.peer 0 20).owed ∧ sent (exec (.ackTimer 0 20) (st 3000 d)) = [5] ∧ sent (exec (.ackTimer 0 20) (st 30 d)) = [] := by decide +kernel
theorem test_retransmitTimeout : (mapFind? (devOut.peer 0 20).unacked 0).map (fun x => x.last) = some 10 ∧
    10 + devOut.fget F.igfRetxRtoUs 0 * 1000 ≤ 2 ^ 40 ∧ 0 < devOut.fget F.igfRetxLimit 0 ∧ (devOut.spray 0 20).1 = some 0 ∧
    sent (exec (.retransmitTimeout 0 20 0) (st (2 ^ 40) devOut)) = [1] := by decide +kernel
theorem test_giveUp : 10 + devOut.fget F.igfRetxGiveupMs 0 * 1000000 ≤ 2 ^ 40 ∧
    (devAfter (exec (.giveUp 0 20) (st (2 ^ 40) devOut))).eng.cmds = [] ∧
    (devAfter (exec (.giveUp 0 20) (st (2 ^ 40) devOut))).fget F.igfPeerStatGiveups 0 = 1 := by decide +kernel
theorem test_dtWrite : let d := devOut.fset F.igfDtSelNode 0 20
    d.writeOk (.firmware 0) .igfDtData0 0 3#64 = true ∧ bit (3#64 : Word).toNat 0 = true ∧ d.inFlight 0 20 = [9] ∧ bit (d.peer 0 20).word0 0 = true ∧
    (devAfter (exec (.dtWrite (.firmware 0) 0 3#64) (st 0 d))).fget F.igfCfgErrConflict 0 = 1 ∧
    ((devAfter (exec (.dtWrite (.firmware 0) 0 3#64) (st 0 (devFab.fset F.igfDtSelNode 0 20)))).peer 0 20).word0 = 3 ∧
    (devFab.fset F.igfDtSelNode 0 20).inFlight 0 20 = [] := by decide +kernel
theorem test_igsurenLaneFail : devFab.fon F.igfPortCfgSpareEn 0 = true ∧ (devFab.fabPort 0).failed = [] ∧
    ((devAfter (exec (.igsurenLaneFail 0 3 2) (st 0 devFab))).fabPort 0).spareFor = some 3 ∧
    (devAfter (exec (.igsurenLaneFail 0 3 2) (st 0 (devFab.fset F.igfPortCfgSpareEn 0 0)))).fon F.igfPortStatusHalf 0 = true := by decide +kernel
theorem test_fabricLinkRetry : let d := (devFab.fset F.igfPortCfgSpareEn 0 0).fset F.igfPortStatusLink 0 0
    d.fget F.igfPortStatusLink 0 = 0 ∧ (devAfter (exec (.fabricLinkRetry 0 255) (st 0 d))).portUp 0 = true ∧
    devFab.fget F.igfPortStatusLink 0 ≠ 0 := by decide +kernel
theorem test_laneMap : devFab.portUp 0 = true ∧
    (devAfter (exec (.laneMap { pkt 0 [0xF7, 1] with port := 0 }) (st 0 devFab))).fon F.igfPortStatusSpareUsed 0 = true := by decide +kernel

/-! ### The Arbiter -/

/-- Pairs 0 and 2 run; pair 1 runs with source 12 active; pair 3 is stopped. -/
def devArb : Dev := ((({} : Dev).fset F.arbPairStatusState 3 pairStopped).fset F.arbWdogPeriodMs 0 2).setArbPair 1
  { handlers := [{ src := 12, fast := false, bt := 40 }], lastKick := 100 }
def fw (k : Nat) : Party := .firmware k
theorem test_lockstepMismatch : devArb.fget F.arbPairStatusState 1 ≠ pairStopped ∧
    (((((devArb.fbump F.arbPairStatusMismatches 1 1).fset F.arbPairStatusState 1 pairStopped).abandonHandlers 1).tlog 900 11 0 none
      1).abortUpdate 900).lowestPair (fun _ => true) = some 0 ∧
    (devArb.abandonHandlers 1).evSrc 12 = { pending := true, count := 0, first := 40 } := by decide +kernel
theorem test_lockstepMismatch_last : let d := (devArb.fset F.arbPairStatusState 0 pairStopped).fset F.arbPairStatusState 2 pairStopped
    (devAfter (exec (.lockstepMismatch 1) (st 900 d))).res.warmPending = true ∧
    (((d.fbump F.arbPairStatusMismatches 1 1).fset F.arbPairStatusState 1 pairStopped).lowestPair (fun _ => true)) = none := by
  decide +kernel
theorem test_pairWatchdog : (devArb.arbPair 1).lastKick + devArb.fget F.arbWdogPeriodMs 0 * 1000000 = 2000100 ∧
    (devAfter (exec (.pairWatchdog 1) (st 2000099 devArb))).fget F.arbPairStatusState 1 = pairRunning := by decide +kernel
theorem test_sramUncorrectable_entry : let d := devArb.modArb (fun z => { z with tlRing := [(7, { seq := 7, cls := 3 })] })
    mapHas d.arb.tlRing 7 = true ∧ (devAfter (exec (.sramUncorrectable 1 (some 7)) (st 5 d))).arb.tlRing = [(7, {})] := by decide +kernel
theorem test_kick : devArb.writeOk (fw 1) .arbPairCtrl 1 1#64 = true ∧ bit (1#64 : Word).toNat 0 = true ∧ bit (1#64 : Word).toNat 1 = false ∧
    ((devAfter (exec (.kick (fw 1) 1 1#64) (st 777 devArb))).arbPair 1).lastKick = 777 ∧
    devArb.writeOk (fw 0) .arbPairCtrl 1 1#64 = true ∧
    ((devAfter (exec (.kick (fw 0) 1 1#64) (st 777 devArb))).arbPair 1).lastKick = 100 := by decide +kernel
theorem test_restart : devArb.writeOk (fw 0) .arbPairCtrl 3 2#64 = true ∧ bit (2#64 : Word).toNat 0 = false ∧ bit (2#64 : Word).toNat 1 = true ∧
    (devAfter (exec (.restart (fw 0) 3 2#64) (st 777 devArb))).fget F.arbPairStatusState 3 = pairRunning ∧
    devArb.writeOk (fw 0) .arbPairCtrl 2 2#64 = true ∧
    ((devAfter (exec (.restart (fw 0) 2 2#64) (st 777 devArb))).arbPair 2).lastKick = 0 := by decide +kernel
/-- Sources 12 (normal, pending since 40) and 20 (fast, pending since 60) of pair 0 are enabled. -/
def devEvc : Dev :=
  let d := ((((({} : Dev).fset F.evcSrcCfgEn 12 1).fset F.evcSrcCfgEn 20 1).fset F.evcSrcCfgClass 20 1).fset F.evcAgeFreshUs 0 1).fset F.evcAgeAgeUs 0 9
  ((d.raise 40 12).raise 50 12).raise 60 20
theorem test_sourceEdge : devEvc.evSrc 12 = { pending := true, count := 2, first := 40 } ∧
    (devAfter (exec (.sourceEdge 1354) (st 90 devEvc))).evSrc 1354 = { pending := true, count := 1, first := 90 } ∧
    devAfter (exec (.sourceEdge 1346) (st 90 devEvc)) = devEvc := by decide +kernel
theorem test_evcSet : devEvc.writeOk (fw 0) .evcSet 0 1983#64 = true ∧ bits (1983#64 : Word).toNat 10 0 < 1984 ∧
    ((devAfter (exec (.evcSet (fw 0) 1983#64) (st 90 devEvc))).evSrc 1983).count = 1 ∧
    devEvc.writeOk (fw 0) .evcSet 0 1984#64 = true ∧ 1984 ≤ bits (1984#64 : Word).toNat 10 0 ∧
    (devAfter (exec (.evcSet (fw 0) 1984#64) (st 90 devEvc))).arb.srcs = devEvc.arb.srcs := by decide +kernel
theorem test_eventDelivery : devEvc.pairRuns 0 = true ∧ devEvc.evcNext 100 0 = some 20 ∧
    ((devAfter (exec (.eventDelivery 0) (st 100 devEvc))).arbPair 0).evcsrc = BitVec.ofNat 64 (20 + 2 ^ 12 + 2 ^ 16) ∧
    ((devAfter (exec (.eventDelivery 0) (st 100 devEvc))).evSrc 20).pending = false := by decide +kernel
theorem test_eventDelivery_aged : devEvc.evcNext 9040 0 = some 20 ∧ devEvc.evcGroup 9040 12 = 2 ∧
    devEvc.evcNext 100 1 = none ∧ devEvc.pairRuns 1 = true := by decide +kernel
theorem test_evcComplete : (devArb.arbPair 1).handlers = [{ src := 12, fast := false, bt := 40 }] ∧
    ((devAfter (exec (.evcComplete 1 12) (st 900 devArb))).arbPair 1).handlers = [] := by decide +kernel
theorem test_evcComplete_order : let o := exec (.evcComplete 1 13) (st 900 devArb)
    ((devAfter o).arbPair 1).handlers.length = 1 ∧ (devAfter o).fget F.evcStatOrderErr 0 = 1 ∧
    (devAfter o).fget F.evcSrcCfgPair srcEvcOrder = 0 ∧ ((devAfter o).evSrc srcEvcOrder).pending = true := by decide +kernel
theorem test_troubleLogWrite : let d := devArb.modArb (fun z => { z with tlQueue := [{ cls := 5, sev := 3, part := 0xF }, { cls := 6 }] })
    mapHas d.arb.tlRing 1 = false ∧ (devAfter (exec .troubleLogWrite (st 5000000 d))).arb.tlRing = [(1, { seq := 1, cls := 5, sev := 3, part := 0xF })] ∧
    (devAfter (exec .troubleLogWrite (st 5000000 d))).arb.tlQueue = [{ cls := 6 }] ∧
    (devAfter (exec .troubleLogWrite (st 5000000 d))).out.length = 4 := by decide +kernel
theorem test_troubleLogWrite_empty : devArb.arb.tlQueue = [] ∧ devAfter (exec .troubleLogWrite (st 5 devArb)) = devArb := by decide +kernel
theorem test_pair_stops : let o := exec (.pairWatchdog 1) (st 2000100 devArb)
    (devAfter o).fget F.arbPairStatusState 1 = pairStopped ∧ (devAfter o).fget F.arbPairStatusWdogMisses 1 = 1 ∧
    (devAfter o).evSrc 12 = { pending := true, count := 0, first := 40 } ∧ ((devAfter o).evSrc 1).pending = true ∧
    ((devAfter o).evSrc 5).pending = true ∧ (devAfter o).arb.tlQueue.length = 1 := by decide +kernel

/-! ### Hangs and resets -/

/-- The one member runs on CE 0; `b` is the default bound in the register, the No-progress window its reset value, 20 ms. -/
def devHang : Dev := (devEng { oneMember with progress := 1000 } 0).arm 0 0 (.watchdog 0) 0 4000
def devSmall : Dev := devHang.fset F.prtLayoutCurrent 0 0xFF
theorem test_launchWatchdog : let o := exec (.launchWatchdog 0) (st 5000 devHang)
    (devHang.fire 5000 (devHang.launchWheel 0) (.watchdog 0)).isSome = true ∧ ((devAfter o).ctx 9).st = .resetting ∧
    ((devAfter o).episode? 0).map (fun e => (e.suspects, e.hung, e.removing)) = some ([9], [0], true) ∧
    ((devAfter o).ce 0).st = .withheld ∧ (devAfter o).fget F.resHangStatBound 0 = 1 := by decide +kernel
theorem test_launchWatchdog_none : devHang.fire 3000 (devHang.launchWheel 0) (.watchdog 0) = none := by decide +kernel
theorem test_hang_small : let o := exec (.launchWatchdog 0) (st 5000 devSmall)
    devSmall.partOfDie (0 / 26) = 0 ∧ devSmall.dies 0 ≤ 2 ∧ devSmall.quiet 0 = false ∧ (devSmall.episode? 0).bind (fun e => e.current) = none ∧
    mapFind? (devAfter o).res.parts 0 = some { start := 5000 } := by decide +kernel
theorem test_noProgress : let d := devHang
    (devAfter (exec (.noProgress 0 0) (st 20001000 d))).fget F.resHangStatNoprog 0 = 1 ∧
    d.waitsWell 20001000 0 0 { oneMember with progress := 1000 } 20000000 = false ∧
    devAfter (exec (.noProgress 0 0) (st 20000999 d)) = d := by decide +kernel
theorem test_noProgress_waits : let y := { oneMember with progress := 1000, wait := .time }
    (devEng y 0).waitsWell 20001000 0 0 y 20000000 = true ∧ (devEng y 0).member? 0 0 = some y := by decide +kernel
/-- A PUT of 64 bytes from the Local Store to AVA 0x4_0000 that has started. -/
def startedCmd : Cmd := { oneCmd with started := true, bt := 40 }
def devHungCmd (c : Cmd) : Dev := (devEng oneMember 0).modEng (fun z => { z with cmds := [(0, c)] })
theorem test_tqTimeout : (devHungCmd startedCmd).localCmd 0 startedCmd = true ∧
    (devAfter (exec (.tqTimeout 0) (st 100000040 (devHungCmd startedCmd)))).fget F.resHangStatTqTimeout 0 = 1 ∧
    (devHungCmd { startedCmd with fault := true }).localCmd 0 { startedCmd with fault := true } = false := by decide +kernel
/-- Context 9 is replayed: its launch runs on CE 0. -/
def devReplaying : Dev := ((devHang.setEpisode 0 { start := 10, removing := false, suspects := [], hung := [7], current := some 9 }).modCtx 9
  (fun x => { x with st := .replaying })).modEng (fun z => { z with launches := [(0, { oneLaunch with replay := true })] })
theorem test_hang_guilty : let o := exec (.launchWatchdog 0) (st 5000 devReplaying)
    devReplaying.onAny [0] 9 = true ∧ (devReplaying.episode? 0).bind (fun e => e.current) = some 9 ∧
    ((devAfter o).ctx 9).st = .terminating ∧ (devAfter o).fget F.resReplayStatGuilty 0 = 1 := by decide +kernel
/-- The launch is the shadow run of launch 4, on the spare CE 20. -/
def devShadowHang : Dev :=
  let d := devHang.modEng (fun z => { z with launches := [(0, { oneLaunch with shadowOf := some 4 }), (4, { oneLaunch with shadow := some 0 })],
                                             members := [(0, { oneMember with ce := 20 })] })
  (d.setCe 20 { ceInit 20 with logical := none, threads := [some (0, 0), none, none, none] })
theorem test_hang_shadow : let o := exec (.launchWatchdog 0) (st 5000 devShadowHang)
    (devShadowHang.launch? 0).bind (fun x => x.shadowOf) = some 4 ∧ 2 < devShadowHang.dies 0 ∧ (devAfter o).launch? 0 = none ∧
    ((devAfter o).launch? 4).bind (fun x => x.shadow) = none ∧ ((devAfter o).ctx 9).st = .admitted ∧
    mapHas (devAfter o).res.screens 20 = true := by decide +kernel
/-- Context 9 is a suspect of an episode. -/
def devSuspect (e : Episode) : Dev := (devHang.setEpisode 0 e).modCtx 9 (fun x => { x with st := .resetting })
def episode0 : Episode := { start := 10, suspects := [9], hung := [0] }
theorem test_contextReset : let o := exec (.contextReset 0) (st 50 (devSuspect episode0))
    ((devAfter o).launch? 0).map (fun x => (x.st, x.oldCes)) = some (.removed, [0]) ∧ (devAfter o).eng.members = [] ∧
    ((devAfter o).episode? 0).map (fun e => (e.removing, e.suspects)) = some (false, [9]) := by decide +kernel
theorem test_noEpisode : devHang.episode? 0 = none ∧ exec (.contextReset 0) (st 50 devHang) = exec (.ctxDeadline 0) (st 50 devHang) := ⟨by decide +kernel, rfl⟩
/-- The suspect's launch is removed; `x` is its record. -/
def devRemoved (x : Launch) : Dev := (devSuspect { episode0 with removing := false }).modEng (fun z => { z with launches := [(0, { x with st := .removed, oldCes := [0] })], members := [] })
theorem test_replayStart : let d := devRemoved oneLaunch
    let o := exec (.replayStart 0 []) (st 50 d)
    (d.removedOf 9).any (fun l => l.2.nrs) = false ∧ (d.ctx 9).noReplay = false ∧ (devAfter o).replayLeft 9 = true ∧
    ((devAfter o).launch? 0).map (fun x => (x.st, x.replay)) = some (.queued, true) ∧
    ((devAfter o).episode? 0).map (fun e => (e.suspects, e.current)) = some ([], some 9) := by decide +kernel
theorem test_replayStart_noReplay : let d := ((devRemoved oneLaunch).modCtx 9 (fun x => { x with noReplay := true })).fset F.hptCfgLog2Cq 5 6
    let o := exec (.replayStart 0 []) (st 50 (d.setPair 5 { st := .attached, gen := 1, ctx := 9, outst := 1 }))
    (d.ctx 9).noReplay = true ∧ statuses o = [.contextReset] ∧ ((devAfter o).ctx 9).st = .admitted ∧
    (devAfter o).fget F.resReplayStatImpossible 0 = 1 := by decide +kernel
theorem test_replayStart_nrs : let d := devRemoved { oneLaunch with nrs := true }
    (d.removedOf 9).any (fun l => l.2.nrs) = true ∧ (d.ctx 9).noReplay = false ∧
    ((devAfter (exec (.replayStart 0 []) (st 50 d))).ctx 9).st = .terminating := by decide +kernel
theorem test_ctxDeadline : ((episode0.suspects ++ episode0.joined).flatMap (fun c => ((devSuspect episode0).startedOf c).flatMap
      (fun l => (devSuspect episode0).launchCes l))).foldl listAdd [] = [0] ∧
    ((devAfter (exec (.ctxDeadline 0) (st 200000010 (devSuspect episode0)))).episode? 0).map (fun e => (e.engine, e.engStart)) =
      some ([0], some 200000010) ∧ devAfter (exec (.ctxDeadline 0) (st 200000009 (devSuspect episode0))) = devSuspect episode0 := by
  decide +kernel
/-- CE 0, with no launch, is to be reset. -/
def devIdle (safe : Nat) : Dev := (({} : Dev).setEpisode 0 { start := 10, removing := false, suspects := [], hung := [], engine := [0], engStart := some 10 }).fset
  F.secBootStatusSafe 0 safe
theorem test_engineReset : let o := exec (.engineReset 0) (st 50 (devIdle 0))
    (devIdle 0).partOfDie (0 / 26) = 0 ∧ (devIdle 0).resident 0 = [] ∧ ((devIdle 0).ce 0).logical = some 0 ∧
    (devIdle 0).spareOf 0 = some 20 ∧ ((devAfter o).ce 20).logical = some 0 ∧ ((devAfter o).ce 0).st = .spareHeld ∧
    mapHas (devAfter o).res.screens 0 = true := by decide +kernel
theorem test_engineReset_noSpare : let o := exec (.engineReset 0) (st 50 (devIdle 1))
    (devIdle 1).spareOf 0 = none ∧ (devAfter o).res.waiting = [(0, 0)] ∧ ((devAfter o).ce 0).logical = none := by decide +kernel
/-- The spares of die 0 that are free are in a gated group (`off`) or held at a rank. -/
def devWakes (off : List Nat) : Dev := (devIdle 0).modPow (fun z => { z with off })
theorem test_engineReset_wakes : let d := devWakes [ceDomain 20, ceDomain 21, ceDomain 22, ceDomain 23, ceDomain 24, ceDomain 25]
    let o := exec (.engineReset 0) (st 50 d)
    d.claimSpare 0 2 0 = .wakes 20 ∧ (devAfter o).res.waiting = [(0, 0)] ∧ (devAfter o).pow.rising = [ceDomain 20] := by decide +kernel
theorem test_engDeadline : let o := exec (.engDeadline 0) (st 500000010 (devIdle 0))
    mapFind? (devAfter o).res.parts 0 = some { start := 500000010 } ∧ (devAfter o).episode? 0 = none ∧
    devAfter (exec (.engDeadline 0) (st 500000009 (devIdle 0))) = devIdle 0 := by decide +kernel
/-- Partition 0 is being reset (or its reset is held), with a context and bytes in its HBM. -/
def devPart (r : PartReset) : Dev := (devHang.setMem [(0x1000, 7)]).modRes (fun z => { z with parts := [(0, r)] })
theorem test_partitionReset : let o := exec (.partitionReset 0) (st 50 (devPart { start := 10 }))
    (devAfter o).mem = [] ∧ (devAfter o).ctxs = [] ∧ (devAfter o).eng.launches = [] ∧
    mapFind? (devAfter o).res.parts 0 = some { start := 10, wiped := true } := by decide +kernel
theorem test_partitionReset_none : mapFind? devHang.res.parts 0 = none := by decide +kernel
theorem test_partitionResetDone : let o := exec (.partitionResetDone 0) (st 50 (devPart { start := 10, wiped := true }))
    mapFind? (devAfter o).res.parts 0 = none := by decide +kernel
def devHeldReset : Dev := (devPart { start := 10, held := true }).modArb (fun z => { z with partResets := [(0, 5), (0, 30 * 10 ^ 9), (0, 40 * 10 ^ 9), (0, 50 * 10 ^ 9)] })
theorem test_resetHoldExpiry : let o := exec (.resetHoldExpiry 0) (st (60 * 10 ^ 9 + 5) devHeldReset)
    devHeldReset.fget F.arbEscLimitPartMax 0 = 4 ∧ mapFind? (devAfter o).res.parts 0 = some { start := 60 * 10 ^ 9 + 5 } ∧
    devAfter (exec (.resetHoldExpiry 0) (st (60 * 10 ^ 9 + 4) devHeldReset)) = devHeldReset := by decide +kernel
theorem test_partDeadline : (devAfter (exec (.partDeadline 0) (st 1500000010 (devPart { start := 10 })))).res.warmPending = true ∧
    (devAfter (exec (.partDeadline 0) (st 1500000009 (devPart { start := 10 })))).res.warmPending = false := by decide +kernel
def devWarm (n : Nat) : Dev := (({} : Dev).modRes (fun z => { z with warmPending := true })).modArb (fun z => { z with warmResets := List.replicate n 0 })
theorem test_chipWarmReset_converted : (devWarm 2).fget F.arbEscLimitWarmMax 0 = 2 ∧
    (devAfter (exec (.chipWarmReset 0#384) (st 50 (devWarm 2)))).res.cycleReq = some 0x17 := by decide +kernel
theorem test_chipWarmReset : let d := (devWarm 1).setMem [(0x1000, 7)]
    (devAfter (exec (.chipWarmReset 0#384) (st 50 d))).res.warm = some 50 := by decide +kernel
theorem test_warmResetDone : let d := ({} : Dev).modRes (fun z => { z with warm := some 50 })
    (devAfter (exec .warmResetDone (st 90 d))).fget F.secBootStatusState 0 = 5 ∧ (devAfter (exec .warmResetDone (st 90 d))).res.warm = none := by
  decide +kernel
theorem test_warmDeadline : let d := ({} : Dev).modRes (fun z => { z with warm := some 50 })
    (devAfter (exec .warmDeadline (st 20000000050 d))).res.cycleReq = some 0x15 ∧
    (devAfter (exec .warmDeadline (st 20000000049 d))).res.cycleReq = none := by decide +kernel
theorem test_powerCycle : let d := ({} : Dev).modRes (fun z => { z with cycleReq := some 5 })
    (devAfter (exec .powerCycle (st 50 d))).res.cycle = true ∧ (devAfter (exec .powerCycle (st 50 d))).out = [.pin pinPowerCycle false] ∧
    ({} : Dev).res.cycleReq = none := by decide +kernel

/-! ### Screening -/

/-- Slot 3 of the Arbiter wheel is for owner `n` and due. -/
def devSlotDue (n : Nat) : Dev :=
  (({} : Dev).fset F.arbEwSlotOwner 3 n).setWheel 8 [{ ev := .slot 3, order := 7, due := 5000, bucket := 5, lvl := .fine, seq := 0 }]
theorem test_screeningWindow : let d := devSlotDue 1
    let o := exec (.screeningWindow 7) (st 6000 d)
    d.slotDue 6000 8 1 = some 3 ∧ (d.ce 7).st = .active ∧ d.screenDue 6000 7 = true ∧ ((devAfter o).ce 20).logical = some 7 ∧
    ((devAfter o).ce 7).st = .spareHeld ∧ mapFind? (devAfter o).res.screens 7 = some { since := 6000 } := by decide +kernel
theorem test_screeningWindow_spare : let o := exec (.screeningWindow 20) (st 6000 (devSlotDue 1))
    ((devSlotDue 1).ce 20).st = .spareFree ∧ mapFind? (devAfter o).res.screens 20 = some { since := 6000 } := by decide +kernel
/-- Every spare of die 0 is held at a rank. -/
def devHeldSpares (r : Nat) : Dev := (dieCes 0).foldl (fun d k =>
  if (d.ce k).st = .spareFree then d.modCe k (fun c => { c with st := .spareHeld, rank := r }) else d) (devSlotDue 1)
theorem test_screeningWindow_refused : (devHeldSpares 2).claimSpare 0 2 7 = .refused ∧
    (devAfter (exec (.screeningWindow 7) (st 6000 (devHeldSpares 2)))).reg .resCfgErr 0 = 3#64 := by decide +kernel
theorem test_screeningWindow_waits : (devHeldSpares 3).claimSpare 0 2 7 = .waits 20 ∧
    (devAfter (exec (.screeningWindow 7) (st 6000 (devHeldSpares 3)))).res.toScreen = [7] := by decide +kernel
theorem test_slotDue_none : ({} : Dev).slotDue 6000 8 1 = none ∧ ({} : Dev).slotDue 6000 8 2 = none := by decide +kernel
def devScreen (x : Screen) : Dev := (({} : Dev).modCe 20 (fun c => { c with st := .spareHeld, rank := 2 })).modRes (fun z => { z with screens := [(20, x)] })
def screenAfter (x : Screen) (bt : Nat) (r : PassResult) (t : Nat) : Option Screen :=
  mapFind? (devAfter (exec (.screeningPhaseEnd 20 r t) (st bt (devScreen x)))).res.screens 20
theorem test_screeningPhaseEnd_1 : screenAfter { since := 10 } 2000000010 .matches 60 = some { phase := 2, since := 2000000010 } ∧
    screenAfter { since := 10 } 2000000009 .matches 60 = some { since := 10 } := by decide +kernel
theorem test_screeningPhaseEnd_2 : screenAfter { phase := 2, since := 10 } 6000000010 .differs 60 =
    some { phase := 3, since := 6000000010, bad := true } := by decide +kernel
theorem test_screeningPhaseEnd_3 : ({} : Dev).fget F.resScrCfgTempC 0 ≤ 200 ∧
    screenAfter { phase := 3, since := 10 } 11 .matches 200 = some { phase := 4, since := 11 } := by decide +kernel
theorem test_screeningPhaseEnd_pass : let o := exec (.screeningPhaseEnd 20 .matches 80) (st 24000000010 (devScreen { phase := 4, since := 10 }))
    ((devAfter o).ce 20).st = .spareFree ∧ mapHas (devAfter o).res.screens 20 = false ∧ (devAfter o).res.screened = [(20, 24000000010)] := by
  decide +kernel
theorem test_screeningPhaseEnd_nominal : let o := exec (.screeningPhaseEnd 20 .matches 80) (st 24000000010 (devScreen { phase := 4, since := 10, bad := true }))
    mapFind? (devAfter o).res.screens 20 = some { second := true, since := 24000000010 } ∧
    ((devAfter o).res.history.map (fun r => r.cls)) = [1] ∧ (devAfter o).permanent 24000000010 1 20 = false := by decide +kernel
theorem test_screenWatchdog : let d := (devSlotDue 2).modRes (fun z => { z with screens := [(20, { since := 5 })] })
    let o := exec (.screenWatchdog 20) (st 6000 d)
    d.slotDue 6000 8 2 = some 3 ∧ (devAfter o).arb.tlQueue.map (fun e => (e.code, e.data)) = [(0x41, [0, 0, 6000, 3])] := by decide +kernel

/-! ### Shadow execution and digests -/

/-- Launch 0 ran on CE 3 with digests `o`, its shadow 1 on CE 20 with digests `h`. -/
def doneRun : Launch := { oneLaunch with st := .done, oldCes := [3], shadow := some 1, digests := [1, 2, 3, 4] }
def devShadowRuns (h : List Nat) : Dev := ((({} : Dev).setPair 5 { st := .attached, gen := 1, ctx := 9, outst := 1 }).modEng (fun z => { z with
    launches := [(0, doneRun), (1, { doneRun with shadow := none, shadowOf := some 0, oldCes := [20], digests := h })] })).modCe 20
      (fun c => { c with st := .spareHeld, rank := 3 })
theorem test_shadowCompare : let o := exec (.shadowCompare 0) (st 50 ((devShadowRuns [1, 2, 3, 4]).fset F.hptCfgLog2Cq 5 6))
    statuses o = [.ok] ∧ (devAfter o).eng.launches = [] ∧ ((devAfter o).ce 20).st = .spareFree ∧
    (devAfter o).fget F.resShadowStatSampled 0 = 1 := by decide +kernel
theorem test_shadowCompare_differs : let o := exec (.shadowCompare 0) (st 50 (devShadowRuns [1, 2, 3, 5]))
    ((devAfter o).launch? 0).map (fun x => (x.st, x.settle, x.oldCes)) = some (.queued, some ([1, 2, 3, 4], [1, 2, 3, 5]), [3, 20]) := by
  decide +kernel
/-- The settling replay ran on CE 8 with digests `r`. -/
def devSettle (r : List Nat) : Dev := ((devShadowRuns [1, 2, 3, 5]).modLaunch 0 (fun _ =>
  { doneRun with settle := some ([1, 2, 3, 4], [1, 2, 3, 5]), oldCes := [3, 20, 8], digests := r })).fset F.hptCfgLog2Cq 5 6
theorem test_settle_original : let o := exec (.shadowCompare 0) (st 50 (devSettle [1, 2, 3, 4]))
    statuses o = [.ok] ∧ mapHas (devAfter o).res.screens 20 = true ∧ (devAfter o).res.history.map (fun r => (r.cls, r.unit)) = [(4, 20)] := by
  decide +kernel
theorem test_settle_shadow : let o := exec (.shadowCompare 0) (st 50 (devSettle [1, 2, 3, 5]))
    statuses o = [.ok] ∧ (devAfter o).res.history.map (fun r => (r.cls, r.unit)) = [(3, 3)] ∧ ((devAfter o).ce 3).logical = none := by
  decide +kernel
theorem test_settle_neither : let o := exec (.shadowCompare 0) (st 50 (devSettle [1, 2, 3, 9]))
    statuses o = [.miscompare] ∧ (devAfter o).fget F.resShadowStatMiscompares 0 = 1 := by decide +kernel
theorem test_shadowCompare_running : let d := (devShadowRuns []).modLaunch 0 (fun x => { x with st := .running })
    (d.launch? 0).map (fun x => x.st) = some .running ∧ (devAfter (exec (.shadowCompare 0) (st 50 d))).eng.launches.length = 2 := by decide +kernel
/-- Entry 1 of a digest table at 0x8000; `units` in its UNITS field. -/
def devDig (units : Nat) : Dev := (((({} : Dev).fset F.resDigBaseAddr 0 0x400).fset F.resDigCfgCount 0 3).modRes
  (fun z => { z with digests := [(0, 1)] })).memPut 0x8020 (leBytes 8 0x10000 ++ leBytes 8 units ++ leBytes 8 77)
theorem test_digestPass : let o := exec (.digestPass 0 1) (st 50 (devDig 0))
    1 < (devDig 0).fget F.resDigCfgCount 0 ∧ (devDig 0).quiet 0 = false ∧ (devDig 0).tier.wipes.any (fun w => w.2.part == 0) = false ∧
    memNat (devAfter o).mem 0x8028 8 = 4 * 2 ^ 32 ∧ memNat (devAfter o).mem 0x8038 8 = 50 ∧
    mapGet 0 (devAfter o).res.digests 0 = 2 := by decide +kernel
theorem test_digestPass_poison : let o := exec (.digestPass 0 1) (st 50 ((devDig 1).setPoison [0x10040 / 64]))
    memNat (devAfter o).mem 0x8028 8 = 1 + 3 * 2 ^ 32 ∧ (devAfter o).arb.tlQueue.map (fun e => (e.code, e.sev)) = [(0x45, 3)] := by
  decide +kernel
theorem test_digestPass_wipe : let d := (devDig 1).modTier (fun z => { z with wipes := [(4, { part := 0, frame := 0, len := 65536, pool := none, charge := none, entry := none })] })
    d.tier.wipes.any (fun w => w.2.part == 0) = true ∧ devAfter (exec (.digestPass 0 1) (st 50 d)) = d := by decide +kernel

/-! ### Power, clocks and thermal control -/

/-- R458's example: 4,000 W less 154, 330, 1,046 and 230 W leaves 280 W a die, A2 at 274 W; the rated cap gives A0. -/
theorem test_fitState : fitState (4000 - 154 - 330 - 1046 - 230) 8 = 2 ∧ fitState (4400 - 154 - 330 - 1046 - 230) 8 = 0 := by decide +kernel
/-- The Part Record allows 4,400 W; a grant of 4,000 W has come; the power-epoch slot is due. -/
def devEpoch : Dev := (((devSlotDue 5).modSec (fun z => { z with part := z.part.map (fun r => { r with powerW := 4400 }), up := true })).modPow
  (fun z => { z with grant := some (4000, 9) })).fset F.pwrEpochEn 0 1
theorem test_powerEpoch : let o := exec (.powerEpoch 154 330 1046 230 2240 0) (st 6000 (devEpoch.fset F.pwrCapCapW 0 4400))
    devEpoch.slotDue 6000 8 5 = some 3 ∧ (devEpoch.fireSlot 6000 8 3 5).isSome = true ∧ devEpoch.floor = false ∧ devEpoch.safe = false ∧
    (devAfter o).fget F.pwrDieClkState 5 = 2 ∧ (devAfter o).fget F.pwrGrantCapW 0 = 4000 := by decide +kernel
theorem test_powerEpoch_floor : let d := devEpoch.fset F.pwrFloorActive 0 1
    d.floor = true ∧ d.slotDue 6000 8 5 = some 3 ∧ (devAfter (exec (.powerEpoch 1 2 3 4 5 0) (st 6000 d))).pow.grant = some (4000, 9) ∧
    ({} : Dev).slotDue 6000 8 5 = none := by decide +kernel
theorem test_limiterSample : let d := ({} : Dev).fset F.pwrCapCapW 0 1200
    d.effCap = 1200 ∧ (devAfter (exec (.limiterSample 1201) (st 5 d))).fget F.pwrDieClkStretch 7 = 1 ∧
    (devAfter (exec (.limiterSample 1200) (st 5 d))).fget F.pwrDieClkStretch 7 = 0 := by decide +kernel
theorem test_droop : (devAfter (exec (.droop 7 12) (st 5 {}))).fget F.pwrDieClkStretch 7 = 12 := by decide +kernel
theorem test_aclkStep : let d := ({} : Dev).fset F.pwrDieClkState 4 15
    d.clkTarget 4 = 0 ∧ (devAfter (exec (.aclkStep 4) (st 5 d))).fget F.pwrDieClkState 4 = 14 ∧
    devAfter (exec (.aclkStep 3) (st 5 d)) = d := by decide +kernel
/-- Blitz with BLITZ_MAX at B2. -/
def devBlitz : Dev := (({} : Dev).fset F.pwrCtrlBlitz 0 1).modSec (fun z => { z with part := z.part.map (fun r => { r with blitzMax := 38 }) })
theorem test_blitzStep : devBlitz.blitz = true ∧ devBlitz.blitzTop = 2 ∧
    (devAfter (exec (.blitzStep 3 true) (st 5 devBlitz))).fget F.pwrDieClkBlitzStep 3 = 1 ∧
    (devAfter (exec (.blitzStep 3 false) (st 5 (devBlitz.fset F.pwrDieClkBlitzStep 3 1)))).fget F.pwrDieClkBlitzStep 3 = 0 ∧
    ({} : Dev).blitz = false := by decide +kernel
def pwrPkt (kind : Nat) : Packet := { pkt 0 (pwrPayload kind 6 9 1234 0 2500 0) with addr := 0 }
def devGroup : Dev := ((devFab.fset F.pwrEpochEn 0 1).fset F.pwrEpochGroup 0 6).fset F.pwrEpochLeader 0 1
theorem test_pwrPacket : devGroup.fabDeaf 0 = false ∧ devGroup.nodeId 0 = (pwrPkt 1).dstNode ∧ (devGroup.hearEpoch 0 20 4).1 = true ∧
    (devAfter (exec (.pwrPacket (pwrPkt 1)) (st 5 devGroup))).pow.reports = [(20, 1234)] ∧
    (devAfter (exec (.pwrPacket (pwrPkt 2)) (st 5 devGroup))).pow.grant = some (2500, 9) := by decide +kernel
def devUp : Dev := ({} : Dev).modSec (fun z => { z with up := true })
theorem test_floorEnter : let o := exec .floorEnter (st 5 devUp)
    devUp.pow.alert = false ∧ devUp.floor = false ∧ (devAfter o).fget F.pwrDieClkState 7 = 15 ∧ (devAfter o).fget F.pwrFloorEntries 0 = 1 ∧
    ((devAfter o).evSrc 1344).pending = true := by decide +kernel
def devAlert : Dev := devAfter (exec .floorEnter (st 5 devUp))
theorem test_floorEnter_again : devAlert.pow.alert = true ∧ devAlert.floor = true ∧ (devAfter (exec .floorEnter (st 6 devAlert))).fget F.pwrFloorEntries 0 = 1 := by
  decide +kernel
theorem test_pwrAlertRelease : (devAfter (exec .pwrAlertRelease (st 300 devAlert))).pow.released = some 300 ∧ devUp.pow.alert = false := by decide +kernel
theorem test_floorHoldEnd : let d := devAfter (exec .pwrAlertRelease (st 300 devAlert))
    d.floor = true ∧ 300 + d.fget F.pwrFloorHoldUs 0 * 1000 = 1000300 ∧ (devAfter (exec .floorHoldEnd (st 1000300 d))).floor = false ∧
    (devAfter (exec .floorHoldEnd (st 1000299 d))).floor = true ∧ devAlert.pow.released = none := by decide +kernel
def devHot : Dev := ({} : Dev).fset F.pwrThermThrottleC 0 85
def hotAfter (t : Int) (d : Dev) : Nat × Nat := ((devAfter (exec (.thermalStep 2 t) (st 5 d))).fget F.pwrDieClkState 2, mapGet 0 (devAfter (exec (.thermalStep 2 t) (st 5 d))).pow.hot 2)
theorem test_thermalStep : devHot.safe = false ∧ hotAfter 85 devHot = (1, 1) ∧ hotAfter 84 devHot = (0, 0) ∧
    (devAfter (exec (.thermalStep 2 85) (st 5 devHot))).fget F.pwrThermMaxC 0 = 85 := by decide +kernel
theorem test_thermalStep_band : let d := (devHot.modPow (fun z => { z with hot := [(2, 4)] })).fset F.pwrDieClkState 2 4
    hotAfter 84 d = (4, 4) ∧ hotAfter 83 d = (4, 4) ∧ hotAfter 82 d = (4, 3) := by decide +kernel
theorem test_thermalStep_range : (devAfter (exec (.thermalStep 2 151) (st 5 devHot))).arb.tlQueue.length = 1 ∧
    (devAfter (exec (.thermalStep 2 (-41)) (st 5 devHot))).pow.temps = [] := by decide +kernel
theorem test_thermTrip : let d := ({} : Dev).fset F.pwrThermTripC 0 100
    (devAfter (exec (.thermTrip 100) (st 5 d))).pow.tripped = true ∧ (devAfter (exec (.thermTrip 99) (st 5 d))).pow.tripped = false := by decide +kernel
/-- An octal layout; partition 3 is idle, and its CEs that were active are withheld. -/
def devOctal : Dev := (dieCes 3).foldl (fun d k => if (d.ce k).st = .active then d.modCe k (fun c => { c with st := .withheld }) else d)
  (({} : Dev).fset F.prtLayoutCurrent 0 0xFF)
theorem test_park : let o := exec (.park (fw 0) 8#64) (st 5 devOctal)
    devOctal.writeOk (fw 0) .pwrPark 0 8#64 = true ∧ devOctal.fwould (fw 0) 8#64 F.pwrParkReq 0 = 8 ∧ partAt devOctal.layout 3 = some 3 ∧
    devOctal.parkConflict 3 = false ∧ (devAfter o).fget F.pwrParkState 0 = 8 ∧ (devAfter o).pow.off.take 8 = [36, 37, 38, 39, 40, 41, 42, 43] := by
  decide +kernel
theorem test_park_conflict : let d := devOctal.setCtx (512 * 3) { st := .admitted }
    d.parkConflict 3 = true ∧ (devAfter (exec (.park (fw 0) 8#64) (st 5 d))).fget F.pwrParkState 0 = 0 ∧
    (devAfter (exec (.park (fw 0) 8#64) (st 5 d))).regs ≠ d.regs := by decide +kernel
theorem test_unpark : let d := devAfter (exec (.park (fw 0) 8#64) (st 5 devOctal))
    (devAfter (exec (.unpark (fw 0) 0#64) (st 9 d))).fget F.pwrParkState 0 = 0 ∧ (devAfter (exec (.unpark (fw 0) 0#64) (st 9 d))).domOn 42 = true := by
  decide +kernel
theorem test_domainPowerUp : let d := ({} : Dev).modPow (fun z => { z with off := [97, 98], rising := [97] })
    (devAfter (exec (.domainPowerUp 97) (st 5 d))).pow.off = [98] ∧ devAfter (exec (.domainPowerUp 98) (st 5 d)) = d := by decide +kernel
def inServiceWord : Word := regReset .ceCtrl
def withheldWord : Word := regReset .ceCtrl ||| 1#64
theorem test_withhold : ({} : Dev).writeOk (fw 0) .ceCtrl 7 withheldWord = true ∧ ({} : Dev).fwould (fw 0) withheldWord F.ceCtrlWithhold 7 = 1 ∧
    ((devAfter (exec (.withhold (fw 0) 7 withheldWord) (st 5 {}))).ce 7).st = .withheld := by decide +kernel
def devHungCe : Dev := ((({} : Dev).setEpisode 0 { start := 1, suspects := [3], hung := [7] }).modCe 7 (fun c => { c with st := .withheld })).fset F.ceCtrlWithhold 7 1
theorem test_withhold_episode : devHungCe.writeOk (fw 0) .ceCtrl 7 inServiceWord = true ∧ devHungCe.fwould (fw 0) inServiceWord F.ceCtrlWithhold 7 = 0 ∧
    ((devAfter (exec (.withhold (fw 0) 7 inServiceWord) (st 5 devHungCe))).ce 7).st = .withheld := by decide +kernel

/-! ### Start-up -/

def img : ImageHdr := { size := 65536, svn := 3, stateVer := 2, stateMin := 1, fwiMaj := 1, fwiMinLo := 0, fwiMinHi := 4, entry := 0, digest := 7#384 }
/-- Flash with a firmware image; the Part Record is the nominal one. -/
def devFlash : Dev := ({} : Dev).modSec (fun z => { z with flash := { z.flash with image := some (.valid, img) } })
theorem test_coldStart : let r := nominalPart
    devFlash.sec.up = false ∧ devFlash.sec.flash.part = some r ∧ partValid r (some r.deviceId) = true ∧
    devFlash.sec.flash.image.isSome = true ∧ devFlash.pow.alert = false := by decide +kernel
theorem test_coldStart_safe : (({} : Dev).modSec (fun z => { z with flash := {} })).sec.up = false ∧
    (∀ r, ({} : Dev).sec.flash.part = some r → partValid r none = false) := by
  constructor
  · decide +kernel
  · intro r h; simp [partValid]
def devRom : Dev := (((devUp.setBoot 1 0 false false).fset F.hptPortStatusLink 2 2).fset F.secBootLenBytes 2 17112)
theorem test_boot : let o := exec (.boot 2 1#64) (st 5 devRom)
    devRom.linkUp 2 = true ∧ devRom.writeOk (.host 2) .secBootCmd 2 1#64 = true ∧ devRom.mgmtPort 2 = true ∧
    devRom.claimedElse 2 = false ∧ devRom.fget F.secBootStatusState 2 = 1 ∧ (devAfter o).sec.verifying = some 1 ∧
    (devAfter o).fget F.secBootStatusState 0 = 2 ∧ (devAfter o).fon F.secBootStatusClaimed 2 = true := by decide +kernel
theorem test_boot_claimed : let d := devRom.fset F.secBootStatusClaimed 1 1
    d.claimedElse 2 = true ∧ (devAfter (exec (.boot 2 1#64) (st 5 d))).sec.verifying = none := by decide +kernel
/-- Firmware runs from bank 0. -/
def devFw : Dev := ((((devUp.modSec (fun z => { z with started := true, memReady := true, banks := [(0, img)] })).setBoot 5 0 false false).fset
  F.hptPortStatusLink 2 2).fset F.secBootLenBytes 2 17240).fset F.hptPortBindPartitions 2 1
theorem test_stage : let o := exec (.stage 2 3#64) (st 5 devFw)
    devFw.writeOk (.host 2) .secBootCmd 2 3#64 = true ∧ devFw.fon F.secFwStateUpdating 0 = false ∧ bits (3#64 : Word).toNat 2 1 = 1 ∧
    (devAfter o).sec.verifying = some 2 ∧ (devAfter o).fget F.secBootStatusState 3 = 6 := by decide +kernel
def devVerify (n : Nat) : Dev := devFw.modSec (fun z => { z with verifying := some n })
theorem test_imageVerified : let d := (devRom.modSec (fun z => { z with verifying := some 1 }))
    imageErr .valid img = 0 ∧ (devAfter (exec (.imageVerified .valid img) (st 5 d))).sec.started = true ∧
    (devAfter (exec (.imageVerified .valid img) (st 5 d))).fget F.secBootStatusState 1 = 5 ∧
    imageErr .slhFailed img = 2 ∧ (devAfter (exec (.imageVerified .slhFailed img) (st 5 d))).fget F.secBootStatusState 1 = 4 := by decide +kernel
theorem test_imageVerified_flash : let d := devFlash.modSec (fun z => { z with verifying := some 0, up := true })
    (devAfter (exec (.imageVerified .valid img) (st 5 d))).sec.flashWait = some 5 := by decide +kernel
theorem test_imageVerified_staged : (devVerify 2).replaceable img = true ∧
    (devAfter (exec (.imageVerified .valid img) (st 5 (devVerify 2)))).sec.staged = true ∧
    (devAfter (exec (.imageVerified .valid img) (st 5 (devVerify 2)))).fon F.secFwStateUpdating 0 = true := by decide +kernel
def devWait : Dev := (devFlash.modSec (fun z => { z with up := true, flashWait := some 10 })).setBoot 1 0 false false
theorem test_flashWaitExpiry : (devAfter (exec .flashWaitExpiry (st 2000000010 devWait))).sec.fromFlash = true ∧
    (devAfter (exec .flashWaitExpiry (st 2000000009 devWait))).sec.started = false ∧ devRom.sec.flashWait = none := by decide +kernel
def devSwitch : Dev := (devFw.modSec (fun z => { z with staged := true, banks := [(0, img), (1, img)] })).fset F.secFwStateUpdating 0 1
theorem test_pairSwitch : devSwitch.nextSwitch = some 3 ∧ (devAfter (exec (.pairSwitch 3) (st 9 devSwitch))).nextSwitch = some 2 ∧
    devFw.fon F.secFwStateUpdating 0 = false := by decide +kernel
theorem test_linkTrained : (devAfter (exec (.portLinkTrained 3 8 6) (st 5 devUp))).linkUp 3 = true ∧ devUp.sec.up = true := by decide +kernel
theorem test_powerRemoved : (devAfter (exec .powerRemoved (st 5 devFw))).sec.started = false ∧ btAfter (exec .sysResetAsserted (st 5 devFw)) = 0 ∧
    btAfter (exec .i3cTimeout (st 5 devFw)) = 5 := by decide +kernel
theorem test_xspiTimeout : devFw.sec.verifying ≠ some 0 ∧ (devAfter (exec .xspiTimeout (st 5 devFw))).sec.flashGone = true := by decide +kernel

/-! ### Resident operating systems -/

/-- A table for an image of 64 bytes in partition 0. -/
def handoff : Handoff := { sig := .valid, fwiMin := 0, fwiMaj := 1, imageSize := 64, loadOff := 0x200000, entryOff := 0, imageDigest := 0#384, partition := 0, startAll := false }
def devLoad : Dev := (devFw.modSec (fun z => { z with owner := some { sig := .valid, serial := 0, operatorKey := 0#384, mgmtPorts := 15 } })).fset
  F.ddrcChStatusState 0 1
def osWord : Word := 5#64
theorem test_osLoad : let d := (devLoad.fset F.ddrcChStatusGib 0 64)
    d.writeOk (.host 2) .secBootCmd 2 osWord = true ∧ bits osWord.toNat 2 1 = 2 ∧ d.boundTo 2 0 = true ∧ d.quiet 0 = false ∧
    mapHas (devAfter (exec (.osLoad 2 osWord (some handoff) (List.replicate 64 9)) (st 5 d))).sec.osLoads 0 = true := by decide +kernel
theorem test_osLoad_refused : let d := (devLoad.fset F.ddrcChStatusGib 0 64)
    let t := { handoff with imageSize := 65 }
    d.tableOk 0 64 handoff = true ∧ d.tableOk 0 (d.fget F.secBootLenBytes 2 - 17176) t = false ∧
    (devAfter (exec (.osLoad 2 osWord (some t) (List.replicate 64 9)) (st 5 d))).fget F.secBootStatusErr 2 = 10 := by decide +kernel
def devLoaded : Dev := devLoad.modSec (fun z => { z with osLoads := [(0, { port := 2, table := { handoff with imageSize := 1 } })] })
theorem test_osImageChecked : devLoaded.fwiFor handoff = some 260 ∧ devLoad.sec.osLoads = [] ∧
    (devAfter (exec (.osImageChecked 0) (st 5 devLoaded))).fget F.secBootStatusErr 2 = 9 ∧
    devLoaded.imageOk 0 { handoff with imageSize := 1 } = false ∧
    devLoaded.imageOk 0 { handoff with imageSize := 1, imageDigest := sha384 [0] } = true := by decide +kernel
def devTrain : Dev := devFw.modSec (fun z => { z with memReady := false })
theorem test_memoryInitDone : let o := exec (.memoryInitDone [(64, 2, 0, 6400)]) (st 5 devTrain)
    (devAfter o).fget F.ddrcChStatusGib 0 = 64 ∧ (devAfter o).sec.memReady = true ∧ (devAfter o).fget F.secBootStatusOsWait 2 = 1 ∧
    devFw.sec.memReady = true := by decide +kernel
theorem test_managementFlashWrite : let o := { sig := .valid, serial := 4, operatorKey := 0#384, mgmtPorts := 1 }
    devFw.mgmtPort 2 = true ∧ (devAfter (exec (.managementFlashWrite 2 (.ownerRecord o)) (st 5 devFw))).sec.flash.owner = some o ∧
    (devAfter (exec (.managementFlashWrite 2 (.image .valid img)) (st 5 devFw))).sec.flash.image = some (.valid, img) ∧ devFw.safe = false ∧
    (devAfter (exec (.managementFlashWrite 2 (.partRecord { nominalPart with powerW := 1 })) (st 5 devFw))).sec.flash = devFw.sec.flash := by
  decide +kernel

/-! ### Attestation -/

/-- Firmware runs and connection 1 has reached a stage. -/
def devSpdm (n : Nat) : Dev := devFw.setConn 1 { stage := n }
def outOf (o : Host.Outcome State Fault Refusal) : Option Out := (devAfter o).out.getLast?
theorem test_getVersion : devFw.sec.started = true ∧ devFw.res.warm = none ∧ ({} : Dev).sec.started = false ∧
    outOf (exec (.getVersion 1) (st 5 devFw)) = some (.spdm 1 4 [0x13, 0x12]) := by decide +kernel
theorem test_getCapabilities : ((devSpdm 1).conn 1).stage = 1 ∧
    ((devAfter (exec (.getCapabilities 1) (st 5 (devSpdm 1)))).conn 1).stage = 2 := by decide +kernel
theorem test_negotiateAlgorithms : outOf (exec (.negotiateAlgorithms 1 255) (st 5 (devSpdm 2))) = some (.spdm 1 0x63 [15]) ∧
    outOf (exec (.negotiateAlgorithms 1 255) (st 5 (devSpdm 1))) = some (.spdm 1 0x7F [4]) := by decide +kernel
/-- What the requests after the opening need. -/
theorem test_spdmReady : (devSpdm 3).sec.started = true ∧ (devSpdm 3).res.warm = none ∧ ((devSpdm 3).conn 1).stage = 3 ∧
    (devSpdm 3).sec.flashGone = false ∧ (devSpdm 3).sec.identity = none ∧ ((devSpdm 3).conn 1).signed = none ∧
    ((devSpdm 3).modSec (fun z => { z with identity := some 1#384 })).sec.identity.isSome = true := by decide +kernel
theorem test_getDigests : (devAfter (exec (.getDigests 1) (st 5 (devSpdm 2)))).conn 1 = { stage := 2 } ∧
    outOf (exec (.getDigests 1) (st 5 (devSpdm 2))) = some (.spdm 1 0x7F [4]) := by decide +kernel
/-- The chain's length is the chip's own: whatever it is, one of the two clauses of GET_CERTIFICATE applies to each offset. -/
theorem test_getCertificate (o : Nat) : o < (Config.certChain false).length ∨ (Config.certChain false).length ≤ o := by omega
theorem test_challenge : outOf (exec (.challenge 1 0) (st 5 (devSpdm 3))) = some (.spdm 1 0x7F [5]) := by decide +kernel
theorem test_getMeasurements : outOf (exec (.getMeasurements 1 23 false) (st 5 (devSpdm 3))) = some (.spdm 1 0x60 [0]) ∧
    outOf (exec (.getMeasurements 1 24 false) (st 5 (devSpdm 3))) = some (.spdm 1 0x7F [1]) := by decide +kernel
def devHandshake : Dev := devFw.setConn 1 { stage := 3, session := 1 }
theorem test_finish : (devHandshake.conn 1).session = 1 ∧
    ((devAfter (exec (.finish 1 true) (st 5 devHandshake))).conn 1).session = 2 ∧
    ((devAfter (exec (.finish 1 false) (st 5 devHandshake))).conn 1).session = 0 := by decide +kernel
theorem test_chunkSend : ((devSpdm 3).conn 1).requestSeq = 0 ∧
    ((devAfter (exec (.chunkSend 1 0 false [1, 2]) (st 5 (devSpdm 3)))).conn 1).request = [1, 2] := by decide +kernel
theorem test_chunkGet : let x : Spdm := { stage := 3, reply := [7] }
    (devFw.setConn 1 x).conn 1 = x ∧ x.reply ≠ [] ∧ x.replySeq = 0 := by decide +kernel
theorem test_cosign : ((devFw.setConn 1 { stage := 3, signed := some [3] }).conn 1).signed = some [3] ∧
    outOf (exec (.cosign 1) (st 5 (devSpdm 3))) = some (.spdm 1 0x7F [4]) := by decide +kernel
def devSession : Dev := devFw.setConn 1 { stage := 3, session := 2 }
theorem test_ideKm : (devSession.conn 1).session = 2 ∧
    (devAfter (exec (.ideKm 1 4 true) (st 5 devSession))).fget F.hptPortStatusSelIde 1 = 8 ∧
    (devAfter (exec (.ideKm 1 0 true) (st 5 devSession))).fget F.hptPortStatusLinkIde 1 = 1 ∧
    outOf (exec (.ideKm 1 4 true) (st 5 devHandshake)) = some (.spdm 1 0x7F [4]) := by decide +kernel

/-! ### Layout, reports and register access -/

theorem test_layoutChange : let d := devFw
    d.writeOk (.firmware 0) .prtMode 0 3#64 = true ∧ d.partIdle 0 = true ∧ d.quiet 0 = false ∧ d.fon F.prtModeBusy 0 = false ∧
    (devAfter (exec (.layoutChange (.firmware 0) 3#64) (st 5 d))).layout = 0xFF := by decide +kernel
theorem test_layoutChange_same : devFw.layoutOf 0 = devFw.layout ∧ devFw.layoutOf 1 ≠ devFw.layout ∧
    (devAfter (exec (.layoutChange (.firmware 0) 5#64) (st 5 devFw))).fget F.prtModeMode 0 = 0 := by decide +kernel
def devBusyCtx : Dev := devFw.setCtx 3 { st := .admitted }
theorem test_layoutChange_refused : devBusyCtx.partIdle 0 = false ∧ devBusyCtx.writeOk (.firmware 0) .prtMode 0 3#64 = true ∧
    (devAfter (exec (.layoutChange (.firmware 0) 3#64) (st 5 devBusyCtx))).reg .prtCfgErr 0 = 1#64 ∧
    (devAfter (exec (.layoutChange (.firmware 0) 3#64) (st 5 (devFw.fset F.prtModeBusy 0 1)))).reg .prtCfgErr 0 = 3#64 := by decide +kernel
theorem test_layoutClearDone : let d := (devFw.fset F.prtModeBusy 0 1).modRes (fun z => { z with clearing := [0] })
    d.fon F.prtModeBusy 0 = true ∧ (devAfter (exec .layoutClearDone (st 5 d))).fon F.prtModeBusy 0 = false ∧
    (devAfter (exec .layoutClearDone (st 5 d))).res.clearing = [] := by decide +kernel
theorem test_reportArea : let o := exec (.firmwareReportUpdate ⟨0, [(0x400000, 0x400000)]⟩) (st 5 devFw)
    (devAfter o).tier.areas = [(0, 0x400000, 0x400000)] ∧
    ((devAfter o).reg .prtCapMem 0).toNat < ((devAfter (exec (.firmwareReportUpdate ⟨0, []⟩) (st 5 devFw))).reg .prtCapMem 0).toNat := by
  decide +kernel
theorem test_firmwareReportUpdate : devFw.isPart 0 = true ∧ devFw.isPart 1 = false ∧ mapFind? devFw.cpx.logNotify 0 = none := by decide +kernel
theorem test_report : let w := devFw.report 0 (some 0)
    bits w.toNat 7 0 = 192 ∧ bits w.toNat 14 8 = 96 ∧ bits w.toNat 31 31 = 1 ∧ bits w.toNat 63 48 = 1 := by decide +kernel
theorem test_traceTriggerClaim : devFw.fon F.btmCtrlPpsEn 0 = false ∧
    (devAfter (exec (.traceTriggerClaim true) (st 5 devFw))).time.traceTrigger = true ∧
    (devAfter (exec (.traceTriggerClaim true) (st 5 (devFw.fset F.btmCtrlPpsEn 0 1)))).reg .btmCfgErr 0 = 3#64 := by decide +kernel
theorem test_registerWrite : devFw.fget F.arbPairStatusState 0 ≠ pairStopped ∧ spacePlace 1 0x70000 = .reg .hubCoreIso 0 ∧
    devFw.inReset (.reg .arbWdog 0) = false ∧ devFw.inReset (.reg .evcCtrl 0) = false ∧ spacePlace 1 0x10458 = .reg .arbEscLimit 0 ∧
    (devAfter (exec (.registerWrite (.firmware 0) 0x10458 9#64) (st 5 devFw))).fget F.arbEscLimitWarmMax 0 = 1 ∧
    (devAfter (exec (.registerWrite (.firmware 0) 0x10458 0#64) (st 5 devFw))).reg .arbCfgErr 0 = 1#64 := by decide +kernel
theorem test_registerWrite_reach : spacePlace 1 0x60 = .empty .btmCfgErr 0 ∧ spacePlace 1 0x181000 = .unassigned ∧
    devFw.linkUp 2 = true ∧ devFw.res.warm = none ∧
    (devAfter (exec (.registerWrite (.host 2) 0x2400000 1#64) (st 5 devFw))).reg .hptCfgErr 2 = 1#64 := by decide +kernel
theorem test_counterClear : let d := devFw.fset F.evcStatDelivered 0 77
    (devAfter (exec (.counterClear (.firmware 0) 0x20000 1#64) (st 5 d))).fget F.evcStatDelivered 0 = 0 := by decide +kernel
theorem test_lock : let d := devAfter (exec (.lock (.firmware 0) 0x20000 0x8000000000000000#64) (st 5 devFw))
    d.fon F.evcCtrlLock 0 = true ∧ d.locked .evcAge 0 = true ∧ accFor (.firmware 0) ⟨F.evcAgeAgeUs, .rwl, 1000, 100, 100000, false, false⟩ = .rwl ∧
    d.writeOk (.firmware 0) .evcAge 0 0x0#64 = false := by decide +kernel
/-- A core's store outside its partition's window. -/
def devHartRuns : Dev := devFw.modCpx (fun z => { z with cores := [(2, { st := .running, logical := some 2 })] })
theorem test_coreMsi : let d := devHartRuns.fset F.prtLayoutCurrent 0 0xFF
    d.coreReaches 2 0x4A00000 = false ∧ d.runs 2 = true ∧ (d.hart 2).timedOut = [] ∧
    (devAfter (exec (.registerWrite (.core 2) 0x4A00000 0#64) (st 0 d))).fget F.hubCoreIsoDropped 0 = 1 := by decide +kernel
theorem test_coreStore : devHartRuns.runs 2 = true ∧ (devHartRuns.hart 2).timedOut = [] ∧ devHartRuns.coreReaches 2 0 = false ∧
    devHartRuns.coreReaches 2 0x400000 = true := by decide +kernel

/-! ### Accesses of the cores: hart 2, line 0x4000 at byte 0x10_0000 -/

def coreAcc (op : CoreOp) (o : Nat) : CoreAcc := { op, addr := 0x100000 + o, attr := .pma, len := 4 }
/-- Hart 2 with x5 = 0x80 and x6 = 3; byte 0x10_0000 holds 0xF1; the line's directory entry as given. -/
def devCore (e : DirEnt) : Dev :=
  ((devDir e).modHart 2 (fun y => (y.xPut 5 0x80#64).xPut 6 3#64)).setMem (memWriteBytes [] 0x100000 (leBytes 8 0xF1))
def stCore (e : DirEnt) : State := st 10 (devCore e)
def owned : DirEnt := { owner := some 2 }
def xAfter (o : Host.Outcome State Fault Refusal) (n : Nat) : Word := ((devAfter o).hart 2).xGet n
theorem test_core_load : CoreAt (stCore owned) 2 (coreAcc (.load 1 true 7) 0) 0x4000 (.mem 0x100000) ∧ ((stCore owned).dev.dirEnt 0x4000).holds 2 = true ∧
    (stCore owned).dev.placePoisoned 0 (.mem 0x100000) 1 = false ∧
    xAfter (exec (.rds 2 ⟨0x4000, some (coreAcc (.load 1 true 7) 0)⟩) (stCore owned)) 7 = -15#64 ∧
    ((devAfter (exec (.rds 2 ⟨0x4000, some (coreAcc (.load 1 true 7) 0)⟩) (stCore owned))).hart 2).pc = 4#64 := by decide +kernel
theorem test_core_pairLoad : CoreAt (stCore owned) 2 (coreAcc (.pairLoad 3) 0) 0x4000 (.mem 0x100000) ∧
    (((devAfter (exec (.rds 2 ⟨0x4000, some (coreAcc (.pairLoad 3) 0)⟩) (stCore owned))).hart 2).vGet 3) = 0xF1#256 := by decide +kernel
theorem test_core_poison : let s := st 10 ((devCore owned).notePoison 0x4000)
    CoreAt s 2 (coreAcc .fetch 0) 0x4000 (.mem 0x100000) ∧ s.dev.placePoisoned (s.dev.partOfHart 2) (.mem 0x100000) 4 = true ∧
    ((devAfter (exec (.rds 2 ⟨0x4000, some (coreAcc .fetch 0)⟩) s)).hart 2).trap = some (1, 0, 0x100000) := by decide +kernel
theorem test_core_miss : CoreAt (stCore { owner := some 3 }) 2 (coreAcc (.load 8 false 7) 0) 0x4000 (.mem 0x100000) ∧
    ((stCore { owner := some 3 }).dev.dirEnt 0x4000).holds 2 = false ∧ (stCore { owner := some 3 }).dev.asked 2 0x4000 = false ∧
    reqsAfter (exec (.rds 2 ⟨0x4000, some (coreAcc (.load 8 false 7) 0)⟩) (stCore { owner := some 3 })) = [(0, some 3, 0)] := by decide +kernel
theorem test_core_store : CoreAt (stCore owned) 2 (coreAcc (.store 2 5) 8) 0x4000 (.mem 0x100008) ∧
    memNat (devAfter (exec (.rdx 2 ⟨0x4000, some (coreAcc (.store 2 5) 8)⟩) (stCore owned))).mem 0x100008 8 = 0x80 ∧
    (dirAfter (exec (.rdx 2 ⟨0x4000, some (coreAcc (.store 2 5) 8)⟩) (stCore owned))).mod = true := by decide +kernel
def stAsked : State := st 10 ((devCore { owner := some 3 }).requested 5 2 0x4000 .rdx)
theorem test_core_store_waits : CoreAt stAsked 2 (coreAcc (.store 2 5) 8) 0x4000 (.mem 0x100008) ∧ (stAsked.dev.dirEnt 0x4000).owner ≠ some 2 ∧
    stAsked.dev.asked 2 0x4000 = true ∧
    ((devAfter (exec (.rdx 2 ⟨0x4000, some (coreAcc (.store 2 5) 8)⟩) stAsked)).hart 2).stores = [(0x100008, leBytes 2 0x80)] := by decide +kernel
/-- The device once the owned line is in M and the buffer's stores to it have left. -/
def coreOwned (d : Dev) : Dev := (d.modDir 0x4000 (fun e => { e with mod := true })).drainLine 2 0x4000
theorem test_core_lr : CoreAt (stCore owned) 2 (coreAcc (.lr 8 7) 0) 0x4000 (.mem 0x100000) ∧
    (coreOwned (devCore owned)).corePlace ((coreOwned (devCore owned)).partOfHart 2) 0x100000 8 = .mem 0x100000 ∧
    ((devAfter (exec (.rdx 2 ⟨0x4000, some (coreAcc (.lr 8 7) 0)⟩) (stCore owned))).hart 2).lr = some 0x4000 ∧
    xAfter (exec (.rdx 2 ⟨0x4000, some (coreAcc (.lr 8 7) 0)⟩) (stCore owned)) 7 = 0xF1#64 := by decide +kernel
theorem test_core_sc : CoreAt (stCore owned) 2 (coreAcc (.sc 8 7 5) 0) 0x4000 (.mem 0x100000) ∧
    xAfter (exec (.rdx 2 ⟨0x4000, some (coreAcc (.sc 8 7 5) 0)⟩) (stCore owned)) 7 = 1#64 ∧
    (let s := st 10 ((devCore owned).modHart 2 (fun y => { y with lr := some 0x4000 }))
     xAfter (exec (.rdx 2 ⟨0x4000, some (coreAcc (.sc 8 7 5) 0)⟩) s) 7 = 0#64 ∧
     memNat (devAfter (exec (.rdx 2 ⟨0x4000, some (coreAcc (.sc 8 7 5) 0)⟩) s)).mem 0x100000 8 = 0x80) := by decide +kernel
theorem test_core_amo : CoreAt (stCore owned) 2 (coreAcc (.amo 1 8 7 6) 0) 0x4000 (.mem 0x100000) ∧
    (amoOp 1 8 0xF1 3 0).isSome = true ∧
    memNat (devAfter (exec (.rdx 2 ⟨0x4000, some (coreAcc (.amo 1 8 7 6) 0)⟩) (stCore owned))).mem 0x100000 8 = 0xF4 ∧
    xAfter (exec (.rdx 2 ⟨0x4000, some (coreAcc (.amo 1 8 7 6) 0)⟩) (stCore owned)) 7 = 0xF1#64 := by decide +kernel
theorem test_core_casq : CoreAt (stCore owned) 2 (coreAcc (.casq 8 12) 0) 0x4000 (.mem 0x100000) ∧
    xAfter (exec (.rdx 2 ⟨0x4000, some (coreAcc (.casq 8 12) 0)⟩) (stCore owned)) 8 = 0xF1#64 ∧
    memNat (devAfter (exec (.rdx 2 ⟨0x4000, some (coreAcc (.casq 8 12) 0)⟩) (stCore owned))).mem 0x100000 8 = 0xF1 := by decide +kernel
theorem test_core_traps : ((devAfter (exec (.rdx 2 ⟨0x4000, some (coreAcc (.casq 8 12) 8)⟩) (stCore owned))).hart 2).trap = some (6, 0, 0x100008) ∧
    ((devAfter (exec (.rdx 2 ⟨0x4000, some { coreAcc (.casq 8 12) 0 with attr := .nc }⟩) (stCore owned))).hart 2).trap = some (7, 0, 0x100000) ∧
    (let x : CoreAcc := { op := .load 8 false 7, addr := 0x1F0000000000, attr := .pma, len := 4 }
     (devCore owned).corePlace ((devCore owned).partOfHart 2) x.addr 8 = .none ∧
     ((devAfter (exec (.rds 2 ⟨0x7C00000000, some x⟩) (stCore owned))).hart 2).trap = some (5, 0, 0x1F0000000000)) := by decide +kernel
/-- The register at offset 0x40_0088 lies in the window of the hart's partition. -/
def regAcc (op : CoreOp) : CoreAcc := { op, addr := regBase + 0x400088, attr := .io, len := 4 }
def regLine : Nat := (regBase + 0x400088) / 64
theorem test_core_register : (devCore {}).coreReaches 2 0x400088 = true ∧ ((devCore {}).hart 2).timedOut = [] ∧
    ((devCore {}).drainStores 2).deadPlace (((devCore {}).drainStores 2).partOfHart 2) (spacePlace ((devCore {}).drainStores 2).layout 0x400088) = false ∧
    ((devAfter (exec (.rds 2 ⟨regLine, some (regAcc (.load 8 false 7))⟩) (stCore {}))).hart 2).pc = 4#64 ∧
    ((devAfter (exec (.rdx 2 ⟨regLine, some (regAcc (.store 8 5))⟩) (stCore {}))).hart 2).pc = 4#64 ∧
    ((devAfter (exec (.rdx 2 ⟨regLine, some (regAcc (.lr 8 5))⟩) (stCore {}))).hart 2).trap = some (7, 0, regBase + 0x400088) := by decide +kernel
theorem test_kiornRequestTimeout_access : let d := devRetry.modCoh (fun z => { z with
      reqs := mapModify z.reqs 0 (fun r => { r with acc := some (coreAcc .fetch 0) }) })
    ((devAfter (exec (.kiornRequestTimeout 0) (st (2 ^ 30) d))).hart 2).trap = some (1, 0, 0x100000) := by decide +kernel
/-- A read waits at the holder in F, agent 3. -/
def devHolder : Dev := (devDir { fwd := some 3 }).modCoh (fun z => { z with
  reqs := [(0, { agent := 4, line := 0x4000, kind := .rds, fwdTo := some 3, bt := 5 })], nextReq := 1 })
theorem test_rdx_behind_read : devHolder.lineOk 2 0x4000 = true ∧ devHolder.homeOpen 2 0x4000 = true ∧ devHolder.asked 2 0x4000 = false ∧
    (devHolder.requested 10 2 0x4000 .rdx).atHolder 0x4000 1 = true ∧
    (devAfter (exec (.rdx 2 ⟨0x4000, none⟩) (st 10 devHolder))).coh.reqs.length = 2 := by decide +kernel

/-! ### Every instruction of the control stream and of a cohort completes -/

/-- What `Obligations.ControlStreamCompletes` asks of the state for every instruction. -/
def plainAt (s : State) (x : Launch) (y : Member) (w : Word) : Bool := decide
  (s.dev.launch? 0 = some x ∧ x.st = .running ∧ s.dev.member? 0 0 = some y ∧ y.ended = false ∧ y.wait = .none ∧
    (s.dev.ce y.ce).stalled = false ∧ (s.dev.sqcFind y.ce x.ctx y.pc true).map (fun q =>
      (q.bad, listNat ((q.data.drop (y.pc % 64)).take 8) 0 8)) = some (false, w.toNat) ∧ reservedOk w.toNat = true)
theorem test_stream_fields : plainAt (stEng (regWord 0 31 7 9 0 0 0x14)) oneLaunch oneMember (regWord 0 31 7 9 0 0 0x14) ∧
    plainAt (stEng (immWord 1 4 7 8 0xFFFFFFFF)) oneLaunch oneMember (immWord 1 4 7 8 0xFFFFFFFF) ∧
    plainAt (stEng (immWord 0x10 7 9 6 4)) oneLaunch oneMember (immWord 0x10 7 9 6 4) ∧
    plainAt (stEng (immWord 0x11 31 0 0 4)) oneLaunch oneMember (immWord 0x11 31 0 0 4) ∧
    plainAt (stEng (regWord 0x12 3 8 0 0 0 0)) oneLaunch oneMember (regWord 0x12 3 8 0 0 0 0) ∧
    iFN (regWord 0 31 7 9 0 0 0x14).toNat = 0x14 ∧ iSel (immWord 1 4 7 8 0xFFFFFFFF).toNat = 8 ∧ iSel (immWord 0x10 7 9 6 4).toNat = 6 ∧
    (oneMember.sget 8).toNat % 8 = 0 := by decide +kernel
theorem test_stream_local : plainAt (stEng (immWord 2 4 8 4 0xFFFFFFF9)) oneLaunch oneMember (immWord 2 4 8 4 0xFFFFFFF9) ∧
    addOff (oneMember.sget 8) (iImm (immWord 2 4 8 4 0xFFFFFFF9).toNat) = 0x2001 ∧
    ((stEng 0).dev.sqcFind 0 9 0x2001 false).map (fun g => g.bad) = some false ∧ (stEng 0).dev.moving 9 0x2001 = false ∧
    plainAt (stEng (immWord 4 4 7 2 16280)) oneLaunch oneMember (immWord 4 4 7 2 16280) ∧
    plainAt (stEng (immWord 5 9 7 2 16280)) oneLaunch oneMember (immWord 5 9 7 2 16280) ∧
    addOff (oneMember.sget 7) (iImm (immWord 5 9 7 2 16280).toNat) = 16380 ∧ oneLaunch.lsSize = 16384 ∧
    plainAt (stEng (immWord 0x13 0 7 0 16276)) oneLaunch oneMember (immWord 0x13 0 7 0 16276) ∧
    addOff (oneMember.sget 7) (iImm (immWord 0x13 0 7 0 16276).toNat) = 16376 ∧ (stEng 0).dev.cohortsDone 0 0 = true := by decide +kernel
theorem test_stream_memory : plainAt (st 50 (devMem sstWord)) oneLaunch memMember sstWord ∧ plainAt stSamo oneLaunch memMember samoWord ∧
    (devMem sstWord).sqcSound 0 9 ∧ (devMem samoWord).sqcSound 0 9 ∧
    addOff (memMember.sget 10) (iImm sstWord.toNat) = 0x40018 ∧ (memMember.sget 10).toNat = 0x40010 ∧
    tlbHit ((devMem sstWord).tlb (tlbCe 0)) 9 0x40018 = some pageU ∧ tlbHit ((devMem samoWord).tlb (tlbCe 0)) 9 0x40010 = some pageU ∧
    (devMem sstWord).isLocal ((devMem sstWord).partOfCtx 9) pageU.dpa = true ∧ pageU.inDdr = false ∧
    (devMem sstWord).pageMove 9 pageU = none ∧ iFN samoWord.toNat = 9 ∧ iFC samoWord.toNat = 1 ∧
    (((devMem samoWord).sqcClean 0 (fun g => g.ctx == 9 && g.ava == 0x40000)).sqcDrop 0
      (fun g => g.ctx == 9 && g.ava == 0x40000)).poisoned 0x40010 8 = false := by decide +kernel
theorem test_stream_waits : ([regWord 0x14 0 0 0 0 0 0, regWord 0x15 0 0 0 0 0 0, regWord 0x16 0 0 0 0 0 0, regWord 0x19 0 0 0 0 0 1,
      regWord 0x1A 0 0 0 0 0 3, regWord 0x1B 0 8 9 0 0 1, regWord 0x1C 4 0 0 0 0 0, regWord 0x1D 4 0 0 0 0 0,
      regWord 0x1E 0 9 0 0 0 0].all (fun w => plainAt (stEng w) oneLaunch oneMember w)) = true ∧
    plainAt (stTicket (regWord 0x18 0 9 0 0 0 1)) oneLaunch { oneMember with tickets := [(1, 5)] } (regWord 0x18 0 9 0 0 0 1) ∧
    (oneMember.sget 9).toNat ≤ 50 ∧
    (stEng 0).dev.sqcSound 0 9 ∧ (stEng 0).dev.cmdsLeft 0 0 none = false ∧ (stTicket 0).dev.cmdsLeft 0 0 (some (1, 5)) = false ∧
    (stEng 0).dev.readoutLeft oneLaunch oneMember = false ∧ (stEng 0).dev.cohortsDone 0 0 = true := by decide +kernel
theorem test_stream_signal : plainAt (stSig ring0) oneLaunch sigMember ring0 ∧ (devSig ring0).sqcSound 0 9 ∧
    (devSig ring0).cmdsLeft 0 0 none = false ∧ iFN ring0.toNat = 0 ∧ (sigMember.sget (iC ring0.toNat)).toNat = 0 ∧
    ((devSig ring0).sqcClean 0 (fun g => g.ctx == 9 && g.dirty)).poisoned 0x40000 16 = false ∧
    ((devSig ring0).sqcClean 0 (fun g => g.ctx == 9 && g.dirty)).target 0
      (memNat ((devSig ring0).sqcClean 0 (fun g => g.ctx == 9 && g.dirty)).mem 0x40000 16) = some (.ring 5 3) ∧
    ((devSig ring0).sqcClean 0 (fun g => g.ctx == 9 && g.dirty)).postWaits 5 = false := by decide +kernel
def trdKeep : Word := 0x8205000000000000
def stKeep : State := st 50 (stTrd.dev.modCe 0 (fun e => { e with
  sqc := [{ ctx := 9, ava := 0x1000, insn := true, lg := 16, dirty := false, dpa := 0x1000, data := leBytes 8 0 ++ leBytes 8 trdKeep.toNat }] }))
theorem test_stream_tensor : plainAt stMma oneLaunch tenMember mmaWord ∧ mmaExc oneLaunch (stMma.dev.ce 0) (some tA) (some tB) = none ∧
    (stKeep.dev.member? 0 0).map (fun y => decide (plainAt stKeep oneLaunch y trdKeep ∧ y.handle 5 = some tD ∧
      trdExc oneLaunch trdKeep.toNat (some tD) (y.handle (iTA trdKeep.toNat)) = none)) = some true ∧
    bit trdKeep.toNat 11 = false ∧ bit trdKeep.toNat 12 = false ∧ bit trdKeep.toNat 13 = false ∧ bit trdKeep.toNat 15 = false ∧
    plainAt stCbld wideLaunch tenMember (tenWord 0x83 0 0 0 8 2) ∧ (stCbld.dev.ce 0).tensor = some (0, 0) := by decide +kernel
theorem test_stream_commands : ([getWord, putWord, redWord 12, fillWord].all (fun w => plainAt (stCmd w) oneLaunch cmdMember w)) = true ∧
    ([gatherWord, scatterWord].all (fun w => plainAt (st 50 (devList w)) oneLaunch cmdMember w)) = true ∧
    ([seWord 0xA0, seWord 0xA1].all (fun w => plainAt (st 50 (devKv w)) oneLaunch cmdMember w)) = true ∧
    plainAt (st 50 (devSe xdispBlock (seWord 0xA2))) oneLaunch cmdMember (seWord 0xA2) = true ∧
    plainAt (st 50 (devSe lchkBlock (seWord 0xA3))) oneLaunch cmdMember (seWord 0xA3) = true ∧
    iTwoD getWord.toNat = false ∧ iRb getWord.toNat = false ∧ bits (redWord 12).toNat 2 0 = 0 ∧ iRb fillWord.toNat = false ∧
    (devList gatherWord).lsNat cmdMember 0x400 8 = 0x40000 ∧ (devList gatherWord).lsNat cmdMember 0x408 4 = 16 ∧
    (devList gatherWord).lsNat cmdMember 0x40C 4 = 0 := by decide +kernel
/-- What `Obligations.CohortsAndEventsComplete` asks of the state for every instruction of cohort 0. -/
def cohortAtPlain (s : State) (q : Cohort) (w : Word) : Bool := decide
  (s.dev.launch? 0 = some oneLaunch ∧ oneLaunch.st = .running ∧ s.dev.member? 0 0 = some oneMember ∧
    mapFind? s.dev.eng.cohorts (cohortKey 0 0 0) = some q ∧ q.ended = false ∧ s.dev.slotTurn (cohortKey 0 0 0) q = true ∧
    q.pc + 8 ≤ oneLaunch.lsSize ∧ s.dev.lsNat oneMember q.pc 8 = w.toNat ∧ reservedOk w.toNat = true)
theorem test_cohort_plain : ([regWord 0x30 31 2 1 0 0 0xE, immWord 0x31 4 1 8 0xFFFFFFFF, regWord 0x32 7 2 3 0 0 5, regWord 0x33 4 2 1 7 0 0,
      regWord 0x72 4 1 3 0 0 0, immWord 0x60 4 3 5 8, immWord 0x62 4 3 0 0, immWord 0x61 1 2 4 24, immWord 0x63 1 3 5 64,
      regWord 0x64 4 3 1 0 0 5, regWord 0x70 0 0 0 0 0 0, regWord 0x71 2 1 0 0 0 1, immWord 0x73 1 0 9 0xFFFFFFFF,
      regWord 0x74 0 0 0 0 0 0].all (fun w => cohortAtPlain (stVec w) vecCohort w)) = true ∧
    ([regWord 0x40 4 5 6 0 2 6, regWord 0x41 4 5 6 5 2 0, regWord 0x42 3 5 6 0 2 3, regWord 0x50 4 6 0 0 2 6, regWord 0x51 4 5 0 0 0 2].all
      (fun w => cohortAtPlain (st 50 (devFp w)) vecCohort w)) = true ∧ dstOk oneLaunch 4 = true ∧ srcOk oneLaunch 6 = true ∧
    vfFmt 2 = some fmtFp16 ∧ fmtMx 0 = false ∧ convOk 0 = true ∧ convOk 2 = true := by decide +kernel
/-- VLD of signed halfwords at v3 + 8, and the last four bytes that VST may write: each lane is aligned and within Local Store. -/
theorem test_cohort_lanes : ((vecCohort.lanesOn (immWord 0x60 4 3 5 8).toNat).all (fun i => decide
      ((devVec 0).vaddr oneLaunch oneMember 0 (immWord 0x60 4 3 5 8).toNat 2 false i % 2 = 0 ∧
        (devVec 0).vaddr oneLaunch oneMember 0 (immWord 0x60 4 3 5 8).toNat 2 false i + 2 ≤ oneLaunch.lsSize))) = true ∧
    ((vecCohort.lanesOn (immWord 0x63 1 3 5 64).toNat).all (fun i => decide
      ((devVec 0).vaddr oneLaunch oneMember 0 (immWord 0x63 1 3 5 64).toNat 2 true i % 2 = 0 ∧
        (devVec 0).vaddr oneLaunch oneMember 0 (immWord 0x63 1 3 5 64).toNat 2 true i + 2 ≤ oneLaunch.lsSize))) = true ∧
    ((vecCohort.lanesOn (regWord 0x64 4 3 1 0 0 5).toNat).all (fun i => decide
      (((devVec 0).vsrc oneLaunch oneMember 0 3 i).toNat % 4 = 0 ∧ ((devVec 0).vsrc oneLaunch oneMember 0 3 i).toNat + 4 ≤
        oneLaunch.lsSize))) = true ∧ vecCohort.lanesOn (regWord 0x70 0 0 0 0 0 0).toNat ≠ [] ∧ vecCohort.atBar = false := by decide +kernel
theorem test_events_fill : (stMiss.dev.ce 0).miss.map (fun q => (q.ava, q.prefetch)) = some (0x40000, false) ∧
    tlbHit ((stMiss.dev.hitLines 0 []).tlb (tlbCe 0)) 9 0x40000 = some pageU ∧
    (stMiss.dev.hitLines 0 []).isLocal ((stMiss.dev.hitLines 0 []).partOfCtx 9) pageU.dpa = true ∧
    (stMiss.dev.hitLines 0 []).pageMove 9 pageU = none ∧ (List.range 16).any (stMiss.dev.hitLines 0 []).linkDead = false := by decide +kernel

end Sys2Proof.Tests
end

section
/-! SUPPORT. Power-on: every register at its reset value (R5, R6, R480). -/

namespace Sys2Proof.Machine

/-- The reset value of a register holds in every field the reset value of its table (R6). -/
theorem regReset_field (r : RegName) : ∀ f ∈ regFields r, bits (regReset r).toNat f.fld.hi f.fld.lo = f.reset := by
  cases r <;> decide

/-- At power-on no register has been written, so each reads its reset value. -/
theorem reset_reg (r : RegName) (i : Nat) : State.reset.dev.reg r i = regReset r := rfl

/-- At power-on every field reads the reset value of its table (R6). -/
theorem reset_fget {r : RegName} {f : FldDef} (i : Nat) (h : f ∈ regFields r) : State.reset.dev.fget f.fld i = f.reset := by
  obtain ⟨-, -, rfl⟩ := regFields_in r f h
  exact regReset_field _ f h

/-- Settles O3: registers read their reset values because none is stored, and the fields named are read off the tables. -/
theorem powerOnState : Obligations.PowerOnState := by
  unfold Obligations.PowerOnState
  exact ⟨rfl, rfl, rfl, rfl, reset_reg, fun _ _ i h => reset_fget i h, rfl, rfl, rfl, rfl, rfl, rfl⟩

end Sys2Proof.Machine
end

section
/-! SUPPORT. Completion: every command answers a next state and keeps the queue behind it (R6, R7, R476). -/

namespace Sys2Proof.Machine

/-- Every meaning changes the device alone, or the device and Board Time: none touches the queue, and none faults or is refused. -/
theorem exec_changes (c : Instr) (s : State) :
    (∃ d, exec c s = .next { s with dev := d }) ∨ (∃ b d, exec c s = .next { s with bt := b, dev := d }) := by
  cases c
  case ptpSample | ppsEdge | coldStart | sysResetAsserted | powerRemoved => exact .inr ⟨_, _, rfl⟩
  all_goals exact .inl ⟨_, rfl⟩

/-- No command is refused or stops the device, and the commands behind it keep their places. -/
theorem exec_completes (c : Instr) (s : State) : ∃ t, exec c s = .next t ∧ t.pending = s.pending := by
  rcases exec_changes c s with ⟨d, h⟩ | ⟨b, d, h⟩
  · exact ⟨_, h, rfl⟩
  · exact ⟨_, h, rfl⟩

/-- A step with a command at the front completes it and leaves the rest of the queue. -/
theorem step_completes {s : State} {c : Instr} {rest : List Instr} (h : s.pending = c :: rest) :
    ∃ t, step s = .next t ∧ t.pending = rest := by
  unfold step
  rw [h]
  exact exec_completes c { s with pending := rest }

/-- As many steps as commands wait run the queue empty. -/
theorem runSteps_drains (q : List Instr) (s : State) (h : s.pending = q) :
    ∃ t, runSteps q.length s = some t ∧ t.pending = [] := by
  induction q generalizing s with
  | nil => exact ⟨s, rfl, h⟩
  | cons c rest ih =>
    obtain ⟨u, hstep, hu⟩ := step_completes h
    obtain ⟨t, hrun, ht⟩ := ih u hu
    exact ⟨t, by simp [runSteps, hstep, hrun], ht⟩

/-- Settles O4: by cases on the command, then by induction on the queue. -/
theorem everyCommandCompletes : Obligations.EveryCommandCompletes := by
  unfold Obligations.EveryCommandCompletes
  exact ⟨exec_completes, fun s => runSteps_drains _ s rfl⟩

end Sys2Proof.Machine
end

section
/-! SUPPORT. Register writes field by field (R6, R7, R477). -/

namespace Sys2Proof.Machine

theorem Dev.fget_lt (d : Dev) (f : Fld) (i : Nat) : d.fget f i < 2 ^ (f.hi + 1 - f.lo) := bits_lt _ _ _

/-- What an access code leaves fits in the field when the old and the written value do (R6). -/
theorem fieldAfter_lt {w old new : Nat} (a : Acc) (ho : old < 2 ^ w) (hn : new < 2 ^ w) : fieldAfter a old new < 2 ^ w := by
  cases a with
  | rw | rwl | rwo => exact hn
  | ro | roFw => exact ho
  | wo => exact Nat.two_pow_pos w
  | w1c => exact Nat.and_lt_two_pow old (Nat.xor_lt_two_pow ho hn)
  | w1s => exact Nat.or_lt_two_pow ho hn

/-- The value an accepted write leaves has in each field what its access code says (R6). -/
theorem Dev.bits_afterWrite (d : Dev) (p : Party) {r : RegName} (i : Nat) (v : Word) {f : FldDef} (h : f ∈ regFields r) :
    bits (d.afterWrite p r i v).toNat f.fld.hi f.fld.lo =
      fieldAfter (accFor p f) (d.fget f.fld i) (bits v.toNat f.fld.hi f.fld.lo) := by
  unfold Dev.afterWrite
  rw [bits_putAll_in _ f _ _ h (fun g hg => ⟨(regFields_in r g hg).1, (regFields_in r g hg).2.1⟩) (regFields_disjoint r)]
  exact Nat.mod_eq_of_lt (fieldAfter_lt _ (d.fget_lt _ _) (bits_lt _ _ _))

theorem Dev.fget_setReg_afterWrite (d : Dev) (p : Party) {r : RegName} (i : Nat) (v : Word) {f : FldDef} (h : f ∈ regFields r) :
    (d.setReg r i (d.afterWrite p r i v)).fget f.fld i =
      fieldAfter (accFor p f) (d.fget f.fld i) (bits v.toNat f.fld.hi f.fld.lo) := by
  rw [← d.bits_afterWrite p i v h]
  obtain ⟨-, -, hr⟩ := regFields_in r f h
  unfold Dev.fget
  rw [hr, Dev.reg_setReg_same]

/-- A write that would change a locked RWL field does not pass R7 (R477). -/
theorem Dev.writeOk_locked {d : Dev} {p : Party} {r : RegName} {i : Nat} {v : Word} {f : FldDef} (h : f ∈ regFields r)
    (ha : accFor p f = .rwl) (hl : d.locked r i = true) (hc : bits v.toNat f.fld.hi f.fld.lo ≠ d.fget f.fld i) :
    d.writeOk p r i v = false := by
  obtain ⟨-, -, hr⟩ := regFields_in r f h
  have hf : d.fieldOk p i v.toNat f = false := by simp [Dev.fieldOk, ha, hr, hl, hc]
  have : (regFields r).all (d.fieldOk p i v.toNat) = false := List.all_eq_false.mpr ⟨f, h, by simp [hf]⟩
  simp [Dev.writeOk, this]

/-- A write that does not pass R7 is refused, with CONFLICT when it claims an owned resource. -/
theorem Dev.regWrite_not_ok {d : Dev} {p : Party} {r : RegName} {i : Nat} {v : Word} (own : Verdict) (eff : Dev → Dev)
    (h : d.writeOk p r i v = false) : d.regWrite p r i v own eff = d.refuse r i (decide (own = .conflict)) := by
  simp [Dev.regWrite, h]

/-- Settles O57: an accepted write stores the value of R6 field by field, and a changed locked field fails R7's check. -/
theorem registerFields : Obligations.RegisterFields := by
  unfold Obligations.RegisterFields
  constructor
  · intro d p r i v f hf hok
    rw [Dev.regWrite_ok d p r i v id hok]
    exact d.fget_setReg_afterWrite p i v hf
  · intro d p r i v f own eff hf ha hl hc
    exact Dev.regWrite_not_ok own eff (Dev.writeOk_locked hf ha hl hc)

end Sys2Proof.Machine
end

section
/-! SUPPORT. Writes at an offset of the register space, by the party that makes them (R470 to R473, R477). -/

namespace Sys2Proof.Machine

theorem spacePlace_evcCtrl (layout : Nat) : spacePlace layout 0x20000 = .reg .evcCtrl 0 := rfl

theorem spacePlace_hbmcChSlot (layout : Nat) : spacePlace layout 0x307090 = .reg .hbmcChSlot 450 := rfl

theorem spacePlace_window_xlatInvReq : spacePlace 0xFF (0x400000 + 3 * 0x800000 + 0x10040) = .reg .xlatInvReq 3 := by decide

/-- A register with no rule of its own takes the value of R6 or refuses the write (R7). -/
theorem Dev.regWrite_plain (d : Dev) (p : Party) (r : RegName) (i : Nat) (v : Word) :
    d.regWrite p r i v .ok id = if d.writeOk p r i v then d.setReg r i (d.afterWrite p r i v) else d.refuse r i false := by
  cases h : d.writeOk p r i v with
  | true => rw [Dev.regWrite_ok d p r i v id h]; rfl
  | false => exact Dev.regWrite_not_ok .ok id h

/-- The registers whose write has no rule or effect beside R6 and R7. -/
theorem Dev.writeReg_plain (bt : Nat) (d : Dev) (p : Party) {r : RegName} (i : Nat) (v : Word)
    (h : r ∈ [RegName.arbWdog, .arbEscLimit, .evcAge, .resEscCfg, .kioTimeout, .shcRetryCfg, .prtPromAge, .hbmcScrubCfg,
      .xlatFqTimeout]) : d.writeReg bt p r i v = d.regWrite p r i v .ok id := by
  simp only [List.mem_cons, List.not_mem_nil, or_false] at h
  rcases h with rfl | rfl | rfl | rfl | rfl | rfl | rfl | rfl | rfl <;> rfl

/-- An aligned write of a pair that runs reaches its place, unless the place is in reset (R470, R481). -/
theorem Dev.firmwareStore_reaches {d : Dev} {k off : Nat} {x : Place} (bt : Nat) (v : Word) (hk : k < 4)
    (hrun : d.fget F.arbPairStatusState k ≠ pairStopped) (hal : off % 8 = 0) (hat : spacePlace d.layout off = x)
    (hres : d.inReset x = false) : d.firmwareStore bt k off v = d.placeWrite bt (.firmware k) v x := by
  subst hat
  have hgo : ¬(4 ≤ k ∨ d.fget F.arbPairStatusState k = pairStopped ∨ off % 8 ≠ 0 ∨ d.inReset (spacePlace d.layout off) = true) := by
    simp [hk, hrun, hal, hres]
  exact if_neg hgo

/-- A firmware write at an unassigned offset changes nothing, whichever pair makes it (R470). -/
theorem Dev.firmwareStore_unassigned {d : Dev} {off : Nat} (bt k : Nat) (v : Word) (h : spacePlace d.layout off = .unassigned) :
    d.firmwareStore bt k off v = d := by
  unfold Dev.firmwareStore
  simp only [h]
  exact ite_self _

/-- A write of `EVC.CTRL` that passes R7 clears the block's counters when it sets CNT_CLR. -/
theorem Dev.writeReg_evcCtrl (bt : Nat) (d : Dev) (p : Party) (v : Word) (h : d.writeOk p .evcCtrl 0 v = true) :
    d.writeReg bt p .evcCtrl 0 v =
      if bit v.toNat 0 then (d.setReg .evcCtrl 0 (d.afterWrite p .evcCtrl 0 v)).clearCounters .evcStat 0
      else d.setReg .evcCtrl 0 (d.afterWrite p .evcCtrl 0 v) := Dev.regWrite_ok d p .evcCtrl 0 v _ h

theorem Dev.evcCtrl_takes_cntClr (d : Dev) (k : Nat) : d.writeOk (.firmware k) .evcCtrl 0 1#64 = true := rfl

theorem Dev.evcCtrl_takes_lock (d : Dev) (k : Nat) : d.writeOk (.firmware k) .evcCtrl 0 0x8000000000000000#64 = true := rfl

/-- Writing 1 to the W1S field LOCK sets it, whatever it held. -/
theorem Dev.evcCtrl_locked_after (d : Dev) (k : Nat) :
    (d.setReg .evcCtrl 0 (d.afterWrite (.firmware k) .evcCtrl 0 0x8000000000000000#64)).fon F.evcCtrlLock 0 = true := by
  have hf : (⟨F.evcCtrlLock, .w1s, 0, 0, 1, false, false⟩ : FldDef) ∈ regFields .evcCtrl := by decide
  have hset := d.fget_setReg_afterWrite (.firmware k) 0 0x8000000000000000#64 hf
  have hbit : bits (0x8000000000000000#64 : Word).toNat F.evcCtrlLock.hi F.evcCtrlLock.lo = 1 := by decide
  have hold : d.fget F.evcCtrlLock 0 < 2 := bits_lt _ 63 63
  unfold Dev.fon
  rw [hset, hbit]
  show (d.fget F.evcCtrlLock 0 ||| 1) == 1
  interval_cases d.fget F.evcCtrlLock 0 <;> rfl

/-- A host's write in the read-only subset of BAR0 is refused (R473). -/
theorem Dev.hostStore_readOnly {d : Dev} {q off : Nat} (bt : Nat) (v : Word) (hq : q < 4) (hup : d.linkUp q = true)
    (hal : off % 8 = 0) (hwarm : d.res.warm = none) (hlo : 0x2000000 ≤ off) (hhi : off < 0x4000000) :
    d.hostStore bt q off v = d.refuse .hptCfgErr q false := by
  unfold Dev.hostStore
  rw [if_neg (by simp [hup, hal]; omega), if_neg (by simp [hwarm]), if_neg (by omega), if_neg (by omega), if_neg (by omega)]

/-- A core's store out of its reach raises its access fault and is logged; one to a hart of another partition counts as dropped too
(R224, R234). -/
theorem Dev.coreStore_unreached {d : Dev} {h off : Nat} (bt : Nat) (v : Word) (hrun : d.runs h = true)
    (hto : (d.hart h).timedOut = []) (hreach : d.coreReaches h off = false) :
    d.coreStore bt h off v =
      let e := if off % 8 = 0 ∧ 0x4800000 ≤ off ∧ off < 0x4B00000 then d.fbump F.hubCoreIsoDropped 0 1 else d
      (e.tlog bt 1 43 (some (e.partOfHart h)) h (regBase + off)).coreTrap h 7 (regBase + off) := by
  simp [Dev.coreStore, Dev.spaceTrap, hrun, hto, hreach]

/-- REGISTER_WRITE leaves the device as the write at its offset does, and nothing else of the state. -/
theorem exec_registerWrite_next {s : State} {p : Party} {off : Nat} {v : Word} {d : Dev}
    (h : s.dev.spaceWrite s.bt p off v = d) : exec (.registerWrite p off v) s = .next { s with dev := d } := h ▸ rfl

/-- COUNTER_CLEAR is a write at an offset too, and so is LOCK. -/
theorem exec_counterClear_eq_registerWrite (p : Party) (off : Nat) (v : Word) (s : State) :
    exec (.counterClear p off v) s = exec (.registerWrite p off v) s := rfl

theorem exec_lock_eq_registerWrite (p : Party) (off : Nat) (v : Word) (s : State) :
    exec (.lock p off v) s = exec (.registerWrite p off v) s := rfl

/-- A firmware write of `EVC.CTRL` that passes R7. -/
theorem Dev.spaceWrite_evcCtrl {d : Dev} {k : Nat} {v : Word} (bt : Nat) (hk : k < 4)
    (hrun : d.fget F.arbPairStatusState k ≠ pairStopped) (hres : d.inReset (.reg .evcCtrl 0) = false)
    (hok : d.writeOk (.firmware k) .evcCtrl 0 v = true) :
    d.spaceWrite bt (.firmware k) 0x20000 v =
      if bit v.toNat 0 then (d.setReg .evcCtrl 0 (d.afterWrite (.firmware k) .evcCtrl 0 v)).clearCounters .evcStat 0
      else d.setReg .evcCtrl 0 (d.afterWrite (.firmware k) .evcCtrl 0 v) :=
  (Dev.firmwareStore_reaches bt v hk hrun rfl (spacePlace_evcCtrl _) hres).trans (Dev.writeReg_evcCtrl bt d _ v hok)

/-- Settles O56: each clause is the rule of the party that writes, at the place the index gives the offset. -/
theorem registerAccess : Obligations.RegisterAccess := by
  unfold Obligations.RegisterAccess
  refine ⟨?reg, ?plain, ?cntClr, ?lock, ?empty, ?unassigned, ?host, ?core, ?msi, spacePlace_hbmcChSlot,
    spacePlace_window_xlatInvReq⟩
  case reg =>
    intro s k off i r v hk hrun hal hat hres
    exact exec_registerWrite_next (Dev.firmwareStore_reaches s.bt v hk hrun hal hat hres)
  case plain =>
    intro bt i d p r v hr
    rw [Dev.writeReg_plain bt d p i v hr, Dev.regWrite_plain]
  case cntClr =>
    intro s k hk hrun hres
    rw [exec_counterClear_eq_registerWrite]
    exact exec_registerWrite_next (Dev.spaceWrite_evcCtrl s.bt hk hrun hres (s.dev.evcCtrl_takes_cntClr k))
  case lock =>
    intro s k d hk hrun hres hd
    subst hd
    rw [exec_lock_eq_registerWrite]
    exact ⟨exec_registerWrite_next (Dev.spaceWrite_evcCtrl s.bt hk hrun hres (s.dev.evcCtrl_takes_lock k)),
      s.dev.evcCtrl_locked_after k⟩
  case empty =>
    intro s k off i e v hk hrun hal hat
    exact exec_registerWrite_next (Dev.firmwareStore_reaches s.bt v hk hrun hal hat rfl)
  case unassigned =>
    intro s k off v hat
    exact exec_registerWrite_next (Dev.firmwareStore_unassigned s.bt k v hat)
  case host =>
    intro s q off v hq hup hal hwarm hlo hhi
    exact exec_registerWrite_next (Dev.hostStore_readOnly s.bt v hq hup hal hwarm hlo hhi)
  case core =>
    intro s h off v hrun hto hreach hout
    have hmsi : ¬(off % 8 = 0 ∧ 0x4800000 ≤ off ∧ off < 0x4B00000) := by omega
    exact exec_registerWrite_next ((Dev.coreStore_unreached s.bt v hrun hto hreach).trans (by simp only [if_neg hmsi, regBase]))
  case msi =>
    intro s h off v d hrun hto hreach hal hlo hhi hd
    subst hd
    have hmsi : off % 8 = 0 ∧ 0x4800000 ≤ off ∧ off < 0x4B00000 := ⟨hal, hlo, hhi⟩
    exact exec_registerWrite_next ((Dev.coreStore_unreached s.bt v hrun hto hreach).trans (by simp only [if_pos hmsi, regBase]))

end Sys2Proof.Machine
end

section
/-! SUPPORT. Partition layouts and the ways of requests over the Kiorn (R13 to R17). -/

namespace Sys2Proof.Machine

/-! ### Partitions of a layout -/

theorem partOf_succ (mask n : Nat) : partOf mask (n + 1) = if bit mask (n + 1) then n + 1 else partOf mask n := rfl

/-- A partition is named by its lowest die. -/
theorem partOf_le (mask n : Nat) : partOf mask n ≤ n := by
  induction n with
  | zero => exact Nat.le_refl 0
  | succ n ih =>
    rw [partOf_succ]
    split <;> omega

/-- The die that names a partition starts it. -/
theorem partStarts_partOf (mask n : Nat) : partStarts mask (partOf mask n) = true := by
  simp only [partStarts, beq_iff_eq]
  induction n with
  | zero => rfl
  | succ n ih =>
    by_cases h : bit mask (n + 1) = true
    · have hself : partOf mask (n + 1) = n + 1 := by rw [partOf_succ, if_pos h]
      rw [hself, hself]
    · rwa [partOf_succ, if_neg h]

/-- The dies between a partition's lowest and another of its dies lie in it too. -/
theorem partOf_between {mask a n m : Nat} (hn : partOf mask n = a) (ham : a ≤ m) (hmn : m ≤ n) : partOf mask m = a := by
  induction n with
  | zero =>
    obtain rfl : m = 0 := by omega
    exact hn
  | succ n ih =>
    rcases Nat.lt_or_ge n m with h | h
    · obtain rfl : m = n + 1 := by omega
      exact hn
    · rw [partOf_succ] at hn
      split at hn
      · omega
      · exact ih hn h

/-- How many of the dies below `n` lie in the partition that starts at die `a`. -/
def diesBelow (mask a n : Nat) : Nat := ((List.range n).filter (fun m => partOf mask m == a)).length

theorem partDies_eq_diesBelow (mask a : Nat) : partDies mask a = diesBelow mask a 8 := rfl

theorem diesBelow_succ (mask a n : Nat) :
    diesBelow mask a (n + 1) = diesBelow mask a n + if partOf mask n = a then 1 else 0 := by
  by_cases h : partOf mask n = a <;> simp [diesBelow, List.range_succ, List.filter_append, h]

/-- The dies of a partition are as many consecutive numbers as it has dies, from its lowest die on. -/
theorem partOf_eq_iff_diesBelow (mask a n : Nat) : a + diesBelow mask a n ≤ max a n ∧
    ∀ m < n, partOf mask m = a ↔ a ≤ m ∧ m < a + diesBelow mask a n := by
  induction n with
  | zero => exact ⟨by simp [diesBelow], fun m hm => absurd hm (Nat.not_lt_zero m)⟩
  | succ n ih =>
    obtain ⟨hle, hmem⟩ := ih
    rw [diesBelow_succ]
    by_cases hn : partOf mask n = a
    · rw [if_pos hn]
      have han : a ≤ n := hn ▸ partOf_le mask n
      -- all dies from `a` up to `n` have been counted before
      have hcount : a + diesBelow mask a n = n := by
        rcases Nat.eq_or_lt_of_le han with rfl | hlt
        · omega
        · have := ((hmem (n - 1) (by omega)).mp (partOf_between hn (by omega) (by omega))).2
          omega
      refine ⟨by omega, fun m hm => ⟨fun h => ⟨h ▸ partOf_le mask m, by omega⟩, fun h => ?_⟩⟩
      exact partOf_between hn h.1 (by omega)
    · rw [if_neg hn]
      refine ⟨by omega, fun m hm => ?_⟩
      rcases Nat.lt_or_ge m n with h | h
      · exact hmem m h
      · obtain rfl : m = n := by omega
        exact ⟨fun e => absurd e hn, fun e => by omega⟩

/-- Die `m` lies in the partition at die `a` when it is one of the `partDies` dies from `a` on. -/
theorem partOf_eq_iff (mask a : Nat) {m : Nat} (hm : m < 8) : partOf mask m = a ↔ a ≤ m ∧ m < a + partDies mask a :=
  (partOf_eq_iff_diesBelow mask a 8).2 m hm

/-- What a layout that `PRT.LAYOUT.NEXT` may hold says of each of its partitions (R16, R474). -/
theorem partDies_of_layoutOk {mask a : Nat} (hl : layoutOk mask = true) (ha : a < 8) (hs : partStarts mask a = true) :
    partDies mask a ∈ [1, 2, 4, 8] ∧ a % partDies mask a = 0 := by
  simp only [layoutOk, Bool.and_eq_true, List.all_eq_true, List.contains_iff_mem, beq_iff_eq] at hl
  obtain ⟨-, hparts⟩ := hl
  exact hparts a (List.mem_filter.mpr ⟨List.mem_range.mpr ha, hs⟩)

/-- The uniform layouts of the four modes: partition Pp starts at die `size * p` and has `size` dies (R16). -/
theorem uniformLayouts : ∀ x ∈ [(0x01, 1, 8), (0x11, 2, 4), (0x55, 4, 2), (0xFF, 8, 1)], ∀ p < x.2.1, ∀ n < 8,
    partAt x.1 p = some (x.2.2 * p) ∧ partNum x.1 (x.2.2 * p) = p ∧
      (partOf x.1 n = x.2.2 * p ↔ x.2.2 * p ≤ n ∧ n < x.2.2 * (p + 1)) := by decide

/-- The layouts that the four modes set are the uniform ones. -/
theorem Dev.layoutOf_uniform (d : Dev) {mode count size : Nat}
    (h : (mode, count, size) ∈ [(0, 1, 8), (1, 2, 4), (2, 4, 2), (3, 8, 1)]) :
    (d.layoutOf mode, count, size) ∈ [(0x01, 1, 8), (0x11, 2, 4), (0x55, 4, 2), (0xFF, 8, 1)] := by
  simp only [List.mem_cons, Prod.mk.injEq, List.not_mem_nil, or_false] at h
  rcases h with ⟨rfl, rfl, rfl⟩ | ⟨rfl, rfl, rfl⟩ | ⟨rfl, rfl, rfl⟩ | ⟨rfl, rfl, rfl⟩ <;> simp [Dev.layoutOf]

/-! ### The ways of requests -/

/-- From the Hub a request crosses the die's own link alone (R13). -/
theorem kiornWay_from_hub {n : Nat} (slice : Nat) (hn : n < 8) : kiornWay hubNode n slice = [n] := by
  have : hubNode ≠ n := by unfold hubNode; omega
  simp [kiornWay, this]

/-- To the Hub a request crosses the die's own link alone (R13). -/
theorem kiornWay_to_hub {n : Nat} (slice : Nat) (hn : n < 8) : kiornWay n hubNode slice = [n] := by
  have : n ≠ hubNode := by unfold hubNode; omega
  simp [kiornWay, this]

/-- Between two dies a request goes upward at a distance below four and downward above it; at four the home slice decides (R14). -/
theorem kiornWay_cases {src dst up : Nat} (slice : Nat) (hs : src < 8) (hd : dst < 8) (hne : src ≠ dst)
    (hup : up = (dst + 8 - src) % 8) :
    (kiornWay src dst slice = ringUp src up ∧ (up < 4 ∨ up = 4 ∧ slice % 2 = 0)) ∨
      (kiornWay src dst slice = ringDown src (8 - up) ∧ (4 < up ∨ up = 4 ∧ slice % 2 = 1)) := by
  have hs' : src ≠ hubNode := by unfold hubNode; omega
  have hd' : dst ≠ hubNode := by unfold hubNode; omega
  simp only [kiornWay, if_neg hne, if_neg hs', if_neg hd', ← hup]
  split
  · exact .inl ⟨rfl, ‹_›⟩
  · exact .inr ⟨rfl, by omega⟩

/-- A ring link joins a die and its neighbour upward (R282). -/
theorem linkEnds_ring (n : Nat) : linkEnds (8 + n) = (n, (n + 1) % 8) := by
  have hlow : ¬8 + n < 8 := by omega
  simp only [linkEnds, if_neg hlow, Prod.mk.injEq]
  omega

theorem mem_ringUp {a n l : Nat} : l ∈ ringUp a n ↔ ∃ i < n, l = 8 + (a + i) % 8 := by
  simp [ringUp, eq_comm]

theorem mem_ringDown {a n l : Nat} : l ∈ ringDown a n ↔ ∃ i < n, l = 8 + (a + 7 - i) % 8 := by
  simp [ringDown, eq_comm]

/-- Every link of a way between two dies is a ring link, and where the dies lie in one aligned group of `k` dies from `a` on, so do
both ends of the link. -/
theorem kiornWay_link {src dst slice l : Nat} (hs : src < 8) (hd : dst < 8) (hne : src ≠ dst) (hl : l ∈ kiornWay src dst slice) :
    ∃ j < 8, l = 8 + j ∧ ∀ a k, k ∈ [1, 2, 4, 8] → a % k = 0 → a ≤ src → src < a + k → a ≤ dst → dst < a + k →
      (a ≤ j ∧ j < a + k) ∧ a ≤ (j + 1) % 8 ∧ (j + 1) % 8 < a + k := by
  rcases kiornWay_cases slice hs hd hne rfl with ⟨hway, hdist⟩ | ⟨hway, hdist⟩
  · obtain ⟨i, hi, rfl⟩ := mem_ringUp.mp (hway ▸ hl)
    refine ⟨(src + i) % 8, by omega, rfl, fun a k hk => ?_⟩
    simp only [List.mem_cons, List.not_mem_nil, or_false] at hk
    rcases hk with rfl | rfl | rfl | rfl <;> omega
  · obtain ⟨i, hi, rfl⟩ := mem_ringDown.mp (hway ▸ hl)
    refine ⟨(src + 7 - i) % 8, by omega, rfl, fun a k hk => ?_⟩
    simp only [List.mem_cons, List.not_mem_nil, or_false] at hk
    rcases hk with rfl | rfl | rfl | rfl <;> omega

/-- Within a partition no link that joins two partitions is crossed (R15). -/
theorem kiornWay_in_partition {mask src dst slice l : Nat} (hok : layoutOk mask = true) (hs : src < 8) (hd : dst < 8)
    (hne : src ≠ dst) (hl : l ∈ kiornWay src dst slice) (hsame : partOf mask src = partOf mask dst) :
    partOf mask (linkEnds l).1 = partOf mask src ∧ partOf mask (linkEnds l).2 = partOf mask src := by
  obtain ⟨j, hj, rfl, hends⟩ := kiornWay_link hs hd hne hl
  have ha : partOf mask src < 8 := Nat.lt_of_le_of_lt (partOf_le mask src) hs
  obtain ⟨hsize, halign⟩ := partDies_of_layoutOk hok ha (partStarts_partOf mask src)
  obtain ⟨hs1, hs2⟩ := (partOf_eq_iff mask _ hs).mp rfl
  obtain ⟨hd1, hd2⟩ := (partOf_eq_iff mask _ hd).mp hsame.symm
  obtain ⟨hlow, hhigh⟩ := hends _ _ hsize halign hs1 hs2 hd1 hd2
  rw [linkEnds_ring]
  exact ⟨(partOf_eq_iff mask _ hj).mpr hlow, (partOf_eq_iff mask _ (Nat.mod_lt _ (by omega))).mpr hhigh⟩

/-- The way between two dies is the shorter one (R14). -/
theorem kiornWay_length {src dst : Nat} (slice : Nat) (hs : src < 8) (hd : dst < 8) (hne : src ≠ dst) :
    (kiornWay src dst slice).length = min ((dst + 8 - src) % 8) ((src + 8 - dst) % 8) := by
  rcases kiornWay_cases slice hs hd hne rfl with ⟨hway, hdist⟩ | ⟨hway, hdist⟩ <;> rw [hway]
  · simp only [ringUp, List.length_map, List.length_range]
    omega
  · simp only [ringDown, List.length_map, List.length_range]
    omega

/-- At a distance of four the first link leads upward for an even home slice, downward for an odd one (R14). -/
theorem kiornWay_head_opposite {src dst : Nat} (slice : Nat) (hs : src < 8) (hd : dst < 8) (hne : src ≠ dst)
    (hfour : (dst + 8 - src) % 8 = 4) :
    (kiornWay src dst slice).head? = some (if slice % 2 = 0 then 8 + src else 8 + (src + 7) % 8) := by
  rcases kiornWay_cases slice hs hd hne hfour.symm with ⟨hway, hdist⟩ | ⟨hway, hdist⟩
  · rw [hway, if_pos (by omega)]
    simp [ringUp, List.range_succ_eq_map, Nat.mod_eq_of_lt hs]
  · rw [hway, if_neg (by omega)]
    simp [ringDown, List.range_succ_eq_map]

/-- Settles O8: the dies of a partition are an interval by induction on the die number; the ways go by direction round the ring. -/
theorem layouts : Obligations.Layouts := by
  unfold Obligations.Layouts
  refine ⟨?partition, ?modes, ?ways⟩
  case partition =>
    rintro mask n a hok hn rfl
    have hstart := partStarts_partOf mask n
    have ha : partOf mask n < 8 := Nat.lt_of_le_of_lt (partOf_le mask n) hn
    obtain ⟨hsize, halign⟩ := partDies_of_layoutOk hok ha hstart
    obtain ⟨hlow, hhigh⟩ := (partOf_eq_iff mask _ hn).mp rfl
    exact ⟨hstart, hsize, halign, hlow, hhigh, fun m hm => partOf_eq_iff mask _ hm⟩
  case modes =>
    intro d mode count size p n hmode hp hn
    exact uniformLayouts _ (d.layoutOf_uniform hmode) p hp n hn
  case ways =>
    intro mask src dst slice hok hs hd hne
    refine ⟨kiornWay_from_hub slice hd, kiornWay_to_hub slice hs, kiornWay_length slice hs hd hne, fun l hl => ?_,
      kiornWay_head_opposite slice hs hd hne⟩
    obtain ⟨j, hj, hlj, -⟩ := kiornWay_link hs hd hne hl
    exact ⟨by omega, by omega, kiornWay_in_partition hok hs hd hne hl⟩

end Sys2Proof.Machine
end

section
/-! SUPPORT. The layout's change and the reports of partitions (R23, R24, R474, R475). -/

namespace Sys2Proof.Machine

/-! ### A write of `PRT.MODE` -/

/-- A partition of a layout keeps its dies when the layout stays. -/
theorem not_gone_of_same (mask a : Nat) : (partStarts mask a && !samePart mask mask a) = false := by
  cases h : partStarts mask a <;> simp [samePart, h]

/-- While a clearing runs the write conflicts (R474). -/
theorem Dev.modeWrite_busy (bt : Nat) {d : Dev} (p : Party) (v : Word) (hbusy : d.fon F.prtModeBusy 0 = true) :
    d.modeWrite bt p v = d.refuse .prtMode 0 true := by
  simp [Dev.modeWrite, hbusy]

section ModeWrite

variable {d : Dev} {p : Party} {v : Word} (bt : Nat) {new : Nat} {gone : List Nat}
  (hnew : new = d.layoutOf (bits v.toNat 2 0))
  (hgone : gone = (List.range 8).filter (fun a => partStarts d.layout a && !samePart d.layout new a))
  (hbusy : d.fon F.prtModeBusy 0 = false)

include hnew hgone hbusy

/-- A partition that would lose its dies and is not idle has the write refused (R23). -/
theorem Dev.modeWrite_not_idle {a : Nat} (ha : a ∈ gone) (hidle : d.partIdle a = false) :
    d.modeWrite bt p v = d.refuse .prtMode 0 false := by
  have hany : gone.any (fun a => !d.partIdle a) = true := List.any_eq_true.mpr ⟨a, ha, by simp [hidle]⟩
  rw [Dev.modeWrite, ← hnew, ← hgone, hany, hbusy, verdict_tf, Dev.regWrite_refuse]

/-- With every affected partition idle the write is accepted, and another layout takes effect (R23, R474). -/
theorem Dev.modeWrite_idle (hok : d.writeOk p .prtMode 0 v = true) (hidle : ∀ a ∈ gone, d.partIdle a = true) :
    d.modeWrite bt p v = if new = d.layout then d.setReg .prtMode 0 (d.afterWrite p .prtMode 0 v)
      else (d.setReg .prtMode 0 (d.afterWrite p .prtMode 0 v)).changeLayout bt new := by
  have hany : gone.any (fun a => !d.partIdle a) = false := List.any_eq_false.mpr (fun a ha => by simp [hidle a ha])
  rw [Dev.modeWrite, ← hnew, ← hgone, hany, hbusy, verdict_ff, Dev.regWrite_ok _ _ _ _ _ _ hok]

end ModeWrite

/-! ### The change of layout -/

/-- The layout of `d` and its clearing are those of `e`: the two registers that show them, and the resets' state with the partitions
being cleared. -/
structure Dev.SameLayout (d e : Dev) : Prop where
  layoutReg : e.reg .prtLayout 0 = d.reg .prtLayout 0
  modeReg : e.reg .prtMode 0 = d.reg .prtMode 0
  res : e.res = d.res

namespace Dev.SameLayout

theorem refl (d : Dev) : d.SameLayout d := ⟨rfl, rfl, rfl⟩

theorem trans {d e f : Dev} (h : d.SameLayout e) (g : e.SameLayout f) : d.SameLayout f :=
  ⟨g.layoutReg.trans h.layoutReg, g.modeReg.trans h.modeReg, g.res.trans h.res⟩

/-- A field of another register leaves the layout. -/
theorem fset (d : Dev) (f : Fld) (i v : Nat) (hi : i < 2 ^ 24) (hl : f.reg ≠ .prtLayout) (hm : f.reg ≠ .prtMode) :
    d.SameLayout (d.fset f i v) :=
  ⟨d.reg_fset_other f v hi (by omega) (.inl hl.symm), d.reg_fset_other f v hi (by omega) (.inl hm.symm), rfl⟩

/-- What each step of a fold leaves, the fold leaves. -/
theorem foldl {g : Dev → Nat → Dev} {l : List Nat} (h : ∀ a ∈ l, ∀ d : Dev, d.SameLayout (g d a)) (d : Dev) :
    d.SameLayout (l.foldl g d) := by
  induction l generalizing d with
  | nil => exact refl d
  | cons a l ih =>
    exact (h a (List.mem_cons_self ..) d).trans (ih (fun b hb => h b (List.mem_cons_of_mem _ hb)) (g d a))

theorem idleLinks (d : Dev) : d.SameLayout d.idleLinks := by
  refine foldl (fun l hl e => ?_) d
  have hl16 : l < 16 := List.mem_range.mp hl
  dsimp only
  split
  · exact fset _ _ _ _ (by omega) (by decide) (by decide)
  · exact refl e

theorem layout_eq {d e : Dev} (h : d.SameLayout e) : e.layout = d.layout := by
  simp only [Dev.layout, Dev.fget, F.prtLayoutCurrent, h.layoutReg]

theorem busy_eq {d e : Dev} (h : d.SameLayout e) : e.fon F.prtModeBusy 0 = d.fon F.prtModeBusy 0 := by
  simp only [Dev.fon, Dev.fget, F.prtModeBusy, h.modeReg]

end Dev.SameLayout

/-- The layout's change ends with CURRENT and BUSY set, on a device whose new partitions are being cleared, and renumbers registers that
do not bear on the layout. -/
theorem Dev.changeLayout_sameLayout (bt new : Nat) (d : Dev) : ∃ e : Dev,
    e.res.clearing = (List.range 8).filter (fun a => partStarts new a && !samePart d.layout new a) ∧
    ((e.fset F.prtLayoutCurrent 0 new).fset F.prtModeBusy 0 1).SameLayout (d.changeLayout bt new) := by
  unfold Dev.changeLayout
  extract_lets old gone made hit d1 d2 d3 d4 d5 cleared linked bound parked
  -- the numbers in PORT_BIND, OS_WAIT and PARK, and the fault queues' sizes, lie in other registers
  have hlinked : Dev.SameLayout _ linked := .idleLinks ((cleared.fset F.prtLayoutCurrent 0 new).fset F.prtModeBusy 0 1)
  have hbound : linked.SameLayout bound := .foldl (fun q hq e => by
    have hq4 : q < 4 := List.mem_range.mp hq
    exact (Dev.SameLayout.fset _ _ _ _ (by omega) (by decide) (by decide)).trans
      (.fset _ _ _ _ (by omega) (by decide) (by decide))) linked
  have hparked : bound.SameLayout parked := (Dev.SameLayout.fset _ _ _ _ (by omega) (by decide) (by decide)).trans
    (.fset _ _ _ _ (by omega) (by decide) (by decide))
  have hsized : parked.SameLayout (made.foldl (fun d a => d.fset F.xlatFqCfgLog2Size a (fqLog2 (d.dies a))) parked) :=
    .foldl (fun a ha e => by
      have ha8 : a < 8 := List.mem_range.mp (List.mem_of_mem_filter ha)
      exact .fset _ _ _ _ (by omega) (by decide) (by decide)) parked
  exact ⟨cleared, rfl, ((hlinked.trans hbound).trans hparked).trans hsized⟩

/-- After the change CURRENT shows the new layout, BUSY is set, and the new partitions are being cleared (R24, R474). -/
theorem Dev.changeLayout_effect (bt : Nat) {new : Nat} (d : Dev) (hnew : new < 256) :
    (d.changeLayout bt new).layout = new ∧ (d.changeLayout bt new).fon F.prtModeBusy 0 = true ∧
    (d.changeLayout bt new).res.clearing = (List.range 8).filter (fun a => partStarts new a && !samePart d.layout new a) := by
  obtain ⟨e, hclear, hsame⟩ := d.changeLayout_sameLayout bt new
  have hlayout : ((e.fset F.prtLayoutCurrent 0 new).fset F.prtModeBusy 0 1).layout = new := by
    have hcurrent : (e.fset F.prtLayoutCurrent 0 new).layout = new % 256 :=
      e.fget_fset_same F.prtLayoutCurrent 0 new (by decide) (by decide)
    have hother : ((e.fset F.prtLayoutCurrent 0 new).fset F.prtModeBusy 0 1).layout = (e.fset F.prtLayoutCurrent 0 new).layout := by
      simp only [Dev.layout, Dev.fget]
      rw [Dev.reg_fset_other _ _ _ (by omega) (by omega) (.inl (by decide))]
    rw [hother, hcurrent, Nat.mod_eq_of_lt hnew]
  have hbusy : ((e.fset F.prtLayoutCurrent 0 new).fset F.prtModeBusy 0 1).fon F.prtModeBusy 0 = true := by
    rw [Dev.fon, Dev.fget_fset_same _ _ _ _ (by decide) (by decide)]
    decide
  exact ⟨hsame.layout_eq.trans hlayout, hsame.busy_eq.trans hbusy, (congrArg ResSt.clearing hsame.res).trans hclear⟩

/-- The end of a clearing that runs wipes and zero-fills the new partitions, which then wait for their operating systems (R24, R404). -/
theorem Dev.layoutClearDone_busy {d : Dev} (hbusy : d.fon F.prtModeBusy 0 = true) : d.layoutClearDone =
    d.res.clearing.foldl (fun d a => d.setOsWait a true) (((d.res.clearing.foldl (fun d a => (d.wipeHbm a).fillDdr a) d).modRes
      (fun z => { z with clearing := [] })).fset F.prtModeBusy 0 0) := by
  rw [Dev.layoutClearDone, if_pos hbusy]

theorem Dev.layoutClearDone_not_busy {d : Dev} (hbusy : d.fon F.prtModeBusy 0 = false) : d.layoutClearDone = d := by
  simp [Dev.layoutClearDone, hbusy]

/-! ### Reports and the trace trigger -/

/-- No report is made of a die that starts no partition. -/
theorem Dev.reportUpdate_no_part {bt a : Nat} {d : Dev} (areas : List (Nat × Nat)) (h : d.isPart a = false) :
    d.reportUpdate bt a areas = d := by
  simp [Dev.reportUpdate, h]

/-- The trigger is claimed unless PPS_EN is set (R499). -/
theorem Dev.traceClaim_taken {d : Dev} {claim : Bool} (h : claim = true → d.fon F.btmCtrlPpsEn 0 = false) :
    d.traceClaim claim = d.modTime (fun z => { z with traceTrigger := claim }) := by
  have hfree : ¬(claim = true ∧ d.fon F.btmCtrlPpsEn 0 = true) := fun ⟨hc, hp⟩ => by simp [h hc] at hp
  rw [Dev.traceClaim, if_neg hfree]

theorem Dev.traceClaim_refused {d : Dev} (h : d.fon F.btmCtrlPpsEn 0 = true) : d.traceClaim true = d.refuse .btmCtrl 0 true := by
  rw [Dev.traceClaim, if_pos ⟨rfl, h⟩]

/-- Settles O55: the verdicts of the write of `PRT.MODE`, what the change leaves, and the branches of the clearing's end, the report and the
trigger. -/
theorem layoutAndReports : Obligations.LayoutAndReports := by
  unfold Obligations.LayoutAndReports
  simp only [exec_layoutChange, execLayoutChange, exec_layoutClearDone, execLayoutClearDone, exec_firmwareReportUpdate,
    execFirmwareReportUpdate, exec_traceTriggerClaim, execTraceTriggerClaim, onDev_eq]
  refine ⟨?write, fun bt new d => d.changeLayout_effect bt, ?done, ?notClearing, ?report, ?noPart, ?claim, ?claimRefused⟩
  case write =>
    rintro s p v old new g hok rfl hnew hg
    refine ⟨fun hidle hbusy hne => ?_, fun hsame hbusy => ?_, fun a ha hidle hbusy => ?_, fun hbusy => ?_⟩
    · rw [Dev.modeWrite_idle s.bt hnew hg hbusy hok hidle, if_neg hne]
    · have hnone : ∀ a ∈ g, s.dev.partIdle a = true := by simp [hg, hsame, not_gone_of_same]
      rw [Dev.modeWrite_idle s.bt hnew hg hbusy hok hnone, if_pos hsame]
    · rw [Dev.modeWrite_not_idle s.bt hnew hg hbusy ha hidle]
    · rw [Dev.modeWrite_busy s.bt p v hbusy]
  case done =>
    rintro s d hbusy rfl
    rw [Dev.layoutClearDone_busy hbusy]
  case notClearing =>
    intro s hbusy
    rw [Dev.layoutClearDone_not_busy hbusy]
  case report =>
    intro s a p areas c z d e f hpart hz hp hc hd he hf
    refine ⟨fun hn => ?_, fun h i hn => ?_⟩ <;>
      simp only [Dev.reportUpdate, if_pos hpart, ← hz, ← hp, ← hc, ← hd, ← he, ← hf, hn]
  case noPart =>
    intro s a areas h
    rw [Dev.reportUpdate_no_part areas h]
  case claim =>
    intro s claim h
    rw [Dev.traceClaim_taken h]
  case claimRefused =>
    intro s h
    rw [Dev.traceClaim_refused h]

end Sys2Proof.Machine
end

section
/-! SUPPORT. Screening: whose turn it is, the ends of its phases and its verdicts (R26, R432 to R434, R446, R447). -/

namespace Sys2Proof.Machine

/-! ### The turn of a CE -/

/-- A claim takes the die's free spare (R85). -/
theorem Dev.claimSpare_take {d : Dev} {die j : Nat} (rank but : Nat) (hsafe : d.safe = false) (hspare : d.spareOf die = some j) :
    d.claimSpare die rank but = .take j := by
  simp [Dev.claimSpare, hsafe, hspare]

/-- No slot for screening is due: nothing happens. -/
theorem Dev.screenWindow_not_due {bt : Nat} {d : Dev} (k : Nat) (h : d.slotDue bt 8 1 = none) : d.screenWindow bt k = d := by
  simp [Dev.screenWindow, h]

section Turn

/-! The slot for screening fires, screening is enabled, the CE's partition is not quiet and its die may screen one more, and the CE is due;
`d` is the device once the slot has fired. -/

variable {bt k n : Nat} {d₀ d : Dev} (hslot : d₀.slotDue bt 8 1 = some n) (hfire : d₀.fireSlot bt 8 n 1 = some d) (hk : k < 208)
  (hen : d.fon F.resScrCfgEn 0 = true) (hquiet : d.quiet (d.partOfDie (k / 26)) = false)
  (hper : d.screensOn (k / 26) < d.fget F.resScrCfgPerDie 0) (hdue : d.screenDue bt k = true)

include hslot hfire hk hen hquiet hper hdue

/-- A CE in service goes by what its claim on a spare of its die meets (R26, R432). -/
theorem Dev.screenWindow_active (hst : (d.ce k).st = .active) :
    (∀ j, d.claimSpare (k / 26) 2 k = .take j → d₀.screenWindow bt k = d.castleOut bt k) ∧
    (∀ j, d.claimSpare (k / 26) 2 k = .waits j →
      d₀.screenWindow bt k = d.modRes (fun z => { z with toScreen := listAdd z.toScreen k })) ∧
    (d.claimSpare (k / 26) 2 k = .refused → d₀.screenWindow bt k = d.refuse .resCfgErr 0 true) := by
  refine ⟨fun j hc => ?_, fun j hc => ?_, fun hc => ?_⟩ <;>
    simp [Dev.screenWindow, hslot, hfire, hen, hquiet, hdue, hst, hc, Nat.not_le.mpr hk, Nat.not_le.mpr hper]

/-- A free spare whose group is powered is screened where it stands (R432). -/
theorem Dev.screenWindow_spareFree (hst : (d.ce k).st = .spareFree) (hon : d.domOn (ceDomain k) = true) (hsafe : d.safe = false) :
    d₀.screenWindow bt k = d.beginScreen bt k false := by
  simp [Dev.screenWindow, hslot, hfire, hen, hquiet, hdue, hst, hon, hsafe, Nat.not_le.mpr hk, Nat.not_le.mpr hper]

end Turn

/-! ### The end of a phase -/

section Phase

variable {bt k t : Nat} {d : Dev} {x : Screen} (r : PassResult) (hx : mapFind? d.res.screens k = some x)

include hx

/-- A phase other than heating lasts its time (R433). -/
theorem Dev.phaseEnd_early (t : Nat) (hphase : x.phase ≠ 3) (hearly : bt < x.since + phaseNs x.phase) :
    d.phaseEnd bt k r t = d := by
  simp [Dev.phaseEnd, hx, hphase, Nat.not_le.mpr hearly]

/-- The first three phases are followed by the next; the pass of phase 2 settles whether the CE is bad at nominal conditions, and heating
may end at its temperature (R433). -/
theorem Dev.phaseEnd_next {bad : Bool}
    (hbad : x.phase = 1 ∧ bad = x.bad ∨ x.phase = 2 ∧ bad = (r == .differs) ∨
      x.phase = 3 ∧ bad = x.bad ∧ d.fget F.resScrCfgTempC 0 ≤ t)
    (hover : x.since + phaseNs x.phase ≤ bt ∨ x.phase = 3) :
    d.phaseEnd bt k r t =
      d.modRes (fun z => { z with screens := mapPut z.screens k { x with phase := x.phase + 1, since := bt, bad } }) := by
  rcases hbad with ⟨hp, rfl⟩ | ⟨hp, rfl⟩ | ⟨hp, rfl, hhot⟩
  · have hlate : x.since + phaseNs 1 ≤ bt := by simpa [hp] using hover
    simp [Dev.phaseEnd, hx, hp, hlate]
  · have hlate : x.since + phaseNs 2 ≤ bt := by simpa [hp] using hover
    simp [Dev.phaseEnd, hx, hp, hlate]
  · simp [Dev.phaseEnd, hx, hp, hhot]

/-- The end of phase 4 gives the verdict of both passes (R434). -/
theorem Dev.phaseEnd_verdict (t : Nat) (hp : x.phase = 4) (hlate : x.since + 24000000000 ≤ bt) :
    d.phaseEnd bt k r t =
      d.verdictOf bt k x (if x.bad then verdictNominal else if r = .differs then verdictCorner else verdictPass) := by
  have hns : phaseNs 4 = 24000000000 := rfl
  simp only [Dev.phaseEnd, hx, hp, hns, hlate, decide_true, true_or, not_true_eq_false, if_false]

end Phase

/-! ### The watchdog and the verdicts -/

theorem Dev.screenWatchdog_not_due {bt : Nat} {d : Dev} (k : Nat) (h : d.slotDue bt 8 2 = none) : d.screenWatchdog bt k = d := by
  simp [Dev.screenWatchdog, h]

/-- A screening whose watchdog fires has the verdict HANG (R434). -/
theorem Dev.screenWatchdog_hang {bt k n : Nat} {d₀ d : Dev} {x : Screen} (hslot : d₀.slotDue bt 8 2 = some n)
    (hfire : d₀.fireSlot bt 8 n 2 = some d) (hx : mapFind? d.res.screens k = some x) :
    d₀.screenWatchdog bt k = d.verdictOf bt k x verdictHang := by
  simp [Dev.screenWatchdog, hslot, hfire, hx]

/-- PASS is logged and recorded, and the CE is a spare (R434). -/
theorem Dev.verdictOf_pass (bt k : Nat) (d : Dev) (x : Screen) : d.verdictOf bt k x verdictPass =
    (((d.resLog bt 0x40 0 (some (d.partOfDie (k / 26))) (d.ceUnit k) [0, 0, bt, 0]).histAdd bt 1 1 0 k).endScreen bt k).passed bt k := by
  simp [Dev.verdictOf, verdictPass, verdictCorner, b2n]

/-- A first failure that is not permanent is logged and recorded, and the CE screened again at once (R434, R446). -/
theorem Dev.verdictOf_first_failure {bt k v : Nat} {d e : Dev} {x : Screen} (hv : v = verdictNominal ∨ v = verdictHang)
    (hfirst : x.second = false)
    (he : e = ((d.resLog bt 0x41 1 (some (d.partOfDie (k / 26))) (d.ceUnit k) [0, 0, bt, v]).histAdd bt 1 1 1 k).endScreen bt k)
    (hperm : e.permanent bt 1 k = false) : d.verdictOf bt k x v = e.beginScreen bt k true := by
  subst he
  rcases hv with rfl | rfl <;>
    simp_all [Dev.verdictOf, verdictPass, verdictCorner, verdictNominal, verdictHang, b2n]

/-- Settles O47: each clause is the branch of the window, of the phase's end, of the watchdog or of the verdict that its hypotheses name. -/
theorem screening : Obligations.Screening := by
  unfold Obligations.Screening
  simp only [exec_screeningWindow, execScreeningWindow, exec_screeningPhaseEnd, execScreeningPhaseEnd, exec_screenWatchdog,
    execScreenWatchdog, onDev_eq]
  refine ⟨?turn, ?noTurn, ?next, ?early, ?verdict, ?hang, ?noHang, Dev.verdictOf_pass, fun _ _ _ _ _ _ => Dev.verdictOf_first_failure⟩
  case turn =>
    intro s k n d hslot hfire hk hen hquiet hper hdue
    have hactive := Dev.screenWindow_active hslot hfire hk hen hquiet hper hdue
    refine ⟨fun hst hsafe hspare => ?_, fun hst hc => ?_, fun j hst hc => ?_, fun hst hon hsafe => ?_⟩
    · obtain ⟨htake, -, -⟩ := hactive hst
      obtain ⟨j, hj⟩ := Option.isSome_iff_exists.mp hspare
      rw [htake j (Dev.claimSpare_take 2 k hsafe hj)]
    · obtain ⟨-, -, hrefused⟩ := hactive hst
      rw [hrefused hc]
    · obtain ⟨-, hwaits, -⟩ := hactive hst
      rw [hwaits j hc]
    · rw [Dev.screenWindow_spareFree hslot hfire hk hen hquiet hper hdue hst hon hsafe]
  case noTurn =>
    intro s k h
    rw [Dev.screenWindow_not_due k h]
  case next =>
    intro s k t r x bad hx hbad hover
    rw [Dev.phaseEnd_next r hx hbad hover]
  case early =>
    intro s k t r x hx hphase hearly
    rw [Dev.phaseEnd_early r hx t hphase hearly]
  case verdict =>
    intro s k t r x v hx hp hlate hv
    have hv' : (if x.bad then verdictNominal else if r = .differs then verdictCorner else verdictPass) = v := by
      split_ifs at hv ⊢ <;> exact hv.symm
    rw [Dev.phaseEnd_verdict r hx t hp hlate, hv']
  case hang =>
    intro s k n x d hslot hfire hx
    rw [Dev.screenWatchdog_hang hslot hfire hx]
  case noHang =>
    intro s k h
    rw [Dev.screenWatchdog_not_due k h]

end Sys2Proof.Machine
end

section
/-! SUPPORT. Context requests: admission, close, quotas and grants (R31, R36 to R38, R331, R344). -/

namespace Sys2Proof.Machine

/-- The context request `r` of operation `op` at the head of pair `k` is of partition `a`, as is the context `c` it names; `d` is the
device once it is taken (R344). -/
structure ContextAt (d₀ : Dev) (k op : Nat) (r : Desc) (a c : Nat) (d : Dev) : Prop where
  head : d₀.head? k 6 op = some r
  taken : d = d₀.popDesc k
  part : a = pairWindow k
  names : c = bits (r.at_ 2 2) 11 0
  inside : d.partOfCtx c = a

/-- A context request of the admin pair's partition is dispatched. -/
theorem ContextAt.ctxReq_eq {d₀ : Dev} {k op : Nat} {r : Desc} {a c : Nat} {d : Dev} (h : ContextAt d₀ k op r a c d) (bt : Nat)
    (f : Desc → Nat → Nat → Dev → Dev) : d₀.ctxReq bt k op f = f r a c d := by
  obtain ⟨hhead, rfl, rfl, rfl, hin⟩ := h
  simp only [Dev.ctxReq, Dev.dispatch, hhead, if_pos hin]

/-- A mask and its complement in 16 bits have no queue in common. -/
theorem mask_and_complement {m : Nat} (h : m < 65536) : m &&& (65535 - m) = 0 := by
  refine Nat.eq_of_testBit_eq fun i => ?_
  have hcomp : (65535 - m).testBit i = (decide (i < 16) && !m.testBit i) := by
    rw [show 65535 - m = 2 ^ 16 - (m + 1) by omega, Nat.testBit_two_pow_sub_succ h]
  rw [Nat.testBit_and, hcomp]
  cases m.testBit i <;> simp

/-- Changing the grants leaves every pair under the grants it hangs on. -/
theorem Dev.underGrant_modRing {f : RingSt → RingSt} (d : Dev) (hf : (f d.ring).pairs = d.ring.pairs) (k q c m : Nat) :
    (d.modRing f).underGrant k q c m = d.underGrant k q c m := by
  have hpair : (d.modRing f).pair k = d.pair k := by simp only [Dev.pair, Dev.ring_modRing_self, hf]
  simp only [Dev.underGrant, hpair]

/-- Settles O13: each request is dispatched, and takes the branch that its clause's conditions name; a revoke that leaves nothing of the one
grant finds no pair to drain. -/
theorem contextRequests : Obligations.ContextRequests := by
  unfold Obligations.ContextRequests
  simp only [exec_admitContext, execAdmitContext, exec_contextClose, execContextClose, exec_setQuota, execSetQuota, exec_grant,
    execGrant, exec_revoke, execRevoke, onDev_eq]
  refine ⟨?admission, ?admitLive, ?close, ?closeLater, ?quota, ?grant, ?revoke⟩
  case admission =>
    intro s k r d a c hhead hd ha hc hin hfree halign hnode hhbm hjrn hsig hsigMax hkeep hroom hres
    simp only [Dev.admitReq, (ContextAt.mk hhead hd ha hc hin).ctxReq_eq]
    rw [if_neg, if_neg (by simp [hroom, hres])]
    simp only [not_or, ne_eq, not_not, Nat.not_lt]
    exact ⟨by simp [hfree], halign, hnode, hhbm, hjrn, by omega, hsigMax, hkeep⟩
  case admitLive =>
    intro s k r d a c hhead hd ha hc hin hlive
    simp only [Dev.admitReq, (ContextAt.mk hhead hd ha hc hin).ctxReq_eq]
    rw [if_pos (.inl hlive)]
  case close =>
    intro s k r d a c hhead hd ha hc hin hst
    simp only [Dev.closeReq, (ContextAt.mk hhead hd ha hc hin).ctxReq_eq, hst]
  case closeLater =>
    intro s k r d a c hhead hd ha hc hin hst
    rcases hst with hst | hst <;>
      simp only [Dev.closeReq, (ContextAt.mk hhead hd ha hc hin).ctxReq_eq, hst]
  case quota =>
    intro s k r d a c hhead hd ha hc hin hlive hending hjrn hhbm hddr hkv hslots hused hkeep hroom
    simp only [Dev.quotaReq, (ContextAt.mk hhead hd ha hc hin).ctxReq_eq]
    rw [if_neg (by simp [hlive, hending]; omega), if_neg (by simp [hroom])]
  case grant =>
    intro s k r d a c hhead hd ha hc hin hlive hending hbound hmask
    simp only [Dev.grantReq, (ContextAt.mk hhead hd ha hc hin).ctxReq_eq]
    rw [if_neg (by simp [hlive, hending, hbound]; omega)]
  case revoke =>
    intro s k r d a c hhead hd ha hc hin hgrants hnone hmask
    have hpairs : d.ring.pairs.filter (fun p => d.underGrant p.1 (r.at_ 8 1) c (r.at_ 10 2)) = [] :=
      List.filter_eq_nil_iff.mpr (fun p hp => by simp [hnone p hp])
    simp only [Dev.revokeReq, (ContextAt.mk hhead hd ha hc hin).ctxReq_eq, Dev.underGrant_modRing, Dev.ring_modRing_self, hpairs,
      List.map_nil, List.foldl_nil]
    -- the grant keeps none of its queues
    simp [Dev.modRing, hgrants, mask_and_complement hmask]

end Sys2Proof.Machine
end

section
/-! SUPPORT. Sequence requests: what is held, what takes effect at once, and each request's effect (R39 to R41, R176 to R184). -/

namespace Sys2Proof.Machine

/-! ### What a sequence does with a request it takes -/

section Take

variable {d : Dev} {s : Nat} {r : Desc} (bt : Nat)

/-- A request that must wait is held behind those held already (R40, R178). -/
theorem Dev.takeReq_held (hwait : (d.slot s).mustHold (r.at_ 0 1) = true) (hroom : (d.slot s).held.length < 8) :
    d.takeReq bt s r = d.setSlot s { d.slot s with held := (d.slot s).held ++ [r] } := by
  rw [Dev.takeReq, if_pos (.inl hwait), if_pos hroom]

/-- The ninth held request is refused (R178). -/
theorem Dev.takeReq_full (hwait : (d.slot s).mustHold (r.at_ 0 1) = true) (hfull : (d.slot s).held.length = 8) :
    d.takeReq bt s r = d.finish bt r .range := by
  rw [Dev.takeReq, if_pos (.inl hwait), if_neg (by omega)]

/-- A request that need not wait, behind none that is held, takes effect at once (R178). -/
theorem Dev.takeReq_applied (hgo : (d.slot s).mustHold (r.at_ 0 1) = false) (hheld : (d.slot s).held = []) :
    d.takeReq bt s r = d.applyReq bt s r := by
  rw [Dev.takeReq, if_neg (by simp [hgo, hheld])]

end Take

/-! ### The request that an operation names -/

section Apply

variable {d : Dev} {s : Nat} {r : Desc} (bt : Nat)

theorem Dev.applyReq_step (hop : r.at_ 0 1 = 2) : d.applyReq bt s r = d.applyStep bt s r := by
  simp only [Dev.applyReq, hop]

theorem Dev.applyReq_adjourn (hop : r.at_ 0 1 = 4) (hopen : (d.slot s).st = .open) :
    d.applyReq bt s r = d.startAdjourn bt s r.pair r.tag := by
  simp only [Dev.applyReq, hop, hopen]

theorem Dev.applyReq_resume (hop : r.at_ 0 1 = 5) (hadj : (d.slot s).st = .adjourned) :
    d.applyReq bt s r = d.startResume bt s r.pair r.tag := by
  simp only [Dev.applyReq, hop, hadj]

theorem Dev.applyReq_close (hop : r.at_ 0 1 = 6) (hopen : (d.slot s).st = .open) :
    d.applyReq bt s r = (d.dropUnbegun s).closeSlot bt s (some (r.pair, r.tag)) := by
  simp only [Dev.applyReq, hop, hopen]

theorem Dev.applyReq_share (hop : r.at_ 0 1 = 7) : d.applyReq bt s r = d.shareReq bt s r := by
  simp only [Dev.applyReq, hop]

theorem Dev.applyReq_extend (hop : r.at_ 0 1 = 8) : d.applyReq bt s r = d.extendReq bt s r := by
  simp only [Dev.applyReq, hop]

end Apply

/-! ### What each request does -/

section Effects

variable {d : Dev} {s : Nat} {r : Desc} (bt : Nat)

/-- A STEP whose flag time and ceiling are in order opens a step (R178, R179). -/
theorem Dev.applyStep_opens {flag : Option Nat} (hst : (d.slot s).st ≠ .adjourning)
    (hflag : stepFlag r.bt (bits (r.at_ 1 1) 1 0) (r.at_ 8 8) = some flag) (hceil : bits (r.at_ 1 1) 7 4 ≤ 3)
    (htop : bits (r.at_ 1 1) 7 4 ≤ (d.ctx (d.slot s).ctx).ceil) :
    d.applyStep bt s r = d.openStep bt s r flag (bits (r.at_ 1 1) 7 4) := by
  simp only [Dev.applyStep, hflag, if_neg hst]
  rw [if_neg (by omega), if_neg (by omega)]

/-- An ADJOURN with no block to move ends at once (R184). -/
theorem Dev.startAdjourn_none {k t : Nat} (h : d.movable (d.slot s) = []) :
    d.startAdjourn bt s k t = (d.modSlot s (fun x => { x with st := .adjourned })).complete bt k t .ok := by
  simp only [Dev.startAdjourn, h]

/-- One whose blocks have their charge and frames moves them (R184). -/
theorem Dev.startAdjourn_moves {k t : Nat} {e e' : Dev} (h : d.movable (d.slot s) ≠ [])
    (hstart : d.startBlocks bt s (d.movable (d.slot s)) false = (some e, e')) :
    d.startAdjourn bt s k t = e.modSlot s (fun x => { x with st := .adjourning, waiters := [(k, t)], moved := 0 }) := by
  obtain ⟨b, bs, hbs⟩ := List.exists_cons_of_ne_nil h
  rw [hbs] at hstart
  simp only [Dev.startAdjourn, hbs, hstart]

/-- A RESUME of a sequence without DDR blocks ends at once (R184). -/
theorem Dev.startResume_none {k t : Nat} {e : Dev} (he : e = d.modSlot s (fun x => { x with st := .open }))
    (h : e.ddrBlocks (e.slot s) = []) : d.startResume bt s k t = e.complete bt k t .ok := by
  subst he
  simp only [Dev.startResume, h]

/-- EXTEND takes a longer span whose new entries are free (R176). -/
theorem Dev.extendReq_longer {n : Nat} (hn : n = bits (r.at_ 8 8) 24 0) (hlong : (d.slot s).spanLen < n)
    (hspan : d.spanOk s (d.slot s).spanBase n
      ((List.range (n - (d.slot s).spanLen)).map (fun i => (d.slot s).spanBase + (d.slot s).spanLen + i)) = true) :
    d.extendReq bt s r = (d.setSlot s { d.slot s with spanLen := n }).finish bt r .ok := by
  subst hn
  rw [Dev.extendReq, if_pos ⟨hlong, hspan⟩]

end Effects

/-- A request that need not wait takes effect as soon as it is dispatched (R39, R178). -/
theorem seqReq_applied {s : State} {k op : Nat} {r : Desc} {c sl : Nat} {x : Slot} {d : Dev} (h : SequenceAt s k op r c sl x d)
    (hopen : x.closeSeen = false) (hgo : x.mustHold (r.at_ 0 1) = false) (hheld : x.held = []) :
    s.dev.seqReq s.bt k op false (fun r sl d => d.takeReq s.bt sl r) = d.applyReq s.bt sl r := by
  rw [seqReq_eq h _ (.inr hopen)]
  obtain ⟨-, -, rfl, -⟩ := h
  exact Dev.takeReq_applied s.bt hgo hheld

/-- An OPEN whose fields are in order goes by the room left in the context's slot reservation (R176, R177). -/
theorem seqOpen_inOrder {s : State} {k c : Nat} {r : Desc} {d : Dev} (hreq : RequestAt s k 4 1 r c d)
    (hslot : d.slotOk c (r.at_ 2 2) = true) (hclosed : (d.slot (r.at_ 2 2)).st = .closed) (halign : r.at_ 4 2 % 64 = 0)
    (hmin : 64 ≤ r.at_ 4 2) (hmax : r.at_ 4 2 ≤ 65472) (hframe : (r.at_ 6 1 + 1) * r.at_ 4 2 ≤ 65536)
    (hlen : bits (r.at_ 8 8) 56 32 ≠ 0) (hspan : d.spanOk (r.at_ 2 2) (r.at_ 8 3) (bits (r.at_ 8 8) 56 32)
      ((List.range (bits (r.at_ 8 8) 56 32)).map (fun i => r.at_ 8 3 + i)) = true) :
    s.dev.seqOpen s.bt k = if (d.ctx c).res.slots < (d.ctx c).slotUse + 1 then d.finish s.bt r .quota
      else ((d.modCtx c (fun x => { x with slotUse := x.slotUse + 1 })).setSlot (r.at_ 2 2) {
        st := .open, ctx := c, spanBase := r.at_ 8 3, spanLen := bits (r.at_ 8 8) 56 32, layerBytes := r.at_ 4 2
        layersM1 := r.at_ 6 1 + 1 - 1, cls := classFor (32 * (r.at_ 6 1 + 1) * r.at_ 4 2) }).finish s.bt r .ok := by
  simp only [Dev.seqOpen, dispatchCtx_eq hreq]
  rw [if_neg]
  simp only [not_or, not_not, ne_eq, Nat.not_lt]
  exact ⟨hslot, hclosed, halign, hmin, hmax, hframe, hlen, hspan⟩

/-- Settles O22: each request is dispatched to its slot, is held, refused or applied by what the sequence waits for, and once applied has
the effect of its operation. -/
theorem sequenceRequests : Obligations.SequenceRequests := by
  unfold Obligations.SequenceRequests
  simp only [exec_seqOpen, execSeqOpen, exec_seqStep, execSeqStep, exec_stepEnd, execStepEnd, exec_adjourn, execAdjourn, exec_resume,
    execResume, exec_seqClose, execSeqClose, exec_share, execShare, exec_extend, execExtend, onDev_eq]
  refine ⟨?open_, ?openQuota, ?step, ?stepHeld, ?stepFull, ?stepEnd, ?stepOther, ?adjourn, ?adjournMoves, ?resume, ?close, ?share,
    ?extend⟩
  case open_ =>
    rintro s k c sl lb layers base len r d hreq rfl rfl rfl rfl rfl hslot hclosed halign hmin hmax hframe hlen hspan hroom
    rw [seqOpen_inOrder hreq hslot hclosed halign hmin hmax hframe hlen hspan, if_neg (by omega)]
  case openQuota =>
    rintro s k c sl lb layers base len r d hreq rfl rfl rfl rfl rfl hslot hclosed halign hmin hmax hframe hlen hspan hfull
    rw [seqOpen_inOrder hreq hslot hclosed halign hmin hmax hframe hlen hspan, if_pos (by omega)]
  case step =>
    rintro s k c sl r d x flag ceil hseq hopen hstep hheld hst hflag rfl hceil htop
    have hop : r.at_ 0 1 = 2 := hseq.1.op (by omega)
    rw [seqReq_applied hseq hopen (by simp [Slot.mustHold, hop, hstep]) hheld, Dev.applyReq_step s.bt hop]
    obtain ⟨-, -, rfl, -, -, -, rfl⟩ := hseq
    rw [Dev.applyStep_opens s.bt hst hflag hceil htop]
  case stepHeld =>
    rintro s k c sl r d x hseq hopen hstep hroom
    rw [seqReq_eq hseq _ (.inr hopen)]
    obtain ⟨hreq, -, rfl, -⟩ := hseq
    rw [Dev.takeReq_held s.bt (by simp [Slot.mustHold, hreq.op, hstep]) hroom]
  case stepFull =>
    rintro s k c sl r d x hseq hopen hstep hfull
    rw [seqReq_eq hseq _ (.inr hopen)]
    obtain ⟨hreq, -, rfl, -⟩ := hseq
    rw [Dev.takeReq_full s.bt (by simp [Slot.mustHold, hreq.op, hstep]) hfull]
  case stepEnd =>
    rintro s k c sl r d x hseq hstep hno hacc htree hpath
    simp only [Dev.stepEnd, seqReq_eq hseq true (.inl rfl)]
    obtain ⟨-, -, rfl, -⟩ := hseq
    rw [if_pos ⟨hstep, hno, hacc, by simp [htree, hpath]⟩]
    simp only [htree, hstep, Bool.false_and, Bool.false_eq_true, if_false, not_true_eq_false]
  case stepOther =>
    rintro s k c sl r d x hseq hno
    simp only [Dev.stepEnd, seqReq_eq hseq true (.inl rfl)]
    obtain ⟨-, -, rfl, -⟩ := hseq
    rw [if_neg (fun h => hno h.2.1)]
  case adjourn =>
    rintro s k c sl r d x hseq hop hopen hst hstep hafter hheld hnone
    rw [seqReq_applied hseq hopen (by simp [Slot.mustHold, hop, hstep, hst, hafter]) hheld]
    obtain ⟨-, -, rfl, -⟩ := hseq
    rw [Dev.applyReq_adjourn s.bt hop hst, Dev.startAdjourn_none s.bt hnone, Dev.modSlot]
  case adjournMoves =>
    rintro s k c sl r d e e' x hseq hop hopen hst hstep hafter hheld hsome hstart
    rw [seqReq_applied hseq hopen (by simp [Slot.mustHold, hop, hstep, hst, hafter]) hheld]
    obtain ⟨-, -, rfl, -⟩ := hseq
    rw [Dev.applyReq_adjourn s.bt hop hst, Dev.startAdjourn_moves s.bt hsome hstart]
  case resume =>
    rintro s k c sl r d x hseq hop hopen hst hafter hheld hnone
    rw [seqReq_applied hseq hopen (by simp [Slot.mustHold, hop, hafter]) hheld]
    obtain ⟨-, -, rfl, -⟩ := hseq
    rw [Dev.applyReq_resume s.bt hop hst, Dev.startResume_none s.bt rfl hnone]
  case close =>
    rintro s k c sl r d x hseq hop hopen hst hstep hafter hheld
    rw [seqReq_applied hseq hopen (by simp [Slot.mustHold, hop, hstep, hafter]) hheld]
    obtain ⟨-, -, rfl, -⟩ := hseq
    rw [Dev.applyReq_close s.bt hop hst]
  case share =>
    rintro s k c sl src n r d e x y pairs hseq hopen hafter hheld rfl rfl rfl rfl hopenSrc hkeptSrc hctx hne hst hempty hstep hn hnSrc
      hfree hvalid hlen hmax hrefs hcharge
    have hop : r.at_ 0 1 = 7 := hseq.1.op (by omega)
    rw [seqReq_applied hseq hopen (by simp [Slot.mustHold, hop, hafter]) hheld, Dev.applyReq_share s.bt hop]
    obtain ⟨-, -, rfl, -, -, -, rfl⟩ := hseq
    simp only [Dev.shareReq, hcharge]
    rw [if_pos]
    exact ⟨hopenSrc, hkeptSrc, hctx, hne, hst, hempty, by simp [hstep], hn, hnSrc, by simpa using hfree, by simpa using hvalid, hlen,
      hmax, by simpa using hrefs⟩
  case extend =>
    rintro s k c sl n r d x hseq hopen hafter hheld hn hlong hspan
    have hop : r.at_ 0 1 = 8 := hseq.1.op (by omega)
    rw [seqReq_applied hseq hopen (by simp [Slot.mustHold, hop, hafter]) hheld, Dev.applyReq_extend s.bt hop]
    obtain ⟨-, -, rfl, -⟩ := hseq
    rw [Dev.extendReq_longer s.bt hn hlong hspan]

end Sys2Proof.Machine
end

section
/-! SUPPORT. Launches: their queues, their placement and their ends (R29, R35, R42 to R46, R105, R436, R437). -/

namespace Sys2Proof.Machine

/-! ### LAUNCH -/

/-- A LAUNCH waits for one that another pair fetched earlier for the same queue (R29). -/
theorem Dev.queueLaunch_waits (bt : Nat) {d : Dev} {k : Nat} (h : d.laterLaunch k = true) : d.queueLaunch bt k = d := by
  rw [Dev.queueLaunch, if_pos h]

/-! ### LAUNCH_PLACE -/

/-- A launch without its turn stays in its queue (R43). -/
theorem Dev.placeLaunch_waits (bt : Nat) {d : Dev} {l : Nat} {x : Launch} (hx : d.launch? l = some x) (hturn : d.myTurn x = false) :
    d.placeLaunch bt l = d := by
  simp only [Dev.placeLaunch, hx]
  rw [if_neg (fun h => by simp [hturn] at h)]

/-- A launch with NRS set is not eligible for a shadow run (R436). -/
theorem Dev.sampleShadow_nrs (bt : Nat) (d : Dev) (l k : Nat) {x : Launch} (h : x.nrs = true) : d.sampleShadow bt l x k = d := by
  rw [Dev.sampleShadow, if_neg (fun hc => hc.2.1 h)]

/-! ### LAUNCH_COMPLETE -/

/-- Where no parity error has hit a line of the context, none of its dirty lines is lost (R107). -/
theorem Dev.badLines_fold_sound (bt : Nat) {d : Dev} {ces : List Nat} {c : Nat} (h : ∀ k ∈ ces, d.sqcSound k c) :
    ces.foldl (fun r k =>
      let q := Dev.badLines bt r.2 k none (fun s => s.ctx == c && s.dirty)
      (r.1 && q.1, q.2)) (true, d) = (true, d) := by
  induction ces with
  | nil => rfl
  | cons k ces ih =>
    have hk : d.badLines bt k none (fun q => q.ctx == c && q.dirty) = (true, d) :=
      Dev.badLines_none bt d k none _ (fun q hq hc => h k (List.mem_cons_self ..) q hq (beq_iff_eq.mp (Bool.and_eq_true_iff.mp hc).1))
    simp only [List.foldl_cons, hk, Bool.and_self]
    exact ih (fun j hj => h j (List.mem_cons_of_mem _ hj))

/-- A launch that is no replay tears no bytes (R51). -/
theorem Dev.tornReplay_first (d : Dev) {x : Launch} (h : x.replay = false) : d.tornReplay x = d := by
  rw [Dev.tornReplay, if_neg (by simp [h])]

section Complete

/-! The launch `x` has ended on its CEs, whose lines of its context are sound; it is neither a shadow run nor a replay, and `e` is the
device once the dirty lines are written back. -/

variable {d e : Dev} {l : Nat} {x : Launch} (bt : Nat) (hx : d.launch? l = some x) (hend : d.hasEnded l x = true)
  (hsound : ∀ k ∈ d.launchCes l, d.sqcSound k x.ctx) (hnot : x.shadowOf = none) (hreplay : x.replay = false)
  (he : e = (d.launchCes l).foldl (fun d k => d.sqcClean k (fun q => q.ctx == x.ctx && q.dirty)) d)

include hx hend hsound hnot hreplay he

/-- One that is compared with nothing completes (R46). -/
theorem Dev.launchComplete_alone (hs : x.shadow = none) (ht : x.settle = none) :
    d.launchComplete bt l = ((e.dropPosts l).forget bt l x.ctx).completeLaunch bt l x.final := by
  simp only [Dev.launchComplete, hx, if_pos hend, hnot, Option.isSome_none, Bool.false_eq_true, if_false,
    Dev.badLines_fold_sound bt hsound, Dev.tornReplay_first _ hreplay, hs, ht, Bool.or_self, hreplay, false_and, ← he]

/-- One with a shadow run holds its completion, with its digests (R437). -/
theorem Dev.launchComplete_shadowed (hs : x.shadow ≠ none) : d.launchComplete bt l =
    ((e.dropPosts l).forget bt l x.ctx).modLaunch l (fun x => { x with
      st := .done, digests := e.digestsOf l, oldCes := x.oldCes ++ d.launchCes l }) := by
  have hsome : x.shadow.isSome = true := Option.isSome_iff_ne_none.mpr hs
  simp only [Dev.launchComplete, hx, if_pos hend, hnot, Option.isSome_none, Bool.false_eq_true, if_false,
    Dev.badLines_fold_sound bt hsound, Dev.tornReplay_first _ hreplay, hsome, Bool.false_or, Bool.true_or, if_true, ← he]

end Complete

/-- Settles O24: a launch is queued, placed or completed by the branches that its turn, its journal entries, its wheel and its CEs' lines
name. -/
theorem launchCommands : Obligations.LaunchCommands := by
  unfold Obligations.LaunchCommands
  simp only [exec_launch, execLaunch, exec_launchPlace, execLaunchPlace, exec_launchComplete, execLaunchComplete, onDev_eq]
  refine ⟨?queued, ?later, ?quota, ?placed, ?waits, ?completed, ?compared⟩
  case queued =>
    rintro s k c q n r d hreq rfl rfl hjrn hfirst
    rw [Dev.queueLaunch, if_neg (by simp [hfirst]), dispatchCtx_eq hreq]
    simp only [if_neg (Nat.not_lt.mpr hjrn)]
    cases hlast : mapGet 0 (d.ctx c).last (d.pair k).queue with
    | zero => simp
    | succ p => simp
  case later =>
    intro s k h
    rw [Dev.queueLaunch_waits s.bt h]
  case quota =>
    intro s k c r d hreq hjrn hfirst
    rw [Dev.queueLaunch, if_neg (by simp [hfirst]), dispatchCtx_eq hreq, if_pos hjrn]
  case placed =>
    intro s l k x hx hcycle hpow hturn hcharged hjrn hchoose hwheel hnrs
    simp only [Dev.placeLaunch, hx, hchoose]
    rw [if_pos ⟨hcycle, hpow, hturn, .inr hjrn⟩]
    -- of one CE the lowest-numbered is that one
    simp only [List.headD_cons, List.foldl_cons, List.foldl_nil, ite_self, if_pos hwheel, hcharged, Bool.false_eq_true, if_false,
      Dev.sampleShadow_nrs s.bt _ _ _ hnrs]
  case waits =>
    intro s l x hx hturn
    rw [Dev.placeLaunch_waits s.bt hx hturn]
  case completed =>
    intro s l x hx hend hsound hnot hs ht hreplay
    rw [Dev.launchComplete_alone s.bt hx hend hsound hnot hreplay rfl hs ht]
  case compared =>
    intro s l x d hx hend hsound hreplay hnot hs hd
    rw [Dev.launchComplete_shadowed s.bt hx hend hsound hnot hreplay hd hs]

end Sys2Proof.Machine
end

section
/-! SUPPORT. Board Time: what an accepted sample does to it and to the sources' records, and that no step takes it back within a power
cycle (R57, R58, R63 to R66). -/

namespace Sys2Proof.Machine

/-! ### The records of the sources -/

theorem Dev.btSrc_setBtSrc_same (d : Dev) (src : Nat) (x : BtSrc) : (d.setBtSrc src x).btSrc src = x := by
  unfold Dev.btSrc Dev.setBtSrc
  split <;> rfl

theorem Dev.btSrc_setBtSrc_other {src : Nat} (h : src = 1 ∨ src = 2) (d : Dev) (x : BtSrc) :
    (d.setBtSrc src x).btSrc (3 - src) = d.btSrc (3 - src) := by
  rcases h with rfl | rfl <;> rfl

/-- Two devices whose sources have the same records. -/
def Dev.SameSources (d e : Dev) : Prop := ∀ src, e.btSrc src = d.btSrc src

namespace Dev.SameSources

theorem refl (d : Dev) : d.SameSources d := fun _ => rfl

theorem trans {d e f : Dev} (h : d.SameSources e) (g : e.SameSources f) : d.SameSources f :=
  fun src => (g src).trans (h src)

theorem ite {d e f : Dev} {p : Prop} [Decidable p] (he : d.SameSources e) (hf : d.SameSources f) :
    d.SameSources (if p then e else f) := by
  split
  · exact he
  · exact hf

theorem fset (d : Dev) (f : Fld) (i v : Nat) : d.SameSources (d.fset f i v) := fun _ => rfl

theorem btAcquire (d : Dev) (src : Nat) : d.SameSources (d.btAcquire src) := fun _ => rfl

theorem modTime (d : Dev) {f : TimeSt → TimeSt} (hptp : ∀ z, (f z).ptp = z.ptp) (hpps : ∀ z, (f z).pps = z.pps) :
    d.SameSources (d.modTime f) := by
  intro src
  simp only [Dev.btSrc, Dev.time_modTime_self, hptp, hpps]

end Dev.SameSources

/-! ### The step of Board Time (R65) -/

/-- The registers of the armed slots move with their events; nothing of Board Time's own part does. -/
theorem Dev.time_shiftNext (n : Nat) (d : Dev) (w : Nat) : (d.shiftNext n w).time = d.time := by
  unfold Dev.shiftNext
  refine List.foldlRecOn (motive := fun e : Dev => e.time = d.time) _ _ rfl (fun e he v _ => ?_)
  split
  · exact he
  · exact he

/-- A step moves the events of the wheels and no source. -/
theorem Dev.SameSources.shiftWheels (d : Dev) (n : Nat) : d.SameSources (d.shiftWheels n) := by
  unfold Dev.shiftWheels
  refine List.foldlRecOn (motive := fun e : Dev => d.SameSources e) _ _ (fun _ => rfl) (fun e he w _ => he.trans (fun src => ?_))
  simp only [Dev.btSrc, Dev.time_shiftNext]

/-- The step is forward only. -/
theorem Dev.btStep_forward (bt : Nat) (d : Dev) (offset : Int) : bt ≤ (d.btStep bt offset).1 := by
  unfold Dev.btStep
  split
  · exact Nat.le_add_right _ _
  · exact le_rfl

/-- Moving both sources' last samples by `n` moves each one's. -/
theorem Dev.btSrc_shiftSrc_both (d : Dev) (n : Nat) {src : Nat} (h : src = 1 ∨ src = 2) :
    ((d.shiftSrc 1 n).shiftSrc 2 n).btSrc src = { d.btSrc src with last := (d.btSrc src).last.map (· + n) } := by
  rcases h with rfl | rfl <;> rfl

/-- The last accepted sample of each source moves as far as Board Time does. -/
theorem Dev.btSrc_btStep (bt : Nat) (d : Dev) (offset : Int) {src : Nat} (h : src = 1 ∨ src = 2) :
    (d.btStep bt offset).2.btSrc src =
      { d.btSrc src with last := (d.btSrc src).last.map (· + ((d.btStep bt offset).1 - bt)) } := by
  unfold Dev.btStep
  split
  · simp only [Dev.btSrc_shiftSrc_both _ _ h, Dev.SameSources.shiftWheels d _ src, Nat.add_sub_cancel_left]
  · have hstays : (d.btSrc src).last.map (· + (bt - bt)) = (d.btSrc src).last := by simp
    rw [hstays]
    rfl

/-! ### An accepted sample -/

/-- The record an accepted sample leaves of its source, before any step (R63). -/
def BtSrc.accepted (x : BtSrc) (bt : Nat) (est : Int) : BtSrc := { acc := x.acc + 1, rej := 0, last := some bt, est := some est }

/-- An accepted sample is recorded with its source, and then Board Time goes on or steps by the sample's offset. -/
theorem Dev.btAccept_cases (bt : Nat) (d : Dev) (src : Nat) (offset : Int) :
    ∃ e : Dev, (d.setBtSrc src ((d.btSrc src).accepted bt (Config.freeInt d.free))).SameSources e ∧
      (d.btAccept bt src offset = (bt, e) ∨ d.btAccept bt src offset = e.btStep bt offset) := by
  obtain ⟨p, hp⟩ : ∃ p, d.btAccept bt src offset = p := ⟨_, rfl⟩
  rw [hp]
  unfold Dev.btAccept at hp
  extract_lets x est bound adj recorded chosen looped run learned locks first locked noted at hp
  have hrecorded : (d.setBtSrc src (x.accepted bt est)).SameSources recorded := by
    intro b
    simp only [recorded, Dev.setBtSrc]
    split <;> rfl
  have hchosen : recorded.SameSources chosen := .ite (.refl _) (.ite (.btAcquire _ _) (.ite (.btAcquire _ _) (.refl _)))
  have hlearned : chosen.SameSources learned :=
    (((Dev.SameSources.fset _ _ _ _).trans (.fset _ _ _ _)).trans (.fset _ _ _ _)).trans (.modTime _ (fun _ => rfl) (fun _ => rfl))
  have hlocked : learned.SameSources locked := .ite (.fset _ _ _ _) (.refl _)
  have hnoted : locked.SameSources noted := .ite (.modTime _ (fun _ => rfl) (fun _ => rfl)) (.refl _)
  have hkept := (((hrecorded.trans hchosen).trans hlearned).trans hlocked).trans hnoted
  split_ifs at hp
  · exact ⟨chosen, hrecorded.trans hchosen, .inl hp.symm⟩
  · refine ⟨_, ?_, .inr hp.symm⟩
    exact hkept.trans (.modTime _ (fun _ => rfl) (fun _ => rfl))
  · refine ⟨_, ?_, .inl hp.symm⟩
    exact hkept.trans (.modTime _ (fun _ => rfl) (fun _ => rfl))

/-- An accepted sample never moves Board Time back (R65). -/
theorem Dev.btAccept_forward (bt : Nat) (d : Dev) (src : Nat) (offset : Int) : bt ≤ (d.btAccept bt src offset).1 := by
  obtain ⟨e, -, h | h⟩ := d.btAccept_cases bt src offset
  · rw [h]
  · rw [h]
    exact e.btStep_forward bt offset

/-- It is its source's last, at the Board Time it leaves; the other source's last moves with a step alone (R63, R65). -/
theorem Dev.btAccept_records (bt : Nat) (d : Dev) {src : Nat} (offset : Int) {b : Nat} (hb : b = 1 ∨ b = 2) {x : BtSrc}
    (hx : x = (d.setBtSrc src ((d.btSrc src).accepted bt (Config.freeInt d.free))).btSrc b) :
    (d.btAccept bt src offset).2.btSrc b = { x with last := x.last.map (· + ((d.btAccept bt src offset).1 - bt)) } := by
  obtain ⟨e, he, h | h⟩ := d.btAccept_cases bt src offset
  · rw [h, he, hx]
    simp
  · rw [h, e.btSrc_btStep bt offset hb, he, hx]

/-- Settles O10: the record of the sample is made before Board Time steps, and a step moves both sources' last samples with it. -/
theorem acceptedSampleRecorded : Obligations.AcceptedSampleRecorded := by
  unfold Obligations.AcceptedSampleRecorded
  intro bt d src offset hsrc
  have hforward := d.btAccept_forward bt src offset
  have hown := d.btAccept_records bt offset hsrc (Dev.btSrc_setBtSrc_same d src _).symm
  have hother := d.btAccept_records bt offset (src := src) (b := 3 - src) (by omega) (Dev.btSrc_setBtSrc_other hsrc d _).symm
  refine ⟨hforward, ?_, by rw [hown]; rfl, by rw [hown]; rfl, hother⟩
  rw [hown]
  simp [BtSrc.accepted, Nat.add_sub_cancel' hforward]

/-! ### Every step -/

/-- A PTP sample moves Board Time only as an accepted one does. -/
theorem Dev.ptpSample_forward (bt : Nat) (d : Dev) (port : Nat) (offset : Int) : bt ≤ (d.ptpSample bt port offset).1 := by
  unfold Dev.ptpSample
  split_ifs
  · exact le_rfl
  · exact Dev.btAccept_forward bt _ 1 offset
  · exact le_rfl

/-- So does a PPS edge. -/
theorem Dev.ppsEdge_forward (bt : Nat) (d : Dev) (offset : Int) (width : Nat) : bt ≤ (d.ppsEdge bt offset width).1 := by
  unfold Dev.ppsEdge
  extract_lets
  split_ifs
  · exact le_rfl
  · exact le_rfl
  · exact le_rfl
  · exact Dev.btAccept_forward bt _ 2 offset

/-- A command that changes the device alone leaves Board Time. -/
theorem exec_forward_of_dev {c : Instr} {s t : State} (hdev : ∃ d, exec c s = .next { s with dev := d }) (h : exec c s = .next t) :
    s.bt ≤ t.bt := by
  obtain ⟨d, hd⟩ := hdev
  rw [hd] at h
  cases h
  exact le_rfl

/-- No command takes Board Time back but those that begin a new power cycle (R65, R66). -/
theorem exec_forward {c : Instr} {s t : State} (hreset : c ≠ .sysResetAsserted) (hremoved : c ≠ .powerRemoved)
    (hcold : ∀ ok id, c ≠ .coldStart ok id) (h : exec c s = .next t) : s.bt ≤ t.bt := by
  cases c
  case sysResetAsserted => exact absurd rfl hreset
  case powerRemoved => exact absurd rfl hremoved
  case coldStart ok id => exact absurd rfl (hcold ok id)
  case ptpSample port offset =>
    cases h
    exact s.dev.ptpSample_forward s.bt port offset
  case ppsEdge offset width =>
    cases h
    exact s.dev.ppsEdge_forward s.bt offset width
  all_goals exact exec_forward_of_dev ⟨_, rfl⟩ h

/-- Settles O5: an idle step adds a nanosecond, and a step of a command is that command's. -/
theorem boardTimeForward : Obligations.BoardTimeForward := by
  unfold Obligations.BoardTimeForward
  intro s t T hT hcycle hstep
  refine hT.trans ?_
  unfold step at hstep
  split at hstep
  next c rest hq =>
    obtain ⟨hreset, hremoved, hcold⟩ := hcycle c rest hq
    exact exec_forward (s := { s with pending := rest }) hreset hremoved hcold hstep
  next =>
    cases hstep
    exact Nat.le_succ s.bt

end Sys2Proof.Machine
end

section
/-! SUPPORT. The event wheels: which event a wheel processes next, what firing it leaves, and the periodic slots (R67 to R71). -/

namespace Sys2Proof.Machine

/-! ### The order of events (R69) -/

theorem Event.before_iff (a b : Event) : a.before b = true ↔
    a.bucket < b.bucket ∨ a.bucket = b.bucket ∧ (a.order < b.order ∨ a.order = b.order ∧ a.seq < b.seq) := by
  simp [Event.before]

theorem Event.before_trans {a b c : Event} (hab : a.before b = true) (hbc : b.before c = true) : a.before c = true := by
  rw [Event.before_iff] at *
  omega

/-- The order is total up to equal rank: an event before another is before or behind any third. -/
theorem Event.before_or {a c : Event} (hac : a.before c = true) (b : Event) : a.before b = true ∨ b.before c = true := by
  simp only [Event.before_iff] at *
  omega

/-- The earlier of the event found so far and the next one; of equal rank, the one found. -/
def firstEvent : Option Event → Event → Option Event
  | none, e => some e
  | some x, e => if e.before x then some e else some x

theorem wheelHead_eq_foldl (bt : Nat) (l : List Event) : wheelHead bt l = (l.filter (Event.begun bt)).foldl firstEvent none := by
  unfold wheelHead
  congr 1
  funext h e
  cases h <;> rfl

/-- The first of a list of events is one of them, and none of them is before it. -/
theorem foldl_firstEvent_some {l : List Event} {x e : Event} (h : l.foldl firstEvent (some x) = some e) :
    e ∈ x :: l ∧ ∀ y ∈ x :: l, y.before e = false := by
  induction l generalizing x with
  | nil =>
    obtain rfl : x = e := Option.some.inj h
    simp [Event.before]
  | cons y l ih =>
    rw [List.foldl_cons, firstEvent] at h
    split at h
    next hyx =>
      obtain ⟨hmem, hfirst⟩ := ih h
      have hye := hfirst y (List.mem_cons_self ..)
      have hxe : x.before e = false := Bool.eq_false_iff.mpr fun hxe => by simp [Event.before_trans hyx hxe] at hye
      exact ⟨List.mem_cons_of_mem _ hmem, List.forall_mem_cons.mpr ⟨hxe, hfirst⟩⟩
    next hyx =>
      obtain ⟨hmem, hfirst⟩ := ih h
      obtain ⟨hxe, hrest⟩ := List.forall_mem_cons.mp hfirst
      have hye : y.before e = false := Bool.eq_false_iff.mpr fun hye => by simpa [hyx, hxe] using Event.before_or hye x
      refine ⟨?_, List.forall_mem_cons.mpr ⟨hxe, List.forall_mem_cons.mpr ⟨hye, hrest⟩⟩⟩
      rcases List.mem_cons.mp hmem with rfl | hmem
      · exact List.mem_cons_self ..
      · exact List.mem_cons_of_mem _ (List.mem_cons_of_mem _ hmem)

/-- The head of a wheel is an event of the buckets that have begun, and none of those is before it. -/
theorem wheelHead_first {bt : Nat} {l : List Event} {e : Event} (h : wheelHead bt l = some e) :
    e ∈ l ∧ e.begun bt = true ∧ ∀ x ∈ l, x.begun bt = true → x.before e = false := by
  rw [wheelHead_eq_foldl] at h
  have hfound : e ∈ l.filter (Event.begun bt) ∧ ∀ y ∈ l.filter (Event.begun bt), y.before e = false := by
    cases hl : l.filter (Event.begun bt) with
    | nil =>
      rw [hl] at h
      cases h
    | cons x rest =>
      rw [hl] at h
      exact foldl_firstEvent_some h
  obtain ⟨hmem, hfirst⟩ := hfound
  obtain ⟨hin, hbegun⟩ := List.mem_filter.mp hmem
  exact ⟨hin, hbegun, fun x hx hb => hfirst x (List.mem_filter.mpr ⟨hx, hb⟩)⟩

/-- The next event to be processed is the head, once its time has come (R68). -/
theorem wheelNext_eq_some {bt : Nat} {l : List Event} {e : Event} :
    wheelNext bt l = some e ↔ wheelHead bt l = some e ∧ e.due ≤ bt := by
  unfold wheelNext
  constructor
  · intro h
    split at h
    next x hx =>
      split at h
      next hdue =>
        cases h
        exact ⟨hx, hdue⟩
      next => cases h
    next => cases h
  · rintro ⟨hhead, hdue⟩
    simp only [hhead, if_pos hdue]

/-! ### Firing (R68) -/

section Fire

variable {bt : Nat} {d : Dev} {w : Nat}

theorem Dev.wheelCount_processed (ev : Ev) : (d.processed bt w ev).wheelCount bt w = d.wheelCount bt w + 1 := by
  rw [Dev.wheelCount, Dev.processed]
  simp only [Dev.time_modTime_self, mapGet_set_same, if_true]

theorem Dev.wheelCount_eventDone (v : Event) : (d.eventDone bt w v).wheelCount bt w = d.wheelCount bt w + 1 := by
  rw [← Dev.wheelCount_processed v.ev, Dev.eventDone]
  split <;> rfl

/-- The next event of a wheel fires, unless the wheel has processed 64 in this microsecond. -/
theorem Dev.fire_next {v : Event} (hnext : wheelNext bt (d.wheel w) = some v) (hrate : d.wheelCount bt w < 64) :
    d.fire bt w v.ev = some (d.eventDone bt w v) := by
  simp only [Dev.fire, hnext, wheelRate, hrate, and_self, if_true, Dev.eventDone]

theorem Dev.fire_full (ev : Ev) (hrate : 64 ≤ d.wheelCount bt w) : d.fire bt w ev = none := by
  unfold Dev.fire
  split
  · exact if_neg (fun h => absurd h.2 (Nat.not_lt.mpr hrate))
  · rfl

/-- What fires is the wheel's next event, one of at most 64 in the microsecond. -/
theorem Dev.fire_eq_some {ev : Ev} {e : Dev} (h : d.fire bt w ev = some e) :
    ∃ v, wheelNext bt (d.wheel w) = some v ∧ v.ev = ev ∧ d.wheelCount bt w < 64 ∧ e = d.eventDone bt w v := by
  unfold Dev.fire at h
  split at h
  next v hv =>
    split at h
    next hgo =>
      obtain ⟨rfl, hrate⟩ := hgo
      exact ⟨v, hv, rfl, hrate, (Option.some.inj h).symm⟩
    next => cases h
  next => cases h

/-- An event processed within 10 µs of its bucket's start is not late. -/
theorem Dev.eventDone_inTime {v : Event} (h : bt ≤ v.bucket * 1000 + 10000) : d.eventDone bt w v = d.processed bt w v.ev :=
  if_neg (Nat.not_lt.mpr h)

end Fire

/-- Settles O12: the head of the begun buckets is least in R69's order, and each firing needs fewer than 64 before it. -/
theorem eventsFireInOrder : Obligations.EventsFireInOrder := by
  unfold Obligations.EventsFireInOrder
  intro bt l e hnext
  obtain ⟨hhead, hdue⟩ := wheelNext_eq_some.mp hnext
  obtain ⟨hmem, hbegun, hfirst⟩ := wheelHead_first hhead
  have hfine : e.lvl = .fine := by
    simp only [Event.begun, Bool.and_eq_true, decide_eq_true_eq] at hbegun
    exact hbegun.1
  refine ⟨hmem, hdue, hfine, hfirst, fun d f w ev _ hfire => ?_⟩
  obtain ⟨v, -, -, hrate, rfl⟩ := Dev.fire_eq_some hfire
  rw [Dev.wheelCount_eventDone]
  exact hrate

/-! ### The coarse level (R67) -/

/-- Releveling an event keeps what it stands for and its place; a coarse one whose bucket is current becomes fine, and one of the
overflow within the coarse horizon becomes coarse. -/
theorem Event.relevel_spec (bt : Nat) (e : Event) :
    (e.relevel bt).ev = e.ev ∧ (e.relevel bt).due = e.due ∧ (e.relevel bt).order = e.order ∧ (e.relevel bt).seq = e.seq ∧
      (e.lvl = .coarse → e.due / 4096000 ≤ bt / 4096000 → (e.relevel bt).lvl = .fine) ∧
      (e.lvl = .overflow → e.due < bt + coarseHorizon → (e.relevel bt).lvl = .coarse) := by
  unfold Event.relevel
  cases hlvl : e.lvl with
  | fine => exact ⟨rfl, rfl, rfl, rfl, nofun, nofun⟩
  | coarse =>
    dsimp only
    split
    next => exact ⟨rfl, rfl, rfl, rfl, fun _ _ => rfl, nofun⟩
    next hlater => exact ⟨rfl, rfl, rfl, rfl, fun _ hcur => absurd hcur hlater, nofun⟩
  | overflow =>
    dsimp only
    split
    next => exact ⟨rfl, rfl, rfl, rfl, nofun, fun _ _ => rfl⟩
    next hbeyond => exact ⟨rfl, rfl, rfl, rfl, nofun, fun _ hin => absurd hin hbeyond⟩

/-! ### Periodic slots (R71) -/

theorem verdict_eq_ok {refuse conflict : Bool} (hr : refuse = false) (hc : conflict = false) : verdict refuse conflict = .ok := by
  rw [hr, hc, verdict_ff]

theorem bits_zero (hi lo : Nat) : bits 0 hi lo = 0 := by simp [bits]

section Slot

variable {bt : Nat} {d : Dev} {p : Party} {w n : Nat} {v : Word}

theorem Dev.ewSlotWrite_claim (hok : d.writeOk p (ewSlotReg w) (ewInst w n) v = true) (hfree : d.slotOwner w n = 0)
    (hnew : bits v.toNat 3 0 ≠ 0) :
    d.ewSlotWrite p w n v = d.setReg (ewSlotReg w) (ewInst w n) (d.afterWrite p (ewSlotReg w) (ewInst w n) v) := by
  rw [Dev.ewSlotWrite, verdict_eq_ok (by rw [beq_false_of_ne hnew, Bool.false_and]) (by rw [hfree]; rfl),
    Dev.regWrite_ok d p _ _ v _ hok, if_neg (fun h => hnew h.1)]

theorem Dev.ewSlotWrite_release (hok : d.writeOk p (ewSlotReg w) (ewInst w n) 0#64 = true) (hheld : d.slotOwner w n ≠ 0) :
    d.ewSlotWrite p w n 0#64 = ((d.setReg (ewSlotReg w) (ewInst w n) (d.afterWrite p (ewSlotReg w) (ewInst w n) 0#64)).disarm w
      (.slot n)).setReg (ewNextReg w) (ewInst w n) 0#64 := by
  have hzero : (0#64 : Word).toNat = 0 := rfl
  rw [Dev.ewSlotWrite, verdict_eq_ok (by rw [hzero, bits_zero, bits_zero]; rfl) (by rw [hzero, bits_zero]; simp),
    Dev.regWrite_ok d p _ _ _ _ hok, if_pos ⟨bits_zero 3 0, hheld⟩]

theorem Dev.ewSlotWrite_taken (hheld : d.slotOwner w n ≠ 0) (hnew : bits v.toNat 3 0 ≠ 0)
    (hother : bits v.toNat 3 0 ≠ d.slotOwner w n) : d.ewSlotWrite p w n v = d.refuse (ewSlotReg w) (ewInst w n) true := by
  have hclaims : (d.slotOwner w n != 0 && bits v.toNat 3 0 != 0 && bits v.toNat 3 0 != d.slotOwner w n) = true := by
    rw [bne_iff_ne.mpr hheld, bne_iff_ne.mpr hnew, bne_iff_ne.mpr hother]
    rfl
  rw [Dev.ewSlotWrite, hclaims, verdict_t, Dev.regWrite_conflict]

theorem Dev.ewNextWrite_free (hfree : d.slotOwner w n = 0) :
    d.ewNextWrite bt p w n v = d.refuse (ewNextReg w) (ewInst w n) false := by
  rw [Dev.ewNextWrite, hfree]
  exact Dev.regWrite_refuse ..

theorem Dev.ewNextWrite_arms (hok : d.writeOk p (ewNextReg w) (ewInst w n) v = true) (hheld : d.slotOwner w n ≠ 0) :
    d.ewNextWrite bt p w n v = ((d.setReg (ewNextReg w) (ewInst w n) (d.afterWrite p (ewNextReg w) (ewInst w n) v)).disarm w
      (.slot n)).arm bt w (.slot n) (slotOrder (d.slotOwner w n)) v.toNat := by
  rw [Dev.ewNextWrite, verdict_eq_ok (beq_false_of_ne hheld) rfl, Dev.regWrite_ok d p _ _ v _ hok]

/-- A wheel that has processed its 64 events fires no slot. -/
theorem Dev.fireSlot_full (owner : Nat) (hrate : 64 ≤ d.wheelCount bt w) : d.fireSlot bt w n owner = none := by
  rw [Dev.fireSlot, Dev.fire_full _ hrate]
  exact ite_self _

/-- A slot whose event is next fires for its owner: a one-shot slot is done, another is armed again a period later. -/
theorem Dev.fireSlot_next {e : Event} {owner : Nat} (hnext : wheelNext bt (d.wheel w) = some e) (hev : e.ev = .slot n)
    (hinTime : bt ≤ e.bucket * 1000 + 10000) (hrate : d.wheelCount bt w < 64) (howner : d.slotOwner w n = owner) :
    d.fireSlot bt w n owner = some (if d.slotPeriod w n = 0 then d.processed bt w (.slot n) else
      ((d.processed bt w (.slot n)).setReg (ewNextReg w) (ewInst w n)
        (BitVec.ofNat 64 ((d.reg (ewNextReg w) (ewInst w n)).toNat + d.slotPeriod w n * 1000))).arm bt w (.slot n) (slotOrder owner)
        ((d.reg (ewNextReg w) (ewInst w n)).toNat + d.slotPeriod w n * 1000)) := by
  have hfire : d.fire bt w (.slot n) = some (d.processed bt w (.slot n)) := by
    rw [← hev, Dev.fire_next hnext hrate, Dev.eventDone_inTime hinTime]
  rw [Dev.fireSlot, if_pos howner, hfire]
  exact (apply_ite some _ _ _).symm

end Slot

/-- Settles O11: each write takes the verdict that its slot's owner gives it, and a firmware timer is its slot's firing and its wheel's
source. -/
theorem wheelCommands : Obligations.WheelCommands := by
  unfold Obligations.WheelCommands
  simp only [exec_coarseBucketCurrent, execCoarseBucketCurrent, exec_ewSlotWrite, execEwSlotWrite, exec_ewNextWrite, execEwNextWrite,
    exec_firmwareTimer, execFirmwareTimer, onDev_eq]
  refine ⟨fun _ _ => rfl, Event.relevel_spec, ?claim, ?release, ?taken, ?nextFree, ?nextArms, ?oneShot, ?periodic, ?full⟩
  case claim =>
    intro s p w n v hok hfree hnew
    rw [Dev.ewSlotWrite_claim hok hfree hnew]
  case release =>
    intro s p w n hok hheld
    rw [Dev.ewSlotWrite_release hok hheld]
  case taken =>
    intro s p w n v _ hheld hnew hother
    rw [Dev.ewSlotWrite_taken hheld hnew hother]
  case nextFree =>
    intro s p w n v hfree
    rw [Dev.ewNextWrite_free hfree]
  case nextArms =>
    intro s p w n v hok hheld
    rw [Dev.ewNextWrite_arms hok hheld]
  case oneShot =>
    intro s w n e hnext hev hinTime hrate howner hper
    simp only [Dev.firmwareTimer, Dev.fireSlot_next hnext hev hinTime hrate howner, if_pos hper]
  case periodic =>
    intro s w n e hnext hev hinTime hrate howner hper
    simp only [Dev.firmwareTimer, Dev.fireSlot_next hnext hev hinTime hrate howner, if_neg hper]
  case full =>
    intro s w n hrate
    simp only [Dev.firmwareTimer, Dev.fireSlot_full 6 hrate]

end Sys2Proof.Machine
end

section
/-! SUPPORT. The idle step and the supervisor timers (R57, R58, R231). -/

namespace Sys2Proof.Machine

/-- Where no running hart takes its timer, a tick changes nothing. -/
theorem Dev.timerTick_none {bt : Nat} {d : Dev} (h : ∀ x ∈ d.cpx.harts, d.runs x.1 = true → x.2.timerTakes bt = false) :
    d.timerTick bt = d := by
  unfold Dev.timerTick
  refine List.foldlRecOn (motive := fun e : Dev => e = d) _ _ rfl (fun e he x hx => ?_)
  subst he
  exact if_neg (fun ⟨hruns, htakes⟩ => by simp [h x hx hruns] at htakes)

/-- The one hart of a device takes its timer interrupt in HS-mode, its buffer drained. -/
theorem Dev.timerTick_one {bt h : Nat} {x : Hart} {d : Dev} (hone : d.cpx.harts = [(h, x)]) (hruns : d.runs h = true)
    (htakes : x.timerTakes bt = true) : d.timerTick bt = (d.drainStores h).modHart h (fun x => x.enter .hs (2 ^ 63 + 5) 0) := by
  rw [Dev.timerTick, hone, List.foldl_cons, List.foldl_nil, if_pos ⟨hruns, htakes⟩]

/-- A supervisor timer is never early (R231). -/
theorem Hart.timerTakes_due {bt : Nat} {x : Hart} (h : x.timerTakes bt = true) : (x.csrGet csrStimecmp).toNat ≤ bt := by
  simp only [Hart.timerTakes, Hart.timerDue, Bool.and_eq_true, decide_eq_true_eq] at h
  obtain ⟨⟨hdue, -⟩, -⟩ := h
  exact hdue

theorem step_idle {s : State} (h : s.pending = []) : step s = .next { s with bt := s.bt + 1, dev := s.dev.timerTick (s.bt + 1) } := by
  unfold step
  rw [h]

/-- Settles O2: an idle step is one tick of the timers. -/
theorem idleTick : Obligations.IdleTick := by
  unfold Obligations.IdleTick
  refine ⟨fun s hidle hnone => ?_, fun s h x hidle hone hruns htakes => ?_, fun bt x h => Hart.timerTakes_due h⟩
  · rw [step_idle hidle, Dev.timerTick_none hnone]
  · rw [step_idle hidle, Dev.timerTick_one hone hruns htakes]

end Sys2Proof.Machine
end

section
/-! SUPPORT. The commands of Board Time: samples, edges, lost sources, the step request and the second (R59 to R65). -/

namespace Sys2Proof.Machine

/-! ### Samples of PTP -/

/-- The first sample of a source differs from no estimate. -/
theorem Dev.btOutlier_first {d : Dev} {src : Nat} {offset : Int} (h : (d.btSrc src).est = none) : d.btOutlier src offset = false := by
  simp only [Dev.btOutlier, h]

section Ptp

variable {bt port : Nat} {d : Dev} {offset : Int} (husable : d.btUsable 1 = true)
  (hport : bit (d.fget F.btmCtrlPtpPorts 0) port = true)

include husable hport

theorem Dev.ptpSample_accepted (hin : d.btOutlier 1 offset = false) :
    d.ptpSample bt port offset = (d.fset F.btmStatusPtpPort 0 port).btAccept bt 1 offset := by
  rw [Dev.ptpSample, if_pos ⟨husable, hport⟩, if_neg (by simp [hin])]

theorem Dev.ptpSample_rejected (hout : d.btOutlier 1 offset = true) : d.ptpSample bt port offset = (bt, d.btReject bt 1) := by
  rw [Dev.ptpSample, if_pos ⟨husable, hport⟩, if_pos hout]

end Ptp

/-! ### Edges of PPS (R61, R63) -/

/-- The device once an edge has cleared VALID and marked its second (R61). -/
def Dev.ppsMarked (d : Dev) (next : Option Nat) : Dev := (d.fset F.btmTodValid 0 0).modTime (fun t => { t with ppsSec := next })

/-- Marking the second of an edge is no change of who may discipline Board Time. -/
theorem Dev.btUsable_ppsMarked (d : Dev) (next : Option Nat) (src : Nat) : (d.ppsMarked next).btUsable src = d.btUsable src := by
  have hctrl : (d.ppsMarked next).reg .btmCtrl 0 = d.reg .btmCtrl 0 :=
    d.reg_fset_other F.btmTodValid 0 (by decide) (by decide) (.inl (by decide))
  have hstatus : (d.ppsMarked next).reg .btmStatus 0 = d.reg .btmStatus 0 :=
    d.reg_fset_other F.btmTodValid 0 (by decide) (by decide) (.inl (by decide))
  simp only [Dev.btUsable, Dev.fon, Dev.fget, F.btmCtrlPtpEn, F.btmCtrlPpsEn, F.btmStatusPtpFault, F.btmStatusPpsFault, hctrl, hstatus]

section Pps

variable {bt width : Nat} {d : Dev} {offset : Int} (htrace : d.time.traceTrigger = false)
  (hwide : d.fget F.btmPpsCfgGlitch 0 * 10 ≤ width)

include htrace hwide

/-- An edge without a valid second counts on from the last (R61); it disciplines Board Time if the source is used, unless it is an
outlier or, once locked, too far away (R63). -/
theorem Dev.ppsEdge_noSecond {m : Dev} (hvalid : d.fget F.btmTodValid 0 = 0) (hm : m = d.ppsMarked (d.time.ppsSec.map (· + 1))) :
    d.ppsEdge bt offset width = if !d.btUsable 2 then (bt, m)
      else if (d.fget F.btmStatusState 0 == btLocked && decide (d.fget F.btmPpsCfgWindowNs 0 < offset.natAbs)) || m.btOutlier 2 offset
        then (bt, m.btReject bt 2) else m.btAccept bt 2 offset := by
  have hinvalid : d.fon F.btmTodValid 0 = false := by rw [Dev.fon, hvalid]; rfl
  subst hm
  rw [Dev.ppsEdge, if_neg (by simp [htrace, hwide]), ← Dev.btUsable_ppsMarked d (d.time.ppsSec.map (· + 1)) 2]
  simp only [hinvalid, Bool.false_and, Bool.false_or, Bool.false_eq_true, if_false]
  rfl

/-- A valid second that is not the one counted on rejects the edge (R61). -/
theorem Dev.ppsEdge_wrongSecond {sec : Nat} (husable : d.btUsable 2 = true) (hvalid : d.fget F.btmTodValid 0 = 1)
    (hsec : d.time.ppsSec = some sec) (hwrong : d.fget F.btmTodSec 0 ≠ sec + 1) :
    d.ppsEdge bt offset width = (bt, (d.ppsMarked (some (sec + 1))).btReject bt 2) := by
  have hon : d.fon F.btmTodValid 0 = true := by rw [Dev.fon, hvalid]; rfl
  have hne : (sec + 1 != d.fget F.btmTodSec 0) = true := bne_iff_ne.mpr hwrong.symm
  rw [← Dev.btUsable_ppsMarked d (some (sec + 1))] at husable
  rw [Dev.ppsEdge, if_neg (by simp [htrace, hwide])]
  simp only [hon, hsec, Option.map_some, hne, Bool.true_and, Bool.true_or, if_true]
  exact if_neg (by simpa [Dev.ppsMarked] using husable)

end Pps

/-! ### A source lost (R59, R62) -/

section Lost

variable {bt src : Nat} {d : Dev} (hsrc : src = 1 ∨ src = 2) (huse : d.btSource = src) (hdead : d.btAlive bt src = false)
  (hother : d.btAlive bt (3 - src) = false)

include hsrc huse hdead hother

/-- The source in use, lost while the other is too, ends its run of samples and leaves Board Time without a source. -/
theorem Dev.sourceLost_alone : d.sourceLost bt src = (d.setBtSrc src { d.btSrc src with acc := 0 }).btNoSource := by
  have hregs : ∀ x, (d.setBtSrc src x).btSource = d.btSource ∧ (d.setBtSrc src x).btUsable (3 - src) = d.btUsable (3 - src) := by
    intro x
    rcases hsrc with rfl | rfl <;> exact ⟨rfl, rfl⟩
  have hstill : ∀ x, (d.setBtSrc src x).btAlive bt (3 - src) = false := by
    intro x
    rw [← hother, Dev.btAlive, Dev.btAlive, (hregs x).2, Dev.btSrc_setBtSrc_other hsrc]
  rw [Dev.sourceLost, if_neg (by simp [hdead]), if_pos ⟨(hregs _).1.trans huse, hsrc⟩, Dev.btFall, if_neg (by simp [hstill])]

end Lost

theorem Dev.btNoSource_holdover {d : Dev} (h : d.fon F.btmCtrlHoldEn 0 = true) :
    d.btNoSource = (d.fset F.btmStatusState 0 btHoldover).fset F.btmStatusSource 0 3 := if_pos h

theorem Dev.btNoSource_freerun {d : Dev} (h : d.fon F.btmCtrlHoldEn 0 = false) : d.btNoSource =
    (((d.fset F.btmStatusState 0 btFreerun).fset F.btmStatusSource 0 0).fset F.btmFreqAdjAdj 0 0).fset F.btmStatusErrBoundNs 0
      0xFFFFFFFF := if_neg (by simp [h])

theorem Dev.fon_setBtSrc (d : Dev) (src : Nat) (x : BtSrc) (f : Fld) (i : Nat) : (d.setBtSrc src x).fon f i = d.fon f i := by
  unfold Dev.setBtSrc
  split <;> rfl

/-! ### Writes of `BTM.CTRL` and `BTM.TOD` (R59, R61, R65) -/

section Write

variable {bt : Nat} {d : Dev} {p : Party} {v : Word}

/-- A step asked for while no context is admitted is noted; a source in use that the write disables is used no more. -/
theorem Dev.btmCtrlWrite_step {e : Dev} (hok : d.writeOk p .btmCtrl 0 v = true) (hstep : bit v.toNat 11 = true)
    (hclr : bit v.toNat 12 = false) (hpps : bit v.toNat 1 = false) (hnone : d.anyCtx = false)
    (he : e = (d.setReg .btmCtrl 0 (d.afterWrite p .btmCtrl 0 v)).modTime (fun t => { t with stepReq := true })) :
    d.btmCtrlWrite bt p v =
      if (e.btSource = 1 ∨ e.btSource = 2) ∧ e.btUsable e.btSource = false then e.btFall bt e.btSource else e := by
  rw [Dev.btmCtrlWrite, verdict_eq_ok (by rw [hnone, Bool.and_false]) (by rw [hpps, Bool.false_and]),
    Dev.regWrite_ok d p _ _ v _ hok, he]
  simp only [hclr, hstep, Bool.false_eq_true, if_false, if_true, Bool.not_eq_true]

/-- One asked for while a context is admitted is refused. -/
theorem Dev.btmCtrlWrite_admitted (hstep : bit v.toNat 11 = true) (hany : d.anyCtx = true) :
    d.btmCtrlWrite bt p v = d.refuse .btmCtrl 0 (bit v.toNat 1 && d.time.traceTrigger) := by
  rw [Dev.btmCtrlWrite, hstep, hany, Bool.and_self, Dev.regWrite_turned _ _ _ _ _ _ _ (verdict_ne_ok _), verdict_is_conflict]

/-- What the tray controller writes is the second and its VALID. -/
theorem Dev.afterWrite_btmTod (k : Nat) :
    bits (d.afterWrite (.firmware k) .btmTod 0 v).toNat 39 0 = bits v.toNat 39 0 ∧
      bits (d.afterWrite (.firmware k) .btmTod 0 v).toNat 40 40 = bits v.toNat 40 40 := by
  have hsec : (⟨F.btmTodSec, .rw, 0, 0, 1099511627775, false, false⟩ : FldDef) ∈ regFields .btmTod := by decide
  have hvalid : (⟨F.btmTodValid, .rw, 0, 0, 1, false, false⟩ : FldDef) ∈ regFields .btmTod := by decide
  exact ⟨d.bits_afterWrite (.firmware k) 0 v hsec, d.bits_afterWrite (.firmware k) 0 v hvalid⟩

end Write

/-- Settles O9: each command takes the branch of the discipline that its sample, its source or its write names. -/
theorem boardTimeCommands : Obligations.BoardTimeCommands := by
  unfold Obligations.BoardTimeCommands
  simp only [exec_ptpSample, execPtpSample, exec_ppsEdge, execPpsEdge, exec_sourceLost, execSourceLost, exec_stepReq, execStepReq,
    exec_todWrite, execTodWrite, onTime_eq, onDev_eq]
  refine ⟨?ptpAccepted, ?ptpRejected, ?ppsCounted, ?ppsWrong, ?ppsUnused, ?holdover, ?freerun, ?step, ?stepRefused, ?tod⟩
  case ptpAccepted =>
    intro s port offset husable hport hin
    rw [Dev.ptpSample_accepted husable hport hin]
  case ptpRejected =>
    intro s port offset husable hport hout
    rw [Dev.ptpSample_rejected husable hport hout]
  case ppsCounted =>
    intro s offset width htrace hwide husable hvalid hunlocked hfirst
    have hnear : ∀ next, (s.dev.ppsMarked next).btOutlier 2 offset = false := fun _ => Dev.btOutlier_first hfirst
    rw [Dev.ppsEdge_noSecond htrace hwide hvalid rfl, if_neg (by simp [husable]), if_neg (by simp [hunlocked, hnear])]
    rfl
  case ppsWrong =>
    intro s offset width sec htrace hwide husable hvalid hsec hwrong
    rw [Dev.ppsEdge_wrongSecond htrace hwide husable hvalid hsec hwrong]
    rfl
  case ppsUnused =>
    intro s offset width htrace hwide hunused hvalid
    rw [Dev.ppsEdge_noSecond htrace hwide hvalid rfl, if_pos (by simp [hunused])]
    rfl
  case holdover =>
    intro s src hsrc huse hdead hother hhold
    rw [Dev.sourceLost_alone hsrc huse hdead hother, Dev.btNoSource_holdover (by rw [Dev.fon_setBtSrc, hhold])]
  case freerun =>
    intro s src hsrc huse hdead hother hhold
    rw [Dev.sourceLost_alone hsrc huse hdead hother, Dev.btNoSource_freerun (by rw [Dev.fon_setBtSrc, hhold])]
  case step =>
    intro s p v d hok hstep hclr hpps hnone hd
    rw [Dev.btmCtrlWrite_step hok hstep hclr hpps hnone hd]
  case stepRefused =>
    intro s p v hstep hany
    rw [Dev.btmCtrlWrite_admitted hstep hany]
  case tod =>
    intro s v hok
    exact ⟨_, by rw [Dev.regWrite_ok _ _ _ _ _ _ hok]; rfl, s.dev.afterWrite_btmTod 0⟩

end Sys2Proof.Machine
end

section
/-! SUPPORT. What happens to a sequence beside its requests: flags, level 3, held requests, queries, pools and the commits of moves
(R73 to R76, R174, R175, R177, R178, R181, R182). -/

namespace Sys2Proof.Machine

/-! ### Queries and pools (R177) -/

/-- A request with a target on a host ring, which nothing refuses, writes its answer to the host. -/
theorem withTarget_host {s : State} {k typ op c : Nat} {r : Desc} {d : Dev} {pre : Desc → Nat → Dev → Option Status}
    (hreq : RequestAt s k typ op r c d) (hhost : pairIsHost k = true) (hctx : s.dev.descCtx r = c)
    (hlive : (s.dev.ctx c).ending = false) (hpre : pre r c s.dev = none) (len : Desc → Nat → Dev → Nat)
    (f : Desc → Nat → Dev → List Byte × Nat × Dev) :
    s.dev.withTarget s.bt k typ op pre len f =
      ((f r c d).2.2.emit (.hostWrite (pairPort k) (r.at_ 8 8) (f r c d).1)).finish s.bt r .ok 0 (f r c d).2.1 := by
  obtain ⟨hhead, rfl, -, -⟩ := hreq
  simp only [Dev.withTarget, hhead, hctx, hlive, hpre, hhost, Bool.false_eq_true, if_false, if_true]

/-- Frames that lie in the pool's tier and fit under its capacity join it (R177). -/
theorem Dev.poolGrow_fits {d : Dev} {a p dpa n : Nat} (hvalid : d.poolValid p = true) (halign : dpa % d.poolFrame p = 0)
    (htier : d.inTier (d.poolDdr p) a dpa (n * d.poolFrame p) = true) (hdpa : dpa < 2 ^ 48)
    (hroom : (d.pool p).free.length + (d.pool p).wiping + n ≤ d.poolCap p) :
    d.poolGrow a p dpa n = some (d.modPool p (fun q => { q with
      free := q.free ++ (List.range n).map (fun i => (dpa + i * d.poolFrame p) / 2 ^ 16) })) :=
  if_pos ⟨hvalid, halign, htier, hdpa, hroom⟩

/-! ### Held requests and commits (R174, R178, R182) -/

section Commit

variable {bt n : Nat} {d : Dev} {m : Move}

theorem Dev.releaseHeld_first {sl : Nat} {r : Desc} {rs : List Desc} (hheld : (d.slot sl).held = r :: rs)
    (hgo : (d.slot sl).mustHold (r.at_ 0 1) = false) :
    d.releaseHeld bt sl = (d.setSlot sl { d.slot sl with held := rs }).applyReq bt sl r := by
  simp only [Dev.releaseHeld, hheld, hgo, Bool.false_eq_true, if_false]

theorem Dev.kvCommit_block {i sl : Nat} (hm : mapFind? d.tier.moves n = some m) (hobj : m.obj = .block i sl) (hall : m.moved = m.len)
    (hbegun : m.begun = true) : d.kvCommit bt n = (d.commitBlock bt n m i sl).settleCtx (d.moveCtx m) := by
  simp only [Dev.kvCommit, hm, hobj, if_pos (And.intro hall hbegun)]

theorem Dev.kvCommit_copy {i sl : Nat} (hm : mapFind? d.tier.moves n = some m) (hobj : m.obj = .copy i sl) :
    d.kvCommit bt n = (d.commitCopy bt n m i sl).settleCtx (d.moveCtx m) := by
  simp only [Dev.kvCommit, hm, hobj]

end Commit

/-! ### Flags and level 3 (R73 to R76) -/

section Flag

/-! The flag of a sequence falls: its event `v` is its wheel's next, and `d` is the device once it has left the wheel. -/

variable {bt sl : Nat} {d₀ d : Dev} {v : Event} (hnext : wheelNext bt (d₀.wheel (sl / 2048)) = some v)
  (hrate : d₀.wheelCount bt (sl / 2048) < 64) (hd : d = d₀.eventDone bt (sl / 2048) v)

include hnext hrate hd

theorem Dev.fire_slotEvent {ev : Ev} (hev : v.ev = ev) : d₀.fire bt (sl / 2048) ev = some d := by
  rw [← hev, Dev.fire_next hnext hrate, hd]

/-- In Vanan mode an open step ends. -/
theorem Dev.flagCheck_vanan (hev : v.ev = .flag sl) (hstep : (d.slot sl).stepOpen = true)
    (hvanan : (d.ctx (d.slot sl).ctx).vanan = true) : d₀.flagCheck bt sl = d.endStep bt sl .flagFell 0 0 := by
  simp only [Dev.flagCheck, Dev.fire_slotEvent hnext hrate hd hev, hstep, hvanan, if_true]

/-- Else the sequence is fallen, and a declared draft arms the level-3 check. -/
theorem Dev.flagCheck_fallen (hev : v.ev = .flag sl) (hstep : (d.slot sl).stepOpen = true)
    (hvanan : (d.ctx (d.slot sl).ctx).vanan = false) : d₀.flagCheck bt sl =
      if (d.slot sl).draft.isSome then
        (d.setSlot sl { d.slot sl with fallen := true }).arm bt (sl / 2048) (.level3 sl) 2 (bt + (d.slot sl).l3 * 1000)
      else d.setSlot sl { d.slot sl with fallen := true } := by
  simp only [Dev.flagCheck, Dev.fire_slotEvent hnext hrate hd hev, hstep, hvanan, Bool.false_eq_true, if_true, if_false]
  cases (d.slot sl).draft <;> rfl

/-- A step whose ceiling is 3 completes with its draft token (R76). -/
theorem Dev.level3Check_draft {t : Nat} (hev : v.ev = .level3 sl) (hstep : (d.slot sl).stepOpen = true) (hceil : (d.slot sl).ceil = 3)
    (hdraft : (d.slot sl).draft = some t) :
    d₀.level3Check bt sl = (d.setSlot sl { d.slot sl with level := 3 }).endStep bt sl .okDegraded t 0 := by
  simp only [Dev.level3Check, Dev.fire_slotEvent hnext hrate hd hev, if_pos (And.intro hstep hceil), hdraft]

/-- One with a lower ceiling goes on. -/
theorem Dev.level3Check_below (hev : v.ev = .level3 sl) (hceil : (d.slot sl).ceil ≠ 3) : d₀.level3Check bt sl = d := by
  simp only [Dev.level3Check, Dev.fire_slotEvent hnext hrate hd hev]
  exact if_neg (fun h => hceil h.2)

end Flag

/-- Settles O23: each request is dispatched to its target or pool, each event fires from its wheel, and each commit is its move's. -/
theorem sequenceEvents : Obligations.SequenceEvents := by
  unfold Obligations.SequenceEvents
  simp only [exec_query, execQuery, exec_poolShrink, execPoolShrink, exec_poolGrow, execPoolGrow, exec_heldRequestRelease,
    execHeldRequestRelease, exec_kvMoveCommit, execKvMoveCommit, exec_flagCheck, execFlagCheck, exec_level3Check, execLevel3Check,
    onDev_eq]
  refine ⟨?query, ?shrink, ?grow, ?held, ?block, ?copy, ?vanan, ?fallenDraft, ?fallen, ?level3, ?below⟩
  case query =>
    intro s k c r d hreq hhost hctx hlive hslot hseen
    rw [Dev.queryReq, withTarget_host hreq hhost hctx hlive (if_pos ⟨hslot, hseen⟩)]
  case shrink =>
    rintro s k c p r d hreq hhost hctx hlive rfl hvalid
    rw [Dev.poolShrinkReq, withTarget_host hreq hhost hctx hlive (if_pos hvalid)]
  case grow =>
    rintro s k c a p n r d hreq rfl rfl rfl hvalid halign htier hdpa hroom
    simp only [Dev.kvPoolGrow, dispatchCtx_eq hreq, Dev.poolGrow_fits hvalid halign htier hdpa hroom]
  case held =>
    intro s sl r rs hheld hgo
    rw [Dev.releaseHeld_first hheld hgo]
  case block =>
    intro s n i sl m hm hobj hall hbegun
    rw [Dev.kvCommit_block hm hobj hall hbegun]
  case copy =>
    intro s n i sl m hm hobj
    rw [Dev.kvCommit_copy hm hobj]
  case vanan =>
    intro s sl d v hnext hev hrate hd hstep hvanan
    rw [Dev.flagCheck_vanan hnext hrate hd hev hstep hvanan]
  case fallenDraft =>
    intro s sl u d v hnext hev hrate hd hstep hvanan hdraft
    rw [Dev.flagCheck_fallen hnext hrate hd hev hstep hvanan, if_pos (by rw [hdraft]; rfl)]
  case fallen =>
    intro s sl d v hnext hev hrate hd hstep hvanan hdraft
    rw [Dev.flagCheck_fallen hnext hrate hd hev hstep hvanan, if_neg (by simp [hdraft])]
  case level3 =>
    intro s sl t d v hnext hev hrate hd hstep hceil hdraft
    rw [Dev.level3Check_draft hnext hrate hd hev hstep hceil hdraft]
  case below =>
    intro s sl d v hnext hev hrate hd hceil
    rw [Dev.level3Check_below hnext hrate hd hev hceil]

end Sys2Proof.Machine
end

section
/-! SUPPORT. Start-up: the cold start, the boot mailbox, firmware images and their replacement, and the end of power (R66, R366, R387 to
R402, R494 to R498). -/

namespace Sys2Proof.Machine

/-! ### Cold start (R390 to R392) -/

theorem Dev.sec_foldl_fset (f : Fld) (g : Nat → Nat) (l : List Nat) (d : Dev) :
    (l.foldl (fun d i => d.fset f i (g i)) d).sec = d.sec :=
  List.foldlRecOn (motive := fun e : Dev => e.sec = d.sec) l _ rfl (fun _ he _ _ => he)

theorem Dev.sec_recordRegs (d : Dev) (r : Option PartRecord) : (d.recordRegs r).sec = d.sec := by
  simp only [Dev.recordRegs, Dev.sec_fset]

theorem SecSt.partInForce_valid {z : SecSt} {id : BitVec 384} {r : PartRecord} (hthere : z.flashGone = false)
    (hpart : z.flash.part = some r) (hvalid : partValid r (some id) = true) : z.partInForce (some id) = some r := by
  simp [SecSt.partInForce, hthere, hpart, hvalid]

/-- Without an identity no Part Record is in force. -/
theorem SecSt.partInForce_none {z : SecSt} (h : ∀ r, z.flash.part = some r → partValid r none = false) : z.partInForce none = none := by
  have hfilter : z.flash.part.filter (fun r => partValid r none) = none :=
    Option.filter_eq_none_iff.mpr (fun r hr => by simp [h r hr])
  rw [SecSt.partInForce, hfilter, ite_self]

/-- The device whose boot ROM has read the record in force, if any: the chip's identity and record, the epochs of its nodes, which are
free values (R366), and the registers that the record fills. -/
def Dev.recordRead (d : Dev) (id : Option (BitVec 384)) (r : Option PartRecord) : Dev :=
  let d := d.modSec (fun z => { z with up := true, identity := id, part := r, owner := z.ownerInForce r })
  ((List.range 8).foldl (fun q i => q.fset F.igfNodeEpoch i (Config.freeNat (d.free + i) % 2 ^ 32)) (d.took 8)).recordRegs r

/-- Reading the record leaves the flash. -/
theorem Dev.flash_recordRead (d : Dev) (id : Option (BitVec 384)) (r : Option PartRecord) :
    (d.recordRead id r).sec.flash = d.sec.flash := by
  simp only [Dev.recordRead, Dev.sec_recordRegs, Dev.sec_foldl_fset]
  rfl

/-- What the record in force and the unit history repair and map out, with the power-on noted (R442, R444). -/
def Dev.recordApplied (d : Dev) : Option PartRecord → Dev
  | some r => (d.applyRecords r).histAdd 0 4 0 0 0
  | none => d

/-- A cold start reads the record in force, opens the mailbox or verifies the flash image, and assigns the units; the device is then in
the Floor state if the tray's alert is on. -/
theorem Dev.coldStart_eq {d g : Dev} {pufOk flash : Bool} {identity : BitVec 384} {id : Option (BitVec 384)} {r : Option PartRecord}
    (hid : (if pufOk = true ∧ d.sec.flashGone = false then some identity else none) = id) (hr : d.sec.partInForce id = r)
    (hflash : (!r.isNone && d.sec.flash.image.isSome) = flash)
    (hg : g = (((((d.recordRead id r).setBoot (if flash then 3 else 1) 0 r.isNone false).modSec (fun z => { z with
      verifying := if flash then some 0 else none })).assignCes r).assignCores r).recordApplied r) :
    d.coldStart pufOk identity = if g.pow.alert then g.enterFloor 0 else g := by
  rw [← Dev.flash_recordRead d id r] at hflash
  obtain ⟨p, hp⟩ : ∃ p, d.coldStart pufOk identity = p := ⟨_, rfl⟩
  rw [hp]
  unfold Dev.coldStart at hp
  extract_lets id' r' safe d₁ k d₂ d₃ image d₄ d₅ d₆ d₇ at hp
  obtain rfl : id' = id := hid
  obtain rfl : r' = r := hr
  obtain rfl : image = flash := hflash
  have hread : d.recordRead id' r' = d₃ := rfl
  have happlied : d₇ = g := by
    rw [hg, hread]
    rfl
  rw [← hp, happlied]

/-- The boot ROM runs once for a power-on, from Board Time 0 (R66). -/
theorem exec_coldStart_first {s : State} {pufOk : Bool} {id : BitVec 384} {g : Dev} (hup : s.dev.sec.up = false)
    (hg : s.dev.coldStart pufOk id = g) : exec (.coldStart pufOk id) s = .next { s with bt := 0, dev := g } := by
  simp only [exec_coldStart, execColdStart, onTime_eq, hup, Bool.false_eq_true, if_false, hg]

theorem exec_coldStart_again {s : State} {pufOk : Bool} {id : BitVec 384} (hup : s.dev.sec.up = true) :
    exec (.coldStart pufOk id) s = .next s := by
  simp only [exec_coldStart, execColdStart, onTime_eq, hup, if_true]

/-! ### The boot mailbox (R397, R401) -/

section Mailbox

variable {d : Dev} {q : Nat} {v : Word}

/-- The GO of a port that is up is a write of its `SEC.BOOT_CMD`. -/
theorem Dev.bootGo_up {table : Option Handoff} {image : List Byte} (hq : q < 4) (hup : d.linkUp q = true) :
    d.bootGo q v table image = d.bootCmdWrite (.host q) q v table image := if_pos ⟨hq, hup⟩

theorem bootVerdict_length {n : Nat} (hlo : 17112 ≤ n) (hhi : n ≤ 4211352) : (decide (n < 17112) || decide (4211352 < n)) = false := by
  simp [hlo, hhi]

/-- A GO for the whole device claims a free mailbox that waits or recovers. -/
theorem Dev.bootVerdict_boot (hgo : bit v.toNat 0 = true) (htarget : bits v.toNat 2 1 = 0) (hpart : bits v.toNat 10 8 = 0)
    (hport : d.mgmtPort q = true) (hfree : d.claimedElse q = false) (hlo : 17112 ≤ d.fget F.secBootLenBytes q)
    (hhi : d.fget F.secBootLenBytes q ≤ 4211352) (hst : d.fget F.secBootStatusState q = 1 ∨ d.fget F.secBootStatusState q = 4) :
    d.bootVerdict q v = .ok := by
  have hwaits : (d.fget F.secBootStatusState q != 1 && d.fget F.secBootStatusState q != 4) = false := by
    rcases hst with h | h <;> rw [h] <;> rfl
  simp only [Dev.bootVerdict, hgo, not_true_eq_false, if_false, hport, htarget, hpart, hfree, bootVerdict_length hlo hhi, hwaits]
  rfl

/-- One while another port holds the claim is a conflict (R397). -/
theorem Dev.bootVerdict_claimed (hgo : bit v.toNat 0 = true) (htarget : bits v.toNat 2 1 = 0) (hclaimed : d.claimedElse q = true) :
    d.bootVerdict q v = .conflict := by
  simp only [Dev.bootVerdict, hgo, not_true_eq_false, if_false, htarget, hclaimed, verdict_t]
  exact ite_self _

/-- A GO for the bank that does not run stages an image while firmware runs and no replacement is under way (R401). -/
theorem Dev.bootVerdict_stage (hgo : bit v.toNat 0 = true) (htarget : bits v.toNat 2 1 = 1) (hpart : bits v.toNat 10 8 = 0)
    (hport : d.mgmtPort q = true) (hfree : d.claimedElse q = false) (hlo : 17112 ≤ d.fget F.secBootLenBytes q)
    (hhi : d.fget F.secBootLenBytes q ≤ 4211352) (hst : d.fget F.secBootStatusState q = 5)
    (hidle : d.fon F.secFwStateUpdating 0 = false) : d.bootVerdict q v = .ok := by
  simp only [Dev.bootVerdict, hgo, not_true_eq_false, if_false, hport, htarget, hpart, hfree, bootVerdict_length hlo hhi, hst, hidle]
  rfl

/-- A GO for the whole device starts the load (R397). -/
theorem Dev.bootCmdWrite_boot {p : Party} {table : Option Handoff} {image : List Byte} {e : Dev}
    (hok : d.writeOk p .secBootCmd q v = true) (hverdict : d.bootVerdict q v = .ok) (hgo : bit v.toNat 0 = true)
    (htarget : bits v.toNat 2 1 = 0) (he : e = d.setReg .secBootCmd q (d.afterWrite p .secBootCmd q v)) :
    d.bootCmdWrite p q v table image = ((e.setBoot 2 0 e.safe false).fset F.secBootStatusClaimed q 1).modSec
      (fun z => { z with verifying := some 1, flashWait := none }) := by
  subst he
  rw [Dev.bootCmdWrite, hverdict, Dev.regWrite_ok d p _ _ v _ hok]
  simp only [hgo, not_true_eq_false, if_false, htarget]

/-- One for the bank that does not run starts the staging (R401). -/
theorem Dev.bootCmdWrite_stage {p : Party} {table : Option Handoff} {image : List Byte} {e : Dev}
    (hok : d.writeOk p .secBootCmd q v = true) (hverdict : d.bootVerdict q v = .ok) (hgo : bit v.toNat 0 = true)
    (htarget : bits v.toNat 2 1 = 1) (he : e = d.setReg .secBootCmd q (d.afterWrite p .secBootCmd q v)) :
    d.bootCmdWrite p q v table image = ((e.setBoot 6 0 e.safe e.sec.fromFlash).fset F.secBootStatusClaimed q 1).modSec
      (fun z => { z with verifying := some 2 }) := by
  subst he
  rw [Dev.bootCmdWrite, hverdict, Dev.regWrite_ok d p _ _ v _ hok]
  simp only [hgo, not_true_eq_false, if_false, htarget]

/-- A port whose link trains is UP at its width and rate. -/
theorem Dev.linkTrained_up {w r : Nat} (hq : q < 4) (hup : d.sec.up = true) (hw : w = 1 ∨ w = 2 ∨ w = 4 ∨ w = 8) :
    d.linkTrained q w r = (((d.fset F.hptPortStatusLink q 2).fset F.hptPortStatusWidth q w).fset F.hptPortStatusRate q r).fset
      F.hptPortStatusL0pWidth q w := if_pos ⟨hq, hup, by simpa using hw⟩

end Mailbox

/-! ### Firmware images (R396, R398, R401, R402) -/

section Image

variable {bt : Nat} {d : Dev} {g : SigResult} {h : ImageHdr}

/-- A host's image that is valid starts; another leaves RECOVERY (R398). -/
theorem Dev.imageVerified_host (hver : d.sec.verifying = some 1) : d.imageVerified bt g h =
    if imageErr g h = 0 then d.startFirmware bt h false else d.recovery (imageErr g h) := by
  simp only [Dev.imageVerified, hver]

/-- A valid flash image waits for a host's GO (R398). -/
theorem Dev.imageVerified_flash {g' : SigResult} {h' : ImageHdr} (hver : d.sec.verifying = some 0)
    (himage : d.sec.flash.image = some (g', h')) (hok : imageErr g' h' = 0) : d.imageVerified bt g h =
    (d.setBoot 1 0 d.safe false).modSec (fun z => { z with verifying := none, flashWait := some bt }) := by
  simp only [Dev.imageVerified, hver, himage, hok, if_true]

/-- A staged image that is valid and may replace the running one starts the replacement (R401). -/
theorem Dev.imageVerified_staged {e : Dev} (hver : d.sec.verifying = some 2) (hok : imageErr g h = 0)
    (hmay : d.replaceable h = true)
    (he : e = (d.unclaim.setBoot 5 0 d.safe d.sec.fromFlash).modSec (fun z => { z with verifying := none })) :
    d.imageVerified bt g h = (e.modSec (fun z => { z with
      staged := true, banks := mapPut z.banks (1 - e.fget F.secFwStateActive 0) h })).fset F.secFwStateUpdating 0 1 := by
  subst he
  simp only [Dev.imageVerified, hver, hok, hmay, ne_eq, not_true_eq_false, if_false, if_true]

/-- After 2 s without a host's GO the flash image starts (R398). -/
theorem Dev.flashWaitExpiry_late {t : Nat} (hwait : d.sec.flashWait = some t) (himage : d.sec.flash.image = some (g, h))
    (hlate : t + 2000000000 ≤ bt) (hst : d.fget F.secBootStatusState 0 = 1) : d.flashWaitExpiry bt = d.startFirmware bt h true := by
  simp only [Dev.flashWaitExpiry, hwait, himage]
  exact if_pos ⟨hlate, hst⟩

theorem Dev.flashWaitExpiry_none (hwait : d.sec.flashWait = none) : d.flashWaitExpiry bt = d := by
  simp only [Dev.flashWaitExpiry, hwait]

/-- A pair other than pair 0, when its turn comes, restarts on the staged image (R402). -/
theorem Dev.pairSwitch_turn {k : Nat} (hupd : d.fon F.secFwStateUpdating 0 = true) (hstaged : d.sec.staged = true)
    (hturn : d.nextSwitch = some k) (hk : k ≠ 0) : d.pairSwitch bt k =
      ((d.fset F.secFwRemapPair 0 (d.fget F.secFwRemapPair 0 ^^^ 2 ^ k)).abandonHandlers k).setArbPair k { lastKick := bt } := by
  rw [Dev.pairSwitch, if_pos ⟨hupd, hstaged, hturn⟩]
  exact if_neg hk

theorem Dev.pairSwitch_idle {k : Nat} (hupd : d.fon F.secFwStateUpdating 0 = false) : d.pairSwitch bt k = d :=
  if_neg (fun hgo => by simp [hupd] at hgo)

end Image

/-! ### The flash (R498) -/

/-- Logging leaves the security engine. -/
theorem Dev.sec_tlog (bt : Nat) (d : Dev) (cls k : Nat) (a : Option Nat) : (d.tlog bt cls k a).sec = d.sec := by
  unfold Dev.tlog Dev.tlogE
  split <;> rfl

/-- A flash that does not answer while no image of it is verified is logged and treated as absent (R498). -/
theorem Dev.xspiTimeout_idle {bt : Nat} {d : Dev} (h : d.sec.verifying ≠ some 0) :
    d.xspiTimeout bt = (d.tlog bt 15 73 none).modSec (fun z => { z with flashGone := true }) := by
  refine if_neg (fun hver => h ?_)
  rw [← hver, Dev.sec_modSec_self, Dev.sec_tlog]

/-- Settles O52: the cold start takes the record in force, each GO the verdict of its mailbox, and each image, pair and timeout its
branch. -/
theorem startUp : Obligations.StartUp := by
  unfold Obligations.StartUp
  simp only [exec_boot, execBoot, exec_stage, execStage, exec_imageVerified, execImageVerified, exec_flashWaitExpiry,
    execFlashWaitExpiry, exec_pairSwitch, execPairSwitch, exec_portLinkTrained, execPortLinkTrained, exec_xspiTimeout, execXspiTimeout,
    onDev_eq]
  refine ⟨?record, ?safe, fun s p id hup => exec_coldStart_again hup, ?boot, ?claimed, ?stage, ?starts, ?recovers, ?flash, ?staged,
    ?expiry, ?noWait, ?switch, ?noSwitch, ?trained, fun _ => rfl, fun _ => rfl, fun _ => rfl, ?xspi⟩
  case record =>
    intro s id r d e f g hup hthere hpart hvalid himage hd he hf hg hpow
    have hcold := Dev.coldStart_eq (g := g) (pufOk := true) (identity := id) (if_pos ⟨rfl, hthere⟩)
      (SecSt.partInForce_valid hthere hpart hvalid) himage (by rw [hg, hf, he, hd]; rfl)
    exact exec_coldStart_first hup (hcold.trans (if_neg (by simp [hpow])))
  case safe =>
    intro s id d e f g hup hd he hf hg hpow hnone
    have hcold := Dev.coldStart_eq (g := g) (pufOk := false) (identity := id) rfl (SecSt.partInForce_none hnone) rfl
      (by rw [hg, hf, he, hd]; rfl)
    exact exec_coldStart_first hup (hcold.trans (if_neg (by simp [hpow])))
  case boot =>
    intro s q v d hq hup hok hgo htarget hpart hport hfree hlo hhi hst hd
    rw [Dev.bootGo_up hq hup, Dev.bootCmdWrite_boot hok (Dev.bootVerdict_boot hgo htarget hpart hport hfree hlo hhi hst) hgo htarget hd]
  case claimed =>
    intro s q v hq hup hok hgo htarget _ hclaimed
    rw [Dev.bootGo_up hq hup, Dev.bootCmdWrite, Dev.bootVerdict_claimed hgo htarget hclaimed, Dev.regWrite_conflict]
  case stage =>
    intro s q v d hq hup hok hgo htarget hpart hport hfree hlo hhi hst hidle hd
    rw [Dev.bootGo_up hq hup,
      Dev.bootCmdWrite_stage hok (Dev.bootVerdict_stage hgo htarget hpart hport hfree hlo hhi hst hidle) hgo htarget hd]
  case starts =>
    intro s g h hver hok
    rw [Dev.imageVerified_host hver, if_pos hok]
  case recovers =>
    intro s g h hver herr
    rw [Dev.imageVerified_host hver, if_neg herr]
  case flash =>
    intro s g g' h h' hver himage hok
    rw [Dev.imageVerified_flash hver himage hok]
  case staged =>
    intro s g h d hver hok hmay hd
    rw [Dev.imageVerified_staged hver hok hmay hd]
  case expiry =>
    intro s t g h hwait himage hlate hst
    rw [Dev.flashWaitExpiry_late hwait himage hlate hst]
  case noWait =>
    intro s hwait
    rw [Dev.flashWaitExpiry_none hwait]
  case switch =>
    intro s k d hupd hstaged hturn hk hd
    rw [Dev.pairSwitch_turn hupd hstaged hturn hk, hd]
  case noSwitch =>
    intro s k hupd
    rw [Dev.pairSwitch_idle hupd]
  case trained =>
    intro s q w r hq hup hw
    rw [Dev.linkTrained_up hq hup hw]
  case xspi =>
    intro s d hver hd
    rw [Dev.xspiTimeout_idle hver, hd]

end Sys2Proof.Machine
end

section
/-! SUPPORT. Commands of a launch as they issue: DMA commands and those of the Sequence Engine (R100, R156, R159, R160, R164, R186, R192,
R193). -/

namespace Sys2Proof.Machine

/-- A reduction of FP32 or WA32 elements whose length is no whole number of elements has a bad argument (R160). -/
theorem Dev.dmaExc_red_length {d : Dev} {x : Launch} {y : Member} {w el : Nat} (hform : bits w 2 0 < 2)
    (hel : el = if bits w 2 0 = 0 then 32 else 4) (hrb : iRb w = false) (hlen : 0 < (y.sget (iSL w)).toNat)
    (hend : (y.sget (iSA w)).toNat + (y.sget (iSL w)).toNat ≤ 2 ^ 56) (hsd : (y.sget (iSD w)).toNat % el = 0)
    (hsa : (y.sget (iSA w)).toNat % el = 0) (hpart : (y.sget (iSL w)).toNat % el ≠ 0) :
    d.dmaExc x y .red w = some excDmaArg := by
  subst hel
  have harg : ¬(iRb w = true ∨ (y.sget (iSL w)).toNat = 0 ∨ 2 ^ 56 < (y.sget (iSA w)).toNat + (y.sget (iSL w)).toNat) := by
    simp only [hrb, Bool.false_eq_true, false_or]
    omega
  simp only [Dev.dmaExc]
  rw [if_neg (by omega), if_neg harg, if_neg (by simp [hsd, hsa]), if_pos hpart]

/-- Settles O28: a command whose fields and operands are in order is issued, and one whose operands are not raises their exception. -/
theorem commandIssue : Obligations.CommandIssue := by
  unfold Obligations.CommandIssue
  simp only [exec_get, execGet, exec_put, execPut, exec_gather, execGather, exec_scatter, execScatter, exec_red, execRed, exec_fill,
    execFill, exec_kvg, execKvg, exec_kva, execKva, exec_xdisp, execXdisp, exec_lchk, execLchk, onDev_eq]
  intro s l m x y w
  refine ⟨?get, ?put, ?gather, ?scatter, ?red, ?fill, ?kvg, ?kva, ?xdisp, ?lchk, ?badGet, ?badRed⟩
  case badGet =>
    intro e hat hfields hexc
    rw [issueCmd_exc hat .get (fun d x y w => d.dmaExc x y .get w) hfields hexc]
  case badRed =>
    intro hat hfields hwide hrb hlen hend hsd hsa hpart
    have hexc : s.dev.dmaExc x y .red w.toNat = some excDmaArg :=
      Dev.dmaExc_red_length (by omega) (by rw [if_pos hwide]) hrb hlen hend hsd hsa hpart
    rw [issueCmd_exc hat .red (fun d x y w => d.dmaExc x y .red w) hfields hexc]
  all_goals
    intro hat hfields hexc
    rw [issueCmd_eq hat _ _ hfields hexc]

end Sys2Proof.Machine
end

section
/-! SUPPORT. Tensor instructions: descriptors, the tensor unit's owner, products, read-outs and codebooks (R94, R97, R117 to R119, R122,
R123, R126, R145, R146, R154, R155). -/

namespace Sys2Proof.Machine

/-! ### Control-stream instructions by what their row answers -/

/-- An instruction that raises no exception and does not wait has its effect, and the member goes on. -/
theorem controlRow_go {s : State} {l m op : Nat} {x : Launch} {y : Member} {w : Word} {d : Dev}
    {f : Nat → Nat → Launch → Member → Nat → Dev → Act} (h : ControlAt s l m x y op w) (hf : f l m x y w.toNat s.dev = .go d) :
    s.dev.controlRow s.bt op (.control l m) w f = d.retire s.bt l m ((y.pc + 8) % 2 ^ 64) := by
  rw [controlRow_eq h, hf]
  rfl

/-- An instruction's exception ends its launch with a record (R166). -/
theorem controlRow_exc {s : State} {l m op code : Nat} {x : Launch} {y : Member} {w : Word}
    {f : Nat → Nat → Launch → Member → Nat → Dev → Act} (h : ControlAt s l m x y op w) (hf : f l m x y w.toNat s.dev = .exc code) :
    s.dev.controlRow s.bt op (.control l m) w f = s.dev.failLaunch l .range (some (excRecord code 0 m 0xFFFF y.pc)) := by
  rw [controlRow_eq h, hf]
  rfl

theorem sOk_singleton {r : Nat} (h : r < 32) : sOk [r] = true := by simp [sOk, h]

/-! ### The tensor unit -/

/-- The launch that holds the tensor unit keeps it (R97). -/
theorem Dev.withTensor_owner {d : Dev} {l m : Nat} {x : Launch} {y : Member} (h : (d.ce y.ce).tensor = some (l, m))
    (f : Dev → Act) : d.withTensor l m x y f = f d := by
  rw [Dev.withTensor, if_pos h]

/-- The free unit goes to the launch that has waited longest (R97). -/
theorem Dev.tensorGrant_first {bt k l m : Nat} {d : Dev} {x : Launch} {ws : List (Nat × Nat)} (hfree : (d.ce k).tensor = none)
    (hwait : (d.ce k).tensorWait = (l, m) :: ws) (hx : d.launch? l = some x) :
    d.tensorGrant bt k = (d.setCe k ({ d.ce k with tensorWait := ws }.acquire l m x.ctx)).modMember l m
      (fun y => { y with wait := .none, progress := bt }) := by
  simp only [Dev.tensorGrant, hfree, hwait, hx]

/-- An MMA whose A operand is unbound raises OBJECT (R154). -/
theorem mmaExc_unbound (x : Launch) (e : Ce) (tb : Option TDesc) : mmaExc x e none tb = some excObject := rfl

/-- Settles O27: the launch holds the tensor unit, so each instruction has its effect at once; its checks decide the rest. -/
theorem tensorInstructions : Obligations.TensorInstructions := by
  unfold Obligations.TensorInstructions
  simp only [exec_tbind, execTbind, exec_tensorUnitGrant, execTensorUnitGrant, exec_mma, execMma, exec_trd, execTrd, exec_cbld,
    execCbld, onDev_eq]
  refine ⟨?bind, ?unaligned, ?grant, ?product, ?unbound, ?readout, ?codebook⟩
  case bind =>
    rintro s l m a x y w t hat hreg rfl halign hend hdesc rfl
    rw [Dev.tbind, controlRow_go hat]
    rw [legal_eq (sOk_singleton hreg), if_neg (by omega), if_neg (by omega)]
    simp only [hdesc]
  case unaligned =>
    rintro s l m a x y w hat hreg rfl halign
    rw [Dev.tbind, controlRow_exc hat]
    rw [legal_eq (sOk_singleton hreg), if_pos halign]
  case grant =>
    intro s k l m x ws hfree hwait hx
    rw [Dev.tensorGrant_first hfree hwait hx]
  case product =>
    rintro s l m x y w ta tb e hat rfl howner hta htb hexc
    rw [Dev.mma, controlRow_go hat]
    rw [Dev.withTensor_owner howner, hta, htb]
    simp only [hexc]
  case unbound =>
    intro s l m x y w hat howner hta
    rw [Dev.mma, controlRow_exc hat]
    rw [Dev.withTensor_owner howner, hta]
    simp only [mmaExc_unbound]
  case readout =>
    rintro s l m x y w t e d rows hat rfl howner htd hsrc hsr hexc rfl rfl
    rw [Dev.trd, controlRow_go hat]
    rw [Dev.withTensor_owner howner, htd]
    simp [hexc, hsrc, hsr, Dev.readSource]
  case codebook =>
    rintro s l m a n x y w hat hreg rfl hslot howner rfl halign hend
    rw [Dev.cbld, controlRow_go hat]
    rw [legal_eq (by simp [sOk_singleton hreg, hslot]), Dev.withTensor_owner howner, if_neg (by omega), if_neg (by omega)]

end Sys2Proof.Machine
end

section
/-! SUPPORT. Cohort code: lane-wise instructions, Local Store accesses and cohort control (R92, R131 to R133, R139, R140, R144, R147, R148,
R151 to R153). -/

namespace Sys2Proof.Machine

/-! ### Cohort instructions by what their row answers -/

/-- An instruction that raises no exception and does not wait has its effect, and the cohort goes on. -/
theorem cohortRow_go {s : State} {l m c op : Nat} {x : Launch} {y : Member} {q : Cohort} {w : Word} {d : Dev}
    {f : Nat → Nat → Nat → Launch → Member → Cohort → Nat → Dev → Act} (h : CohortAt s l m c x y q op w)
    (hf : f l m c x y q w.toNat s.dev = .go d) :
    s.dev.cohortRow s.bt op (.cohort l m c) w f = d.cohortRetire s.bt l m c y.ce (q.pc + 8) := by
  rw [cohortRow_eq h, hf]

/-- An instruction that branches goes on at its target (R152). -/
theorem cohortRow_jump {s : State} {l m c op t : Nat} {x : Launch} {y : Member} {q : Cohort} {w : Word} {d : Dev}
    {f : Nat → Nat → Nat → Launch → Member → Cohort → Nat → Dev → Act} (h : CohortAt s l m c x y q op w)
    (hf : f l m c x y q w.toNat s.dev = .jump t d) :
    s.dev.cohortRow s.bt op (.cohort l m c) w f = d.cohortRetire s.bt l m c y.ce t := by
  rw [cohortRow_eq h, hf]

theorem predOk_of_lt {f : Nat} (h : f < 8) : predOk f = true := decide_eq_true h

/-! ### Operations that are defined in every lane -/

/-- An operation defined in every lane is a function of the lane. -/
theorem exists_lane_values {α : Type} {g : Nat → Option α} (h : ∀ i, (g i).isSome = true) : ∃ f : Nat → α, ∀ i, g i = some (f i) :=
  ⟨fun i => (g i).get (h i), fun i => (Option.some_get (h i)).symm⟩

theorem laneOp_isSome {fn : Nat} (h : fn < 0x0F) (sat : Bool) (a b : Lane) : (laneOp fn sat a b).isSome = true := by
  unfold laneOp
  interval_cases fn <;> rfl

theorem laneOpI_isSome {fn : Nat} (h : fn < 9) (a imm : Lane) : (laneOpI fn a imm).isSome = true := by
  unfold laneOpI
  interval_cases fn <;> rfl

theorem laneCmp_isSome {fn : Nat} (h : fn < 6) (a b : Lane) : (laneCmp fn a b).isSome = true := by
  unfold laneCmp
  interval_cases fn <;> rfl

theorem vfOp_isSome {fn : Nat} (h : fn < 7) (a b : FVal) : (vfOp fn a b).isSome = true := by
  unfold vfOp
  interval_cases fn <;> rfl

theorem vfCmp_isSome {fn : Nat} (h : fn < 4) (a b : FVal) : (vfCmp fn a b).isSome = true := by
  unfold vfCmp
  interval_cases fn <;> rfl

/-- VBR knows the conditions 6 to 9 (R152). -/
theorem vbrTaken_isSome {cnd : Nat} (hlo : 6 ≤ cnd) (hhi : cnd < 10) (v : BitVec 32) : (vbrTaken cnd v).isSome = true := by
  unfold vbrTaken
  interval_cases cnd <;> rfl

/-- The value of an operation defined in every lane is written in the active lanes. -/
theorem Dev.laneWrite_some {d : Dev} {x : Launch} {y : Member} {q : Cohort} {c w : Nat} {g : Nat → Option Lane} {f : Nat → Lane}
    (h : ∀ i, g i = some (f i)) : d.laneWrite x y q c w g = .go (d.vput x y c (iD w) (q.lanesOn w) f) := by
  simp [Dev.laneWrite, h]

/-- So is a comparison's, in a predicate register. -/
theorem Dev.lanePred_some {d : Dev} {l m c w : Nat} {q : Cohort} {g : Nat → Option Bool} {f : Nat → Bool}
    (h : ∀ i, g i = some (f i)) : d.lanePred l m q c w g = .go (d.pput l m c (iD w) (q.lanesOn w) f) := by
  simp [Dev.lanePred, h]

/-- A floating-point result is written in the active lanes, whose flags FSTAT collects (R126). -/
theorem Dev.laneFloat_some {d : Dev} {l c w : Nat} {x : Launch} {y : Member} {q : Cohort} {g : Nat → Option (Nat × Bool × Bool)}
    {r : Nat → Nat × Bool × Bool} (h : ∀ i, g i = some (r i)) :
    d.laneFloat l x y q c w g =
      .go ((d.fstatOr l false ((q.lanesOn w).any (fun i => (r i).2.1)) ((q.lanesOn w).any (fun i => (r i).2.2))).vput x y c (iD w)
        (q.lanesOn w) (fun i => BitVec.ofNat 32 (r i).1)) := by
  simp [Dev.laneFloat, h]

/-! ### Barriers (R153) -/

/-- Nobody else keeps a cohort at its `n`-th barrier where every other cohort of the member has reached its own `n`-th or ended. -/
theorem cohorts_past_barrier {cohorts : Map Cohort} {key c n : Nat}
    (h : ∀ r ∈ cohorts, r.1 / 512 = key → r.1 % 512 ≠ c → r.2.ended = true ∨ n ≤ r.2.bars) :
    cohorts.all (fun r => r.1 / 512 != key || r.1 % 512 == c || r.2.ended || decide (n ≤ r.2.bars)) = true := by
  rw [List.all_eq_true]
  intro r hr
  by_cases hkey : r.1 / 512 = key
  · by_cases hself : r.1 % 512 = c
    · simp [hself]
    · rcases h r hr hkey hself with hended | hpast
      · simp [hended]
      · simp [hpast]
  · simp [hkey]

/-! ### Local Store -/

/-- Accesses that are aligned and within Local Store raise nothing (R151). -/
theorem accessExc_none {x : Launch} {n : Nat} {is : List Nat} {f : Nat → Nat}
    (h : ∀ i ∈ is, f i % n = 0 ∧ f i + n ≤ x.lsSize) : accessExc x n (is.map f) = none := by
  have hfind : (is.map f).find? (fun a => a % n != 0 || decide (x.lsSize < a + n)) = none := by
    rw [List.find?_eq_none]
    intro a ha
    obtain ⟨i, hi, rfl⟩ := List.mem_map.mp ha
    obtain ⟨halign, hend⟩ := h i hi
    simp [halign, hend]
  rw [accessExc, hfind]

section Access

variable {s : State} {l m c op n : Nat} {sg tg : Bool} {x : Launch} {y : Member} {q : Cohort} {w : Word}
  (hat : CohortAt s l m c x y q op w) (hsize : vecSize (iSel w.toNat) = some (n, sg)) (ha : srcOk x (iA w.toNat) = true)
  (hls : ∀ i ∈ q.lanesOn w.toNat, s.dev.vaddr x y c w.toNat n tg i % n = 0 ∧ s.dev.vaddr x y c w.toNat n tg i + n ≤ x.lsSize)
include hat hsize ha hls

/-- A load puts what each active lane's address holds into the lane. -/
theorem Dev.vecLoad_loads (hd : dstOk x (iD w.toNat) = true) :
    s.dev.vecLoad s.bt op (.cohort l m c) w tg = (s.dev.vput x y c (iD w.toNat) (q.lanesOn w.toNat) (fun i =>
      if sg then BitVec.ofInt 32 (ofBits (8 * n) (s.dev.lsNat y (s.dev.vaddr x y c w.toNat n tg i) n))
      else BitVec.ofNat 32 (s.dev.lsNat y (s.dev.vaddr x y c w.toNat n tg i) n))).cohortRetire s.bt l m c y.ce (q.pc + 8) := by
  rw [Dev.vecLoad, cohortRow_go hat]
  rw [legal_eq (by simp [hd, ha]), hsize]
  simp only [accessExc_none hls]

/-- A store puts each active lane's value where its address says. -/
theorem Dev.vecStore_stores (hd : srcOk x (iD w.toNat) = true) :
    s.dev.vecStore s.bt op (.cohort l m c) w tg =
      (((q.lanesOn w.toNat).map (fun i => (s.dev.vaddr x y c w.toNat n tg i, (s.dev.vsrc x y c (iD w.toNat) i).toNat))).foldl
        (fun d p => d.lsPut y p.1 n p.2) s.dev).cohortRetire s.bt l m c y.ce (q.pc + 8) := by
  rw [Dev.vecStore, cohortRow_go hat]
  rw [legal_eq (by simp [hd, ha]), hsize]
  simp only [accessExc_none hls]

end Access

end Sys2Proof.Machine
end

section
/-! SUPPORT. The events of a CE: sequencer misses filled, barriers, mailboxes, held answers and the ends of LCHK and XDISP (R97, R102,
R103, R161, R187, R192 to R194, R236, R347). -/

namespace Sys2Proof.Machine

/-! ### The fill of a sequencer miss (R102, R103) -/

/-- A page that a CE's translation cache maps in local memory serves a scalar access (R108). -/
theorem Dev.scalarPage_hit {d : Dev} {k c ava : Nat} {p : Page} (hava : ava < 2 ^ 56)
    (hhit : tlbHit (d.tlb (tlbCe k)) c ava = some p) (hlocal : d.isLocal (d.partOfCtx c) p.dpa = true) :
    d.scalarPage k c ava = (some p, d) := by
  have htr : d.translate (tlbCe k) c ava = (.page p, d) := by simp only [Dev.translate, hhit]
  rw [Dev.scalarPage, if_neg (by omega), htr]
  simp only [hlocal, if_true]

/-- A page in no move is not being copied (R202). -/
theorem Dev.migrating_none {d : Dev} {c : Nat} {p : Page} (h : d.pageMove c p = none) : d.migrating c p = false := by
  simp only [Dev.migrating, h]

/-- Where no link is down, requests reach every home slice (R284). -/
theorem Dev.bytesOpen_links {d : Dev} (h : ∀ i < 16, d.linkDead i = false) (src a n : Nat) : d.bytesOpen src a n = true := by
  have hnone : (List.range 16).any d.linkDead = false := by
    rw [List.any_eq_false]
    intro i hi
    simp [h i (List.mem_range.mp hi)]
  simp only [Dev.bytesOpen, hnone, Bool.not_false, Bool.true_or]

@[simp] theorem Dev.member?_hitLines (d : Dev) (k : Nat) (bad : List (Nat × Nat × Bool)) (l m : Nat) :
    (d.hitLines k bad).member? l m = d.member? l m := rfl

@[simp] theorem Dev.miss_hitLines (d : Dev) (k : Nat) (bad : List (Nat × Nat × Bool)) :
    ((d.hitLines k bad).ce k).miss = (d.ce k).miss := by
  rw [Dev.hitLines, Dev.ce_modCe_same]

@[simp] theorem Dev.dpa_lineOf (d : Dev) (c ava : Nat) (p : Page) (insn : Bool) :
    (d.lineOf c p ava insn).dpa = p.at_ ava % 2 ^ 48 := rfl

/-- The fill of a member's demand miss: its line comes in, the member goes on, and a stall ends (R103, R104). -/
theorem Dev.sqcReturn_fills {bt k : Nat} {bad : List (Nat × Nat × Bool)} {q : SqcMiss} {y : Member} {p : Page} {d d' e : Dev}
    (hmiss : (d.ce k).miss = some q) (hy : d.member? q.launch q.member = some y) (hpf : q.prefetch = false)
    (hd : d' = d.hitLines k bad) (hpage : d'.scalarPage k q.ctx q.ava = (some p, d')) (hmove : d'.migrating q.ctx p = false)
    (hopen : d'.bytesOpen (k / 26) (p.at_ q.ava % 2 ^ 48) 64 = true)
    (he : e = (d'.modCe k (fun e => { e with miss := none, stalled := false })).modMember q.launch q.member
      (fun y => { y with wait := .none })) (hsound : e.poisoned (p.at_ q.ava % 2 ^ 48) 64 = false) :
    d.sqcReturn bt k bad = e.sqcFill bt k (d'.lineOf q.ctx p q.ava q.insn) := by
  have hmiss' : (d'.ce k).miss = some q := by rw [hd, Dev.miss_hitLines, hmiss]
  have hy' : d'.member? q.launch q.member = some y := by rw [hd, Dev.member?_hitLines, hy]
  rw [Dev.sqcReturn, ← hd]
  simp only [hmiss', hy', hpage, hmove, ← he, Dev.dpa_lineOf, hopen, hsound, hpf, not_true_eq_false, Bool.false_eq_true, false_and,
    if_false]

/-! ### Barriers and mailboxes (R161, R236) -/

/-- The only member of a launch waits for nobody at its barrier (R161). -/
theorem Dev.gbarComplete_single {bt l m : Nat} {d : Dev} {y : Member} (hms : d.membersOf l = [(m, y)]) (hwait : y.wait = .gbar) :
    d.gbarComplete bt l = (d.modMember l m (fun y => { y with wait := .none })).retire bt l m (y.pc + 8) := by
  simp [Dev.gbarComplete, hms, hwait]

/-- A mailbox with room takes the post of the member that has waited longest (R236). -/
theorem Dev.mailboxRoom_posts {bt l m e o hart file lg eiid dpa : Nat} {d : Dev} {x : Launch} {y : Member} {va vb : Word}
    (hx : d.launch? l = some x) (hy : d.member? l m = some y) (hwait : y.wait = .mailbox e o va vb)
    (htarget : d.target (d.partOfCtx x.ctx) e = some (.mailbox hart file lg eiid dpa)) (hroom : d.mailRoom dpa lg = true)
    (hfirst : d.mailQueued dpa o = false) :
    d.mailboxRoom bt l m = (d.mailPut bt (d.partOfCtx x.ctx) x.ctx hart file lg eiid dpa va vb).modMember l m
      (fun y => { y with wait := .none, progress := bt }) := by
  simp only [Dev.mailboxRoom, hx, hy, hwait, htarget]
  rw [if_pos ⟨hroom, by simp [hfirst]⟩]

/-! ### Commands in progress (R156, R187, R192 to R194) -/

section Command

variable {d : Dev} {n : Nat} {c : Cmd} {x : Launch} {y : Member} (bt : Nat) (hc : mapFind? d.eng.cmds n = some c)
  (hx : d.launch? c.l = some x) (hy : d.member? c.l c.m = some y)

include hc in
/-- A command starts once. -/
theorem Dev.tryStart_started (hstart : c.started = true) : d.tryStart bt n = d := by
  simp only [Dev.tryStart, hc]
  split
  · rw [if_neg (fun h => h.1 hstart)]
  · rfl

include hc in
/-- LCHK and XDISP bind their sequences once: not where they have given answers. -/
theorem Dev.beginAnswers_answered (h : c.answers ≠ []) : d.beginAnswers bt n = d := by
  simp only [Dev.beginAnswers, hc]
  split
  · rw [if_neg (fun hcond => h hcond.2.2.1)]
  · rfl

include hc hx hy

/-- LCHK retires with the outcome of each sequence once no answer is held (R192). -/
theorem Dev.commandComplete_lchk (hop : c.op = .lchk) (hstart : c.started = true) (hans : c.answers ≠ []) (hheld : c.held = []) :
    d.commandComplete bt n = (d.lsWrite y (d.lsNat y (c.sd + 8) 4) ((List.range (d.lsNat y c.sd 2)).flatMap (fun i =>
      leBytes 2 (((c.answer? i).getD []).getD 0 0 + ((c.answer? i).getD []).getD 1 0 * 2 ^ 8)))).retireCmd bt n [] := by
  simp only [Dev.commandComplete, Dev.seComplete, Dev.tryStart_started bt hc hstart, Dev.beginAnswers_answered bt hc hans, hc, hx, hy,
    hop, hstart, hheld, not_true_eq_false, if_false, ne_eq]

/-- XDISP retires with its expert lists and token records once no answer is held (R193). -/
theorem Dev.commandComplete_xdisp (hop : c.op = .xdisp) (hstart : c.started = true) (hans : c.answers ≠ []) (hheld : c.held = []) :
    d.commandComplete bt n = ((d.lsWrite y (d.xReq y c.sd).dest (d.expertLists y c (d.xReq y c.sd))).lsWrite y (d.xReq y c.sd).dec
      ((List.range (d.xReq y c.sd).tokens).flatMap (d.tokenRecord y c (d.xReq y c.sd)))).retireCmd bt n [] := by
  simp only [Dev.commandComplete, Dev.seComplete, Dev.tryStart_started bt hc hstart, Dev.beginAnswers_answered bt hc hans, hc, hx, hy,
    hop, hstart, hheld, not_true_eq_false, if_false, ne_eq]

end Command

/-- An index of LCHK whose step is open and whose layer is resident, unless level 2 has replaced it for the step, is DONE (R78, R192). -/
theorem Dev.decideIdx_resident {bt n i : Nat} {d : Dev} {c : Cmd} {x : Launch} {y : Member} (hop : c.op = .lchk)
    (hnot : x.shadowOf = none) (hrec : d.recorded c x i = none) (hfail : c.failOf (d.idxSlot y c i) = none)
    (hphase : d.phase c.l (d.idxSlot y c i) = .stepOpen)
    (hlayer : (d.lsNat y (c.sd + 0xC) 2, d.lsNat y (c.sd + 0xE) 2) ∉ (d.slot (d.idxSlot y c i)).shadows)
    (hres : d.layerResidency x.ctx (d.lsNat y (c.sd + 0xC) 2) (d.lsNat y (c.sd + 0xE) 2) = .resident) :
    d.decideIdx bt n c x y i = (some (0, [ocDone, 0, i % 8]), d) := by
  have hhome : x.home c.l = c.l := by rw [Launch.home, hnot, Option.getD_none]
  simp [Dev.decideIdx, hop, hnot, hrec, hfail, hhome, hphase, hlayer, hres]

/-- An open index of LCHK that is decided is held no longer, and its answer is given and recorded (R47, R194). -/
theorem Dev.settleIdx_decided {bt n i level : Nat} {v : List Nat} {d e : Dev} {c : Cmd} {x : Launch} {y : Member}
    (hc : mapFind? d.eng.cmds n = some c) (hx : d.launch? c.l = some x) (hy : d.member? c.l c.m = some y) (hop : c.op = .lchk)
    (hopen : c.answer? i = none) (hnot : x.shadowOf = none) (hdec : d.decideIdx bt n c x y i = (some (level, v), e)) :
    d.settleIdx bt n i = ((e.modCmd n (Cmd.unhold bt i)).modCmd n (fun c => { c with
      answers := c.answers ++ [(i, v)] })).noteDecision c i level v := by
  simp [Dev.settleIdx, hc, hx, hy, hop, hopen, hnot, hdec]

/-- A held answer is decided again (R192). -/
theorem Dev.heldDecided_held {bt n i : Nat} {d : Dev} {c : Cmd} (hc : mapFind? d.eng.cmds n = some c)
    (hheld : c.held.any (fun a => a.idx == i) = true) : d.heldDecided bt n i = d.settleIdx bt n i := by
  simp only [Dev.heldDecided, hc, hheld, if_true]

/-- A command that has ended no step has failed for no sequence (R187). -/
theorem Cmd.failOf_nil {c : Cmd} (h : c.fails = []) (s : Nat) : c.failOf s = none := by simp [Cmd.failOf, h]

end Sys2Proof.Machine
end

section
/-! SUPPORT. Every instruction of a cohort and the events of a CE complete (R92, R97, R102, R126, R131 to R133, R139, R140, R144, R147,
R148, R151 to R153, R161, R188, R192 to R194, R347). -/

namespace Sys2Proof.Machine

/-- Settles O60: a cohort that may issue writes what its lanes compute, and each event of a CE finds what it waits for. -/
theorem cohortsAndEventsComplete : Obligations.CohortsAndEventsComplete := by
  unfold Obligations.CohortsAndEventsComplete
  simp only [exec_sqcFillReturn, execSqcFillReturn, exec_gbarComplete, execGbarComplete, exec_mailboxRoom, execMailboxRoom,
    exec_tensorUnitGrant, execTensorUnitGrant, exec_heldAnswerDecided, execHeldAnswerDecided, exec_commandComplete, execCommandComplete,
    onDev_eq]
  refine ⟨?cohort, ?fill, ?barrier, ?mailbox, ?grant, ?answer, ?retire⟩
  case cohort =>
    intro s l m c w x y q hx hrun hy hq hend hturn hpc hword hres
    have hat : ∀ {op : Nat}, bits w.toNat 63 56 = op → cohortOps.contains op = true → CohortAt s l m c x y q op w :=
      fun hop hmem => ⟨hx, hy, hq, hrun, hend, hturn, hpc, hword, hmem, hop, hres⟩
    simp only [exec_viop, execViop, exec_viopi, execViopi, exec_vicmp, execVicmp, exec_vsel, execVsel, exec_vshfl, execVshfl, exec_vfop,
      execVfop, exec_vfma, execVfma, exec_vfcmp, execVfcmp, exec_vsf, execVsf, exec_vcvt, execVcvt, exec_vlatom, execVlatom, exec_bar,
      execBar, exec_vote, execVote, exec_vbr, execVbr, exec_vend, execVend, onDev_eq, State.cohortGoes]
    refine ⟨?viop, ?viopi, ?vicmp, ?vsel, ?vshfl, ?vfop, ?vfma, ?vfcmp, ?vsf, ?vcvt, ?load, ?store, ?vlatom, ?bar, ?vote, ?vbr, ?vend⟩
    case viop =>
      intro hop hd ha hb hfn
      obtain ⟨f, hf⟩ := exists_lane_values (fun i =>
        laneOp_isSome hfn (bit w.toNat 4) (s.dev.vsrc x y c (iA w.toNat) i) (s.dev.vsrc x y c (iB w.toNat) i))
      refine ⟨f, hf, ?_⟩
      rw [Dev.viop, cohortRow_go (hat hop rfl)]
      rw [legal_eq (by simp [hd, ha, hb]), Dev.laneWrite_some hf]
    case viopi =>
      intro hop hd ha hfn
      obtain ⟨f, hf⟩ := exists_lane_values (fun i =>
        laneOpI_isSome hfn (s.dev.vsrc x y c (iA w.toNat) i) (BitVec.ofNat 32 (bits w.toNat 31 0)))
      refine ⟨f, hf, ?_⟩
      rw [Dev.viopi, cohortRow_go (hat hop rfl)]
      rw [legal_eq (by simp [hd, ha]), Dev.laneWrite_some hf]
    case vicmp =>
      intro hop hd ha hb hfn
      obtain ⟨f, hf⟩ := exists_lane_values (fun i =>
        laneCmp_isSome hfn (s.dev.vsrc x y c (iA w.toNat) i) (s.dev.vsrc x y c (iB w.toNat) i))
      refine ⟨f, hf, ?_⟩
      rw [Dev.vicmp, cohortRow_go (hat hop rfl)]
      rw [legal_eq (by simp [predOk_of_lt hd, ha, hb]), Dev.lanePred_some hf]
    case vsel =>
      intro hop hd ha hb hp
      rw [Dev.vsel, cohortRow_go (hat hop rfl)]
      rw [legal_eq (by simp [hd, ha, hb, predOk_of_lt hp]), Dev.laneWrite_some (fun _ => rfl)]
    case vshfl =>
      intro hop hd ha hb
      rw [Dev.vshfl, cohortRow_go (hat hop rfl)]
      rw [legal_eq (by simp [hd, ha, hb]), Dev.laneWrite_some (fun _ => rfl)]
    case vfop =>
      intro f hop hd ha hb hfn hfmt
      obtain ⟨r, hr⟩ := exists_lane_values (g := fun i => (vfOp (iFN w.toNat) (vfVal f (s.dev.vsrc x y c (iA w.toNat) i))
        (vfVal f (s.dev.vsrc x y c (iB w.toNat) i))).map (fun v => vfRound f v.2 v.1)) (fun i => by
          rw [Option.isSome_map]; exact vfOp_isSome hfn _ _)
      refine ⟨r, hr, ?_⟩
      rw [Dev.vfop, cohortRow_go (hat hop rfl)]
      rw [legal_eq (by simp [hd, ha, hb]), hfmt]
      exact Dev.laneFloat_some hr
    case vfma =>
      intro f v r hop hd ha hb hc hfmt hv hr
      rw [Dev.vfma, cohortRow_go (hat hop rfl)]
      rw [legal_eq (by simp [hd, ha, hb, hc]), hfmt]
      exact Dev.laneFloat_some (fun i => by rw [hr, hv])
    case vfcmp =>
      intro g hop hd ha hb hfmt hfn
      obtain ⟨f, hf⟩ := exists_lane_values (fun i =>
        vfCmp_isSome hfn (vfVal g (s.dev.vsrc x y c (iA w.toNat) i)) (vfVal g (s.dev.vsrc x y c (iB w.toNat) i)))
      refine ⟨f, hf, ?_⟩
      rw [Dev.vfcmp, cohortRow_go (hat hop rfl)]
      rw [legal_eq (by simp [predOk_of_lt hd, ha, hb]), hfmt]
      exact Dev.lanePred_some hf
    case vsf =>
      intro f v r hop hd ha hfn hfmt hv hr
      rw [Dev.vsf, cohortRow_go (hat hop rfl)]
      rw [legal_eq (by simp [hd, ha, hfn]), hfmt]
      exact Dev.laneFloat_some (r := fun i => (r i, specialFlags (iFN w.toNat) (v i) f (r i))) (fun i => by rw [hr, hv])
    case vcvt =>
      intro r hop hd ha hfn hmx hto hfrom hsr hr
      rw [Dev.vcvt, cohortRow_go (hat hop rfl)]
      rw [legal_eq (by simp [hd, ha, hfn, hmx]), if_neg (by simp [hto, hfrom])]
      simp only [hsr, Bool.false_eq_true, if_false]
      rw [Dev.laneFloat_some (r := r) (fun i => by rw [hr])]
    case load =>
      intro n sg tg hsize hd ha hls hop
      cases tg with
      | false =>
        rw [if_neg Bool.false_ne_true, exec_vld, execVld, onDev_eq, Dev.vecLoad_loads (hat (op := 0x60) hop rfl) hsize ha hls hd]
      | true =>
        rw [if_pos rfl, exec_vldc, execVldc, onDev_eq, Dev.vecLoad_loads (hat (op := 0x62) hop rfl) hsize ha hls hd]
    case store =>
      intro n sg tg hsize hd ha hls hop
      cases tg with
      | false =>
        rw [if_neg Bool.false_ne_true, exec_vst, execVst, onDev_eq, Dev.vecStore_stores (hat (op := 0x61) hop rfl) hsize ha hls hd]
      | true =>
        rw [if_pos rfl, exec_vstc, execVstc, onDev_eq, Dev.vecStore_stores (hat (op := 0x63) hop rfl) hsize ha hls hd]
    case vlatom =>
      intro hop hd ha hb hfn hls
      rw [Dev.vlatom, cohortRow_go (hat hop rfl)]
      rw [legal_eq (by simp [hd, ha, hb, hfn])]
      simp only [accessExc_none hls]
    case bar =>
      intro hop hon hbar hothers
      rw [Dev.bar, cohortRow_go (hat hop rfl)]
      rw [if_neg (by simpa using hon)]
      simp only [hbar, Bool.false_eq_true, if_false, cohorts_past_barrier hothers, if_true, Bool.not_true]
    case vote =>
      intro hop hp hfn hd
      rw [Dev.vote, cohortRow_go (hat hop rfl)]
      have hdest := legal_eq (predOk_of_lt hd)
      have hboth : iFN w.toNat = 0 ∨ iFN w.toNat = 1 := by omega
      rw [legal_eq (predOk_of_lt hp)]
      rcases hboth with hany | hall
      · simp only [hany, hdest, if_true]
      · simp only [hall, hdest, one_ne_zero, if_false]
    case vbr =>
      intro hop hp hlo hhi
      obtain ⟨b, hb⟩ := Option.isSome_iff_exists.mp (vbrTaken_isSome hlo hhi (q.pget (brA w.toNat)))
      refine ⟨b, hb, ?_⟩
      rw [Dev.vbr]
      cases b with
      | true =>
        rw [cohortRow_jump (hat hop rfl) ((legal_eq (by simp [predOk_of_lt hp]) _).trans (by rw [hb])), if_pos rfl]
      | false =>
        rw [cohortRow_go (hat hop rfl) ((legal_eq (by simp [predOk_of_lt hp]) _).trans (by rw [hb])), if_neg Bool.false_ne_true]
    case vend =>
      intro hop hon
      rw [Dev.vend, cohortRow_go (hat hop rfl)]
      rw [if_neg (by simpa using hon)]
  case fill =>
    intro s k bad q y p d e hmiss hy hpf hava hd hhit hlocal hmove hlinks he hsound
    rw [Dev.sqcReturn_fills hmiss hy hpf hd (Dev.scalarPage_hit hava hhit hlocal) (Dev.migrating_none hmove)
      (Dev.bytesOpen_links hlinks _ _ _) he hsound]
  case barrier =>
    intro s l m y hms hwait
    rw [Dev.gbarComplete_single hms hwait]
  case mailbox =>
    intro s l m e o hart file lg eiid dpa x y va vb hx hy hwait htarget hroom hfirst
    rw [Dev.mailboxRoom_posts hx hy hwait htarget hroom hfirst]
  case grant =>
    intro s k l m x ws hfree hwait hx
    rw [Dev.tensorGrant_first hfree hwait hx]
  case answer =>
    rintro s n i k c x y z hc hop hheld hopen hfails hx hy hnot - rfl hrec hphase rfl hlayer hres
    rw [Dev.heldDecided_held hc hheld, Dev.settleIdx_decided hc hx hy hop hopen hnot
      (Dev.decideIdx_resident hop hnot hrec (Cmd.failOf_nil hfails _) hphase hlayer hres)]
  case retire =>
    intro s n c x y hc hstart hx hy hans hheld
    refine ⟨fun hop => ?_, fun hop => ?_⟩
    · rw [Dev.commandComplete_lchk s.bt hc hx hy hop hstart hans hheld]
    · rw [Dev.commandComplete_xdisp s.bt hc hx hy hop hstart hans hheld]

end Sys2Proof.Machine
end

section
/-! SUPPORT. The wide accumulator: a term adds to the exact sum, which alone fixes V and W, and its flags are combined by OR, so terms may
come in any order (R118 to R120). -/

namespace Sys2Proof.Machine

/-! ### Adding to V and W (R120) -/

/-- V lies in its window (R118). -/
def Cell.InWindow (c : Cell) : Prop := -accHalf ≤ c.v ∧ c.v < accHalf

/-- The cell of exact sum `S` with V in its window, alike in all else (R118). -/
def Cell.withSum (c : Cell) (S : Int) : Cell :=
  { c with v := (S + accHalf) % (2 * accHalf) - accHalf, w := (S + accHalf) / (2 * accHalf) }

theorem accHalf_pos : 0 < accHalf := by decide

theorem Cell.withSum_eq {c : Cell} {v w : Int} (hlo : -accHalf ≤ v) (hhi : v < accHalf) :
    c.withSum (v + w * (2 * accHalf)) = { c with v, w } := by
  have hpos := accHalf_pos
  have hmod : (v + accHalf) % (2 * accHalf) = v + accHalf := Int.emod_eq_of_lt (by omega) (by omega)
  have hdiv : (v + accHalf) / (2 * accHalf) = 0 := Int.ediv_eq_zero_of_lt (by omega) (by omega)
  rw [withSum, add_right_comm, Int.add_mul_emod_self_right, Int.add_mul_ediv_right _ _ (by omega), hmod, hdiv, add_sub_cancel_right,
    zero_add]

/-- A cell with V in its window is the cell of its exact sum. -/
theorem Cell.InWindow.withSum_sum {c : Cell} (h : c.InWindow) : c.withSum c.sum = c := Cell.withSum_eq h.1 h.2

@[simp] theorem Cell.withSum_withSum (c : Cell) (S T : Int) : (c.withSum S).withSum T = c.withSum T := rfl

@[simp] theorem Cell.sum_withSum (c : Cell) (S : Int) : (c.withSum S).sum = S := by
  have hdivmod := Int.emod_add_ediv_mul (S + accHalf) (2 * accHalf)
  rw [Cell.sum, Cell.withSum]
  linarith

theorem Cell.inWindow_withSum (c : Cell) (S : Int) : (c.withSum S).InWindow := by
  have hpos := accHalf_pos
  have hlo := Int.emod_nonneg (S + accHalf) (b := 2 * accHalf) (by omega)
  have hhi := Int.emod_lt_of_pos (S + accHalf) (b := 2 * accHalf) (by omega)
  rw [Cell.InWindow, Cell.withSum]
  dsimp only
  omega

theorem accAdd_of_ge {c : Cell} {t : Int} (h : accHalf ≤ c.v + t) :
    accAdd c t = { c with v := c.v + t - 2 * accHalf, w := c.w + 1 } := if_pos h

theorem accAdd_of_lt {c : Cell} {t : Int} (h : c.v + t < -accHalf) :
    accAdd c t = { c with v := c.v + t + 2 * accHalf, w := c.w - 1 } := by
  have hpos := accHalf_pos
  exact (if_neg (by omega)).trans (if_pos h)

theorem accAdd_of_mem {c : Cell} {t : Int} (hlo : -accHalf ≤ c.v + t) (hhi : c.v + t < accHalf) :
    accAdd c t = { c with v := c.v + t } :=
  (if_neg (not_le.mpr hhi)).trans (if_neg (not_lt.mpr hlo))

/-- A carry of 2^96 brings V back into its window, so the addition makes the cell of the exact sum grown by the addend. -/
theorem Cell.InWindow.accAdd_eq {c : Cell} (h : c.InWindow) {t : Int} (hlo : -accHalf < t) (hhi : t < accHalf) :
    accAdd c t = c.withSum (c.sum + t) := by
  obtain ⟨hvlo, hvhi⟩ := h
  rcases le_or_gt accHalf (c.v + t) with hge | hbelow
  · rw [accAdd_of_ge hge, ← Cell.withSum_eq (by omega) (by omega), Cell.sum]
    ring_nf
  · rcases lt_or_ge (c.v + t) (-accHalf) with hlt | habove
    · rw [accAdd_of_lt hlt, ← Cell.withSum_eq (by omega) (by omega), Cell.sum]
      ring_nf
    · rw [accAdd_of_mem habove hbelow, Cell.sum, add_right_comm, Cell.withSum_eq habove hbelow]

/-! ### The flags (R119) -/

/-- A cell whose flags are combined by OR with those of another. -/
def Cell.orFlags (c f : Cell) : Cell :=
  { c with nan := c.nan || f.nan, pinf := c.pinf || f.pinf, ninf := c.ninf || f.ninf, ovf := c.ovf || f.ovf, low := c.low || f.low }

@[simp] theorem Cell.sum_orFlags (c f : Cell) : (c.orFlags f).sum = c.sum := rfl

@[simp] theorem Cell.inWindow_orFlags (c f : Cell) : (c.orFlags f).InWindow ↔ c.InWindow := Iff.rfl

@[simp] theorem Cell.withSum_orFlags (c f : Cell) (S : Int) : (c.orFlags f).withSum S = (c.withSum S).orFlags f := rfl

theorem Cell.orFlags_right_comm (c f g : Cell) : (c.orFlags f).orFlags g = (c.orFlags g).orFlags f := by
  simp only [Cell.orFlags, Bool.or_right_comm]

/-- An addition changes V and W alone. -/
theorem accAdd_frame (c : Cell) (t : Int) : ∃ v w, accAdd c t = { c with v, w } := by
  rcases le_or_gt accHalf (c.v + t) with hge | hbelow
  · exact ⟨c.v + t - 2 * accHalf, c.w + 1, accAdd_of_ge hge⟩
  · rcases lt_or_ge (c.v + t) (-accHalf) with hlt | habove
    · exact ⟨c.v + t + 2 * accHalf, c.w - 1, accAdd_of_lt hlt⟩
    · exact ⟨c.v + t, c.w, accAdd_of_mem habove hbelow⟩

/-- A term leaves flags alone, or adds fewer than 2^191 units and may leave LOW (R119). -/
theorem accTerm_cases (t : FVal) : ∃ f : Cell, (∀ c, accTerm c t = c.orFlags f) ∨
    ∃ n, -accHalf < n ∧ n < accHalf ∧ ∀ c, accTerm c t = accAdd (c.orFlags f) n := by
  match t with
  | .nan => exact ⟨{ nan := true }, .inl fun c => by simp [accTerm, Cell.orFlags]⟩
  | .inf false => exact ⟨{ pinf := true }, .inl fun c => by simp [accTerm, Cell.orFlags]⟩
  | .inf true => exact ⟨{ ninf := true }, .inl fun c => by simp [accTerm, Cell.orFlags]⟩
  | .fin neg m e =>
    simp only [accTerm]
    generalize (if 0 ≤ e + 96 then m * pow2 (e + 96) else m / pow2 (-(e + 96))) = n
    generalize (decide (e + 96 < 0) && decide (m % pow2 (-(e + 96)) ≠ 0)) = dropped
    by_cases hbig : (n : Int) ≥ accHalf
    · cases neg with
      | false => exact ⟨{ pinf := true, ovf := true }, .inl fun c => by simp [hbig, Cell.orFlags]⟩
      | true => exact ⟨{ ninf := true, ovf := true }, .inl fun c => by simp [hbig, Cell.orFlags]⟩
    · refine ⟨{ low := dropped }, .inr ⟨signed neg n, ?_, ?_, fun c => by simp [hbig, Cell.orFlags]⟩⟩ <;>
        cases neg <;> simp only [signed, if_true, Bool.false_eq_true, if_false] <;> omega

/-- What a term does to a cell with V in its window: the exact sum grows by the term's units, and its flags are combined by OR. -/
theorem accTerm_of_inWindow (t : FVal) :
    ∃ (f : Cell) (n : Int), ∀ c : Cell, c.InWindow → accTerm c t = (c.withSum (c.sum + n)).orFlags f := by
  obtain ⟨f, hflags | ⟨n, hlo, hhi, hadd⟩⟩ := accTerm_cases t
  · exact ⟨f, 0, fun c hc => by rw [hflags, add_zero, hc.withSum_sum]⟩
  · refine ⟨f, n, fun c hc => ?_⟩
    rw [hadd, Cell.InWindow.accAdd_eq ((c.inWindow_orFlags f).mpr hc) hlo hhi, Cell.sum_orFlags, Cell.withSum_orFlags]

theorem Cell.InWindow.accTerm {c : Cell} (h : c.InWindow) (t : FVal) : (accTerm c t).InWindow := by
  obtain ⟨f, n, hterm⟩ := accTerm_of_inWindow t
  rw [hterm c h, Cell.inWindow_orFlags]
  exact c.inWindow_withSum _

/-- Two terms may change places. -/
theorem Cell.InWindow.accTerm_right_comm {c : Cell} (h : c.InWindow) (t u : FVal) :
    Machine.accTerm (Machine.accTerm c t) u = Machine.accTerm (Machine.accTerm c u) t := by
  obtain ⟨f, n, ht⟩ := accTerm_of_inWindow t
  obtain ⟨g, k, hu⟩ := accTerm_of_inWindow u
  rw [hu _ (h.accTerm t), ht _ (h.accTerm u), ht c h, hu c h]
  simp only [Cell.sum_orFlags, Cell.sum_withSum, Cell.withSum_orFlags, Cell.withSum_withSum, add_right_comm, Cell.orFlags_right_comm]

/-- A set of terms leaves one state, in whatever order they arrive. -/
theorem Cell.InWindow.foldl_accTerm_perm {c : Cell} (h : c.InWindow) {ts us : List FVal} (hp : ts.Perm us) :
    ts.foldl Machine.accTerm c = us.foldl Machine.accTerm c := by
  induction hp generalizing c with
  | nil => rfl
  | cons t _ ih => exact ih (h.accTerm t)
  | swap t u rest => rw [List.foldl_cons, List.foldl_cons, List.foldl_cons, List.foldl_cons, h.accTerm_right_comm u t]
  | trans _ _ ih₁ ih₂ => exact (ih₁ h).trans (ih₂ h)

/-- A term's flags are those it leaves in a clear cell. -/
theorem accTerm_flags (c : Cell) (t : FVal) : (accTerm c t).nan = (c.nan || (accTerm {} t).nan) ∧
    (accTerm c t).pinf = (c.pinf || (accTerm {} t).pinf) ∧ (accTerm c t).ninf = (c.ninf || (accTerm {} t).ninf) ∧
    (accTerm c t).ovf = (c.ovf || (accTerm {} t).ovf) ∧ (accTerm c t).low = (c.low || (accTerm {} t).low) := by
  obtain ⟨f, hflags | ⟨n, -, -, hadd⟩⟩ := accTerm_cases t
  · rw [hflags, hflags]
    simp [Cell.orFlags]
  · obtain ⟨v, w, hc⟩ := accAdd_frame (c.orFlags f) n
    obtain ⟨v₀, w₀, hclear⟩ := accAdd_frame (Cell.orFlags {} f) n
    rw [hadd, hadd, hc, hclear]
    simp [Cell.orFlags]

/-- Settles O6: with V in its window the exact sum fixes V and W, and both it and the flags collect their terms in any order. -/
theorem orderFreeAccumulator : Obligations.OrderFreeAccumulator := by
  unfold Obligations.OrderFreeAccumulator
  refine ⟨?carry, accTerm_flags, fun c ts us hlo hhi hp => Cell.InWindow.foldl_accTerm_perm ⟨hlo, hhi⟩ hp⟩
  case carry =>
    intro c t hvlo hvhi htlo hthi
    have hsum := Cell.InWindow.accAdd_eq ⟨hvlo, hvhi⟩ htlo hthi
    refine ⟨accAdd_of_ge, accAdd_of_lt, accAdd_of_mem, ?_, ?_⟩
    · rw [hsum, Cell.sum_withSum]
    · rw [hsum]
      exact c.inWindow_withSum _

end Sys2Proof.Machine
end

section
/-! SUPPORT. Waits and order of the control stream: what an instruction waits for, release order, maintenance of the sequencer cache and
group barriers (R126, R139, R140, R148, R156, R157, R161, R164). -/

namespace Sys2Proof.Machine

/-! ### Control-stream instructions that do not go on at once -/

/-- An instruction that waits leaves the member where it is. -/
theorem controlRow_stay {s : State} {l m op : Nat} {x : Launch} {y : Member} {w : Word} {d : Dev}
    {f : Nat → Nat → Launch → Member → Nat → Dev → Act} (h : ControlAt s l m x y op w) (hf : f l m x y w.toNat s.dev = .stay d) :
    s.dev.controlRow s.bt op (.control l m) w f = d := by
  rw [controlRow_eq h, hf]
  rfl

/-- An instruction may leave the member's place to what it sets. -/
theorem controlRow_done {s : State} {l m op : Nat} {x : Launch} {y : Member} {w : Word} {d : Dev}
    {f : Nat → Nat → Launch → Member → Nat → Dev → Act} (h : ControlAt s l m x y op w) (hf : f l m x y w.toNat s.dev = .done d) :
    s.dev.controlRow s.bt op (.control l m) w f = d := by
  rw [controlRow_eq h, hf]
  rfl

/-! ### Release order (R156, R157) -/

/-- What follows a write-back that met no parity error. -/
@[simp] theorem Dev.flushed_true (d : Dev) (f : Dev → Act) : Dev.flushed (true, d) f = f d := rfl

/-- A release waits for the member's commands, -/
theorem Dev.released_waits {d : Dev} {l m : Nat} (h : d.cmdsLeft l m none = true) (bt : Nat) (x : Launch) (y : Member) (f : Dev → Act) :
    d.released bt l m x y f = .stay (d.modMember l m (fun y => { y with wait := .cmds })) := by
  rw [Dev.released, if_pos h, Dev.waitCmds]

/-- and where none is left it writes the context's dirty lines back. -/
theorem Dev.released_sound {d : Dev} {l m : Nat} {x : Launch} {y : Member} (h : d.cmdsLeft l m none = false)
    (hsound : d.sqcSound y.ce x.ctx) (bt : Nat) (f : Dev → Act) :
    d.released bt l m x y f = f (d.sqcClean y.ce (fun q => q.ctx == x.ctx && q.dirty)) := by
  rw [Dev.released, if_neg (by simp [h]), Dev.sqcFlush_sound hsound, Dev.flushed_true]

/-! ### Operands and read-outs of the tensor unit (R158) -/

/-- No operand of the lines waited for is left to read. -/
theorem Ce.tread_tensorDone {c : Ce} {complete : Bool} {f : Nat → Bool} {r} (h : r ∈ (c.tensorDone complete f).tread) :
    f r.1 = false := by
  cases complete <;> exact (by simpa using (List.mem_filter.mp h).2)

/-- Nor is a read-out of them left to land where those are waited for as well. -/
theorem Ce.tpend_tensorDone {c : Ce} {f : Nat → Bool} {p} (h : p ∈ (c.tensorDone true f).tpend) : f p.1 = false := by
  simpa using (List.mem_filter.mp h).2

/-- Settles O20: each instruction takes the branch that what it waits for names, and goes on from it or stays. -/
theorem waitInstructions : Obligations.WaitInstructions := by
  unfold Obligations.WaitInstructions
  simp only [exec_vrun, execVrun, exec_vwait, execVwait, exec_gbar, execGbar, exec_gbarComplete, execGbarComplete, exec_endMember,
    execEndMember, exec_waitq, execWaitq, exec_twait, execTwait, exec_fence, execFence, exec_cinv, execCinv, exec_fstat, execFstat,
    exec_btrd, execBtrd, exec_btwait, execBtwait, onDev_eq]
  refine ⟨?vrun, ?vwait, ?gbar, ?gbarCmds, ?barrier, ?end_, ?waitq, ?noTicket, ?twait, ?tensor, ?fence, ?cinv, ?fstat, ?fstatOpen, ?btrd,
    ?btwait⟩
  case vrun =>
    rintro s l m x y w a hat hreg rfl halign hend hdone
    rw [Dev.vrun, controlRow_go hat]
    rw [legal_eq (sOk_singleton hreg), if_neg (by omega), if_neg (by omega), if_pos hdone]
  case vwait =>
    intro s l m x y w hat
    by_cases hdone : s.dev.cohortsDone l m = true
    · rw [if_pos hdone, Dev.vwait, controlRow_go hat (if_pos hdone)]
    · rw [if_neg hdone, Dev.vwait, controlRow_stay hat (if_neg hdone)]
  case gbar =>
    intro s l m x y w hat hcmds hsound
    rw [Dev.gbar, controlRow_done hat (Dev.released_sound hcmds hsound _ _)]
  case gbarCmds =>
    intro s l m x y w hat hcmds
    rw [Dev.gbar, controlRow_stay hat (Dev.released_waits hcmds _ _ _ _)]
  case barrier =>
    intro s l m y hms hwait
    rw [Dev.gbarComplete_single hms hwait]
  case end_ =>
    intro s l m x y w hat hcmds hdone
    rw [Dev.endMember, controlRow_done hat]
    rw [if_neg (by simp [hcmds]), if_pos hdone]
  case waitq =>
    rintro s l m x y w t hat hreg hq rfl hgiven hcmds
    rw [Dev.waitq, controlRow_go hat]
    rw [legal_eq (by simp [sOk_singleton hreg, hq]), if_neg (by omega), if_neg (by simp [hcmds])]
  case noTicket =>
    rintro s l m x y w t hat hreg hq rfl hlt
    rw [Dev.waitq, controlRow_exc hat]
    rw [legal_eq (by simp [sOk_singleton hreg, hq]), if_pos hlt]
  case twait =>
    intro s l m x y w hat hfn
    rw [Dev.twait, controlRow_go hat (legal_eq (decide_eq_true hfn) _)]
  case tensor =>
    intro c f
    exact ⟨fun _ => Ce.tread_tensorDone, fun _ => Ce.tpend_tensorDone, fun _ => Ce.tread_tensorDone, rfl, rfl⟩
  case fence =>
    intro s l m x y w hat hlo hhi hcmds hdone hsound
    rw [Dev.fence, controlRow_go hat]
    rw [legal_eq (by simp [hlo, hhi]), if_neg (by simp [hcmds]), if_neg (by simp [hdone]), Dev.sqcFlush_sound hsound, Dev.flushed_true,
      apply_ite Act.go]
  case cinv =>
    rintro s l m lo n x y w hit d hat ha hb hfn hsound rfl rfl rfl rfl
    rw [Dev.cinv, controlRow_go hat]
    rw [legal_eq (by simp [sOk, ha, hb, hfn]), Dev.sqcRecall_sound hsound, Dev.flushed_true]
    intro q hq
    simp only [Bool.and_eq_true, beq_iff_eq] at hq
    obtain ⟨⟨⟨⟨hctx, -⟩, -⟩, -⟩, -⟩ := hq
    exact hctx
  case fstat =>
    intro s l m x y w hat hreg hfn hread hdone
    rw [Dev.fstat, controlRow_go hat]
    rw [legal_eq (by simp [sOk_singleton hreg, hfn])]
    simp [hread, hdone]
  case fstatOpen =>
    intro s l m x y w hat hreg hfn hopen
    have hopen' : (s.dev.readoutLeft x y || !s.dev.cohortsDone l m) = true := by simpa using hopen
    rw [Dev.fstat, controlRow_go hat]
    rw [legal_eq (by simp [sOk_singleton hreg, hfn])]
    simp [hopen', hfn]
  case btrd =>
    intro s l m x y w hat hreg
    rw [Dev.btrd, controlRow_go hat (legal_eq (sOk_singleton hreg) _)]
  case btwait =>
    intro s l m x y w hat hreg
    by_cases hpast : (y.sget (iA w.toNat)).toNat ≤ s.bt
    · rw [if_pos hpast, Dev.btwait, controlRow_go hat ((legal_eq (sOk_singleton hreg) _).trans (if_pos hpast))]
    · rw [if_neg hpast, Dev.btwait, controlRow_stay hat ((legal_eq (sOk_singleton hreg) _).trans (if_neg hpast))]

end Sys2Proof.Machine
end

section
/-! SUPPORT. Vector arithmetic of cohorts: results of the active lanes, flags, and what raises ILLEGAL (R131 to R133, R140, R144, R147,
R148). -/

namespace Sys2Proof.Machine

/-! ### What raises ILLEGAL (R148) -/

/-- An instruction's exception in a cohort ends its launch with a record (R166). -/
theorem cohortRow_exc {s : State} {l m c op code : Nat} {x : Launch} {y : Member} {q : Cohort} {w : Word}
    {f : Nat → Nat → Nat → Launch → Member → Cohort → Nat → Dev → Act} (h : CohortAt s l m c x y q op w)
    (hf : f l m c x y q w.toNat s.dev = .exc code) :
    s.dev.cohortRow s.bt op (.cohort l m c) w f = s.dev.failLaunch l .range (some (excRecord code 1 m c q.pc)) := by
  rw [cohortRow_eq h, hf]

/-- Fields in order or not, what raises ILLEGAL raises it. -/
theorem legal_illegal (b : Bool) : legal b (.exc excIllegal) = .exc excIllegal := by
  rw [legal, ite_self]

/-- The table lists fifteen operations of VIOP. -/
theorem laneOp_unlisted {fn : Nat} (h : 0x0F ≤ fn) (sat : Bool) (a b : Lane) : laneOp fn sat a b = none := by
  obtain ⟨k, rfl⟩ := Nat.exists_eq_add_of_le' h
  rfl

/-- An operation defined in no lane is illegal. -/
theorem Dev.laneWrite_none {d : Dev} {x : Launch} {y : Member} {q : Cohort} {c w : Nat} {g : Nat → Option Lane}
    (h : ∀ i, g i = none) : d.laneWrite x y q c w g = .exc excIllegal := by
  have hlane : lanes.any (fun i => (g i).isNone) = true := List.any_eq_true.mpr ⟨0, by decide, by rw [h, Option.isNone_none]⟩
  rw [Dev.laneWrite, if_pos hlane]

/-- A word whose opcode the control stream does not know ends the launch that fetches it (R147). -/
theorem control_unknown {s : State} {l m op : Nat} {x : Launch} {y : Member} {w : Word} (hx : s.dev.launch? l = some x)
    (hy : s.dev.member? l m = some y) (hrun : x.st = .running) (hend : y.ended = false) (hwait : y.wait.tries = true)
    (hstall : (s.dev.ce y.ce).stalled = false)
    (hword : (s.dev.sqcFind y.ce x.ctx y.pc true).map (fun q => (q.bad, listNat ((q.data.drop (y.pc % 64)).take 8) 0 8)) =
      some (false, w.toNat))
    (hop : controlOps.contains (bits w.toNat 63 56) = false) (f : Launch → Member → Nat → Dev → Act) :
    s.dev.control s.bt op l m w f = s.dev.failLaunch l .range (some (excRecord excIllegal 0 m 0xFFFF y.pc)) := by
  obtain ⟨q, hfind, hline⟩ := Option.map_eq_some_iff.mp hword
  obtain ⟨hgood, hdata⟩ := Prod.mk.inj hline
  have hparity : Dev.sqParity s.bt s.dev y.ce l x.ctx y.pc true = (true, s.dev) := by simp [Dev.sqParity, hfind, hgood]
  unfold Dev.control
  simp only [hx, hy]
  rw [if_pos ⟨hrun, by simp [hend], hwait, by simp [hstall]⟩]
  simp only [hparity, Dev.sqFetch, hfind, hdata, ne_eq, not_true_eq_false, if_false]
  rw [if_neg (by simp only [hop]; exact Bool.false_ne_true)]
  rfl

/-- Settles O25: the result of each active lane is written, a float's flags are collected, and ILLEGAL comes of an opcode or an operation
that is not the stream's or the table's. -/
theorem vectorArithmetic : Obligations.VectorArithmetic := by
  unfold Obligations.VectorArithmetic
  simp only [exec_viop, execViop, exec_viopi, execViopi, exec_vicmp, execVicmp, exec_vsel, execVsel, exec_vfop, execVfop, exec_vfma,
    execVfma, exec_vfcmp, execVfcmp, exec_vsf, execVsf, exec_vcvt, execVcvt, onDev_eq]
  refine ⟨?viop, ?unlisted, ?control, ?viopi, ?vicmp, ?vsel, ?vfop, ?vfma, ?vfcmp, ?vsf, ?vcvt⟩
  case viop =>
    intro s l m c x y q w f hat hd ha hb hf
    rw [Dev.viop, cohortRow_go hat]
    rw [legal_eq (by simp [hd, ha, hb]), Dev.laneWrite_some hf]
  case unlisted =>
    intro s l m c x y q w hat hfn
    rw [Dev.viop, cohortRow_exc hat]
    rw [Dev.laneWrite_none (fun i => laneOp_unlisted hfn _ _ _), legal_illegal]
  case control =>
    intro s l m x y w hx hy hrun hend hwait hstall hword hop
    rw [Dev.viop, Dev.cohortRow, control_unknown hx hy hrun hend hwait hstall hword (by rw [hop]; rfl)]
  case viopi =>
    intro s l m c x y q w f hat hd ha hf
    rw [Dev.viopi, cohortRow_go hat]
    rw [legal_eq (by simpa [hd] using ha), Dev.laneWrite_some hf]
  case vicmp =>
    intro s l m c x y q w f hat hd ha hb hf
    rw [Dev.vicmp, cohortRow_go hat]
    rw [legal_eq (by simp [predOk_of_lt hd, ha, hb]), Dev.lanePred_some hf]
  case vsel =>
    intro s l m c x y q w hat hd ha hb hp
    rw [Dev.vsel, cohortRow_go hat]
    rw [legal_eq (by simp [hd, ha, hb, predOk_of_lt hp]), Dev.laneWrite_some (fun _ => rfl)]
  case vfop =>
    intro s l m c x y q w f r hat hd ha hb hfmt hr
    rw [Dev.vfop, cohortRow_go hat]
    rw [legal_eq (by simpa [hd, ha, or_assoc] using hb), hfmt]
    exact Dev.laneFloat_some hr
  case vfma =>
    rintro s l m c x y q w f v r hat hd ha hb hc hfmt rfl rfl
    rw [Dev.vfma, cohortRow_go hat]
    rw [legal_eq (by simp [hd, ha, hb, hc]), hfmt]
    exact Dev.laneFloat_some (fun _ => rfl)
  case vfcmp =>
    intro s l m c x y q w g f hat hd ha hb hfmt hf
    rw [Dev.vfcmp, cohortRow_go hat]
    rw [legal_eq (by simp [predOk_of_lt hd, ha, hb]), hfmt]
    exact Dev.lanePred_some hf
  case vsf =>
    intro s l m c x y q w f v r hat hd ha hfn hfmt hv hr
    rw [Dev.vsf, cohortRow_go hat]
    rw [legal_eq (by simp [hd, ha, hfn]), hfmt]
    exact Dev.laneFloat_some (r := fun i => (r i, specialFlags (iFN w.toNat) (v i) f (r i))) (fun i => by rw [hr, hv])
  case vcvt =>
    rintro s l m c x y q w r hat hd ha hfn hmx hto hfrom hsr rfl
    rw [Dev.vcvt, cohortRow_go hat]
    rw [legal_eq (by simp [hd, ha, hfn, hmx]), if_neg (by simp [hto, hfrom])]
    simp only [hsr, Bool.false_eq_true, if_false]
    rw [Dev.laneFloat_some (fun _ => rfl)]

end Sys2Proof.Machine
end

section
/-! SUPPORT. Scalar instructions: arithmetic, branches and the scalar registers of a member (R141, R142, R147 to R149, R166). -/

namespace Sys2Proof.Machine

/-- A control-stream instruction that branches goes on at its target (R149). -/
theorem controlRow_jump {s : State} {l m op t : Nat} {x : Launch} {y : Member} {w : Word} {d : Dev}
    {f : Nat → Nat → Launch → Member → Nat → Dev → Act} (h : ControlAt s l m x y op w) (hf : f l m x y w.toNat s.dev = .jump t d) :
    s.dev.controlRow s.bt op (.control l m) w f = d.retire s.bt l m (t % 2 ^ 64) := by
  rw [controlRow_eq h, hf]
  rfl

/-- A register field that names no register raises ILLEGAL (R144). -/
theorem legal_not {b : Bool} (h : b = false) (a : Act) : legal b a = .exc excIllegal := by simp [legal, h]

/-! ### Operations that are listed (R148, R149) -/

theorem scalarOp_isSome {fn : Nat} (h : fn < 0x15) (a b : Word) : (scalarOp fn a b).isSome = true := by
  unfold scalarOp
  interval_cases fn <;> rfl

/-- The table lists 21 operations of SOP. -/
theorem scalarOp_unlisted {fn : Nat} (h : 0x15 ≤ fn) (a b : Word) : scalarOp fn a b = none := by
  obtain ⟨k, rfl⟩ := Nat.exists_eq_add_of_le' h
  rfl

theorem scalarOpI_isSome {fn : Nat} (h : fn < 9) (a : Word) (imm : Nat) : (scalarOpI fn a imm).isSome = true := by
  unfold scalarOpI
  interval_cases fn <;> rfl

theorem scalarCond_isSome {c : Nat} (h : c < 7) (a b : Word) : (scalarCond c a b).isSome = true := by
  unfold scalarCond
  interval_cases c <;> rfl

/-- A SOP whose fields name a register or an operation that there is none of raises ILLEGAL (R148). -/
theorem sop_illegal {w : Nat} (h : 32 ≤ iD w ∨ 32 ≤ iA w ∨ 32 ≤ iB w ∨ 0x15 ≤ iFN w) (d : Dev) (l m : Nat) (a b : Word) :
    legal (sOk [iD w, iA w, iB w]) (d.putOp l m (iD w) (scalarOp (iFN w) a b)) = .exc excIllegal := by
  by_cases hregs : sOk [iD w, iA w, iB w] = true
  · have hfields : iD w < 32 ∧ iA w < 32 ∧ iB w < 32 := by simpa [sOk] using hregs
    rw [scalarOp_unlisted (by omega), Dev.putOp, legal_illegal]
  · exact legal_not (by simpa using hregs) _

/-- Settles O17: each instruction's row names what it writes and where the member goes on. -/
theorem scalarInstructions : Obligations.ScalarInstructions := by
  unfold Obligations.ScalarInstructions
  simp only [exec_sop, execSop, exec_sopi, execSopi, exec_sbr, execSbr, exec_sjal, execSjal, exec_sjr, execSjr, onDev_eq]
  refine ⟨?sop, ?sopi, ?illegal, ?sbr, ?sjal, ?sjr, ?unaligned⟩
  case sop =>
    intro s l m x y w v hat hd ha hb hv
    rw [Dev.sop, controlRow_go hat]
    rw [legal_eq (by simp [sOk, hd, ha, hb]), hv, Dev.putOp]
  case sopi =>
    intro s l m x y w v hat hd ha hv
    rw [Dev.sopi, controlRow_go hat]
    rw [legal_eq (by simp [sOk, hd, ha]), hv, Dev.putOp]
  case illegal =>
    intro s l m x y w hat hbad
    rw [Dev.sop, controlRow_exc hat (sop_illegal hbad _ _ _ _ _)]
  case sbr =>
    intro s l m x y w taken hat ha hb hcond
    have hfields : sOk [brA w.toNat, brB w.toNat] = true := by simp [sOk, ha, hb]
    rw [Dev.sbr]
    cases taken with
    | true =>
      rw [controlRow_jump hat ((legal_eq hfields _).trans (by rw [hcond])), if_pos rfl, branchTarget]
    | false =>
      rw [controlRow_go hat ((legal_eq hfields _).trans (by rw [hcond])), if_neg Bool.false_ne_true]
  case sjal =>
    intro s l m x y w hat hd
    rw [Dev.sjal, controlRow_jump hat (legal_eq (sOk_singleton hd) _), branchTarget]
  case sjr =>
    intro s l m x y w hat hd ha halign
    rw [Dev.sjr, controlRow_jump hat ((legal_eq (by simp [sOk, hd, ha]) _).trans (if_neg (by simp [halign]))),
      Nat.mod_eq_of_lt (y.sget (iA w.toNat)).isLt]
  case unaligned =>
    intro s l m x y w hat hd ha halign
    rw [Dev.sjr, controlRow_exc hat ((legal_eq (by simp [sOk, hd, ha]) _).trans (if_pos halign))]

/-! ### Scalar registers (R142) -/

/-- s0 reads 0. -/
@[simp] theorem Member.sget_zero (y : Member) : y.sget 0 = 0#64 := rfl

/-- A write to s0 is ignored. -/
@[simp] theorem Dev.sput_zero (d : Dev) (l m : Nat) (v : Word) : d.sput l m 0 v = d := rfl

/-- A write to another register changes the member's registers alone. -/
theorem Dev.sput_of_ne {n : Nat} (h : n ≠ 0) (d : Dev) (l m : Nat) (v : Word) :
    d.sput l m n v = d.modMember l m (fun y => { y with s := mapSet 0#64 y.s n v }) := if_neg h

/-- A register other than s0 reads what was written to it. -/
theorem Member.sget_set_same {n : Nat} (h : n ≠ 0) (y : Member) (v : Word) : Member.sget { y with s := mapSet 0#64 y.s n v } n = v := by
  rw [Member.sget, if_neg h, mapGet_set_same]

/-- The other registers read as before. -/
theorem Member.sget_set_ne {k n : Nat} (h : k ≠ n) (y : Member) (v : Word) :
    Member.sget { y with s := mapSet 0#64 y.s n v } k = y.sget k := by
  rw [Member.sget, Member.sget, mapGet_set_ne 0#64 y.s v h]

/-- A change of a member is what is then found there, -/
theorem Dev.member?_modMember_same (d : Dev) (l m : Nat) (f : Member → Member) :
    (d.modMember l m f).member? l m = (d.member? l m).map f := by
  rw [Dev.member?, Dev.modMember, Dev.eng_modEng_self, mapFind?_modify, if_pos rfl, ← Dev.member?]

/-- and the other members are as before. -/
theorem Dev.member?_modMember_ne {l m l' m' : Nat} (h : memberKey l' m' ≠ memberKey l m) (d : Dev) (f : Member → Member) :
    (d.modMember l m f).member? l' m' = d.member? l' m' := by
  rw [Dev.member?, Dev.modMember, Dev.eng_modEng_self, mapFind?_modify, if_neg h, ← Dev.member?]

/-- A write of a scalar register changes nothing but the members of launches. -/
theorem Dev.sput_frame (d : Dev) (l m n : Nat) (v : Word) : ∃ ms, d.sput l m n v = d.modEng (fun z => { z with members := ms }) := by
  by_cases h : n = 0
  · exact ⟨d.eng.members, by rw [h]; rfl⟩
  · exact ⟨_, Dev.sput_of_ne h d l m v⟩

/-- Settles O18: the table of the member's registers is read and written by register number, and no other member is touched. -/
theorem scalarRegisterFrame : Obligations.ScalarRegisterFrame := by
  unfold Obligations.ScalarRegisterFrame
  intro d l m n v
  refine ⟨Member.sget_zero, Dev.sput_zero d l m v, ?same, ?others, ?frame⟩
  case same =>
    intro y hy hn
    refine ⟨{ y with s := mapSet 0#64 y.s n v }, ?_, Member.sget_set_same hn y v, fun k hk => Member.sget_set_ne hk y v, rfl, rfl, rfl,
      rfl⟩
    rw [Dev.sput_of_ne hn, Dev.member?_modMember_same, hy, Option.map_some]
  case others =>
    intro l' m' hkey
    by_cases hn : n = 0
    · rw [hn, Dev.sput_zero]
    · rw [Dev.sput_of_ne hn, Dev.member?_modMember_ne hkey]
  case frame =>
    obtain ⟨ms, hms⟩ := d.sput_frame l m n v
    rw [hms]
    exact ⟨rfl, rfl, rfl, rfl, rfl, rfl, rfl⟩

end Sys2Proof.Machine
end

section
/-! SUPPORT. Signals: the entry of the signal table that a SIGNAL names, and the post that it makes (R157, R165, R235, R236, R347). -/

namespace Sys2Proof.Machine

section Signal

variable {s : State} {l m : Nat} {x : Launch} {y : Member} {w : Word} {d : Dev} (hat : ControlAt s l m x y 0x1F w)
  (ha : iA w.toNat < 32) (hb : iB w.toNat < 32) (hc : iC w.toNat < 32) (hcmds : s.dev.cmdsLeft l m none = false)
  (hsound : s.dev.sqcSound y.ce x.ctx) (hd : d = s.dev.sqcClean y.ce (fun q => q.ctx == x.ctx && q.dirty))
include hat ha hb hc hcmds hsound hd

/-- In release order an entry beyond the signal table raises OBJECT (R165, R235). -/
theorem Dev.signal_object (hfn : iFN w.toNat < 2) (hend : (d.ctx x.ctx).sigCount ≤ (y.sget (iC w.toNat)).toNat) :
    s.dev.signal s.bt (.control l m) w = s.dev.failLaunch l .range (some (excRecord excObject 0 m 0xFFFF y.pc)) := by
  subst hd
  rw [Dev.signal, controlRow_exc hat]
  rw [legal_eq (by simp [sOk, ha, hb, hc, hfn]), Dev.released_sound hcmds hsound]
  exact if_pos hend

variable (hin : (y.sget (iC w.toNat)).toNat < (d.ctx x.ctx).sigCount)
  (hpoison : d.poisoned ((d.ctx x.ctx).sigTable % 2 ^ 48 + 16 * (y.sget (iC w.toNat)).toNat) 16 = false) (hrun : x.shadowOf = none)
include hin hpoison hrun

/-- An entry that names a ring of the context with room posts on it (R235, R347). -/
theorem Dev.signal_ring {k tag : Nat} (hfn : iFN w.toNat = 0)
    (htarget : d.target (d.partOfCtx x.ctx) (memNat d.mem ((d.ctx x.ctx).sigTable % 2 ^ 48 + 16 * (y.sget (iC w.toNat)).toNat) 16) =
      some (.ring k tag))
    (hctx : (d.pair k).ctx = x.ctx) (hst : (d.pair k).st ≠ .detached) (hadmin : (d.pair k).admin = false)
    (hroom : d.postWaits k = false) :
    s.dev.signal s.bt (.control l m) w = (d.post k { tag, status := .ok, bt := s.bt
                                                     result := (y.sget (iA w.toNat)).toNat + (y.sget (iB w.toNat)).toNat * 2 ^ 64 }
      none).retire s.bt l m ((y.pc + 8) % 2 ^ 64) := by
  subst hd
  rw [Dev.signal, controlRow_go hat]
  rw [legal_eq (by simp [sOk, ha, hb, hc, hfn]), Dev.released_sound hcmds hsound]
  dsimp only
  rw [if_neg (Nat.not_le.mpr hin), if_neg (by rw [hpoison]; exact Bool.false_ne_true), htarget, hfn]
  simp [hctx, hst, hadmin, hrun, hroom]

/-- An entry that names a mailbox with room writes it (R236). -/
theorem Dev.signal_mailbox {hart file lg eiid dpa : Nat} (hfn : iFN w.toNat = 1)
    (htarget : d.target (d.partOfCtx x.ctx) (memNat d.mem ((d.ctx x.ctx).sigTable % 2 ^ 48 + 16 * (y.sget (iC w.toNat)).toNat) 16) =
      some (.mailbox hart file lg eiid dpa))
    (hroom : d.mailRoom dpa lg = true) (hfirst : d.mailQueued dpa d.eng.order = false) :
    s.dev.signal s.bt (.control l m) w = (d.mailPut s.bt (d.partOfCtx x.ctx) x.ctx hart file lg eiid dpa (y.sget (iA w.toNat))
      (y.sget (iB w.toNat))).retire s.bt l m ((y.pc + 8) % 2 ^ 64) := by
  subst hd
  rw [Dev.signal, controlRow_go hat]
  rw [legal_eq (by simp [sOk, ha, hb, hc, hfn]), Dev.released_sound hcmds hsound]
  dsimp only
  rw [if_neg (Nat.not_le.mpr hin), if_neg (by rw [hpoison]; exact Bool.false_ne_true), htarget, hfn]
  simp [hrun, hroom, hfirst]

end Signal

/-- Settles O21: a SIGNAL in release order acts on the entry it names, and a post that waited is made when its mailbox has room. -/
theorem signalInstructions : Obligations.SignalInstructions := by
  unfold Obligations.SignalInstructions
  simp only [exec_signal, execSignal, exec_mailboxRoom, execMailboxRoom, onDev_eq]
  refine ⟨?ring, ?mailbox, ?object, ?waited⟩
  case ring =>
    rintro s l m n k tag x y w d hat ha hb hc hfn hcmds hsound hd rfl hin hpoison htarget hctx hst hadmin hrun hroom
    rw [Dev.signal_ring hat ha hb hc hcmds hsound hd hin hpoison hrun hfn htarget hctx hst hadmin hroom]
  case mailbox =>
    rintro s l m n hart file lg eiid dpa x y w d hat ha hb hc hfn hcmds hsound hd rfl hin hpoison htarget hrun hroom hfirst
    rw [Dev.signal_mailbox hat ha hb hc hcmds hsound hd hin hpoison hrun hfn htarget hroom hfirst]
  case object =>
    intro s l m x y w d hat ha hb hc hfn hcmds hsound hd hend
    rw [Dev.signal_object hat ha hb hc hcmds hsound hd hfn hend]
  case waited =>
    intro s l m e o hart file lg eiid dpa x y va vb hx hy hwait htarget hroom hfirst
    rw [Dev.mailboxRoom_posts hx hy hwait htarget hroom hfirst]

end Sys2Proof.Machine
end

section
/-! SUPPORT. Cohort code that loads, stores, votes, branches and waits at barriers (R139, R147, R151 to R153). -/

namespace Sys2Proof.Machine

/-- A cohort instruction that waits leaves the cohort where it is. -/
theorem cohortRow_stay {s : State} {l m c op : Nat} {x : Launch} {y : Member} {q : Cohort} {w : Word} {d : Dev}
    {f : Nat → Nat → Nat → Launch → Member → Cohort → Nat → Dev → Act} (h : CohortAt s l m c x y q op w)
    (hf : f l m c x y q w.toNat s.dev = .stay d) : s.dev.cohortRow s.bt op (.cohort l m c) w f = d := by
  rw [cohortRow_eq h, hf]

/-- Accesses that raise nothing are aligned and within Local Store (R151). -/
theorem access_inRange {x : Launch} {n : Nat} {is : List Nat} {f : Nat → Nat} (h : accessExc x n (is.map f) = none) :
    ∀ i ∈ is, f i % n = 0 ∧ f i + n ≤ x.lsSize := by
  intro i hi
  rw [accessExc] at h
  split at h
  · cases h
  · next hfind =>
    have hlane := List.find?_eq_none.mp hfind (f i) (List.mem_map_of_mem hi)
    simpa using hlane

/-- An aligned access beyond Local Store raises LS_RANGE where no lane before it raises anything (R151). -/
theorem accessExc_lsRange {x : Launch} {n a : Nat} (halign : a % n = 0) (hend : x.lsSize < a + n) (as : List Nat) :
    accessExc x n (a :: as) = some excLsRange := by
  simp [accessExc, halign, hend]

/-- A cohort of the member that has neither reached its `n`-th barrier nor ended keeps the others at theirs (R153). -/
theorem cohorts_before_barrier {cohorts : Map Cohort} {key c n : Nat}
    (h : ∃ r ∈ cohorts, r.1 / 512 = key ∧ r.1 % 512 ≠ c ∧ r.2.ended = false ∧ r.2.bars < n) :
    cohorts.all (fun r => r.1 / 512 != key || r.1 % 512 == c || r.2.ended || decide (n ≤ r.2.bars)) = false := by
  obtain ⟨r, hr, hkey, hother, hrun, hbars⟩ := h
  exact List.all_eq_false.mpr ⟨r, hr, by simp [hkey, hother, hrun, hbars]⟩

/-- Settles O26: each row's checks pass, and the row names what the cohort writes and where it goes on or that it waits. -/
theorem vectorMemoryAndControl : Obligations.VectorMemoryAndControl := by
  unfold Obligations.VectorMemoryAndControl
  simp only [exec_vld, execVld, exec_vldc, execVldc, exec_vst, execVst, exec_vstc, execVstc, exec_vlatom, execVlatom, exec_bar, execBar,
    exec_vote, execVote, exec_vshfl, execVshfl, exec_vbr, execVbr, exec_vend, execVend, onDev_eq]
  refine ⟨?vld, ?vldc, ?range, ?vst, ?vstc, ?vlatom, ?bar, ?barWaits, ?vote, ?ballot, ?vshfl, ?vbr, ?vend⟩
  case vld =>
    intro s l m c n x y q w sg hat hd ha hsize hexc
    rw [Dev.vecLoad_loads hat hsize ha (access_inRange hexc) hd]
  case vldc =>
    intro s l m c n x y q w sg hat hd ha hsize hexc
    rw [Dev.vecLoad_loads hat hsize ha (access_inRange hexc) hd]
  case range =>
    intro s l m c n x y q w sg i rest hat hd ha hsize hlanes halign hend
    rw [Dev.vecLoad, cohortRow_exc hat]
    rw [legal_eq (by simp [hd, ha]), hsize]
    simp only [hlanes, List.map_cons, accessExc_lsRange halign hend]
  case vst =>
    intro s l m c n x y q w sg hat hd ha hsize hexc
    rw [Dev.vecStore_stores hat hsize ha (access_inRange hexc) hd]
  case vstc =>
    intro s l m c n x y q w sg hat hd ha hsize hexc
    rw [Dev.vecStore_stores hat hsize ha (access_inRange hexc) hd]
  case vlatom =>
    intro s l m c x y q w hat hd ha hb hfn hexc
    rw [Dev.vlatom, cohortRow_go hat]
    rw [legal_eq (by simp [hd, ha, hb, hfn])]
    simp only [hexc]
  case bar =>
    intro s l m c x y q w hat hon hbar hothers
    rw [Dev.bar, cohortRow_go hat]
    rw [if_neg (by simpa using hon)]
    simp only [hbar, Bool.false_eq_true, if_false, cohorts_past_barrier hothers, if_true, Bool.not_true]
  case barWaits =>
    intro s l m c x y q w hat hon hbar hothers
    rw [Dev.bar, cohortRow_stay hat]
    rw [if_neg (by simpa using hon)]
    simp only [hbar, Bool.false_eq_true, if_false, cohorts_before_barrier hothers, Bool.not_false]
  case vote =>
    intro s l m c x y q w hat hp hfn hd
    have hdest := legal_eq (predOk_of_lt hd)
    have hboth : iFN w.toNat = 0 ∨ iFN w.toNat = 1 := by omega
    rw [Dev.vote, cohortRow_go hat]
    rw [legal_eq (predOk_of_lt hp)]
    rcases hboth with hany | hall
    · simp only [hany, hdest, if_true]
    · simp only [hall, hdest, one_ne_zero, if_false]
  case ballot =>
    intro s l m c x y q w hat hp hfn hd
    rw [Dev.vote, cohortRow_go hat]
    rw [legal_eq (predOk_of_lt hp), hfn]
    exact legal_eq hd _
  case vshfl =>
    intro s l m c x y q w hat hd ha hb
    rw [Dev.vshfl, cohortRow_go hat]
    rw [legal_eq (by simp [hd, ha, hb]), Dev.laneWrite_some (fun _ => rfl)]
  case vbr =>
    intro s l m c x y q w taken hat hp hcond
    have hfields : (iSel w.toNat == 6 || predOk (brA w.toNat)) = true := by simpa [predOk] using hp
    rw [Dev.vbr]
    cases taken with
    | true => rw [cohortRow_jump hat ((legal_eq hfields _).trans (by rw [hcond])), if_pos rfl]
    | false => rw [cohortRow_go hat ((legal_eq hfields _).trans (by rw [hcond])), if_neg Bool.false_ne_true]
  case vend =>
    intro s l m c x y q w hat hon
    rw [Dev.vend, cohortRow_go hat]
    rw [if_neg (by simpa using hon)]

end Sys2Proof.Machine
end

section
/-! SUPPORT. The ends of commands: bytes moved, walks, and answers (R156, R162, R163, R187, R188, R190, R192 to R194, R241). -/

namespace Sys2Proof.Machine

/-! ### The bytes of a PUT (R163) -/

/-- A local piece of a PUT writes what its Local Store bytes are, unless a channel of the target has FAILED. -/
theorem Dev.moveLocal_put {d g : Dev} {n a ctx dpa ls k : Nat} {c : Cmd} {y : Member} (hop : c.op = .put)
    (hg : g = (d.noteOut c.l dpa k).memPut dpa (d.lsRead y ls k)) (hlive : g.deadIn dpa k = false) :
    d.moveLocal n c a ctx y dpa ls 0 k = (.more, g.hinted a ctx c.hint dpa k) := by
  have hbytes : d.cmdBytes y c ls 0 k = d.lsRead y ls k := by simp [Dev.cmdBytes, hop]
  simp only [Dev.moveLocal, hop, hbytes, ← hg, hlive, Bool.false_eq_true, if_false]

section Move

variable {bt n total fuel : Nat} {x : Launch} {y : Member} {c : Cmd} {es : List (Nat × Nat × Nat)} {d : Dev}
  (hc : mapFind? d.eng.cmds n = some c)
include hc

/-- Past its last extent a command has moved its bytes. -/
theorem Dev.moveCmd_end (hrow : es[c.row]? = none) : Dev.moveCmd bt n x y es total (fuel + 1) d = (.moved, d) := by
  simp only [Dev.moveCmd, hc, hrow]

/-- An extent of a PUT that lies in one page of local memory is moved at once, and the command goes on to the next. -/
theorem Dev.moveCmd_put {ava ls len : Nat} {p : Page} {e g : Dev} (hop : c.op = .put) (hrb : c.rb = false) (hoff : c.off = 0)
    (hrow : es[c.row]? = some (ava, ls, len)) (hrun : x.shadowOf = none)
    (haccess : d.access bt (tlbCe y.ce) x.ctx ava true true x.faultable = (.ok p, e))
    (hlocal : e.isLocal (d.partOfCtx x.ctx) p.dpa = true) (hpage : len ≤ 2 ^ p.lg - ava % 2 ^ p.lg)
    (hopen : e.bytesOpen (y.ce / 26) (p.at_ ava % 2 ^ 48) len = true)
    (hg : g = (e.noteOut c.l (p.at_ ava % 2 ^ 48) len).memPut (p.at_ ava % 2 ^ 48) (e.lsRead y ls len))
    (hlive : g.deadIn (p.at_ ava % 2 ^ 48) len = false) :
    Dev.moveCmd bt n x y es total (fuel + 1) d = Dev.moveCmd bt n x y es total fuel
      ((g.hinted (d.partOfCtx x.ctx) x.ctx c.hint (p.at_ ava % 2 ^ 48) len).modEng (fun z => { z with
        cmds := mapModify z.cmds n (fun c => { c with row := c.row + 1, off := 0 }) })) := by
  have hwhole : min len (2 ^ p.lg - ava % 2 ^ p.lg) = len := Nat.min_eq_left hpage
  have hnotLess : ∀ k : Nat, ¬k + len < len := fun k => by omega
  rw [Dev.moveCmd]
  simp only [hc, hrow, hop, hrb, hoff, hrun, haccess, hlocal, hwhole, hopen, CmdOp.writes, Dev.moveLocal_put hop hg hlive, hnotLess,
    Option.isSome_none, Bool.false_and, Bool.false_eq_true, Nat.add_zero, Nat.sub_zero, not_true_eq_false, and_false, if_false, if_true]

end Move

/-! ### Retirement -/

section Command

variable {bt n : Nat} {c : Cmd} {x : Launch} {y : Member} {d : Dev} (hc : mapFind? d.eng.cmds n = some c)
include hc

/-- A DMA command completes by moving its bytes (R241). -/
theorem Dev.commandComplete_dma
    (hop : c.op = .get ∨ c.op = .put ∨ c.op = .gather ∨ c.op = .scatter ∨ c.op = .red ∨ c.op = .fill) :
    d.commandComplete bt n = d.dmaComplete bt n := by
  rcases hop with h | h | h | h | h | h <;> simp only [Dev.commandComplete, hc, h]

/-- Only LCHK and XDISP give answers as they begin. -/
theorem Dev.beginAnswers_other (hlchk : c.op ≠ .lchk) (hxdisp : c.op ≠ .xdisp) : d.beginAnswers bt n = d := by
  simp only [Dev.beginAnswers, hc]
  split
  · rw [if_neg (by simp [hlchk, hxdisp])]
  · rfl

variable (hx : d.launch? c.l = some x) (hy : d.member? c.l c.m = some y) (hstart : c.started = true)
include hx hy hstart

/-- A DMA command whose bytes are all moved, and that waits for no other node, retires with the digest of its data (R162, R241). -/
theorem Dev.dmaComplete_moved {e : Dev} (hfault : c.fault = false)
    (hmoved : Dev.moveCmd bt n x y (d.sortedExtents y c) (((d.sortedExtents y c).map (fun e => e.2.2)).sum)
      (2 * (d.sortedExtents y c).length + ((d.sortedExtents y c).map (fun e => e.2.2)).sum / 65536 + 2) d = (.moved, e))
    (hhere : e.cmdRemote (e.partOfCtx x.ctx) n = false) : d.dmaComplete bt n = e.retireCmd bt n (e.cmdData y c) := by
  simp only [Dev.dmaComplete, Dev.tryStart_started bt hc hstart, hc, hx, hy, hstart, hfault, hmoved, hhere, not_true_eq_false,
    Bool.false_eq_true, or_self, if_false]

/-- KVG retires with what it has gathered (R188). -/
theorem Dev.commandComplete_kvg {bs : List Byte} {e : Dev} (hop : c.op = .kvg) (hopen : d.blocksOpen y (d.kvReq y c.sd) = true)
    (hwalk : Dev.gatherList bt n c x y (d.kvReq y c.sd) (List.range (d.kvReq y c.sd).count) 0 [] d = (bs, e)) :
    d.commandComplete bt n = e.retireCmd bt n bs := by
  have hbegin : d.beginAnswers bt n = d := Dev.beginAnswers_other hc (by simp [hop]) (by simp [hop])
  simp only [Dev.commandComplete, Dev.seComplete, Dev.tryStart_started bt hc hstart, hbegin, hc, hx, hy, hop, hstart, hopen, hwalk,
    not_true_eq_false, if_false]

/-- KVA retires once every entry is appended, with its index entries and the digest of what it appended (R190). -/
theorem Dev.commandComplete_kva {r : KvReq} {c' : Cmd} {vs : List (List Nat)} {e f : Dev} (hop : c.op = .kva)
    (hr : r = d.kvReq y c.sd) (hopen : d.blocksOpen y r = true)
    (hwalk : Dev.appendList bt n x y r (d.kvaOffs y r.subLen r.count r.list 0) (List.range r.count) d = (true, e))
    (hc' : mapFind? e.eng.cmds n = some c') (hvs : vs = (List.range r.count).map (fun i => (c'.answer? i).getD []))
    (hf : f = vs.zipIdx.foldl (fun d p => d.lsWrite y (r.index + 16 * p.2) (indexBytes p.1)) e) :
    d.commandComplete bt n = f.retireCmd bt n (vs.flatMap (fun v =>
      if v.headD 1 = ocDone then f.lsRead y (r.dest + v.getD 2 0) (v.getD 3 0 * r.subLen) else [])) := by
  subst hr hvs hf
  have hbegin : d.beginAnswers bt n = d := Dev.beginAnswers_other hc (by simp [hop]) (by simp [hop])
  simp only [Dev.commandComplete, Dev.seComplete, Dev.tryStart_started bt hc hstart, hbegin, hc, hx, hy, hop, hstart, hopen, hwalk, hc',
    Option.getD_some, not_true_eq_false, if_false]

end Command

/-- A PUT of one row has one extent. -/
theorem Dev.sortedExtents_put {d : Dev} {y : Member} {c : Cmd} (hop : c.op = .put) (hrow : c.twoD = false) :
    d.sortedExtents y c = [(c.sa, c.sd, c.sl)] := by
  simp [Dev.sortedExtents, Dev.cmdExtents, hop, Cmd.rows, hrow, sortBy, insertBy]

/-- Settles O29: what each command still has to do is done, so it retires; a held answer is decided by its layer's residency. -/
theorem commandCompletion : Obligations.CommandCompletion := by
  unfold Obligations.CommandCompletion
  simp only [exec_commandComplete, execCommandComplete, exec_heldAnswerDecided, execHeldAnswerDecided, onDev_eq]
  refine ⟨?moved, ?put, ?kvg, ?kva, ?lchk, ?xdisp, ?answer⟩
  case moved =>
    intro s n c x y d hc hop hx hy hstart hfault hmoved hhere
    rw [Dev.commandComplete_dma hc hop, Dev.dmaComplete_moved hc hx hy hstart hfault hmoved hhere]
  case put =>
    rintro s n c x y p d e f g hc hop hone hrb hrow hoff hstart hfault hx hy hrun haccess hlocal hpage hopen hg hlive rfl hcmds rfl hhere
    have hextents : s.dev.sortedExtents y c = [(c.sa, c.sd, c.sl)] := Dev.sortedExtents_put hop hone
    rw [Dev.commandComplete_dma hc (.inr (.inl hop)), Dev.dmaComplete_moved hc hx hy hstart hfault ?_ hhere]
    rw [hextents, List.length_singleton, Dev.moveCmd_put hc hop hrb hoff (by rw [hrow]; rfl) hrun haccess hlocal hpage hopen hg hlive]
    have hmoved : mapFind? (mapModify (g.hinted (s.dev.partOfCtx x.ctx) x.ctx c.hint (p.at_ c.sa % 2 ^ 48) c.sl).eng.cmds n
        (fun c => { c with row := c.row + 1, off := 0 })) n = some { c with row := c.row + 1, off := 0 } := by
      rw [mapFind?_modify, if_pos rfl, hcmds, hc, Option.map_some]
    exact Dev.moveCmd_end hmoved (by simp [hrow])
  case kvg =>
    intro s n c x y bs d hc hop hstart hx hy hopen hwalk
    rw [Dev.commandComplete_kvg hc hx hy hstart hop hopen hwalk]
  case kva =>
    intro s n c c' x y r vs d e hc hop hstart hx hy hr hopen hwalk hc' hvs he
    rw [Dev.commandComplete_kva hc hx hy hstart hop hr hopen hwalk hc' hvs he]
  case lchk =>
    intro s n c x y hc hop hstart hx hy hans hheld
    rw [Dev.commandComplete_lchk s.bt hc hx hy hop hstart hans hheld]
  case xdisp =>
    rintro s n c x y r hc hop hstart hx hy hans hheld rfl
    rw [Dev.commandComplete_xdisp s.bt hc hx hy hop hstart hans hheld]
  case answer =>
    intro s n i c x y hc hop hheld hopen hx hy hrun _ hrec hfail hphase hlayer hres
    rw [Dev.heldDecided_held hc hheld, Dev.settleIdx_decided hc hx hy hop hopen hrun
      (Dev.decideIdx_resident hop hrun hrec hfail hphase hlayer hres)]

end Sys2Proof.Machine
end

section
/-! SUPPORT. Scalar accesses to memory and Local Store (R102, R103, R108, R148, R150). -/

namespace Sys2Proof.Machine

theorem amoOp_isSome {fn : Nat} (h : fn < 10) (n old b c : Nat) : (amoOp fn n old b c).isSome = true := by
  unfold amoOp
  interval_cases fn <;> rfl

/-- A scalar access whose fields are in order and whose address is aligned is made (R150). -/
theorem memForm_eq {store sg : Bool} {y : Member} {w n a : Nat} {f : Nat → Bool → Nat → Act} (hd : iD w < 32) (ha : iA w < 32)
    (hsize : scalarSize store (iSel w) = some (n, sg)) (haddr : a = addOff (y.sget (iA w)) (iImm w)) (halign : a % n = 0) :
    memForm store y w f = f n sg a := by
  subst haddr
  rw [memForm, legal_eq (by simp [sOk, hd, ha]), hsize]
  exact if_neg (by simp [halign])

/-! ### The sequencer cache (R101, R102, R107) -/

/-- A line found in a sound cache has met no parity error. -/
theorem Dev.sqcSound_find {d : Dev} {k c ava : Nat} {insn : Bool} {g : SqcLine} (h : d.sqcSound k c)
    (hfind : d.sqcFind k c ava insn = some g) : g.bad = false := by
  have htest := List.find?_some hfind
  simp only [Bool.and_eq_true, beq_iff_eq] at htest
  obtain ⟨⟨hctx, -⟩, -⟩ := htest
  exact h g (List.mem_of_find?_eq_some hfind) hctx

/-- An access that no parity error hits goes on at once (R107). -/
theorem Dev.sqHit_sound {d : Dev} {k c ava : Nat} (h : ∀ g, d.sqcFind k c ava false = some g → g.bad = false) (bt l : Nat) :
    Dev.sqHit bt d k l c ava false = (true, d) := by
  rw [Dev.sqHit, if_neg Bool.false_ne_true, Dev.sqParity]
  split
  · rfl
  · next g hfind => rw [if_pos (by simp [h g hfind])]

/-- A load of a line in the cache, whose page is at rest, reads the line (R102). -/
theorem Dev.sqLoad_hit {d : Dev} {k c ava : Nat} {g : SqcLine} (hfind : d.sqcFind k c ava false = some g)
    (hmove : d.moving c ava = false) (l m n : Nat) :
    d.sqLoad k l m c ava n = (.data ((g.data.drop (ava % 64)).take n), d.noteIn l (g.dpa + ava % 64) n) := by
  simp [Dev.sqLoad, hfind, hmove]

/-- A writable page in HBM that is at rest takes a store (R108, R207). -/
theorem Dev.sqWriteReady_page {d : Dev} {k c ava : Nat} {p : Page} (hpage : d.scalarPage k c ava = (some p, d)) (hw : p.w = true)
    (hhbm : p.inDdr = false) (hmove : d.pageMove c p = none) (bt l m : Nat) :
    d.sqWriteReady bt k l m c ava = (.data [], some p, d) := by
  simp [Dev.sqWriteReady, hpage, hw, Dev.writeNeed, hmove, hhbm]

/-- A store to a WT-NC page goes to memory (R102). -/
theorem Dev.sqStore_uncached {bt k l m c ava : Nat} {p : Page} {d e : Dev}
    (hready : d.sqWriteReady bt k l m c ava = (.data [], some p, e)) (hcp : p.cp = 2) (bs : List Byte) :
    d.sqStore bt k l m c ava bs false =
      (.data [], (e.noteOut l (p.at_ ava % 2 ^ 48) bs.length).memPut (p.at_ ava % 2 ^ 48) bs) := by
  simp [Dev.sqStore, hready, hcp]

/-! ### Instructions that access memory -/

section Access

variable {s : State} {l m n a : Nat} {sg : Bool} {x : Launch} {y : Member} {w : Word} (hd : iD w.toNat < 32) (ha : iA w.toNat < 32)

section Form

variable (haddr : a = addOff (y.sget (iA w.toNat)) (iImm w.toNat)) (halign : a % n = 0)
include hd ha haddr halign

/-- SLD of a sound line in the cache writes what it holds to the register. -/
theorem Dev.sld_hit {g : SqcLine} (hat : ControlAt s l m x y 0x02 w) (hsize : scalarSize false (iSel w.toNat) = some (n, sg))
    (hfind : s.dev.sqcFind y.ce x.ctx a false = some g) (hgood : g.bad = false) (hmove : s.dev.moving x.ctx a = false) :
    s.dev.sld s.bt (.control l m) w false = ((s.dev.noteIn l (g.dpa + a % 64) n).sput l m (iD w.toNat)
      (loadVal n sg ((g.data.drop (a % 64)).take n))).retire s.bt l m ((y.pc + 8) % 2 ^ 64) := by
  have hsound : ∀ q, s.dev.sqcFind y.ce x.ctx a false = some q → q.bad = false := fun q hq => by
    cases hfind.symm.trans hq
    exact hgood
  rw [Dev.sld, controlRow_go hat]
  rw [memForm_eq hd ha hsize haddr halign, Dev.sqHit_sound hsound]
  simp only [Dev.sqLoad_hit hfind hmove, Dev.answer]

/-- SST to a WT-NC page that takes it writes its bytes to memory. -/
theorem Dev.sst_uncached {p : Page} {e : Dev} (hat : ControlAt s l m x y 0x03 w) (hsize : scalarSize true (iSel w.toNat) = some (n, sg))
    (hrun : x.shadowOf = none) (hsound : ∀ g, s.dev.sqcFind y.ce x.ctx a false = some g → g.bad = false)
    (hready : s.dev.sqWriteReady s.bt y.ce l m x.ctx a = (.data [], some p, e)) (hcp : p.cp = 2) :
    s.dev.sst s.bt (.control l m) w false = ((e.noteOut l (p.at_ a % 2 ^ 48) n).memPut (p.at_ a % 2 ^ 48)
      (leBytes n (y.sget (iD w.toNat)).toNat)).retire s.bt l m ((y.pc + 8) % 2 ^ 64) := by
  rw [Dev.sst, controlRow_go hat]
  rw [memForm_eq hd ha hsize haddr halign, Dev.sqHit_sound hsound]
  simp only [hrun, Option.isSome_none, Dev.sqStore_uncached hready hcp, Dev.answer, leBytes_length]

/-- SLDL within Local Store reads it. -/
theorem Dev.sldl_inRange (hat : ControlAt s l m x y 0x04 w) (hsize : scalarSize false (iSel w.toNat) = some (n, sg))
    (hend : a + n ≤ x.lsSize) :
    s.dev.sldl s.bt (.control l m) w =
      (s.dev.sput l m (iD w.toNat) (loadVal n sg (s.dev.lsRead y a n))).retire s.bt l m ((y.pc + 8) % 2 ^ 64) := by
  rw [Dev.sldl, controlRow_go hat]
  rw [memForm_eq hd ha hsize haddr halign, if_neg (by omega)]

/-- SSTL within Local Store writes it. -/
theorem Dev.sstl_inRange (hat : ControlAt s l m x y 0x05 w) (hsize : scalarSize true (iSel w.toNat) = some (n, sg))
    (hend : a + n ≤ x.lsSize) :
    s.dev.sstl s.bt (.control l m) w = (s.dev.lsPut y a n (y.sget (iD w.toNat)).toNat).retire s.bt l m ((y.pc + 8) % 2 ^ 64) := by
  rw [Dev.sstl, controlRow_go hat]
  rw [memForm_eq hd ha hsize haddr halign, if_neg (by omega)]

end Form

include hd ha in
/-- SAMO of eight bytes recalls their line, leaves the operation's result in memory, and answers the old value (R148, R150). -/
theorem Dev.samo_doubleword {at_ v : Nat} {p : Page} {d e : Dev} (hat : ControlAt s l m x y 0x06 w) (hb : iB w.toNat < 32)
    (hc : iC w.toNat < 32) (hwide : iFC w.toNat = 1) (hfn : iFN w.toNat < 10) (haddr : a = (y.sget (iA w.toNat)).toNat)
    (halign : a % 8 = 0) (hrun : x.shadowOf = none)
    (hready : s.dev.sqWriteReady s.bt y.ce l m x.ctx a = (.data [], some p, d)) (hat_ : at_ = p.at_ a % 2 ^ 48)
    (hsound : ∀ q ∈ (d.ce y.ce).sqc, q.ctx = x.ctx → q.ava = a / 64 * 64 → q.bad = false)
    (he : e = (d.sqcClean y.ce (fun q => q.ctx == x.ctx && q.ava == a / 64 * 64)).sqcDrop y.ce
      (fun q => q.ctx == x.ctx && q.ava == a / 64 * 64)) (hpoison : e.poisoned at_ 8 = false)
    (hv : amoOp (iFN w.toNat) 8 (memNat e.mem at_ 8) (y.sget (iB w.toNat)).toNat (y.sget (iC w.toNat)).toNat = some v) :
    s.dev.samo s.bt (.control l m) w = (((e.noteBoth l at_ 8).memPut at_ (leBytes 8 v)).sput l m (iD w.toNat)
      (BitVec.ofNat 64 (memNat e.mem at_ 8))).retire s.bt l m ((y.pc + 8) % 2 ^ 64) := by
  have hrecall : d.sqcRecall s.bt y.ce (some l) (fun q => q.ctx == x.ctx && q.ava == a / 64 * 64) = (true, e) := by
    rw [Dev.sqcRecall, Dev.badLines_none, he]
    intro q hq hline
    simp only [Bool.and_eq_true, beq_iff_eq] at hline
    exact hsound q hq hline.1 hline.2
  have hfields : (sOk [iD w.toNat, iA w.toNat, iB w.toNat] && decide (iFC w.toNat < 2) && decide (iFN w.toNat < 10) &&
      (iFN w.toNat != 9 || sOk [iC w.toNat])) = true := by
    simp [sOk, hd, ha, hb, hc, hwide, hfn]
  subst haddr
  rw [Dev.samo, controlRow_go hat]
  rw [legal_eq hfields]
  simp [-Nat.reducePow, hwide, halign, hready, hrecall, ← hat_, hpoison, hv, hrun, Nat.mod_eq_of_lt (BitVec.isLt _)]

end Access

end Sys2Proof.Machine
end

section
/-! SUPPORT. Every instruction of the control stream completes (R141, R147 to R150, R154 to R161, R164, R165). -/

namespace Sys2Proof.Machine

/-! ### Operands of DMA commands that are in order (R160) -/

/-- No entry of a list meets a test that fails at every index. -/
theorem any_entry_not {α : Type} {n : Nat} {f : Nat → α} {p : α → Bool} (h : ∀ i < n, p (f i) = false) :
    ¬((List.range n).map f).any p = true := by
  simpa using h

section Operands

variable {d : Dev} {x : Launch} {y : Member} {w : Nat}

/-- GET and PUT of one row. -/
theorem Dev.dmaExc_row {o : CmdOp} (ho : o = .get ∨ o = .put) (hrow : iTwoD w = false) (hrb : iRb w = false)
    (hlen : 0 < (y.sget (iSL w)).toNat) (hend : (y.sget (iSA w)).toNat + (y.sget (iSL w)).toNat ≤ 2 ^ 56)
    (hls : (y.sget (iSD w)).toNat + (y.sget (iSL w)).toNat ≤ x.lsSize) : d.dmaExc x y o w = none := by
  rcases ho with rfl | rfl
  all_goals
    simp only [Dev.dmaExc, hrow, hrb, Bool.false_eq_true, if_false]
    rw [if_neg (by omega), if_neg (by omega)]

/-- A list of extents whose entries are in order. -/
theorem Dev.listExc_none {at_ n total : Nat} (hn : 0 < n) (hmax : n ≤ 4096) (halign : at_ % 16 = 0) (hlist : at_ + 16 * n ≤ x.lsSize)
    (hentries : ∀ i < n, d.lsNat y (at_ + 16 * i + 12) 4 = 0 ∧ d.lsNat y (at_ + 16 * i + 8) 4 ≠ 0 ∧
      d.lsNat y (at_ + 16 * i) 8 + d.lsNat y (at_ + 16 * i + 8) 4 ≤ 2 ^ 56)
    (hls : total + ((List.range n).map (fun i => d.lsNat y (at_ + 16 * i + 8) 4)).sum ≤ x.lsSize) :
    d.listExc x y at_ n total = none := by
  rw [Dev.listExc, if_neg (by omega), if_neg (by omega), if_neg (by omega)]
  dsimp only
  rw [if_neg (any_entry_not fun i hi => ?reserved), if_neg (any_entry_not fun i hi => ?extent), List.map_map]
  · exact if_neg (Nat.not_lt.mpr hls)
  case reserved =>
    obtain ⟨hzero, -, -⟩ := hentries i hi
    simp [hzero]
  case extent =>
    obtain ⟨-, hlen, hend⟩ := hentries i hi
    simpa [hlen] using hend

/-- GATHER and SCATTER of a list in order. -/
theorem Dev.dmaExc_list {o : CmdOp} (ho : o = .gather ∨ o = .scatter) (hrb : iRb w = false)
    (hlist : d.listExc x y (y.sget (iSX w)).toNat (y.sget (iSL w)).toNat (y.sget (iSD w)).toNat = none) : d.dmaExc x y o w = none := by
  rcases ho with rfl | rfl
  all_goals simp only [Dev.dmaExc, hrb, Bool.false_eq_true, if_false, hlist]

/-- RED of whole elements. -/
theorem Dev.dmaExc_red {el : Nat} (hform : bits w 2 0 < 2) (hel : el = if bits w 2 0 = 0 then 32 else 4) (hrb : iRb w = false)
    (hlen : 0 < (y.sget (iSL w)).toNat) (hend : (y.sget (iSA w)).toNat + (y.sget (iSL w)).toNat ≤ 2 ^ 56)
    (hsd : (y.sget (iSD w)).toNat % el = 0) (hsa : (y.sget (iSA w)).toNat % el = 0) (hsl : (y.sget (iSL w)).toNat % el = 0)
    (hls : (y.sget (iSD w)).toNat + (y.sget (iSL w)).toNat ≤ x.lsSize) : d.dmaExc x y .red w = none := by
  subst hel
  have harg : ¬(iRb w = true ∨ (y.sget (iSL w)).toNat = 0 ∨ 2 ^ 56 < (y.sget (iSA w)).toNat + (y.sget (iSL w)).toNat) := by
    simp only [hrb, Bool.false_eq_true, false_or]
    omega
  simp only [Dev.dmaExc]
  rw [if_neg (by omega), if_neg harg, if_neg (by simp [hsd, hsa]), if_neg (by simp [hsl]), if_neg (by omega)]

/-- FILL of whole patterns. -/
theorem Dev.dmaExc_fill (hrb : iRb w = false) (hlen : 0 < (y.sget (iSL w)).toNat) (hmax : (y.sget (iSL w)).toNat ≤ 2 ^ 30)
    (hsl : (y.sget (iSL w)).toNat % 8 = 0) (hsa : (y.sget (iSA w)).toNat % 8 = 0)
    (hend : (y.sget (iSA w)).toNat + (y.sget (iSL w)).toNat ≤ 2 ^ 56) : d.dmaExc x y .fill w = none := by
  simp only [Dev.dmaExc, hrb, Bool.false_eq_true, false_or]
  rw [if_neg (by omega), if_neg (by omega)]

end Operands

/-- Settles O59: an instruction whose fields and operands are in order finds its operation listed and its checks passed, so it has the
effect that the statement of its kind (O17, O20, O21, O27, O28) gives it. -/
theorem controlStreamCompletes : Obligations.ControlStreamCompletes := by
  unfold Obligations.ControlStreamCompletes
  intro s l m w x y q hx hrun hy hend hwait hstall hfind hgood hword hres
  have hat : ∀ {op : Nat}, bits w.toNat 63 56 = op → controlOps.contains op = true → ControlAt s l m x y op w := fun hop hmem =>
    ⟨hx, hy, hrun, hend, by rw [hwait]; rfl, hstall, by rw [hfind, Option.map_some, hgood, hword], hmem, hop, hres⟩
  have hpage : ∀ {a : Nat} {p : Page}, a < 2 ^ 56 → tlbHit (s.dev.tlb (tlbCe y.ce)) x.ctx a = some p →
      s.dev.isLocal (s.dev.partOfCtx x.ctx) p.dpa = true → p.w = true → p.inDdr = false → s.dev.pageMove x.ctx p = none →
      s.dev.sqWriteReady s.bt y.ce l m x.ctx a = (.data [], some p, s.dev) := fun hava hhit hlocal hw hhbm hmove =>
    Dev.sqWriteReady_page (Dev.scalarPage_hit hava hhit hlocal) hw hhbm hmove _ _ _
  obtain ⟨hsop, hsopi, -, hsbr, hsjal, hsjr, -⟩ := scalarInstructions
  obtain ⟨hvrun, hvwait, hgbar, -, -, hendMember, hwaitq, -, htwait, -, hfence, hcinv, hfstat, -, hbtrd, hbtwait⟩ := waitInstructions
  obtain ⟨hsignal, -⟩ := signalInstructions
  obtain ⟨htbind, -, -, hmma, -, htrd, hcbld⟩ := tensorInstructions
  obtain ⟨hget, hput, hgather, hscatter, hred, hfill, hkvg, hkva, hxdisp, hlchk, -⟩ := commandIssue s l m x y w
  refine ⟨?sop, ?sopi, ?sld, ?sst, ?sldl, ?sstl, ?samo, ?sbr, ?sjal, ?sjr, ?vrun, ?vwait, ?gbar, ?end_, ?waitq, ?twait, ?fence, ?cinv,
    ?fstat, ?btrd, ?btwait, ?signal, ?tbind, ?mma, ?trd, ?cbld, ?row, ?list, ?red, ?fill, ?kvg, ?kva, ?xdisp, ?lchk⟩
  case sop =>
    intro hop hd ha hb hfn
    obtain ⟨v, hv⟩ := Option.isSome_iff_exists.mp (scalarOp_isSome hfn (y.sget (iA w.toNat)) (y.sget (iB w.toNat)))
    exact ⟨v, hv, hsop s l m x y w v (hat hop rfl) hd ha hb hv⟩
  case sopi =>
    intro hop hd ha hfn
    obtain ⟨v, hv⟩ := Option.isSome_iff_exists.mp (scalarOpI_isSome hfn (y.sget (iA w.toNat)) (bits w.toNat 31 0))
    exact ⟨v, hv, hsopi s l m x y w v (hat hop rfl) hd ha hv⟩
  case sld =>
    intro n sg a g hop hd ha hsize haddr halign hline hsound hmove
    rw [exec_sld, execSld, onDev_eq, Dev.sld_hit hd ha haddr halign (hat hop rfl) hsize hline hsound hmove, State.goes]
  case sst =>
    rintro n sg a p z hop hd ha hsize haddr halign hrun hsound hava hhit hlocal hw hhbm hcp hmove rfl
    rw [exec_sst, execSst, onDev_eq, Dev.sst_uncached hd ha haddr halign (hat hop rfl) hsize hrun (fun g hg => Dev.sqcSound_find hsound hg)
      (hpage hava hhit hlocal hw hhbm hmove) hcp, State.goes]
  case sldl =>
    intro n sg a hop hd ha hsize haddr halign hin
    rw [exec_sldl, execSldl, onDev_eq, Dev.sldl_inRange hd ha haddr halign (hat hop rfl) hsize hin, State.goes]
  case sstl =>
    intro n sg a hop hd ha hsize haddr halign hin
    rw [exec_sstl, execSstl, onDev_eq, Dev.sstl_inRange hd ha haddr halign (hat hop rfl) hsize hin, State.goes]
  case samo =>
    intro a p z d hop hd ha hb hc hwide hfn haddr halign hrun hsound hava hhit hlocal hw hhbm hmove hz he hpoison
    obtain ⟨v, hv⟩ := Option.isSome_iff_exists.mp (amoOp_isSome hfn 8 (memNat d.mem z 8) (y.sget (iB w.toNat)).toNat
      (y.sget (iC w.toNat)).toNat)
    refine ⟨v, hv, ?_⟩
    rw [exec_samo, execSamo, onDev_eq, Dev.samo_doubleword hd ha (hat hop rfl) hb hc hwide hfn haddr halign hrun
      (hpage hava hhit hlocal hw hhbm hmove) hz (fun g hg hctx _ => hsound g hg hctx) he hpoison hv, State.goes]
  case sbr =>
    intro hop ha hb hsel
    obtain ⟨b, hb'⟩ := Option.isSome_iff_exists.mp (scalarCond_isSome hsel (y.sget (brA w.toNat)) (y.sget (brB w.toNat)))
    exact ⟨b, hb', hsbr s l m x y w b (hat hop rfl) ha hb hb'⟩
  case sjal => exact fun hop hd => hsjal s l m x y w (hat hop rfl) hd
  case sjr => exact fun hop hd ha halign => hsjr s l m x y w (hat hop rfl) hd ha halign
  case vrun => exact fun a hop ha haddr halign hin hdone => hvrun s l m x y w a (hat hop rfl) ha haddr halign hin hdone
  case vwait =>
    intro hop hdone
    rw [hvwait s l m x y w (hat hop rfl), if_pos hdone, State.goes]
  case gbar => exact fun hop hcmds hsound => hgbar s l m x y w (hat hop rfl) hcmds hsound
  case end_ => exact fun hop hcmds hdone => hendMember s l m x y w (hat hop rfl) hcmds hdone
  case waitq => exact fun hop ha hfn hgiven hcmds => hwaitq s l m x y w _ (hat hop rfl) ha hfn rfl hgiven hcmds
  case twait => exact fun hop hfn => htwait s l m x y w (hat hop rfl) hfn
  case fence => exact fun hop hlo hhi hcmds hdone hsound => hfence s l m x y w (hat hop rfl) hlo hhi hcmds hdone hsound
  case cinv =>
    exact fun lo n hit d hop ha hb hfn hsound hlo hn hhit hd => hcinv s l m lo n x y w hit d (hat hop rfl) ha hb hfn hsound hlo hn hhit hd
  case fstat =>
    intro hop hd hfn hread hdone
    rw [hfstat s l m x y w (hat hop rfl) hd (by omega) hread hdone, if_neg (by omega), State.goes]
  case btrd => exact fun hop hd => hbtrd s l m x y w (hat hop rfl) hd
  case btwait =>
    intro hop ha hpast
    rw [hbtwait s l m x y w (hat hop rfl) ha, if_pos hpast, State.goes]
  case signal =>
    intro n k tag d hop ha hb hc hfn hcmds hsound hd hn hin hpoison htarget hctx hst hadmin hrun hroom
    exact hsignal s l m n k tag x y w d (hat hop rfl) ha hb hc hfn hcmds hsound hd hn hin hpoison htarget hctx hst hadmin hrun hroom
  case tbind => exact fun a hop hreg haddr halign hin hdesc => htbind s l m a x y w _ (hat hop rfl) hreg haddr halign hin hdesc rfl
  case mma => exact fun ta tb e hop he howner hta htb hexc => hmma s l m x y w ta tb e (hat hop rfl) he howner hta htb hexc
  case trd =>
    intro t e d rows hop he howner htd hsrc hrelease hclear hsr hexc hrows hd
    rw [htrd s l m x y w t e d rows (hat hop rfl) he howner htd hsrc hsr hexc hrows hd, if_neg (by simp [hrelease]),
      if_neg (by simp [hclear]), State.goes]
  case cbld =>
    exact fun a n hop hreg hslot hlt howner haddr halign hin => hcbld s l m a n x y w (hat hop rfl) hreg hslot hlt howner haddr halign hin
  case row =>
    rintro sd sa sl rfl rfl rfl hlen hlast hls hone hrb
    exact ⟨fun hop hfields => hget (hat hop rfl) hfields (Dev.dmaExc_row (.inl rfl) hone hrb hlen hlast hls),
      fun hop hfields => hput (hat hop rfl) hfields (Dev.dmaExc_row (.inr rfl) hone hrb hlen hlast hls)⟩
  case list =>
    rintro at_ n rfl rfl hn hmax halign hin hrb hentries hls
    have hlist := Dev.listExc_none hn hmax halign hin hentries hls
    exact ⟨fun hop hfields => hgather (hat hop rfl) hfields (Dev.dmaExc_list (.inl rfl) hrb hlist),
      fun hop hfields => hscatter (hat hop rfl) hfields (Dev.dmaExc_list (.inr rfl) hrb hlist)⟩
  case red =>
    rintro sd sa sl el hop hfields hform hel rfl rfl rfl hrb hlen hlast hsd hsa hsl hls
    exact hred (hat hop rfl) hfields (Dev.dmaExc_red hform hel hrb hlen hlast hsd hsa hsl hls)
  case fill =>
    rintro sa sl hop hfields rfl rfl hrb hlen hmax hsl hsa hlast
    exact hfill (hat hop rfl) hfields (Dev.dmaExc_fill hrb hlen hmax hsl hsa hlast)
  case kvg => exact fun hop hfields hexc => hkvg (hat hop rfl) hfields hexc
  case kva => exact fun hop hfields hexc => hkva (hat hop rfl) hfields hexc
  case xdisp => exact fun hop hfields hexc => hxdisp (hat hop rfl) hfields hexc
  case lchk => exact fun hop hfields hexc => hlchk (hat hop rfl) hfields hexc

end Sys2Proof.Machine
end

section
/-! SUPPORT. Requests of the promotion engine: page moves, windows, held ranges and page pools (R199, R201, R207 to R210, R220, R221,
R223). -/

namespace Sys2Proof.Machine

/-! ### Dispatch (R220, R223) -/

section Dispatch

variable {s : State} {k op c : Nat} {r : Desc} {d : Dev} (hreq : RequestAt s k 5 op r c d)
include hreq

/-- An enabled promotion engine serves a tier request for its context and partition. -/
theorem tierReq_enabled (hon : d.fon F.prtPromCtrlEnable (d.partOfCtx c) = true) (f : Desc → Nat → Nat → Dev → Dev) :
    s.dev.tierReq s.bt k op f = f r c (d.partOfCtx c) d := by
  rw [Dev.tierReq, dispatchCtx_eq hreq, if_pos hon]

/-- While ENABLE is 0 the request completes with RANGE, whatever it asks. -/
theorem tierReq_disabled (hoff : d.fon F.prtPromCtrlEnable (d.partOfCtx c) = false) (f : Desc → Nat → Nat → Dev → Dev) :
    s.dev.tierReq s.bt k op f = d.finish s.bt r .range := by
  rw [Dev.tierReq, dispatchCtx_eq hreq, if_neg (by rw [hoff]; exact Bool.false_ne_true)]

/-- A request on a window of its own context has its effect there. -/
theorem winReq_own {x : Win} (hon : d.fon F.prtPromCtrlEnable (d.partOfCtx c) = true)
    (hwin : d.win? (d.partOfCtx c) (r.at_ 2 2) = some x) (hown : x.ctx = c) (f : Desc → Nat → Nat → Win → Dev → Dev) :
    s.dev.winReq s.bt k op f = f r (d.partOfCtx c) (r.at_ 2 2) x d := by
  rw [Dev.winReq, tierReq_enabled hreq hon, hwin]
  exact if_pos hown

end Dispatch

/-! ### PROMOTE and DEMOTE (R201, R207, R220) -/

/-- With no move in the queue no page is moving. -/
theorem Dev.isMoving_of_no_moves {d : Dev} (h : d.tier.moves = []) (c ava : Nat) : d.isMoving c ava = false := by
  rw [Dev.isMoving, h, List.any_nil]

theorem Dev.pageMove_of_no_moves {d : Dev} (h : d.tier.moves = []) (c : Nat) (p : Page) : d.pageMove c p = none := by
  rw [Dev.pageMove, h, List.find?_nil]

/-- PROMOTE or DEMOTE of pages that all may move, all lie in the other tier and are in no move yet: either the moves of all of them
start and the request waits for them, or none does and it completes with QUOTA. -/
theorem promoteReq_still {s : State} {k c : Nat} {up : Bool} {r : Desc} {d e' : Dev} {ps : List Page} {cls : MoveCls} {o : Option Dev}
    (hreq : RequestAt s k 5 (if up then 1 else 2) r c d) (hon : d.fon F.prtPromCtrlEnable (d.partOfCtx c) = true)
    (hrange : rangeOk (r.at_ 8 8) (r.at_ 16 8) = true)
    (hpages : d.pagesOf c (r.at_ 16 8 / 65536) (r.at_ 8 8) (r.at_ 16 8) = some ps) (hne : ps ≠ [])
    (hcls : (if up && !bit (r.at_ 1 1) 0 then MoveCls.demand else .background) = cls)
    (hmay : ∀ p ∈ ps, (p.movable && (up || !p.w)) = true) (hfar : ∀ p ∈ ps, p.inDdr = up) (hstill : d.tier.moves = [])
    (hstart : Dev.startPages s.bt d.tier.nextMove c up cls
      (d.modTier (fun z => { z with nextMove := d.tier.nextMove + 1 })) ps = (o, e')) :
    s.dev.promoteReq s.bt k up = o.elim (e'.finish s.bt r .quota) (fun e => e.modTier (fun z => { z with
      reqs := z.reqs ++ [{ pair := r.pair, tag := r.tag, ctx := c, up, cls
                           left := ps.map (fun p => p.ava), id := d.tier.nextMove }] })) := by
  have hall : ps.all (fun p => p.movable && (up || !p.w)) = true := List.all_eq_true.mpr hmay
  have hleft : ps.filter (fun p => p.inDdr == up || d.isMoving c p.ava) = ps :=
    List.filter_eq_self.mpr (fun p hp => by simp [hfar p hp])
  have hidle : ps.filter (fun p => !d.isMoving c p.ava) = ps :=
    List.filter_eq_self.mpr (fun p _ => by simp [Dev.isMoving_of_no_moves hstill])
  rw [Dev.promoteReq, tierReq_enabled hreq hon]
  simp only [hrange, if_true, hpages, hall, hleft, hidle, hcls, if_neg hne]
  rw [List.foldl_fixed' ?fixed ps, hstart]
  case fixed => exact fun p => by simp only [Dev.pageMove_of_no_moves hstill]
  cases o <;> rfl

/-! ### Windows (R208 to R210, R218, R220) -/

/-- A window whose entries are all IDLE or FAILED, with no ARM waiting, clears without a page to move down. -/
theorem windowClear_quiet {s : State} {k c : Nat} {r : Desc} {d : Dev} {x : Win} (hreq : RequestAt s k 5 5 r c d)
    (hon : d.fon F.prtPromCtrlEnable (d.partOfCtx c) = true) (hwin : d.win? (d.partOfCtx c) (r.at_ 2 2) = some x) (hown : x.ctx = c)
    (hclear : x.clearing = none) (harms : x.arms = []) (hquiet : ∀ y ∈ x.ents, y.st = .idle ∨ y.st = .failed) :
    s.dev.windowClear s.bt k = ((d.disarmWin (d.partOfCtx c) (r.at_ 2 2) x.ents.length).modWin (winKey (d.partOfCtx c) (r.at_ 2 2))
      (fun x => { x with base := none, next := none, arms := [], clearing := some (r.pair, r.tag) })).settleWin s.bt
        (winKey (d.partOfCtx c) (r.at_ 2 2)) := by
  rw [Dev.windowClear, winReq_own hreq hon hwin hown, if_neg (by simp [hclear])]
  simp only [harms, List.foldl_nil]
  congr 1
  refine List.foldlRecOn (motive := fun e : Dev => e = _) _ _ rfl (fun e he p hp => ?_)
  rw [if_pos (hquiet p.1 (List.fst_mem_of_mem_zipIdx hp)), he]

/-- Settles O30: each request is dispatched to the enabled engine, and what it names decides the branch it takes. -/
theorem tierRequests : Obligations.TierRequests := by
  unfold Obligations.TierRequests
  simp only [exec_promote, execPromote, exec_demote, execDemote, exec_windowSet, execWindowSet, exec_windowArm, execWindowArm,
    exec_windowClear, execWindowClear, exec_entryReset, execEntryReset, exec_tierQuery, execTierQuery, exec_moveHold, execMoveHold,
    exec_moveRelease, execMoveRelease, exec_pagePoolGrow, execPagePoolGrow, exec_pagePoolShrink, execPagePoolShrink, onDev_eq]
  refine ⟨?promote, ?demote, ?quota, ?disabled, ?set, ?arm, ?clear, ?reset, ?query, ?hold, ?release, ?grow, ?shrink⟩
  case promote =>
    intro s k c r d e e' ps hreq hon hrange hpages hne hcls hps hstill hstart
    rw [promoteReq_still (up := true) hreq hon hrange hpages hne (by rw [hcls]; rfl) (fun p hp => by rw [(hps p hp).1]; rfl)
      (fun p hp => (hps p hp).2) hstill hstart]
    rfl
  case demote =>
    intro s k c r d e e' ps hreq hon hrange hpages hne hps hstill hstart
    rw [promoteReq_still (up := false) hreq hon hrange hpages hne rfl (fun p hp => ?_) (fun p hp => ?_) hstill hstart]
    · rfl
    all_goals
      obtain ⟨hmovable, hread, hhbm⟩ := hps p hp
    · rw [hmovable, hread]; rfl
    · exact hhbm
  case quota =>
    intro s k c r d e ps hreq hon hrange hpages hne hcls hps hstill hstart
    rw [promoteReq_still (up := true) hreq hon hrange hpages hne (by rw [hcls]; rfl) (fun p hp => by rw [(hps p hp).1]; rfl)
      (fun p hp => (hps p hp).2) hstill hstart]
    rfl
  case disabled =>
    intro s k c r d hreq hoff
    rw [Dev.promoteReq, if_pos rfl, tierReq_disabled hreq hoff]
  case set =>
    rintro s k c a r d e w hreq rfl hon hparse hcharge
    rw [Dev.windowSet, tierReq_enabled hreq hon]
    simp only [hparse, hcharge]
  case arm =>
    rintro s k c a r d x hreq rfl hon hwin hown hclear
    rw [Dev.windowArm, winReq_own hreq hon hwin hown, if_neg (by simp [hclear])]
  case clear =>
    rintro s k c a w r d x hreq rfl rfl hon hwin hown hclear harms hquiet
    rw [windowClear_quiet hreq hon hwin hown hclear harms hquiet]
  case reset =>
    rintro s k c a r d x y ps hreq rfl hon hwin rfl hent hfailed hpages
    rw [Dev.entryReset, winReq_own hreq hon hwin rfl]
    simp only [hent, if_pos hfailed, hpages]
  case query =>
    intro s k c r d x hreq hhost hctx hlive hon hwin hown hwin'
    rw [Dev.tierQueryReq, withTarget_host hreq hhost hctx hlive (by simp only [hwin]; exact if_pos ⟨hown, hon⟩)]
    simp only [hwin']
  case hold =>
    rintro s k c a r d hreq rfl hon hrange hpages hfew hfree
    rw [Dev.moveHold, tierReq_enabled hreq hon, if_pos ⟨hrange, hpages, hfew, by simp [hfree]⟩]
  case release =>
    intro s k c r d h hreq hon hfind hdone
    rw [Dev.moveRelease, tierReq_enabled hreq hon]
    simp only [hfind, hdone]
  case grow =>
    rintro s k c a p n r d hreq rfl rfl rfl hon hvalid halign htier hdpa hroom
    rw [Dev.pagePoolGrow, tierReq_enabled hreq hon, Dev.poolGrow_fits hvalid halign htier hdpa hroom]
  case shrink =>
    rintro s k c p r d hreq hhost hctx hlive hon rfl
    rw [Dev.poolShrinkReq, withTarget_host hreq hhost hctx hlive (if_pos hon)]

end Sys2Proof.Machine
end

section
/-! SUPPORT. Events of the promotion engine: passes of windows, entries that move, bursts, commits and wipes (R198, R199, R204 to R206,
R210 to R214, R217). -/

namespace Sys2Proof.Machine

variable {bt : Nat} {d : Dev}

/-! ### Passes and entries of a window (R210 to R213) -/

section Window

variable {a model : Nat} {x : Win} (hwin : d.win? a model = some x)
include hwin

/-- The oldest ARM whose base has come starts its pass and completes. -/
theorem Dev.passStart_arm {q : WArm} (hclear : x.clearing = none) (harm : x.arms.find? (fun r => decide (r.base ≤ bt)) = some q) :
    d.passStart bt a model = ((d.modWin (winKey a model) (fun x => { x with arms := x.arms.erase q })).startPass bt a model x
      q.base).complete bt q.pair q.tag .ok := by
  simp only [Dev.passStart, hwin, hclear, harm, Option.isSome_none, Bool.false_eq_true, if_false]

/-- Without an ARM the next periodic pass starts once its base has come. -/
theorem Dev.passStart_periodic {b : Nat} (hclear : x.clearing = none) (harms : x.arms = []) (hnext : x.next = some b) :
    d.passStart bt a model = if b ≤ bt then d.startPass bt a model x b else d := by
  simp only [Dev.passStart, hwin, hclear, harms, hnext, List.find?_nil, Option.isSome_none, Bool.false_eq_true, if_false]

variable {e : Nat} {y : WEnt} (hent : x.ent? e = some y)
include hent

section Base

variable {b : Nat} (hbase : x.base = some b)
include hbase

/-- The first entry in turn moves up once its START has come, if the budget has room for it. -/
theorem Dev.entryStart_turn (hdue : b + y.start * 1000 ≤ bt) (hclear : x.clearing = none)
    (hon : d.fon F.prtPromCtrlEnable a = true) (hfits : x.fits e y.len = true) (hwait : y.toStart = true) (hfirst : x.first = some e) :
    d.entryStart bt a model e = ((d.modEnt (winKey a model) e (fun y => { y with
      st := if y.st = .late then .late else .promoting, started := true })).entUp bt x.ctx (winKey a model) e y.pages).entArrived bt
        (winKey a model) e := by
  simp only [Dev.entryStart, hwin, hent, hbase]
  rw [if_pos ⟨hdue, hclear, hon, hfits⟩, if_pos ⟨hwait, hfirst⟩]

/-- Before its START an entry stays as it is. -/
theorem Dev.entryStart_early (hearly : bt < b + y.start * 1000) : d.entryStart bt a model e = d := by
  simp only [Dev.entryStart, hwin, hent, hbase]
  exact if_neg (fun h => Nat.not_le.mpr hearly h.1)

/-- A RESIDENT entry whose LEAVE time has come begins to move down. -/
theorem Dev.entryLeave_due (hst : y.st = .resident) (hleaves : y.leave ≠ 0xFFFFFFFF) (hdue : b + y.leave * 1000 ≤ bt) :
    d.entryLeave bt a model e = d.entLeave bt x.ctx (winKey a model) e y := by
  simp only [Dev.entryLeave, hwin, hent, hbase]
  exact if_pos ⟨hst, hleaves, hdue⟩

end Base

/-- An entry still WAITING or PROMOTING when its deadline fires is LATE, and is counted. -/
theorem Dev.deadline_missed {d₀ : Dev} (hfire : d₀.fire bt a (.promo a model e) = some d)
    (hst : y.st = .waiting ∨ y.st = .promoting) :
    d₀.deadline bt a model e =
      (d.modEnt (winKey a model) e (fun y => { y with st := .late })).fbump F.prtPromStat1LateEntries a 1 := by
  simp only [Dev.deadline, hfire, hwin, hent]
  exact if_pos hst

end Window

/-! ### Movers (R204 to R206) -/

/-- A mover makes a burst of a page move that has begun; the waiting time of its request starts again. -/
theorem Dev.moverBurst_page {die n c ava leaf : Nat} {m : Move} (hnext : d.nextBurst die = some (n, m)) (hobj : m.obj = .page c ava leaf)
    (hurgent : m.urgent = false) (hbegun : m.begun = true) :
    d.moverBurst bt die = ((d.fbump (if m.up then F.prtPromStat0UpBursts else F.prtPromStat0DownBursts) m.part 1).modMove n (fun m =>
      { m with begun := true, moved := min m.len (m.moved + 2 ^ 18) })).modTier (fun z => { z with
        moves := mapAll z.moves (fun _ x => if x.req = m.req then { x with since := bt, urgent := false } else x) }) := by
  have hbegin : d.beginMove bt n m = (true, d) := if_pos hbegun
  have htiers : m.tiers = true := by rw [Move.tiers, hobj]
  simp only [Dev.moverBurst, hnext, hbegin, htiers, hurgent, Bool.false_eq_true, if_true, if_false]

/-- A mover with no move to serve makes none. -/
theorem Dev.moverBurst_idle {die : Nat} (hnext : d.nextBurst die = none) : d.moverBurst bt die = d := by
  simp only [Dev.moverBurst, hnext]

section Queued

variable {n : Nat} {m : Move} (hm : mapFind? d.tier.moves n = some m)
include hm

/-- The background moves of a request that has waited beyond the horizon become urgent. -/
theorem Dev.starve_waited (hcls : m.cls = .background) (hleft : m.moved < m.len)
    (hlong : m.since + d.fget F.prtPromAgeHorizonUs m.part * 1000 < bt) :
    d.starve bt n = d.modTier (fun z => { z with moves := mapAll z.moves (fun _ x =>
      if x.req = m.req ∧ x.cls = .background then { x with urgent := true } else x) }) := by
  simp only [Dev.starve, hm]
  exact if_pos ⟨hcls, hleft, hlong⟩

/-- A page move whose bursts are all made commits (R198). -/
theorem Dev.moveCommit_page {c ava leaf : Nat} (hobj : m.obj = .page c ava leaf) (hbegun : m.begun = true) (hall : m.moved = m.len) :
    d.moveCommit bt n = d.commitPage bt n m c ava leaf := by
  simp only [Dev.moveCommit, hm, hobj]
  exact if_pos ⟨hbegun, hall⟩

end Queued

/-- The wipe of a frame that needs no mover ends when Tour may wipe it, and pages of windows that wait for a frame take one (R199, R212,
R297). -/
theorem Dev.wipeDone_noMove {x : Nat} {w : Wipe} (hw : mapFind? d.tier.wipes x = some w) (hmay : d.wipeMay w.frame = true)
    (hmove : d.wipeMove x = none) : d.wipeDone bt x = (d.endWipe bt x w).stockWindows w.part := by
  simp only [Dev.wipeDone, hw, hmay, hmove, if_true]

/-- Settles O31: each event finds its window, move or wipe and takes the branch that its time and state name. -/
theorem tierEvents : Obligations.TierEvents := by
  unfold Obligations.TierEvents
  simp only [exec_windowPassStart, execWindowPassStart, exec_windowEntryStart, execWindowEntryStart, exec_windowEntryLeave,
    execWindowEntryLeave, exec_promotionDeadline, execPromotionDeadline, exec_moverBurst, execMoverBurst, exec_starvationHorizon,
    execStarvationHorizon, exec_moveCommit, execMoveCommit, exec_wipeDone, execWipeDone, onDev_eq]
  refine ⟨?arm, ?periodic, ?start, ?early, ?leave, ?late, ?burst, ?idle, ?starved, ?commit, ?wiped⟩
  case arm =>
    intro s a model x q hwin hclear harm
    rw [Dev.passStart_arm hwin hclear harm]
  case periodic =>
    intro s a model b x hwin hclear harms hnext
    rw [Dev.passStart_periodic hwin hclear harms hnext]
  case start =>
    intro s a model e b x y hwin hent hbase hdue hclear hon hfits hst hfirst
    rw [Dev.entryStart_turn hwin hent hbase hdue hclear hon hfits (by simp [WEnt.toStart, hst]) hfirst]
  case early =>
    intro s a model e b x y hwin hent hbase hearly
    rw [Dev.entryStart_early hwin hent hbase hearly]
  case leave =>
    intro s a model e b x y hwin hent hbase hst hleaves hdue
    rw [Dev.entryLeave_due hwin hent hbase hst hleaves hdue, Dev.entLeave]
  case late =>
    intro s a model e d x y v hnext hev hrate hd hwin hent hst
    have hfire : s.dev.fire s.bt a (.promo a model e) = some d := by rw [← hev, Dev.fire_next hnext hrate, hd]
    rw [Dev.deadline_missed hwin hent hfire hst]
  case burst =>
    intro s die n c ava leaf m hnext hobj hurgent hbegun
    rw [Dev.moverBurst_page hnext hobj hurgent hbegun]
  case idle =>
    intro s die hnext
    rw [Dev.moverBurst_idle hnext]
  case starved =>
    intro s n m hm hcls hleft hlong
    rw [Dev.starve_waited hm hcls hleft hlong]
  case commit =>
    intro s n c ava leaf m hm hobj hbegun hall
    rw [Dev.moveCommit_page hm hobj hbegun hall]
  case wiped =>
    intro s x w hw hmay hmove
    rw [Dev.wipeDone_noMove hw hmay hmove]

end Sys2Proof.Machine
end

section
/-! SUPPORT. Calls of the core monitor (R224, R228, R234, R451). That a call returns behind its ECALL is log entry 81. -/

namespace Sys2Proof.Machine

variable {d : Dev} {h : Nat}

section Call

variable (hrun : d.runs h = true) (hmode : (d.hart h).mode = 1)
include hrun hmode

/-- A running hart in HS-mode has its call served. -/
theorem Dev.monitorCall_served (f : Dev → Word × Dev) : d.monitorCall h f = (f d).2.callResult h (f d).1 :=
  if_pos ⟨hrun, hmode⟩

/-- VERSION returns the interface version, and a function that R234 does not define NOT_SUPPORTED. -/
theorem Dev.versionCall_served {fn : Nat} (hfn : fn < 2 ∨ 6 < fn) : d.versionCall h fn = d.callResult h
    (if fn = 1 then BitVec.ofNat 64 (mapGet 0 d.cpx.fwiVer (d.partOfHart h)) else -3#64) := by
  rw [Dev.versionCall, if_neg (by omega), Dev.monitorCall_served hrun hmode, sbiNotSupported]

section Start

variable {t : Nat} (entry opq : Word)

section Stopped

variable {k : Nat} (ht : t < 96) (hpart : d.partOfHart t = d.partOfHart h) (hcore : d.coreOf t = some k)
  (hst : (d.core k).st = .stopped)
include ht hpart hcore hst

/-- A stopped hart of the partition starts at once in a powered cluster (R228). -/
theorem Dev.hartStartCall_on (hon : d.domOn (coreDomain k) = true) :
    d.hartStartCall h t entry opq = (d.startHart t entry (BitVec.ofNat 64 t) opq).callResult h 0#64 := by
  rw [Dev.hartStartCall, Dev.monitorCall_served hrun hmode, if_pos ⟨ht, hpart⟩]
  simp only [hcore, hst, ne_eq, not_true_eq_false, if_false, hon, if_true, sbiSuccess]

/-- In a gated cluster its start waits for the domain to rise (R451). -/
theorem Dev.hartStartCall_gated (hoff : d.domOn (coreDomain k) = false) :
    d.hartStartCall h t entry opq = ((d.modPow (fun z => { z with rising := listAdd z.rising (coreDomain k) })).modCpx
      (fun z => { z with starting := z.starting ++ [(t, entry, opq)] })).callResult h 0#64 := by
  rw [Dev.hartStartCall, Dev.monitorCall_served hrun hmode, if_pos ⟨ht, hpart⟩]
  simp only [hcore, hst, ne_eq, not_true_eq_false, if_false, hoff, Bool.false_eq_true, sbiSuccess]

end Stopped

/-- A hart of another partition is not started (R234). -/
theorem Dev.hartStartCall_foreign (hpart : d.partOfHart t ≠ d.partOfHart h) :
    d.hartStartCall h t entry opq = d.callResult h (-1#64) := by
  rw [Dev.hartStartCall, Dev.monitorCall_served hrun hmode, if_neg (fun hown => hpart hown.2), sbiInvalid]

end Start

/-- HART_STOP drains the caller's buffer and stops its core (R228, R254). -/
theorem Dev.hartStopCall_stops {k : Nat} (hcore : d.coreOf h = some k) (hst : ((d.drainStores h).core k).st = .running) :
    d.hartStopCall h = (d.drainStores h).setCore k { (d.drainStores h).core k with st := .stopped } := by
  rw [Dev.hartStopCall, if_pos ⟨hrun, hmode⟩, Dev.stopHart, hcore]
  exact if_pos hst

/-- CLUSTER_IDLE gates a cluster that may be gated, and answers CONFLICT for another (R451). -/
theorem Dev.clusterIdleCall_served {j : Nat} (hj : j < 13) : d.clusterIdleCall h j =
    if d.clusterIdle j then
      (d.modPow (fun z => { z with off := listAdd z.off (96 + j), rising := listDel z.rising (96 + j) })).callResult h 0#64
    else (d.refuse .pwrPark 0 true).callResult h (-2#64) := by
  rw [Dev.clusterIdleCall, Dev.monitorCall_served hrun hmode, if_neg (by omega)]
  split <;> rfl

end Call

/-- Settles O32: each call is served, and the target or the cluster that it names decides its branch. -/
theorem monitorCalls : Obligations.MonitorCalls := by
  unfold Obligations.MonitorCalls
  simp only [exec_fwiVersion, execFwiVersion, exec_hartStart, execHartStart, exec_hartStop, execHartStop, exec_hartLostEntry,
    execHartLostEntry, exec_logNotify, execLogNotify, exec_clusterIdle, execClusterIdle, onDev_eq]
  refine ⟨?version, ?unknown, ?start, ?gated, ?foreign, ?stop, ?lostEntry, ?notify, ?notifyForeign, ?idle, ?busy⟩
  case version =>
    intro s h hrun hmode
    rw [Dev.versionCall_served hrun hmode (.inl (by decide)), if_pos rfl]
  case unknown =>
    intro s h fn hrun hmode hfn
    rw [Dev.versionCall_served hrun hmode (by omega), if_neg (by omega)]
  case start =>
    intro s h t k entry opq hrun hmode ht hpart hcore hst hon
    rw [Dev.hartStartCall_on hrun hmode entry opq ht hpart hcore hst hon]
  case gated =>
    intro s h t k entry opq hrun hmode ht hpart hcore hst hoff
    rw [Dev.hartStartCall_gated hrun hmode entry opq ht hpart hcore hst hoff]
  case foreign =>
    intro s h t entry opq hrun hmode hpart
    rw [Dev.hartStartCall_foreign hrun hmode entry opq hpart]
  case stop =>
    intro s h k hrun hmode hcore hst
    rw [Dev.hartStopCall_stops hrun hmode hcore hst]
  case lostEntry =>
    intro s h entry hrun hmode
    rw [Dev.monitorCall_served hrun hmode, sbiSuccess]
  case notify =>
    intro s h t e hrun hmode ht hpart hlo hhi
    rw [Dev.monitorCall_served hrun hmode, if_pos ⟨ht, hpart, hlo, by omega⟩, sbiSuccess]
  case notifyForeign =>
    intro s h t e hrun hmode hpart
    rw [Dev.monitorCall_served hrun hmode, if_neg (fun hown => hpart hown.2.1), sbiInvalid]
  case idle =>
    intro s h j hrun hmode hj hidle
    rw [Dev.clusterIdleCall_served hrun hmode hj, if_pos hidle]
  case busy =>
    intro s h j hrun hmode hj hbusy
    rw [Dev.clusterIdleCall_served hrun hmode hj, if_neg (by simp [hbusy])]

end Sys2Proof.Machine
end

section
/-! SUPPORT. Fences, timeouts of register accesses and failing cores (R227, R228, R254 to R256, R412). That castling carries no state
beyond what the model names is log entry 82. -/

namespace Sys2Proof.Machine

variable {bt : Nat} {d : Dev} {h : Nat}

/-! ### Fences and timeouts (R254 to R256) -/

/-- A block that does not answer acknowledges no store (R255). -/
theorem Dev.acknowledge_dead
    (hdead : ∀ r ∈ (d.hart h).regStores, d.deadPlace (d.partOfHart h) (spacePlace d.layout (r.addr - regBase)) = true) :
    d.acknowledge bt h = d := by
  refine List.foldlRecOn (motive := fun e : Dev => e = d) _ _ rfl (fun e he r hr => ?_)
  subst he
  exact if_pos (hdead r hr)

section Running

variable (hrun : d.runs h = true)
include hrun

/-- A fence drains the buffer, and passes unless a register store is still outstanding. -/
theorem Dev.coreFence_drains {e : Dev} (hto : (d.hart h).timedOut = []) (he : (d.drainStores h).acknowledge bt h = e) :
    d.coreFence bt h none = if (e.hart h).regStores = [] then e.modHart h (fun x => { x with pc := x.pc + 4#64 }) else e := by
  subst he
  simp only [Dev.coreFence, if_pos hrun, hto]

/-- A register store that timed out raises its fault on the fence. -/
theorem Dev.coreFence_timedOut {t : Nat} {l : List Nat} (hto : (d.hart h).timedOut = t :: l) :
    d.coreFence bt h none = (d.drainStores h).modHart h (fun x => x.trapped 7 t) := by
  simp only [Dev.coreFence, if_pos hrun, hto, Dev.coreTrap]

/-- A register load that has waited 100 µs takes its access fault. -/
theorem Dev.accessTimeout_load {a t : Nat} (hload : (d.hart h).regLoad = some (a, t)) (hlate : t + 100000 ≤ bt) :
    d.accessTimeout bt h a true = (d.tlogX bt 1 (Config.logCode 41).toNat (Config.logSev 41).val (some (d.partOfHart h)) h 0 a 0
      [1]).coreTrap h 5 a := by
  have hdue : (d.hart h).regLoad.any (fun s => s.1 == a && decide (s.2 + 100000 ≤ bt)) = true := by simp [hload, hlate]
  simp only [Dev.accessTimeout, if_pos hrun, if_true, hdue, b2n]

/-- A register store that has waited 100 µs is dropped, and its fault is noted for the next fence. -/
theorem Dev.accessTimeout_store {a : Nat} {r : RegStore}
    (hstore : (d.hart h).regStores.find? (fun s => s.addr == a && decide (s.bt + 100000 ≤ bt)) = some r) :
    d.accessTimeout bt h a false = (d.tlogX bt 1 (Config.logCode 41).toNat (Config.logSev 41).val (some (d.partOfHart h)) h 0 a 0
      [0]).modHart h (fun x => { x with regStores := x.regStores.erase r, timedOut := x.timedOut ++ [a] }) := by
  simp only [Dev.accessTimeout, if_pos hrun, Bool.false_eq_true, if_false, hstore, b2n]

end Running

/-! ### Failing cores (R227, R228, R412) -/

section Failing

variable {k : Nat} (hlog : (d.core k).logical = some h)
include hlog

/-- A running core that fails is recorded, and is castled if it can enter M-mode; else it waits for HART_LOST. -/
theorem Dev.coreFailing_running {e : Dev} (hst : (d.core k).st = .running)
    (he : e = (d.resLog bt 0x05 2 (some (d.partOfHart h)) 0xFFFF [0, 0, bt, 0]).histAdd bt 1 2 10 k) (entersM : Bool) :
    d.coreFailing bt k entersM =
      if entersM then e.castleCore bt k else e.modCpx (fun z => { z with failing := listAdd z.failing k }) := by
  subst he
  simp only [Dev.coreFailing, hlog, if_pos hst]

/-- Hart `h` of the partition at die `a` once its lost core's number has moved, if a spare took it: it starts at the registered entry
with `a0` its number, or stays stopped (R228). -/
def Dev.restarted (a h : Nat) : Option Nat × Dev → Dev
  | (some _, d) => match mapFind? d.cpx.lostEntry a with
    | some e => d.startHart h (BitVec.ofNat 64 e) (BitVec.ofNat 64 h) 0#64
    | none => d
  | (none, d) => d

/-- The loss of a hart that is not its partition's boot hart moves its number, starts it again where it may, and tells the boot hart. -/
theorem Dev.hartLost_tells {a b : Nat} {d₀ e : Dev} (hfail : d.cpx.failing.contains k = true) (ha : a = d.partOfHart h)
    (hboot : d.bootHart a = some b) (hne : b ≠ h) (hd₀ : d₀ = d.modCpx (fun z => { z with failing := listDel z.failing k }))
    (he : e = (d₀.setHart h {}).setCore k { d₀.core k with st := .stopped }) :
    d.hartLost bt k = (Dev.restarted a h ((e.tlog bt 1 40 (some a) h).moveCore bt k h)).sendMsi a b 0
      (Config.hartLostIdentity.val + 1) := by
  subst ha hd₀ he
  simp only [Dev.hartLost, hlog, hfail, if_true, hboot, Option.some.injEq, hne, if_false]
  rfl

end Failing

/-- Settles O33: what is outstanding decides the fence and the timeout; the spare and the registered entry decide the loss. -/
theorem coreFailures : Obligations.CoreFailures := by
  unfold Obligations.CoreFailures
  simp only [exec_coreFence, execCoreFence, exec_registerAccessTimeout, execRegisterAccessTimeout, exec_architecturalRegisterError,
    execArchitecturalRegisterError, exec_coreRetireWatchdog, execCoreRetireWatchdog, exec_hartLost, execHartLost, onDev_eq]
  refine ⟨?pass, ?wait, ?fault, ?load, ?store, ?failing, ?entry, ?noEntry, ?noSpare⟩
  case pass =>
    intro s h hrun hto hnone
    rw [Dev.coreFence_drains hrun hto (Dev.acknowledge_dead (by simp [hnone])), if_pos hnone]
  case wait =>
    intro s h hrun hto hsome hdead
    rw [Dev.coreFence_drains hrun hto (Dev.acknowledge_dead hdead), if_neg hsome]
  case fault =>
    intro s h t l hrun hto
    rw [Dev.coreFence_timedOut hrun hto]
  case load =>
    intro s h a t hrun hload hlate
    rw [Dev.accessTimeout_load hrun hload hlate]
  case store =>
    intro s h a r hrun hstore
    rw [Dev.accessTimeout_store hrun hstore]
  case failing =>
    intro s k h d hlog hst hd
    simp only [Dev.coreFailing_running hlog hst hd, if_true, Bool.false_eq_true, if_false, and_self]
  case entry =>
    intro s k h a j b e d₀ d d' hlog hfail ha hboot hne hd₀ hd hmove hentry
    rw [Dev.hartLost_tells hlog hfail ha hboot hne hd₀ hd, hmove, Dev.restarted, hentry]
  case noEntry =>
    intro s k h a j b d₀ d d' hlog hfail ha hboot hne hd₀ hd hmove hentry
    rw [Dev.hartLost_tells hlog hfail ha hboot hne hd₀ hd, hmove, Dev.restarted, hentry]
  case noSpare =>
    intro s k h a b d₀ d d' hlog hfail ha hboot hne hd₀ hd hmove
    rw [Dev.hartLost_tells hlog hfail ha hboot hne hd₀ hd, hmove, Dev.restarted]

end Sys2Proof.Machine
end

section
/-! SUPPORT. Resident operating systems: their load, check and start, and the writes of the boot flash (R232, R387, R391, R398, R404). -/

namespace Sys2Proof.Machine

variable {bt : Nat} {d : Dev}

/-! ### An OS load (R232, R404) -/

section Load

variable {q a : Nat} {v : Word}

/-- A GO for a partition bound to the port is accepted while firmware runs with memory ready, unless the partition loads or runs an OS, a
reset of it or of the device runs, or it is being cleared. -/
theorem Dev.bootVerdict_os (hgo : bit v.toNat 0 = true) (htarget : bits v.toNat 2 1 = 2) (hport : d.mgmtPort q = true)
    (hpart : partAt d.layout (bits v.toNat 10 8) = some a) (hbound : d.boundTo q a = true) (hload : mapHas d.sec.osLoads a = false)
    (hos : d.sec.osRuns.contains a = false) (hst : d.fget F.secBootStatusState q = 5) (hmem : d.sec.memReady = true)
    (hquiet : d.quiet a = false) (hclear : d.res.clearing.contains a = false) : d.bootVerdict q v = .ok := by
  simp only [Dev.bootVerdict, hgo, not_true_eq_false, if_false, hport, htarget, hpart, hbound, hload, hos, hst, hmem, hquiet, hclear]
  rfl

/-- An accepted one begins the load of the partition that the layout gives. -/
theorem Dev.bootCmdWrite_os {p : Party} {table : Option Handoff} {image : List Byte} {e : Dev}
    (hok : d.writeOk p .secBootCmd q v = true) (hverdict : d.bootVerdict q v = .ok) (hgo : bit v.toNat 0 = true)
    (htarget : bits v.toNat 2 1 = 2) (he : e = d.setReg .secBootCmd q (d.afterWrite p .secBootCmd q v))
    (hpart : partAt e.layout (bits v.toNat 10 8) = some a) : d.bootCmdWrite p q v table image = e.loadOs q a table image := by
  subst he
  rw [Dev.bootCmdWrite, hverdict, Dev.regWrite_ok d p _ _ v _ hok]
  simp only [hgo, not_true_eq_false, if_false, htarget, hpart]

/-- The load of a bundle copies the image to LOAD_OFF when its table is valid for it, and ends with ERR 10 when it is not. -/
theorem Dev.loadOs_bundle {n : Nat} (hn : n = d.fget F.secBootLenBytes q - 17176) (t : Handoff) (image : List Byte) :
    d.loadOs q a (some t) image = if d.tableOk a n t ∧ image.length = n then
      (d.modSec (fun z => { z with osLoads := mapPut z.osLoads a { port := q, table := t } })).memPut (osBase a t) image
    else (d.noOs a 10).fset F.secBootStatusErr q 10 := by
  simp only [Dev.loadOs, Option.isSome_some, if_true, ← hn, Option.some_or]

/-- A table is valid only with a valid signature, for an image of the bundle's length, 2 MiB aligned and inside the partition's DDR. -/
theorem Dev.tableOk_bounds {n : Nat} {t : Handoff} (h : d.tableOk a n t = true) :
    t.sig = .valid ∧ t.imageSize = n ∧ t.loadOff % 2097152 = 0 ∧ t.loadOff + n ≤ d.ddrSize a := by
  simp only [Dev.tableOk, Bool.and_eq_true, decide_eq_true_eq, beq_iff_eq] at h
  obtain ⟨⟨⟨⟨⟨⟨hsig, _⟩, _⟩, hsize⟩, halign⟩, hfits⟩, _⟩ := h
  exact ⟨hsig, hsize, halign, hfits⟩

end Load

/-! ### The check of its image and the training of memory (R398, R404) -/

/-- A copied image whose digest matches starts the partition's harts; one that does not match is zero-filled with ERR 9. -/
theorem Dev.osImageChecked_agreed {a ver : Nat} {o : OsLoad} {e : Dev} (hload : mapFind? d.sec.osLoads a = some o)
    (he : e = d.modSec (fun z => { z with osLoads := mapErase z.osLoads a })) (hver : e.fwiFor o.table = some ver) :
    d.osImageChecked bt a = if e.imageOk a o.table then ((e.fset F.secBootStatusErr o.port 0).setOsWait a false).startOs bt a ver o.table
      else ((e.memClear (osBase a o.table) o.table.imageSize).noOs a 9).fset F.secBootStatusErr o.port 9 := by
  simp only [Dev.osImageChecked, hload, ← he, hver]
  cases e.imageOk a o.table <;> rfl

/-- Training that finds no DDR shows every channel empty, wipes each partition and starts its OS or waits for one. -/
theorem Dev.memoryInitDone_noDdr {e : Dev} (hstart : d.sec.started = true) (hready : d.sec.memReady = false)
    (he : e = (((List.range 16).foldl (fun d c => ((((d.fset F.ddrcChStatusState c 0).fset F.ddrcChStatusDimms c 0).fset
      F.ddrcChStatusKind c 0).fset F.ddrcChStatusGib c 0).fset F.ddrcChStatusMts c 0) d).modSec
        (fun z => { z with memReady := true })).fqDefaults) :
    d.memoryInitDone bt [] = (e.parts.foldl (fun d a => (d.wipeHbm a).fillDdr a) e).parts.foldl
      (fun d a => (d.restartOs bt a).announceEpoch a) (e.parts.foldl (fun d a => (d.wipeHbm a).fillDdr a) e) := by
  subst he
  exact if_pos ⟨hstart, hready⟩

/-- Memory is trained once. -/
theorem Dev.memoryInitDone_again (hready : d.sec.memReady = true) (ddr : List (Nat × Nat × Nat × Nat)) :
    d.memoryInitDone bt ddr = d := if_neg (fun hgo => by simp [hready] at hgo)

/-! ### The boot flash (R387, R391) -/

section Flash

variable {q : Nat} (hq : q < 4) (hstart : d.sec.started = true) (hport : d.mgmtPort q = true) (hthere : d.sec.flashGone = false)
include hq hstart hport hthere

/-- Firmware serves a management port's write while the flash answers. -/
theorem Dev.flashWrite_served : ¬(4 ≤ q ∨ d.sec.started = false ∨ d.mgmtPort q = false ∨ d.sec.flashGone = true) := by
  simp [hq, hstart, hport, hthere]

theorem Dev.flashWrite_ownerRecord (r : OwnerRecord) : d.flashWrite q (.ownerRecord r) =
    d.modSec (fun z => { z with flash := { d.sec.flash with owner := some r } }) :=
  if_neg (Dev.flashWrite_served hq hstart hport hthere)

theorem Dev.flashWrite_image (g : SigResult) (h : ImageHdr) : d.flashWrite q (.image g h) =
    d.modSec (fun z => { z with flash := { d.sec.flash with image := some (g, h) } }) :=
  if_neg (Dev.flashWrite_served hq hstart hport hthere)

/-- The Part Record is factory-only outside the Safe configuration. -/
theorem Dev.flashWrite_partRecord (hsafe : d.safe = false) (r : PartRecord) :
    d.flashWrite q (.partRecord r) = d.refuse .secCfgErr 0 false :=
  (if_neg (Dev.flashWrite_served hq hstart hport hthere)).trans (if_neg (by simp [hsafe]))

end Flash

/-- Settles O53: a load takes the verdict of its mailbox and of its table, the check that of its digest, and a flash write its region's
branch. -/
theorem operatingSystems : Obligations.OperatingSystems := by
  unfold Obligations.OperatingSystems
  simp only [exec_osLoad, execOsLoad, exec_osImageChecked, execOsImageChecked, exec_memoryInitDone, execMemoryInitDone,
    exec_managementFlashWrite, execManagementFlashWrite, onDev_eq]
  refine ⟨?load, ?copy, ?invalid, fun _ _ _ _ hok => Dev.tableOk_bounds hok, ?checked, ?noLoad, ?trained, ?again, ?owner, ?image,
    ?factory⟩
  case load =>
    intro s q a v t m hq hup hok hgo htarget hport hpart hbound hload hos hst hmem hquiet hclear hpart'
    rw [Dev.bootGo_up hq hup, Dev.bootCmdWrite_os hok
      (Dev.bootVerdict_os hgo htarget hport hpart hbound hload hos hst hmem hquiet hclear) hgo htarget rfl hpart']
  case copy =>
    intro d q a n t m hn hok hlen
    rw [Dev.loadOs_bundle hn, if_pos ⟨hok, hlen⟩]
  case invalid =>
    intro d q a t m hbad
    rw [Dev.loadOs_bundle rfl, if_neg (fun hvalid => by simp [hbad] at hvalid)]
  case checked =>
    intro s a ver o d hload hd hver
    rw [Dev.osImageChecked_agreed hload hd hver]
    exact ⟨fun hok => by rw [if_pos hok], fun hbad => by rw [if_neg (by simp [hbad])]⟩
  case noLoad =>
    intro s a hnone
    simp only [Dev.osImageChecked, hnone]
  case trained =>
    rintro s d e hstart hready rfl he
    rw [Dev.memoryInitDone_noDdr hstart hready he]
  case again =>
    intro s l hready
    rw [Dev.memoryInitDone_again hready]
  case owner =>
    intro s q r hq hstart hport hthere
    rw [Dev.flashWrite_ownerRecord hq hstart hport hthere]
  case image =>
    intro s q g h hq hstart hport hthere
    rw [Dev.flashWrite_image hq hstart hport hthere]
  case factory =>
    intro s q r hq hstart hport hthere hsafe
    rw [Dev.flashWrite_partRecord hq hstart hport hthere hsafe]

end Sys2Proof.Machine
end

section
/-! SUPPORT. Accesses of the resident cores to memory and to the Device Register Space (R225, R226, R234, R242, R249, R252, R254 to R256,
R259). The order of an access's checks is log entry 105; what core addresses mean and how atomics align are log entries 102, 120 and 121. -/

namespace Sys2Proof.Machine

/-! ### The forms of an access (R225, R254, R259) -/

/-- A plain store does not only read. -/
theorem CoreOp.reads_of_plainStore {o : CoreOp} (h : o.plainStore = true) : o.reads = false := by
  cases o with
  | store | pairStore => rfl
  | _ => cases h

/-- An atomic neither only reads nor goes through the store buffer. -/
theorem CoreOp.reads_of_atomic {o : CoreOp} (h : o.atomic = true) : o.reads = false := by
  cases o with
  | lr | sc | amo | casq => rfl
  | _ => cases h

theorem CoreOp.plainStore_of_atomic {o : CoreOp} (h : o.atomic = true) : o.plainStore = false := by
  cases o with
  | lr | sc | amo | casq => rfl
  | _ => cases h

theorem CoreOp.plainStore_of_reads {o : CoreOp} (h : o.reads = true) : o.plainStore = false :=
  Bool.eq_false_iff.mpr (fun hstore => by simp [CoreOp.reads_of_plainStore hstore] at h)

/-- A misaligned atomic raises its misaligned-address exception. -/
theorem CoreAcc.exc_misaligned {x : CoreAcc} (hatomic : x.op.atomic = true) (halign : x.addr % x.op.size ≠ 0) :
    x.exc = some x.op.misaligned := if_pos ⟨hatomic, halign⟩

/-- An aligned `amocas.q` outside cacheable memory raises a store access fault. -/
theorem CoreAcc.exc_casq {x : CoreAcc} {rd rs : Nat} (hop : x.op = .casq rd rs) (halign : x.addr % 16 = 0) (hattr : x.attr ≠ .pma) :
    x.exc = some 7 := by
  have hfits : ¬(x.op.atomic = true ∧ x.addr % x.op.size ≠ 0) := by rw [hop]; exact fun h => h.2 halign
  rw [CoreAcc.exc, if_neg hfits, hop]
  cases hx : x.attr with
  | pma => exact absurd hx hattr
  | nc => rfl
  | io => rfl

variable {bt h : Nat} {d : Dev} {x : CoreAcc}

/-! ### Accesses to memory (R225, R226, R252) -/

/-- An access with an exception of its own traps. -/
theorem Dev.coreAccess_exc {c : Nat} (hexc : x.exc = some c) (kind : ReqKind) :
    d.coreAccess bt h kind x = d.coreTrap h c x.addr := by
  simp only [Dev.coreAccess, hexc]

/-- One to an address that the core may not reach is logged and takes its access fault (R234, R252). -/
theorem Dev.coreAccess_unreached (hexc : x.exc = none) (hplace : d.corePlace (d.partOfHart h) x.addr x.op.size = .none)
    (kind : ReqKind) : d.coreAccess bt h kind x =
      (d.tlog bt 1 43 (some (d.partOfHart h)) h x.addr).coreTrap h x.op.cause x.addr := by
  simp only [Dev.coreAccess, hexc, hplace]

section Cacheable

variable {k : Nat} (hexc : x.exc = none) (hplace : d.corePlace (d.partOfHart h) x.addr x.op.size ≠ .none) (hattr : x.attr = .pma)
  (hk : coreLine (d.partOfHart h) x.addr = k)
include hexc hplace hattr hk

/-- A load of cacheable memory is performed on a line that the core holds; else the line is asked for, once (R225). -/
theorem Dev.coreAccess_load (hreads : x.op.reads = true) : d.coreAccess bt h .rds x =
    if (d.dirEnt k).holds h then d.coreDo bt h x
    else if d.asked h k then d else d.request bt h (x.addr % 2 ^ 48 / 64) .rds (some x) := by
  have hstore := CoreOp.plainStore_of_reads hreads
  subst hk
  cases hp : d.corePlace (d.partOfHart h) x.addr x.op.size with
  | none => exact absurd hp hplace
  | mem y | rb o =>
    simp only [Dev.coreAccess, hexc, hp, hattr, hreads, hstore, ne_eq, not_true_eq_false, Bool.false_eq_true, if_false, if_true]

/-- A store to cacheable memory enters the buffer and leaves it at once when the core owns the line; a line asked for already is not asked
for again (R254). -/
theorem Dev.coreAccess_store (hstore : x.op.plainStore = true) (hown : (d.dirEnt k).owner = some h ∨ d.asked h k = true) :
    d.coreAccess bt h .rdx x = if (d.dirEnt k).owner = some h then
      ((d.bufferStore h x).modDir k (fun e => { e with mod := true })).drainLine h k else d.bufferStore h x := by
  have hasked : (d.bufferStore h x).asked h k = d.asked h k := rfl
  subst hk
  cases hp : d.corePlace (d.partOfHart h) x.addr x.op.size with
  | none => exact absurd hp hplace
  | mem y | rb o =>
    simp only [Dev.coreAccess, hexc, hp, hattr, hstore, ne_eq, not_true_eq_false, if_false, if_true, hasked]
    split
    case isTrue => rfl
    case isFalse hlost => rw [if_pos (hown.resolve_left hlost)]

/-- An atomic on a line that the core owns is performed once the buffered stores to it have left the buffer (R225, R249). -/
theorem Dev.coreAccess_atomic (hatomic : x.op.atomic = true) (hown : (d.dirEnt k).owner = some h) : d.coreAccess bt h .rdx x =
    ((d.modDir k (fun e => { e with mod := true })).drainLine h k).coreDo bt h x := by
  have hreads := CoreOp.reads_of_atomic hatomic
  have hstore := CoreOp.plainStore_of_atomic hatomic
  subst hk
  cases hp : d.corePlace (d.partOfHart h) x.addr x.op.size with
  | none => exact absurd hp hplace
  | mem y | rb o =>
    simp only [Dev.coreAccess, hexc, hp, hattr, hreads, hstore, hown, ne_eq, not_true_eq_false, Bool.false_eq_true, if_false, if_true]

end Cacheable

/-! ### What an access does (R225, R226, R249, R259) -/

/-- A poisoned granule is logged and raises the access's fault (R226). -/
theorem Dev.coreDo_poisoned {p : CorePlace} (hplace : d.corePlace (d.partOfHart h) x.addr x.op.size = p)
    (hbad : d.placePoisoned (d.partOfHart h) p x.op.size = true) : d.coreDo bt h x =
      (d.tlog bt 1 44 (some (d.partOfHart h)) h x.addr).coreTrap h x.op.cause x.addr := by
  simp only [Dev.coreDo, hplace, hbad, if_true]

section Sized

variable {n : Nat} {p : CorePlace} (hplace : d.corePlace (d.partOfHart h) x.addr n = p)
  (hsound : d.placePoisoned (d.partOfHart h) p n = false)
include hplace hsound

theorem Dev.coreDo_load {rd : Nat} {sg : Bool} (hop : x.op = .load n sg rd) : d.coreDo bt h x =
    d.modHart h (fun y => { y.xPut rd (loadWord n sg (leNat (d.coreBytes h x.addr n p))) with pc := y.pc + BitVec.ofNat 64 x.len }) := by
  simp only [Dev.coreDo, hop, CoreOp.size, hplace, hsound, Bool.false_eq_true, if_false]

theorem Dev.coreDo_lr {rd : Nat} (hop : x.op = .lr n rd) : d.coreDo bt h x =
    d.modHart h (fun y => { y.xPut rd (loadWord n true (leNat (d.coreBytes h x.addr n p))) with
      lr := some (coreLine (d.partOfHart h) x.addr), pc := y.pc + BitVec.ofNat 64 x.len }) := by
  simp only [Dev.coreDo, hop, CoreOp.size, hplace, hsound, Bool.false_eq_true, if_false]

/-- A store-conditional stores while its reservation holds, and ends it either way. -/
theorem Dev.coreDo_sc {rd rs : Nat} (hop : x.op = .sc n rd rs) : d.coreDo bt h x =
    if (d.hart h).lr = some (coreLine (d.partOfHart h) x.addr) then
      (d.corePut h x.addr (leBytes n ((d.hart h).xGet rs).toNat)).modHart h (fun y => { y.xPut rd 0#64 with
        lr := none, pc := y.pc + BitVec.ofNat 64 x.len })
    else d.modHart h (fun y => { y.xPut rd 1#64 with lr := none, pc := y.pc + BitVec.ofNat 64 x.len }) := by
  simp only [Dev.coreDo, hop, CoreOp.size, hplace, hsound, Bool.false_eq_true, if_false, decide_eq_true_eq]
  split <;> rfl

theorem Dev.coreDo_amo {fn rd rs old v : Nat} (hop : x.op = .amo fn n rd rs) (hold : old = leNat (d.coreBytes h x.addr n p))
    (hv : amoOp fn n old (((d.hart h).xGet rs).toNat % 2 ^ (8 * n)) (((d.hart h).xGet rd).toNat % 2 ^ (8 * n)) = some v) :
    d.coreDo bt h x = (d.corePut h x.addr (leBytes n v)).modHart h (fun y => { y.xPut rd (loadWord n true old) with
      pc := y.pc + BitVec.ofNat 64 x.len }) := by
  subst hold
  simp only [Dev.coreDo, hop, CoreOp.size, hplace, hsound, Bool.false_eq_true, if_false, hv]

end Sized

section Pair

variable {p : CorePlace} (hplace : d.corePlace (d.partOfHart h) x.addr 16 = p)
  (hsound : d.placePoisoned (d.partOfHart h) p 16 = false)
include hplace hsound

/-- A paired load fills the low half of its vector register. -/
theorem Dev.coreDo_pairLoad {vd : Nat} (hop : x.op = .pairLoad vd) : d.coreDo bt h x = d.modHart h (fun y => { y with
    v := mapSet 0#256 y.v vd (BitVec.ofNat 256 (((d.hart h).vGet vd).toNat / 2 ^ 128 * 2 ^ 128 + leNat (d.coreBytes h x.addr 16 p)))
    pc := y.pc + BitVec.ofNat 64 x.len }) := by
  simp only [Dev.coreDo, Dev.modHart, hop, CoreOp.size, hplace, hsound, Bool.false_eq_true, if_false]

/-- `amocas.q` stores when the pair in memory is the expected one, and returns what it read. -/
theorem Dev.coreDo_casq {rd rs old : Nat} (hop : x.op = .casq rd rs) (hold : old = leNat (d.coreBytes h x.addr 16 p)) :
    d.coreDo bt h x = (if old = (d.hart h).pairGet rd then d.corePut h x.addr (leBytes 16 ((d.hart h).pairGet rs)) else d).modHart h
      (fun y => { y.pairPut rd old with pc := y.pc + BitVec.ofNat 64 x.len }) := by
  subst hold
  simp only [Dev.coreDo, hop, CoreOp.size, hplace, hsound, Bool.false_eq_true, if_false]

end Pair

/-! ### The Device Register Space (R252, R254 to R256) -/

section Register

variable {off : Nat} (hto : (d.hart h).timedOut = [])
include hto

/-- An aligned access to what the core reaches, with no store of it timed out, is made. -/
theorem Dev.spaceTrap_none (halign : off % 8 = 0) (hreach : d.coreReaches h off = true) (cause : Nat) :
    d.spaceTrap bt h off cause = none := by
  simp only [Dev.spaceTrap, hto]
  exact if_neg (by simp [halign, hreach])

/-- A load of 64 bits reads its register behind the buffered stores. -/
theorem Dev.coreRegister_load {rd : Nat} {sg : Bool} (hoff : off = x.addr % 2 ^ 48 - regBase) (hop : x.op = .load 8 sg rd)
    (halign : off % 8 = 0) (hreach : d.coreReaches h off = true)
    (halive : (d.drainStores h).deadPlace ((d.drainStores h).partOfHart h) (spacePlace (d.drainStores h).layout off) = false) :
    d.coreRegister bt h x = (d.drainStores h).modHart h (fun y => { y.xPut rd ((d.drainStores h).placeRead bt (.core h)
      (spacePlace (d.drainStores h).layout off)) with regLoad := none, pc := y.pc + BitVec.ofNat 64 x.len }) := by
  simp only [Dev.coreRegister, hop, CoreOp.atomic, ← hoff, Dev.spaceTrap_none hto halign hreach, halive, Bool.false_eq_true, if_false]

/-- A store of 64 bits is sent to its register. -/
theorem Dev.coreRegister_store {rs : Nat} (hoff : off = x.addr % 2 ^ 48 - regBase) (hop : x.op = .store 8 rs) (halign : off % 8 = 0)
    (hreach : d.coreReaches h off = true) : d.coreRegister bt h x =
      (d.coreStore bt h off ((d.hart h).xGet rs)).modHart h (fun y => { y with pc := y.pc + BitVec.ofNat 64 x.len }) := by
  simp only [Dev.coreRegister, hop, CoreOp.atomic, ← hoff, Dev.spaceTrap_none hto halign hreach, Bool.false_eq_true, if_false, id_eq]

/-- An atomic is logged and raises a store access fault. -/
theorem Dev.coreRegister_atomic (hatomic : x.op.atomic = true) : d.coreRegister bt h x =
    (d.tlog bt 1 43 (some (d.partOfHart h)) h x.addr).coreTrap h 7 x.addr := by
  simp only [Dev.coreRegister, hatomic, if_true, hto]

end Register

/-! ### Requests with an access (R225) -/

section Request

variable (hcore : h < 96) (hrun : d.runs h = true) (hfree : (d.hart h).regLoad = none) {kind : ReqKind}
  (hkind : x.op.reads = decide (kind = .rds))
include hcore hrun hfree hkind

/-- The access of a running core that waits for no register is made: to memory below the Device Register Space. -/
theorem Dev.agentReq_memory (hlow : x.addr % 2 ^ 48 < regBase) :
    d.agentReq bt h (x.addr % 2 ^ 48 / 64) kind (some x) = d.coreAccess bt h kind x :=
  (if_pos ⟨hcore, hrun, rfl, hkind, by rw [hfree]; rfl⟩).trans (if_neg (Nat.not_le.mpr hlow))

/-- And to that space from its base on. -/
theorem Dev.agentReq_register (hhigh : regBase ≤ x.addr % 2 ^ 48) :
    d.agentReq bt h (x.addr % 2 ^ 48 / 64) kind (some x) = d.coreRegister bt h x :=
  (if_pos ⟨hcore, hrun, rfl, hkind, by rw [hfree]; rfl⟩).trans (if_pos hhigh)

end Request

/-- RDS and RDX leave the device as the agent's request does, and nothing else of the state. -/
theorem exec_rds_next {s : State} {g : Nat} {req : LineReq} (hd : s.dev.agentReq s.bt g req.line .rds req.acc = d) :
    exec (.rds g req) s = .next { s with dev := d } := hd ▸ rfl

theorem exec_rdx_next {s : State} {g : Nat} {req : LineReq} (hd : s.dev.agentReq s.bt g req.line .rdx req.acc = d) :
    exec (.rdx g req) s = .next { s with dev := d } := hd ▸ rfl

section At

variable {s : State} {k : Nat} {p : CorePlace} (hat : CoreAt s h x k p)
include hat

/-- The place of its access, of `n` bytes. -/
theorem CoreAt.place_eq {n : Nat} (hn : x.op.size = n) : s.dev.corePlace (s.dev.partOfHart h) x.addr n = p := by
  obtain ⟨_, _, _, _, _, _, _, hp, _⟩ := hat
  rw [hp, hn]

/-- A core's load of cacheable memory that it may reach. -/
theorem CoreAt.rds (hreads : x.op.reads = true) : s.dev.agentReq s.bt h (x.addr % 2 ^ 48 / 64) .rds (some x) =
    if (s.dev.dirEnt k).holds h then s.dev.coreDo s.bt h x
    else if s.dev.asked h k then s.dev else s.dev.request s.bt h (x.addr % 2 ^ 48 / 64) .rds (some x) := by
  obtain ⟨hcore, hrun, hfree, hlow, hexc, hattr, hk, hp, hsome⟩ := hat
  rw [Dev.agentReq_memory hcore hrun hfree (by rw [hreads]; rfl) hlow, Dev.coreAccess_load hexc (hp ▸ hsome) hattr hk.symm hreads]

/-- Its store. -/
theorem CoreAt.rdx_store (hstore : x.op.plainStore = true)
    (hown : (s.dev.dirEnt k).owner = some h ∨ s.dev.asked h k = true) :
    s.dev.agentReq s.bt h (x.addr % 2 ^ 48 / 64) .rdx (some x) = if (s.dev.dirEnt k).owner = some h then
      ((s.dev.bufferStore h x).modDir k (fun e => { e with mod := true })).drainLine h k else s.dev.bufferStore h x := by
  obtain ⟨hcore, hrun, hfree, hlow, hexc, hattr, hk, hp, hsome⟩ := hat
  rw [Dev.agentReq_memory hcore hrun hfree (CoreOp.reads_of_plainStore hstore) hlow,
    Dev.coreAccess_store hexc (hp ▸ hsome) hattr hk.symm hstore hown]

/-- Its atomic on a line that it owns. -/
theorem CoreAt.rdx_atomic {e : Dev} (hatomic : x.op.atomic = true) (hown : (s.dev.dirEnt k).owner = some h)
    (he : e = (s.dev.modDir k (fun e => { e with mod := true })).drainLine h k) :
    s.dev.agentReq s.bt h (x.addr % 2 ^ 48 / 64) .rdx (some x) = e.coreDo s.bt h x := by
  obtain ⟨hcore, hrun, hfree, hlow, hexc, hattr, hk, hp, hsome⟩ := hat
  rw [Dev.agentReq_memory hcore hrun hfree (CoreOp.reads_of_atomic hatomic) hlow,
    Dev.coreAccess_atomic hexc (hp ▸ hsome) hattr hk.symm hatomic hown, he]

end At

/-- Settles O58: an access goes to memory or to the register space, where the directory, the poison marks and its form decide what it
does. -/
theorem coreAccesses : Obligations.CoreAccesses := by
  unfold Obligations.CoreAccesses
  refine ⟨?load, ?pairLoad, ?poisoned, ?miss, ?store, ?storeWaits, ?lr, ?sc, ?amo, ?casq, ?misaligned, ?casqAttr, ?unreached, ?regLoad,
    ?regStore, ?regAtomic⟩
  case load =>
    intro s h k n rd sg x p hat hop hholds hsound
    refine exec_rds_next ?_
    rw [hat.rds (by rw [hop]; rfl), if_pos hholds, Dev.coreDo_load (hat.place_eq (by rw [hop]; rfl)) hsound hop]
  case pairLoad =>
    intro s h k vd x p hat hop hholds hsound
    refine exec_rds_next ?_
    rw [hat.rds (by rw [hop]; rfl), if_pos hholds, Dev.coreDo_pairLoad (hat.place_eq (by rw [hop]; rfl)) hsound hop]
  case poisoned =>
    intro s h k x p hat hreads hholds hbad
    refine exec_rds_next ?_
    rw [hat.rds hreads, if_pos hholds, Dev.coreDo_poisoned (hat.place_eq rfl) hbad]
  case miss =>
    intro s h k x p hat hreads hholds hasked
    refine exec_rds_next ?_
    rw [hat.rds hreads, if_neg (by simp [hholds]), if_neg (by simp [hasked])]
  case store =>
    intro s h k x p hat hstore hown
    refine exec_rdx_next ?_
    rw [hat.rdx_store hstore (.inl hown), if_pos hown]
  case storeWaits =>
    intro s h k x p hat hstore hlost hasked
    refine exec_rdx_next ?_
    rw [hat.rdx_store hstore (.inr hasked), if_neg hlost]
  case lr =>
    intro s h k n rd x p d hat hop hown hd hplace hsound
    refine exec_rdx_next ?_
    rw [hat.rdx_atomic (by rw [hop]; rfl) hown hd, Dev.coreDo_lr hplace hsound hop]
  case sc =>
    intro s h k n rd rs x p d hat hop hown hd hplace hsound
    refine exec_rdx_next ?_
    rw [hat.rdx_atomic (by rw [hop]; rfl) hown hd, Dev.coreDo_sc hplace hsound hop]
  case amo =>
    intro s h k fn n rd rs old v x p d hat hop hown hd hplace hsound hold hv
    refine exec_rdx_next ?_
    rw [hat.rdx_atomic (by rw [hop]; rfl) hown hd, Dev.coreDo_amo hplace hsound hop hold hv]
  case casq =>
    intro s h k rd rs old x p d hat hop hown hd hplace hsound hold
    refine exec_rdx_next ?_
    rw [hat.rdx_atomic (by rw [hop]; rfl) hown hd, Dev.coreDo_casq hplace hsound hop hold]
  case misaligned =>
    intro s h x hcore hrun hfree hlow hatomic halign
    refine exec_rdx_next ?_
    rw [Dev.agentReq_memory hcore hrun hfree (CoreOp.reads_of_atomic hatomic) hlow,
      Dev.coreAccess_exc (CoreAcc.exc_misaligned hatomic halign)]
  case casqAttr =>
    intro s h rd rs x hcore hrun hfree hlow hop halign hattr
    refine exec_rdx_next ?_
    rw [Dev.agentReq_memory hcore hrun hfree (by rw [hop]; rfl) hlow, Dev.coreAccess_exc (CoreAcc.exc_casq hop halign hattr)]
  case unreached =>
    intro s h x hcore hrun hfree hlow hexc hplace hreads
    refine exec_rds_next ?_
    rw [Dev.agentReq_memory hcore hrun hfree (by rw [hreads]; rfl) hlow, Dev.coreAccess_unreached hexc hplace]
  case regLoad =>
    intro s h off rd sg x hcore hrun hfree hhigh hoff hop hto halign hreach halive
    refine exec_rds_next ?_
    rw [Dev.agentReq_register hcore hrun hfree (by rw [hop]; rfl) hhigh,
      Dev.coreRegister_load hto hoff hop halign hreach halive]
  case regStore =>
    intro s h off rs x hcore hrun hfree hhigh hoff hop hto halign hreach
    refine exec_rdx_next ?_
    rw [Dev.agentReq_register hcore hrun hfree (by rw [hop]; rfl) hhigh, Dev.coreRegister_store hto hoff hop halign hreach]
  case regAtomic =>
    intro s h x hcore hrun hfree hhigh hatomic hto
    refine exec_rdx_next ?_
    rw [Dev.agentReq_register hcore hrun hfree (CoreOp.reads_of_atomic hatomic) hhigh, Dev.coreRegister_atomic hto hatomic]

end Sys2Proof.Machine
end

section
/-! SUPPORT. Requests of the coherent agents: home slices, forwards, evictions, retries and timeouts (R262, R263, R265 to R270). The order
of requests, credits and backoff is log entry 85. -/

namespace Sys2Proof.Machine

variable {bt g line k n o : Nat} {d : Dev} {r : CohReq} {kind : ReqKind}

/-! ### Queues (R267, R268) -/

/-- Where no request of a line waits in a home slice's queue, settling the line changes nothing. -/
theorem Dev.settleLine_unqueued (h : ∀ p ∈ d.coh.reqs, p.2.line = k → ∀ x, p.2.fwdTo = some x → x < 104) :
    d.settleLine bt k = d := by
  have hnone : d.coh.reqs.filter (fun p => p.2.fwdTo == some (d.homeAgent k) && p.2.line == k) = [] := by
    rw [List.filter_eq_nil_iff]
    intro p hp hq
    simp only [Bool.and_eq_true, beq_iff_eq] at hq
    exact absurd (h p hp hq.2 _ hq.1) (Nat.not_lt.mpr (Nat.le_add_right ..))
  rw [Dev.settleLine, hnone]
  rfl

/-- Nothing waits for a line that no other request asks for. -/
theorem Dev.atHome_alone (h : ∀ p ∈ d.coh.reqs, p.1 ≠ n → p.2.line ≠ k) (r : CohReq) : d.atHome k n r = false := by
  simp only [Dev.atHome, List.any_eq_false, Bool.and_eq_true, bne_iff_ne, beq_iff_eq]
  rintro p hp ⟨⟨⟨hne, hline⟩, -⟩, -⟩
  exact h p hp hne hline

theorem Dev.atHolder_alone (h : ∀ p ∈ d.coh.reqs, p.1 ≠ n → p.2.line ≠ k) : d.atHolder k n = false := by
  simp only [Dev.atHolder, List.any_eq_false, Bool.and_eq_true, bne_iff_ne, beq_iff_eq]
  rintro p hp ⟨⟨hne, hline⟩, -⟩
  exact h p hp hne hline

theorem Dev.asked_alone (h : ∀ p ∈ d.coh.reqs, p.2.line ≠ k) (g : Nat) : d.asked g k = false := by
  simp only [Dev.asked, List.any_eq_false, Bool.and_eq_true, beq_iff_eq]
  exact fun p hp hq => h p hp hq.2

/-- A change of one request leaves the others as they are. -/
theorem Dev.mem_modReq {f : CohReq → CohReq} {p : Nat × CohReq} (hp : p ∈ (d.modReq n f).coh.reqs) :
    ∃ q ∈ d.coh.reqs, p = q ∨ p.2 = f q.2 := by
  obtain ⟨q, hq, rfl⟩ := List.mem_map.mp hp
  refine ⟨q, hq, ?_⟩
  split
  · exact .inr rfl
  · exact .inl rfl

/-- A forward sends its request to the owner or leaves it where it waits, and moves no request to another line or queue. -/
theorem Dev.mem_forward {p : Nat × CohReq} (hp : p ∈ (d.forward bt n o r).coh.reqs) :
    ∃ q ∈ d.coh.reqs, p.2.line = q.2.line ∧ (p.2.fwdTo = q.2.fwdTo ∨ p.2.fwdTo = some o) := by
  unfold Dev.forward at hp
  split at hp
  case isTrue =>
    obtain ⟨q, hq, rfl | hsent⟩ := Dev.mem_modReq (f := fun r => { r with fwdTo := some o, place := d.coh.nextPlace }) hp
    · exact ⟨p, hq, rfl, .inl rfl⟩
    · exact ⟨q, hq, by rw [hsent], .inr (by rw [hsent])⟩
  case isFalse =>
    split at hp
    · exact ⟨p, hp, rfl, .inl rfl⟩
    · obtain ⟨q, hq, rfl | hrefused⟩ := Dev.mem_modReq (f := fun r => { r with refused := r.refused + 1, last := bt }) hp
      · exact ⟨p, hq, rfl, .inl rfl⟩
      · exact ⟨q, hq, by rw [hrefused], .inl (by rw [hrefused])⟩

/-- A forward that is not a returned one takes a credit or is refused. -/
theorem Dev.forward_new (hret : r.ret = false) : d.forward bt n o r = if d.mayForward o n r then d.enqueue n o
    else (d.modReq n (fun r => { r with refused := r.refused + 1, last := bt })).fbump F.shcSliceStat1Nacks (d.sliceOf r.line) 1 := by
  simp only [Dev.forward, hret, Bool.false_eq_true, if_false]

/-! ### The home slice (R265, R267) -/

/-- A read without an access that waits for it leaves the requester as it is. -/
theorem Dev.lineGranted_read (hkind : r.kind = .rds) (hacc : r.acc = none) : d.lineGranted bt r = d := by
  simp only [Dev.lineGranted, hkind, hacc, ne_eq, not_true_eq_false, and_false, if_false, ite_self]

/-- The answer to a read of a line that nobody holds makes the requester its owner, in E. -/
theorem Dev.homeAnswer_unheld (hkind : r.kind = .rds) (hacc : r.acc = none) (hheld : (d.dirEnt r.line).held = false) :
    d.homeAnswer bt n r = (d.supplied n r.line).modDir r.line (fun e => { e with owner := some r.agent, mod := false }) := by
  simp only [Dev.homeAnswer, hkind, hheld, Bool.false_eq_true, if_false, Dev.lineGranted_read hkind hacc, Dev.supplied]

/-- To a read of a line that others hold, the holder in F. -/
theorem Dev.homeAnswer_shared (hkind : r.kind = .rds) (hacc : r.acc = none) (hheld : (d.dirEnt r.line).held = true) :
    d.homeAnswer bt n r =
      (d.supplied n r.line).modDir r.line (fun e => { e with fwd := some r.agent, shar := listDel e.shar r.agent }) := by
  simp only [Dev.homeAnswer, hkind, hheld, if_true, Dev.lineGranted_read hkind hacc, Dev.supplied]

/-- The answer to a write or an upgrade makes the requester the only holder, in M. -/
theorem Dev.homeAnswer_exclusive (hkind : r.kind ≠ .rds) : d.homeAnswer bt n r =
    (((d.supplied n r.line).modDir r.line (fun e => { e with owner := some r.agent, mod := true, fwd := none, shar := [] })).loseLine
      r.line (fun h => h != r.agent)).lineGranted bt r := by
  cases hk : r.kind with
  | rds => exact absurd hk hkind
  | rdx | upgrade => simp only [Dev.homeAnswer, hk, Dev.supplied]

section Serve

variable (hreq : mapFind? d.coh.reqs n = some r) (hopen : d.homeOpen r.agent r.line = true)
include hreq hopen

/-- A request of a line that another agent owns goes to its owner. -/
theorem Dev.homeServe_owned (hown : (d.dirEnt r.line).owner = some o) (hother : o ≠ r.agent) :
    d.homeServe bt n = d.forward bt n o r := by
  simp only [Dev.homeServe, hreq, hopen, hown, not_true_eq_false, if_false, if_neg hother]

variable (hown : (d.dirEnt r.line).owner = none)
include hown

/-- A write of a line that its slice owns waits behind a read at the holder in F. -/
theorem Dev.homeServe_waits (hkind : r.kind ≠ .rds) (hheld : d.atHolder r.line n = true) :
    d.homeServe bt n = d.forward bt n (d.homeAgent r.line) r := by
  simp only [Dev.homeServe, hreq, hopen, hown, hheld, hkind, ne_eq, not_true_eq_false, not_false_eq_true, and_self, or_true, if_false,
    if_true]

/-- A request that nothing conflicts with is answered, unless it is a read that the holder in F is to supply. -/
theorem Dev.homeServe_answers (halone : ∀ p ∈ d.coh.reqs, p.1 ≠ n → p.2.line ≠ r.line)
    (hfwd : r.kind = .rds → (d.dirEnt r.line).fwd = none) : d.homeServe bt n = d.homeAnswer bt n r := by
  simp only [Dev.homeServe, hreq, hopen, hown, Dev.atHome_alone halone, Dev.atHolder_alone halone, not_true_eq_false,
    Bool.false_eq_true, and_false, or_false, if_false]
  cases hkind : r.kind with
  | rds => simp only [hfwd hkind]
  | rdx | upgrade => rfl

end Serve

/-! ### New requests (R263, R265) -/

/-- Beside the new request stand those that were there. -/
theorem Dev.mem_requested {p : Nat × CohReq} (hp : p ∈ (d.requested bt g k kind).coh.reqs) :
    p = (d.coh.nextReq, { agent := g, line := k, kind, bt }) ∨ p ∈ d.coh.reqs := mem_put _ _ _ p hp

theorem Dev.find_requested : mapFind? (d.requested bt g k kind).coh.reqs d.coh.nextReq = some { agent := g, line := k, kind, bt } :=
  mapFind?_put_same ..

theorem Dev.dirEnt_requested (x : Nat) : (d.requested bt g k kind).dirEnt x = d.dirEnt x := rfl

/-- A read that the home slice has answered leaves no request of the line. -/
theorem Dev.settleLine_supplied (halone : ∀ p ∈ d.coh.reqs, p.2.line ≠ k) (f : DirEnt → DirEnt) :
    (((d.requested bt g k kind).supplied d.coh.nextReq k).modDir k f).settleLine bt k =
      ((d.requested bt g k kind).supplied d.coh.nextReq k).modDir k f := by
  refine Dev.settleLine_unqueued (fun p hp hline => ?_)
  obtain ⟨hp, hne⟩ := List.mem_filter.mp (show p ∈ mapErase (d.requested bt g k kind).coh.reqs d.coh.nextReq from hp)
  rcases Dev.mem_requested hp with rfl | hp
  · simp at hne
  · exact absurd hline (halone p hp)

/-- Outside its partition a core's read is logged and traps (R263). -/
theorem Dev.request_outside (hok : d.lineOk g line = false) (hcore : g < 96)
    (hrun : (d.tlog bt 4 50 (some (d.partOfAgent g)) g (64 * line)).runs g = true) (acc : Option CoreAcc) :
    d.request bt g line .rds acc = (d.tlog bt 4 50 (some (d.partOfAgent g)) g (64 * line)).coreTrap g 5 (64 * line) := by
  simp only [Dev.request, hok, Bool.false_eq_true, not_false_eq_true, if_true, hcore, hrun, and_self]

section Request

variable (hok : d.lineOk g line = true) (hk : k = d.lineKey g line)
include hok hk

/-- Inside it the home slice takes the request. -/
theorem Dev.request_inside (kind : ReqKind) : d.request bt g line kind none =
    ((d.requested bt g k kind).homeServe bt d.coh.nextReq).settleLine bt k := by
  subst hk
  exact if_neg (fun hout => hout hok)

variable (hopen : d.homeOpen g k = true)
include hopen

/-- A write behind a read that waits at the holder in F joins the home slice's queue. -/
theorem Dev.request_waits (hkind : kind ≠ .rds) (hown : (d.dirEnt k).owner = none)
    (hheld : (d.requested bt g k kind).atHolder k d.coh.nextReq = true) : d.request bt g line kind none =
      ((d.requested bt g k kind).forward bt d.coh.nextReq ((d.requested bt g k kind).homeAgent k)
        { agent := g, line := k, kind, bt }).settleLine bt k := by
  rw [Dev.request_inside hok hk, Dev.homeServe_waits Dev.find_requested hopen hown hkind hheld]

variable (halone : ∀ p ∈ d.coh.reqs, p.2.line ≠ k)
include halone

/-- A request that is alone is answered by the home slice as the line's owner. -/
theorem Dev.request_answers (hown : (d.dirEnt k).owner = none) (hfwd : kind = .rds → (d.dirEnt k).fwd = none) :
    d.request bt g line kind none = ((d.requested bt g k kind).homeAnswer bt d.coh.nextReq
      { agent := g, line := k, kind, bt }).settleLine bt k := by
  have hothers : ∀ p ∈ (d.requested bt g k kind).coh.reqs, p.1 ≠ d.coh.nextReq → p.2.line ≠ k := by
    intro p hp hne
    rcases Dev.mem_requested hp with rfl | hp
    · exact absurd rfl hne
    · exact halone p hp
  rw [Dev.request_inside hok hk, Dev.homeServe_answers Dev.find_requested hopen hown hothers hfwd]

/-- A read of a line that nobody holds. -/
theorem Dev.request_read_unheld (hdir : d.dirEnt k = {}) : d.request bt g line .rds none =
    ((d.requested bt g k .rds).supplied d.coh.nextReq k).modDir k (fun e => { e with owner := some g, mod := false }) := by
  rw [Dev.request_answers hok hk hopen halone (by rw [hdir]) (fun _ => by rw [hdir]),
    Dev.homeAnswer_unheld rfl rfl (by rw [Dev.dirEnt_requested, hdir]; rfl), Dev.settleLine_supplied halone]

/-- A read of a line that agents share. -/
theorem Dev.request_read_shared (hown : (d.dirEnt k).owner = none) (hfwd : (d.dirEnt k).fwd = none) (hshar : (d.dirEnt k).shar ≠ []) :
    d.request bt g line .rds none = ((d.requested bt g k .rds).supplied d.coh.nextReq k).modDir k (fun e => { e with
      fwd := some g, shar := listDel e.shar g }) := by
  have hheld : (d.dirEnt k).held = true := by simp [DirEnt.held, hshar]
  rw [Dev.request_answers hok hk hopen halone hown (fun _ => hfwd), Dev.homeAnswer_shared rfl rfl hheld,
    Dev.settleLine_supplied halone]

/-- A write or an upgrade of a line that no agent owns. -/
theorem Dev.request_exclusive (hkind : kind ≠ .rds) (hown : (d.dirEnt k).owner = none) : d.request bt g line kind none =
    (((((d.requested bt g k kind).supplied d.coh.nextReq k).modDir k (fun e => { e with
      owner := some g, mod := true, fwd := none, shar := [] })).loseLine k (fun h => h != g)).lineGranted bt
        { agent := g, line := k, kind, bt }).settleLine bt k := by
  rw [Dev.request_answers hok hk hopen halone hown (fun h => absurd h hkind), Dev.homeAnswer_exclusive hkind]

/-- A request of a line that another agent owns goes to that agent's queue, or is refused (R268). -/
theorem Dev.request_owned (hown : (d.dirEnt k).owner = some o) (hother : o ≠ g) (hagent : o < 104) : d.request bt g line kind none =
    (d.requested bt g k kind).forward bt d.coh.nextReq o { agent := g, line := k, kind, bt } := by
  rw [Dev.request_inside hok hk, Dev.homeServe_owned Dev.find_requested hopen hown hother]
  refine Dev.settleLine_unqueued (fun p hp hline x hx => ?_)
  obtain ⟨q, hq, hsame, hto⟩ := Dev.mem_forward hp
  rcases Dev.mem_requested hq with rfl | hq
  · rcases hto with hto | hto
    · simp [hto] at hx
    · simp only [hto, Option.some.injEq] at hx
      omega
  · exact absurd (hsame ▸ hline) (halone q hq)

end Request

/-! ### Reads, writes and upgrades of an agent (R265) -/

theorem Dev.rds_miss (hown : (d.dirEnt k).owner ≠ some g) (hfwd : (d.dirEnt k).fwd ≠ some g) (hshar : g ∉ (d.dirEnt k).shar)
    (hasked : d.asked g k = false) (hk : k = d.lineKey g line) : d.rds bt g line none = d.request bt g line .rds none := by
  subst hk
  simp only [Dev.rds, hown, hfwd, hasked, List.contains_eq_mem, hshar, decide_false, Bool.false_eq_true, or_self, if_false]

theorem Dev.rdx_miss (hown : (d.dirEnt k).owner ≠ some g) (hasked : d.asked g k = false) (hk : k = d.lineKey g line) :
    d.rdx bt g line none = d.request bt g line .rdx none := by
  subst hk
  simp only [Dev.rdx, hown, hasked, Bool.false_eq_true, if_false]

/-- An owner writes silently. -/
theorem Dev.rdx_owner (hown : (d.dirEnt k).owner = some g) (hk : k = d.lineKey g line) :
    d.rdx bt g line none = d.modDir k (fun e => { e with mod := true }) := by
  subst hk
  exact if_pos hown

theorem Dev.upgrade_sharer (hshar : g ∈ (d.dirEnt k).shar) (hasked : d.asked g k = false) (hk : k = d.lineKey g line) :
    d.upgrade bt g line none = d.request bt g line .upgrade none := by
  subst hk
  exact if_pos ⟨.inr (List.contains_iff_mem.mpr hshar), by simp [hasked]⟩

/-- RDS, RDX and UPGRADE of an agent without an access that waits are these. -/
theorem exec_rds_line {s : State} (hd : s.dev.rds s.bt g line none = d) : exec (.rds g ⟨line, none⟩) s = .next { s with dev := d } :=
  exec_rds_next hd

theorem exec_rdx_line {s : State} (hd : s.dev.rdx s.bt g line none = d) : exec (.rdx g ⟨line, none⟩) s = .next { s with dev := d } :=
  exec_rdx_next hd

theorem exec_upgrade_line {s : State} (hd : s.dev.upgrade s.bt g line none = d) :
    exec (.upgrade g ⟨line, none⟩) s = .next { s with dev := d } := hd ▸ rfl

/-! ### Forwards at the owner and evictions (R262, R265, R267, R269) -/

section Owner

variable (hopen : d.homeOpen o k = true) (hown : (d.dirEnt k).owner = some o) (hk : k = d.lineKey o line)
include hopen hown hk

/-- An owner that supplies a read keeps S, and the requester takes F. -/
theorem Dev.fwds_owner (hfwd : d.oldestFwd o k true = some (n, r)) : d.fwds bt o line =
    (((((d.dropReq n).modDir k (fun e => { e with
      owner := none, mod := false, dirty := e.dirty || e.mod, fwd := some r.agent
      shar := listAdd (listDel e.shar r.agent) o })).lineGranted bt r).returnForwards bt o k).pump bt o).settleLine bt k := by
  subst hk
  simp only [Dev.fwds, hfwd, hopen, hown, not_true_eq_false, true_or, if_false, if_true]

/-- One that supplies a write loses the line, and the requester takes M. -/
theorem Dev.fwdx_owner (hfwd : d.oldestFwd o k false = some (n, r)) : d.fwdx bt o line =
    ((((((d.dropReq n).modDir k (fun e => { e with
      owner := some r.agent, mod := true, fwd := none, shar := [] })).loseLine k (fun h => h != r.agent)).lineGranted bt
        r).returnForwards bt o k).pump bt o).settleLine bt k := by
  subst hk
  simp only [Dev.fwdx, hfwd, hopen, hown, not_true_eq_false, if_false, if_true]

end Owner

/-- The owner of a line writes it back. -/
theorem Dev.evict_owner (hown : (d.dirEnt k).owner = some g) (hk : k = d.lineKey g line) : d.evict bt (some g) line =
    (((d.loseLine k (fun h => h == g)).modDir k (fun e => { e with
      owner := none, mod := false, dirty := e.dirty || e.mod })).returnForwards bt g k).settleLine bt k := by
  subst hk
  exact if_pos hown

/-- A slice recalls every copy of its victim. -/
theorem Dev.evict_victim (hkeep : (d.dirEnt line).keep = none) (hmem : 64 * line < 0xE00000000000) (hstream : d.streamFirst line = false)
    (hown : (d.dirEnt line).owner = none) (hfwd : (d.dirEnt line).fwd = none) : d.evict bt none line =
      ((d.modCoh (fun z => { z with dir := mapErase z.dir line })).loseLine line (fun _ => true)).settleLine bt line := by
  have hvictim : ¬((d.dirEnt line).keep.isSome = true ∨ 0xE00000000000 ≤ 64 * line ∨ d.streamFirst line = true) := by
    simp [hkeep, hstream, Nat.not_le.mpr hmem]
  simp only [Dev.evict, if_neg hvictim, hown, hfwd, Option.toList_none, List.append_nil, List.foldl_nil]

/-- A protected line is no victim, and neither is one behind a Stream line. -/
theorem Dev.evict_kept (h : (d.dirEnt line).keep.isSome = true ∨ d.streamFirst line = true) : d.evict bt none line = d :=
  if_pos (h.imp_right .inr)

/-! ### Retries and timeouts (R268, R270) -/

/-- A refused request is served again once its backoff is over. -/
theorem Dev.creditRetry_refused (hreq : mapFind? d.coh.reqs n = some r) (hto : r.fwdTo = none) (hret : r.ret = false)
    (hrefused : 0 < r.refused) : d.creditRetry bt n =
      if r.last + (min 1024 (r.refused * d.fget F.shcRetryCfgBackoff 0) * 5 + 11) / 12 ≤ bt then
        (d.homeServe bt n).settleLine bt r.line
      else d := by
  simp only [Dev.creditRetry, hreq, hto, hret, hrefused, Option.isNone_none, Bool.false_eq_true, not_false_eq_true, true_and]

section Timeout

variable {x : Nat} {e : Dev} (hreq : mapFind? d.coh.reqs n = some r) (hto : r.fwdTo = none) (hx : x = r.line % 2 ^ 48 * 64)
  (hlate : r.bt + d.fget F.kioTimeoutReqUs 0 * 1000 ≤ bt) (hcore : r.agent < 96)
  (he : e = ((d.dropReq n).tlog bt 5 51 (some (d.partOfAgent r.agent)) r.agent x).settleLine bt r.line)
  (hrun : e.runs r.agent = true)
include hreq hto hx hlate hcore he hrun

/-- A running core's request that is still at its home slice is abandoned after REQ_US. The access that waits for it takes its access
fault. -/
theorem Dev.reqTimeout_access {y : CoreAcc} (hacc : r.acc = some y) :
    d.reqTimeout bt n = e.coreTrap r.agent y.op.cause y.addr := by
  subst hx he
  simp only [Dev.reqTimeout, hreq, hto, hacc, hlate, hcore, hrun, and_self, if_true]

/-- Where none waits, a read takes a load access fault, and buffered stores to the line are dropped. -/
theorem Dev.reqTimeout_line (hacc : r.acc = none) : d.reqTimeout bt n = if r.kind = .rds then e.coreTrap r.agent 5 x
    else e.modHart r.agent (fun h => { h with
      stores := h.stores.filter (fun q => coreLine (e.partOfHart r.agent) q.1 != r.line), timedOut := h.timedOut ++ [x] }) := by
  subst hx he
  simp only [Dev.reqTimeout, hreq, hto, hacc, hlate, hcore, hrun, and_self, if_true]

end Timeout

theorem Dev.kiornTimeout_request (hn : n < 2 ^ 32) : d.kiornTimeout bt n = d.reqTimeout bt n := if_pos hn

/-- A local command's request that is abandoned makes its launch hung. -/
theorem Dev.kiornTimeout_command {c : Cmd} {y : Member} (hn : 2 ^ 32 ≤ n) (hcmd : mapFind? d.eng.cmds (n - 2 ^ 32) = some c)
    (hmem : d.member? c.l c.m = some y) (hlocal : d.localCmd (n - 2 ^ 32) c = true)
    (hlate : c.bt + d.fget F.kioTimeoutReqUs 0 * 1000 ≤ bt) : d.kiornTimeout bt n =
      (d.tlog bt 5 51 (some (d.partOfDie (y.ce / 26))) (d.ceUnit y.ce)).hang bt c.l c.m [y.ce] 0x04 F.resHangStatKioAbandon := by
  simp only [Dev.kiornTimeout, if_neg (Nat.not_lt.mpr hn), hcmd, hmem, hlocal, hlate, and_self, if_true]

/-- Settles O34: a request takes the branch that the line's directory entry and the requests of the line name, and so do the forward, the
eviction, the retry and the timeout of one. -/
theorem coherenceRequests : Obligations.CoherenceRequests := by
  unfold Obligations.CoherenceRequests
  simp only [exec_fwds, execFwds, exec_fwdx, execFwdx, exec_eviction, execEviction, exec_creditRetry, execCreditRetry,
    exec_kiornRequestTimeout, execKiornRequestTimeout, onDev_eq]
  refine ⟨?readUnheld, ?readShared, ?readOwned, ?outside, ?write, ?silent, ?upgrade, ?behindRead, ?suppliesRead, ?suppliesWrite,
    ?writesBack, ?recalls, ?kept, ?retry, ?stores, ?access, ?command⟩
  case readUnheld =>
    intro s g line k hok hk hopen halone hdir
    refine exec_rds_line ?_
    rw [Dev.rds_miss (by simp [hdir]) (by simp [hdir]) (by simp [hdir]) (Dev.asked_alone halone g) hk,
      Dev.request_read_unheld hok hk hopen halone hdir]
  case readShared =>
    intro s g line k hok hk hopen halone hown hfwd hshar hg
    refine exec_rds_line ?_
    rw [Dev.rds_miss (by simp [hown]) (by simp [hfwd]) hg (Dev.asked_alone halone g) hk,
      Dev.request_read_shared hok hk hopen halone hown hfwd hshar]
  case readOwned =>
    intro s g line k o d hok hk hopen halone hown hother hagent hfwd hshar hd
    refine exec_rds_line ?_
    rw [Dev.rds_miss (by simp [hown, hother]) (by simp [hfwd]) (by simp [hshar]) (Dev.asked_alone halone g) hk,
      Dev.request_owned hok hk hopen halone hown hother hagent, Dev.forward_new rfl, hd]
  case outside =>
    intro s g line k d hout hk hasked hdir hcore hd hrun
    refine exec_rds_line ?_
    rw [Dev.rds_miss (by simp [hdir]) (by simp [hdir]) (by simp [hdir]) hasked hk, hd,
      Dev.request_outside hout hcore (hd ▸ hrun)]
  case write =>
    intro s g line k hok hk hopen halone hown
    refine exec_rdx_line ?_
    rw [Dev.rdx_miss (by simp [hown]) (Dev.asked_alone halone g) hk, Dev.request_exclusive hok hk hopen halone (by decide) hown]
  case silent =>
    intro s g line k hk hown
    exact exec_rdx_line (Dev.rdx_owner hown hk)
  case upgrade =>
    intro s g line k hok hk hopen halone hown hshar
    refine exec_upgrade_line ?_
    rw [Dev.upgrade_sharer hshar (Dev.asked_alone halone g) hk, Dev.request_exclusive hok hk hopen halone (by decide) hown]
  case behindRead =>
    rintro s g line k n d r hok hk hopen hasked hown rfl rfl rfl hheld
    refine exec_rdx_line ?_
    rw [Dev.rdx_miss (by simp [hown]) hasked hk, Dev.request_waits hok hk hopen (by decide) hown hheld]
  case suppliesRead =>
    intro s o line k n r hk hfwd hopen hown
    rw [Dev.fwds_owner hopen hown hk hfwd]
  case suppliesWrite =>
    intro s o line k n r hk hfwd hopen hown
    rw [Dev.fwdx_owner hopen hown hk hfwd]
  case writesBack =>
    intro s g line k hk hown
    rw [Dev.evict_owner hown hk]
  case recalls =>
    intro s line hkeep hmem hstream hown hfwd
    rw [Dev.evict_victim hkeep hmem hstream hown hfwd]
  case kept =>
    intro s line hkept
    rw [Dev.evict_kept hkept]
  case retry =>
    intro s n o r hreq hto hret hrefused hopen hown hother
    rw [Dev.creditRetry_refused hreq hto hret hrefused, Dev.homeServe_owned hreq hopen hown hother, Dev.forward_new hret]
  case stores =>
    intro s n x r d hn hreq hto hacc hx hlate hcore hd hrun
    rw [Dev.kiornTimeout_request hn, Dev.reqTimeout_line hreq hto hx hlate hcore hd hrun hacc]
  case access =>
    intro s n x r y d hn hreq hto hacc hx hlate hcore hd hrun
    rw [Dev.kiornTimeout_request hn, Dev.reqTimeout_access hreq hto hx hlate hcore hd hrun hacc]
  case command =>
    intro s n c y hn hcmd hmem hlocal hlate
    rw [Dev.kiornTimeout_command hn hcmd hmem hlocal hlate]

end Sys2Proof.Machine
end

section
/-! SUPPORT. Slice errors, the carve-out and the Kiorn links (R278, R280 to R285). What an error of a slice and of a lane does is log entry
83, what refuses a write of `SHC.PART_CFG` log entry 117. -/

namespace Sys2Proof.Machine

variable {bt n line link g a : Nat} {d : Dev} {p : Party} {v : Word}

/-! ### Slice errors (R281) -/

section Slice

variable (hat : d.atSlice n line = true)
include hat

/-- A correctable error is counted. -/
theorem Dev.sliceError_corrected :
    d.sliceError bt n line .corrected = (d.fbump F.shcSliceStat2Corrected n 1).corrected bt 5 (wayUnit n line) := if_pos hat

/-- An uncorrectable one in a dirty line poisons its granule, and counts against the way. -/
theorem Dev.sliceError_dirtyData {e : Dev} (he : e = ((((d.fbump F.shcSliceStat2Poisoned n 1).modDir (d.sliceKey n line) (fun e => { e with
      dirty := false })).tlog bt 4 52 (d.memOwner (64 * line)) n (64 * line)).notePoison (d.sliceKey n line)).histAdd bt 1 5 7
        (wayUnit n line)) :
    d.sliceError bt n line .dirtyData = if e.permanent bt 5 (wayUnit n line) then e.wayOut bt n line else e := by
  subst he
  exact if_pos hat

/-- One in a directory entry recalls every copy; no agent's queue holds a request of a line that none owns or has in F. -/
theorem Dev.sliceError_directory {e : Dev} {k : Nat} (hk : k = d.sliceKey n line) (hown : (d.dirEnt k).owner = none)
    (hfwd : (d.dirEnt k).fwd = none) (he : e = (((d.modDir k (fun e => { e with
      owner := none, mod := false, fwd := none, shar := [], dirty := true })).loseLine k (fun _ => true)).settleLine bt k).histAdd bt 1 5 7
        (wayUnit n line)) :
    d.sliceError bt n line .directory = if e.permanent bt 5 (wayUnit n line) then e.wayOut bt n line else e := by
  subst hk he
  simp only [Dev.sliceError, hat, hown, hfwd, if_true, Option.toList_none, List.append_nil, List.foldl_nil]

theorem Dev.sliceError_transfer (c r : Nat) (bad : Bool) :
    d.sliceError bt n line (.transfer c r bad) = d.hbmTransfer bt line c r bad := if_pos hat

end Slice

/-- A line that does not lie at the slice meets no error there. -/
theorem Dev.sliceError_elsewhere (hat : d.atSlice n line = false) (e : SliceErr) : d.sliceError bt n line e = d :=
  if_neg (by simp [hat])

/-! ### Lane groups (R283, R284) -/

section Lanes

variable (hup : d.groupUp link g = true)
include hup

/-- A flit that fails its CRC is replayed, and counts for a millisecond. -/
theorem Dev.flitFail_up : d.flitFail bt link g =
    ((d.fbump F.kioLinkErrReplays link 1).setLaneGrp link g { d.laneGrp link g with
      errs := (d.laneGrp link g).errs.filter (fun t => decide (bt < t + 1000000)) ++ [bt] }).corrected bt 4 (16 * link + g) := if_pos hup

variable
  (hdue : d.fget F.kioLinkCfgRetrainErr link < ((d.laneGrp link g).errs.filter (fun t => decide (bt < t + 1000000))).length)
include hdue

/-- A group whose lanes pass the retraining begins to count its errors anew, unless it has been retrained too often. -/
theorem Dev.retrain_passes {rs : List Nat}
    (hrs : rs = (d.laneGrp link g).retrains.filter (fun t => decide (bt < t + 10 ^ 10)) ++ [bt])
    (hfew : rs.length ≤ (d.fbump F.kioLinkErrRetrains link 1).fget F.kioLinkCfgSwapAfter link) :
    d.retrain bt link g false = (d.fbump F.kioLinkErrRetrains link 1).setLaneGrp link g { errs := [], retrains := rs } := by
  subst hrs
  refine (if_pos ⟨hup, hdue⟩).trans (if_neg ?_)
  simpa using hfew

/-- A lane that fails it is replaced by the group's spare; a group whose spare is in use goes down. -/
theorem Dev.retrain_fails {e : Dev}
    (he : e = ((d.fbump F.kioLinkErrRetrains link 1).setLaneGrp link g {}).histAdd bt 1 4 9 (16 * link + g)) :
    d.retrain bt link g true = if bit (e.fget F.kioLinkStatusSpareUsed link) g then e.groupDown bt link g
      else (e.fset F.kioLinkStatusSpareUsed link (e.fget F.kioLinkStatusSpareUsed link ||| 2 ^ g)).fbump F.kioLinkErrSwaps link 1 := by
  subst he
  exact (if_pos ⟨hup, hdue⟩).trans (if_pos (.inl rfl))

end Lanes

/-! ### Writes of `SHC.PART_CFG` (R278, R280) -/

/-- More than 12 ways in all are refused, with CONFLICT while the partition holds a context. -/
theorem Dev.partCfgWrite_tooMany (hmany : 12 < d.fwould p v F.shcPartCfgRbWays a + d.fwould p v F.shcPartCfgKeepWays a) :
    d.partCfgWrite p a v = d.refuse .shcPartCfg a (d.ctxs.any (fun c => c.2.live && d.partOfCtx c.1 == a)) := by
  rw [Dev.partCfgWrite, decide_eq_true hmany, Dev.regWrite_turned _ _ _ _ _ _ _ (verdict_ne_ok _), verdict_is_conflict]

/-- Ways returned by a partition without contexts take the carve-out's lines and bytes with them. -/
theorem Dev.partCfgWrite_shrinks {e : Dev} (hok : d.writeOk p .shcPartCfg a v = true)
    (hfits : d.fwould p v F.shcPartCfgRbWays a + d.fwould p v F.shcPartCfgKeepWays a ≤ 12)
    (hidle : d.ctxs.any (fun c => c.2.live && d.partOfCtx c.1 == a) = false)
    (hless : d.fwould p v F.shcPartCfgRbWays a < d.fget F.shcPartCfgRbWays a)
    (he : e = d.setReg .shcPartCfg a (d.afterWrite p .shcPartCfg a v)) : d.partCfgWrite p a v =
      (e.recallLines (fun k => k / 2 ^ 48 == a + 1)).setRb a ((e.rbMem a).filter (fun c => decide (c.1 < e.rbSize a))) := by
  rw [Dev.partCfgWrite, verdict_eq_ok (decide_eq_false (Nat.not_lt.mpr hfits)) hidle, Dev.regWrite_ok d p _ _ v _ hok, ← he,
    if_neg hless.ne, if_neg hless.asymm]

/-- Settles O35: an error of a slice is of the kind it names, a lane group's retraining passes or fails, and a write is refused or its
ways are returned. -/
theorem sliceAndLinks : Obligations.SliceAndLinks := by
  unfold Obligations.SliceAndLinks
  simp only [exec_sliceEccError, execSliceEccError, exec_flitCrcFail, execFlitCrcFail, exec_laneGroupRetrain, execLaneGroupRetrain,
    exec_partCfgWrite, execPartCfgWrite, onDev_eq]
  refine ⟨?corrected, ?dirtyData, ?directory, ?transfer, ?elsewhere, ?replayed, ?passes, ?fails, ?tooMany, ?shrinks⟩
  case corrected =>
    intro s n line hat
    rw [Dev.sliceError_corrected hat]
  case dirtyData =>
    rintro s n line k d hat rfl hd
    rw [Dev.sliceError_dirtyData hat hd]
  case directory =>
    intro s n line k d hat hk hown hfwd hd
    rw [Dev.sliceError_directory hat hk hown hfwd hd]
  case transfer =>
    intro s n line c r bad hat
    rw [Dev.sliceError_transfer hat]
  case elsewhere =>
    intro s n line e hat
    rw [Dev.sliceError_elsewhere hat]
  case replayed =>
    intro s link g hup
    rw [Dev.flitFail_up hup]
  case passes =>
    intro s link g rs hup hdue hrs hfew hkept
    rw [Dev.retrain_passes hup hdue hrs (hkept ▸ hfew)]
  case fails =>
    intro s link g d hup hdue hd
    rw [Dev.retrain_fails hup hdue hd]
  case tooMany =>
    intro s p a v _ hmany
    rw [Dev.partCfgWrite_tooMany hmany]
  case shrinks =>
    rintro s p a rb v d e hok rfl hfits hidle hless hd rfl
    rw [Dev.partCfgWrite_shrinks hok hfits hidle hless hd]

end Sys2Proof.Machine
end

section
/-! SUPPORT. The HBM interleave (R290): it keeps the row and the byte within the unit, and turns the channels of a row round by a fold of the
row's bits, so each row is a bijection of the channels. -/

namespace Sys2Proof.Machine

/-! ### Rows and turns -/

/-- f of R290: how far row `g` is turned round the channels. -/
def interleaveFold (g : Nat) : Nat := bits g 9 0 ^^^ bits g 19 10 ^^^ bits g 29 20

variable {C i u b x y n l : Nat}

theorem interleave_eq : interleave C x =
    ((x / 512 + interleaveFold (x / 512 / C)) % C, x / 512 / C * 512 + x % 512) :=
  Prod.ext (Nat.add_mod ..).symm rfl

theorem interleave_chan : (interleave C x).1 = (x / 512 + interleaveFold (x / 512 / C)) % C := by rw [interleave_eq]

theorem interleave_row : (interleave C x).2 / 512 = x / 512 / C := by
  rw [interleave_eq]
  omega

theorem interleave_byte : (interleave C x).2 % 512 = x % 512 := by
  rw [interleave_eq]
  omega

/-- Byte `b` of unit `u`. -/
theorem interleave_unit (hb : b < 512) : interleave C (u * 512 + b) = ((u + interleaveFold (u / C)) % C, u / C * 512 + b) := by
  have hunit : (u * 512 + b) / 512 = u := by omega
  have hbyte : (u * 512 + b) % 512 = b := by omega
  rw [interleave_eq, hunit, hbyte]

/-! ### The bijection -/

/-- The first `n` rows of the channels lie in the first `n` units of each. -/
theorem interleave_lt (hC : 0 < C) (hx : x < n * C * 512) : (interleave C x).1 < C ∧ (interleave C x).2 < n * 512 := by
  have hrow : x / 512 / C < n :=
    Nat.div_lt_of_lt_mul (Nat.div_lt_of_lt_mul (by rwa [Nat.mul_comm 512, Nat.mul_comm C]))
  rw [← interleave_row] at hrow
  exact ⟨interleave_chan ▸ Nat.mod_lt _ hC, by omega⟩

/-- Units of one row that land on one channel are the same unit: equal turns cancel. -/
theorem interleave_inj (h : interleave C x = interleave C y) : x = y := by
  have hrow : x / 512 / C = y / 512 / C := by rw [← interleave_row, h, interleave_row]
  have hbyte : x % 512 = y % 512 := by rw [← interleave_byte (C := C), h, interleave_byte]
  have hchan := congrArg Prod.fst h
  rw [interleave_chan, interleave_chan, hrow] at hchan
  have hcol : x / 512 % C = y / 512 % C := Nat.ModEq.add_right_cancel' _ hchan
  have hunit : x / 512 = y / 512 := by rw [← Nat.div_add_mod (x / 512) C, hrow, hcol, Nat.div_add_mod]
  omega

/-- The column of a row that a turn by `f` takes to channel `i`. -/
theorem exists_turned (hi : i < C) (f : Nat) : ∃ c < C, (c + f) % C = i := by
  have hC : 0 < C := Nat.zero_lt_of_lt hi
  refine ⟨(i + (C - f % C)) % C, Nat.mod_lt _ hC, ?_⟩
  have hturn : i + (C - f % C) + f % C = i + C := by have := Nat.mod_lt f hC; omega
  rw [Nat.mod_add_mod, ← Nat.add_mod_mod, hturn, Nat.add_mod_right, Nat.mod_eq_of_lt hi]

/-- Every place of the first `n` units of the channels is taken by an offset of the first `n` rows. -/
theorem exists_interleave (hi : i < C) (hl : l < n * 512) : ∃ x, x < n * C * 512 ∧ interleave C x = (i, l) := by
  obtain ⟨c, hc, hchan⟩ := exists_turned hi (interleaveFold (l / 512))
  have hC : 0 < C := Nat.zero_lt_of_lt hi
  have hrow : (c + l / 512 * C) / C = l / 512 := by rw [Nat.add_mul_div_right _ _ hC, Nat.div_eq_of_lt hc, Nat.zero_add]
  have hunit : c + l / 512 * C < n * C := (Nat.div_lt_iff_lt_mul hC).mp (by omega)
  refine ⟨(c + l / 512 * C) * 512 + l % 512, by omega, ?_⟩
  rw [interleave_unit (Nat.mod_lt _ (by decide)), hrow, Nat.add_right_comm, Nat.add_mul_mod_self_right, hchan, Nat.div_add_mod']

/-! ### The regions -/

theorem Dev.hbmPlace_region {d : Dev} {r : Region} (hr : d.regionOf x = some r) :
    d.hbmPlace x = some (r.chans.getD (interleave r.chans.length (x - r.base)).1 0,
      (interleave r.chans.length (x - r.base)).2 + r.start) := by
  simp only [Dev.hbmPlace, hr]

/-- Settles O7: a row of units meets every channel once, for its turn is the same for all its units. -/
theorem hbmInterleave : Obligations.HbmInterleave := by
  unfold Obligations.HbmInterleave
  refine ⟨?formula, ?placed, ?starts, ?inside, ?injective, ?surjective, ?sample⟩
  case formula =>
    rintro C x u g rfl rfl
    simp [interleave, bits]
  case placed => exact fun d x r => Dev.hbmPlace_region
  case starts => exact fun d a => ⟨rfl, rfl, rfl, rfl⟩
  case inside => exact fun C n x => interleave_lt
  case injective => exact fun C x y _ => interleave_inj
  case surjective => exact fun C n i l => exists_interleave
  case sample => decide

end Sys2Proof.Machine
end

section
/-! SUPPORT. Memory maintenance (R292 to R298, R302): scrub, repairs and channels that fail, the command slot, the test mode, and a new
interleave. What a test and a new interleave leave in memory is log entry 30, what carries a channel's mark log entry 37. -/

namespace Sys2Proof.Machine

variable {bt c n : Nat} {d : Dev} {p : Party} {v : Word}

/-! ### Patrol scrub (R293) -/

/-- The slot for scrub fires: every channel that scrub owns takes its step. -/
theorem Dev.scrubWalk_due {e : Dev} (hslot : d.slotDue bt 8 4 = some n) (hfire : d.fireSlot bt 8 n 4 = some e)
    (found : List (Nat × Nat × Nat × List Nat)) : d.scrubWalk bt found =
      ((List.range 1024).filter (fun c => e.fget F.hbmcChSlotOwner c == 1)).foldl (Dev.scrubChan bt found) e := by
  simp only [Dev.scrubWalk, hslot, Option.bind_some, hfire]

theorem Dev.scrubWalk_not_due (hslot : d.slotDue bt 8 4 = none) (found : List (Nat × Nat × Nat × List Nat)) :
    d.scrubWalk bt found = d := by
  simp only [Dev.scrubWalk, hslot, Option.bind_none]

/-! ### Repairs and retirement (R294 to R296) -/

section Channel

variable (hc : c < 1024) (hst : d.chanState c ≠ 2)
include hc hst

/-- A channel of the device that is not RETIRED. -/
theorem Dev.inService : ¬(1024 ≤ c ∨ d.chanState c = 2) := not_or.mpr ⟨Nat.not_le.mpr hc, hst⟩

theorem Dev.laneRepair_inService {e : Dev} (he : e = (d.fbump F.hbmcChEccCrcRetry c 16).histAdd bt 1 7 9 c) (left : Bool) :
    d.laneRepair bt c left =
      if left then (e.fbump F.hbmcChStatusLanesUsed c 1).repaired bt 7 c else e.markChan bt c := by
  subst he
  exact if_neg (Dev.inService hc hst)

theorem Dev.rowRepair_inService (left : Bool) : d.rowRepair bt c left =
    if left then (d.fbump F.hbmcChStatusRowsRepaired c 1).repaired bt 8 c else d.markChan bt c :=
  if_neg (Dev.inService hc hst)

theorem Dev.chanFail_inService : d.chanFail bt c =
    (d.fset F.hbmcChStatusState c 3).tlog bt 6 62 (some (d.partOfDie (c / 128))) c :=
  if_neg (Dev.inService hc hst)

end Channel

/-- An ACTIVE channel becomes MARKED. -/
theorem Dev.markChan_active (hst : d.chanState c = 0) : d.markChan bt c =
    ((d.fset F.hbmcChStatusState c 1).histAdd bt 3 10 0 c).tlog bt 6 60 (some (d.partOfDie (c / 128))) c := if_pos hst

/-! ### The command slot (R297) -/

/-- A free slot goes to the owner that asks for it, other than the test, which needs a partition without contexts. -/
theorem Dev.chSlotWrite_claim (hok : d.writeOk p .hbmcChSlot c v = true) (hfree : d.fget F.hbmcChSlotOwner c = 0)
    (hnew : d.fwould p v F.hbmcChSlotOwner c ≠ 3) :
    d.chSlotWrite p c v = d.setReg .hbmcChSlot c (d.afterWrite p .hbmcChSlot c v) := by
  have hclaims : ((d.fget F.hbmcChSlotOwner c != 0 && d.fwould p v F.hbmcChSlotOwner c != 0 &&
      d.fwould p v F.hbmcChSlotOwner c != d.fget F.hbmcChSlotOwner c) ||
      (d.fwould p v F.hbmcChSlotOwner c == 3 && d.admitted (d.partOfDie (c / 128)))) = false := by
    simp [hfree, hnew]
  rw [Dev.chSlotWrite, verdict_eq_ok rfl hclaims, Dev.regWrite_ok _ _ _ _ _ _ hok, id]

/-- A slot that another owner holds is not claimed. -/
theorem Dev.chSlotWrite_held (hheld : d.fget F.hbmcChSlotOwner c ≠ 0) (hclaim : d.fwould p v F.hbmcChSlotOwner c ≠ 0)
    (hother : d.fwould p v F.hbmcChSlotOwner c ≠ d.fget F.hbmcChSlotOwner c) :
    d.chSlotWrite p c v = d.refuse .hbmcChSlot c true := by
  have hclaims : (d.fget F.hbmcChSlotOwner c != 0 && d.fwould p v F.hbmcChSlotOwner c != 0 &&
      d.fwould p v F.hbmcChSlotOwner c != d.fget F.hbmcChSlotOwner c) = true := by
    simp [hheld, hclaim, hother]
  rw [Dev.chSlotWrite, hclaims, Bool.true_or, verdict_t, Dev.regWrite_conflict]

/-! ### Test mode (R302) -/

/-- START by the slot's test owner destroys the channel's contents. -/
theorem Dev.testCfgWrite_start {e : Dev} (hok : d.writeOk p .hbmcChTestCfg c v = true) (hstart : bit v.toNat 5 = true)
    (hstop : bit v.toNat 6 = false) (howner : d.fget F.hbmcChSlotOwner c = 3)
    (he : e = d.setReg .hbmcChTestCfg c (d.afterWrite p .hbmcChTestCfg c v)) :
    d.testCfgWrite p c v = (e.setReg .hbmcChTestStat c (BitVec.ofNat 64 (2 ^ 33))).scramble (e.inChan c) := by
  have howns : (bit v.toNat 5 && d.fget F.hbmcChSlotOwner c != 3) = false := by simp [howner]
  subst he
  rw [Dev.testCfgWrite, verdict_eq_ok howns rfl, Dev.regWrite_ok _ _ _ _ _ _ hok]
  simp only [hstart, hstop, if_true, Bool.false_eq_true, false_and, if_false]

/-- START by another is refused. -/
theorem Dev.testCfgWrite_unowned (hstart : bit v.toNat 5 = true) (howner : d.fget F.hbmcChSlotOwner c ≠ 3) :
    d.testCfgWrite p c v = d.refuse .hbmcChTestCfg c false := by
  have hturned : (bit v.toNat 5 && d.fget F.hbmcChSlotOwner c != 3) = true := by simp [hstart, howner]
  rw [Dev.testCfgWrite, hturned, verdict_tf, Dev.regWrite_refuse]

/-- STOP ends a running walk with what it has counted so far. -/
theorem Dev.testCfgWrite_stop {e : Dev} (hok : d.writeOk p .hbmcChTestCfg c v = true) (hstart : bit v.toNat 5 = false)
    (hstop : bit v.toNat 6 = true) (he : e = d.setReg .hbmcChTestCfg c (d.afterWrite p .hbmcChTestCfg c v))
    (hrunning : e.fon F.hbmcChTestStatRunning c = true) :
    d.testCfgWrite p c v = ((((e.fset F.hbmcChTestStatRunning c 0).fset F.hbmcChTestStatDone c 1).fset F.hbmcChTestStatErrors c
      (Config.freeNat e.free)).fset F.hbmcChTestStatFirstFail c (Config.freeNat (e.free + 1))).took 2 := by
  have howns : (bit v.toNat 5 && d.fget F.hbmcChSlotOwner c != 3) = false := by simp [hstart]
  rw [Dev.testCfgWrite, verdict_eq_ok howns rfl, Dev.regWrite_ok _ _ _ _ _ _ hok, ← he]
  simp only [hstart, hstop, hrunning, Bool.false_eq_true, if_false, and_self, if_true]

/-- A walk that ends with errors shows their count and the first of them. -/
theorem Dev.testDone_errors {first : Nat} (hrunning : d.fon F.hbmcChTestStatRunning c = true) (hpos : 0 < n) (hlt : n < 2 ^ 32) :
    d.testDone c n first = (((d.fset F.hbmcChTestStatRunning c 0).fset F.hbmcChTestStatDone c 1).fset F.hbmcChTestStatErrors c n).fset
      F.hbmcChTestStatFirstFail c first := by
  have hcount : min (2 ^ 32 - 1) n = n := Nat.min_eq_right (Nat.le_pred_of_lt hlt)
  simp only [Dev.testDone, if_pos hrunning, hcount, if_neg hpos.ne']

/-! ### Writes of `HBMC.IL_CFG` (R291) -/

/-- A partition of several dies without contexts takes a W that leaves 16 MiB of each channel. -/
theorem Dev.ilCfgWrite_idle {a : Nat} {e : Dev} (hok : d.writeOk p .hbmcIlCfg a v = true)
    (hfits : d.fwould p v F.hbmcIlCfgWideMib a * 2 ^ 20 + 16 * 2 ^ 20 ≤ d.chanCap) (hdies : 1 < d.dies a) (hidle : d.admitted a = false)
    (he : e = d.setReg .hbmcIlCfg a (d.afterWrite p .hbmcIlCfg a v)) : d.ilCfgWrite p a v = e.scramble (e.hbmAddr a) := by
  have hallowed : (decide (d.chanCap < d.fwould p v F.hbmcIlCfgWideMib a * 2 ^ 20 + 16 * 2 ^ 20) ||
      (decide (d.dies a = 1) && d.fwould p v F.hbmcIlCfgWideMib a * 2 ^ 20 != 0)) = false := by
    rw [decide_eq_false (Nat.not_lt.mpr hfits), decide_eq_false hdies.ne', Bool.false_and, Bool.or_false]
  rw [Dev.ilCfgWrite, verdict_eq_ok hallowed hidle, Dev.regWrite_ok _ _ _ _ _ _ hok, he]

theorem Dev.ilCfgWrite_admitted {a : Nat} (hctx : d.admitted a = true) : d.ilCfgWrite p a v = d.refuse .hbmcIlCfg a true := by
  rw [Dev.ilCfgWrite, hctx, verdict_t, Dev.regWrite_conflict]

/-! ### DDR byte lanes (R298) -/

/-- A lane that fails without an uncorrectable line takes one of the two spare lanes, while one is left. -/
theorem Dev.byteLaneFail_spare {e : Dev} (hc : c < 16) (hst : d.fget F.ddrcChStatusState c ≠ 0)
    (he : e = ((d.fbump F.ddrcChEccCorrected c n).fbump F.ddrcChEccUncorr c 0).histAdd bt 1 9 7 c)
    (hspare : e.fget F.ddrcChStatusSpareLanes c < 2) : d.byteLaneFail bt c n [] =
      (e.fset F.ddrcChStatusSpareLanes c (e.fget F.ddrcChStatusSpareLanes c + 1)).histAdd bt 2 9 0 c := by
  subst he
  exact (if_neg (not_or.mpr ⟨Nat.not_le.mpr hc, hst⟩)).trans (if_pos hspare)

/-- Settles O36: a due scrub slot, a repair, a failing channel or lane and a write of a maintenance register each take the branch that the
channel's state, the slot's owner and the partition's contexts name. -/
theorem memoryMaintenance : Obligations.MemoryMaintenance := by
  unfold Obligations.MemoryMaintenance
  simp only [exec_scrubWalk, execScrubWalk, exec_hbmLaneRepair, execHbmLaneRepair, exec_hbmRowRepair, execHbmRowRepair,
    exec_hbmChannelFail, execHbmChannelFail, exec_chSlotWrite, execChSlotWrite, exec_testStart, execTestStart, exec_testStop, execTestStop,
    exec_testDone, execTestDone, exec_ilCfgWrite, execIlCfgWrite, exec_ddrByteLaneFail, execDdrByteLaneFail, onDev_eq]
  refine ⟨?scrub, ?noScrub, ?laneSpare, ?laneMarks, ?rowSpare, ?rowMarks, ?fails, ?claim, ?held, ?start, ?unowned, ?stop, ?done,
    ?interleave, ?admitted, ?byteLane⟩
  case scrub =>
    intro s found n d hslot hfire
    rw [Dev.scrubWalk_due hslot hfire]
  case noScrub =>
    intro s found hslot
    rw [Dev.scrubWalk_not_due hslot]
  case laneSpare =>
    intro s c hc hst
    rw [Dev.laneRepair_inService hc hst rfl, if_pos rfl]
  case laneMarks =>
    intro s c hc hst
    rw [Dev.laneRepair_inService hc hst rfl, if_neg Bool.false_ne_true]
  case rowSpare =>
    intro s c hc hst
    rw [Dev.rowRepair_inService hc hst, if_pos rfl]
  case rowMarks =>
    intro s c hc hst
    rw [Dev.rowRepair_inService hc (by simp [hst]), if_neg Bool.false_ne_true, Dev.markChan_active hst]
  case fails =>
    intro s c hc hst
    rw [Dev.chanFail_inService hc hst]
  case claim =>
    intro s p c v hok hfree hnew
    rw [Dev.chSlotWrite_claim hok hfree hnew]
  case held =>
    intro s p c v _ hheld hclaim hother
    rw [Dev.chSlotWrite_held hheld hclaim hother]
  case start =>
    intro s p c v d hok hstart hstop howner hd
    rw [Dev.testCfgWrite_start hok hstart hstop howner hd]
  case unowned =>
    intro s p c v _ hstart howner
    rw [Dev.testCfgWrite_unowned hstart howner]
  case stop =>
    intro s p c v d hok hstart hstop hd hrunning
    rw [Dev.testCfgWrite_stop hok hstart hstop hd hrunning]
  case done =>
    intro s c n f hrunning hpos hlt
    rw [Dev.testDone_errors hrunning hpos hlt]
  case interleave =>
    intro s p a v hok hfits hdies hidle
    rw [Dev.ilCfgWrite_idle hok hfits hdies hidle rfl]
  case admitted =>
    intro s p a v _ hctx
    rw [Dev.ilCfgWrite_admitted hctx]
  case byteLane =>
    intro s c n d hc hst hd hspare
    rw [Dev.byteLaneFail_spare hc hst hd hspare]

end Sys2Proof.Machine
end

section
/-! SUPPORT. The queue of commands (R476). -/

namespace Sys2Proof.Machine

theorem step_pending {s : State} {c : Instr} {rest : List Instr} (h : s.pending = c :: rest) :
    step s = exec c { s with pending := rest } := by
  unfold step
  rw [h]

/-- Settles O1: a step matches on the queue. -/
theorem frontCommandRuns : Obligations.FrontCommandRuns := fun _ _ _ => step_pending

end Sys2Proof.Machine
end

section
/-! SUPPORT. Translation faults (R312, R317 to R325). A failing walker is log entries 41 and 96. -/

namespace Sys2Proof.Machine

variable {bt a c ava : Nat} {d e : Dev} {p : Party} {v : Word} {h : Held}

/-! ### A translation that misses both caches (R312) -/

section Walk

variable {u : Nat} (hfirst : tlbHit (d.tlb u) c ava = none) (hsecond : tlbHit (d.tlb (d.partOfCtx c)) c ava = none)
  (he : e = (d.fbump F.xlatTlbStatL2Misses (d.partOfCtx c) 1).fbump F.xlatWalkStatWalks (d.partOfCtx c) 1)
include hfirst hsecond he

theorem Dev.translate_page {g : Page} (hwalk : e.walkTable c ava = .page g) :
    d.translate u c ava = (.page g, (e.tlbAdd (d.partOfCtx c) c g).tlbAdd u c g) := by
  subst he
  simp only [Dev.translate, hfirst, hsecond, hwalk]

theorem Dev.translate_unmapped (hwalk : e.walkTable c ava = .unmapped) : d.translate u c ava = (.unmapped, e) := by
  subst he
  simp only [Dev.translate, hfirst, hsecond, hwalk]

end Walk

/-- A read reaches a page of its own partition. -/
theorem Dev.access_readLocal {u : Nat} {g : Page} {remote soft : Bool} (htr : d.translate u c ava = (.page g, e))
    (hlocal : e.isLocal (e.partOfCtx c) g.dpa = true) : d.access bt u c ava false remote soft = (.ok g, e) := by
  simp only [Dev.access, htr, hlocal, not_true_eq_false, false_and, if_false, Bool.false_eq_true]

theorem Dev.access_unmapped {u : Nat} {write remote : Bool} (htr : d.translate u c ava = (.unmapped, e)) :
    d.access bt u c ava write remote true = (.fault 1, e) := by
  simp only [Dev.access, htr, if_true]

/-! ### WALK (R312, R317) -/

section Engine

variable {g x : Nat} {t : Xfer} {write : Bool} (hfind : d.ring.xfers.find? (fun x => x.2.engine == g) = some (x, t))
  (hserves : t.ctx = c ∧ t.inward = write ∧ ¬t.fault ∧ t.ava + t.moved = ava)
include hfind hserves

/-- The transfer that a host transfer engine serves finds its page. -/
theorem Dev.walkAccess_engine_ok {q : Page} (hacc : d.access bt (tlbHte g) c ava write false true = (.ok q, e)) :
    d.walkAccess bt 1 g c ava write = e := by
  simp only [Dev.walkAccess, hfind, hserves, hacc, Nat.one_ne_zero, if_false, Bool.false_eq_true, not_false_eq_true, and_self, if_true]

/-- A fault holds the transfer. -/
theorem Dev.walkAccess_engine_fault {cause : Nat} (hacc : d.access bt (tlbHte g) c ava write false true = (.fault cause, e)) :
    d.walkAccess bt 1 g c ava write = (e.modRing (fun z => { z with xfers := mapPut z.xfers x { t with fault := true } })).holdFault {
      part := e.partOfCtx c, kind := 1, source := g, cause, write, ctx := c, ava, bt, id := none, cmd := some x } := by
  simp only [Dev.walkAccess, hfind, hserves, hacc, Nat.one_ne_zero, if_false, Bool.false_eq_true, not_false_eq_true, and_self, if_true]
  rfl

end Engine

section Queue

variable {source n : Nat} {write : Bool} {q : Cmd} {l : Launch} {y : Member} (hcmd : d.cmdAt source c ava write = some (n, q))
  (hl : d.launch? q.l = some l) (hy : d.member? q.l q.m = some y)
include hcmd hl hy

/-- The command of a transfer queue finds its page. -/
theorem Dev.walkAccess_queue_ok {g : Page} (hacc : d.access bt (tlbCe y.ce) c ava write true l.faultable = (.ok g, e)) :
    d.walkAccess bt 0 source c ava write = e := by
  simp only [Dev.walkAccess, hcmd, hl, hy, hacc, if_true]

/-- A fault holds the queue, if it holds none yet (R100). -/
theorem Dev.walkAccess_queue_fault {cause : Nat}
    (hacc : d.access bt (tlbCe y.ce) c ava write true l.faultable = (.fault cause, e))
    (hfree : e.holds (e.partOfCtx c) 0 (e.tqSource y.ce q.q) = false) :
    d.walkAccess bt 0 source c ava write = (e.modEng (fun z => { z with
      cmds := mapModify z.cmds n (fun c => { c with fault := true }) })).holdFault {
        part := e.partOfCtx c, kind := 0, source := e.tqSource y.ce q.q, cause, write := q.op.writes, ctx := c, ava, bt
        id := none, cmd := some n } := by
  simp only [Dev.walkAccess, hcmd, hl, hy, hacc, if_true, Dev.cmdFault, hfree, Bool.false_eq_true, if_false]

end Queue

/-! ### Ending a held fault (R323, R324) -/

section Command

variable {n : Nat} (hkind : h.kind = 0) (hcmd : h.cmd = some n)
include hkind hcmd

theorem Dev.retryHeld_command : d.retryHeld bt h =
    (Dev.postFaults (d.modXlat (fun z => { z with held := z.held.erase h })) h.part).modEng (fun z => { z with
      cmds := mapModify z.cmds n (fun c => { c with fault := false, bt := c.bt + (bt - h.bt) }) }) := by
  simp only [Dev.retryHeld, hkind, hcmd, Dev.dropHeld]

theorem Dev.failHeld_command : d.failHeld bt h =
    (Dev.postFaults (d.modXlat (fun z => { z with held := z.held.erase h })) h.part).failCmd n .pageFaultUnresolved := by
  simp only [Dev.failHeld, hkind, hcmd, Dev.dropHeld]

end Command

/-- The held fault that a word of `XLAT.FQ_RESOLVE` names. -/
def Dev.resolved (d : Dev) (a : Nat) (v : Word) : Option Held :=
  d.xlat.held.find? (fun h => h.part == a && h.kind == bits v.toNat 42 42 && h.source % 1024 == bits v.toNat 41 32 &&
    h.id == some (bits v.toNat 31 0))

section Resolve

variable (hok : d.writeOk p .xlatFqResolve a v = true)
  (he : e = d.setReg .xlatFqResolve a (d.afterWrite p .xlatFqResolve a v))
include hok he

/-- A resolve whose operation is RETRY or FAIL looks for the fault it names. -/
theorem Dev.fqResolve_named (hop : bits v.toNat 44 43 = 1 ∨ bits v.toNat 44 43 = 2) : d.fqResolve bt p a v =
    match e.resolved a v with
    | some h => if bits v.toNat 44 43 = 1 then e.retryHeld bt h else e.failHeld bt h
    | none => e.fbump F.xlatFqStatStale a 1 := by
  have hknown : (bits v.toNat 44 43 == 0 || bits v.toNat 44 43 == 3) = false := by
    rcases hop with hop | hop <;> rw [hop] <;> rfl
  rw [Dev.fqResolve, verdict_eq_ok hknown rfl, Dev.regWrite_ok _ _ _ _ _ _ hok, ← he]
  rfl

theorem Dev.fqResolve_retry (hop : bits v.toNat 44 43 = 1) (hfind : e.resolved a v = some h) :
    d.fqResolve bt p a v = e.retryHeld bt h := by
  rw [Dev.fqResolve_named hok he (.inl hop), hfind]
  exact if_pos hop

theorem Dev.fqResolve_fail (hop : bits v.toNat 44 43 = 2) (hfind : e.resolved a v = some h) :
    d.fqResolve bt p a v = e.failHeld bt h := by
  rw [Dev.fqResolve_named hok he (.inr hop), hfind]
  exact if_neg (by rw [hop]; decide)

theorem Dev.fqResolve_stale (hop : bits v.toNat 44 43 = 1) (hfind : e.resolved a v = none) :
    d.fqResolve bt p a v = e.fbump F.xlatFqStatStale a 1 := by
  rw [Dev.fqResolve_named hok he (.inl hop), hfind]

end Resolve

theorem Dev.faultTimeout_held {kind source : Nat}
    (hfind : d.xlat.held.find? (fun h => h.part == a && h.kind == kind && h.source == source) = some h) :
    d.faultTimeout bt a kind source =
      if h.bt + d.fget F.xlatFqTimeoutTimeoutMs a * 1000000 ≤ bt then d.failHeld bt h else d := by
  simp only [Dev.faultTimeout, hfind]

/-! ### The fault queue's HEAD (R322) -/

theorem Dev.fqHeadWrite_room (hok : d.writeOk p .xlatFqHead a v = true)
    (hroom : (2 ^ 32 + d.fget F.xlatFqTailCount a - bits v.toNat 31 0) % 2 ^ 32 ≤ d.fqSize a) :
    d.fqHeadWrite p a v = Dev.postFaults (d.setReg .xlatFqHead a (d.afterWrite p .xlatFqHead a v)) a := by
  rw [Dev.fqHeadWrite, verdict_eq_ok (decide_eq_false (Nat.not_lt.mpr hroom)) rfl, Dev.regWrite_ok _ _ _ _ _ _ hok]

theorem Dev.fqHeadWrite_beyond (hbeyond : d.fqSize a < (2 ^ 32 + d.fget F.xlatFqTailCount a - bits v.toNat 31 0) % 2 ^ 32) :
    d.fqHeadWrite p a v = d.refuse .xlatFqHead a false := by
  rw [Dev.fqHeadWrite, decide_eq_true hbeyond, verdict_tf, Dev.regWrite_refuse]

/-! ### A failing walker (R325) -/

theorem Dev.walkerFail_inRange {g w : Nat} (hg : g < 9) (hw : w < 16) {o : Option Nat}
    (ho : o = some (d.partOfDie (if g < 8 then g else w / 2))) :
    d.walkerFail bt g w = (((d.histAdd bt 3 6 8 (16 * g + w)).resLog bt 0x46 2 o 0xFFFF [0, 0, bt, 8]).resLog bt 0x47 2 o 0xFFFF
      [0, 0, bt, 8]).walkerOut g := by
  subst ho
  exact if_neg (not_or.mpr ⟨Nat.not_le.mpr hg, Nat.not_le.mpr hw⟩)

/-- Settles O38: a walk goes as the translation of its access does, a resolve as its operation and the fault it names. -/
theorem translationFaults : Obligations.TranslationFaults := by
  unfold Obligations.TranslationFaults
  simp only [exec_walk, execWalk, exec_retryFault, execRetryFault, exec_failFault, execFailFault, exec_faultTimeout, execFaultTimeout,
    exec_fqHeadWrite, execFqHeadWrite, exec_walkerFail, execWalkerFail, onDev_eq]
  refine ⟨?mapped, ?unmapped, ?queueOk, ?queueFault, ?retry, ?fail, ?stale, ?timeout, ?room, ?beyond, ?walker⟩
  case mapped =>
    rintro s g c ava x a t q d hfind hctx hout hidle hava rfl hfirst hsecond hd hwalk hlocal
    have htr := Dev.translate_page hfirst hsecond hd hwalk
    subst hd
    rw [Dev.walkAccess_engine_ok hfind ⟨hctx, hout, by simp [hidle], hava⟩ (Dev.access_readLocal htr hlocal)]
  case unmapped =>
    rintro s g c ava x a t d e hfind hctx hout hidle hava rfl hfirst hsecond hd hwalk rfl
    have htr := Dev.translate_unmapped hfirst hsecond hd hwalk
    rw [Dev.walkAccess_engine_fault hfind ⟨hctx, hout, by simp [hidle], hava⟩ (Dev.access_unmapped htr)]
    rfl
  case queueOk =>
    intro s source c ava n w q l y g d hcmd hl hy hacc
    rw [Dev.walkAccess_queue_ok hcmd hl hy hacc]
  case queueFault =>
    intro s source c ava n cause w q l y d hcmd hl hy hacc hfree
    rw [Dev.walkAccess_queue_fault hcmd hl hy hacc hfree]
  case retry =>
    intro s p a n v h d hok hop hd hfind hkind hcmd
    rw [Dev.fqResolve_retry hok hd hop hfind, Dev.retryHeld_command hkind hcmd]
  case fail =>
    intro s p a n v h d hok hop hd hfind hkind hcmd
    rw [Dev.fqResolve_fail hok hd hop hfind, Dev.failHeld_command hkind hcmd]
  case stale =>
    intro s p a v d hok hop hd hfind
    rw [Dev.fqResolve_stale hok hd hop hfind]
  case timeout =>
    intro s a kind source n h hfind hkind hcmd
    rw [Dev.faultTimeout_held hfind, Dev.failHeld_command hkind hcmd]
  case room =>
    intro s p a v hok hroom
    rw [Dev.fqHeadWrite_room hok hroom]
  case beyond =>
    intro s p a v _ hbeyond
    rw [Dev.fqHeadWrite_beyond hbeyond]
  case walker =>
    intro s g w a hg hw ha
    rw [Dev.walkerFail_inRange hg hw ha]

end Sys2Proof.Machine
end

section
/-! SUPPORT. What the writes of registers and bit fields below share: a field of another register, and the bits of a field. -/

namespace Sys2Proof.Machine

/-- A field of another register keeps its value. -/
theorem Dev.fget_setReg_apart (d : Dev) {r : RegName} {g : Fld} {i j : Nat} (v : Word) (hne : g.reg ≠ r) (hi : i < 2 ^ 24)
    (hj : j < 2 ^ 24) : (d.setReg r i v).fget g j = d.fget g j := by
  rw [Dev.fget, Dev.reg_setReg_other d v hi hj (.inl hne), Dev.fget]

theorem Dev.fget_fset_apart (d : Dev) {f g : Fld} {i j : Nat} (v : Nat) (hne : g.reg ≠ f.reg) (hi : i < 2 ^ 24) (hj : j < 2 ^ 24) :
    (d.fset f i v).fget g j = d.fget g j := d.fget_setReg_apart _ hne hi hj

theorem Dev.fget_fbump_apart (d : Dev) {f g : Fld} {i j : Nat} (n : Nat) (hne : g.reg ≠ f.reg) (hi : i < 2 ^ 24) (hj : j < 2 ^ 24) :
    (d.fbump f i n).fget g j = d.fget g j := d.fget_fset_apart _ hne hi hj

theorem bit_eq_testBit (v i : Nat) : bit v i = v.testBit i := by
  rw [Nat.testBit_eq_decide_div_mod_eq]
  rfl

/-- A bit of a field is that bit of the word. -/
theorem bit_bits {v hi lo i : Nat} (hlo : lo ≤ i) (hhi : i ≤ hi) : bit v i = bit (bits v hi lo) (i - lo) := by
  rw [bit_eq_testBit, bit_eq_testBit, testBit_bits, decide_eq_true (by omega), Bool.true_and, Nat.add_sub_cancel' hlo]

end Sys2Proof.Machine
end

section
/-! SUPPORT. Doorbells, fetch and waiting posts of ring pairs (R330, R337 to R340, R345, R346). An index beyond the ring is log entry 16, a
ring's room entry 63, the head's write-back entry 64. -/

namespace Sys2Proof.Machine

variable {bt k offset size n : Nat} {d : Dev} {w : Word} {host : List Byte}

/-! ### Doorbells (R330, R339) -/

theorem Dev.sqDoorbell_taken (hok : d.doorbellOk k w = true) (hst : (d.pair k).st = .attached) :
    d.sqDoorbell k 0 8 w = d.modPair k (fun p => { p with sqTail := bits w.toNat 15 0 % d.sqSize k }) :=
  if_pos ⟨rfl, rfl, hok, hst⟩

theorem Dev.sqDoorbell_ignored (h : offset ≠ 0 ∨ size ≠ 8 ∨ d.doorbellOk k w = false ∨ (d.pair k).st ≠ .attached) :
    d.sqDoorbell k offset size w = d.fbump F.hptStatDbIgnored k 1 := by
  refine if_neg ?_
  rintro ⟨hoff, hsize, hok, hst⟩
  simp [hoff, hsize, hok, hst] at h

theorem Dev.cqDoorbell_taken (hok : d.doorbellOk k w = true) (hst : (d.pair k).st = .attached ∨ (d.pair k).st = .draining) :
    d.cqDoorbell k 0 8 w = d.modPair k (fun p =>
      let n := d.cqSize k
      let head := (p.cqTail + n - p.cqHeld % n) % n
      { p with cqHeld := p.cqHeld - min p.cqHeld ((bits w.toNat 15 0 % n + n - head) % n) }) :=
  if_pos ⟨rfl, rfl, hok, hst⟩

theorem Dev.cqDoorbell_ignored (h : offset ≠ 0 ∨ size ≠ 8 ∨ d.doorbellOk k w = false ∨
      ((d.pair k).st ≠ .attached ∧ (d.pair k).st ≠ .draining)) :
    d.cqDoorbell k offset size w = d.fbump F.hptStatDbIgnored k 1 := by
  refine if_neg ?_
  rintro ⟨hoff, hsize, hok, hst⟩
  rcases hst with hst | hst <;> simp [hoff, hsize, hok, hst] at h

/-! ### Fetch (R337, R338) -/

section Fetch

variable (hmay : d.mayFetch k = true) (hfirst : (d.pair k).rereads = none)
include hmay hfirst

theorem Dev.descFetch_current (hcur : (d.pair k).current (leNat ((d.slotBytes k 1 host).take 8)) = true) :
    d.descFetch bt k host = d.takeDesc bt k host :=
  (if_pos ⟨hmay, hfirst⟩).trans (if_pos hcur)

theorem Dev.descFetch_stale (hcur : (d.pair k).current (leNat ((d.slotBytes k 1 host).take 8)) = false) :
    d.descFetch bt k host = d.modPair k (fun p => { p with rereads := some 0 }) :=
  (if_pos ⟨hmay, hfirst⟩).trans (if_neg (by simp [hcur]))

end Fetch

/-- A descriptor whose slots are announced and whose checks pass joins the pair's fetched ones. -/
theorem Dev.takeDesc_copied {hdr : Nat} {bs : List Byte} {x : Desc} {e : Dev} (hhdr : hdr = leNat ((d.slotBytes k 1 host).take 8))
    (hn : n = bits hdr 7 4 + 1) (hann : n ≤ d.announced k) (hbs : bs = d.slotBytes k n host)
    (hx : x = { pair := d.pairRef k, typ := bits hdr 3 0, nslot := n, tag := listNat bs 8 8, ts0 := bits hdr 63 34
                ts1 := listNat bs 16 8, ts2 := listNat bs 24 8, payload := (bs.drop 32).take (16 * bits hdr 17 12), bt
                order := d.eng.order })
    (he : e = ((d.modEng (fun z => { z with order := z.order + 1 })).modPair k (fun p => { p with
      rereads := none, outst := p.outst + 1, sqHead := (p.sqHead + n) % d.sqSize k
      sqPhase := if d.sqSize k ≤ p.sqHead + n then !p.sqPhase else p.sqPhase
      sqSeq := (p.sqSeq + 1) % 2 ^ 16 })).headWriteBack k)
    (hcheck : e.fetchCheck k (bits hdr 11 9) (bits hdr 17 12) x = none) :
    d.takeDesc bt k host = e.modPair k (fun p => { p with fetched := p.fetched ++ [x] }) := by
  subst hhdr hn hbs hx he
  unfold Dev.takeDesc
  simp only [if_neg (Nat.not_lt.mpr hann), hcheck]

/-- A re-read is counted apart from what it reads. -/
theorem Dev.slotBytes_reread (hk : k < 8192) (m : Nat) : (d.fbump F.hptStatRereads k m).slotBytes k n host = d.slotBytes k n host := by
  have hk' : k < 2 ^ 24 := by omega
  simp only [Dev.slotBytes, Dev.sqSize, Dev.pair_fbump, Dev.mem_fbump,
    Dev.fget_fbump_apart d m (f := F.hptStatRereads) (g := F.hptSqBaseAddr) (by decide) hk' hk',
    Dev.fget_fbump_apart d m (f := F.hptStatRereads) (g := F.hptCfgLog2Sq) (by decide) hk' hk']

section Reread

variable (hmay : d.mayFetch k = true) (hreads : (d.pair k).rereads = some n)
  (hcur : (d.pair k).current (leNat ((d.slotBytes k 1 host).take 8)) = false) (hk : k < 8192)
include hmay hreads hcur hk

/-- A header that still differs is read again, up to the eighth time. -/
theorem Dev.headerReread_again (hn : n + 1 < 8) : d.headerReread bt k host =
    (d.fbump F.hptStatRereads k 1).modPair k (fun p => { p with rereads := some (n + 1) }) := by
  simp only [Dev.headerReread, hreads, hmay, Dev.slotBytes_reread hk, Dev.pair_fbump, hcur, if_true, Bool.false_eq_true, if_false, hn]

/-- The eighth stops the pair. -/
theorem Dev.headerReread_last {p : Pair} (hn : ¬n + 1 < 8) (hp : p = d.pair k) : d.headerReread bt k host =
    ((d.fbump F.hptStatRereads k 1).setPair k { p with rereads := none, st := .stopped }).putEntry k {
      tag := 2 ^ 64 - 1, status := .descNotReady, bt
      result := p.sqHead + p.sqSeq * 2 ^ 16 + b2n p.sqPhase * 2 ^ 32 + p.gen * 2 ^ 48 } := by
  subst hp
  simp only [Dev.headerReread, hreads, hmay, Dev.slotBytes_reread hk, Dev.pair_fbump, hcur, if_true, Bool.false_eq_true, if_false, hn,
    Dev.modPair]

end Reread

/-! ### Waiting posts (R346) -/

theorem Dev.ringRoom_room {p : Post} {ps : List Post} (hposts : (d.pair k).posts = p :: ps) (hroom : d.cqRoom k = true) :
    d.ringRoom bt k = ((((d.modPair k (fun x => { x with posts := ps })).putEntry k p.entry).resumeMember bt p.launch).settle
      k).finishRevokes bt := by
  simp only [Dev.ringRoom, hposts, hroom, if_true]

theorem Dev.ringRoom_full (hfull : d.cqRoom k = false) : d.ringRoom bt k = d := by
  unfold Dev.ringRoom
  split
  · exact if_neg (by simp [hfull])
  · rfl

/-- Settles O14: a doorbell is taken or counted as ignored, a header is current or is read again, a post has room or waits. -/
theorem ringCommands : Obligations.RingCommands := by
  unfold Obligations.RingCommands
  simp only [exec_sqDoorbell, execSqDoorbell, exec_cqDoorbell, execCqDoorbell, exec_descFetch, execDescFetch, exec_headerReread,
    execHeaderReread, exec_completionRingRoom, execCompletionRingRoom, onDev_eq]
  refine ⟨?sqTaken, ?sqIgnored, ?cqTaken, ?cqIgnored, ?copied, ?stale, ?again, ?last, ?room, ?full⟩
  case sqTaken =>
    intro s k w hok hst
    rw [Dev.sqDoorbell_taken hok hst]
  case sqIgnored =>
    intro s k offset size w h
    rw [Dev.sqDoorbell_ignored h]
  case cqTaken =>
    intro s k w hok hst
    rw [Dev.cqDoorbell_taken hok hst]
  case cqIgnored =>
    intro s k offset size w h
    rw [Dev.cqDoorbell_ignored h]
  case copied =>
    intro s k host hdr n bs x d hmay hfirst hhdr hcur hn hann hbs hx hd hcheck
    rw [Dev.descFetch_current hmay hfirst (hhdr ▸ hcur), Dev.takeDesc_copied hhdr hn hann hbs hx hd hcheck]
  case stale =>
    intro s k host hmay hfirst hcur
    rw [Dev.descFetch_stale hmay hfirst hcur]
  case again =>
    intro s k host n hmay hreads hcur hn hk
    rw [Dev.headerReread_again hmay hreads hcur hk hn]
  case last =>
    intro s k host p hmay hp hreads hcur hk
    rw [Dev.headerReread_last hmay (hp ▸ hreads) (hp ▸ hcur) hk (by decide) hp]
  case room =>
    intro s k p ps hposts hroom
    rw [Dev.ringRoom_room hposts hroom]
  case full =>
    intro s k _ hfull
    rw [Dev.ringRoom_full hfull]

end Sys2Proof.Machine
end

section
/-! SUPPORT. Attaching, draining, re-arming and freezing ring pairs, and the links of the host ports (R327, R331, R332, R338, R348 to
R351). An attach that waits is log entry 17, the attach rules entry 65, a link that goes down entry 94. -/

namespace Sys2Proof.Machine

variable {bt k q : Nat} {d e : Dev} {p : Party} {v : Word}

/-! ### Writes of a pair's ATTACH register (R332, R338, R351) -/

/-- GO, DETACH, REARM and the admin bit are bits of one field of the word. -/
theorem attachBits {n : Nat} (h : bits v.toNat 35 32 = n) :
    bit v.toNat 32 = bit n 0 ∧ bit v.toNat 33 = bit n 1 ∧ bit v.toNat 34 = bit n 2 ∧ bit v.toNat 35 = bit n 3 := by
  subst h
  exact ⟨bit_bits (by decide) (by decide), bit_bits (by decide) (by decide), bit_bits (by decide) (by decide),
    bit_bits (by decide) (by decide)⟩

section Write

variable (hok : d.writeOk p .hptAttach k v = true) (he : e = d.setReg .hptAttach k (d.afterWrite p .hptAttach k v))
include hok he

theorem Dev.attachWrite_go (hst : (d.pair k).st = .detached) (hgo : bits v.toNat 35 32 = 1)
    (hheld : d.resetHeld k (bits v.toNat 11 0) = false) : d.attachWrite bt p k v = e.attachGo k := by
  have hbits : bit v.toNat 32 = true ∧ bit v.toNat 33 = false ∧ bit v.toNat 34 = false ∧ bit v.toNat 35 = false := attachBits hgo
  simp [Dev.attachWrite, Dev.regWrite, hok, ← he, hbits, hst, hheld]

/-- DETACH drains a pair that is ATTACHED or STOPPED. -/
theorem Dev.attachWrite_detach (hst : (d.pair k).st = .attached ∨ (d.pair k).st = .stopped) (hdet : bits v.toNat 35 32 = 2) :
    d.attachWrite bt p k v =
      ((e.modPair k (fun x => { x with st := .draining, rereads := none })).settle k).finishRevokes bt := by
  have hbits : bit v.toNat 32 = false ∧ bit v.toNat 33 = true ∧ bit v.toNat 34 = false ∧ bit v.toNat 35 = false := attachBits hdet
  have hpair : e.pair k = d.pair k := by rw [he, Dev.pair_setReg]
  rcases hst with hst | hst <;>
    simp [Dev.attachWrite, Dev.regWrite, hok, ← he, hbits, hst, Dev.detach, hpair]

theorem Dev.attachWrite_rearm (hst : (d.pair k).st = .stopped) (hrearm : bits v.toNat 35 32 = 4) :
    d.attachWrite bt p k v = e.modPair k (fun x => { x with st := .attached, gen := (x.gen + 1) % 2 ^ 16 }) := by
  have hbits : bit v.toNat 32 = false ∧ bit v.toNat 33 = false ∧ bit v.toNat 34 = true ∧ bit v.toNat 35 = false := attachBits hrearm
  simp [Dev.attachWrite, Dev.regWrite, hok, ← he, hbits, hst]

end Write

/-- REARM of a pair that is not STOPPED is refused. -/
theorem Dev.attachWrite_notStopped (hrearm : bit v.toNat 34 = true) (hgo : bit v.toNat 32 = false) (hst : (d.pair k).st = .attached) :
    d.attachWrite bt p k v = d.refuse .hptAttach k false := by
  simp [Dev.attachWrite, hrearm, hgo, hst]

/-! ### The attach and the drain (R331 to R334, R350, R351) -/

/-- GO of a DETACHED host pair whose queue is granted, whose version is spoken, and whose completions fit the shadow area. -/
theorem Dev.attachGo_granted {c n top : Nat} (hc : c = d.fget F.hptAttachCtx k) (hn : n = d.fget F.hptAttachQueue k)
    (hgranted : d.granted k c n = true) (hhost : pairIsHost k = true)
    (htop : d.topMinor k (d.fget F.hptAttachVerMaj k) c false = some top) (hst : (d.pair k).st = .detached)
    (harea : d.areaUsed (d.partOfCtx c) k + d.cqSize k ≤ 524288 * d.dies (d.partOfCtx c)) :
    d.attachGo k = (d.modPair k (fun p => { p with
      attachErr := 0, ctx := c, queue := n, admin := false, area := d.cqSize k, verMaj := d.fget F.hptAttachVerMaj k
      verMin := min top (d.fget F.hptAttachVerMinMax k), go := true })).attachNow k := by
  subst hc hn
  simp only [Dev.attachGo, hhost, Bool.not_true, Bool.false_and, Bool.not_false, Bool.true_and, hgranted, Bool.false_eq_true, if_false,
    htop, if_true, Nat.not_lt.mpr harea, false_and, Dev.pair_modPair_same, hst, reduceCtorEq]

theorem Dev.attachNow_noShadow (hshadow : (d.pair k).shadow = []) :
    d.attachNow k = d.modPair k (fun p => { p with
      st := .attached, gen := 1, sqHead := 0, sqPhase := true, sqSeq := 0, sqTail := 0, rereads := none, fetched := []
      outst := 0, cqTail := 0, cqPhase := true, cqHeld := 0, shadow := [], go := false, posts := [] }) := by
  simp only [Dev.attachNow, hshadow, List.drop_nil, List.map_nil, List.take_nil, List.foldl_nil]

/-- A DRAINING pair with nothing outstanding is DETACHED. -/
theorem Dev.settle_drained (hst : (d.pair k).st = .draining) (hout : (d.pair k).outst = 0) (hposts : (d.pair k).posts = []) :
    d.settle k = d.detachPair k :=
  (if_pos hout).trans (if_pos ⟨hst, hposts⟩)

/-! ### Freeze events (R349) -/

/-- A pair with neither fetched descriptors nor waiting posts freezes as it is. -/
theorem Dev.freezePair_idle (hst : (d.pair k).st ≠ .detached) (hfetched : (d.pair k).fetched = []) (hposts : (d.pair k).posts = []) :
    d.freezePair bt k = d.modPair k (fun p => { p with
      st := .frozen, rereads := none, fetched := [], posts := [], go := false }) := by
  simp only [Dev.freezePair, hst, if_false, hfetched, hposts, List.foldl_nil]

/-- With no transfer that still needs the host, a freeze event freezes the pairs. -/
theorem Dev.freezePort_onePair (hpairs : d.portPairs q = [k])
    (hxfers : ∀ x ∈ d.ring.xfers, x.2.port = q → x.2.inward = true ∧ x.2.data ≠ []) :
    d.freezePort bt q = d.freezePair bt k := by
  have hnone : d.ring.xfers.filter (fun x => x.2.port == q && !(x.2.inward && !x.2.data.isEmpty)) = [] := by
    refine List.filter_eq_nil_iff.mpr (fun x hx h => ?_)
    simp only [Bool.and_eq_true, beq_iff_eq] at h
    obtain ⟨hport, hneeds⟩ := h
    obtain ⟨hin, hdata⟩ := hxfers x hx hport
    simp [hin, hdata] at hneeds
  simp only [Dev.freezePort, hnone, hpairs, List.foldl_cons, List.foldl_nil]

/-- A link that goes down takes the port's status with it, and freezes its pairs. -/
theorem Dev.linkDown_unclaimed (hq : q < 4) (he : e = [F.hptPortStatusLink, F.hptPortStatusWidth, F.hptPortStatusRate,
      F.hptPortStatusL0pWidth, F.hptPortStatusLinkIde, F.hptPortStatusSelIde].foldl (fun d f => d.fset f q 0) d)
    (hclaim : e.fon F.secBootStatusClaimed q = false) (hloads : e.sec.osLoads = []) : d.linkDown bt q = e.freezePort bt q := by
  have hlost : e.claimLost q = e := by
    simp only [Dev.claimLost, hclaim, Bool.false_eq_true, if_false, hloads, List.filter_nil, List.foldl_nil]
  simp only [Dev.linkDown, Nat.not_le.mpr hq, if_false, ← he, hlost]

/-- Settles O15: a write of ATTACH has the effect its bits name in the pair's state, and a freeze event freezes the pairs of its port. -/
theorem attachCommands : Obligations.AttachCommands := by
  unfold Obligations.AttachCommands
  simp only [exec_attachGo, execAttachGo, exec_detach, execDetach, exec_rearm, execRearm, exec_linkDown, execLinkDown, exec_linkRetrain,
    execLinkRetrain, exec_portLinkTrained, execPortLinkTrained, onDev_eq]
  refine ⟨?go, ?granted, ?now, ?detach, ?drained, ?rearm, ?notStopped, ?freeze, ?down, ?retrain, ?trained⟩
  case go =>
    intro s p k v hok hst hgo hheld
    rw [Dev.attachWrite_go hok rfl hst hgo hheld]
  case granted =>
    intro d k c q top hc hq hgranted hhost htop hst harea
    exact Dev.attachGo_granted hc hq hgranted hhost htop hst harea
  case now =>
    intro d k hshadow
    exact Dev.attachNow_noShadow hshadow
  case detach =>
    intro s p k v hok hst hdet
    rw [Dev.attachWrite_detach hok rfl hst hdet]
  case drained =>
    intro d k hst hout hposts
    rw [Dev.settle_drained hst hout hposts, Dev.detachPair]
  case rearm =>
    intro s p k v hok hst hrearm
    rw [Dev.attachWrite_rearm hok rfl hst hrearm]
  case notStopped =>
    intro s p k v hrearm hgo hst
    rw [Dev.attachWrite_notStopped hrearm hgo hst]
  case freeze =>
    intro s q k c hc hpairs hst hfetched hposts hxfers
    have hev : exec c s = .next { s with dev := s.dev.freezePort s.bt q } := by
      rcases hc with rfl | rfl | rfl <;> rfl
    rw [hev, Dev.freezePort_onePair hpairs hxfers, Dev.freezePair_idle hst hfetched hposts]
  case down =>
    intro s q d hq hd hclaim hloads
    rw [Dev.linkDown_unclaimed hq hd hclaim hloads]
  case retrain =>
    intro s q width rate l0p hq
    rw [if_pos hq]
  case trained =>
    intro s q width rate hq hup hwidth
    rw [Dev.linkTrained_up hq hup hwidth]

end Sys2Proof.Machine
end

section
/-! SUPPORT. Host transfers (R342, R343, R347, R349). The engine a transfer takes is log entry 18. -/

namespace Sys2Proof.Machine

variable {bt k x c : Nat} {d e : Dev} {t : Xfer} {host : List Byte}

/-- A request of a context that ends is not dispatched (R37). -/
theorem Dev.dispatchCtx_ending {typ op : Nat} {r : Desc} (hhead : d.head? k typ op = some r)
    (hending : ((d.popDesc k).ctx ((d.popDesc k).descCtx r)).ending = true) (f : Desc → Nat → Dev → Dev) :
    d.dispatchCtx bt k typ op f = (d.popDesc k).finish bt r .contextTerminated := by
  simp only [Dev.dispatchCtx, Dev.dispatch, hhead, hending, if_true]

/-- The fields of a transfer that a descriptor gives it, but for what it carries. -/
def Dev.xferOf (d : Dev) (x : Desc) (c : Nat) (inward : Bool) (data : List Byte) : Xfer := {
  inward, pair := x.pair, tag := x.tag, ctx := c
  port := if pairIsHost (pairNo x.pair) then pairPort (pairNo x.pair) else x.hostPort, len := x.len, iova := x.ts1
  ava := bits x.ts2 55 0, hint := bits x.ts2 57 56, data, notify := none, engine := d.pickEngine (d.partOfCtx c) }

/-- An inward transfer carries its descriptor's payload. -/
theorem Dev.startXfer_inward (r : Desc) : d.startXfer r c true = d.modRing (fun z => { z with
    xfers := mapPut z.xfers z.nextXfer (d.xferOf r c true (r.payload.take r.len)), nextXfer := z.nextXfer + 1 }) := by
  simp only [Dev.startXfer, Bool.true_or, if_true, Dev.xferOf]

/-- An outward transfer without a payload notifies none. -/
theorem Dev.startXfer_outward {r : Desc} (hpayload : r.payload = []) : d.startXfer r c false = d.modRing (fun z => { z with
    xfers := mapPut z.xfers z.nextXfer (d.xferOf r c false []), nextXfer := z.nextXfer + 1 }) := by
  simp only [Dev.startXfer, hpayload, List.isEmpty_nil, Bool.or_true, if_true, Bool.false_eq_true, if_false, Dev.xferOf]

/-- The oldest transfer of its engine, whose data the host has sent, runs to its end. -/
theorem Dev.xferStep_ends (hfind : mapFind? d.ring.xfers x = some t)
    (holdest : d.ring.xfers.any (fun y => y.2.engine == t.engine && decide (y.1 < x)) = false) (hidle : t.fault = false)
    (hdata : t.data = []) (hhost : t.len ≤ host.length) (hnotify : t.notify = none)
    (hpieces : d.xferPieces bt x host (t.len / 65536 + 3) = (some .ok, e)) : d.xferStep bt x host = e.endXfer bt x .ok := by
  have hgo : ¬(¬(!d.ring.xfers.any (fun y => y.2.engine == t.engine && decide (y.1 < x))) = true ∨ t.fault = true ∨
      t.inward = true ∧ host.length < t.len) := by
    rw [holdest, hidle]
    rintro (h | h | h)
    · exact h rfl
    · exact Bool.false_ne_true h
    · exact absurd h.2 (Nat.not_lt.mpr hhost)
  simp only [Dev.xferStep, hfind, hdata, List.isEmpty_nil, if_true, if_neg hgo, hpieces, hnotify]

/-- Settles O16: a transfer has its descriptor's fields, and ends when its bytes have moved or its read has timed out. -/
theorem hostTransferCommands : Obligations.HostTransferCommands := by
  unfold Obligations.HostTransferCommands
  simp only [exec_hostIn, execHostIn, exec_hostOut, execHostOut, exec_hostTransferComplete, execHostTransferComplete,
    exec_completionTimeout, execCompletionTimeout, onDev_eq]
  refine ⟨?inward, ?outward, ?ending, ?ends, ?timeout⟩
  case inward =>
    intro s k x d c hhead hd hc hlive
    have hreq : RequestAt s k 2 0 x c d := ⟨hhead, hd, hc, hlive⟩
    rw [dispatchCtx_eq hreq, Dev.startXfer_inward, Dev.xferOf]
  case outward =>
    intro s k x d c hhead hd hc hlive hpayload
    have hreq : RequestAt s k 3 0 x c d := ⟨hhead, hd, hc, hlive⟩
    rw [dispatchCtx_eq hreq, Dev.startXfer_outward hpayload, Dev.xferOf]
  case ending =>
    intro s k x hhead hending
    rw [Dev.dispatchCtx_ending hhead hending]
  case ends =>
    intro s x t host d hfind holdest hidle _ hdata hhost hnotify hpieces
    rw [Dev.xferStep_ends hfind holdest hidle hdata hhost hnotify hpieces]
  case timeout =>
    intro s x t hfind hin hdata
    simp only [hfind, hin, hdata, List.isEmpty_nil, Bool.and_self, if_true]

end Sys2Proof.Machine
end

section
/-! SUPPORT. Invalidation (R313 to R315). That all of it is dropped at the completion is log entry 108, that the frames' lines go with it
entry 127. -/

namespace Sys2Proof.Machine

variable {bt a : Nat} {d e : Dev} {p : Party} {v : Word}

/-- A request of a known scope, for a context of the partition and an aligned range, takes the next token while fewer than 64 are
outstanding. -/
theorem Dev.invReq_issued {i : Nat} (hok : d.writeOk p .xlatInvReq a v = true) (hi : i = (d.reg .xlatInvIssued a).toNat)
    (hroom : i - (d.reg .xlatInvDone a).toNat < 64) (hscope : bits v.toNat 13 12 ≠ 3)
    (hctx : bits v.toNat 13 12 = 2 ∨ d.partOfCtx (bits v.toNat 11 0) = a)
    (hrange : bits v.toNat 13 12 = 0 → bits v.toNat 59 20 * 65536 % (2 ^ bits v.toNat 19 14 * 65536) = 0) :
    d.invReq p a v = ((d.setReg .xlatInvReq a (d.afterWrite p .xlatInvReq a v)).setReg .xlatInvIssued a (BitVec.ofNat 64 (i + 1))).modXlat
      (fun z => { z with invs := z.invs ++ [{ part := a, token := i + 1, scope := bits v.toNat 13 12, ctx := bits v.toNat 11 0
                                              ava := bits v.toNat 59 20 * 65536, len := 2 ^ bits v.toNat 19 14 * 65536 }] }) := by
  have hallowed : (bits v.toNat 13 12 == 3 || decide (64 ≤ (d.reg .xlatInvIssued a).toNat - (d.reg .xlatInvDone a).toNat) ||
      (bits v.toNat 13 12 != 2 && d.partOfCtx (bits v.toNat 11 0) != a) ||
      (bits v.toNat 13 12 == 0 && bits v.toNat 59 20 * 65536 % (2 ^ bits v.toNat 19 14 * 65536) != 0)) = false := by
    simp only [Bool.or_eq_false_iff, Bool.and_eq_false_imp, beq_eq_false_iff_ne, decide_eq_false_iff_not, Nat.not_le, bne_iff_ne,
      bne_eq_false_iff_eq, beq_iff_eq]
    exact ⟨⟨⟨hscope, hi ▸ hroom⟩, hctx.resolve_left⟩, hrange⟩
  subst hi
  rw [Dev.invReq, verdict_eq_ok hallowed rfl, Dev.regWrite_ok _ _ _ _ _ _ hok]

/-- With 64 outstanding a request is refused. -/
theorem Dev.invReq_full (hfull : 64 ≤ (d.reg .xlatInvIssued a).toNat - (d.reg .xlatInvDone a).toNat) :
    d.invReq p a v = d.refuse .xlatInvReq a false := by
  rw [Dev.invReq, decide_eq_true hfull, Bool.or_true, Bool.true_or, Bool.true_or, verdict_tf, Dev.regWrite_refuse]

/-- The oldest request of a partition completes. -/
theorem Dev.invComplete_oldest {i : Inval} {f : Dev} (hfind : d.xlat.invs.find? (fun i => i.part == a) = some i)
    (he : e = d.modXlat (fun z => { z with invs := z.invs.erase i }))
    (hf : f = (e.partCes a).foldl (fun d k => (d.sqcRecall bt k none i.coversLine).2)
      (e.tlbDrop a (fun t => i.covers t.ctx t.page.ava t.page.lg))) : d.invComplete bt a =
      ((e.invFrames a i).foldl (fun d f => if isDdr f.1 then d else d.backInv f.1 f.2) f).setReg .xlatInvDone a
        (BitVec.ofNat 64 i.token) := by
  subst he hf
  simp only [Dev.invComplete, hfind]
  rfl

/-- Settles O39: the three requests are one write of `XLAT.INV_REQ`, and a completion is that of the oldest. -/
theorem invalidation : Obligations.Invalidation := by
  unfold Obligations.Invalidation
  simp only [exec_invRange, execInvRange, exec_invContext, execInvContext, exec_invPartition, execInvPartition, exec_invComplete,
    execInvComplete, onDev_eq]
  refine ⟨?issued, ?full, ?complete⟩
  case issued =>
    rintro s p a i v t hok hi hroom hscope hctx hrange rfl
    rw [Dev.invReq_issued hok hi hroom hscope hctx hrange]
    exact ⟨rfl, rfl, rfl⟩
  case full =>
    intro s p a v _ hfull
    rw [Dev.invReq_full hfull]
    exact ⟨rfl, rfl, rfl⟩
  case complete =>
    rintro s a i d d' e hfind hd rfl he
    rw [Dev.invComplete_oldest hfind hd he]

end Sys2Proof.Machine
end

section
/-! SUPPORT. Packets of the fabric (R271, R361 to R364, R366, R367). What a refused packet leaves and what an EPOCH packet carries is log
entry 106, the length that a packet names entry 27. -/

namespace Sys2Proof.Machine

variable {bt a n : Nat} {d e : Dev} {k : Packet} {s : State}

/-! ### Epochs and delivery (R361, R366, R367) -/

theorem Dev.hearEpoch_same {r : Nat} (h : (d.peer a n).epoch = some r) : d.hearEpoch a n r = (true, d) := by
  simp only [Dev.hearEpoch, h, if_true]

/-- A newer epoch of a node fails the commands in flight to it, and both streams restart. -/
theorem Dev.hearEpoch_newer {r x : Nat} (h : (d.peer a n).epoch = some r) (hne : x ≠ r) (hnewer : (2 ^ 32 + x - r) % 2 ^ 32 < 2 ^ 31)
    (he : e = d.failNode a n .peerReset) : d.hearEpoch a n x =
      (true, (e.setPeer a n { (e.peer a n).restart with epoch := some x }).fbump F.igfPeerStatEpochsSeen a 1) := by
  subst he
  simp only [Dev.hearEpoch, h, hne, if_false, hnewer, if_true]

/-- A partition drops what is for another node. -/
theorem Dev.receive_notOurs (h : k.dstNode ≠ d.nodeId (d.partOfDie k.port)) (f : Nat → Dev → Dev) : d.receive k f = d :=
  if_pos (.inr (.inr h))

/-- A packet whose source's epoch is the recorded one reaches the partition of its port. -/
theorem Dev.receive_heard (hport : k.port < 8) (ha : a = d.partOfDie k.port) (hdeaf : d.fabDeaf a = false)
    (hnode : k.dstNode = d.nodeId a) (hepoch : (d.peer a k.srcNode).epoch = some k.srcEpoch) (f : Nat → Dev → Dev) :
    d.receive k f = if k.dstEpoch ≠ d.epoch a then d.sendBare a opEpoch k.srcNode [] else f a d := by
  subst ha
  have hours : ¬(8 ≤ k.port ∨ d.fabDeaf (d.partOfDie k.port) = true ∨ k.dstNode ≠ d.nodeId (d.partOfDie k.port)) := by
    rw [hdeaf, ← hnode]
    rintro (h | h | h)
    · exact absurd h (Nat.not_le.mpr hport)
    · exact Bool.false_ne_true h
    · exact h rfl
  simp only [Dev.receive, if_neg hours, Dev.hearEpoch_same hepoch]

theorem PacketAt.receive (h : PacketAt s k a) (f : Nat → Dev → Dev) : s.dev.receive k f = f a s.dev := by
  obtain ⟨hport, ha, hdeaf, hnode, hepoch, hown⟩ := h
  rw [Dev.receive_heard hport ha hdeaf hnode hepoch, if_neg (not_not.mpr hown)]

/-- A duplicate is acknowledged and has no effect. -/
theorem PacketAt.duplicate (h : PacketAt s k a) (hdup : (s.dev.peer a k.srcNode).duplicate k.psn = true)
    (f : Nat → Dev → Option Nat × Dev) : s.dev.receivePsn bt k f = s.dev.sendAck a k.srcNode := by
  simp only [Dev.receivePsn, h.receive, hdup, if_true]

section New

variable (h : PacketAt s k a) (hnew : (s.dev.peer a k.srcNode).duplicate k.psn = false)
include h hnew

/-- A packet that has its effect has arrived. -/
theorem PacketAt.applied {f : Nat → Dev → Option Nat × Dev} (hf : f a s.dev = (none, e)) :
    s.dev.receivePsn bt k f = e.accepted bt a k := by
  simp only [Dev.receivePsn, h.receive, hnew, Bool.false_eq_true, if_false, hf, Dev.accepted]

/-- One that is refused has arrived too, and is answered with NACK. -/
theorem PacketAt.refused {f : Nat → Dev → Option Nat × Dev} {r : Nat} (hf : f a s.dev = (some r, e)) :
    s.dev.receivePsn bt k f = (e.setPeer a k.srcNode ((e.peer a k.srcNode).arrive bt k.psn)).sendBare a opNack k.srcNode
      (leBytes 4 k.psn ++ leBytes 1 r) := by
  simp only [Dev.receivePsn, h.receive, hnew, Bool.false_eq_true, if_false, hf]

/-! ### Packets of the stream (R271, R363, R364) -/

theorem PacketAt.put (hwin : s.dev.windowGrants a k.srcNode k.addr k.payload.length 57 = true) :
    s.dev.putPacket bt k = ((s.dev.memPut k.addr k.payload).hintedFrom a k k.payload.length).accepted bt a k :=
  h.applied hnew (if_pos hwin)

theorem PacketAt.put_ungranted (hwin : s.dev.windowGrants a k.srcNode k.addr k.payload.length 57 = false)
    (he : e = s.dev.fbump F.igfPeerStatRefused a 1) : s.dev.putPacket bt k =
      (e.setPeer a k.srcNode ((e.peer a k.srcNode).arrive bt k.psn)).sendBare a opNack k.srcNode (leBytes 4 k.psn ++ [1]) := by
  subst he
  exact h.refused hnew (if_neg (by simp [hwin]))

theorem PacketAt.reduce (hwin : s.dev.windowGrants a k.srcNode k.addr k.payload.length 58 = true)
    (hsound : s.dev.poisoned k.addr k.payload.length = false) : s.dev.redPacket bt k =
      ((s.dev.reduceAt (if k.ef = 0 then 32 else 4) k.payload.length k.addr k.payload).hintedFrom a k k.payload.length).accepted bt
        a k :=
  h.applied hnew ((if_pos hwin).trans (if_neg (by simp [hsound])))

theorem PacketAt.read (hwin : s.dev.windowGrants a k.srcNode k.addr k.cmdLen 56 = true)
    (hsound : s.dev.poisoned k.addr k.cmdLen = false) : s.dev.getReq bt k =
      ((s.dev.hintedFrom a k k.cmdLen).sendPkts bt a k.srcNode ((segments (k.cmdLen / 64 + 2) k.addr k.segOff
        (memReadBytes s.dev.mem k.addr k.cmdLen)).map (fun q => (opGetResp, { bareHdr k.srcNode q.2.2 with
          addr := q.1, cmdId := k.cmdId, segOff := q.2.1, cmdLen := k.cmdLen }))) none).accepted bt a k :=
  h.applied hnew ((if_pos hwin).trans (if_neg (by simp [hsound])))

/-- A response to a read that is outstanding fills Local Store. -/
theorem PacketAt.response {c : Cmd} {y : Member} (hc : mapFind? s.dev.eng.cmds k.cmdId = some c)
    (hy : s.dev.member? c.l c.m = some y)
    (hget : ∃ g ∈ c.gets, g.1 = k.srcNode ∧ g.2.1 ≤ k.segOff ∧ k.segOff + k.payload.length ≤ g.2.1 + g.2.2) :
    s.dev.getResp bt k = ((s.dev.lsWrite y (c.sd + k.segOff) k.payload).modEng (fun z => { z with
      cmds := mapModify z.cmds k.cmdId (fun c => { c with
        gets := takeGet c.gets k.srcNode k.segOff k.payload.length }) })).accepted bt a k := by
  have hany : c.gets.any (fun g => g.1 = k.srcNode ∧ g.2.1 ≤ k.segOff ∧ k.segOff + k.payload.length ≤ g.2.1 + g.2.2) = true := by
    obtain ⟨g, hg, hin⟩ := hget
    exact List.any_eq_true.mpr ⟨g, hg, decide_eq_true hin⟩
  refine h.applied hnew ?_
  simp only [hc, hy, hany, if_true]

end New

/-! ### ACK, NACK and EPOCH (R361, R362, R367) -/

theorem PacketAt.ack (h : PacketAt s k a) {cum map : Nat} (hcum : cum = listNat k.payload 0 4) (hmap : map = listNat k.payload 4 32) :
    s.dev.ackPacket bt k = Dev.drain bt a k.srcNode (s.dev.peer a k.srcNode).waiting.length (s.dev.setPeer a k.srcNode {
      s.dev.peer a k.srcNode with
      unacked := mapKeep (s.dev.peer a k.srcNode).unacked (fun psn _ =>
        !(decide (2 ^ 31 ≤ (2 ^ 32 + psn - cum) % 2 ^ 32) ||
          (decide ((2 ^ 32 + psn - cum) % 2 ^ 32 < 256) && bit map ((2 ^ 32 + psn - cum) % 2 ^ 32)))) }) := by
  subst hcum hmap
  simp only [Dev.ackPacket, h.receive]

section Nack

variable {psn m : Nat} {q : Sent} (h : PacketAt s k a) (hpsn : psn = listNat k.payload 0 4)
  (hq : mapFind? (s.dev.peer a k.srcNode).unacked psn = some q)
include h hpsn hq

theorem PacketAt.nack_resent (hwhy : listNat k.payload 4 1 = 0) (hfew : q.retx < s.dev.fget F.igfRetxLimit 0) :
    s.dev.nackPacket bt k = s.dev.resend bt a k.srcNode psn q := by
  subst hpsn
  simp only [Dev.nackPacket, h.receive, hq, hwhy, hfew, if_true]

variable (hcmd : q.cmd = some m) (he : e = s.dev.setPeer a k.srcNode { s.dev.peer a k.srcNode with
  unacked := mapErase (s.dev.peer a k.srcNode).unacked psn })
include hcmd he

theorem PacketAt.nack_refused {c : Cmd} (hc : mapFind? s.dev.eng.cmds m = some c) (hwhy : listNat k.payload 4 1 = 1) :
    s.dev.nackPacket bt k = e.violation bt c.l := by
  subst hpsn he
  simp only [Dev.nackPacket, h.receive, hq, hwhy, hcmd, Option.bind_some, hc]

theorem PacketAt.nack_poison (hwhy : listNat k.payload 4 1 = 2) : s.dev.nackPacket bt k = e.failCmd m .dataPoison := by
  subst hpsn he
  simp only [Dev.nackPacket, h.receive, hq, hwhy, hcmd]

end Nack

theorem Dev.epochPacket_heard (hport : k.port < 8) (ha : a = d.partOfDie k.port) (hdeaf : d.fabDeaf a = false)
    (hnode : k.dstNode = d.nodeId a) : d.epochPacket k = (d.hearEpoch a k.srcNode k.srcEpoch).2 := by
  subst ha
  refine if_neg ?_
  rintro (h | h | h)
  · exact absurd h (Nat.not_le.mpr hport)
  · exact Bool.false_ne_true (hdeaf.symm.trans h)
  · exact h hnode

theorem Dev.epochPacket_notOurs (h : k.dstNode ≠ d.nodeId (d.partOfDie k.port)) : d.epochPacket k = d :=
  if_pos (.inr (.inr h))

/-- Settles O40: a packet is delivered, heard or dropped by its header, and what is delivered has its effect once. -/
theorem fabricPackets : Obligations.FabricPackets := by
  unfold Obligations.FabricPackets
  simp only [exec_putPacket, execPutPacket, exec_redPacket, execRedPacket, exec_getReq, execGetReq, exec_getResp, execGetResp,
    exec_ackPacket, execAckPacket, exec_nackPacket, execNackPacket, exec_epochPacket, execEpochPacket, onDev_eq]
  refine ⟨?put, ?ungranted, ?duplicate, ?reduce, ?read, ?response, ?ack, ?nack, ?newer, ?notOurs, ?oldEpoch⟩
  case put =>
    intro s k a h hnew hwin
    rw [h.put hnew hwin]
  case ungranted =>
    intro s k a d h hnew hwin hd
    rw [h.put_ungranted hnew hwin hd]
  case duplicate =>
    intro s k a h hdup
    simp only [Dev.putPacket, Dev.redPacket, Dev.getReq, Dev.getResp, h.duplicate hdup, and_self]
  case reduce =>
    intro s k a h hnew hwin hsound
    rw [h.reduce hnew hwin hsound]
  case read =>
    intro s k a h hnew hwin hsound
    rw [h.read hnew hwin hsound]
  case response =>
    intro s k a c y h hnew hc hy hget
    rw [h.response hnew hc hy hget]
  case ack =>
    intro s k a cum map h hcum hmap
    rw [h.ack hcum hmap]
  case nack =>
    intro s k a psn n q c d h hpsn hq hcmd hc hd
    refine ⟨fun hwhy => ?_, fun hwhy => ?_, fun hwhy hfew => ?_⟩
    · rw [h.nack_refused hpsn hq hcmd hd hc hwhy]
    · rw [h.nack_poison hpsn hq hcmd hd hwhy]
    · rw [h.nack_resent hpsn hq hwhy hfew]
  case newer =>
    intro s k a r d hport ha hdeaf hnode hepoch hne hnewer hd
    rw [Dev.epochPacket_heard hport ha hdeaf hnode, Dev.hearEpoch_newer hepoch hne hnewer hd]
  case notOurs =>
    intro s k h
    simp only [Dev.putPacket, Dev.redPacket, Dev.getReq, Dev.getResp, Dev.ackPacket, Dev.nackPacket, Dev.receivePsn,
      Dev.receive_notOurs h, Dev.epochPacket_notOurs h, and_self]
  case oldEpoch =>
    intro s k a hport ha hdeaf hnode hepoch hown
    rw [Dev.putPacket, Dev.receivePsn, Dev.receive_heard hport ha hdeaf hnode hepoch, if_pos hown]

end Sys2Proof.Machine
end

section
/-! SUPPORT. Timers of the fabric's streams, the destination table, and the lanes of the ports (R354 to R356, R358, R361, R362, R374). The
lane map that a port takes over is log entry 28. -/

namespace Sys2Proof.Machine

variable {bt a n l lost q : Nat} {d e : Dev} {p : Party} {v : Word}

/-! ### Acknowledgement, retransmission and giving up (R361, R362) -/

theorem Dev.ackTimer_due (howed : 0 < (d.peer a n).owed) (hdue : (d.peer a n).since + 2000 ≤ bt) :
    d.ackTimer bt a n = d.sendAck a n := if_pos ⟨howed, hdue⟩

theorem Dev.ackTimer_early (h : bt < (d.peer a n).since + 2000) : d.ackTimer bt a n = d :=
  if_neg (fun hdue => Nat.not_le.mpr h hdue.2)

theorem Dev.resend_sprayed {psn : Nat} {x : Sent} (hspray : d.spray a n = (some q, e)) : d.resend bt a n psn x =
    ((e.setPeer a n { e.peer a n with unacked := mapPut (e.peer a n).unacked psn { x with last := bt, retx := x.retx + 1 } }).fbump
      F.igfPortStatRetx q 1).emitPkt a x.op q { x.pkt with retx := true } := by
  simp only [Dev.resend, hspray]

theorem Dev.retransmit_due {psn : Nat} {x : Sent} (hx : mapFind? (d.peer a n).unacked psn = some x)
    (hdue : x.last + d.fget F.igfRetxRtoUs 0 * 1000 ≤ bt) (hfew : x.retx < d.fget F.igfRetxLimit 0) :
    d.retransmit bt a n psn = d.resend bt a n psn x := by
  simp only [Dev.retransmit, hx, hdue, hfew, and_self, if_true]

/-- A node that has not acknowledged a packet for GIVEUP_MS is given up. -/
theorem Dev.giveUp_late (hlate : ∃ x ∈ (d.peer a n).unacked, x.2.first + d.fget F.igfRetxGiveupMs 0 * 1000000 ≤ bt)
    (he : e = d.failNode a n .peerUnreachable) : d.giveUp bt a n =
      (e.setPeer a n { e.peer a n with txPsn := 0, waiting := [], unacked := [] }).fbump F.igfPeerStatGiveups a 1 := by
  subst he
  obtain ⟨x, hx, hle⟩ := hlate
  exact if_pos (List.any_eq_true.mpr ⟨x, hx, decide_eq_true hle⟩)

/-! ### The destination table (R358) -/

section Entry

variable (hn : n = d.fget F.igfDtSelNode a) (hvalid : bit v.toNat 0 = true)
include hn hvalid

/-- A VALID entry is written while no command is in flight to its node, and holds no recorded epoch. -/
theorem Dev.dtWrite_idle (hzero : bit v.toNat 7 = false) (hreserved : bits v.toNat 10 8 = 0)
    (hok : d.writeOk p .igfDtData0 a v = true) (hidle : d.inFlight a n = [])
    (he : e = (d.setReg .igfDtData0 a (d.afterWrite p .igfDtData0 a v)).setReg .igfDtData0 a 0#64) :
    d.dtWrite p a v = e.setPeer a n { e.peer a n with word0 := v.toNat, epoch := none } := by
  subst hn he
  have hform : (bit v.toNat 7 || bits v.toNat 10 8 != 0) = false := by simp [hzero, hreserved]
  have hfree : (bit v.toNat 0 && bit (d.peer a (d.fget F.igfDtSelNode a)).word0 0 &&
      !(d.inFlight a (d.fget F.igfDtSelNode a)).isEmpty) = false := by simp [hidle]
  rw [Dev.dtWrite, verdict_eq_ok hform hfree, Dev.regWrite_ok _ _ _ _ _ _ hok, hvalid]
  rfl

/-- With a command in flight it conflicts. -/
theorem Dev.dtWrite_busy (hold : bit (d.peer a n).word0 0 = true) (hbusy : d.inFlight a n ≠ []) :
    d.dtWrite p a v = d.refuse .igfDtData0 a true := by
  subst hn
  have hheld : (bit v.toNat 0 && bit (d.peer a (d.fget F.igfDtSelNode a)).word0 0 &&
      !(d.inFlight a (d.fget F.igfDtSelNode a)).isEmpty) = true := by simp [hvalid, hold, hbusy]
  rw [Dev.dtWrite, hheld, verdict_t, Dev.regWrite_conflict]

end Entry

/-! ### Lanes (R354 to R356) -/

section Lane

variable {x : FabPort} (hq : q < 8) (hl : l < 8) (he : e = d.fbump F.igfPortStatFcsErr q lost) (hx : x = d.fabPort q)
  (hworks : l ∉ x.failed) (hused : bit (e.fget F.igfPortStatusLanes q) l = true) (hup : e.fget F.igfPortStatusLink q = 2)
include hq hl he hx hworks hused hup

/-- A lane in use of a port that is UP is replaced by lane 8, or the port restarts without it. -/
theorem Dev.laneFail_used : d.laneFail bt q l lost =
    if e.fon F.igfPortCfgSpareEn q ∧ l < 8 ∧ x.spareFor = none ∧ ¬x.failed.contains 8 then
      ((if e.fon F.igfPortStatusHalf q then
          (e.setFabPort q { x with failed := x.failed ++ [l], spareFor := some l }).setPort q 2 1
            (if l < 4 then [0, 1, 2, 3] else [4, 5, 6, 7])
        else (e.setFabPort q { x with failed := x.failed ++ [l], spareFor := some l }).setPort q 2 0 (List.range 8)).fbump
          F.igfPortStatSwaps q 1).histAdd bt 1 3 9 (16 * q + l)
    else (e.setFabPort q { x with failed := x.failed ++ [l] }).restartPort bt q := by
  subst hx
  have hport : e.fabPort q = d.fabPort q := by rw [he, Dev.fabPort_fbump]
  have hnew : ¬(8 ≤ q ∨ (d.fabPort q).failed.contains l = true) := by simp [hworks, hq]
  have hgo : ¬(¬(l < 8 ∧ bit (e.fget F.igfPortStatusLanes q) l = true ∨ l = 8 ∧ (d.fabPort q).spareFor ≠ none) ∨
      e.fget F.igfPortStatusLink q ≠ 2) := by simp [hl, hused, hup]
  simp only [Dev.laneFail, hq, if_true, ← he, hport, if_neg hnew, if_neg hgo, if_neg hl.ne]

theorem Dev.laneFail_spare (hfree : 8 ∉ x.failed) (hnone : x.spareFor = none) (hen : e.fon F.igfPortCfgSpareEn q = true)
    (hwhole : e.fon F.igfPortStatusHalf q = false) : d.laneFail bt q l lost =
      (((e.setFabPort q { x with failed := x.failed ++ [l], spareFor := some l }).setPort q 2 0 (List.range 8)).fbump
        F.igfPortStatSwaps q 1).histAdd bt 1 3 9 (16 * q + l) := by
  rw [Dev.laneFail_used hq hl he hx hworks hused hup, if_pos ⟨hen, hl, hnone, by simpa using hfree⟩, hwhole]
  rfl

theorem Dev.laneFail_noSpare (hoff : e.fon F.igfPortCfgSpareEn q = false) : d.laneFail bt q l lost =
    (e.setFabPort q { x with failed := x.failed ++ [l] }).restartPort bt q := by
  rw [Dev.laneFail_used hq hl he hx hworks hused hup, if_neg (by simp [hoff])]

end Lane

/-- A DOWN port whose lanes 0 to 7 work comes up whole. -/
theorem Dev.linkRetry_whole (hdown : d.fget F.igfPortStatusLink q = 0) (hoff : d.fon F.igfPortCfgSpareEn q = false) :
    d.linkRetry bt q 255 =
      ((d.setFabPort q { failed := [8], spareFor := none }).setPort q 2 0 (List.range 8)).drainAll bt (d.partOfDie q) := by
  have hbad : (List.range 9).filter (fun l => !bit 255 l) = [8] := by decide
  have hall : (List.range 8).all (FabPort.works { failed := [8], spareFor := none }) = true := by decide
  simp only [Dev.linkRetry, hdown, ne_eq, not_true_eq_false, if_false, hbad, hoff, Bool.false_eq_true, false_and,
    Dev.fabPort_setFabPort_same, hall, if_true]
  rfl

theorem Dev.linkRetry_notDown (h : d.fget F.igfPortStatusLink q ≠ 0) (working : Nat) : d.linkRetry bt q working = d := if_pos h

theorem Dev.laneMapFrame_taken {k : Packet} {m : Nat} (hport : k.port < 8) (hup : d.portUp k.port = true)
    (hen : d.fon F.igfPortCfgSpareEn k.port = true) (hm : m = listNat k.payload 0 2 % 512) :
    d.laneMapFrame k = (d.fset F.igfPortStatusLanes k.port m).fset F.igfPortStatusSpareUsed k.port (b2n (bit m 8)) := by
  subst hm
  exact if_neg (by simp [hport, hup, hen])

/-- Settles O41: a timer is due or not, an entry's node is idle or not, a lane has a spare or its port restarts. -/
theorem fabricMaintenance : Obligations.FabricMaintenance := by
  unfold Obligations.FabricMaintenance
  simp only [exec_ackTimer, execAckTimer, exec_retransmitTimeout, execRetransmitTimeout, exec_giveUp, execGiveUp, exec_dtWrite,
    execDtWrite, exec_igsurenLaneFail, execIgsurenLaneFail, exec_fabricLinkRetry, execFabricLinkRetry, exec_laneMap, execLaneMap,
    onDev_eq]
  refine ⟨?ackDue, ?ackEarly, ?again, ?giveUp, ?entry, ?busy, ?spare, ?noSpare, ?whole, ?notDown, ?map⟩
  case ackDue =>
    intro s a n howed hdue
    rw [Dev.ackTimer_due howed hdue, Dev.sendAck]
  case ackEarly =>
    intro s a n h
    rw [Dev.ackTimer_early h]
  case again =>
    intro s a n psn q x d hx hdue hfew hspray
    rw [Dev.retransmit_due hx hdue hfew, Dev.resend_sprayed hspray]
  case giveUp =>
    intro s a n d hlate hd
    rw [Dev.giveUp_late hlate hd]
  case entry =>
    intro s p a n v d hok hzero hreserved hn hvalid hidle hd
    rw [Dev.dtWrite_idle hn hvalid hzero hreserved hok hidle hd]
  case busy =>
    intro s p a n v _ _ _ hn hvalid hold hbusy
    rw [Dev.dtWrite_busy hn hvalid hold hbusy]
  case spare =>
    intro s p l n d x hp hl hd hx hworks hfree hnone hused hup hen hwhole
    rw [Dev.laneFail_spare hp hl hd hx hworks hused hup hfree hnone hen hwhole]
  case noSpare =>
    intro s p l n d x hp hl hd hx hworks hused hup hoff
    rw [Dev.laneFail_noSpare hp hl hd hx hworks hused hup hoff]
  case whole =>
    intro s p hdown hoff
    rw [Dev.linkRetry_whole hdown hoff]
  case notDown =>
    intro s p w h
    rw [Dev.linkRetry_notDown h]
  case map =>
    intro s k m hport hup hen hm
    rw [Dev.laneMapFrame_taken hport hup hen hm]

end Sys2Proof.Machine
end

section
/-! SUPPORT. Hang detection (R408 to R411, R413, R414, R418, R429, R439). -/

namespace Sys2Proof.Machine

variable {bt l m n : Nat} {d e : Dev} {x : Launch} {y : Member}

/-! ### What is a hang (R409 to R411) -/

theorem Dev.launchWatchdog_due {v : Event} (hnext : wheelNext bt (d.wheel (d.launchWheel l)) = some v) (hev : v.ev = .watchdog l)
    (hrate : d.wheelCount bt (d.launchWheel l) < 64) (he : e = d.eventDone bt (d.launchWheel l) v) :
    d.launchWatchdog bt l = e.hang bt l 0 (e.launchCes l) 0x01 F.resHangStatBound := by
  have hfire := Dev.fire_next hnext hrate
  rw [hev, ← he] at hfire
  simp only [Dev.launchWatchdog, hfire]

theorem Dev.launchWatchdog_notDue (h : d.fire bt (d.launchWheel l) (.watchdog l) = none) : d.launchWatchdog bt l = d := by
  simp only [Dev.launchWatchdog, h]

section Progress

variable {w : Nat} (hx : d.launch? l = some x) (hy : d.member? l m = some y)
  (hw : w = d.fget F.resWdogCfgNoprogMs (d.partOfCtx x.ctx) * 1000000)
include hx hy hw

theorem Dev.noProgress_hangs (hrun : x.st = .running) (hlive : y.ended = false) (hlate : y.progress + w ≤ bt)
    (hwaits : d.waitsWell bt l m y w = false) :
    d.noProgress bt l m = d.hang bt l m (d.launchCes l) 0x02 F.resHangStatNoprog := by
  simp only [Dev.noProgress, hx, hy, ← hw]
  exact if_pos ⟨hrun, by simp [hlive], hlate, by simp [hwaits]⟩

theorem Dev.noProgress_waits (hwaits : d.waitsWell bt l m y w = true) : d.noProgress bt l m = d := by
  simp only [Dev.noProgress, hx, hy, ← hw]
  exact if_neg (fun h => h.2.2.2 hwaits)

end Progress

section Command

variable {c : Cmd} (hc : mapFind? d.eng.cmds n = some c)
include hc

theorem Dev.tqTimeout_hangs (hy : d.member? c.l c.m = some y) (hlocal : d.localCmd n c = true)
    (hlate : c.bt + d.fget F.resTqCfgLocalMs (d.partOfDie (y.ce / 26)) * 1000000 ≤ bt) :
    d.tqTimeout bt n = d.hang bt c.l c.m [y.ce] 0x03 F.resHangStatTqTimeout := by
  simp only [Dev.tqTimeout, hc, hy]
  exact if_pos ⟨hlocal, hlate⟩

theorem Dev.tqTimeout_notLocal (hlocal : d.localCmd n c = false) : d.tqTimeout bt n = d := by
  simp only [Dev.tqTimeout, hc]
  split
  · exact if_neg (by simp [hlocal])
  · rfl

end Command

/-! ### What a hang does (R413, R414, R418, R429)

`e` is the device once the hang is counted and logged, with the partition's next rung in its entry. -/

section Hang

variable {k code a rung : Nat} {ces : List Nat} {cnt : Fld} (ha : a = d.partOfDie (k / 26)) (hx : d.launch? l = some x)
  (hquiet : d.quiet a = false)
  (hrung : rung = if decide (d.dies a ≤ 2) then rungData (d.fget F.resEscCfgPartMs 0) 0x13
    else rungData (d.fget F.resEscCfgCtxMs 0) 0x11)
  (he : e = (d.fbump cnt a 1).resLog bt code 2 (some a) (d.ceUnit k) [x.tag, resData1 m x.ctx (d.suspects a),
    ((d.member? l m).map (fun y => y.progress)).getD bt, rung] x.ctx)
include ha hx hquiet hrung he

/-- A shadow run is discarded. -/
theorem Dev.hang_shadow {o : Nat} (hshadow : x.shadowOf = some o) :
    d.hang bt l m (k :: ces) code cnt = e.shadowHang bt o (k :: ces) := by
  simp only [Dev.hang, hx, List.headD_cons, ← ha, hquiet, Bool.false_eq_true, reduceCtorEq, or_self, if_false, ← hrung, ← he, hshadow]

variable (hown : x.shadowOf = none)
include hown

/-- The context under replay is guilty. -/
theorem Dev.hang_replaying {c : Nat} (hcur : (e.episode? a).bind (fun p => p.current) = some c) (hon : e.onAny (k :: ces) c = true) :
    d.hang bt l m (k :: ces) code cnt = e.guilty bt a c := by
  simp only [Dev.hang, hx, List.headD_cons, ← ha, hquiet, Bool.false_eq_true, reduceCtorEq, or_self, if_false, ← hrung, ← he, hown, hcur,
    hon, if_true]

variable (hcur : (e.episode? a).bind (fun p => p.current) = none)
include hcur

/-- With no replay a partition of one or two dies is reset. -/
theorem Dev.hang_small (hdies : decide (d.dies a ≤ 2) = true) : d.hang bt l m (k :: ces) code cnt = e.askPartReset bt a := by
  simp only [Dev.hang, hx, List.headD_cons, ← ha, hquiet, Bool.false_eq_true, reduceCtorEq, or_self, if_false, ← hrung, ← he, hown, hcur]
  exact if_pos hdies

/-- In a larger one the contexts on the CEs become suspects, and the CEs are withheld. -/
theorem Dev.hang_large (hdies : decide (d.dies a ≤ 2) = false) : d.hang bt l m (k :: ces) code cnt =
    (k :: ces).foldl (fun q k => q.holdCe a k) (e.suspend bt a
      (((k :: ces).flatMap (fun k => e.resident k)).filterMap (fun r => (e.launch? r.1).map (fun y => y.ctx)))) := by
  simp only [Dev.hang, hx, List.headD_cons, ← ha, hquiet, Bool.false_eq_true, reduceCtorEq, or_self, if_false, ← hrung, ← he, hown, hcur]
  exact if_neg (by simp [hdies])

end Hang

/-- Settles O44: a bound, a window or a timeout that has passed names a hang, and the hang goes by what runs on its CEs. -/
theorem hangDetection : Obligations.HangDetection := by
  unfold Obligations.HangDetection
  simp only [exec_launchWatchdog, execLaunchWatchdog, exec_noProgress, execNoProgress, exec_tqTimeout, execTqTimeout, onDev_eq]
  refine ⟨?bound, ?inBound, ?noProgress, ?waits, ?timeout, ?notLocal, ?large, ?small, ?replaying, ?shadow⟩
  case bound =>
    intro s l d v hnext hev hrate hd
    rw [Dev.launchWatchdog_due hnext hev hrate hd]
  case inBound =>
    intro s l h
    rw [Dev.launchWatchdog_notDue h]
  case noProgress =>
    intro s l m x y w hx hy hrun hlive hw hlate hwaits
    rw [Dev.noProgress_hangs hx hy hw hrun hlive hlate hwaits]
  case waits =>
    intro s l m x y hx hy hwaits
    rw [Dev.noProgress_waits hx hy rfl hwaits]
  case timeout =>
    intro s n c y hc hy hlocal hlate
    rw [Dev.tqTimeout_hangs hc hy hlocal hlate]
  case notLocal =>
    intro s n c hc hlocal
    rw [Dev.tqTimeout_notLocal hc hlocal]
  case large =>
    intro bt l m k code a ces cnt x d e ha hx hquiet hown he hdies hcur
    have hlarge : decide (d.dies a ≤ 2) = false := decide_eq_false (Nat.not_le.mpr hdies)
    exact Dev.hang_large ha hx hquiet (by rw [hlarge]; rfl) he hown hcur hlarge
  case small =>
    intro bt l m k code a ces cnt x d e ha hx hquiet hown he hdies hcur
    have hsmall : decide (d.dies a ≤ 2) = true := decide_eq_true hdies
    exact Dev.hang_small ha hx hquiet (if_pos hsmall).symm he hown hcur hsmall
  case replaying =>
    intro bt l m k code a c ces cnt x d e ha hx hquiet hown he hdies hcur hon
    exact Dev.hang_replaying ha hx hquiet (if_neg (by simpa using hdies)).symm he hown hcur hon
  case shadow =>
    intro bt l m k code a o ces cnt x d e ha hx hquiet hshadow he hdies
    exact Dev.hang_shadow ha hx hquiet (if_neg (by simpa using hdies)).symm he hshadow

end Sys2Proof.Machine
end

section
/-! SUPPORT. The reset ladder (R366, R375, R399, R421, R423 to R425). The steps of a partition reset are log entry 86, the record of a power
cycle's cause entry 33. -/

namespace Sys2Proof.Machine

variable {bt a t : Nat} {d e f : Dev} {r : PartReset}

/-! ### Partition reset (R375, R423) -/

section Partition

variable (hr : mapFind? d.res.parts a = some r)
include hr

/-- Steps 1 to 4 of R423. -/
theorem Dev.partReset_runs {g : Dev} (hheld : r.held = false) (hwiped : r.wiped = false)
    (he : e = ((d.quiesce bt a).dropPart a).tlbDrop a (fun _ => true))
    (hf : f = ((((e.partCes a).filter (fun k => !mapHas e.res.screens k)).foldl (fun d k => d.modCe k Ce.cleared) e).resetHarts
      a).fabReset a)
    (hg : g = (f.resetRegs (inPartition a) false).fset F.hbmcTourStatusState a 0) : d.partReset bt a =
      ((g.fset F.xlatFqTailCount a (g.fget F.xlatFqHeadCount a)).wipeHbm a).modRes
        (fun z => { z with parts := mapPut z.parts a { r with wiped := true } }) := by
  subst he hf hg
  simp only [Dev.partReset, hr, hheld, hwiped, Bool.false_eq_true, or_self, if_false]

/-- Steps 5 and 6, then the new epoch. -/
theorem Dev.partResetDone_wiped (hwiped : r.wiped = true) : d.partResetDone bt a =
    (((d.fillDdr a).startKept bt a).modRes (fun z => { z with parts := mapErase z.parts a })).announceEpoch a := by
  simp only [Dev.partResetDone, hr, hwiped, if_true]

/-- A held reset starts when the window of a minute has room. -/
theorem Dev.holdExpiry_room {recent : List (Nat × Nat)} (hheld : r.held = true)
    (hrecent : recent = d.arb.partResets.filter (fun r => decide (bt < r.2 + 60 * 10 ^ 9)))
    (hroom : (recent.filter (fun r => r.1 == a)).length < d.fget F.arbEscLimitPartMax 0)
    (he : e = (d.modRes (fun z => { z with parts := mapPut z.parts a { start := bt } })).modArb
      (fun z => { z with partResets := recent ++ [(a, bt)] })) :
    d.holdExpiry bt a = e.resLog bt 0x12 4 (some a) 0xFFFF [0, 0, bt, rungData (e.fget F.resEscCfgPartMs 0) 0x13] := by
  subst hrecent he
  simp only [Dev.holdExpiry, hr]
  exact if_pos ⟨hheld, hroom⟩

theorem Dev.partDeadline_missed (hheld : r.held = false) (hwiped : r.wiped = false)
    (hlate : r.start + d.fget F.resEscCfgPartMs 0 * 1000000 ≤ bt) : d.partDeadline bt a =
      (d.resLog bt 0x15 5 (some a) 0xFFFF [0, 0, r.start, rungData (d.fget F.resEscCfgPartMs 0) 0x13]).modRes
        (fun z => { z with warmPending := true }) := by
  simp only [Dev.partDeadline, hr]
  exact if_pos ⟨by simp [hheld], by simp [hwiped], hlate⟩

end Partition

section NoReset

variable (hr : mapFind? d.res.parts a = none)
include hr

theorem Dev.partReset_none : d.partReset bt a = d := by simp only [Dev.partReset, hr]

theorem Dev.partDeadline_none : d.partDeadline bt a = d := by simp only [Dev.partDeadline, hr]

end NoReset

/-! ### Chip warm reset (R399, R424) -/

section Warm

variable {h : BitVec 384} {recent : List Nat} (hpending : d.res.warmPending = true) (hcycle : d.res.cycle = false)
  (hrecent : recent = d.arb.warmResets.filter (fun t => decide (bt < t + 3600 * 10 ^ 9)))
  (he : e = d.modArb (fun z => { z with warmResets := recent }))
include hpending hcycle hrecent he

/-- A warm reset whose retained image has the digest of measurement 4. -/
theorem Dev.chipWarmReset_runs (hroom : recent.length < e.fget F.arbEscLimitWarmMax 0)
    (hf : f = ((((e.msixPorts (fun _ => true)).resLog bt 0x13 5 none 0xFFFF
      [0, 0, bt, rungData (e.fget F.resEscCfgWarmMs 0) 0x14]).modArb
        (fun z => { z with warmResets := recent ++ [bt] })).warmClear bt)) (hdigest : h = f.sec.meas4) :
    d.chipWarmReset bt h = f.modRes (fun z => { z with warm := some bt }) := by
  subst hrecent he hf
  refine (if_pos ⟨hpending, by simp [hcycle]⟩).trans ?_
  simp only [if_neg (Nat.not_le.mpr hroom), if_pos hdigest]

/-- One too many within the hour becomes a request for a power cycle. -/
theorem Dev.chipWarmReset_limit (hfull : e.fget F.arbEscLimitWarmMax 0 ≤ recent.length) : d.chipWarmReset bt h =
    (e.resLog bt 0x17 5 none 0xFFFF [0, 0, bt, 0]).modRes (fun z => { z with warmPending := false, cycleReq := some 0x17 }) := by
  subst hrecent he
  refine (if_pos ⟨hpending, by simp [hcycle]⟩).trans ?_
  simp only [if_pos hfull]

end Warm

theorem Dev.warmResetDone_running (hwarm : d.res.warm = some t)
    (he : e = (d.modRes (fun z => { z with warm := none })).setBoot 5 0 (d.modRes (fun z => { z with warm := none })).safe
      (d.modRes (fun z => { z with warm := none })).sec.fromFlash) :
    d.warmResetDone bt = e.parts.foldl (fun d a => (d.startKept bt a).announceEpoch a) e := by
  subst he
  simp only [Dev.warmResetDone, hwarm]

theorem Dev.warmResetDone_none (hwarm : d.res.warm = none) : d.warmResetDone bt = d := by simp only [Dev.warmResetDone, hwarm]

theorem Dev.warmDeadline_missed (hwarm : d.res.warm = some t) (hlate : t + d.fget F.resEscCfgWarmMs 0 * 1000000 ≤ bt)
    (hnone : d.res.cycleReq = none) : d.warmDeadline bt =
      (d.resLog bt 0x15 5 none 0xFFFF [0, 0, t, rungData (d.fget F.resEscCfgWarmMs 0) 0x14]).modRes
        (fun z => { z with cycleReq := some 0x15 }) := by
  simp only [Dev.warmDeadline, hwarm]
  exact if_pos ⟨hlate, hnone⟩

/-! ### Power cycle (R425) -/

theorem Dev.powerCycle_asked {c : Nat} (hreq : d.res.cycleReq = some c) : d.powerCycle bt =
    (((d.histAdd bt 1 (11 + Config.powerCycleKind) 0 0 false (Config.powerCycleValue c)).resLog bt 0x14 5 none 0xFFFF
      [0, 0, bt, 0]).emit (.pin pinPowerCycle false)).modRes
        (fun z => { z with cycleReq := none, cycle := true, warmPending := false }) := by
  simp only [Dev.powerCycle, hreq]

theorem Dev.powerCycle_none (hreq : d.res.cycleReq = none) : d.powerCycle bt = d := by simp only [Dev.powerCycle, hreq]

/-- Settles O46: each rung runs where its reset is under way, and its missed deadline asks for the next. -/
theorem resetLadder : Obligations.ResetLadder := by
  unfold Obligations.ResetLadder
  simp only [exec_partitionReset, execPartitionReset, exec_partitionResetDone, execPartitionResetDone, exec_resetHoldExpiry,
    execResetHoldExpiry, exec_partDeadline, execPartDeadline, exec_chipWarmReset, execChipWarmReset, exec_warmResetDone,
    execWarmResetDone, exec_warmDeadline, execWarmDeadline, exec_powerCycle, execPowerCycle, onDev_eq]
  refine ⟨?runs, ?noReset, ?done, ?released, ?partLate, ?noDeadline, ?warm, ?limit, ?warmDone, ?noWarm, ?warmLate, ?cycle, ?noCycle⟩
  case runs =>
    intro s a r d e f hr hheld hwiped hd he hf
    rw [Dev.partReset_runs hr hheld hwiped hd he hf]
  case noReset =>
    intro s a hr
    rw [Dev.partReset_none hr]
  case done =>
    intro s a r hr hwiped
    rw [Dev.partResetDone_wiped hr hwiped]
  case released =>
    intro s a r recent d hr hheld hrecent hroom hd
    rw [Dev.holdExpiry_room hr hheld hrecent hroom hd]
  case partLate =>
    intro s a r hr hheld hwiped hlate
    rw [Dev.partDeadline_missed hr hheld hwiped hlate]
  case noDeadline =>
    intro s a hr
    rw [Dev.partDeadline_none hr]
  case warm =>
    intro s h recent d e hpending hcycle hrecent hd hroom he hdigest
    rw [Dev.chipWarmReset_runs hpending hcycle hrecent hd hroom he hdigest]
  case limit =>
    intro s h recent d hpending hcycle hrecent hd hfull
    rw [Dev.chipWarmReset_limit hpending hcycle hrecent hd hfull]
  case warmDone =>
    intro s t d hwarm hd
    rw [Dev.warmResetDone_running hwarm hd]
  case noWarm =>
    intro s hwarm
    rw [Dev.warmResetDone_none hwarm]
  case warmLate =>
    intro s t hwarm hlate hnone
    rw [Dev.warmDeadline_missed hwarm hlate hnone]
  case cycle =>
    intro s c hreq
    rw [Dev.powerCycle_asked hreq]
  case noCycle =>
    intro s hreq
    rw [Dev.powerCycle_none hreq]

end Sys2Proof.Machine
end

section
/-! SUPPORT. The pairs of the Arbiter (R371 to R373, R386, R403). -/

namespace Sys2Proof.Machine

variable {bt k : Nat} {d e : Dev} {p : Party} {v : Word}

/-! ### A pair stops (R371 to R373, R403) -/

section Stop

variable (he : e = (((d.fset F.arbPairStatusState k pairStopped).abandonHandlers k).tlog bt 11 0 none k).abortUpdate bt)
include he

/-- The lowest running pair takes the stopped pair's sources and is told. -/
theorem Dev.stopPair_told {j : Nat} (hlowest : e.lowestPair (fun _ => true) = some j) :
    d.stopPair bt k = ((e.redirect k j).fset F.evcSrcCfgPair (srcPairStopped k) j).raise bt (srcPairStopped k) := by
  subst he
  simp only [Dev.stopPair, hlowest]

theorem Dev.stopPair_last (hlowest : e.lowestPair (fun _ => true) = none) :
    d.stopPair bt k = e.modRes (fun z => { z with warmPending := true }) := by
  subst he
  simp only [Dev.stopPair, hlowest]

end Stop

section Live

variable (hk : k < 4) (hlive : d.fget F.arbPairStatusState k ≠ pairStopped)
include hk hlive

theorem Dev.lockstepMismatch_live : d.lockstepMismatch bt k = (d.fbump F.arbPairStatusMismatches k 1).stopPair bt k :=
  if_pos ⟨hk, hlive⟩

theorem Dev.pairWatchdog_late (hlate : (d.arbPair k).lastKick + d.fget F.arbWdogPeriodMs 0 * 1000000 ≤ bt) :
    d.pairWatchdog bt k = ((d.fbump F.arbPairStatusWdogMisses k 1).raise bt (srcPairWatchdog k)).stopPair bt k :=
  if_pos ⟨hk, hlive, hlate⟩

theorem Dev.sramUncorrectable_pair : d.sramUncorrectable bt k none = d.stopPair bt k := if_pos ⟨hk, hlive⟩

end Live

theorem Dev.pairWatchdog_kicked (h : bt < (d.arbPair k).lastKick + d.fget F.arbWdogPeriodMs 0 * 1000000) : d.pairWatchdog bt k = d :=
  if_neg (fun hlate => absurd hlate.2.2 (Nat.not_le.mpr h))

/-- An error in an entry of the log makes it read as zeros. -/
theorem Dev.sramUncorrectable_entry {i : Nat} (h : mapHas d.arb.tlRing i = true) :
    d.sramUncorrectable bt k (some i) = d.modArb (fun z => { z with tlRing := mapPut z.tlRing i {} }) := if_pos h

/-! ### Writes of `ARB.PAIRk_CTRL` (R371, R372, R386) -/

section Write

variable (hok : d.writeOk p .arbPairCtrl k v = true) (he : e = d.setReg .arbPairCtrl k (d.afterWrite p .arbPairCtrl k v))
include hok he

theorem Dev.pairCtrlWrite_kick (hself : p = .firmware k) (hkick : bit v.toNat 0 = true) (hrestart : bit v.toNat 1 = false) :
    d.pairCtrlWrite bt p k v = e.setArbPair k { e.arbPair k with lastKick := bt } := by
  have hallowed : (bit v.toNat 0 && p != .firmware k || bit v.toNat 1 && d.fget F.arbPairStatusState k != pairStopped) = false := by
    simp [hself, hrestart]
  rw [Dev.pairCtrlWrite, verdict_eq_ok hallowed rfl, Dev.regWrite_ok _ _ _ _ _ _ hok, ← he, hkick, hrestart]
  rfl

theorem Dev.pairCtrlWrite_restart (hkick : bit v.toNat 0 = false) (hrestart : bit v.toNat 1 = true)
    (hst : d.fget F.arbPairStatusState k = pairStopped) : d.pairCtrlWrite bt p k v =
      (e.fset F.arbPairStatusState k pairRunning).setArbPair k { (e.fset F.arbPairStatusState k pairRunning).arbPair k with
        lastKick := bt } := by
  have hallowed : (bit v.toNat 0 && p != .firmware k || bit v.toNat 1 && d.fget F.arbPairStatusState k != pairStopped) = false := by
    simp [hkick, hst]
  rw [Dev.pairCtrlWrite, verdict_eq_ok hallowed rfl, Dev.regWrite_ok _ _ _ _ _ _ hok, ← he, hkick, hrestart]
  rfl

end Write

/-- A pair is kicked by itself only, and restarts only when it is STOPPED. -/
theorem Dev.pairCtrlWrite_refused (h : bit v.toNat 0 = true ∧ p ≠ .firmware k ∨
      bit v.toNat 1 = true ∧ d.fget F.arbPairStatusState k ≠ pairStopped) :
    d.pairCtrlWrite bt p k v = d.refuse .arbPairCtrl k false := by
  have hturned : (bit v.toNat 0 && p != .firmware k || bit v.toNat 1 && d.fget F.arbPairStatusState k != pairStopped) = true := by
    simpa using h
  rw [Dev.pairCtrlWrite, hturned, verdict_tf, Dev.regWrite_refuse]

/-- Settles O42: each failure of a pair stops it, and a write of its CTRL kicks it, restarts it or is refused. -/
theorem arbiterPairs : Obligations.ArbiterPairs := by
  unfold Obligations.ArbiterPairs
  simp only [exec_lockstepMismatch, execLockstepMismatch, exec_pairWatchdog, execPairWatchdog, exec_sramUncorrectable,
    execSramUncorrectable, exec_kick, execKick, exec_restart, execRestart, onDev_eq]
  refine ⟨?told, ?last, ?late, ?kicked, ?sram, ?entry, ?kick, ?other, ?restart, ?running⟩
  case told =>
    intro s k j d e hk hlive hd he hlowest
    subst hd
    rw [Dev.lockstepMismatch_live hk hlive, Dev.stopPair_told he hlowest]
  case last =>
    intro s k d e hk hlive hd he hlowest
    subst hd
    rw [Dev.lockstepMismatch_live hk hlive, Dev.stopPair_last he hlowest]
  case late =>
    rintro s k d hk hlive hlate rfl
    rw [Dev.pairWatchdog_late hk hlive hlate]
  case kicked =>
    intro s k h
    rw [Dev.pairWatchdog_kicked h]
  case sram =>
    intro s k hk hlive
    rw [Dev.sramUncorrectable_pair hk hlive]
  case entry =>
    intro s k i h
    rw [Dev.sramUncorrectable_entry h]
  case kick =>
    intro s k v d hok hkick hrestart hd
    rw [Dev.pairCtrlWrite_kick hok hd rfl hkick hrestart]
  case other =>
    intro s p k v _ hkick hother
    rw [Dev.pairCtrlWrite_refused (.inl ⟨hkick, hother⟩)]
  case restart =>
    rintro s p k v d hok hkick hrestart hst rfl
    rw [Dev.pairCtrlWrite_restart hok rfl hkick hrestart hst]
  case running =>
    intro s p k v _ hrestart hst
    rw [Dev.pairCtrlWrite_refused (.inr ⟨hrestart, hst⟩)]

end Sys2Proof.Machine
end

section
/-! SUPPORT. The event controller and the Trouble Log (R376 to R381, R383, R385, R490). -/

namespace Sys2Proof.Machine

variable {bt k n : Nat} {d e : Dev} {p : Party} {v : Word}

/-! ### Edges (R376, R377, R490) -/

theorem Dev.sourceEdge_wired (h : n ≤ 1345 ∨ (1347 ≤ n ∧ n ≤ 1354)) : d.sourceEdge bt n = d.raise bt n :=
  if_pos (by simpa [sourceWired] using h)

theorem Dev.sourceEdge_unwired (h : n = 1346 ∨ 1354 < n) : d.sourceEdge bt n = d := by
  refine if_neg ?_
  simp only [sourceWired, Bool.or_eq_true, Bool.and_eq_true, decide_eq_true_eq]
  omega

theorem Dev.evcSetWrite_source (hok : d.writeOk p .evcSet 0 v = true) (hlow : bits v.toNat 10 0 < 1984) :
    d.evcSetWrite bt p v = (d.setReg .evcSet 0 (d.afterWrite p .evcSet 0 v)).raise bt (bits v.toNat 10 0) := by
  rw [Dev.evcSetWrite, verdict_eq_ok (decide_eq_false (Nat.not_le.mpr hlow)) rfl, Dev.regWrite_ok _ _ _ _ _ _ hok]

theorem Dev.evcSetWrite_reserved (hhigh : 1984 ≤ bits v.toNat 10 0) : d.evcSetWrite bt p v = d.refuse .evcSet 0 false := by
  rw [Dev.evcSetWrite, decide_eq_true hhigh, verdict_tf, Dev.regWrite_refuse]

/-! ### Delivery (R378, R379, R381) -/

section Delivery

variable (hrun : d.pairRuns k = true)
include hrun

theorem Dev.eventDelivery_taken {f : Dev} (hnext : d.evcNext bt k = some n) (he : e = d.setSrc n {})
    (hf : f = (e.setArbPair k { e.arbPair k with
      handlers := { src := n, fast := d.fon F.evcSrcCfgClass n, bt := (d.evSrc n).first } :: (e.arbPair k).handlers
      evcsrc := BitVec.ofNat 64 (n + b2n (d.fon F.evcSrcCfgClass n) * 2 ^ 12 + (d.evSrc n).count * 2 ^ 16)
      evcbt := BitVec.ofNat 64 (d.evSrc n).first }).fbump F.evcStatDelivered 0 1) :
    d.eventDelivery bt k = if d.evcGroup bt n = 2 then f.fbump F.evcStatAged 0 1 else f := by
  subst he hf
  simp only [Dev.eventDelivery, hrun, if_true, hnext]

theorem Dev.eventDelivery_none (hnext : d.evcNext bt k = none) : d.eventDelivery bt k = d := by
  simp only [Dev.eventDelivery, hrun, if_true, hnext]

end Delivery

/-! ### Completion (R380) -/

section Completion

variable {h : Handler} {hs : List Handler} (hk : k < 4) (hrun : d.pairRuns k = true) (hnewest : (d.arbPair k).handlers = h :: hs)
include hk hrun hnewest

/-- A completion is that of the newest handler, or out of order. -/
theorem Dev.evcComplete_newest : d.evcComplete bt k n =
    if h.src = n then d.setArbPair k { d.arbPair k with handlers := hs } else d.evcOrder bt k := by
  have hserved : (!d.pairRuns k || decide (4 ≤ k)) = false := by simp [hrun, hk]
  simp only [Dev.evcComplete, hserved, Bool.false_eq_true, if_false, hnewest]

end Completion

theorem Dev.evcComplete_stopped (h : d.pairRuns k = false) : d.evcComplete bt k n = d := if_pos (by simp [h])

/-- A completion out of order is told to the lowest other running pair. -/
theorem Dev.evcOrder_told {j : Nat} (he : e = (d.fbump F.evcStatOrderErr 0 1).tlog bt 11 1 none k)
    (hlowest : e.lowestPair (fun j => j != k) = some j) :
    d.evcOrder bt k = ((e.fset F.evcSrcCfgClass srcEvcOrder 0).fset F.evcSrcCfgPair srcEvcOrder j).raise bt srcEvcOrder := by
  subst he
  simp only [Dev.evcOrder, hlowest]

/-! ### The log unit (R383, R385) -/

/-- The oldest queued entry goes to a place of the ring that holds none. -/
theorem Dev.troubleLogWrite_oldest {x : TEntry} {q : List TEntry} (hqueue : d.arb.tlQueue = x :: q) (hn : n = d.fget F.arbTlTailSeq 0)
    (hfree : mapHas d.arb.tlRing (n % 65536) = false)
    (he : e = (d.modArb (fun z => { z with tlQueue := q, tlRing := mapPut z.tlRing (n % 65536) { x with seq := n } })).fset F.arbTlTailSeq
      0 (n + 1)) : d.troubleLogWrite bt = if 3 ≤ x.sev then e.notify bt x.part else e := by
  subst hn he
  simp only [Dev.troubleLogWrite, hqueue, hfree, Bool.false_eq_true, if_false]

theorem Dev.troubleLogWrite_empty (hqueue : d.arb.tlQueue = []) : d.troubleLogWrite bt = d := by
  simp only [Dev.troubleLogWrite, hqueue]

/-- Settles O43: an edge is that of a source that fires, a pair takes the source of its turn, and a completion or the log's queue has a
newest or an oldest. -/
theorem eventsAndLog : Obligations.EventsAndLog := by
  unfold Obligations.EventsAndLog
  simp only [exec_sourceEdge, execSourceEdge, exec_evcSet, execEvcSet, exec_eventDelivery, execEventDelivery, exec_evcComplete,
    execEvcComplete, exec_troubleLogWrite, execTroubleLogWrite, onDev_eq]
  refine ⟨?wired, ?unwired, ?set, ?reserved, ?taken, ?noneNext, ?newest, ?stopped, ?order, ?written, ?empty⟩
  case wired =>
    intro s n h
    rw [Dev.sourceEdge_wired h]
  case unwired =>
    intro s n h
    rw [Dev.sourceEdge_unwired h]
  case set =>
    intro s p v hok hlow
    rw [Dev.evcSetWrite_source hok hlow]
  case reserved =>
    intro s p v _ hhigh
    rw [Dev.evcSetWrite_reserved hhigh]
  case taken =>
    rintro s k n x d e hrun hnext rfl hd he
    rw [Dev.eventDelivery_taken hrun hnext hd he]
  case noneNext =>
    intro s k hrun hnext
    rw [Dev.eventDelivery_none hrun hnext]
  case newest =>
    intro s k n h hs hk hrun hnewest hsrc
    rw [Dev.evcComplete_newest hk hrun hnewest, if_pos hsrc]
  case stopped =>
    intro s k n h
    rw [Dev.evcComplete_stopped h]
  case order =>
    intro s k n j h hs d hk hrun hnewest hsrc hd hlowest
    rw [Dev.evcComplete_newest hk hrun hnewest, if_neg hsrc, Dev.evcOrder_told hd hlowest]
  case written =>
    intro s e q n d hqueue hn hfree hd
    rw [Dev.troubleLogWrite_oldest hqueue hn hfree hd]
  case empty =>
    intro s hqueue
    rw [Dev.troubleLogWrite_empty hqueue]

end Sys2Proof.Machine
end

section
/-! SUPPORT. Power epochs, the limiter, droops, steps of the clock and PWR packets (R369, R455 to R463, R465). Epochs, stretching and Blitz
are log entries 38, 39 and 95, the budget group entry 40. -/

namespace Sys2Proof.Machine

variable {bt n : Nat} {d e : Dev}

/-! ### The power epoch (R456, R458 to R460, R463) -/

/-- The slot for the power epoch fires: telemetry first, then the epoch's states outside the Floor state, then the reports. -/
theorem Dev.powerEpoch_due {d₀ : Dev} {base links mem cores adies slack : Nat} (hslot : d₀.slotDue bt 8 5 = some n)
    (hfire : d₀.fireSlot bt 8 n 5 = some d)
    (he : e = (((d.modPow (fun z => { z with epochNo := (z.epochNo + 1) % 2 ^ 32 })).fset F.pwrTelemLinksW 0 links).fset F.pwrTelemMemW 0
      mem).fset F.pwrTelemComputeW 0 (cores + adies)) : d₀.powerEpoch bt base links mem cores adies slack =
      ((if e.floor then e else if e.applyGrant.safe then e.applyGrant else e.applyGrant.chooseStates bt base links mem cores).modPow
        (fun z => { z with stretched := z.overCap })).pwrReports bt slack := by
  subst he
  simp only [Dev.powerEpoch, hslot, Option.bind_some, hfire]

theorem Dev.powerEpoch_notDue (hslot : d.slotDue bt 8 5 = none) (base links mem cores adies slack : Nat) :
    d.powerEpoch bt base links mem cores adies slack = d := by
  simp only [Dev.powerEpoch, hslot, Option.bind_none]

theorem Dev.applyGrant_some {w no : Nat} (hgrant : d.pow.grant = some (w, no)) : d.applyGrant =
    (((d.modPow (fun z => { z with grant := none })).fset F.pwrGrantCapW 0 w).fset F.pwrGrantEpochNo 0 no).fset F.pwrGrantMissed 0 0 := by
  simp only [Dev.applyGrant, hgrant]

/-- A state below A15 that fits is the first that does. -/
theorem fitState_first {w k : Nat} (hfit : fitState w n = k) (hk : k < 15) :
    modelHalfW k * n ≤ 2 * w ∧ ∀ j < k, 2 * w < modelHalfW j * n := by
  unfold fitState at hfit
  cases hfind : (List.range 15).find? (fun k => decide (modelHalfW k * n ≤ 2 * w)) with
  | none =>
    rw [hfind] at hfit
    exact absurd hfit hk.ne'
  | some i =>
    rw [hfind] at hfit
    obtain rfl : i = k := hfit
    obtain ⟨hfits, -, hbelow⟩ := List.find?_range_eq_some.mp hfind
    exact ⟨of_decide_eq_true hfits, fun j hj => by simpa using hbelow j hj⟩

/-! ### Limiter and steps (R455, R456, R460) -/

/-- Above the cap every die stretches. -/
theorem Dev.limiterSample_above {w : Nat} (hhigh : d.effCap < w)
    (he : e = (d.fset F.pwrTelemPkgW 0 w).modPow (fun z => { z with overCap := true })) :
    d.limiterSample w = allDies.foldl (fun d n => d.fbump F.pwrDieClkStretch n 1) e := by
  subst he
  simp only [Dev.limiterSample, decide_eq_true hhigh, Bool.and_true, if_true]

theorem Dev.limiterSample_within {w : Nat} (hlow : w ≤ d.effCap) : d.limiterSample w =
    (d.fset F.pwrTelemPkgW 0 w).modPow (fun z => { z with overCap := false, stretched := false }) := by
  simp only [Dev.limiterSample, decide_eq_false (Nat.not_lt.mpr hlow), Bool.and_false, Bool.false_eq_true, if_false]

theorem Dev.aclkStep_up (hn : n < 8) (habove : d.clkTarget n < d.fget F.pwrDieClkState n) :
    d.aclkStep n = d.fset F.pwrDieClkState n (d.fget F.pwrDieClkState n - 1) := if_pos ⟨hn, habove⟩

theorem Dev.aclkStep_there (hthere : d.fget F.pwrDieClkState n ≤ d.clkTarget n) : d.aclkStep n = d :=
  if_neg (fun h => absurd h.2 (Nat.not_lt.mpr hthere))

section Blitz

variable (hn : n < 8) (hblitz : d.blitz = true)
include hn hblitz

theorem Dev.blitz_on : ¬(8 ≤ n ∨ d.blitz = false) := by
  simp [hn, hblitz]

/-- With room a die in A0 that neither heat nor CEIL bounds rises one Blitz state. -/
theorem Dev.blitzStep_rises (hfirst : mapFind? d.pow.blitzAt n = none) (hst : d.fget F.pwrDieClkState n = 0)
    (hhot : mapGet 0 d.pow.hot n = 0) (hceil : d.fget F.pwrDieClkCeil n = 0) (htop : d.fget F.pwrDieClkBlitzStep n < d.blitzTop) :
    d.blitzStep bt n true = (d.modPow (fun z => { z with blitzAt := mapPut z.blitzAt n bt })).fset F.pwrDieClkBlitzStep n
      (d.fget F.pwrDieClkBlitzStep n + 1) := by
  have hroom : (d.modPow (fun z => { z with blitzAt := mapPut z.blitzAt n bt })).blitzTop = d.blitzTop := rfl
  simp only [Dev.blitzStep, if_neg (Dev.blitz_on hn hblitz), not_true_eq_false, if_false, hfirst, Bool.false_eq_true, hst, hhot, hceil,
    Nat.max_self, Nat.lt_irrefl, true_and, hroom, if_pos htop]

theorem Dev.blitzStep_falls : d.blitzStep bt n false = d.clkDown bt n true := by
  simp only [Dev.blitzStep, if_neg (Dev.blitz_on hn hblitz), Bool.false_eq_true, not_false_eq_true, if_true]

end Blitz

theorem Dev.blitzStep_off (hblitz : d.blitz = false) (room : Bool) : d.blitzStep bt n room = d := if_pos (.inr hblitz)

/-! ### PWR packets (R369, R462, R463) -/

section Packet

variable {a : Nat} {k : Packet} (hport : k.port < 8) (ha : a = d.partOfDie k.port) (hdeaf : d.fabDeaf a = false)
  (hnode : k.dstNode = d.nodeId a) (hheard : d.hearEpoch a k.srcNode k.srcEpoch = (true, e)) (hen : e.fon F.pwrEpochEn 0 = true)
  (hgroup : listNat k.payload 2 2 = e.fget F.pwrEpochGroup 0)
include hport ha hdeaf hnode hheard hen hgroup

/-- A packet of the device's group is heard. -/
theorem Dev.pwrPacket_heard : d.pwrPacket k =
    if listNat k.payload 0 1 = 1 ∧ e.fon F.pwrEpochLeader 0 then
      e.modPow (fun z => { z with reports := mapPut z.reports k.srcNode (listNat k.payload 8 4) })
    else if listNat k.payload 0 1 = 2 then e.modPow (fun z => { z with grant := some (listNat k.payload 14 2, listNat k.payload 4 4) })
    else e := by
  subst ha
  have hours : ¬(8 ≤ k.port ∨ d.fabDeaf (d.partOfDie k.port) = true ∨ k.dstNode ≠ d.nodeId (d.partOfDie k.port)) := by
    simp [hport, hdeaf, hnode]
  simp only [Dev.pwrPacket, if_neg hours, hheard, hen, hgroup, and_self, if_true]

/-- A leader keeps a report. -/
theorem Dev.pwrPacket_report (hkind : listNat k.payload 0 1 = 1) (hleader : e.fon F.pwrEpochLeader 0 = true) :
    d.pwrPacket k = e.modPow (fun z => { z with reports := mapPut z.reports k.srcNode (listNat k.payload 8 4) }) := by
  rw [Dev.pwrPacket_heard hport ha hdeaf hnode hheard hen hgroup, if_pos ⟨hkind, hleader⟩]

theorem Dev.pwrPacket_grant (hkind : listNat k.payload 0 1 = 2) :
    d.pwrPacket k = e.modPow (fun z => { z with grant := some (listNat k.payload 14 2, listNat k.payload 4 4) }) := by
  rw [Dev.pwrPacket_heard hport ha hdeaf hnode hheard hen hgroup, if_neg (by simp [hkind]), if_pos hkind]

end Packet

/-- Settles O49: an epoch has its grant and its states or is in the Floor state, a sample is above the cap or within it, and a step has
room or has none. -/
theorem powerAndClocks : Obligations.PowerAndClocks := by
  unfold Obligations.PowerAndClocks
  simp only [exec_powerEpoch, execPowerEpoch, exec_limiterSample, execLimiterSample, exec_droop, execDroop, exec_aclkStep, execAclkStep,
    exec_blitzStep, execBlitzStep, exec_pwrPacket, execPwrPacket, onDev_eq]
  refine ⟨?granted, ?inFloor, ?notDue, ?states, ?fit, ?above, ?within, ?droop, ?up, ?there, ?rises, ?falls, ?off, ?packet⟩
  case granted =>
    intro s b l m c a k n w no d e f hslot hfire he hfloor hgrant hf hsafe
    have happly : e.applyGrant = f := (Dev.applyGrant_some hgrant).trans hf.symm
    rw [Dev.powerEpoch_due hslot hfire he, happly, hfloor, hsafe]
    rfl
  case inFloor =>
    intro s b l m c a k n d e hslot hfire he hfloor
    rw [Dev.powerEpoch_due hslot hfire he, if_pos hfloor]
  case notDue =>
    intro s b l m c a k hslot
    rw [Dev.powerEpoch_notDue hslot]
  case states =>
    rintro bt b l m c t d e rfl rfl
    rfl
  case fit =>
    intro w n k hfit hk
    exact fitState_first hfit hk
  case above =>
    intro s w d hhigh hd
    rw [Dev.limiterSample_above hhigh hd]
  case within =>
    intro s w hlow
    rw [Dev.limiterSample_within hlow]
  case droop =>
    intro s n us hn
    rw [Dev.droop, if_pos hn]
  case up =>
    intro s n hn habove
    rw [Dev.aclkStep_up hn habove]
  case there =>
    intro s n hthere
    rw [Dev.aclkStep_there hthere]
  case rises =>
    intro s n hn hblitz hfirst hst hhot hceil htop
    rw [Dev.blitzStep_rises hn hblitz hfirst hst hhot hceil htop]
  case falls =>
    intro s n hn hblitz
    rw [Dev.blitzStep_falls hn hblitz]
  case off =>
    intro s n room hblitz
    rw [Dev.blitzStep_off hblitz]
  case packet =>
    intro s k a d hport ha hdeaf hnode hheard hen hgroup
    refine ⟨fun hkind hleader => ?_, fun hkind => ?_⟩
    · rw [Dev.pwrPacket_report hport ha hdeaf hnode hheard hen hgroup hkind hleader]
    · rw [Dev.pwrPacket_grant hport ha hdeaf hnode hheard hen hgroup hkind]

end Sys2Proof.Machine
end

section
/-! SUPPORT. The Floor state and thermal control (R464 to R466, R490). -/

namespace Sys2Proof.Machine

variable {bt n t : Nat} {d e f : Dev} {c : Int}

/-! ### The Floor state (R464) -/

/-- The first assertion of PWR_ALERT_N puts every die into the Floor state. -/
theorem Dev.floorEnter_first {g : Dev} (halert : d.pow.alert = false) (hup : d.sec.up = true)
    (he : e = d.modPow (fun z => { z with alert := true, released := none })) (hout : e.floor = false)
    (hg : g = (((e.fset F.pwrFloorActive 0 1).fbump F.pwrFloorEntries 0 1).tlog bt 12 evFloor none).raise bt 1344) :
    d.floorEnter bt = allDies.foldl (fun d n => d.clkDown bt n true) g := by
  subst he hg
  simp only [Dev.floorEnter, Dev.sec_modPow, hup, halert, Bool.true_eq_false, Bool.false_eq_true, or_self, if_false, hout,
    Dev.enterFloor]

/-- While it stays asserted only the hold is put off. -/
theorem Dev.floorEnter_again (halert : d.pow.alert = true) :
    d.floorEnter bt = d.modPow (fun z => { z with alert := true, released := none }) := if_pos (.inr halert)

theorem Dev.clkTarget_floor (hfloor : d.floor = true) : d.clkTarget n = 15 := if_pos hfloor

theorem Dev.alertRelease_asserted (halert : d.pow.alert = true) :
    d.alertRelease bt = d.modPow (fun z => { z with alert := false, released := some bt }) := if_pos halert

theorem Dev.alertRelease_none (halert : d.pow.alert = false) : d.alertRelease bt = d := if_neg (by simp [halert])

/-- The Floor state ends once its hold has passed. -/
theorem Dev.floorHoldEnd_over (hrel : d.pow.released = some t) (hfloor : d.floor = true)
    (hover : t + d.fget F.pwrFloorHoldUs 0 * 1000 ≤ bt)
    (he : e = (d.fset F.pwrFloorActive 0 0).modPow (fun z => { z with released := none })) :
    d.floorHoldEnd bt = allDies.foldl (fun d n => d.clkDown bt n true) e := by
  subst he
  simp only [Dev.floorHoldEnd, hrel]
  exact if_pos ⟨hfloor, hover⟩

theorem Dev.floorHoldEnd_notReleased (hrel : d.pow.released = none) : d.floorHoldEnd bt = d := by
  simp only [Dev.floorHoldEnd, hrel]

/-! ### Temperatures (R465, R466) -/

theorem Dev.thermalStep_outOfRange (hn : n < 8) (hout : c < -40 ∨ 150 < c) :
    d.thermalStep bt n c = d.tlog bt 12 evSensor (some (d.partOfDie n)) n :=
  (if_neg (Nat.not_le.mpr hn)).trans (if_pos hout)

/-- The thermal state of a die outside Blitz one millisecond on: lower by one at the threshold, higher by one 3 °C below it. -/
def nextHot (limit temp hot st : Nat) : Nat :=
  if limit ≤ temp then min 15 (max hot st + 1) else if temp + 3 ≤ limit then hot - 1 else hot

theorem nextHot_eq {limit temp hot st h : Nat} (hh : limit ≤ temp ∧ h = min 15 (max hot st + 1) ∨
      temp < limit ∧ limit < temp + 3 ∧ h = hot ∨ temp + 3 ≤ limit ∧ h = hot - 1) : nextHot limit temp hot st = h := by
  unfold nextHot
  rcases hh with ⟨habove, rfl⟩ | ⟨hbelow, hnear, rfl⟩ | ⟨hfar, rfl⟩
  · rw [if_pos habove]
  · rw [if_neg (Nat.not_le.mpr hbelow), if_neg (Nat.not_le.mpr hnear)]
  · rw [if_neg (by omega), if_pos hfar]

/-- A sensor in range shows in the registers, and sets the die's thermal state when a millisecond has passed. -/
theorem Dev.thermalStep_sets {d₀ : Dev} {hot : Nat} (hn : n < 8) (hlow : -40 ≤ c) (hhigh : c ≤ 150)
    (hd : d = d₀.modPow (fun z => { z with temps := mapSet 0 z.temps n c.toNat }))
    (hhot : hot = allDies.foldl (fun m n => max m (mapGet 0 d.pow.temps n)) 0)
    (he : e = (d.fset F.pwrThermMaxC 0 hot).fset F.pwrThermPeakC 0 (max hot (d.fget F.pwrThermPeakC 0))) (hsafe : e.safe = false)
    (hat : mapFind? e.pow.thermAt n = none) (hblitz : e.fget F.pwrDieClkBlitzStep n = 0)
    (hf : f = e.modPow (fun z => { z with
      hot := mapSet 0 z.hot n (nextHot (e.fget F.pwrThermThrottleC 0) c.toNat (mapGet 0 e.pow.hot n) (e.fget F.pwrDieClkState n))
      thermAt := mapPut z.thermAt n bt })) : d₀.thermalStep bt n c = f.clkDown bt n (!f.blitz) := by
  have hin : ¬(c < -40 ∨ 150 < c) := by omega
  have hup : decide (0 < e.fget F.pwrDieClkBlitzStep n) = false := decide_eq_false (by omega)
  subst hf
  simp only [Dev.thermalStep, if_neg (Nat.not_le.mpr hn), if_neg hin, ← hd, ← hhot, ← he, hsafe, hat, Bool.false_eq_true, or_self,
    if_false, hup, Bool.false_and, Bool.or_false, nextHot]

/-- A trip asserts THERM_TRIP_N. -/
theorem Dev.thermTrip_reached (hfirst : d.pow.tripped = false) (hreached : (d.fget F.pwrThermTripC 0 : Int) ≤ c) :
    d.thermTrip bt c = ((d.emit (.pin pinThermTrip false)).tlog bt 12 evTrip none 0).modPow (fun z => { z with tripped := true }) :=
  if_neg (by simp [hfirst, hreached])

theorem Dev.thermTrip_below (hbelow : c < (d.fget F.pwrThermTripC 0 : Int)) : d.thermTrip bt c = d := if_pos (.inr hbelow)

/-- Settles O50: the alert is asserted, released or held, and a temperature is out of range, at the threshold, or at the trip. -/
theorem floorAndThermal : Obligations.FloorAndThermal := by
  unfold Obligations.FloorAndThermal
  simp only [exec_floorEnter, execFloorEnter, exec_pwrAlertRelease, execPwrAlertRelease, exec_floorHoldEnd, execFloorHoldEnd,
    exec_thermalStep, execThermalStep, exec_thermTrip, execThermTrip, onDev_eq]
  refine ⟨?first, ?again, ?target, ?release, ?notAsserted, ?held, ?notReleased, ?outOfRange, ?throttle, ?trip, ?below⟩
  case first =>
    intro s d e halert hup hd hout he
    rw [Dev.floorEnter_first halert hup hd hout he]
  case again =>
    intro s halert
    rw [Dev.floorEnter_again halert]
  case target =>
    intro n d hfloor
    exact Dev.clkTarget_floor hfloor
  case release =>
    intro s halert
    rw [Dev.alertRelease_asserted halert]
  case notAsserted =>
    intro s halert
    rw [Dev.alertRelease_none halert]
  case held =>
    intro s t d hrel hfloor hover hd
    rw [Dev.floorHoldEnd_over hrel hfloor hover hd]
  case notReleased =>
    intro s hrel
    rw [Dev.floorHoldEnd_notReleased hrel]
  case outOfRange =>
    intro s n t hn hout
    rw [Dev.thermalStep_outOfRange hn hout]
  case throttle =>
    intro s n hot h t d e f hn hlow hhigh hd hhot he hsafe hat hblitz hh hf
    rw [← nextHot_eq hh] at hf
    rw [Dev.thermalStep_sets hn hlow hhigh hd hhot he hsafe hat hblitz hf]
  case trip =>
    intro s t hfirst hreached
    rw [Dev.thermTrip_reached hfirst hreached]
  case below =>
    intro s t hbelow
    rw [Dev.thermTrip_below hbelow]

end Sys2Proof.Machine
end

section
/-! SUPPORT. Shadow runs and digest passes (R204, R437 to R441). What a settled miscompare frees is log entry 89. -/

namespace Sys2Proof.Machine

variable {bt l a e : Nat} {d f : Dev} {x y : Launch}

/-! ### Comparison of the two runs (R437 to R439) -/

section Done

variable (hx : d.launch? l = some x) (hdone : x.st = .done) (hown : x.shadowOf = none)
include hx hdone hown

section FirstRun

variable {h k : Nat} {ks : List Nat} (hsettle : x.settle = none) (hshadow : x.shadow = some h) (hy : d.launch? h = some y)
  (hyDone : y.st = .done) (hces : y.oldCes = ks ++ [k]) (hf : f = d.fbump F.resShadowStatSampled (d.partOfCtx x.ctx) 1)
include hsettle hshadow hy hyDone hces hf

/-- Both runs have ended; the shadow ran on the last CE it held. -/
theorem Dev.shadowCompare_sampled : d.shadowCompare bt l =
    if x.digests = y.digests then ((f.endShadow l h).freeSpares bt [k]).releaseRun bt l
    else f.modLaunch l (fun z => { z with
      st := .queued, settle := some (x.digests, y.digests), digests := [], oldCes := z.oldCes ++ [k], degrade := 0 }) := by
  subst hf
  have hspare : y.oldCes.drop (y.oldCes.length - 1) = [k] := by simp [hces]
  simp only [Dev.shadowCompare, hx, hdone, hown, and_self, if_true, hsettle, hshadow, hy, hyDone, hspare]

theorem Dev.shadowCompare_equal (heq : x.digests = y.digests) :
    d.shadowCompare bt l = ((f.endShadow l h).freeSpares bt [k]).releaseRun bt l := by
  rw [Dev.shadowCompare_sampled hx hdone hown hsettle hshadow hy hyDone hces hf, if_pos heq]

theorem Dev.shadowCompare_differ (hne : x.digests ≠ y.digests) : d.shadowCompare bt l =
    f.modLaunch l (fun z => { z with
      st := .queued, settle := some (x.digests, y.digests), digests := [], oldCes := z.oldCes ++ [k], degrade := 0 }) := by
  rw [Dev.shadowCompare_sampled hx hdone hown hsettle hshadow hy hyDone hces hf, if_neg hne]

end FirstRun

/-- The replay of a launch whose runs differed settles it: the runs were on the last CEs but two and but one. -/
theorem Dev.shadowCompare_replayed {k0 k1 k2 : Nat} {ks o p : List Nat} (hsettle : x.settle = some (o, p))
    (hces : x.oldCes = ks ++ [k0, k1, k2]) : d.shadowCompare bt l = d.settleRun bt l x o p k0 k1 := by
  have hfirst : x.oldCes.getD (x.oldCes.length - 3) 0 = k0 := by simp [hces]
  have hsecond : x.oldCes.getD (x.oldCes.length - 2) 0 = k1 := by simp [hces]
  simp only [Dev.shadowCompare, hx, hdone, hown, and_self, if_true, hsettle, hfirst, hsecond]

end Done

theorem Dev.shadowCompare_running (hx : d.launch? l = some x) (hst : x.st ≠ .done) : d.shadowCompare bt l = d := by
  simp only [Dev.shadowCompare, hx, hst, false_and, if_false]

/-! ### The replay's verdict (R438, R439) -/

section Settle

variable {h k0 k1 : Nat} {o p : List Nat} (hshadow : x.shadow = some h) (hf : f = d.endShadow l h)
include hshadow hf

/-- The replay agrees with the first run: the spare is screened. -/
theorem Dev.settleRun_spare (ho : x.digests = o) : d.settleRun bt l x o p k0 k1 =
    ((((f.fbump F.resShadowStatSettled (d.partOfCtx x.ctx) 1).resLog bt 0x43 1 (some (d.partOfCtx x.ctx))
      ((f.fbump F.resShadowStatSettled (d.partOfCtx x.ctx) 1).ceUnit k1) [x.tag, resData1 0 x.ctx 0, bt, 4]
      x.ctx).histAdd bt 1 1 4 k1).sendToScreen bt k1).releaseRun bt l := by
  subst hf
  simp only [Dev.settleRun, hshadow, ho, if_true]

variable (ho : x.digests ≠ o)
include ho

/-- It agrees with the shadow: the first run's CE is wrong. -/
theorem Dev.settleRun_first (hp : x.digests = p) : d.settleRun bt l x o p k0 k1 =
    ((((f.fbump F.resShadowStatSettled (d.partOfCtx x.ctx) 1).resLog bt 0x43 1 (some (d.partOfCtx x.ctx))
      ((f.fbump F.resShadowStatSettled (d.partOfCtx x.ctx) 1).ceUnit k0) [x.tag, resData1 0 x.ctx 0, bt, 3]
      x.ctx).wrongCe bt k0).freeSpares bt [k1]).releaseRun bt l := by
  subst hf
  simp only [Dev.settleRun, hshadow, if_neg ho, if_pos hp]

/-- It agrees with neither: both CEs are wrong and the launch ends with MISCOMPARE. -/
theorem Dev.settleRun_neither (hp : x.digests ≠ p) : d.settleRun bt l x o p k0 k1 =
    (((x.outs.foldl (fun d r => d.memFree r.1 r.2) ((f.fbump F.resShadowStatMiscompares (d.partOfCtx x.ctx) 1).resLog bt
      0x44 2 (some (d.partOfCtx x.ctx)) ((f.fbump F.resShadowStatMiscompares (d.partOfCtx x.ctx) 1).ceUnit k0)
      [x.tag, resData1 0 x.ctx 0, bt, 3] x.ctx)).wrongCe bt k1).wrongCe bt k0).completeLaunch bt l (x.final.first .miscompare) := by
  subst hf
  simp only [Dev.settleRun, hshadow, if_neg ho, if_neg hp]

end Settle

/-! ### Digest passes (R204, R440, R441) -/

section Pass

variable (hcount : e < d.fget F.resDigCfgCount a) (hturn : e = mapGet 0 d.res.digests a) (hlater : e ≠ 0) (hquiet : d.quiet a = false)
  (hwipes : d.tier.wipes.any (fun w => w.2.part == a) = false) (hmoves : d.tier.moves.find? (fun m => m.2.obj == .digest a e) = none)
include hcount hturn hlater hquiet hwipes hmoves

/-- It is the turn of an entry other than the first, and its range is not being read. -/
theorem Dev.digestPass_turn {base n : Nat}
    (hbase : base = bits (memNat d.mem (d.fget F.resDigBaseAddr a * 32 + 32 * e) 8) 47 0)
    (hn : n = 512 * bits (memNat d.mem (d.fget F.resDigBaseAddr a * 32 + 32 * e + 8) 8) 31 0) : d.digestPass bt a e =
    if n ≠ 0 ∧ d.inDdr a base n = true then
      d.addMove { part := a, die := ((d.ddrPlace base).map (fun p => p.1 / 2)).getD a, obj := .digest a e, up := true, cls := .background
                  src := base, dst := some base, len := n, since := bt, req := d.tier.nextMove }
    else d.digestDone bt a e := by
  subst hbase hn
  rw [Dev.digestPass, hmoves, hquiet, hwipes, if_neg ?going]
  case going =>
    rintro (hbeyond | hother | ⟨hfirst, -⟩ | h | h)
    · exact absurd hbeyond (Nat.not_le.mpr hcount)
    · exact hother hturn
    · exact hlater hfirst
    · exact Bool.false_ne_true h
    · exact Bool.false_ne_true h

end Pass

theorem Dev.digestPass_wiping (hwipes : d.tier.wipes.any (fun w => w.2.part == a) = true) : d.digestPass bt a e = d :=
  if_pos (.inr (.inr (.inr (.inr hwipes))))

/-- What a store to memory leaves in the registers. -/
theorem Dev.fget_memPut (z : Nat) (bs : List Byte) (g : Fld) (i : Nat) : (d.memPut z bs).fget g i = d.fget g i := rfl

/-- The pass of an entry other than the first shows its result and its time, and the turn is the next entry's. -/
theorem Dev.digestDone_later {pos w0 w1 r : Nat} (hlater : e ≠ 0) (hpos : pos = d.fget F.resDigBaseAddr a * 32 + 32 * e)
    (hw0 : w0 = memNat d.mem pos 8) (hw1 : w1 = memNat d.mem (pos + 8) 8)
    (hr : r = d.digestResult a (bits w0 47 0) w0 w1 (memNat d.mem (pos + 16) 8))
    (hf : f = ((d.memPut (pos + 8) (leBytes 8 (w1 - bits w1 34 32 * 2 ^ 32 + r * 2 ^ 32))).memPut (pos + 24) (leBytes 8 bt)).modRes
      (fun z => { z with digests := mapSet 0 z.digests a ((e + 1) % d.fget F.resDigCfgCount a) })) : d.digestDone bt a e =
    if r = 2 ∨ r = 3 then f.tlogX bt 13 0x45 3 (some a) 0xFFFF 0 (bits w0 47 0) 0 [0, 0, bt, r] else f := by
  simp only [Dev.digestDone, if_neg hlater, Dev.fget_memPut, ← hpos, ← hw0, ← hw1, ← hr, ← hf]

/-- An entry with a reserved bit set, or whose length is 0 or beyond 1 GiB, is in error. -/
theorem Dev.digestResult_malformed {base w0 w1 golden : Nat}
    (h : bits w0 63 48 ≠ 0 ∨ bits w1 63 35 ≠ 0 ∨ bits w1 31 0 = 0 ∨ 2097152 < bits w1 31 0) :
    d.digestResult a base w0 w1 golden = 4 := by
  refine if_pos ?_
  rcases h with h | h | h | h
  · exact .inl h
  · exact .inr (.inl h)
  · exact .inr (.inr (.inl h))
  · exact .inr (.inr (.inr (.inl h)))

/-- Settles O48: the runs agree, or differ and are settled by the replay's digests; a pass reads DDR first, and leaves its entry's result. -/
theorem shadowAndDigests : Obligations.ShadowAndDigests := by
  unfold Obligations.ShadowAndDigests
  simp only [exec_shadowCompare, execShadowCompare, exec_digestPass, execDigestPass, onDev_eq]
  refine ⟨?compared, ?settled, ?running, ?passed, ?read, ?wiping, ?malformed⟩
  case compared =>
    intro s l h k x y ks d hx hdone hown hsettle hshadow hy hyDone hces hd
    refine ⟨fun heq => ?_, fun hne => ?_⟩
    · rw [Dev.shadowCompare_equal hx hdone hown hsettle hshadow hy hyDone hces hd heq]
    · rw [Dev.shadowCompare_differ hx hdone hown hsettle hshadow hy hyDone hces hd hne]
  case settled =>
    intro s l h k0 k1 k2 ks o p x d hx hdone hown hsettle hces hshadow hd
    rw [Dev.shadowCompare_replayed hx hdone hown hsettle hces]
    refine ⟨fun ho => ?_, fun ho hp => ?_, fun ho hp => ?_⟩
    · rw [Dev.settleRun_spare hshadow hd ho]
    · rw [Dev.settleRun_first hshadow hd ho hp]
    · rw [Dev.settleRun_neither hshadow hd ho hp]
  case running =>
    intro s l x hx hst
    rw [Dev.shadowCompare_running hx hst]
  case passed =>
    rintro s a e pos w0 w1 r d hcount hturn hlater hquiet hwipes hpos hw0 hw1 hr hmoves hplace hd
    have hdone : s.dev.digestPass s.bt a e = s.dev.digestDone s.bt a e := by
      rw [Dev.digestPass_turn hcount hturn hlater hquiet hwipes hmoves rfl rfl, ← hpos, ← hw0, ← hw1]
      refine if_neg (fun hread => ?_)
      rcases hplace with hzero | hout
      · exact hread.1 hzero
      · exact Bool.false_ne_true (hout.symm.trans hread.2)
    rw [hdone, Dev.digestDone_later hlater hpos hw0 hw1 hr hd]
  case read =>
    rintro s a e n base i d hcount hturn hlater hquiet hwipes hmoves rfl hbase hn hpos hin rfl
    rw [Dev.digestPass_turn hcount hturn hlater hquiet hwipes hmoves hbase hn, if_pos ⟨hpos, hin⟩]
  case wiping =>
    intro s a e hwipes
    rw [Dev.digestPass_wiping hwipes]
  case malformed =>
    intro a base w0 w1 golden d h
    exact Dev.digestResult_malformed h

end Sys2Proof.Machine
end

section
/-! SUPPORT. SPDM (R327, R394, R405, R406). Its codes and stages are log entry 43. -/

namespace Sys2Proof.Machine

variable {c stage n : Nat} {d : Dev}

/-! ### Which requests are answered (R394) -/

theorem Dev.spdmAsk_notStarted (h : d.sec.started = false) (f : Dev → Dev) : d.spdmAsk c stage f = d := if_pos (.inr (.inl h))

theorem Dev.signing_identified (hid : d.sec.identity.isSome = true) (f : Dev → Dev) : d.signing c f = f d :=
  if_neg (by simpa [Option.isSome_iff_ne_none] using hid)

theorem Dev.signing_unidentified (hid : d.sec.identity = none) (f : Dev → Dev) : d.signing c f = d.spdmError c errUnspecified :=
  if_pos (by rw [hid]; rfl)

section Answers

variable (hc : c < 5) (hstarted : d.sec.started = true) (hwarm : d.res.warm = none)
include hc hstarted hwarm

theorem Dev.spdm_runs : ¬(5 ≤ c ∨ d.sec.started = false ∨ d.res.warm.isSome = true) := by
  simp [hc, hstarted, hwarm]

theorem Dev.spdmAsk_inOrder (hstage : stage ≤ (d.conn c).stage) (f : Dev → Dev) : d.spdmAsk c stage f = f d :=
  (if_neg (Dev.spdm_runs hc hstarted hwarm)).trans (if_neg (Nat.not_lt.mpr hstage))

/-- A request before its stage is unexpected. -/
theorem Dev.spdmAsk_early (hstage : (d.conn c).stage < stage) (f : Dev → Dev) :
    d.spdmAsk c stage f = d.spdmError c errUnexpectedRequest :=
  (if_neg (Dev.spdm_runs hc hstarted hwarm)).trans (if_pos hstage)

/-! ### The opening requests -/

theorem Dev.getVersion_answered : d.getVersion c = (d.setConn c { stage := 1 }).spdmAnswer c rspVersion [0x13, 0x12] :=
  Dev.spdmAsk_inOrder hc hstarted hwarm (Nat.zero_le _) _

theorem Dev.getCapabilities_answered (hstage : 1 ≤ (d.conn c).stage) : d.getCapabilities c =
    (d.setConn c { d.conn c with stage := max 2 (d.conn c).stage }).spdmAnswer c rspCapabilities [0x13] :=
  Dev.spdmAsk_inOrder hc hstarted hwarm hstage _

theorem Dev.negotiate_answered (hstage : 2 ≤ (d.conn c).stage) :
    d.negotiate c n = (d.setConn c { d.conn c with stage := 3 }).spdmAnswer c rspAlgorithms [n % 16] :=
  Dev.spdmAsk_inOrder hc hstarted hwarm hstage _

theorem Dev.negotiate_early (hstage : (d.conn c).stage < 2) : d.negotiate c n = d.spdmError c errUnexpectedRequest :=
  Dev.spdmAsk_early hc hstarted hwarm hstage _

/-! ### Requests of the last stage (R405, R406) -/

variable (hstage : 3 ≤ (d.conn c).stage)
include hstage

section Chains

variable (hflash : d.sec.flashGone = false)
include hflash

theorem Dev.getDigests_answered : d.getDigests c = d.spdmAnswer c rspDigests [1, (sha384 (Config.certChain false)).toNat] :=
  (Dev.spdmAsk_inOrder hc hstarted hwarm hstage _).trans (if_neg (by simp [hflash]))

theorem Dev.getCertificate_answered {o : Nat} {p : List Byte} (hp : p = ((Config.certChain false).drop o).take n)
    (ho : o < (Config.certChain false).length) : d.getCertificate c 0 o n =
      d.spdmAnswer c rspCertificate ([p.length, (Config.certChain false).length - o - p.length] ++ p.map BitVec.toNat) := by
  subst hp
  refine (Dev.spdmAsk_inOrder hc hstarted hwarm hstage _).trans ((if_neg ?_).trans (if_neg (by simp [hflash])))
  simpa using ho

theorem Dev.getSlhChain_answered : d.getSlhChain c = d.largeAnswer c ((Config.certChain true).map BitVec.toNat) :=
  (Dev.spdmAsk_inOrder hc hstarted hwarm hstage _).trans (if_neg (by simp [hflash]))

end Chains

theorem Dev.getCertificate_beyond {o : Nat} (ho : (Config.certChain false).length ≤ o) :
    d.getCertificate c 0 o n = d.spdmError c errInvalidRequest :=
  (Dev.spdmAsk_inOrder hc hstarted hwarm hstage _).trans (if_pos (.inr ho))

theorem Dev.challenge_signed {m : List Nat} (hid : d.sec.identity.isSome = true)
    (hm : m = [rspChallengeAuth, (sha384 (Config.certChain false)).toNat, Config.freeNat d.free] ++
      (List.range 23).map (fun i => d.measurement (i + 1))) : d.challenge c 0 =
      ((d.took 1).setConn c { d.conn c with signed := some m }).spdmAnswer c rspChallengeAuth (m ++ [(Config.rsaSign m).toNat]) := by
  subst hm
  exact (Dev.spdmAsk_inOrder hc hstarted hwarm hstage _).trans
    ((if_neg (not_not.mpr rfl)).trans (Dev.signing_identified hid _))

theorem Dev.challenge_unidentified (hid : d.sec.identity = none) : d.challenge c 0 = d.spdmError c errUnspecified :=
  (Dev.spdmAsk_inOrder hc hstarted hwarm hstage _).trans ((if_neg (not_not.mpr rfl)).trans (Dev.signing_unidentified hid _))

/-- One measurement without a signature. -/
theorem Dev.getMeasurements_one (hlow : 1 ≤ n) (hhigh : n ≤ 23) : d.getMeasurements c n false =
    (d.setConn c { d.conn c with signed := none }).spdmAnswer c rspMeasurements [d.measurement n] := by
  have hknown : ¬(23 < n ∧ n ≠ 0xFF) := fun h => absurd h.1 (Nat.not_lt.mpr hhigh)
  have hnotCount : n ≠ 0 := Nat.ne_of_gt hlow
  have hnotAll : n ≠ 0xFF := by omega
  refine (Dev.spdmAsk_inOrder hc hstarted hwarm hstage _).trans ((if_neg hknown).trans ?_)
  simp only [if_neg hnotCount, if_neg hnotAll, Bool.false_eq_true, if_false]

theorem Dev.getMeasurements_unknown (hhigh : 23 < n) (hnotAll : n ≠ 0xFF) (signed : Bool) :
    d.getMeasurements c n signed = d.spdmError c errInvalidRequest :=
  (Dev.spdmAsk_inOrder hc hstarted hwarm hstage _).trans (if_pos ⟨hhigh, hnotAll⟩)

theorem Dev.keyExchange_signed {m : List Nat} (hid : d.sec.identity.isSome = true) (hm : m = [rspKeyExchange, Config.freeNat d.free]) :
    d.keyExchange c 0 =
      ((d.took 1).setConn c { d.conn c with session := 1 }).spdmAnswer c rspKeyExchange (m ++ [(Config.rsaSign m).toNat]) := by
  subst hm
  exact (Dev.spdmAsk_inOrder hc hstarted hwarm hstage _).trans
    ((if_neg (not_not.mpr rfl)).trans (Dev.signing_identified hid _))

/-- A session in handshake is established when the verify data match. -/
theorem Dev.spdmFinish_handshake (hsession : (d.conn c).session = 1) (ok : Bool) : d.spdmFinish c ok =
    if ok then (d.setConn c { d.conn c with session := 2 }).spdmAnswer c rspFinish []
    else (d.setConn c { d.conn c with session := 0 }).spdmError c errDecrypt :=
  (Dev.spdmAsk_inOrder hc hstarted hwarm hstage _).trans (if_neg (not_not.mpr hsession))

theorem Dev.chunkSend_next (hseq : n = (d.conn c).requestSeq) (b : List Byte) : d.chunkSend c n false b =
    (d.setConn c { d.conn c with request := (d.conn c).request ++ b, requestSeq := n + 1 }).spdmAnswer c rspChunkSendAck [n] :=
  (Dev.spdmAsk_inOrder hc hstarted hwarm hstage _).trans (if_neg (not_not.mpr hseq))

theorem Dev.chunkGet_next {x : Spdm} (hx : x = d.conn c) (hreply : x.reply ≠ []) (hseq : n = x.replySeq) : d.chunkGet c n =
    (d.setConn c { x with
      reply := x.reply.drop (Config.spdmChunk + 1)
      replySeq := if x.reply.drop (Config.spdmChunk + 1) = [] then 0 else n + 1 }).spdmAnswer c rspChunk
        ([n, b2n (x.reply.drop (Config.spdmChunk + 1)).isEmpty] ++ x.reply.take (Config.spdmChunk + 1)) := by
  subst hx
  exact (Dev.spdmAsk_inOrder hc hstarted hwarm hstage _).trans (if_neg (not_or.mpr ⟨hreply, not_not.mpr hseq⟩))

theorem Dev.cosign_signed {m : List Nat} (hid : d.sec.identity.isSome = true) (hm : (d.conn c).signed = some m) :
    d.cosign c = d.largeAnswer c ((leBytes 16224 (Config.slhSign m).toNat).map BitVec.toNat) := by
  rw [Dev.cosign, Dev.spdmAsk_inOrder hc hstarted hwarm hstage]
  simp only [hm, Dev.signing_identified hid]

theorem Dev.cosign_unsigned (hm : (d.conn c).signed = none) : d.cosign c = d.spdmError c errUnexpectedRequest := by
  rw [Dev.cosign, Dev.spdmAsk_inOrder hc hstarted hwarm hstage]
  simp only [hm]

end Answers

/-! ### IDE keys (R327, R405) -/

section Ide

variable {q k : Nat} (hq : q < 4) (hstarted : d.sec.started = true) (hwarm : d.res.warm = none) (hstage : 3 ≤ (d.conn q).stage)
include hq hstarted hwarm hstage

theorem Dev.ideKm_asked (hk : k < 5) (on : Bool) : d.ideKm q k on =
    if (d.conn q).session ≠ 2 then d.spdmError q errUnexpectedRequest
    else if k = 0 then d.fset F.hptPortStatusLinkIde q (b2n on)
    else d.fset F.hptPortStatusSelIde q (if on then d.fget F.hptPortStatusSelIde q ||| 2 ^ (k - 1)
      else d.fget F.hptPortStatusSelIde q &&& (15 - 2 ^ (k - 1))) :=
  (if_neg (not_or.mpr ⟨Nat.not_le.mpr hq, Nat.not_le.mpr hk⟩)).trans
    (Dev.spdmAsk_inOrder (Nat.lt_succ_of_lt hq) hstarted hwarm hstage _)

theorem Dev.ideKm_noSession (hk : k < 5) (hsession : (d.conn q).session ≠ 2) (on : Bool) :
    d.ideKm q k on = d.spdmError q errUnexpectedRequest := by
  rw [Dev.ideKm_asked hq hstarted hwarm hstage hk, if_pos hsession]

variable (hsession : (d.conn q).session = 2)
include hsession

theorem Dev.ideKm_link (on : Bool) : d.ideKm q 0 on = d.fset F.hptPortStatusLinkIde q (b2n on) := by
  rw [Dev.ideKm_asked hq hstarted hwarm hstage (by decide), if_neg (not_not.mpr hsession), if_pos rfl]

theorem Dev.ideKm_selective (hk : k < 5) (hsel : k ≠ 0) : d.ideKm q k true =
    d.fset F.hptPortStatusSelIde q (d.fget F.hptPortStatusSelIde q ||| 2 ^ (k - 1)) := by
  rw [Dev.ideKm_asked hq hstarted hwarm hstage hk, if_neg (not_not.mpr hsession), if_neg hsel, if_pos rfl]

end Ide

/-- Settles O54: a request is answered in its stage, by what its connection, its identity and its session hold. -/
theorem attestation : Obligations.Attestation := by
  unfold Obligations.Attestation
  simp only [exec_getVersion, execGetVersion, exec_getCapabilities, execGetCapabilities, exec_negotiateAlgorithms,
    execNegotiateAlgorithms, exec_getDigests, execGetDigests, exec_getCertificate, execGetCertificate, exec_challenge, execChallenge,
    exec_getMeasurements, execGetMeasurements, exec_keyExchange, execKeyExchange, exec_finish, execFinish, exec_chunkSend,
    execChunkSend, exec_chunkGet, execChunkGet, exec_cosign, execCosign, exec_getSlhChain, execGetSlhChain, exec_ideKm, execIdeKm,
    onDev_eq]
  refine ⟨?version, ?notStarted, ?capabilities, ?algorithms, ?early, ?digests, ?certificate, ?challenge, ?unidentified, ?measurement,
    ?unknown, ?keyExchange, ?finish, ?chunkSend, ?chunkGet, ?cosign, ?unsigned, ?slhChain, ?selective, ?link, ?noSession⟩
  case version =>
    intro s c hc hstarted hwarm
    rw [Dev.getVersion_answered hc hstarted hwarm]
  case notStarted =>
    intro s c hstarted
    rw [Dev.getVersion, Dev.spdmAsk_notStarted hstarted]
  case capabilities =>
    intro s c hc hstarted hwarm hstage
    rw [Dev.getCapabilities_answered hc hstarted hwarm hstage]
  case algorithms =>
    intro s c n hc hstarted hwarm hstage
    rw [Dev.negotiate_answered hc hstarted hwarm hstage]
  case early =>
    intro s c n hc hstarted hwarm hstage
    rw [Dev.negotiate_early hc hstarted hwarm hstage]
  case digests =>
    intro s c hc hstarted hwarm hstage hflash
    rw [Dev.getDigests_answered hc hstarted hwarm hstage hflash]
  case certificate =>
    intro s c o n p hc hstarted hwarm hstage hflash hp
    refine ⟨fun ho => ?_, fun ho => ?_⟩
    · rw [Dev.getCertificate_answered hc hstarted hwarm hstage hflash hp ho]
    · rw [Dev.getCertificate_beyond hc hstarted hwarm hstage ho]
  case challenge =>
    intro s c m hc hstarted hwarm hstage hid hm
    rw [Dev.challenge_signed hc hstarted hwarm hstage hid hm]
  case unidentified =>
    intro s c hc hstarted hwarm hstage hid
    rw [Dev.challenge_unidentified hc hstarted hwarm hstage hid]
  case measurement =>
    intro s c i hc hstarted hwarm hstage hlow hhigh
    rw [Dev.getMeasurements_one hc hstarted hwarm hstage hlow hhigh]
  case unknown =>
    intro s c i sg hc hstarted hwarm hstage hhigh hnotAll
    rw [Dev.getMeasurements_unknown hc hstarted hwarm hstage hhigh hnotAll]
  case keyExchange =>
    intro s c m hc hstarted hwarm hstage hid hm
    rw [Dev.keyExchange_signed hc hstarted hwarm hstage hid hm]
  case finish =>
    intro s c hc hstarted hwarm hstage hsession
    simp only [Dev.spdmFinish_handshake hc hstarted hwarm hstage hsession, if_true, Bool.false_eq_true, if_false, and_self]
  case chunkSend =>
    intro s c n b hc hstarted hwarm hstage hseq
    rw [Dev.chunkSend_next hc hstarted hwarm hstage hseq]
  case chunkGet =>
    intro s c n x hc hstarted hwarm hx hstage hreply hseq
    rw [Dev.chunkGet_next hc hstarted hwarm (hx ▸ hstage) hx hreply hseq]
  case cosign =>
    intro s c m hc hstarted hwarm hstage hid hm
    rw [Dev.cosign_signed hc hstarted hwarm hstage hid hm]
  case unsigned =>
    intro s c hc hstarted hwarm hstage hm
    rw [Dev.cosign_unsigned hc hstarted hwarm hstage hm]
  case slhChain =>
    intro s c hc hstarted hwarm hstage hflash
    rw [Dev.getSlhChain_answered hc hstarted hwarm hstage hflash]
  case selective =>
    intro s q k hq hk hstarted hwarm hstage hsession hsel
    rw [Dev.ideKm_selective hq hstarted hwarm hstage hsession hk hsel]
  case link =>
    intro s q on hq hstarted hwarm hstage hsession
    rw [Dev.ideKm_link hq hstarted hwarm hstage hsession]
  case noSession =>
    intro s q k on hq hk hstarted hwarm hstage hsession
    rw [Dev.ideKm_noSession hq hstarted hwarm hstage hk hsession]

end Sys2Proof.Machine
end
